-- ==== Sys2Proof/Word.lean ====
section
/-!
DEFINITION. The words of the part: bytes, 32-bit registers, 64-bit ticks and counters (R13, R40), and
nothing else. Everything a test could show wrong (bit fields, byte orders) is in Machine/Bits.lean.
-/
namespace Sys2Proof

/-- A byte. -/
abbrev Byte := BitVec 8

/-- A 32-bit register (R13). -/
abbrev Word := BitVec 32

/-- A 64-bit value: a tick number, a time in seconds, a counter of that width. -/
abbrev DWord := BitVec 64

end Sys2Proof
end

