-- ==== Sys2Proof/Syntax.lean ====
section
/-!
DEFINITION. The commands of the block: ONE inductive, one constructor per row of spec/opcode_table.json, with
the row's operands. The operands of an arrival or a physical event are what arrives; the operands of a register
command are the window and the value written.
-/
namespace Sys2Proof

/-- Where a register access comes from (R14, R396): the unprivileged window, the privileged window, or the
control cores. -/
inductive Win where
  | bar0 | bar2 | core
  deriving DecidableEq, Repr

/-- What the storage holds in one protected word after an upset (R163): an error the code corrects, or one it
only detects. -/
inductive EccKind where
  | ce | ue
  deriving DecidableEq, Repr

/-- The physical facts of the tick that ends at a boundary, which no rule of the part decides: they arrive from
outside with TICK_BOUNDARY. -/
structure TickEnv where
  /-- H1's counter less H0's, in time-counter cycles, as compared at the boundary (R41). -/
  followerErr : Int := 0
  /-- The largest offset of a die's boundary from the master's, in arithmetic clocks (R41). -/
  skewClk : Nat := 0
  /-- The clocks each field die delivered in the tick, used where its level changed within it (R43, R435). -/
  clocks : List Nat := []
  /-- Flits retried at link level in the tick, a link at a time: (register FLD_D2D_RETRY of one of its ends, count) (R36). -/
  retries : List (Nat × Nat) := []
  /-- Storage errors that arose in the tick: (protected word's storage key, kind) (R163). -/
  upsets : List (Nat × EccKind) := []
  /-- Error wires that stopped asserting in the tick (R374). -/
  wiresOff : BitVec 21 := 0
  /-- Stack temperatures reported in the tick: (stack, °C) (R438). -/
  stackTemps : List (Nat × Nat) := []
  /-- Corrected symbols counted by a lane in the tick: (port code of LDLV_IDX × 8 + lane × 2 + receive, count) (R279). -/
  laneErrs : List (Nat × Nat) := []
  /-- Fabric transfers whose receipt the far end acknowledged in the tick, by their numbers (R141). -/
  fabAcks : List Nat := []
  deriving DecidableEq, Repr

/-- The SNAP_READY notice of the local job (R26). -/
structure SnapReady where
  job : BitVec 16
  shard : BitVec 16
  site : Byte
  round : BitVec 48
  baseRound : BitVec 48
  steps : Word
  length : DWord
  deriving DecidableEq, Repr


/-- What a CMIS poll of a module read (R304, R305): its presence (MODPRS_N) and module state, whether it advertises the
Brynraec steered application, the laser bias, the set-point and slope of page C0h, page 00h, and the pre-FEC bit error ratio in 10⁻¹². -/
structure CmisPoll where
  present : Bool
  ready : Bool := false
  steered : Bool := false
  bias : BitVec 16 := 0
  setPoint : BitVec 16 := 0
  slope : Int := 0
  page00 : List Byte := []
  preFec : Nat := 0
  lower : List Byte := []
  page02 : List Byte := []
  page04 : List Byte := []
  deriving DecidableEq, Repr


/-- How a site message reached this WG9 (R323): its source site, its message count, the site it is for, the port; and the ARITH_REV that the
sender's attestation report names (R101, 228). -/
structure SiteHdr where
  site : Byte
  count : Nat
  dest : Byte
  port : Fin 7
  arithRev : Word := 0x00410001
  deriving DecidableEq, Repr

/-- A round accepted and not committed, as a JOIN carries it (R323): round, epoch, digest. -/
structure Accepted where
  round : BitVec 48
  epoch : Word
  digest : DWord
  deriving DecidableEq, Repr

/-- A promise copied to the alternate guidon (R322): of an ACCEPT or a JOIN. -/
structure Promise where
  accept : Bool
  epoch : Word
  round : BitVec 48
  digest : DWord
  deriving DecidableEq, Repr

/-- KEX_CERT (R426): the sender's identity and attestation public keys, ATT_CERT with the ATT_GEN it covers, device certificate
with the serial number it covers. -/
structure KexCert where
  idKey : List Byte
  attKey : List Byte
  attCert : List Byte
  attGen : Word
  devCert : List Byte
  serial : DWord
  deriving DecidableEq, Repr

/-- KEX_INIT (R426), beside the module and direction it names. -/
structure KexInit where
  epoch : Word
  site : Byte
  chan : Byte
  nonce : List Byte
  ek : List Byte
  attGen : Word
  arithRev : Word
  owner : List Byte
  signature : List Byte
  deriving DecidableEq, Repr

/-- KEX_REPLY (R426). -/
structure KexReply where
  epoch : Word
  init : List Byte
  ct : List Byte
  attGen : Word
  arithRev : Word
  owner : List Byte
  signature : List Byte
  deriving DecidableEq, Repr
/-- The commands: one constructor per row of the table. -/
inductive Instr where
  /-- TICK_BOUNDARY (R40): A cadence tick boundary is emitted from the time counter; per-tick work such as budgets, admission, credits and refills runs at it. -/
  | tickBoundary (env : TickEnv)
  /-- TICK_NOW_LO_READ (R43): A read of TICK_NOW_LO returns the low tick bits and latches the high bits into TICK_NOW_HI. -/
  | tickNowLoRead (w : Win)
  /-- TIME_NOW_NS_READ (R352): A read of TIME_NOW_NS returns the nanoseconds and latches the fraction and seconds for the same window. -/
  | timeNowNsRead (w : Win) (elapsed : Nat)
  /-- LFRM_SEQ_LO_READ (R241): A read of an LFRM sequence LO register returns the low bits and latches the HI register. -/
  | lfrmSeqLoRead (w : Win) (md : Fin 2) (rx : Bool)
  /-- READ_CLEAR (R14): An RC register is read through BAR2; it returns the value and clears it. -/
  | readClear (w : Win) (page : BitVec 12) (off : BitVec 12)
  /-- REGISTER_WRITE (R14): A write to a register that has no row of its own takes effect or is ignored under its access code, window and PRIV_GATE. -/
  | registerWrite (w : Win) (page : BitVec 12) (off : BitVec 12) (size : Nat) (v : DWord)
  /-- D2D_LINK_DEGRADE (R37): A die-to-die link loses a module it cannot repair and narrows to half width, raising D2D_DEGRADE. -/
  | d2dLinkDegrade (die : Fin 8) (link : Fin 3)
  /-- SNAP_READY (R26): The local job's SNAP_READY notice arrives; WG9 checks the base round and step count and answers SNAP_ACCEPT. -/
  | snapReady (msg : SnapReady)
  /-- SNAPSHOT_PULL_START (R29): After member-mode tiles have drained, WG9 rebinds its clusters at the next boundary and phase 1 begins. -/
  | snapshotPullStart
  /-- MEMBER_MODE_REENTER (R29): At the tick boundary after PUSH_DONE has been sent, WG9 re-enters member mode. -/
  | memberModeReenter
  /-- STRM_DB (R58): A doorbell moves a stream's submission tail, or is ignored as stray or overrun. -/
  | strmDb (w : Win) (v : Word)
  /-- DESC_FETCH (R59): WG9 fetches a submitted descriptor in ring order and checks it; a failing descriptor completes REFUSED_POLICY. -/
  | descFetch (slot : BitVec 12)
  /-- OPEN (R73): STRM_CMD OPEN checks a stream open record in order and opens the stream or refuses it. -/
  | openStream (w : Win)
  /-- CLOSE (R74): STRM_CMD CLOSE puts a stream into CLOSING so that its submitted descriptors run out. -/
  | closeStream (w : Win) (slot : BitVec 12)
  /-- STREAM_CLOSE_DONE (R74): The last descriptor of a CLOSING stream completes; WG9 returns the hop queues and frees the slot. -/
  | streamCloseDone (slot : BitVec 12)
  /-- ARM (R71): STN_ARM_CMD ARM checks a station map and arms it or refuses it. -/
  | arm (w : Win)
  /-- CANCEL (R71): STN_ARM_CMD CANCEL discards the armed map. -/
  | cancel (w : Win)
  /-- CLUSTER_REBIND (R71): A cluster whose role changes takes its new role at the first boundary at which it has no tile in flight. -/
  | clusterRebind (die : Fin 8) (cluster : Fin 40)
  /-- CRING_CFG_WRITE (R64): A write of CRING_CFG configures a completion ring or is refused while a ring is in use; setting VALID resets the ring. -/
  | cringCfgWrite (w : Win) (v : Word)
  /-- CRING_HEAD_WRITE (R64): The driver moves a completion ring's head, which frees slots so that held completions can be written. -/
  | cringHeadWrite (w : Win) (v : Word)
  /-- GEMM (R125): A MATRIX hop computes exact dot products D = A × B for a member tile. -/
  | gemm (slot : BitVec 12) (seq : BitVec 48)
  /-- PROJ_LEFT (R115): A MATRIX hop accumulates LP += Δ·Y for a tile's elements. -/
  | projLeft (slot : BitVec 12) (seq : BitVec 48)
  /-- PROJ_RIGHT (R115): A MATRIX hop accumulates QP += Δᵀ·LO for a tile's elements. -/
  | projRight (slot : BitVec 12) (seq : BitVec 48)
  /-- RESIDUAL (R118): A MATRIX hop writes the new error-feedback residual of a tile's elements. -/
  | residual (slot : BitVec 12) (seq : BitVec 48)
  /-- FORM_DELTA (R112): A VECTOR hop forms Δ = θ − s + e, rounds it once to PFMT and writes it to scratchpad. -/
  | formDelta (slot : BitVec 12) (seq : BitVec 48)
  /-- EXPREC (R117): A VECTOR hop writes the exponent records of a tile per 32-element block. -/
  | exprec (slot : BitVec 12) (seq : BitVec 48)
  /-- QUANT (R117): A VECTOR hop quantises a tile with the agreed shared scales. -/
  | quant (slot : BitVec 12) (seq : BitVec 48)
  /-- GRAM_A (R116): A VECTOR hop accumulates GM += LSᵀ·LS and checks for special granules. -/
  | gramA (slot : BitVec 12) (seq : BitVec 48)
  /-- CHOL (R116): A VECTOR hop computes one 32-column block of the Cholesky factor. -/
  | chol (slot : BitVec 12) (seq : BitVec 48)
  /-- TRSOLVE_A (R116): A VECTOR hop computes rows of LO from LS and LF. -/
  | trsolveA (slot : BitVec 12) (seq : BitVec 48)
  /-- GRAM_B (R116): A VECTOR hop accumulates GM += LOᵀ·LO. -/
  | gramB (slot : BitVec 12) (seq : BitVec 48)
  /-- TRSOLVE_B (R116): A VECTOR hop recomputes rows of LO in place from LF. -/
  | trsolveB (slot : BitVec 12) (seq : BitVec 48)
  /-- APPLY (R119): A VECTOR hop takes the fused Nesterov step on a tile's elements and emits the BF16 parameters. -/
  | applyStep (slot : BitVec 12) (seq : BitVec 48)
  /-- CONVERT (R110): A VECTOR hop converts a member tile between formats. -/
  | convert (slot : BitVec 12) (seq : BitVec 48)
  /-- ADD (R110): A VECTOR hop sums up to four member operands exactly. -/
  | addOp (slot : BitVec 12) (seq : BitVec 48)
  /-- MUL (R110): A VECTOR hop multiplies two member operands. -/
  | mulOp (slot : BitVec 12) (seq : BitVec 48)
  /-- AXPBY (R110): A VECTOR hop computes a·x + b·y for member operands. -/
  | axpby (slot : BitVec 12) (seq : BitVec 48)
  /-- MAXMIN (R110): A VECTOR hop takes the elementwise maximum or minimum of two operands. -/
  | maxmin (slot : BitVec 12) (seq : BitVec 48)
  /-- DRAW_SKETCH (R113): A PROJECT hop draws rows of Ω into scratchpad. -/
  | drawSketch (slot : BitVec 12) (seq : BitVec 48)
  /-- DRAW_START (R113): A PROJECT hop draws rows of the power method's starting factor. -/
  | drawStart (slot : BitVec 12) (seq : BitVec 48)
  /-- FILL (R115): A PROJECT hop passes the carry and replaces its all-zero columns with drawn ones. -/
  | fill (slot : BitVec 12) (seq : BitVec 48)
  /-- PASS (R145): A CODEC hop passes a tile in plain form, unless it is sealed and must be refused. -/
  | pass (slot : BitVec 12) (seq : BitVec 48)
  /-- ENCODE_CUR (R145): A CODEC hop codes a tile with the context's current slot. -/
  | encodeCur (slot : BitVec 12) (seq : BitVec 48)
  /-- ENCODE_SLOT (R145): A CODEC hop codes a tile with a named slot, waiting while that slot is LOADING. -/
  | encodeSlot (slot : BitVec 12) (seq : BitVec 48)
  /-- DECODE (R147): An EXPAND hop decodes a coded tile's blocks raw at DST and fails any block that does not decode. -/
  | decode (slot : BitVec 12) (seq : BitVec 48)
  /-- COLLECTIVE (R215): A REDUCE hop converts, adds, forwards, finishes or places a carrier tile, as the engine chooses. -/
  | collective (slot : BitVec 12) (seq : BitVec 48)
  /-- MAKE (R300): A SEAL batch computes a GMAC tag with a fresh IV and writes the seal record. -/
  | make (slot : BitVec 12) (seq : BitVec 48)
  /-- CHECK (R300): A SEAL batch recomputes the tag with the record's IV and compares it with the record's tag. -/
  | check (slot : BitVec 12) (seq : BitVec 48)
  /-- FABRIC_OUT (R187): A FABRIC out hop cuts a tile into frames and queues them at a fabric port. -/
  | fabricOut (slot : BitVec 12) (seq : BitVec 48)
  /-- LINE_OUT (R267): A LINE out hop queues a tile's transfer frames for the line's bulk loads. -/
  | lineOut (slot : BitVec 12) (seq : BitVec 48)
  /-- HOST_OUT (R182): A HOST out hop queues a tile's frames at the host port. -/
  | hostOut (slot : BitVec 12) (seq : BitVec 48)
  /-- LOAD (R142): CODEC_LD_CMD LOAD checks a table record, builds the tables and sends a C3 table load to the peer. -/
  | load (w : Win) (v : Word)
  /-- UNLOAD (R142): CODEC_LD_CMD UNLOAD empties a slot at both ends under the same checks. -/
  | unload (w : Win) (v : Word)
  /-- TABLE_LOAD_MESSAGE (R142): A peer's table-load message arrives; the inbound slot becomes PENDING, or the load is refused. -/
  | tableLoadMessage (port : Fin 7) (node : BitVec 16) (slot : Fin 8) (gen : Fin 32) (bytes : List Byte)
  /-- TABLE_INSTALL (R142): At a boundary where a PENDING slot holds its buffer and its received count is 0, the table is installed and acknowledged. -/
  | tableInstall (ctx : Fin 128) (slot : Fin 8)
  /-- TABLE_LOAD_ACK (R142): The acknowledgement of a load arrives; the outbound slot becomes READY and the load completes SERVED. -/
  | tableLoadAck (node : BitVec 16) (slot : Fin 8) (gen : Fin 32)
  /-- TABLE_LOAD_REFUSAL (R142): A peer's refusal arrives; the outbound slot is emptied and the load completes REFUSED_POLICY. -/
  | tableLoadRefusal (node : BitVec 16) (slot : Fin 8) (gen : Fin 32)
  /-- LOAD_TIMEOUT (R142): No acknowledgement arrives within CODEC_LD_TMO; the slot is emptied and the load completes AGED_OUT. -/
  | loadTimeout
  /-- CODEC_CTX_CFG_WRITE (R139): A write binds, unbinds or changes a codec context or its current slot, or is refused. -/
  | codecCtxCfgWrite (w : Win) (v : Word)
  /-- REGION_WRITE (R162): REG_CMD WRITE checks the region shadow and schedules the entry change, or refuses it. -/
  | regionWrite (w : Win)
  /-- REGION_READ (R162): REG_CMD READ loads the shadow registers from a region entry at once. -/
  | regionRead (w : Win)
  /-- OUTER_GATE_WRITE (R161): A write of REG_OUTER_GATE opens or closes the outer gate from the next boundary; an opening write is refused while the site is DIPPED. -/
  | outerGateWrite (w : Win) (v : Word)
  /-- PATROL_SCRUB (R166): A scrub read checks one HBM access, corrects correctable errors and raises HBM_UE for uncorrectable ones. -/
  | patrolScrub (stack : Fin 16)
  /-- ALLOC (R172): POOL_CMD ALLOC takes a buffer, falling back to larger pools. -/
  | alloc (w : Win) (v : Word)
  /-- ADDREF (R173): POOL_CMD ADDREF adds to a buffer's reference count. -/
  | addref (w : Win) (v : Word)
  /-- RELEASE (R172): POOL_CMD RELEASE decrements a buffer's count and frees the buffer at 0. -/
  | release (w : Win) (v : Word)
  /-- QUERY (R173): POOL_CMD QUERY returns a buffer's count and state bit. -/
  | query (w : Win) (v : Word)
  /-- REBUILD (R176): POOL_CMD REBUILD starts re-threading a segment's free list from its bitmap. -/
  | rebuild (w : Win) (v : Word)
  /-- REBUILD_DONE (R176): A segment rebuild ends; the segment is unfrozen and REBUILT is set. -/
  | rebuildDone (pool : Fin 5) (seg : Fin 8)
  /-- FABRIC_FRAME_RX (R188): A frame arrives on a fabric port; it is checked, policed, handed to PTP or reassembled into a landing transfer. -/
  | fabricFrameRx (port : Fin 7) (bytes : List Byte)
  /-- PAUSE_RX (R186): A fabric peer's priority flow-control pause stops or resumes a priority at that port. -/
  | pauseRx (port : Fin 4) (prio : Fin 8) (on : Bool)
  /-- FRAME_EGRESS (R197): A port's scheduler picks the next frame by class and subscriber and sends it. -/
  | frameEgress (port : Fin 7)
  /-- FRAME_AGE_OUT (R195): A queued frame passes its class age limit and its transfer is discarded. -/
  | frameAgeOut (port : Fin 7) (cls : Fin 8)
  /-- GRANT (R200): A GRANT arrives and allows the sender to send one tile. -/
  | grant (port : Fin 7) (bytes : List Byte)
  /-- GCL_LOAD (R203): SCHED_GCL_CMD LOAD checks a gate list and loads it into the pending bank. -/
  | gclLoad (w : Win) (v : Word)
  /-- GCL_OFF (R203): SCHED_GCL_CMD OFF removes the active gate list at the next boundary. -/
  | gclOff (w : Win) (v : Word)
  /-- SUB_RELOAD (R190): SCHED_SUB_IDX RELOAD rereads a subscriber record, which takes effect at the next boundary. -/
  | subReload (w : Win) (v : Word)
  /-- GROUP_ENABLE (R216): GRP_CMD ENABLE checks a group and enables it. -/
  | groupEnable (w : Win)
  /-- GROUP_DISABLE (R216): GRP_CMD DISABLE stops new requests of a group and lets active ones finish. -/
  | groupDisable (w : Win)
  /-- GROUP_RELOAD (R216): GRP_CMD RELOAD checks a group again and installs its new member list and epoch. -/
  | groupReload (w : Win)
  /-- COLL_DB (R217): A doorbell moves the collective request ring's tail. -/
  | collDb (w : Win) (v : Word)
  /-- EXCHANGE (R219): A fetched EXCHANGE request combines exponent records and counts across the group. -/
  | exchange
  /-- ALL_REDUCE (R219): A fetched ALL_REDUCE request runs the reduce halves, FINISH and the gather halves. -/
  | allReduce
  /-- REDUCE_SCATTER (R219): A fetched REDUCE_SCATTER request reduces and leaves each member its own part. -/
  | reduceScatter
  /-- ALL_GATHER (R219): A fetched ALL_GATHER request concatenates the members' inputs at every member. -/
  | allGather
  /-- BROADCAST (R219): A fetched BROADCAST request delivers the root's input to every member. -/
  | broadcast
  /-- ALL_TO_ALL (R219): A fetched ALL_TO_ALL request exchanges equal blocks between all members. -/
  | allToAll
  /-- ALL_TO_ALL_V (R219): A fetched ALL_TO_ALL_V request exchanges blocks of sizes given by COUNTS. -/
  | allToAllV
  /-- ALL_MAX (R219): A fetched ALL_MAX request reduces by exact maximum. -/
  | allMax
  /-- ALL_MIN (R219): A fetched ALL_MIN request reduces by exact minimum. -/
  | allMin
  /-- EXPONENT_RECORD_MESSAGE (R221): A member's C3 exponent records and counts arrive and are combined, or raise WINDOW_MISMATCH or GROUP_EPOCH. -/
  | exponentRecordMessage (node : BitVec 16) (group : BitVec 12) (bytes : List Byte)
  /-- CHECK_MESSAGE (R227): An owner's chunk check arrives; the receiver compares it with its own recomputation and acknowledges or raises CHUNK_CORRUPT. -/
  | checkMessage (node : BitVec 16) (group : BitVec 12) (round : BitVec 48) (chunk : DWord) (crc : DWord)
  /-- CHECK_ACK (R227): A receiver's acknowledgement of a chunk check arrives at the owner. -/
  | checkAck (node : BitVec 16) (group : BitVec 12) (round : BitVec 48) (chunk : DWord)
  /-- CHECK_TIMEOUT (R227): A chunk check or acknowledgement is still missing after COLL_CHK_TMO, and CHUNK_CORRUPT is raised. -/
  | checkTimeout
  /-- RECHECK (R228): Before a commit record is offered, the engine recomputes every held result chunk's check. -/
  | recheck
  /-- ABORT (R232): COLL_CMD ABORT ends every request and carrier tile of a round and releases its accumulators. -/
  | abort (w : Win)
  /-- ABORT_ANNOUNCE (R232): A C1 abort announcement arrives and the member's Mirder aborts the round at its own WG9. -/
  | abortAnnounce (round : BitVec 48)
  /-- ROUND_REPLAY (R233): Mirder replays an aborted round from the last commit, or holds the job at REPLAY_LIMIT. -/
  | roundReplay
  /-- LINE_FRAME_TX (R241): At each frame position a module sends a line frame with pennant, body, trailer, seal and signal-channel byte. -/
  | lineFrameTx (md : Fin 2) (sc : Byte)
  /-- LINE_FRAME_RX (R246): A received line frame is delineated and verified; its privileged slots, load and ACK_MAP are processed. -/
  | lineFrameRx (md : Fin 2) (bytes : List Byte)
  /-- REACQUIRE_TIMEOUT (R249): SYNC is not reached within 6 ticks of a steering boundary, and LOF is declared. -/
  | reacquireTimeout (md : Fin 2)
  /-- SECOND_CLASSIFY (R257): 10 s after a TAI second ends it is classified into the performance bins, and a bin that has ended closes. -/
  | secondClassify (md : Fin 2)
  /-- CLEAR_CUR (R257): LFRM_PM_CMD CLEAR_CUR clears both current bins and marks them SUSPECT. -/
  | clearCur (w : Win) (md : Fin 2)
  /-- RTO_EXPIRE (R272): A transmission's retransmit timer expires; the load is re-armed or repeated. -/
  | rtoExpire (md : Fin 2) (dir : Fin 4)
  /-- LOAD_ABANDON (R274): A load exceeds LDLV_ABANDON ticks unsettled and is abandoned. -/
  | loadAbandon (md : Fin 2) (dir : Fin 4)
  /-- HELD_LOAD_RELEASE (R270): A held load moves into cells once the cells it needs lie above RSV. -/
  | heldLoadRelease (md : Fin 2) (dir : Fin 4)
  /-- LANE_LOCK_LOSS (R279): A host lane loses lock; it goes DOWN and may be held for flapping. -/
  | laneLockLoss (port : Fin 6) (lane : Fin 4) (rx : Bool)
  /-- LANE_HOLD_EXPIRE (R281): A HELD lane's 60 s hold ends and the lane becomes DEGRADED. -/
  | laneHoldExpire (port : Fin 6) (lane : Fin 4) (rx : Bool)
  /-- LANE_MESSAGE (R280): A C2 LANE message arrives naming the tick at which the sender changes its frame rate. -/
  | laneMessage (md : Fin 2) (lanes : Fin 5) (tick : DWord)
  /-- LDLV_LANE_CMD_WRITE (R282): A write of LDLV_LANE_CMD returns the DEGRADED lanes it names to service. -/
  | ldlvLaneCmdWrite (w : Win) (v : Word)
  /-- INSTALL (R288): LCIPH_CMD INSTALL puts a line key and its epoch into a slot. -/
  | install (w : Win) (v : Word)
  /-- SWITCH (R289): LCIPH_CMD SWITCH makes a READY transmit slot CURRENT at the next frame whose sequence is a multiple of 8. -/
  | switchKey (w : Win) (v : Word)
  /-- RETIRE (R292): LCIPH_CMD RETIRE erases a receive slot. -/
  | retire (w : Win) (v : Word)
  /-- ERASE (R297): LCIPH_CMD ERASE erases both slots of a pair. -/
  | erase (w : Win) (v : Word)
  /-- KEY_RETIREMENT (R292): A RETIRING transmit key is both covered and aged; it is erased and RETIRED is set. -/
  | keyRetirement (md : Fin 2) (dir : Fin 4)
  /-- KEY_RETIRE (R292): A far Mirder's C2 KEY_RETIRE message arrives and the receive slot is retired. -/
  | keyRetire (md : Fin 2) (dir : Fin 4) (slot : Fin 2) (epoch : Word)
  /-- SEAL_INSTALL (R301): SEAL_CMD INSTALL puts a SEAL key and its starting counter into a slot, subject to the high-water mark. -/
  | sealInstall (w : Win) (v : Word)
  /-- SEAL_ERASE (R301): SEAL_CMD ERASE erases a SEAL key slot. -/
  | sealErase (w : Win) (v : Word)
  /-- COMMAND_FRAME (R306): Each microsecond WG9 sends a Semaphore command frame carrying light, fine offset and GO bits. -/
  | commandFrame (md : Fin 2)
  /-- MONITOR_FRAME (R308): A Semaphore monitor frame arrives and updates port state, LOS and the identity checks. -/
  | monitorFrame (md : Fin 2) (bytes : List Byte)
  /-- LOCK_LOOP_UPDATE (R309): Every 10 µs the fine wavelength-lock loop updates and judges lock. -/
  | lockLoopUpdate (md : Fin 2)
  /-- TUNING_COMPLETE (R311): The module reports coarse tuning complete and acquisition moves to FINE. -/
  | tuningComplete (md : Fin 2)
  /-- ACQUISITION_TIMEOUT (R311): An acquisition attempt does not reach LIT within OCU_ACQ_TMO. -/
  | acquisitionTimeout (md : Fin 2)
  /-- ACQUIRE (R311): OCU_CMD ACQUIRE starts an acquisition. -/
  | acquire (w : Win) (v : Word)
  /-- DARK (R311): OCU_CMD DARK turns the light off without automatic re-acquisition. -/
  | dark (w : Win) (v : Word)
  /-- CLEAR (R312): OCU_CMD CLEAR clears the named failed directions and their attempt counts. -/
  | clearFailed (w : Win) (v : Word)
  /-- PUSH (R313): OCU_STEER_CMD PUSH queues a steering entry or refuses it. -/
  | push (w : Win) (v : Word)
  /-- FLUSH (R313): OCU_STEER_CMD FLUSH empties both steering queues of a module. -/
  | flush (w : Win) (v : Word)
  /-- STEER_MISS (R313): The module does not report the new direction within 7 µs of a GO, which is handled as a mismatch. -/
  | steerMiss (md : Fin 2) (side : Bool)
  /-- CMIS_GO (R305): OCU_CMIS_CMD GO starts Mirder's CMIS access, or refuses writes to pages the OCU owns. -/
  | cmisGo (w : Win) (v : Word)
  /-- CMIS_ACCESS_DONE (R305): A two-wire CMIS access ends and its result is posted. -/
  | cmisAccessDone (md : Fin 2) (ok : Bool) (data : Byte)
  /-- CMIS_POLL (R305): Every 100 ms the OCU reads module state, monitors and signal quality. -/
  | cmisPoll (md : Fin 2) (poll : CmisPoll)
  /-- BEACON_SEND (R323): Every 125 ticks a guidon sends a BEACON to every guidon. -/
  | beaconSend
  /-- BEACON (R323): A BEACON arrives, making its site reachable and checking TAB_CRC. -/
  | beacon (h : SiteHdr) (crc : DWord) (joined : Word) (committed : BitVec 48) (grant : Option DWord)
  /-- SITE_UNREACHABLE (R323): No BEACON from a site arrives for LOSS_TICKS; it becomes unreachable, which may lead to a proposal or a dip. -/
  | siteUnreachable (site : BitVec 8)
  /-- PROPOSE (R326): A PROPOSE arrives at a guidon, which joins when the epoch is higher. -/
  | propose (h : SiteHdr) (epoch : Word) (view : Word)
  /-- JOIN (R326): A JOIN arrives at the proposer, which installs the view once a quorum has joined. -/
  | join (h : SiteHdr) (epoch : Word) (committed : BitVec 48) (acc : Option Accepted)
  /-- VIEW_TIMEOUT (R325): VIEW_TMO passes without a quorum or a higher view, and the guidon proposes. -/
  | viewTimeout
  /-- VIEW (R327): A VIEW message arrives; the WG9 installs the epoch, aborts or commits, reloads its groups and replays. -/
  | view (h : SiteHdr) (epoch : Word) (members : Word) (committed : BitVec 48) (decided : Option (BitVec 48 × DWord)) (swaps : List (BitVec 16 × BitVec 16))
  /-- PROMISE_COPY_ACK (R322): The alternate guidon's acknowledgement of a copied promise arrives, letting the JOIN or ACCEPT be sent. -/
  | promiseCopyAck (p : Promise)
  /-- JOIN_REQ (R333): A dipped site's JOIN_REQ arrives and the lowest-id guidon replies with the committed round. -/
  | joinReq (h : SiteHdr) (committed : BitVec 48) (acc : Option (BitVec 48))
  /-- HEAL_REPLY (R333): The reply to JOIN_REQ arrives; Mirder decides REJOINED, CARRIED or DISCARDED and starts the fetch. -/
  | healReply (h : SiteHdr) (committed : BitVec 48) (digest : Option DWord)
  /-- READY (R328): A WG9's READY with its shard digest arrives at its guidon, which forms the site digest once all shards are ready. -/
  | ready (round : BitVec 48) (epoch : Word) (shard : BitVec 16) (digest : DWord)
  /-- OFFER (R329): An OFFER arrives and the guidon compares digests and accepts on a quorum. -/
  | offer (h : SiteHdr) (round : BitVec 48) (epoch : Word) (digest : DWord) (shards : List DWord)
  /-- ACCEPT (R329): An ACCEPT arrives and the guidon commits once it holds enough ACCEPTs. -/
  | accept (h : SiteHdr) (round : BitVec 48) (epoch : Word) (digest : DWord)
  /-- AGREE_TIMEOUT (R329): AGREE_TMO passes and agreement proceeds on a quorum. -/
  | agreeTimeout
  /-- COMMIT (R329): A COMMIT arrives at a WG9, which records the round, notifies the local job and begins phase 8. -/
  | commit (round : BitVec 48) (epoch : Word)
  /-- HEARTBEAT_SEND (R342): Every 125 ticks a WG9 sends a C1 heartbeat to its guidon and partner. -/
  | heartbeatSend
  /-- HEARTBEAT (R342): A heartbeat arrives from a WG9. -/
  | heartbeat (node : BitVec 16)
  /-- MEMBER_LOST (R342): No heartbeat arrives for 1,250 ticks; the WG9 is lost and a hoist or adoption begins. -/
  | memberLost (node : BitVec 16) (reported : Bool)
  /-- HEALTH_EVAL (R337): Each HLT_EVAL interval Mirder computes the health score and may request an expulsion. -/
  | healthEval
  /-- EXPULSION_REQUEST (R340): An expulsion request reaches the guidon, which grants it within budget or leaves the WG9 at half-mast. -/
  | expulsionRequest (node : BitVec 16) (answer : Option Bool)
  /-- MIRROR_RECEIVE (R344): A partner receives a mirrored chunk or residual tile, checks it, stores it and acknowledges it. -/
  | mirrorReceive (node : BitVec 16) (round : BitVec 48) (resid : Bool) (index : DWord) (crc : DWord) (hdr : List Byte) (data : List Byte)
  /-- MIRROR_ACK (R344): A partner's acknowledgement of a mirrored tile arrives at the data member. -/
  | mirrorAck (resid : Bool) (index : DWord)
  /-- CHANGE_RECORD (R345): A parity member applies a change record to its P or Q unit and acknowledges it. -/
  | changeRecord (node : BitVec 16) (group : Fin 1024) (q : Bool) (position : Fin 8) (unit : DWord) (round : BitVec 48) (delta : List Byte)
  /-- CHANGE_RECORD_ACK (R345): A parity acknowledgement arrives, which may complete the round's protection. -/
  | changeRecordAck (node : BitVec 16) (unit : DWord) (round : BitVec 48) (all : Bool)
  /-- HOIST_SELFTEST_DONE (R347): A spare's hoist self-test ends, leading to LOADING or FAILED. -/
  | hoistSelftestDone (node : BitVec 16) (pass : Bool)
  /-- HOIST_LOAD_DONE (R347): Every unit of the spare's load is acknowledged and the spare becomes READY. -/
  | hoistLoadDone (node : BitVec 16)
  /-- TIME_INCR_NS_WRITE (R353): A write of TIME_INCR_NS commits a new increment, or refuses one beyond 200 ppm. -/
  | timeIncrNsWrite (w : Win) (v : Word)
  /-- SET (R354): TIME_ADJ_CMD SET loads the time counter. -/
  | setTime (w : Win) (elapsed : Nat)
  /-- TIME_ADD (R354): TIME_ADJ_CMD ADD steps the time counter by a signed amount, or refuses the step. -/
  | timeAdd (w : Win) (elapsed : Nat)
  /-- PTP_MESSAGE (R360): A PTP message arrives with its stamp, and Mirder's servo processes it. -/
  | ptpMessage (port : Fin 12) (bytes : List Byte) (stamped : Bool)
  /-- ANNOUNCE_TIMEOUT (R362): The SLAVE port misses announceReceiptTimeout and holdover begins. -/
  | announceTimeout
  /-- HOLDOVER_END (R362): The 30 s holdover after a path step ends and delay exchanges resume. -/
  | holdoverEnd
  /-- HOLD_MAX_EXPIRE (R361): Holdover outlasts TIME_HOLD_MAX; LOCKED clears and TIME_UNLOCK is raised. -/
  | holdMaxExpire
  /-- PULSE_EDGE (R366): The time counter reaches a timed pulse's time and the output fires. -/
  | pulseEdge (pulse : Fin 4)
  /-- TIME_P_CFG_WRITE (R366): A write of EN arms a pulse output, or refuses a configuration outside the limits. -/
  | timePCfgWrite (w : Win) (v : Word)
  /-- FAULT_RECORD (R375): A fault record is raised; it is logged or merged, and reactions and a targeted test are ordered. -/
  | faultRecord (src : BitVec 12) (kind : Byte) (ctx : Byte) (addr : BitVec 48)
  /-- WIRE_ASSERT (R374): An error wire asserts and latches into FLT_WIRE, with its reactions and key erasure. -/
  | wireAssert (wire : Fin 21) (ctx : Byte)
  /-- FLT_WIRE_WRITE (R374): A write of 1 clears a wire latch, which sets again at once while the wire stays asserted. -/
  | fltWireWrite (w : Win) (v : Word)
  /-- FLT_RAISE3_WRITE (R373): Mirder submits a record written to FLT_RAISE0 to FLT_RAISE3. -/
  | fltRaise3Write (w : Win) (v : Word)
  /-- TEST_DONE (R379): A targeted self-test ends and classes the error transient or lasting. -/
  | testDone (src : BitVec 12) (pass : Bool)
  /-- QUIET_PERIOD_END (R380): A source's quiet period passes, the source recovers and its reactions retract. -/
  | quietPeriodEnd (src : BitVec 12)
  /-- IRQ_DB (R382): A message written to IRQ_DB increments a source's counter and sets it pending. -/
  | irqDb (w : Win) (v : Word)
  /-- SERVE_BEGIN (R385): SERVE_BEGIN claims a source and pushes it onto the target's in-service stack. -/
  | serveBegin (w : Win) (v : Word)
  /-- SERVE_END (R385): SERVE_END pops the source from the top of the stack. -/
  | serveEnd (w : Win) (v : Word)
  /-- SPACING_END (R386): A source's spacing interval passes and a latched message sets it pending. -/
  | spacingEnd (src : BitVec 10)
  /-- STUCK_SOURCE (R387): A source is active for STUCK ticks and is stuck-masked. -/
  | stuckSource (src : BitVec 10)
  /-- UNMASK (R387): A write of UNMASK clears STUCK_MASKED when the source is inactive. -/
  | unmask (w : Win) (v : Word)
  /-- WAKE_INPUT (R388): A wake input reaches its active level and its latch sets, sending a message or waking WG9 from P2. -/
  | wakeInput (latch : Fin 22) (active : Bool)
  /-- IRQ_WAKE_WRITE (R388): A write of 1 clears a wake latch, which sets again at once while its input stays active. -/
  | irqWakeWrite (w : Win) (v : Word)
  /-- ENABLE (R401): BLK_CTRL ENABLE moves a block toward RUN, or latches PEND_EN during a drain. -/
  | enable (w : Win) (page : BitVec 12)
  /-- DRAIN (R401): BLK_CTRL DRAIN, or ENABLE = 0, starts a block's drain. -/
  | drain (w : Win) (page : BitVec 12)
  /-- BLOCK_RESET (R402): BLK_CTRL BLOCK_RESET resets a page's registers, or only its counters and events. -/
  | blockReset (w : Win) (page : BitVec 12)
  /-- SELFTEST (R402): BLK_CTRL SELFTEST runs the page's KATs. -/
  | selftest (w : Win) (page : BitVec 12)
  /-- SELFTEST_DONE (R402): A SELFTEST's KATs end and ST_RESULT shows pass or fail. -/
  | selftestDone (page : BitVec 12) (failing : List Nat)
  /-- BLOCK_START_DONE (R401): A block's start work ends and the block enters RUN, or drains when PEND_DIS is set. -/
  | blockStartDone (page : BitVec 12)
  /-- DRAIN_DONE (R401): A block's drain completes and the block reports DRAINED. -/
  | drainDone (page : BitVec 12)
  /-- BLK_LOCK_WRITE (R400): A write of 1 locks a page against BAR2 writes until full reset. -/
  | blkLockWrite (w : Win) (page : BitVec 12) (v : Word)
  /-- FULL_RESET (R412): GLB_CTRL FULL_RESET with its key causes a full reset. -/
  | fullReset (w : Win) (v : Word)
  /-- PERST_N (R411): PERST_N is asserted and holds WG9 in full reset. -/
  | perstN
  /-- CXL_HOT_RESET (R411): A CXL hot reset received on the link causes a full reset. -/
  | cxlHotReset
  /-- GLB_WDOG_WRITE (R410): A control core restarts its watchdog. -/
  | glbWdogWrite (w : Win) (v : Word)
  /-- WATCHDOG_EXPIRE (R410): A control core's watchdog expires, causing a full reset with cause 5. -/
  | watchdogExpire (core : Fin 8)
  /-- CXL_LINK_UP (R392): The CXL link trains up. -/
  | cxlLinkUp (width : Fin 4) (rate : Fin 4)
  /-- CXL_LINK_DOWN (R398): The CXL link goes down; the gate closes and HP's rate falls to 0. -/
  | cxlLinkDown
  /-- HDM_DECODER_COMMIT (R393): The host commits the HDM decoder that maps the CXL_WIN region. -/
  | hdmDecoderCommit
  /-- CXL_MEM_READ (R393): A host CXL.mem read returns data, or poison with an event record. -/
  | cxlMemRead (off : DWord) (n : Fin 65)
  /-- CXL_MEM_WRITE (R393): A host CXL.mem write lands in the window, or is dropped and counted. -/
  | cxlMemWrite (off : DWord) (bytes : List Byte)
  /-- IDE_STOP (R394): An IDE stream stops or fails; with IDE_REQUIRED the gate closes. -/
  | ideStop (mem : Bool) (failed : Bool)
  /-- PRIV_GATE_CLOSE (R398): A write of PRIV_GATE.CLOSE through BAR2 closes the gate. -/
  | privGateClose (w : Win) (v : Word)
  /-- GET_INFO (R405): A mailbox command returns stepping, revision, node, firmware and gate information. -/
  | getInfo (len : BitVec 12)
  /-- AUTH_CHALLENGE (R397): A mailbox command returns a fresh nonce. -/
  | authChallenge (len : BitVec 12)
  /-- AUTH_RESPONSE (R397): A mailbox command verifies the owner's signature and opens PRIV_GATE or refuses. -/
  | authResponse (len : BitVec 12)
  /-- JOB_CREATE (R405): A mailbox command checks and creates a job from its configuration, site and protection tables. -/
  | jobCreate (len : BitVec 12)
  /-- JOB_END (R405): A mailbox command ends the held job at its last commit. -/
  | jobEnd (len : BitVec 12)
  /-- JOB_STATUS (R405): A mailbox command returns the site state, the commit and the round in progress. -/
  | jobStatus (len : BitVec 12)
  /-- TIME_STEP (R355): A mailbox command performs the operator's time step, refused during a round. -/
  | timeStep (len : BitVec 12)
  /-- FW_STAGE (R424): A mailbox command checks a signed image and writes it into the inactive slot. -/
  | fwStage (len : BitVec 12)
  /-- ATTESTATION_REQUEST (R423): A DOE attestation request returns a signed report, or BUSY past the rate limit. -/
  | attestationRequest (nonce : List Byte)
  /-- KEX_CERT (R426): A peer's KEX_CERT with its keys and certificates arrives. -/
  | kexCert (md : Fin 2) (dir : Fin 4) (msg : KexCert)
  /-- KEX_INIT (R427): A KEX_INIT arrives; Z verifies it, encapsulates, installs the receive key and sends KEX_REPLY. -/
  | kexInit (md : Fin 2) (dir : Fin 4) (msg : KexInit)
  /-- KEX_REPLY (R427): A KEX_REPLY arrives; X decapsulates, installs the transmit key and switches. -/
  | kexReply (md : Fin 2) (dir : Fin 4) (msg : KexReply)
  /-- KEX_FAIL (R426): A KEX_FAIL arrives and the agreement is abandoned for retry. -/
  | kexFail (md : Fin 2) (dir : Fin 4) (epoch : Word) (reason : Byte)
  /-- KEX_RETRY (R426): 125,000 ticks after a failure, X retries the agreement. -/
  | kexRetry (md : Fin 2) (dir : Fin 4)
  /-- REKEY_INTERVAL (R427): LCIPH_REKEY_S seconds pass and X starts a new agreement. -/
  | rekeyInterval (md : Fin 2) (dir : Fin 4)
  /-- SEAL_MASTER_EXCHANGE (R428): A WG9 receives the job's SEAL master by ML-KEM exchange and stores it wrapped. -/
  | sealMasterExchange (master : List Byte)
  /-- IMAGE_PROVEN (R425): A new image runs 60 s after Mirder start without a reset, and the SVN floor is raised. -/
  | imageProven
  /-- STARTUP_STEP_END (R439): A start-up step ends and the next begins, or the sequence halts. -/
  | startupStepEnd (micros : BitVec 32) (ok : Bool) (clusters : List Nat) (rows : List Nat)
  /-- PWR_TO_P0 (R432): PWR_REQ GO with target P0 moves WG9 to full power. -/
  | pwrToP0 (w : Win)
  /-- PWR_TO_P1 (R433): PWR_REQ GO with target P1 parks the field dies, or is refused during a round. -/
  | pwrToP1 (w : Win)
  /-- PWR_TO_P2 (R434): PWR_REQ GO with target P2 saves state and drives MAIN_EN low. -/
  | pwrToP2 (w : Win)
  /-- POWER_MOVE_DONE (R432): A power-state move completes and PWR_RES reports SERVED. -/
  | powerMoveDone
  /-- THERMAL_SAMPLE (R435): Every 10 µs a field die samples its sensors and adjusts k_T, or trips. -/
  | thermalSample (die : Fin 8) (temps : List Nat)
  /-- CURRENT_SAMPLE (R436): Every 1 µs VDD_FLD current is sampled, and k_P rises above 1,700 A. -/
  | currentSample (milliamps : Nat)
  /-- POWER_WINDOW_END (R436): At the end of each aligned 1 ms window k_P is raised or lowered from the averages. -/
  | powerWindowEnd (milliwatts : Nat)
  /-- PROMISE_COPY (R322): The alternate guidon receives the C1 copy of a JOIN or ACCEPT promise, keeps it and returns its acknowledgement. -/
  | promiseCopy (p : Promise)
  /-- PERST_N_RELEASE (R443): PERST_N is deasserted and WG9 leaves its hold at step 2 so that start-up proceeds. -/
  | perstNRelease
  /-- POWER_ON (R431): Power is applied from P3 and start-up begins at step 1 with the rail monitors. -/
  | powerOn
  /-- POWER_OFF (R431): All power, VDD_AON included, is removed and WG9 enters P3, keeping only its flash contents. -/
  | powerOff
  /-- IDE_ESTABLISHED (R394): The host programs IDE keys by IDE_KM over DOE and an IDE stream on CXL.io or CXL.mem becomes established, on which PRIV_GATE depends under IDE_REQUIRED. -/
  | ideEstablished (mem : Bool)
  /-- SYNC_INTERVAL (R356): At each of its PTP intervals Mirder sends Sync with Follow_Up, Delay_Req or Announce on its PTP ports and receives their transmit stamps. -/
  | syncInterval (port : Fin 12) (kind : Fin 3)
  /-- TABLE_UNLOAD_MESSAGE (R142): A peer's C3 unload message arrives; the named inbound slot is emptied, its buffer returned and an acknowledgement sent. -/
  | tableUnloadMessage (port : Fin 7) (node : BitVec 16) (slot : Fin 8)
  /-- KEY_RETIRE_ACK (R292): The far Mirder's acknowledgement of a KEY_RETIRE arrives and the near Mirder stops repeating the message. -/
  | keyRetireAck (md : Fin 2) (dir : Fin 4) (slot : Fin 2) (epoch : Word)
  /-- LANE_LOCK_REGAIN (R281): A DOWN host or fabric lane regains lock, which leaves DOWN and lets it lose lock again as R281 counts. -/
  | laneLockRegain (port : Fin 6) (lane : Fin 4) (rx : Bool)
  deriving DecidableEq, Repr

end Sys2Proof
end

