-- ==== Sys2Proof/Decode.lean ====
section
/-!
DEFINITION. The reading of a word as a command. No row of spec/opcode_table.json gives bits: a command arrives as what
it is (a register access, a message, an event), so a word spells none.
-/
namespace Sys2Proof

/-- The command that a word of nbits bits spells by the table: none, since no row of the table gives bits. -/
def decodeTableWord (_nbits _w : Nat) : Option Instr := none

end Sys2Proof
end

