-- ==== Sys2Proof/Machine/Bits.lean ====
section
/-!
DEFINITION. Bit fields, byte orders and the two sorted association lists the state is made of.
Multi-byte fields of registers, descriptors and HBM structures are little-endian, those of the line and of
Simuez headers most significant byte first (R11).
-/
namespace Sys2Proof.Machine

/-- Bits [hi:lo] of a natural number, as a number (R11: bit 0 is the least significant). -/
def bitsOf (v hi lo : Nat) : Nat := (v / 2 ^ lo) % 2 ^ (hi + 1 - lo)

/-- Bit k of a natural number. -/
def bitOf (v k : Nat) : Bool := (v / 2 ^ k) % 2 = 1

/-- A Bool as bit 0. -/
def ofBool (b : Bool) : Nat := if b then 1 else 0

/-- Replace bits [hi:lo] of v by the low bits of x. -/
def putBits (v hi lo x : Nat) : Nat :=
  v - bitsOf v hi lo * 2 ^ lo + (x % 2 ^ (hi + 1 - lo)) * 2 ^ lo

/-- The n low-order bytes of v, least significant first (R11). -/
def bytesLE : Nat → Nat → List Byte
  | 0, _ => []
  | n + 1, v => BitVec.ofNat 8 v :: bytesLE n (v / 256)

/-- The number that bytes spell, least significant first. -/
def ofBytesLE : List Byte → Nat
  | [] => 0
  | b :: t => b.toNat + 256 * ofBytesLE t

/-- The n low-order bytes of v, most significant first (R11: line and Simuez headers). -/
def bytesBE (n v : Nat) : List Byte := (bytesLE n v).reverse

/-- The number that bytes spell, most significant first. -/
def ofBytesBE (l : List Byte) : Nat := ofBytesLE l.reverse

/-- The n bytes from offset off of a byte string, zeros beyond its end. -/
def sliceBytes (l : List Byte) (off n : Nat) : List Byte :=
  let t := (l.drop off).take n
  t ++ List.replicate (n - t.length) 0

/-- A little-endian field of n bytes at offset off of a structure. -/
def leAt (l : List Byte) (off n : Nat) : Nat := ofBytesLE (sliceBytes l off n)

/-- A most-significant-byte-first field of n bytes at offset off of a structure. -/
def beAt (l : List Byte) (off n : Nat) : Nat := ofBytesBE (sliceBytes l off n)

/-- v read as a signed number of w bits. -/
def signedOf (w v : Nat) : Int :=
  let u := v % 2 ^ w
  if u ≥ 2 ^ (w - 1) then (u : Int) - 2 ^ w else u

/-- A signed number as w bits of two's complement. -/
def unsignedOf (w : Nat) (i : Int) : Nat := (i % (2 ^ w : Nat)).toNat

/-! Association lists keyed by numbers, keys strictly rising. -/

/-- The value listed at k, or d. -/
def mapGet {α : Type} (d : α) : List (Nat × α) → Nat → α
  | [], _ => d
  | (a, x) :: t, k => if a = k then x else mapGet d t k

/-- The value listed at k, if any. -/
def mapFind {α : Type} : List (Nat × α) → Nat → Option α
  | [], _ => none
  | (a, x) :: t, k => if a = k then some x else mapFind t k

/-- List v at k, in rising order, replacing what was listed there. -/
def mapPut {α : Type} : List (Nat × α) → Nat → α → List (Nat × α)
  | [], k, v => [(k, v)]
  | (a, x) :: t, k, v =>
    if a = k then (k, v) :: t
    else if k < a then (k, v) :: (a, x) :: t
    else (a, x) :: mapPut t k v

/-- List nothing at k. -/
def mapDel {α : Type} : List (Nat × α) → Nat → List (Nat × α)
  | [], _ => []
  | (a, x) :: t, k => if a = k then mapDel t k else (a, x) :: mapDel t k

/-- Make v what k reads as, where an unlisted key reads as d: the canonical form is kept by listing
nothing equal to d. -/
def mapSet {α : Type} [DecidableEq α] (d : α) (l : List (Nat × α)) (k : Nat) (v : α) : List (Nat × α) :=
  if v = d then mapDel l k else mapPut l k v

/-- The keys rise strictly. -/
def keysRise {α : Type} : List (Nat × α) → Bool
  | [] => true
  | [_] => true
  | (a, _) :: (b, y) :: t => decide (a < b) && keysRise ((b, y) :: t)

/-- Put v at position i of a list in which every position not listed holds d. -/
def setAt {α : Type} (d : α) : List α → Nat → α → List α
  | [], 0, v => [v]
  | [], i + 1, v => d :: setAt d [] i v
  | _ :: t, 0, v => v :: t
  | x :: t, i + 1, v => x :: setAt d t i v

/-- The element at position i, or d. -/
def nthD {α : Type} (d : α) : List α → Nat → α
  | [], _ => d
  | x :: _, 0 => x
  | _ :: t, i + 1 => nthD d t i

/-- Insert into a list of numbers kept rising, without repeats. -/
def insNat : List Nat → Nat → List Nat
  | [], k => [k]
  | a :: t, k => if k = a then a :: t else if k < a then k :: a :: t else a :: insNat t k

end Sys2Proof.Machine
end

