-- ==== Sys2Proof/Machine/Crc.lean ====
section
/-!
DEFINITION. The checks: CRC-32C of headers and trailers (R185, R240), the Ethernet frame check (R188), CRC-64 of chunks
(R226), CRC-16 of the Semaphore port (R307), and the sum of UDP (R186).
-/
namespace Sys2Proof.Machine

/-- Eight steps of a reflected division by a polynomial given reflected. -/
def crcRefl8 (poly : Nat) : Nat → Nat → Nat
  | 0, r => r
  | n + 1, r => crcRefl8 poly n (if r % 2 = 1 then Nat.xor (r / 2) poly else r / 2)

/-- A reflected 32-bit CRC with all-ones start and inverted end. -/
def crc32Of (poly : Nat) (bs : List Byte) : Nat :=
  Nat.xor (bs.foldl (fun r b => crcRefl8 poly 8 (Nat.xor r b.toNat)) 0xFFFFFFFF) 0xFFFFFFFF

/-- CRC-32C, generator 0x1EDC_6F41 (R240). -/
def crc32c (bs : List Byte) : Nat := crc32Of 0x82F63B78 bs

/-- The frame check sequence of Ethernet, generator 0x04C1_1DB7. -/
def crcFcs (bs : List Byte) : Nat := crc32Of 0xEDB88320 bs

/-- Eight steps of a forward division of width w. -/
def crcFwd8 (w poly : Nat) : Nat → Nat → Nat
  | 0, r => r
  | n + 1, r => crcFwd8 w poly n (if r / 2 ^ (w - 1) % 2 = 1 then Nat.xor (r * 2 % 2 ^ w) poly else r * 2 % 2 ^ w)

/-- A forward CRC of width w from a starting value. -/
def crcFwd (w poly start : Nat) (bs : List Byte) : Nat :=
  bs.foldl (fun r b => crcFwd8 w poly 8 (Nat.xor r (b.toNat * 2 ^ (w - 8)))) start

/-- CRC-64 with the ECMA-182 polynomial, from 0 (R226). -/
def crc64 (bs : List Byte) : Nat := crcFwd 64 0x42F0E1EBA9EA3693 0 bs

/-- The ones' complement sum of 16-bit words. -/
def onesSum : List Byte → Nat → Nat
  | [], a => a
  | [x], a => a + x.toNat * 256
  | x :: y :: t, a => onesSum t (a + x.toNat * 256 + y.toNat)

/-- Fold the carries of a ones' complement sum. -/
def foldOnes (a : Nat) : Nat :=
  let b := a % 65536 + a / 65536
  b % 65536 + b / 65536

end Sys2Proof.Machine
end

