-- ==== Sys2Proof/Machine/Crypto.lean ====
section
/-!
DEFINITION. The ciphers and codes of the line and of identity: AES-256-GCM (R285, R299), SHA-256, HMAC and HKDF
(R427, R428), and the Reed-Solomon code of privileged slots (R261, R262).
-/
namespace Sys2Proof.Machine

/-! ### GF(2^8) -/

/-- Eight steps of a carry-less product reduced by a polynomial. -/
def gfStep (poly : Nat) : Nat → Nat → Nat → Nat → Nat
  | 0, _, _, acc => acc
  | n + 1, a, b, acc =>
    let acc' := if b % 2 = 1 then Nat.xor acc a else acc
    let a2 := a * 2
    gfStep poly n (if 256 ≤ a2 then Nat.xor a2 poly else a2) (b / 2) acc'

/-- The product in GF(2^8) under a polynomial. -/
def gfMul (poly a b : Nat) : Nat := gfStep poly 8 a b 0

/-- A power. -/
def gfPow (poly a : Nat) : Nat → Nat
  | 0 => 1
  | n + 1 => gfMul poly a (gfPow poly a n)

/-- The inverse, 0 for 0. -/
def gfInv (poly a : Nat) : Nat := if a = 0 then 0 else
  let sq (x : Nat) := gfMul poly x x
  let a2 := sq a
  let a4 := sq a2
  let a8 := sq a4
  let a16 := sq a8
  let a32 := sq a16
  let a64 := sq a32
  gfMul poly a2 (gfMul poly a4 (gfMul poly a8 (gfMul poly a16 (gfMul poly a32 (gfMul poly a64 (sq a64))))))

/-! ### AES-256 -/

/-- A byte rotated left. -/
def rotl8 (x n : Nat) : Nat := (x * 2 ^ n + x / 2 ^ (8 - n)) % 256

/-- The S-box of a byte. -/
def aesSub (x : Nat) : Nat :=
  let i := gfInv 0x11B x
  Nat.xor (Nat.xor (Nat.xor (Nat.xor i (rotl8 i 1)) (rotl8 i 2)) (Nat.xor (rotl8 i 3) (rotl8 i 4))) 0x63

/-- The S-box as a table. -/
def aesTable : Array Nat := ((List.range 256).map aesSub).toArray

/-- Look the S-box up. -/
def sbox (x : Nat) : Nat := aesTable.getD x 0

/-- Bytewise exclusive or. -/
def xorL (a b : List Nat) : List Nat := List.zipWith Nat.xor a b

/-- The round key words, four bytes each: one more from the last eight. -/
def aesExpand : Nat → Nat → Nat → List (List Nat) → List (List Nat)
  | 0, _, _, ws => ws.reverse
  | n + 1, i, rc, ws =>
    let prev := nthD [] ws 0
    let back := nthD [] ws 7
    let t := if i % 8 = 0 then
        (match prev with | [a, b, c, d] => [Nat.xor (sbox b) rc, sbox c, sbox d, sbox a] | l => l)
      else if i % 8 = 4 then prev.map sbox else prev
    aesExpand n (i + 1) (if i % 8 = 0 then gfMul 0x11B rc 2 else rc) (xorL back t :: ws)

/-- Cut into pieces of n. -/
def cut {α : Type} (n : Nat) : Nat → List α → List (List α)
  | 0, _ => []
  | f + 1, l => if l.isEmpty then [] else l.take n :: cut n f (l.drop n)

/-- Pieces of n, the last one short. -/
def piecesOf {α : Type} (n : Nat) (l : List α) : List (List α) := cut n l.length l

/-- The fifteen round keys of a 256-bit key. -/
def aesKeys (key : List Nat) : List (List Nat) :=
  let ws := (cut 4 8 key).reverse
  (cut 4 15 (aesExpand 52 8 1 ws)).map List.flatten

/-- Rows shifted. -/
def shiftRows (b : List Nat) : List Nat :=
  let a := b.toArray
  (List.range 16).map (fun i => a.getD ((i % 4) + 4 * ((i / 4 + i % 4) % 4)) 0)

/-- Twice a byte in the field of AES. -/
def xtime (a : Nat) : Nat := if 128 ≤ a then Nat.xor (a * 2) 0x11B else a * 2

/-- One column mixed. -/
def mixCol : List Nat → List Nat
  | [a, b, c, d] =>
    let all := Nat.xor (Nat.xor a b) (Nat.xor c d)
    [Nat.xor (Nat.xor a all) (xtime (Nat.xor a b)), Nat.xor (Nat.xor b all) (xtime (Nat.xor b c)),
     Nat.xor (Nat.xor c all) (xtime (Nat.xor c d)), Nat.xor (Nat.xor d all) (xtime (Nat.xor d a))]
  | l => l

/-- Columns mixed. -/
def mixCols (b : List Nat) : List Nat := ((cut 4 4 b).map mixCol).flatten

/-- The rounds. -/
def aesRounds : List (List Nat) → List Nat → List Nat
  | [], b => b
  | [k], b => xorL (shiftRows (b.map sbox)) k
  | k :: t, b => aesRounds t (xorL (mixCols (shiftRows (b.map sbox))) k)

/-- One block. -/
def aesBlock (ks : List (List Nat)) (b : List Nat) : List Nat :=
  match ks with
  | k :: t => aesRounds t (xorL b k)
  | [] => b

/-! ### GCM (NIST SP 800-38D) -/

/-- Bytes as numbers, and back. -/
def natsOf (l : List Byte) : List Nat := l.map BitVec.toNat
/-- Bytes of numbers. -/
def bytesOf (l : List Nat) : List Byte := l.map (BitVec.ofNat 8)

/-- A block as a number. -/
def num128 (b : List Nat) : Nat := (b ++ List.replicate (16 - b.length) 0).foldl (fun a x => a * 256 + x) 0

/-- A number as a block. -/
def blk128 (v : Nat) : List Nat := natsOf (bytesBE 16 v)

/-- The product of GHASH, bit by bit from the first. -/
def ghMul : Nat → Nat → Nat → Nat → Nat
  | 0, _, _, z => z
  | n + 1, x, v, z =>
    ghMul n x (if v % 2 = 1 then Nat.xor (v / 2) 0xE1000000000000000000000000000000 else v / 2)
      (if x / 2 ^ n % 2 = 1 then Nat.xor z v else z)

/-- One step of GHASH. -/
def ghStep (h y : Nat) (b : List Nat) : Nat := ghMul 128 (Nat.xor y (num128 b)) h 0

/-- GHASH of a byte string padded to blocks. -/
def ghRun (h y : Nat) (l : List Nat) : Nat := (piecesOf 16 l).foldl (ghStep h) y

/-- The hash key. -/
def ghKey (ks : List (List Nat)) : Nat := num128 (aesBlock ks (List.replicate 16 0))

/-- The counter block of an IV. -/
def ctrBlock (iv : List Nat) (c : Nat) : List Nat := iv ++ natsOf (bytesBE 4 c)

/-- Counter mode from a counter on. -/
def gctr (ks : List (List Nat)) (iv : List Nat) : Nat → List (List Nat) → List Nat
  | _, [] => []
  | c, b :: t => List.zipWith Nat.xor b (aesBlock ks (ctrBlock iv c)) ++ gctr ks iv (c + 1) t

/-- The tag of a running hash, with the lengths in bytes. -/
def gcmTag (ks : List (List Nat)) (iv : List Nat) (h y alen clen : Nat) : List Nat :=
  let y1 := ghStep h y (natsOf (bytesBE 8 (alen * 8)) ++ natsOf (bytesBE 8 (clen * 8)))
  xorL (blk128 y1) (aesBlock ks (ctrBlock iv 1))

/-- Seal: ciphertext and tag. -/
def gcmSeal (key iv aad pt : List Byte) : List Byte × List Byte :=
  let ks := aesKeys (natsOf key)
  let v := natsOf iv
  let c := gctr ks v 2 (piecesOf 16 (natsOf pt))
  let h := ghKey ks
  let y := ghRun h (ghRun h 0 (natsOf aad)) c
  (bytesOf c, bytesOf (gcmTag ks v h y aad.length pt.length))

/-- Open: the plaintext when the tag verifies. -/
def gcmOpen (key iv aad ct tag : List Byte) : Option (List Byte) :=
  let ks := aesKeys (natsOf key)
  let v := natsOf iv
  let c := natsOf ct
  let h := ghKey ks
  let y := ghRun h (ghRun h 0 (natsOf aad)) c
  if bytesOf (gcmTag ks v h y aad.length ct.length) = tag then some (bytesOf (gctr ks v 2 (piecesOf 16 c))) else none

/-! ### SHA-256, HMAC and HKDF -/

/-- Sum of 32-bit words. -/
def add32 (a b : Nat) : Nat := (a + b) % 4294967296

/-- A 32-bit word rotated right. -/
def rotr32 (x n : Nat) : Nat := x / 2 ^ n + (x % 2 ^ n) * 2 ^ (32 - n)

/-- The greatest r of n binary digits past `r` whose k-th power does not exceed x. -/
def rootDigits (k x : Nat) : Nat → Nat → Nat
  | 0, r => r
  | n + 1, r => rootDigits k x n (if (r + 2 ^ n) ^ k ≤ x then r + 2 ^ n else r)

/-- The first 32 bits of the fraction of a number's k-th root: how FIPS 180-4 obtains the constants of SHA-256. -/
def rootFraction (k v : Nat) : Nat := rootDigits k (v * 2 ^ (32 * k)) 37 0 % 4294967296

/-- The first 64 primes. -/
def hashPrimes : List Nat := (List.range 312).filter (fun v => decide (2 ≤ v) && (List.range 18).all (fun d => decide (d < 2 ∨ v % d ≠ 0 ∨ v = d)))

/-- The round constants: from the cube roots of the primes. -/
def shaK : List Nat := hashPrimes.map (rootFraction 3)

/-- The hash before the first block: from the square roots of the first eight. -/
def shaStart : List Nat := (hashPrimes.take 8).map (rootFraction 2)

/-- The schedule, latest word first. -/
def shaSched : Nat → List Nat → List Nat
  | 0, w => w.reverse
  | n + 1, w =>
    let a := nthD 0 w 14
    let b := nthD 0 w 1
    let s0 := Nat.xor (Nat.xor (rotr32 a 7) (rotr32 a 18)) (a / 8)
    let s1 := Nat.xor (Nat.xor (rotr32 b 17) (rotr32 b 19)) (b / 1024)
    shaSched n (add32 (add32 (nthD 0 w 15) s0) (add32 (nthD 0 w 6) s1) :: w)

/-- One round. -/
def shaRound (v : List Nat) (kw : Nat × Nat) : List Nat :=
  match v with
  | [a, b, c, d, e, f, g, h] =>
    let s1 := Nat.xor (Nat.xor (rotr32 e 6) (rotr32 e 11)) (rotr32 e 25)
    let ch := Nat.xor (Nat.land e f) (Nat.land (0xFFFFFFFF - e) g)
    let t1 := add32 (add32 h s1) (add32 ch (add32 kw.1 kw.2))
    let s0 := Nat.xor (Nat.xor (rotr32 a 2) (rotr32 a 13)) (rotr32 a 22)
    let maj := Nat.xor (Nat.xor (Nat.land a b) (Nat.land a c)) (Nat.land b c)
    [add32 t1 (add32 s0 maj), a, b, c, add32 d t1, e, f, g]
  | l => l

/-- One block. -/
def shaBlock (h : List Nat) (b : List Byte) : List Nat :=
  let w := shaSched 48 ((piecesOf 4 b).map ofBytesBE).reverse
  List.zipWith add32 h ((shaK.zip w).foldl shaRound h)

/-- SHA-256. -/
def sha256 (m : List Byte) : List Byte :=
  let n := m.length
  let z := (119 - n % 64) % 64
  let p := m ++ [0x80] ++ List.replicate z 0 ++ bytesBE 8 (n * 8)
  ((piecesOf 64 p).foldl shaBlock shaStart).flatMap (bytesBE 4)

/-- HMAC-SHA-256. -/
def hmac256 (key m : List Byte) : List Byte :=
  let k := (fun x : List Byte => x ++ List.replicate (64 - x.length) 0) (if 64 < key.length then sha256 key else key)
  sha256 (k.map (· ^^^ 0x5C) ++ sha256 (k.map (· ^^^ 0x36) ++ m))

/-- HKDF expansion to at most n blocks of 32 bytes. -/
def hkdfExpand (prk info : List Byte) : Nat → Nat → List Byte → List Byte
  | 0, _, _ => []
  | n + 1, i, prev =>
    let t := hmac256 prk (prev ++ info ++ [BitVec.ofNat 8 i])
    t ++ hkdfExpand prk info n (i + 1) t

/-- HKDF-SHA-256: len bytes. -/
def hkdf (salt ikm info : List Byte) (len : Nat) : List Byte :=
  (hkdfExpand (hmac256 salt ikm) info ((len + 31) / 32) 1 []).take len

/-! ### Reed-Solomon (R261, R262) -/

/-- The product in the code's field. -/
def rsMul (a b : Nat) : Nat := gfMul 0x11D a b
/-- α to a power. -/
def rsPow (n : Nat) : Nat := gfPow 0x11D 2 (n % 255)

/-- Polynomials are coefficient lists, the lowest power first. The sum. -/
def polyAdd : List Nat → List Nat → List Nat
  | [], b => b
  | a, [] => a
  | x :: a, y :: b => Nat.xor x y :: polyAdd a b

/-- A multiple. -/
def polyScale (c : Nat) (a : List Nat) : List Nat := a.map (rsMul c)

/-- The product. -/
def polyMul : List Nat → List Nat → List Nat
  | [], _ => []
  | x :: a, b => polyAdd (polyScale x b) (0 :: polyMul a b)

/-- The value at a point. -/
def polyEval (a : List Nat) (x : Nat) : Nat := a.reverse.foldl (fun r c => Nat.xor (rsMul r x) c) 0

/-- Without leading zeros. -/
def polyTrim (a : List Nat) : List Nat := (a.reverse.dropWhile (· == 0)).reverse

/-- The generator: the product of (x - α^i) for i below n. -/
def rsGen (n : Nat) : List Nat := (List.range n).foldl (fun g i => polyMul g [rsPow i, 1]) [1]

/-- Division by a monic polynomial, highest power first: the remainder register, divisor without its leading 1. -/
def rsDivide (g : List Nat) : List Nat → List Nat → List Nat
  | [], r => r
  | d :: t, r =>
    match r with
    | [] => []
    | h :: rest => rsDivide g t (xorL (rest ++ [0]) (g.map (rsMul (Nat.xor d h))))

/-- The parity symbols of data symbols, first the highest power (R261). -/
def rsParity (npar : Nat) (data : List Nat) : List Nat :=
  rsDivide ((rsGen npar).reverse.drop 1) data (List.replicate npar 0)

/-- Quotient and remainder of polynomials, by long division with as many steps as the first list has. -/
def polyDivMod : Nat → List Nat → List Nat → List Nat → List Nat × List Nat
  | 0, q, r, _ => (q, r)
  | n + 1, q, r, d =>
    let r1 := polyTrim r
    let d1 := polyTrim d
    if r1.length < d1.length ∨ d1.isEmpty then (q, r1)
    else
      let sh := r1.length - d1.length
      let c := rsMul (r1.getLastD 0) (gfInv 0x11D (d1.getLastD 0))
      let term := List.replicate sh 0 ++ [c]
      polyDivMod n (polyAdd q term) (polyAdd r1 (polyMul term d1)) d1

/-- The extended Euclid of the key equation: until twice the remainder's degree is below n + e. -/
def rsEuclid (bound : Nat) : Nat → List Nat → List Nat → List Nat → List Nat → List Nat × List Nat
  | 0, _, _, r, t => (t, r)
  | n + 1, r0, t0, r, t =>
    if 2 * ((polyTrim r).length - 1) < bound ∨ (polyTrim r).isEmpty then (t, r)
    else
      let (q, m) := polyDivMod (r0.length + 1) [] r0 r
      rsEuclid bound n r t m (polyAdd t0 (polyMul q t))

/-- Decode a word, symbol p being the coefficient of x^(len - 1 - p), with erased positions: none when it cannot be. -/
def rsDecode (npar : Nat) (word : List Nat) (erased : List Nat) : Option (List Nat) :=
  let n := word.length
  let r := word.reverse
  let synd := (List.range npar).map (fun i => polyEval r (rsPow i))
  if synd.all (· == 0) then some word
  else if npar < erased.length then none
  else
    let loc (p : Nat) := n - 1 - p
    let gam := erased.foldl (fun g p => polyMul g [1, rsPow (loc p)]) [1]
    let t := (polyMul synd gam).take npar
    let (sig, om) := rsEuclid (npar + erased.length) (npar + 1) (List.replicate npar 0 ++ [1]) [] t [1]
    let c0 := nthD 0 sig 0
    if c0 = 0 then none
    else
      let inv := gfInv 0x11D c0
      let lam := polyTrim (polyMul (polyScale inv sig) gam)
      let omega := polyScale inv om
      let deriv := (lam.drop 1).zipIdx.map (fun e => if e.2 % 2 = 0 then e.1 else 0)
      let roots := (List.range n).filter (fun j => polyEval lam (rsPow (255 - j)) == 0)
      if roots.length + 1 ≠ lam.length then none
      else
        let fixed := roots.foldl (fun a j =>
          let xi := rsPow (255 - j)
          let v := rsMul (rsMul (rsPow j) (polyEval omega xi)) (gfInv 0x11D (polyEval deriv xi))
          setAt 0 a j (Nat.xor (nthD 0 a j) v)) r
        if (List.range npar).all (fun i => polyEval fixed (rsPow i) == 0) then some fixed.reverse else none

end Sys2Proof.Machine
end

