-- ==== Sys2Proof/Machine/Formats.lean ====
section
/-!
DEFINITION. Number formats, conversion and exact accumulation (R80 to R97) and the projection generator (R98, R99):
pure functions on bits.
-/
namespace Sys2Proof.Machine

/-- A decoded number: a finite value ±mag × 2^exp (a zero keeps its sign), an infinity, or NaN (R80, R81). -/
inductive Val where
  | fin (neg : Bool) (mag : Nat) (exp : Int)
  | inf (neg : Bool)
  | nan
  deriving DecidableEq, Repr

/-- The zero with plus sign. -/
def vzero : Val := .fin false 0 0

/-- An integer times a power of two. -/
def ofInt (i : Int) (e : Int) : Val := .fin (decide (i < 0)) i.natAbs e

/-! ### Rounding -/

/-- RNE of n / 2^k (R85). -/
def rneShift (n k : Nat) : Nat :=
  let q := n / 2 ^ k
  let r := n % 2 ^ k
  if 2 * r > 2 ^ k then q + 1 else if 2 * r = 2 ^ k then q + q % 2 else q

/-- RNE of mag × 2^e to an integer. -/
def rneScale (mag : Nat) (e : Int) : Nat :=
  if 0 ≤ e then mag * 2 ^ e.toNat else rneShift mag (-e).toNat

/-- floor(log2 |x|) of a finite non-zero value (R89). -/
def expOf (mag : Nat) (e : Int) : Int := (Nat.log2 mag : Int) + e

/-- A floating-point format (R80). -/
structure FloatFmt where
  ebits : Nat
  mbits : Nat
  bias : Nat
  /-- Code of the largest finite magnitude. -/
  top : Nat
  /-- The all-ones exponent field codes infinity and NaN. -/
  ieee : Bool
  /-- The canonical NaN, where the format has one (R81). -/
  qnan : Nat
  deriving DecidableEq, Repr

/-- FP32. -/
def fp32 : FloatFmt := ⟨8, 23, 127, 0x7F7FFFFF, true, 0x7FC00000⟩
/-- BF16. -/
def bf16 : FloatFmt := ⟨8, 7, 127, 0x7F7F, true, 0x7FC0⟩
/-- FP16. -/
def fp16 : FloatFmt := ⟨5, 10, 15, 0x7BFF, true, 0x7E00⟩
/-- FP8 E4M3. -/
def e4m3 : FloatFmt := ⟨4, 3, 7, 0x7E, false, 0x7F⟩
/-- FP8 E5M2. -/
def e5m2 : FloatFmt := ⟨5, 2, 15, 0x7B, true, 0x7E⟩
/-- MXFP6 E2M3 element. -/
def e2m3 : FloatFmt := ⟨2, 3, 1, 0x1F, false, 0⟩
/-- MXFP6 E3M2 element. -/
def e3m2 : FloatFmt := ⟨3, 2, 3, 0x1F, false, 0⟩
/-- MXFP4 E2M1 element. -/
def e2m1 : FloatFmt := ⟨2, 1, 1, 0x7, false, 0⟩

/-- Decode a code of a format (R80). E4M3 has one NaN per sign; the six- and four-bit elements have none. -/
def decodeF (f : FloatFmt) (code : Nat) : Val :=
  let neg := bitOf code (f.ebits + f.mbits)
  let e := bitsOf code (f.ebits + f.mbits - 1) f.mbits
  let m := code % 2 ^ f.mbits
  if f.ieee && e == 2 ^ f.ebits - 1 then (if m = 0 then .inf neg else .nan)
  else if f.ebits = 4 ∧ f.mbits = 3 ∧ code % 128 = 0x7F then .nan
  else if e = 0 then .fin neg m (1 - (f.bias : Int) - f.mbits)
  else .fin neg (2 ^ f.mbits + m) ((e : Int) - f.bias - f.mbits)

/-- What an overflowing or infinite magnitude becomes (R86): infinity where the format has it and the element is not an
MX element, else the largest finite code. -/
def overflowCode (f : FloatFmt) (mx : Bool) : Nat :=
  if f.ieee && !mx then (2 ^ f.ebits - 1) * 2 ^ f.mbits else f.top

/-- The magnitude code of ±mag × 2^e rounded once to a format (R85), without overflow handling. -/
def magCode (f : FloatFmt) (mag : Nat) (e : Int) : Nat :=
  if mag = 0 then 0
  else
    let emin : Int := 1 - (f.bias : Int)
    let ex := max (expOf mag e) emin
    let lsb := ex - f.mbits
    let q := rneScale mag (e - lsb)
    ((ex - emin).toNat) * 2 ^ f.mbits + q

/-- A finite result overflows the format (R86). -/
def overflows (f : FloatFmt) (v : Val) : Bool :=
  match v with
  | .fin _ mag e => decide (f.top < magCode f mag e)
  | _ => false

/-- Encode to a floating-point format (R81, R85, R86). -/
def encodeF (f : FloatFmt) (mx : Bool) (v : Val) : Nat :=
  let sign (neg : Bool) := ofBool neg * 2 ^ (f.ebits + f.mbits)
  match v with
  | .nan => f.qnan
  | .inf neg => sign neg + overflowCode f mx
  | .fin neg mag e =>
    let c := magCode f mag e
    sign neg + (if f.top < c then overflowCode f mx else c)

/-! ### Tensors (R82 to R84, R87) -/

/-- What a FORMAT code (R55) holds: a plain float, an MX element, a block-scaled integer of some bits, a window integer of
some bytes, or raw bytes. -/
inductive Elem where
  | float (f : FloatFmt)
  | mx (f : FloatFmt) (emax : Int)
  | int (bits : Nat) (emax : Int)
  | win (bytes : Nat)
  | raw
  deriving DecidableEq, Repr

/-- FORMAT codes (R55). -/
def elemOf (fmt : Nat) : Option Elem :=
  match fmt with
  | 0x00 => some .raw
  | 0x01 => some (.float fp32)
  | 0x02 => some (.float bf16)
  | 0x03 => some (.float fp16)
  | 0x04 => some (.float e4m3)
  | 0x05 => some (.float e5m2)
  | 0x06 => some (.mx e4m3 8)
  | 0x07 => some (.mx e5m2 15)
  | 0x08 => some (.mx e2m3 2)
  | 0x09 => some (.mx e3m2 4)
  | 0x0A => some (.mx e2m1 2)
  | 0x0B => some (.int 8 6)
  | 0x0C => some (.int 4 2)
  | 0x0D => some (.win 4)
  | 0x0E => some (.win 8)
  | _ => none

/-- Bits of one element. -/
def elemBits : Elem → Nat
  | .float f => 1 + f.ebits + f.mbits
  | .mx f _ => 1 + f.ebits + f.mbits
  | .int b _ => b
  | .win b => 8 * b
  | .raw => 8

/-- The format is laid out in scale groups (R83). -/
def isScaled : Elem → Bool
  | .mx _ _ => true
  | .int _ _ => true
  | _ => false

/-- Blocks of a full scale group, by element width (R83). -/
def groupBlocks (bits : Nat) : Nat := if bits = 8 then 124 else if bits = 6 then 163 else 240

/-- Unpack elements of a width from bytes, least significant bit upward (R83). -/
def unpack (bits n : Nat) (bs : List Byte) : List Nat :=
  if bits % 8 = 0 then (List.range n).map (fun i => leAt bs (i * (bits / 8)) (bits / 8))
  else
    let v := ofBytesLE bs
    (List.range n).map (fun i => v / 2 ^ (bits * i) % 2 ^ bits)

/-- Pack elements of a width into bytes. -/
def pack (bits : Nat) (l : List Nat) : List Byte :=
  if bits % 8 = 0 then l.flatMap (fun c => bytesLE (bits / 8) c)
  else bytesLE ((l.length * bits + 7) / 8) (l.foldr (fun c a => c % 2 ^ bits + 2 ^ bits * a) 0)

/-- Scale a decoded element by 2^x. -/
def scaleVal (v : Val) (x : Int) : Val :=
  match v with
  | .fin n m e => .fin n m (e + x)
  | o => o

/-- Decode one element of a block with its scale code (R82). -/
def decodeElem (el : Elem) (scale code : Nat) : Val :=
  match el with
  | .float f => decodeF f code
  | .mx f _ => if scale = 0xFF then .nan else scaleVal (decodeF f code) ((scale : Int) - 127)
  | .int b _ => if scale = 0xFF then .nan else ofInt (signedOf b code) ((scale : Int) - 127)
  | .win b => ofInt (signedOf (8 * b) code) 0
  | .raw => ofInt code 0

/-- The blocks of one scale group of given length: (scale code, element codes) (R83). The number of blocks follows from
the length: full groups have the table's, the last holds whole blocks and their scale bytes with no padding. -/
def groupOf (bits : Nat) (bs : List Byte) : List (Nat × List Nat) :=
  let per := 4 * bits + 1
  let n := if bs.length = 4096 then groupBlocks bits else bs.length / per
  let codes := unpack bits (32 * n) (bs.take (4 * bits * n))
  let scales := (bs.drop (4 * bits * n)).take n
  (List.range n).map (fun i => ((scales.getD i 0).toNat, (codes.drop (32 * i)).take 32))

/-- Cut a list in pieces of n, the last perhaps shorter; the fuel is the list's length. -/
def cutEvery {α : Type} (n : Nat) : Nat → List α → List (List α)
  | 0, _ => []
  | fuel + 1, l => if l.isEmpty then [] else l.take n :: cutEvery n fuel (l.drop n)

/-- Cut a list in pieces of n. -/
def pieces {α : Type} (n : Nat) (l : List α) : List (List α) := cutEvery n l.length l

/-- The blocks of a scaled tensor. -/
def blocksOf (el : Elem) (bs : List Byte) : List (Nat × List Nat) :=
  (pieces 4096 bs).flatMap (groupOf (elemBits el))

/-- Decode a tensor's bytes. -/
def decodeTensor (el : Elem) (bs : List Byte) : List Val :=
  if isScaled el then (blocksOf el bs).flatMap (fun b => b.2.map (decodeElem el b.1))
  else
    let w := elemBits el / 8
    (unpack (elemBits el) (bs.length / w) bs).map (decodeElem el 0)

/-- Bytes that n elements of a format take (R83). -/
def tensorBytes (el : Elem) (n : Nat) : Nat :=
  if isScaled el then
    let per := groupBlocks (elemBits el)
    let blocks := n / 32
    let full := blocks / per
    let rest := blocks % per
    full * 4096 + rest * (4 * elemBits el + 1)
  else n * (elemBits el / 8)

/-- The scale exponent limits of R87. -/
def clampScale (x : Int) : Int := max (-127) (min 127 x)

/-- The largest exponent of a block's finite non-zero values, if any. -/
def maxExp (l : List Val) : Option Int :=
  l.foldl (fun a v => match v with
    | .fin _ m e => if m = 0 then a else match a with | none => some (expOf m e) | some b => some (max b (expOf m e))
    | _ => a) none

/-- A block holds a NaN or an infinity. -/
def hasSpecial (l : List Val) : Bool := l.any (fun v => match v with | .fin _ _ _ => false | _ => true)

/-- Encode one element against a scale exponent (R87). -/
def encodeAgainst (el : Elem) (x : Int) (v : Val) : Nat :=
  match el with
  | .mx f _ => encodeF f true (scaleVal v (-x))
  | .int b _ =>
    match v with
    | .fin neg m e =>
      let q := min (rneScale m (e - x)) (2 ^ (b - 1) - 1)
      unsignedOf b (if neg then -(q : Int) else q)
    | _ => 0
  | _ => 0

/-- Encode one block with a scale exponent that a reduction agreed, or its own (R87, R94): (scale code, codes). -/
def encodeBlock (el : Elem) (shared : Option Int) (l : List Val) : Nat × List Nat :=
  let emax := match el with | .mx _ m => m | .int _ m => m | _ => 0
  if hasSpecial l then (0xFF, l.map (fun _ => 0))
  else match shared, maxExp l with
    | some x, _ => let x := clampScale x; ((x + 127).toNat, l.map (encodeAgainst el x))
    | none, none => (0x7F, l.map (fun _ => 0))
    | none, some e => let x := clampScale (e - emax); ((x + 127).toNat, l.map (encodeAgainst el x))

/-- The elements of a tensor of rounded sums that overflow their format (R86); clamping an integer element is none (R87). -/
def sumOverflows (el : Elem) (l : List Val) : Nat :=
  match el with
  | .float f => (l.filter (overflows f)).length
  | .mx f emax => ((pieces 32 l).map (fun b =>
      match hasSpecial b, maxExp b with
      | false, some e => (b.filter (fun v => overflows f (scaleVal v (-clampScale (e - emax))))).length
      | _, _ => 0)).sum
  | _ => 0

/-- Lay out blocks in scale groups (R83): full groups padded to 4 KiB, the last group without padding unless full. -/
def layoutBlocks (bits : Nat) (blocks : List (Nat × List Nat)) : List Byte :=
  (pieces (groupBlocks bits) blocks).flatMap (fun g =>
    let body := pack bits (g.flatMap (·.2)) ++ g.map (fun b => BitVec.ofNat 8 b.1)
    if g.length = groupBlocks bits then body ++ List.replicate (4096 - body.length) 0 else body)

/-- Encode values to a window integer or raw bytes: the value rounded to an integer. DESIGN CHOICE (220): outside a reduction no exchange fixes a
grid, and the manual gives no value where the integer does not fit, nor for NaN and infinities; the model takes L = 0, keeps the low bytes, and 0. -/
def encodeWin (bytes : Nat) (v : Val) : List Byte :=
  match v with
  | .fin neg m e => let q := rneScale m e; bytesLE bytes (unsignedOf (8 * bytes) (if neg then -(q : Int) else q))
  | _ => List.replicate bytes 0

/-- Encode a tensor (R83, R85 to R87). -/
def encodeTensor (el : Elem) (l : List Val) : List Byte :=
  match el with
  | .float f => l.flatMap (fun v => bytesLE ((1 + f.ebits + f.mbits) / 8) (encodeF f false v))
  | .win b => l.flatMap (encodeWin b)
  | .raw => l.flatMap (encodeWin 1)
  | _ => layoutBlocks (elemBits el) ((pieces 32 l).map (encodeBlock el none))

/-! ### Exact sums (R89 to R96) -/

/-- The SPECIAL field of some values (R89): 0 finite, 1 +infinity, 2 −infinity, 3 NaN or both. -/
def specialOf (l : List Val) : Nat :=
  l.foldl (fun a v => a ||| (match v with | .nan => 3 | .inf true => 2 | .inf false => 1 | _ => 0)) 0

/-- The integer of a finite input on the grid 2^L: one rounding (R90). -/
def gridInt (grid : Int) (v : Val) : Int :=
  match v with
  | .fin neg m e => let q := rneScale m (e - grid); if neg then -(q : Int) else q
  | _ => 0

/-- The value a granule's SPECIAL field stands for (R94). -/
def specialVal (k : Nat) : Val := if k = 1 then .inf false else if k = 2 then .inf true else .nan

/-- An exact sum under R96: S = 96, one granule, e_max over its own terms. The result is not yet rounded; an exact zero is
+0 (R93). -/
def exactSum (l : List Val) : Val :=
  let sp := specialOf l
  if sp ≠ 0 then specialVal sp
  else match maxExp l with
    | none => vzero
    | some e =>
      let grid := e + 2 - 96
      let q := l.foldl (fun a v => a + gridInt grid v) (0 : Int)
      if q = 0 then vzero else ofInt q grid

/-- The exact product of two values; infinity times zero is NaN (R85, R96). -/
def mulVal (a b : Val) : Val :=
  match a, b with
  | .nan, _ => .nan
  | _, .nan => .nan
  | .fin na ma ea, .fin nb mb eb => .fin (na != nb) (ma * mb) (ea + eb)
  | .inf na, .inf nb => .inf (na != nb)
  | .inf na, .fin nb mb _ => if mb = 0 then .nan else .inf (na != nb)
  | .fin na ma _, .inf nb => if ma = 0 then .nan else .inf (na != nb)

/-- The negative of a value. -/
def negVal (v : Val) : Val :=
  match v with
  | .fin n m e => .fin (!n) m e
  | .inf n => .inf (!n)
  | .nan => .nan

/-- Round once to FP32 and back: the value an FP32 element holds. -/
def round32 (v : Val) : Val := decodeF fp32 (encodeF fp32 false v)

/-- The exact quotient of finite values, as a value with a sticky bit far below any format's LSB; used where one rounding
follows (R85). -/
def divVal (a b : Val) : Val :=
  match a, b with
  | .fin na ma ea, .fin nb mb eb =>
    if mb = 0 then (if ma = 0 then .nan else .inf (na != nb))
    else
      let k := 200 + Nat.log2 mb
      let q := ma * 2 ^ k / mb
      let r := ma * 2 ^ k % mb
      .fin (na != nb) (2 * q + (if r = 0 then 0 else 1)) (ea - eb - k - 1)
  | .inf na, .fin nb _ _ => .inf (na != nb)
  | .fin na _ _, .inf nb => .fin (na != nb) 0 0
  | _, _ => .nan

/-- The integer square root, by bits from the top. -/
def isqrtAux : Nat → Nat → Nat → Nat
  | 0, _, r => r
  | k + 1, n, r => let c := r + 2 ^ k; isqrtAux k n (if c * c ≤ n then c else r)

/-- floor of the square root. -/
def isqrt (n : Nat) : Nat := isqrtAux (Nat.log2 n / 2 + 1) n 0

/-- The exact square root of a non-negative finite value, with a sticky bit far below any format's LSB (R116). -/
def sqrtVal (v : Val) : Val :=
  match v with
  | .fin false m e =>
    let up : Nat := if e % 2 = 0 then 200 else 201
    let n := m * 2 ^ up
    let q := isqrt n
    .fin false (2 * q + (if q * q = n then 0 else 1)) ((e - up) / 2 - 1)
  | .fin true 0 e => .fin true 0 e
  | .inf false => .inf false
  | _ => .nan

/-- v ≤ w for finite values. -/
def leVal (a b : Val) : Bool :=
  match a, b with
  | .fin na ma ea, .fin nb mb eb =>
    let lo := min ea eb
    let x : Int := (ma * 2 ^ (ea - lo).toNat : Nat)
    let y : Int := (mb * 2 ^ (eb - lo).toNat : Nat)
    decide ((if na then -x else x) ≤ (if nb then -y else y))
  | _, _ => false

/-- The order of R95: exact comparison of decoded values, −0 below +0, infinities at the ends. -/
def ltOrder (a b : Val) : Bool :=
  match a, b with
  | .inf true, .inf true => false
  | .inf true, _ => true
  | _, .inf true => false
  | .inf false, _ => false
  | _, .inf false => true
  | .fin na ma _, .fin nb mb _ =>
    if ma = 0 ∧ mb = 0 then na && !nb else leVal a b && !leVal b a
  | _, _ => false

/-- A value is zero. -/
def isZero (v : Val) : Bool := match v with | .fin _ 0 _ => true | _ => false

/-- An exponent record of a granule: E_MAX in [13:0], SPECIAL in [15:14] (R89). -/
def exponentRecord (l : List Val) : Nat :=
  let e := match maxExp l with | some e => e | none => -8192
  unsignedOf 14 e + specialOf l * 0x4000

/-- Combine two exponent records (R89). -/
def combineRecords (a b : Nat) : Nat :=
  let ea := signedOf 14 a
  let eb := signedOf 14 b
  unsignedOf 14 (max ea eb) + ((a / 0x4000 % 4) ||| (b / 0x4000 % 4)) * 0x4000

/-- E_MAX of a record. -/
def recEmax (r : Nat) : Int := signedOf 14 r
/-- SPECIAL of a record. -/
def recSpecial (r : Nat) : Nat := r / 0x4000 % 4

/-- S of its code (R88). -/
def sigOf (c : Nat) : Nat := nthD 0 [24, 56, 96] c

/-- Bytes of the container of a partial sum of k contributors (R88). -/
def containerBytes (sCode k : Nat) : Nat :=
  if sCode = 0 then (if k ≤ 256 then 4 else if k ≤ 2 ^ 40 then 8 else 16)
  else if sCode = 1 then (if k ≤ 256 then 8 else 16)
  else 16

/-- S accepts an input format (R88). -/
def sigAccepts (sCode fmt : Nat) : Bool :=
  if sCode = 0 then fmt == 2 || fmt == 3 || (decide (4 ≤ fmt) && decide (fmt ≤ 12))
  else if sCode = 1 then decide (1 ≤ fmt) && decide (fmt ≤ 12)
  else if sCode = 2 then decide (1 ≤ fmt) && decide (fmt ≤ 14)
  else false

/-! ### The projection generator (R98, R99) -/

/-- mix of R98. -/
def genMix (x : BitVec 64) : BitVec 64 :=
  let z := x + 0x9E3779B97F4A7C15#64
  let z := (z ^^^ (z >>> 30)) * 0xBF58476D1CE4E5B9#64
  let z := (z ^^^ (z >>> 27)) * 0x94D049BB133111EB#64
  z ^^^ (z >>> 31)

/-- draw of R98. -/
def genDraw (seed mat row col : Nat) : BitVec 64 :=
  let w0 : BitVec 64 := BitVec.ofNat 64 ((mat % 2 ^ 32) * 2 ^ 32 + row % 2 ^ 32)
  genMix (BitVec.ofNat 64 seed ^^^ genMix (w0 ^^^ genMix (BitVec.ofNat 64 (col % 2 ^ 32))))

/-- The entry at (row, column) of a matrix under a distribution: 0 SIGN, 1 SPARSE3 (R99). -/
def genEntry (dist seed mat row col : Nat) : Int :=
  let h := (genDraw seed mat row col).toNat
  if dist = 0 then (if h < 2 ^ 63 then 1 else -1)
  else
    let t := h / 2 ^ 32
    if t < 715827883 then 1 else if t < 1431655766 then -1 else 0

end Sys2Proof.Machine
end

