-- ==== Sys2Proof/Machine/RegTable.lean ====
section
/-!
DEFINITION. The register tables of the manual: every register's page and offset, the bits each access code
(R14) covers, its reset value and the windows that see it (R13, R396). A register's number is
page × 0x1000 + offset; the pages FLD0 to FLD7, HBM0 to HBM15 and LFRM0, LFRM1 share one set of rows under
their first page. Registers whose reset value depends on the page, class, port or source are completed by
resetOf in Machine/Regs.lean.
-/
namespace Sys2Proof.Machine

/-- The windows that see a register (R396). -/
inductive RegWin where
  | both | bar2 | core
  deriving DecidableEq, Repr

/-- One register: the masks of its bits by access code (R14); bits in none of them are read-only. -/
structure RegRow where
  key : Nat
  rw : Nat
  rwp : Nat
  w1c : Nat
  wo : Nat
  rc : Nat
  reset : Nat
  win : RegWin
  deriving DecidableEq, Repr

/-- TICK_NOW_LO (02, R43). -/
abbrev R.TICK_NOW_LO : Nat := 0x1040

/-- TICK_NOW_HI (02, R43). -/
abbrev R.TICK_NOW_HI : Nat := 0x1044

/-- TICK_STAT (02, R43). -/
abbrev R.TICK_STAT : Nat := 0x1048

/-- TICK_SKIP (02, R43). -/
abbrev R.TICK_SKIP : Nat := 0x104C

/-- TICK_HELD (02, R43). -/
abbrev R.TICK_HELD : Nat := 0x1050

/-- TICK_SKEW_MAX (02, R43). -/
abbrev R.TICK_SKEW_MAX : Nat := 0x1054

/-- TICK_EVERY (02, R43). -/
abbrev R.TICK_EVERY : Nat := 0x1058

/-- TICK_CLK_F0 (02, R43). -/
abbrev R.TICK_CLK_F0 : Nat := 0x1060

/-- TICK_CLK_F1 (02, R43). -/
abbrev R.TICK_CLK_F1 : Nat := 0x1064

/-- TICK_CLK_F2 (02, R43). -/
abbrev R.TICK_CLK_F2 : Nat := 0x1068

/-- TICK_CLK_F3 (02, R43). -/
abbrev R.TICK_CLK_F3 : Nat := 0x106C

/-- TICK_CLK_F4 (02, R43). -/
abbrev R.TICK_CLK_F4 : Nat := 0x1070

/-- TICK_CLK_F5 (02, R43). -/
abbrev R.TICK_CLK_F5 : Nat := 0x1074

/-- TICK_CLK_F6 (02, R43). -/
abbrev R.TICK_CLK_F6 : Nat := 0x1078

/-- TICK_CLK_F7 (02, R43). -/
abbrev R.TICK_CLK_F7 : Nat := 0x107C

/-- FLD_D2D_STAT (02, R44). -/
abbrev R.FLD_D2D_STAT : Nat := 0x10040

/-- FLD_D2D_RETRY_W (02, R45). -/
abbrev R.FLD_D2D_RETRY_W : Nat := 0x10044

/-- FLD_D2D_RETRY_E (02, R45). -/
abbrev R.FLD_D2D_RETRY_E : Nat := 0x10048

/-- FLD_D2D_RETRY_V (02, R45). -/
abbrev R.FLD_D2D_RETRY_V : Nat := 0x1004C

/-- FLD_CLUSTERS (02, R45). -/
abbrev R.FLD_CLUSTERS : Nat := 0x10050

/-- STN_MAP_ADDR_LO (03, R76). -/
abbrev R.STN_MAP_ADDR_LO : Nat := 0xB0040

/-- STN_MAP_ADDR_HI (03, R76). -/
abbrev R.STN_MAP_ADDR_HI : Nat := 0xB0044

/-- STN_ARM_TICK_LO (03, R76). -/
abbrev R.STN_ARM_TICK_LO : Nat := 0xB0048

/-- STN_ARM_TICK_HI (03, R76). -/
abbrev R.STN_ARM_TICK_HI : Nat := 0xB004C

/-- STN_ARM_CMD (03, R76). -/
abbrev R.STN_ARM_CMD : Nat := 0xB0050

/-- STN_ARM_RES (03, R76). -/
abbrev R.STN_ARM_RES : Nat := 0xB0054

/-- STN_MAP_ID (03, R76). -/
abbrev R.STN_MAP_ID : Nat := 0xB0058

/-- STN_BIDX (03, R76). -/
abbrev R.STN_BIDX : Nat := 0xB0060

/-- STN_BUDGET (03, R76). -/
abbrev R.STN_BUDGET : Nat := 0xB0064

/-- STN_BUDGET_NOW (03, R76). -/
abbrev R.STN_BUDGET_NOW : Nat := 0xB0068

/-- STN_LATE (03, R76). -/
abbrev R.STN_LATE : Nat := 0xB006C

/-- STN_BIND_F0 (03, R76). -/
abbrev R.STN_BIND_F0 : Nat := 0xB0070

/-- STN_BIND_F1 (03, R76). -/
abbrev R.STN_BIND_F1 : Nat := 0xB0074

/-- STN_BIND_F2 (03, R76). -/
abbrev R.STN_BIND_F2 : Nat := 0xB0078

/-- STN_BIND_F3 (03, R76). -/
abbrev R.STN_BIND_F3 : Nat := 0xB007C

/-- STN_BIND_F4 (03, R76). -/
abbrev R.STN_BIND_F4 : Nat := 0xB0080

/-- STN_BIND_F5 (03, R76). -/
abbrev R.STN_BIND_F5 : Nat := 0xB0084

/-- STN_BIND_F6 (03, R76). -/
abbrev R.STN_BIND_F6 : Nat := 0xB0088

/-- STN_BIND_F7 (03, R76). -/
abbrev R.STN_BIND_F7 : Nat := 0xB008C

/-- STN_LATE_ALL (03, R76). -/
abbrev R.STN_LATE_ALL : Nat := 0xB0090

/-- STRM_OPEN_ADDR_LO (03, R77). -/
abbrev R.STRM_OPEN_ADDR_LO : Nat := 0xB1040

/-- STRM_OPEN_ADDR_HI (03, R77). -/
abbrev R.STRM_OPEN_ADDR_HI : Nat := 0xB1044

/-- STRM_CMD (03, R77). -/
abbrev R.STRM_CMD : Nat := 0xB1048

/-- STRM_RES (03, R77). -/
abbrev R.STRM_RES : Nat := 0xB104C

/-- STRM_RES_SLOT (03, R77). -/
abbrev R.STRM_RES_SLOT : Nat := 0xB1050

/-- STRM_DB (03, R77). -/
abbrev R.STRM_DB : Nat := 0xB1054

/-- STRM_IDX (03, R77). -/
abbrev R.STRM_IDX : Nat := 0xB1058

/-- STRM_SLOT_STAT (03, R77). -/
abbrev R.STRM_SLOT_STAT : Nat := 0xB105C

/-- STRM_SLOT_SQ (03, R77). -/
abbrev R.STRM_SLOT_SQ : Nat := 0xB1060

/-- STRM_SLOT_INFL (03, R77). -/
abbrev R.STRM_SLOT_INFL : Nat := 0xB1064

/-- CRING_BASE_LO (03, R77). -/
abbrev R.CRING_BASE_LO : Nat := 0xB1068

/-- CRING_BASE_HI (03, R77). -/
abbrev R.CRING_BASE_HI : Nat := 0xB106C

/-- CRING_CFG (03, R77). -/
abbrev R.CRING_CFG : Nat := 0xB1070

/-- CRING_HEAD (03, R77). -/
abbrev R.CRING_HEAD : Nat := 0xB1074

/-- CRING_TAIL (03, R77). -/
abbrev R.CRING_TAIL : Nat := 0xB1078

/-- STRM_OPEN_CNT (03, R77). -/
abbrev R.STRM_OPEN_CNT : Nat := 0xB1080

/-- STRM_DB_STRAY (03, R77). -/
abbrev R.STRM_DB_STRAY : Nat := 0xB1084

/-- STRM_DELAYED (03, R77). -/
abbrev R.STRM_DELAYED : Nat := 0xB1088

/-- STRM_LATE (03, R77). -/
abbrev R.STRM_LATE : Nat := 0xB108C

/-- STRM_REFUSED (03, R77). -/
abbrev R.STRM_REFUSED : Nat := 0xB1090

/-- ARITH_REV (04, R101). -/
abbrev R.ARITH_REV : Nat := 0xC0

/-- ARITH_SPECIAL_CNT (04, R101). -/
abbrev R.ARITH_SPECIAL_CNT : Nat := 0xC4

/-- ARITH_OVF_CNT (04, R101). -/
abbrev R.ARITH_OVF_CNT : Nat := 0xC8

/-- CODEC_IDX (06, R150). -/
abbrev R.CODEC_IDX : Nat := 0x41040

/-- CODEC_CTX_CFG (06, R150). -/
abbrev R.CODEC_CTX_CFG : Nat := 0x41044

/-- CODEC_SLOT_STAT (06, R150). -/
abbrev R.CODEC_SLOT_STAT : Nat := 0x41048

/-- CODEC_LD_ADDR_LO (06, R150). -/
abbrev R.CODEC_LD_ADDR_LO : Nat := 0x41050

/-- CODEC_LD_ADDR_HI (06, R150). -/
abbrev R.CODEC_LD_ADDR_HI : Nat := 0x41054

/-- CODEC_LD_CMD (06, R150). -/
abbrev R.CODEC_LD_CMD : Nat := 0x41058

/-- CODEC_LD_RES (06, R150). -/
abbrev R.CODEC_LD_RES : Nat := 0x4105C

/-- CODEC_LD_TMO (06, R150). -/
abbrev R.CODEC_LD_TMO : Nat := 0x41060

/-- CODEC_BLK_CODED (06, R150). -/
abbrev R.CODEC_BLK_CODED : Nat := 0x41064

/-- CODEC_BLK_RAW (06, R150). -/
abbrev R.CODEC_BLK_RAW : Nat := 0x41068

/-- CODEC_GRAN_OUT (06, R150). -/
abbrev R.CODEC_GRAN_OUT : Nat := 0x4106C

/-- CODEC_PLAIN_NOTBL (06, R150). -/
abbrev R.CODEC_PLAIN_NOTBL : Nat := 0x41070

/-- CODEC_PLAIN_NOCTX (06, R150). -/
abbrev R.CODEC_PLAIN_NOCTX : Nat := 0x41074

/-- CODEC_SEALED (06, R150). -/
abbrev R.CODEC_SEALED : Nat := 0x41078

/-- EXP_BLK_DEC (06, R151). -/
abbrev R.EXP_BLK_DEC : Nat := 0x40040

/-- EXP_BLK_RAW (06, R151). -/
abbrev R.EXP_BLK_RAW : Nat := 0x40044

/-- EXP_CACHE_MISS (06, R151). -/
abbrev R.EXP_CACHE_MISS : Nat := 0x40048

/-- EXP_FAIL (06, R151). -/
abbrev R.EXP_FAIL : Nat := 0x4004C

/-- EXP_STALE (06, R151). -/
abbrev R.EXP_STALE : Nat := 0x40050

/-- EXP_LAST_FAIL (06, R151). -/
abbrev R.EXP_LAST_FAIL : Nat := 0x40054

/-- HBM_STAT (07, R166). -/
abbrev R.HBM_STAT : Nat := 0x20040

/-- HBM_CE_CNT (07, R166). -/
abbrev R.HBM_CE_CNT : Nat := 0x20044

/-- HBM_UE_CNT (07, R166). -/
abbrev R.HBM_UE_CNT : Nat := 0x20048

/-- HBM_ERR_ADDR_LO (07, R166). -/
abbrev R.HBM_ERR_ADDR_LO : Nat := 0x2004C

/-- HBM_ERR_ADDR_HI (07, R166). -/
abbrev R.HBM_ERR_ADDR_HI : Nat := 0x20050

/-- HBM_ERR_INFO (07, R166). -/
abbrev R.HBM_ERR_INFO : Nat := 0x20054

/-- HBM_REPAIR (07, R166). -/
abbrev R.HBM_REPAIR : Nat := 0x20058

/-- HBM_SCRUB_CFG (07, R166). -/
abbrev R.HBM_SCRUB_CFG : Nat := 0x2005C

/-- HBM_SCRUB_POS (07, R166). -/
abbrev R.HBM_SCRUB_POS : Nat := 0x20060

/-- REG_IDX (07, R167). -/
abbrev R.REG_IDX : Nat := 0x42040

/-- REG_LBASE_LO (07, R167). -/
abbrev R.REG_LBASE_LO : Nat := 0x42044

/-- REG_LBASE_HI (07, R167). -/
abbrev R.REG_LBASE_HI : Nat := 0x42048

/-- REG_LEN_LO (07, R167). -/
abbrev R.REG_LEN_LO : Nat := 0x4204C

/-- REG_LEN_HI (07, R167). -/
abbrev R.REG_LEN_HI : Nat := 0x42050

/-- REG_PHYS_LO (07, R167). -/
abbrev R.REG_PHYS_LO : Nat := 0x42054

/-- REG_PHYS_HI (07, R167). -/
abbrev R.REG_PHYS_HI : Nat := 0x42058

/-- REG_ATTR (07, R167). -/
abbrev R.REG_ATTR : Nat := 0x4205C

/-- REG_ACCESS (07, R167). -/
abbrev R.REG_ACCESS : Nat := 0x42060

/-- REG_CMD (07, R167). -/
abbrev R.REG_CMD : Nat := 0x42064

/-- REG_RES (07, R167). -/
abbrev R.REG_RES : Nat := 0x42068

/-- REG_OUTER_GATE (07, R167). -/
abbrev R.REG_OUTER_GATE : Nat := 0x4206C

/-- REG_DENIED (07, R167). -/
abbrev R.REG_DENIED : Nat := 0x42070

/-- REG_LAST_DENIED_LO (07, R167). -/
abbrev R.REG_LAST_DENIED_LO : Nat := 0x42074

/-- REG_LAST_DENIED_HI (07, R167). -/
abbrev R.REG_LAST_DENIED_HI : Nat := 0x42078

/-- POOL_IDX (07, R179). -/
abbrev R.POOL_IDX : Nat := 0x48040

/-- POOL_SEG_BASE_LO (07, R179). -/
abbrev R.POOL_SEG_BASE_LO : Nat := 0x48044

/-- POOL_SEG_BASE_HI (07, R179). -/
abbrev R.POOL_SEG_BASE_HI : Nat := 0x48048

/-- POOL_SEG_META_LO (07, R179). -/
abbrev R.POOL_SEG_META_LO : Nat := 0x48050

/-- POOL_SEG_META_HI (07, R179). -/
abbrev R.POOL_SEG_META_HI : Nat := 0x48054

/-- POOL_SEG_COUNT (07, R179). -/
abbrev R.POOL_SEG_COUNT : Nat := 0x4804C

/-- POOL_SEG_FLOOR (07, R179). -/
abbrev R.POOL_SEG_FLOOR : Nat := 0x48058

/-- POOL_SEG_FREE (07, R179). -/
abbrev R.POOL_SEG_FREE : Nat := 0x4805C

/-- POOL_SEG_HEAD (07, R179). -/
abbrev R.POOL_SEG_HEAD : Nat := 0x48060

/-- POOL_SEG_LOW (07, R179). -/
abbrev R.POOL_SEG_LOW : Nat := 0x48064

/-- POOL_HOME (07, R179). -/
abbrev R.POOL_HOME : Nat := 0x48068

/-- POOL_P0_MIB (07, R179). -/
abbrev R.POOL_P0_MIB : Nat := 0x4806C

/-- POOL_CMD (07, R179). -/
abbrev R.POOL_CMD : Nat := 0x48070

/-- POOL_ARG (07, R179). -/
abbrev R.POOL_ARG : Nat := 0x48074

/-- POOL_RES (07, R179). -/
abbrev R.POOL_RES : Nat := 0x48078

/-- POOL_RES_HANDLE (07, R179). -/
abbrev R.POOL_RES_HANDLE : Nat := 0x4807C

/-- POOL_LAST_BAD (07, R179). -/
abbrev R.POOL_LAST_BAD : Nat := 0x48094

/-- POOL_FB_P1 (07, R179). -/
abbrev R.POOL_FB_P1 : Nat := 0x48080

/-- POOL_FB_P2 (07, R179). -/
abbrev R.POOL_FB_P2 : Nat := 0x48084

/-- POOL_FB_P3 (07, R179). -/
abbrev R.POOL_FB_P3 : Nat := 0x48088

/-- POOL_EMPTY (07, R179). -/
abbrev R.POOL_EMPTY : Nat := 0x4808C

/-- POOL_DFREE (07, R179). -/
abbrev R.POOL_DFREE : Nat := 0x48090

/-- POOL_RETIRED (07, R179). -/
abbrev R.POOL_RETIRED : Nat := 0x48098

/-- SW_STATE (08, R206). -/
abbrev R.SW_STATE : Nat := 0x50040

/-- SW_CELLS_H0 (08, R206). -/
abbrev R.SW_CELLS_H0 : Nat := 0x50044

/-- SW_CELLS_H1 (08, R206). -/
abbrev R.SW_CELLS_H1 : Nat := 0x50048

/-- SW_CELL_RSV (08, R206). -/
abbrev R.SW_CELL_RSV : Nat := 0x5004C

/-- SW_XOFF (08, R206). -/
abbrev R.SW_XOFF : Nat := 0x50050

/-- SW_XON (08, R206). -/
abbrev R.SW_XON : Nat := 0x50054

/-- SW_AGE_IDX (08, R206). -/
abbrev R.SW_AGE_IDX : Nat := 0x50058

/-- SW_AGE_LIMIT (08, R206). -/
abbrev R.SW_AGE_LIMIT : Nat := 0x5005C

/-- SW_RED_IDX (08, R206). -/
abbrev R.SW_RED_IDX : Nat := 0x50060

/-- SW_RED_MIN (08, R206). -/
abbrev R.SW_RED_MIN : Nat := 0x50064

/-- SW_RED_MAX (08, R206). -/
abbrev R.SW_RED_MAX : Nat := 0x50068

/-- SW_RED_PROB (08, R206). -/
abbrev R.SW_RED_PROB : Nat := 0x5006C

/-- SW_RED_DROP_G (08, R206). -/
abbrev R.SW_RED_DROP_G : Nat := 0x50070

/-- SW_RED_DROP_Y (08, R206). -/
abbrev R.SW_RED_DROP_Y : Nat := 0x50074

/-- SW_RED_DROP_R (08, R206). -/
abbrev R.SW_RED_DROP_R : Nat := 0x50078

/-- SW_TAIL_DROP (08, R206). -/
abbrev R.SW_TAIL_DROP : Nat := 0x5007C

/-- SW_AGED (08, R206). -/
abbrev R.SW_AGED : Nat := 0x50080

/-- SW_NOCELL_LINE (08, R206). -/
abbrev R.SW_NOCELL_LINE : Nat := 0x50084

/-- SW_HDR_BAD (08, R206). -/
abbrev R.SW_HDR_BAD : Nat := 0x50088

/-- SW_XFER_BAD (08, R206). -/
abbrev R.SW_XFER_BAD : Nat := 0x5008C

/-- SW_UNGRANTED (08, R206). -/
abbrev R.SW_UNGRANTED : Nat := 0x50090

/-- SW_MC_COPY (08, R206). -/
abbrev R.SW_MC_COPY : Nat := 0x50094

/-- SW_MC_REF (08, R206). -/
abbrev R.SW_MC_REF : Nat := 0x50098

/-- SCHED_SUB_BASE_LO (08, R206). -/
abbrev R.SCHED_SUB_BASE_LO : Nat := 0x51040

/-- SCHED_SUB_BASE_HI (08, R206). -/
abbrev R.SCHED_SUB_BASE_HI : Nat := 0x51044

/-- SCHED_FAB_UDP (08, R206). -/
abbrev R.SCHED_FAB_UDP : Nat := 0x51048

/-- SCHED_PORT_IDX (08, R206). -/
abbrev R.SCHED_PORT_IDX : Nat := 0x5104C

/-- SCHED_PORT_OVH (08, R206). -/
abbrev R.SCHED_PORT_OVH : Nat := 0x51050

/-- SCHED_PORT_RSV (08, R206). -/
abbrev R.SCHED_PORT_RSV : Nat := 0x51054

/-- SCHED_PORT_CAP (08, R206). -/
abbrev R.SCHED_PORT_CAP : Nat := 0x51058

/-- SCHED_PORT_RATE (08, R206). -/
abbrev R.SCHED_PORT_RATE : Nat := 0x5105C

/-- SCHED_CAP_C0 (08, R206). -/
abbrev R.SCHED_CAP_C0 : Nat := 0x51060

/-- SCHED_CAP_C1 (08, R206). -/
abbrev R.SCHED_CAP_C1 : Nat := 0x51064

/-- SCHED_CAP_C2 (08, R206). -/
abbrev R.SCHED_CAP_C2 : Nat := 0x51068

/-- SCHED_WT_C3 (08, R206). -/
abbrev R.SCHED_WT_C3 : Nat := 0x5106C

/-- SCHED_WT_C4 (08, R206). -/
abbrev R.SCHED_WT_C4 : Nat := 0x51070

/-- SCHED_WT_C5 (08, R206). -/
abbrev R.SCHED_WT_C5 : Nat := 0x51074

/-- SCHED_WT_C6 (08, R206). -/
abbrev R.SCHED_WT_C6 : Nat := 0x51078

/-- SCHED_WT_C7 (08, R206). -/
abbrev R.SCHED_WT_C7 : Nat := 0x5107C

/-- SCHED_GCL_BASE_LO (08, R206). -/
abbrev R.SCHED_GCL_BASE_LO : Nat := 0x51080

/-- SCHED_GCL_BASE_HI (08, R206). -/
abbrev R.SCHED_GCL_BASE_HI : Nat := 0x51084

/-- SCHED_GCL_START_LO (08, R206). -/
abbrev R.SCHED_GCL_START_LO : Nat := 0x51088

/-- SCHED_GCL_START_HI (08, R206). -/
abbrev R.SCHED_GCL_START_HI : Nat := 0x5108C

/-- SCHED_GCL_LEN (08, R206). -/
abbrev R.SCHED_GCL_LEN : Nat := 0x51090

/-- SCHED_GCL_CMD (08, R206). -/
abbrev R.SCHED_GCL_CMD : Nat := 0x51094

/-- SCHED_GCL_STAT (08, R206). -/
abbrev R.SCHED_GCL_STAT : Nat := 0x51098

/-- SCHED_GCL_CYCLE (08, R206). -/
abbrev R.SCHED_GCL_CYCLE : Nat := 0x5109C

/-- SCHED_POL_IDX (08, R206). -/
abbrev R.SCHED_POL_IDX : Nat := 0x510A0

/-- SCHED_POL_CIR (08, R206). -/
abbrev R.SCHED_POL_CIR : Nat := 0x510A4

/-- SCHED_POL_PIR (08, R206). -/
abbrev R.SCHED_POL_PIR : Nat := 0x510A8

/-- SCHED_POL_BURST (08, R206). -/
abbrev R.SCHED_POL_BURST : Nat := 0x510AC

/-- SCHED_POL_CFG (08, R206). -/
abbrev R.SCHED_POL_CFG : Nat := 0x510B0

/-- SCHED_POL_YEL (08, R206). -/
abbrev R.SCHED_POL_YEL : Nat := 0x510B4

/-- SCHED_POL_RED (08, R206). -/
abbrev R.SCHED_POL_RED : Nat := 0x510B8

/-- SCHED_GATE_HELD (08, R206). -/
abbrev R.SCHED_GATE_HELD : Nat := 0x510BC

/-- SCHED_PAUSE_TX (08, R206). -/
abbrev R.SCHED_PAUSE_TX : Nat := 0x510C0

/-- SCHED_PAUSE_RX (08, R206). -/
abbrev R.SCHED_PAUSE_RX : Nat := 0x510C4

/-- SCHED_SUB_IDX (08, R206). -/
abbrev R.SCHED_SUB_IDX : Nat := 0x510C8

/-- SCHED_SUB_QUEUED (08, R206). -/
abbrev R.SCHED_SUB_QUEUED : Nat := 0x510CC

/-- SCHED_NODE_BASE_LO (08, R206). -/
abbrev R.SCHED_NODE_BASE_LO : Nat := 0x510D0

/-- SCHED_NODE_BASE_HI (08, R206). -/
abbrev R.SCHED_NODE_BASE_HI : Nat := 0x510D4

/-- MIR_BASE_LO (08, R206). -/
abbrev R.MIR_BASE_LO : Nat := 0x52040

/-- MIR_BASE_HI (08, R206). -/
abbrev R.MIR_BASE_HI : Nat := 0x52044

/-- MIR_CFG (08, R206). -/
abbrev R.MIR_CFG : Nat := 0x52048

/-- MIR_SEL (08, R206). -/
abbrev R.MIR_SEL : Nat := 0x5204C

/-- MIR_N (08, R206). -/
abbrev R.MIR_N : Nat := 0x52050

/-- MIR_TRIG (08, R206). -/
abbrev R.MIR_TRIG : Nat := 0x52054

/-- MIR_MATCH (08, R206). -/
abbrev R.MIR_MATCH : Nat := 0x52058

/-- MIR_HEAD (08, R206). -/
abbrev R.MIR_HEAD : Nat := 0x5205C

/-- MIR_TAIL (08, R206). -/
abbrev R.MIR_TAIL : Nat := 0x52060

/-- MIR_LOST (08, R206). -/
abbrev R.MIR_LOST : Nat := 0x52064

/-- COLL_RQ_BASE_LO (09, R234). -/
abbrev R.COLL_RQ_BASE_LO : Nat := 0x58040

/-- COLL_RQ_BASE_HI (09, R234). -/
abbrev R.COLL_RQ_BASE_HI : Nat := 0x58044

/-- COLL_RQ_CFG (09, R234). -/
abbrev R.COLL_RQ_CFG : Nat := 0x58048

/-- COLL_DB (09, R234). -/
abbrev R.COLL_DB : Nat := 0x5804C

/-- COLL_RQ_PTR (09, R234). -/
abbrev R.COLL_RQ_PTR : Nat := 0x58050

/-- COLL_ABORT_LO (09, R234). -/
abbrev R.COLL_ABORT_LO : Nat := 0x58054

/-- COLL_ABORT_HI (09, R234). -/
abbrev R.COLL_ABORT_HI : Nat := 0x58058

/-- COLL_CMD (09, R234). -/
abbrev R.COLL_CMD : Nat := 0x5805C

/-- COLL_STAT (09, R234). -/
abbrev R.COLL_STAT : Nat := 0x58060

/-- COLL_CHK_TMO (09, R234). -/
abbrev R.COLL_CHK_TMO : Nat := 0x58064

/-- COLL_REPLAY_MAX (09, R234). -/
abbrev R.COLL_REPLAY_MAX : Nat := 0x58068

/-- COLL_REQ_DONE (09, R234). -/
abbrev R.COLL_REQ_DONE : Nat := 0x5806C

/-- COLL_CHUNKS (09, R234). -/
abbrev R.COLL_CHUNKS : Nat := 0x58070

/-- COLL_CHK_FAIL (09, R234). -/
abbrev R.COLL_CHK_FAIL : Nat := 0x58074

/-- COLL_ABORTS (09, R234). -/
abbrev R.COLL_ABORTS : Nat := 0x58078

/-- COLL_WMISMATCH (09, R234). -/
abbrev R.COLL_WMISMATCH : Nat := 0x5807C

/-- COLL_LAST_FAIL (09, R234). -/
abbrev R.COLL_LAST_FAIL : Nat := 0x58080

/-- COLL_LAST_CHUNK_LO (09, R234). -/
abbrev R.COLL_LAST_CHUNK_LO : Nat := 0x58084

/-- COLL_LAST_CHUNK_HI (09, R234). -/
abbrev R.COLL_LAST_CHUNK_HI : Nat := 0x58088

/-- COLL_LAST_ROUND_LO (09, R234). -/
abbrev R.COLL_LAST_ROUND_LO : Nat := 0x5808C

/-- GRP_BASE_LO (09, R235). -/
abbrev R.GRP_BASE_LO : Nat := 0x59040

/-- GRP_BASE_HI (09, R235). -/
abbrev R.GRP_BASE_HI : Nat := 0x59044

/-- GRP_IDX (09, R235). -/
abbrev R.GRP_IDX : Nat := 0x59048

/-- GRP_CMD (09, R235). -/
abbrev R.GRP_CMD : Nat := 0x5904C

/-- GRP_RES (09, R235). -/
abbrev R.GRP_RES : Nat := 0x59050

/-- GRP_STAT (09, R235). -/
abbrev R.GRP_STAT : Nat := 0x59054

/-- GRP_EPOCH (09, R235). -/
abbrev R.GRP_EPOCH : Nat := 0x59058

/-- GRP_PRESENT (09, R235). -/
abbrev R.GRP_PRESENT : Nat := 0x5905C

/-- GRP_ENABLED (09, R235). -/
abbrev R.GRP_ENABLED : Nat := 0x59060

/-- LFRM_STATE (10, R257). -/
abbrev R.LFRM_STATE : Nat := 0x60040

/-- LFRM_TX_ID (10, R257). -/
abbrev R.LFRM_TX_ID : Nat := 0x60044

/-- LFRM_EXP_A (10, R257). -/
abbrev R.LFRM_EXP_A : Nat := 0x60048

/-- LFRM_EXP_B (10, R257). -/
abbrev R.LFRM_EXP_B : Nat := 0x6004C

/-- LFRM_EXP_C (10, R257). -/
abbrev R.LFRM_EXP_C : Nat := 0x60050

/-- LFRM_EXP_D (10, R257). -/
abbrev R.LFRM_EXP_D : Nat := 0x60054

/-- LFRM_RX_ID (10, R257). -/
abbrev R.LFRM_RX_ID : Nat := 0x60058

/-- LFRM_SEQ_TX_LO (10, R257). -/
abbrev R.LFRM_SEQ_TX_LO : Nat := 0x6005C

/-- LFRM_SEQ_TX_HI (10, R257). -/
abbrev R.LFRM_SEQ_TX_HI : Nat := 0x60060

/-- LFRM_SEQ_RX_LO (10, R257). -/
abbrev R.LFRM_SEQ_RX_LO : Nat := 0x60064

/-- LFRM_SEQ_RX_HI (10, R257). -/
abbrev R.LFRM_SEQ_RX_HI : Nat := 0x60068

/-- LFRM_SC_CFG (10, R257). -/
abbrev R.LFRM_SC_CFG : Nat := 0x6006C

/-- LFRM_PENN_ERR (10, R257). -/
abbrev R.LFRM_PENN_ERR : Nat := 0x60070

/-- LFRM_TRL_ERR (10, R257). -/
abbrev R.LFRM_TRL_ERR : Nat := 0x60074

/-- LFRM_ID_ERR (10, R257). -/
abbrev R.LFRM_ID_ERR : Nat := 0x60078

/-- LFRM_LOF_CNT (10, R257). -/
abbrev R.LFRM_LOF_CNT : Nat := 0x6007C

/-- LFRM_FILL (10, R257). -/
abbrev R.LFRM_FILL : Nat := 0x60080

/-- LFRM_SC_MARK (10, R257). -/
abbrev R.LFRM_SC_MARK : Nat := 0x60084

/-- LFRM_PM_SEL (10, R257). -/
abbrev R.LFRM_PM_SEL : Nat := 0x60088

/-- LFRM_PM_START_LO (10, R257). -/
abbrev R.LFRM_PM_START_LO : Nat := 0x6008C

/-- LFRM_PM_START_HI (10, R257). -/
abbrev R.LFRM_PM_START_HI : Nat := 0x60090

/-- LFRM_PM_FLAGS (10, R257). -/
abbrev R.LFRM_PM_FLAGS : Nat := 0x60094

/-- LFRM_PM_ES (10, R257). -/
abbrev R.LFRM_PM_ES : Nat := 0x60098

/-- LFRM_PM_SES (10, R257). -/
abbrev R.LFRM_PM_SES : Nat := 0x6009C

/-- LFRM_PM_UAS (10, R257). -/
abbrev R.LFRM_PM_UAS : Nat := 0x600A0

/-- LFRM_PM_BBE (10, R257). -/
abbrev R.LFRM_PM_BBE : Nat := 0x600A4

/-- LFRM_PM_PENN (10, R257). -/
abbrev R.LFRM_PM_PENN : Nat := 0x600A8

/-- LFRM_PM_TAG (10, R257). -/
abbrev R.LFRM_PM_TAG : Nat := 0x600AC

/-- LFRM_PM_FEC_LO (10, R257). -/
abbrev R.LFRM_PM_FEC_LO : Nat := 0x600B0

/-- LFRM_PM_FEC_HI (10, R257). -/
abbrev R.LFRM_PM_FEC_HI : Nat := 0x600B4

/-- LFRM_PM_RETX (10, R257). -/
abbrev R.LFRM_PM_RETX : Nat := 0x600B8

/-- LFRM_PM_ABAND (10, R257). -/
abbrev R.LFRM_PM_ABAND : Nat := 0x600BC

/-- LFRM_PM_LOF (10, R257). -/
abbrev R.LFRM_PM_LOF : Nat := 0x600C0

/-- LFRM_PM_STEER (10, R257). -/
abbrev R.LFRM_PM_STEER : Nat := 0x600C4

/-- LFRM_PM_PSTEP (10, R257). -/
abbrev R.LFRM_PM_PSTEP : Nat := 0x600C8

/-- LFRM_PM_CMD (10, R257). -/
abbrev R.LFRM_PM_CMD : Nat := 0x600CC

/-- LDLV_IDX (11, R282). -/
abbrev R.LDLV_IDX : Nat := 0x64040

/-- LDLV_CFG (11, R282). -/
abbrev R.LDLV_CFG : Nat := 0x64044

/-- LDLV_STORE_BASE_LO (11, R282). -/
abbrev R.LDLV_STORE_BASE_LO : Nat := 0x64048

/-- LDLV_STORE_BASE_HI (11, R282). -/
abbrev R.LDLV_STORE_BASE_HI : Nat := 0x6404C

/-- LDLV_STORE_GIB (11, R282). -/
abbrev R.LDLV_STORE_GIB : Nat := 0x64050

/-- LDLV_WIN (11, R282). -/
abbrev R.LDLV_WIN : Nat := 0x64054

/-- LDLV_RTO_MARGIN (11, R282). -/
abbrev R.LDLV_RTO_MARGIN : Nat := 0x64058

/-- LDLV_ABANDON (11, R282). -/
abbrev R.LDLV_ABANDON : Nat := 0x6405C

/-- LDLV_MAX_TX (11, R282). -/
abbrev R.LDLV_MAX_TX : Nat := 0x64060

/-- LDLV_HOLD_MAX (11, R282). -/
abbrev R.LDLV_HOLD_MAX : Nat := 0x64064

/-- LDLV_RTT (11, R282). -/
abbrev R.LDLV_RTT : Nat := 0x64068

/-- LINE_CAP (11, R282). -/
abbrev R.LINE_CAP : Nat := 0x6406C

/-- LDLV_UNSETTLED (11, R282). -/
abbrev R.LDLV_UNSETTLED : Nat := 0x64070

/-- LDLV_STATE (11, R282). -/
abbrev R.LDLV_STATE : Nat := 0x64074

/-- LDLV_LANE (11, R282). -/
abbrev R.LDLV_LANE : Nat := 0x64078

/-- LDLV_LANE_THR (11, R282). -/
abbrev R.LDLV_LANE_THR : Nat := 0x6407C

/-- LDLV_LANE_CMD (11, R282). -/
abbrev R.LDLV_LANE_CMD : Nat := 0x64080

/-- LDLV_RETX_GAP (11, R282). -/
abbrev R.LDLV_RETX_GAP : Nat := 0x64084

/-- LDLV_RETX_TMO (11, R282). -/
abbrev R.LDLV_RETX_TMO : Nat := 0x64088

/-- LDLV_ABAND (11, R282). -/
abbrev R.LDLV_ABAND : Nat := 0x6408C

/-- LDLV_DUP (11, R282). -/
abbrev R.LDLV_DUP : Nat := 0x64090

/-- LDLV_HOLD_FULL (11, R282). -/
abbrev R.LDLV_HOLD_FULL : Nat := 0x64094

/-- LDLV_PRIV_REBUILT (11, R282). -/
abbrev R.LDLV_PRIV_REBUILT : Nat := 0x64098

/-- LDLV_PRIV_FAIL (11, R282). -/
abbrev R.LDLV_PRIV_FAIL : Nat := 0x6409C

/-- LDLV_PRIV_RESENT (11, R282). -/
abbrev R.LDLV_PRIV_RESENT : Nat := 0x640A0

/-- LDLV_PSTEP (11, R282). -/
abbrev R.LDLV_PSTEP : Nat := 0x640A4

/-- LDLV_FLAPS (11, R282). -/
abbrev R.LDLV_FLAPS : Nat := 0x640A8

/-- LCIPH_KEY0 (12, R301). -/
abbrev R.LCIPH_KEY0 : Nat := 0x68040

/-- LCIPH_KEY1 (12, R301). -/
abbrev R.LCIPH_KEY1 : Nat := 0x68044

/-- LCIPH_KEY2 (12, R301). -/
abbrev R.LCIPH_KEY2 : Nat := 0x68048

/-- LCIPH_KEY3 (12, R301). -/
abbrev R.LCIPH_KEY3 : Nat := 0x6804C

/-- LCIPH_KEY4 (12, R301). -/
abbrev R.LCIPH_KEY4 : Nat := 0x68050

/-- LCIPH_KEY5 (12, R301). -/
abbrev R.LCIPH_KEY5 : Nat := 0x68054

/-- LCIPH_KEY6 (12, R301). -/
abbrev R.LCIPH_KEY6 : Nat := 0x68058

/-- LCIPH_KEY7 (12, R301). -/
abbrev R.LCIPH_KEY7 : Nat := 0x6805C

/-- LCIPH_EPOCH (12, R301). -/
abbrev R.LCIPH_EPOCH : Nat := 0x68060

/-- LCIPH_CMD (12, R301). -/
abbrev R.LCIPH_CMD : Nat := 0x68064

/-- LCIPH_RES (12, R301). -/
abbrev R.LCIPH_RES : Nat := 0x68068

/-- LCIPH_IDX (12, R301). -/
abbrev R.LCIPH_IDX : Nat := 0x6806C

/-- LCIPH_SLOT_STAT (12, R301). -/
abbrev R.LCIPH_SLOT_STAT : Nat := 0x68070

/-- LCIPH_EPOCH0 (12, R301). -/
abbrev R.LCIPH_EPOCH0 : Nat := 0x68074

/-- LCIPH_EPOCH1 (12, R301). -/
abbrev R.LCIPH_EPOCH1 : Nat := 0x68078

/-- LCIPH_SEALED_LO (12, R301). -/
abbrev R.LCIPH_SEALED_LO : Nat := 0x6807C

/-- LCIPH_SEALED_HI (12, R301). -/
abbrev R.LCIPH_SEALED_HI : Nat := 0x68080

/-- LCIPH_REKEY_S (12, R301). -/
abbrev R.LCIPH_REKEY_S : Nat := 0x68084

/-- LCIPH_CLEAR_OK (12, R301). -/
abbrev R.LCIPH_CLEAR_OK : Nat := 0x68088

/-- LCIPH_TAG_FAIL (12, R301). -/
abbrev R.LCIPH_TAG_FAIL : Nat := 0x6808C

/-- LCIPH_NOKEY (12, R301). -/
abbrev R.LCIPH_NOKEY : Nat := 0x68090

/-- LCIPH_CLEAR_RX (12, R301). -/
abbrev R.LCIPH_CLEAR_RX : Nat := 0x68094

/-- LCIPH_ERASURES (12, R301). -/
abbrev R.LCIPH_ERASURES : Nat := 0x68098

/-- LCIPH_ERASE_CAUSE (12, R301). -/
abbrev R.LCIPH_ERASE_CAUSE : Nat := 0x6809C

/-- SEAL_KEY0 (12, R301). -/
abbrev R.SEAL_KEY0 : Nat := 0x69040

/-- SEAL_KEY1 (12, R301). -/
abbrev R.SEAL_KEY1 : Nat := 0x69044

/-- SEAL_KEY2 (12, R301). -/
abbrev R.SEAL_KEY2 : Nat := 0x69048

/-- SEAL_KEY3 (12, R301). -/
abbrev R.SEAL_KEY3 : Nat := 0x6904C

/-- SEAL_KEY4 (12, R301). -/
abbrev R.SEAL_KEY4 : Nat := 0x69050

/-- SEAL_KEY5 (12, R301). -/
abbrev R.SEAL_KEY5 : Nat := 0x69054

/-- SEAL_KEY6 (12, R301). -/
abbrev R.SEAL_KEY6 : Nat := 0x69058

/-- SEAL_KEY7 (12, R301). -/
abbrev R.SEAL_KEY7 : Nat := 0x6905C

/-- SEAL_CTR_LO (12, R301). -/
abbrev R.SEAL_CTR_LO : Nat := 0x69060

/-- SEAL_CTR_HI (12, R301). -/
abbrev R.SEAL_CTR_HI : Nat := 0x69064

/-- SEAL_CMD (12, R301). -/
abbrev R.SEAL_CMD : Nat := 0x69068

/-- SEAL_RES (12, R301). -/
abbrev R.SEAL_RES : Nat := 0x6906C

/-- SEAL_IDX (12, R301). -/
abbrev R.SEAL_IDX : Nat := 0x69070

/-- SEAL_SLOT_STAT (12, R301). -/
abbrev R.SEAL_SLOT_STAT : Nat := 0x69074

/-- SEAL_CTR_NOW_LO (12, R301). -/
abbrev R.SEAL_CTR_NOW_LO : Nat := 0x69078

/-- SEAL_CTR_NOW_HI (12, R301). -/
abbrev R.SEAL_CTR_NOW_HI : Nat := 0x6907C

/-- SEAL_MADE (12, R301). -/
abbrev R.SEAL_MADE : Nat := 0x69080

/-- SEAL_CHECKED (12, R301). -/
abbrev R.SEAL_CHECKED : Nat := 0x69084

/-- SEAL_MISMATCH (12, R301). -/
abbrev R.SEAL_MISMATCH : Nat := 0x69088

/-- OCU_IDX (13, R316). -/
abbrev R.OCU_IDX : Nat := 0x70040

/-- OCU_STATE (13, R316). -/
abbrev R.OCU_STATE : Nat := 0x70044

/-- OCU_GRID (13, R316). -/
abbrev R.OCU_GRID : Nat := 0x70048

/-- OCU_CMD (13, R316). -/
abbrev R.OCU_CMD : Nat := 0x7004C

/-- OCU_LOOP (13, R316). -/
abbrev R.OCU_LOOP : Nat := 0x70050

/-- OCU_TOL (13, R316). -/
abbrev R.OCU_TOL : Nat := 0x70054

/-- OCU_ACQ_TMO (13, R316). -/
abbrev R.OCU_ACQ_TMO : Nat := 0x70058

/-- OCU_FREQ (13, R316). -/
abbrev R.OCU_FREQ : Nat := 0x7005C

/-- OCU_RX (13, R316). -/
abbrev R.OCU_RX : Nat := 0x70060

/-- OCU_MON (13, R316). -/
abbrev R.OCU_MON : Nat := 0x70064

/-- OCU_STEER_TICK_LO (13, R316). -/
abbrev R.OCU_STEER_TICK_LO : Nat := 0x70068

/-- OCU_STEER_TICK_HI (13, R316). -/
abbrev R.OCU_STEER_TICK_HI : Nat := 0x7006C

/-- OCU_STEER_CMD (13, R316). -/
abbrev R.OCU_STEER_CMD : Nat := 0x70070

/-- OCU_STEER_CFG (13, R316). -/
abbrev R.OCU_STEER_CFG : Nat := 0x70074

/-- OCU_STEER_RES (13, R316). -/
abbrev R.OCU_STEER_RES : Nat := 0x70078

/-- OCU_CMIS_REQ (13, R316). -/
abbrev R.OCU_CMIS_REQ : Nat := 0x7007C

/-- OCU_CMIS_CMD (13, R316). -/
abbrev R.OCU_CMIS_CMD : Nat := 0x70080

/-- OCU_CMIS_RES (13, R316). -/
abbrev R.OCU_CMIS_RES : Nat := 0x70084

/-- OCU_ACQ (13, R316). -/
abbrev R.OCU_ACQ : Nat := 0x70088

/-- OCU_ACQ_FAIL (13, R316). -/
abbrev R.OCU_ACQ_FAIL : Nat := 0x7008C

/-- OCU_MISMATCH (13, R316). -/
abbrev R.OCU_MISMATCH : Nat := 0x70090

/-- OCU_STEERS (13, R316). -/
abbrev R.OCU_STEERS : Nat := 0x70094

/-- OCU_SEM_BAD (13, R316). -/
abbrev R.OCU_SEM_BAD : Nat := 0x70098

/-- SITE_TAB_LO (14, R335). -/
abbrev R.SITE_TAB_LO : Nat := 0xA0040

/-- SITE_TAB_HI (14, R335). -/
abbrev R.SITE_TAB_HI : Nat := 0xA0044

/-- SITE_STATE (14, R335). -/
abbrev R.SITE_STATE : Nat := 0xA0048

/-- SITE_EPOCH (14, R335). -/
abbrev R.SITE_EPOCH : Nat := 0xA004C

/-- SITE_VIEW (14, R335). -/
abbrev R.SITE_VIEW : Nat := 0xA0050

/-- SITE_REACH (14, R335). -/
abbrev R.SITE_REACH : Nat := 0xA0054

/-- SITE_WEIGHT (14, R335). -/
abbrev R.SITE_WEIGHT : Nat := 0xA0058

/-- SITE_COMMIT_LO (14, R335). -/
abbrev R.SITE_COMMIT_LO : Nat := 0xA005C

/-- SITE_COMMIT_HI (14, R335). -/
abbrev R.SITE_COMMIT_HI : Nat := 0xA0060

/-- SITE_ACCEPT_LO (14, R335). -/
abbrev R.SITE_ACCEPT_LO : Nat := 0xA0064

/-- SITE_ACCEPT_HI (14, R335). -/
abbrev R.SITE_ACCEPT_HI : Nat := 0xA0068

/-- SITE_LAG (14, R335). -/
abbrev R.SITE_LAG : Nat := 0xA006C

/-- SITE_POLICY (14, R335). -/
abbrev R.SITE_POLICY : Nat := 0xA0070

/-- SITE_HEAL (14, R335). -/
abbrev R.SITE_HEAL : Nat := 0xA0074

/-- SITE_VIEWS (14, R335). -/
abbrev R.SITE_VIEWS : Nat := 0xA0078

/-- SITE_DIPS (14, R335). -/
abbrev R.SITE_DIPS : Nat := 0xA007C

/-- SITE_DIGEST_BAD (14, R335). -/
abbrev R.SITE_DIGEST_BAD : Nat := 0xA0080

/-- SITE_TAB_BAD (14, R335). -/
abbrev R.SITE_TAB_BAD : Nat := 0xA0084

/-- HLT_PT_LO (15, R349). -/
abbrev R.HLT_PT_LO : Nat := 0xA1040

/-- HLT_PT_HI (15, R349). -/
abbrev R.HLT_PT_HI : Nat := 0xA1044

/-- HLT_STAT (15, R349). -/
abbrev R.HLT_STAT : Nat := 0xA1048

/-- HLT_THR (15, R349). -/
abbrev R.HLT_THR : Nat := 0xA104C

/-- HLT_EVAL (15, R349). -/
abbrev R.HLT_EVAL : Nat := 0xA1050

/-- HLT_IDX (15, R349). -/
abbrev R.HLT_IDX : Nat := 0xA1054

/-- HLT_WEIGHT (15, R349). -/
abbrev R.HLT_WEIGHT : Nat := 0xA1058

/-- HLT_INPUT (15, R349). -/
abbrev R.HLT_INPUT : Nat := 0xA105C

/-- HLT_EXP_INT (15, R349). -/
abbrev R.HLT_EXP_INT : Nat := 0xA1060

/-- HLT_HOIST_RATE (15, R349). -/
abbrev R.HLT_HOIST_RATE : Nat := 0xA1064

/-- HLT_BER (15, R349). -/
abbrev R.HLT_BER : Nat := 0xA1068

/-- HLT_PARTNER (15, R349). -/
abbrev R.HLT_PARTNER : Nat := 0xA106C

/-- HLT_ROLE (15, R349). -/
abbrev R.HLT_ROLE : Nat := 0xA1070

/-- HLT_PROT_LO (15, R349). -/
abbrev R.HLT_PROT_LO : Nat := 0xA1074

/-- HLT_PROT_HI (15, R349). -/
abbrev R.HLT_PROT_HI : Nat := 0xA1078

/-- HLT_HOIST (15, R349). -/
abbrev R.HLT_HOIST : Nat := 0xA107C

/-- HLT_DENIED (15, R349). -/
abbrev R.HLT_DENIED : Nat := 0xA1080

/-- HLT_REBUILT (15, R349). -/
abbrev R.HLT_REBUILT : Nat := 0xA1084

/-- HLT_RESID_LOST (15, R349). -/
abbrev R.HLT_RESID_LOST : Nat := 0xA1088

/-- HLT_PAR_IDX (15, R349). -/
abbrev R.HLT_PAR_IDX : Nat := 0xA108C

/-- HLT_PAR (15, R349). -/
abbrev R.HLT_PAR : Nat := 0xA1090

/-- TIME_NOW_NS (16, R367). -/
abbrev R.TIME_NOW_NS : Nat := 0x78040

/-- TIME_NOW_SUB (16, R367). -/
abbrev R.TIME_NOW_SUB : Nat := 0x78044

/-- TIME_NOW_SEC_LO (16, R367). -/
abbrev R.TIME_NOW_SEC_LO : Nat := 0x78048

/-- TIME_NOW_SEC_HI (16, R367). -/
abbrev R.TIME_NOW_SEC_HI : Nat := 0x7804C

/-- TIME_INCR_FRAC (16, R367). -/
abbrev R.TIME_INCR_FRAC : Nat := 0x78050

/-- TIME_INCR_NS (16, R367). -/
abbrev R.TIME_INCR_NS : Nat := 0x78054

/-- TIME_ADJ_NS (16, R367). -/
abbrev R.TIME_ADJ_NS : Nat := 0x78058

/-- TIME_ADJ_SEC_LO (16, R367). -/
abbrev R.TIME_ADJ_SEC_LO : Nat := 0x7805C

/-- TIME_ADJ_SEC_HI (16, R367). -/
abbrev R.TIME_ADJ_SEC_HI : Nat := 0x78060

/-- TIME_ADJ_CMD (16, R367). -/
abbrev R.TIME_ADJ_CMD : Nat := 0x78064

/-- TIME_STAT (16, R367). -/
abbrev R.TIME_STAT : Nat := 0x78068

/-- TIME_OFFSET (16, R367). -/
abbrev R.TIME_OFFSET : Nat := 0x7806C

/-- TIME_PTP_CFG (16, R367). -/
abbrev R.TIME_PTP_CFG : Nat := 0x78070

/-- TIME_HOLD_MAX (16, R367). -/
abbrev R.TIME_HOLD_MAX : Nat := 0x78074

/-- TIME_IDX (16, R367). -/
abbrev R.TIME_IDX : Nat := 0x78078

/-- TIME_TSC_TX (16, R367). -/
abbrev R.TIME_TSC_TX : Nat := 0x7807C

/-- TIME_TSC_RX (16, R367). -/
abbrev R.TIME_TSC_RX : Nat := 0x78080

/-- TIME_PORT_STAT (16, R367). -/
abbrev R.TIME_PORT_STAT : Nat := 0x78084

/-- TIME_PATH_DELAY (16, R367). -/
abbrev R.TIME_PATH_DELAY : Nat := 0x78088

/-- TIME_PIDX (16, R367). -/
abbrev R.TIME_PIDX : Nat := 0x7808C

/-- TIME_P_START_NS (16, R367). -/
abbrev R.TIME_P_START_NS : Nat := 0x78090

/-- TIME_P_START_SEC_LO (16, R367). -/
abbrev R.TIME_P_START_SEC_LO : Nat := 0x78094

/-- TIME_P_START_SEC_HI (16, R367). -/
abbrev R.TIME_P_START_SEC_HI : Nat := 0x78098

/-- TIME_P_PERIOD (16, R367). -/
abbrev R.TIME_P_PERIOD : Nat := 0x7809C

/-- TIME_P_WIDTH (16, R367). -/
abbrev R.TIME_P_WIDTH : Nat := 0x780A0

/-- TIME_P_CFG (16, R367). -/
abbrev R.TIME_P_CFG : Nat := 0x780A4

/-- TIME_STEPS (16, R367). -/
abbrev R.TIME_STEPS : Nat := 0x780A8

/-- TIME_TS_DISCARD (16, R367). -/
abbrev R.TIME_TS_DISCARD : Nat := 0x780AC

/-- TIME_HOLDOVERS (16, R367). -/
abbrev R.TIME_HOLDOVERS : Nat := 0x780B0

/-- TIME_PTP_BAD (16, R367). -/
abbrev R.TIME_PTP_BAD : Nat := 0x780B4

/-- FLT_WIRE (17, R388). -/
abbrev R.FLT_WIRE : Nat := 0x81040

/-- FLT_WIRE_RAW (17, R388). -/
abbrev R.FLT_WIRE_RAW : Nat := 0x81044

/-- FLT_LOG_BASE_LO (17, R388). -/
abbrev R.FLT_LOG_BASE_LO : Nat := 0x81048

/-- FLT_LOG_BASE_HI (17, R388). -/
abbrev R.FLT_LOG_BASE_HI : Nat := 0x8104C

/-- FLT_LOG_CFG (17, R388). -/
abbrev R.FLT_LOG_CFG : Nat := 0x81050

/-- FLT_LOG_HEAD (17, R388). -/
abbrev R.FLT_LOG_HEAD : Nat := 0x81054

/-- FLT_LOG_TAIL (17, R388). -/
abbrev R.FLT_LOG_TAIL : Nat := 0x81058

/-- FLT_LOG_LOST (17, R388). -/
abbrev R.FLT_LOG_LOST : Nat := 0x8105C

/-- FLT_MERGED (17, R388). -/
abbrev R.FLT_MERGED : Nat := 0x81060

/-- FLT_SIDX (17, R388). -/
abbrev R.FLT_SIDX : Nat := 0x81064

/-- FLT_SUM (17, R388). -/
abbrev R.FLT_SUM : Nat := 0x81068

/-- FLT_REACT (17, R388). -/
abbrev R.FLT_REACT : Nat := 0x8106C

/-- FLT_QUIET (17, R388). -/
abbrev R.FLT_QUIET : Nat := 0x81070

/-- FLT_COUNT (17, R388). -/
abbrev R.FLT_COUNT : Nat := 0x81074

/-- FLT_LASTING (17, R388). -/
abbrev R.FLT_LASTING : Nat := 0x81080

/-- FLT_RESET_CAUSE (17, R388). -/
abbrev R.FLT_RESET_CAUSE : Nat := 0x81078

/-- FLT_TEST (17, R388). -/
abbrev R.FLT_TEST : Nat := 0x8107C

/-- FLT_RAISE0 (17, R388). -/
abbrev R.FLT_RAISE0 : Nat := 0x81084

/-- FLT_RAISE1 (17, R388). -/
abbrev R.FLT_RAISE1 : Nat := 0x81088

/-- FLT_RAISE2 (17, R388). -/
abbrev R.FLT_RAISE2 : Nat := 0x8108C

/-- FLT_RAISE3 (17, R388). -/
abbrev R.FLT_RAISE3 : Nat := 0x81090

/-- IRQ_DB (17, R389). -/
abbrev R.IRQ_DB : Nat := 0x80040

/-- IRQ_SIDX (17, R389). -/
abbrev R.IRQ_SIDX : Nat := 0x80044

/-- IRQ_TIDX (17, R389). -/
abbrev R.IRQ_TIDX : Nat := 0x80058

/-- IRQ_SRC_CFG (17, R389). -/
abbrev R.IRQ_SRC_CFG : Nat := 0x80048

/-- IRQ_SRC_SPACE (17, R389). -/
abbrev R.IRQ_SRC_SPACE : Nat := 0x8004C

/-- IRQ_SRC_STUCK (17, R389). -/
abbrev R.IRQ_SRC_STUCK : Nat := 0x80050

/-- IRQ_SRC_CNT (17, R389). -/
abbrev R.IRQ_SRC_CNT : Nat := 0x80054

/-- IRQ_LEVEL (17, R389). -/
abbrev R.IRQ_LEVEL : Nat := 0x8005C

/-- SERVE_BEGIN (17, R389). -/
abbrev R.SERVE_BEGIN : Nat := 0x80060

/-- SERVE_END (17, R389). -/
abbrev R.SERVE_END : Nat := 0x80064

/-- IRQ_SERVE_CNT (17, R389). -/
abbrev R.IRQ_SERVE_CNT : Nat := 0x80068

/-- IRQ_WAKE (17, R389). -/
abbrev R.IRQ_WAKE : Nat := 0x8006C

/-- IRQ_WAKE_EN (17, R389). -/
abbrev R.IRQ_WAKE_EN : Nat := 0x80070

/-- IRQ_WAKE_RAW (17, R389). -/
abbrev R.IRQ_WAKE_RAW : Nat := 0x80074

/-- IRQ_DB_STRAY (17, R389). -/
abbrev R.IRQ_DB_STRAY : Nat := 0x80078

/-- IRQ_STUCK_CNT (17, R389). -/
abbrev R.IRQ_STUCK_CNT : Nat := 0x8007C

/-- IRQ_ORDER_CNT (17, R389). -/
abbrev R.IRQ_ORDER_CNT : Nat := 0x80080

/-- IRQ_PEND0 (17, R389). -/
abbrev R.IRQ_PEND0 : Nat := 0x800C0

/-- IRQ_PEND1 (17, R389). -/
abbrev R.IRQ_PEND1 : Nat := 0x800C4

/-- IRQ_PEND2 (17, R389). -/
abbrev R.IRQ_PEND2 : Nat := 0x800C8

/-- IRQ_PEND3 (17, R389). -/
abbrev R.IRQ_PEND3 : Nat := 0x800CC

/-- IRQ_PEND4 (17, R389). -/
abbrev R.IRQ_PEND4 : Nat := 0x800D0

/-- IRQ_PEND5 (17, R389). -/
abbrev R.IRQ_PEND5 : Nat := 0x800D4

/-- IRQ_PEND6 (17, R389). -/
abbrev R.IRQ_PEND6 : Nat := 0x800D8

/-- IRQ_PEND7 (17, R389). -/
abbrev R.IRQ_PEND7 : Nat := 0x800DC

/-- IRQ_PEND8 (17, R389). -/
abbrev R.IRQ_PEND8 : Nat := 0x800E0

/-- IRQ_PEND9 (17, R389). -/
abbrev R.IRQ_PEND9 : Nat := 0x800E4

/-- IRQ_PEND10 (17, R389). -/
abbrev R.IRQ_PEND10 : Nat := 0x800E8

/-- IRQ_PEND11 (17, R389). -/
abbrev R.IRQ_PEND11 : Nat := 0x800EC

/-- IRQ_PEND12 (17, R389). -/
abbrev R.IRQ_PEND12 : Nat := 0x800F0

/-- IRQ_PEND13 (17, R389). -/
abbrev R.IRQ_PEND13 : Nat := 0x800F4

/-- IRQ_PEND14 (17, R389). -/
abbrev R.IRQ_PEND14 : Nat := 0x800F8

/-- IRQ_PEND15 (17, R389). -/
abbrev R.IRQ_PEND15 : Nat := 0x800FC

/-- IRQ_PEND16 (17, R389). -/
abbrev R.IRQ_PEND16 : Nat := 0x80100

/-- IRQ_PEND17 (17, R389). -/
abbrev R.IRQ_PEND17 : Nat := 0x80104

/-- IRQ_PEND18 (17, R389). -/
abbrev R.IRQ_PEND18 : Nat := 0x80108

/-- IRQ_PEND19 (17, R389). -/
abbrev R.IRQ_PEND19 : Nat := 0x8010C

/-- IRQ_PEND20 (17, R389). -/
abbrev R.IRQ_PEND20 : Nat := 0x80110

/-- IRQ_PEND21 (17, R389). -/
abbrev R.IRQ_PEND21 : Nat := 0x80114

/-- IRQ_PEND22 (17, R389). -/
abbrev R.IRQ_PEND22 : Nat := 0x80118

/-- IRQ_PEND23 (17, R389). -/
abbrev R.IRQ_PEND23 : Nat := 0x8011C

/-- IRQ_PEND24 (17, R389). -/
abbrev R.IRQ_PEND24 : Nat := 0x80120

/-- IRQ_PEND25 (17, R389). -/
abbrev R.IRQ_PEND25 : Nat := 0x80124

/-- IRQ_PEND26 (17, R389). -/
abbrev R.IRQ_PEND26 : Nat := 0x80128

/-- IRQ_PEND27 (17, R389). -/
abbrev R.IRQ_PEND27 : Nat := 0x8012C

/-- IRQ_PEND28 (17, R389). -/
abbrev R.IRQ_PEND28 : Nat := 0x80130

/-- IRQ_PEND29 (17, R389). -/
abbrev R.IRQ_PEND29 : Nat := 0x80134

/-- IRQ_PEND30 (17, R389). -/
abbrev R.IRQ_PEND30 : Nat := 0x80138

/-- IRQ_PEND31 (17, R389). -/
abbrev R.IRQ_PEND31 : Nat := 0x8013C

/-- GLB_STEP (18, R402). -/
abbrev R.GLB_STEP : Nat := 0x40

/-- GLB_NODE (18, R402). -/
abbrev R.GLB_NODE : Nat := 0x44

/-- GLB_CTRL (18, R402). -/
abbrev R.GLB_CTRL : Nat := 0x48

/-- PRIV_GATE (18, R402). -/
abbrev R.PRIV_GATE : Nat := 0x4C

/-- GLB_RESET_CAUSE (18, R402). -/
abbrev R.GLB_RESET_CAUSE : Nat := 0x50

/-- GLB_WDOG (18, R402). -/
abbrev R.GLB_WDOG : Nat := 0x54

/-- GLB_FW_VER (18, R402). -/
abbrev R.GLB_FW_VER : Nat := 0x58

/-- CXL_LINK (18, R402). -/
abbrev R.CXL_LINK : Nat := 0x88040

/-- CXL_IDE (18, R402). -/
abbrev R.CXL_IDE : Nat := 0x88044

/-- CXL_POISON (18, R402). -/
abbrev R.CXL_POISON : Nat := 0x88048

/-- CXL_DOWN (18, R402). -/
abbrev R.CXL_DOWN : Nat := 0x8804C

/-- CXL_IDE_ERR (18, R402). -/
abbrev R.CXL_IDE_ERR : Nat := 0x88050

/-- CXL_NARROW (18, R402). -/
abbrev R.CXL_NARROW : Nat := 0x88054

/-- CXL_MEM_RD (18, R402). -/
abbrev R.CXL_MEM_RD : Nat := 0x88058

/-- CXL_WR_DROP (18, R402). -/
abbrev R.CXL_WR_DROP : Nat := 0x8805C

/-- SEC_BOOT (19, R428). -/
abbrev R.SEC_BOOT : Nat := 0x90040

/-- SEC_SVN (19, R428). -/
abbrev R.SEC_SVN : Nat := 0x90044

/-- SEC_CFG (19, R428). -/
abbrev R.SEC_CFG : Nat := 0x90048

/-- SEC_ID (19, R428). -/
abbrev R.SEC_ID : Nat := 0x9004C

/-- SEC_ATT (19, R428). -/
abbrev R.SEC_ATT : Nat := 0x90050

/-- SEC_DIG_IDX (19, R428). -/
abbrev R.SEC_DIG_IDX : Nat := 0x90054

/-- SEC_DIG0 (19, R428). -/
abbrev R.SEC_DIG0 : Nat := 0x90058

/-- SEC_DIG1 (19, R428). -/
abbrev R.SEC_DIG1 : Nat := 0x9005C

/-- SEC_DIG2 (19, R428). -/
abbrev R.SEC_DIG2 : Nat := 0x90060

/-- SEC_DIG3 (19, R428). -/
abbrev R.SEC_DIG3 : Nat := 0x90064

/-- SEC_DIG4 (19, R428). -/
abbrev R.SEC_DIG4 : Nat := 0x90068

/-- SEC_DIG5 (19, R428). -/
abbrev R.SEC_DIG5 : Nat := 0x9006C

/-- SEC_DIG6 (19, R428). -/
abbrev R.SEC_DIG6 : Nat := 0x90070

/-- SEC_DIG7 (19, R428). -/
abbrev R.SEC_DIG7 : Nat := 0x90074

/-- SEC_STAGE (19, R428). -/
abbrev R.SEC_STAGE : Nat := 0x90078

/-- SEC_KEX (19, R428). -/
abbrev R.SEC_KEX : Nat := 0x9007C

/-- SEC_KEX_FAIL (19, R428). -/
abbrev R.SEC_KEX_FAIL : Nat := 0x90080

/-- SEC_ATT_RPT (19, R428). -/
abbrev R.SEC_ATT_RPT : Nat := 0x90084

/-- PWR_STATE (20, R450). -/
abbrev R.PWR_STATE : Nat := 0x98040

/-- PWR_REQ (20, R450). -/
abbrev R.PWR_REQ : Nat := 0x98044

/-- PWR_RES (20, R450). -/
abbrev R.PWR_RES : Nat := 0x98048

/-- PWR_STEP_IDX (20, R450). -/
abbrev R.PWR_STEP_IDX : Nat := 0x9804C

/-- PWR_STEP_TIME (20, R450). -/
abbrev R.PWR_STEP_TIME : Nat := 0x98050

/-- PWR_THM_IDX (20, R450). -/
abbrev R.PWR_THM_IDX : Nat := 0x98054

/-- PWR_THM (20, R450). -/
abbrev R.PWR_THM : Nat := 0x98058

/-- PWR_THM_CFG (20, R450). -/
abbrev R.PWR_THM_CFG : Nat := 0x9805C

/-- PWR_LIMIT (20, R450). -/
abbrev R.PWR_LIMIT : Nat := 0x98060

/-- PWR_WATTS (20, R450). -/
abbrev R.PWR_WATTS : Nat := 0x98064

/-- PWR_RAIL_IDX (20, R450). -/
abbrev R.PWR_RAIL_IDX : Nat := 0x98068

/-- PWR_RAIL (20, R450). -/
abbrev R.PWR_RAIL : Nat := 0x9806C

/-- PWR_HBM_REF (20, R450). -/
abbrev R.PWR_HBM_REF : Nat := 0x98070

/-- PWR_THR_TICKS (20, R450). -/
abbrev R.PWR_THR_TICKS : Nat := 0x98074

/-- PWR_LIMIT_TICKS (20, R450). -/
abbrev R.PWR_LIMIT_TICKS : Nat := 0x98078

/-- MBX_CMD (18, R404). -/
abbrev R.MBX_CMD : Nat := 0x89040

/-- MBX_GO (18, R404). -/
abbrev R.MBX_GO : Nat := 0x89044

/-- MBX_STAT (18, R404). -/
abbrev R.MBX_STAT : Nat := 0x89048

/-- MBX_DONE (18, R404). -/
abbrev R.MBX_DONE : Nat := 0x8904C

/-- MBX_NOTE_HEAD (18, R404). -/
abbrev R.MBX_NOTE_HEAD : Nat := 0x89050

/-- MBX_NOTE_TAIL (18, R404). -/
abbrev R.MBX_NOTE_TAIL : Nat := 0x89054

/-- MBX_NOTE_LOST (18, R404). -/
abbrev R.MBX_NOTE_LOST : Nat := 0x89058

/-- Registers of page 0x000. -/
def regRows00 : List RegRow := [
  ⟨0xC0, 0x0, 0x0, 0x0, 0x0, 0x0, 0x410001, .both⟩,
  ⟨0xC4, 0x0, 0x0, 0x0, 0x0, 0xFFFFFFFF, 0x0, .both⟩,
  ⟨0xC8, 0x0, 0x0, 0x0, 0x0, 0xFFFFFFFF, 0x0, .both⟩,
  ⟨0x40, 0x0, 0x0, 0x0, 0x0, 0x0, 0x4230, .both⟩,
  ⟨0x44, 0x0, 0x0, 0x0, 0x0, 0x0, 0x0, .both⟩,
  ⟨0x48, 0x0, 0x0, 0x0, 0xFF01, 0x0, 0x0, .bar2⟩,
  ⟨0x4C, 0x0, 0x0, 0x0, 0x2, 0x0, 0x0, .both⟩,
  ⟨0x50, 0x0, 0x0, 0x0, 0x0, 0x0, 0x0, .both⟩,
  ⟨0x54, 0x0, 0x0, 0x0, 0x7, 0x0, 0x0, .core⟩,
  ⟨0x58, 0x0, 0x0, 0x0, 0x0, 0x0, 0x0, .both⟩]

/-- Registers of page 0x001. -/
def regRows01 : List RegRow := [
  ⟨0x1040, 0x0, 0x0, 0x0, 0x0, 0x0, 0x0, .both⟩,
  ⟨0x1044, 0x0, 0x0, 0x0, 0x0, 0x0, 0x0, .both⟩,
  ⟨0x1048, 0x0, 0x0, 0x0, 0x0, 0x0, 0x0, .both⟩,
  ⟨0x104C, 0x0, 0x0, 0x0, 0x0, 0xFFFFFFFF, 0x0, .both⟩,
  ⟨0x1050, 0x0, 0x0, 0x0, 0x0, 0xFFFFFFFF, 0x0, .both⟩,
  ⟨0x1054, 0x0, 0x0, 0x0, 0x0, 0xF, 0x0, .both⟩,
  ⟨0x1058, 0x0, 0xFFFFFF, 0x0, 0x0, 0x0, 0x0, .bar2⟩,
  ⟨0x1060, 0x0, 0x0, 0x0, 0x0, 0x0, 0x0, .both⟩,
  ⟨0x1064, 0x0, 0x0, 0x0, 0x0, 0x0, 0x0, .both⟩,
  ⟨0x1068, 0x0, 0x0, 0x0, 0x0, 0x0, 0x0, .both⟩,
  ⟨0x106C, 0x0, 0x0, 0x0, 0x0, 0x0, 0x0, .both⟩,
  ⟨0x1070, 0x0, 0x0, 0x0, 0x0, 0x0, 0x0, .both⟩,
  ⟨0x1074, 0x0, 0x0, 0x0, 0x0, 0x0, 0x0, .both⟩,
  ⟨0x1078, 0x0, 0x0, 0x0, 0x0, 0x0, 0x0, .both⟩,
  ⟨0x107C, 0x0, 0x0, 0x0, 0x0, 0x0, 0x0, .both⟩]

/-- Registers of page 0x010. -/
def regRows10 : List RegRow := [
  ⟨0x10040, 0x0, 0x0, 0x0, 0x0, 0x0, 0x0, .both⟩,
  ⟨0x10044, 0x0, 0x0, 0x0, 0x0, 0xFFFFFFFF, 0x0, .both⟩,
  ⟨0x10048, 0x0, 0x0, 0x0, 0x0, 0xFFFFFFFF, 0x0, .both⟩,
  ⟨0x1004C, 0x0, 0x0, 0x0, 0x0, 0xFFFFFFFF, 0x0, .both⟩,
  ⟨0x10050, 0x0, 0x0, 0x0, 0x0, 0x0, 0x2828, .both⟩]

/-- Registers of page 0x020. -/
def regRows20 : List RegRow := [
  ⟨0x20040, 0x0, 0x0, 0x0, 0x0, 0x0, 0x0, .both⟩,
  ⟨0x20044, 0x0, 0x0, 0x0, 0x0, 0xFFFFFFFF, 0x0, .both⟩,
  ⟨0x20048, 0x0, 0x0, 0x0, 0x0, 0xFFFFFFFF, 0x0, .both⟩,
  ⟨0x2004C, 0x0, 0x0, 0x0, 0x0, 0x0, 0x0, .both⟩,
  ⟨0x20050, 0x0, 0x0, 0x0, 0x0, 0x0, 0x0, .both⟩,
  ⟨0x20054, 0x0, 0x0, 0x0, 0x0, 0x0, 0x0, .both⟩,
  ⟨0x20058, 0x0, 0x0, 0x0, 0x0, 0x0, 0x0, .both⟩,
  ⟨0x2005C, 0x0, 0xFF, 0x0, 0x0, 0x0, 0x18, .bar2⟩,
  ⟨0x20060, 0x0, 0x0, 0x0, 0x0, 0x0, 0x0, .both⟩]

/-- Registers of page 0x040. -/
def regRows40 : List RegRow := [
  ⟨0x40040, 0x0, 0x0, 0x0, 0x0, 0xFFFFFFFF, 0x0, .both⟩,
  ⟨0x40044, 0x0, 0x0, 0x0, 0x0, 0xFFFFFFFF, 0x0, .both⟩,
  ⟨0x40048, 0x0, 0x0, 0x0, 0x0, 0xFFFFFFFF, 0x0, .both⟩,
  ⟨0x4004C, 0x0, 0x0, 0x0, 0x0, 0xFFFFFFFF, 0x0, .both⟩,
  ⟨0x40050, 0x0, 0x0, 0x0, 0x0, 0xFFFFFFFF, 0x0, .both⟩,
  ⟨0x40054, 0x0, 0x0, 0x0, 0x0, 0x0, 0x0, .both⟩]

/-- Registers of page 0x041. -/
def regRows41 : List RegRow := [
  ⟨0x41040, 0x0, 0xF7F, 0x0, 0x0, 0x0, 0x0, .bar2⟩,
  ⟨0x41044, 0x0, 0x7FFFFF, 0x0, 0x0, 0x0, 0x0, .both⟩,
  ⟨0x41048, 0x0, 0x0, 0x0, 0x0, 0x0, 0x0, .both⟩,
  ⟨0x41050, 0x0, 0xFFFFFFFF, 0x0, 0x0, 0x0, 0x0, .bar2⟩,
  ⟨0x41054, 0x0, 0x3FFF, 0x0, 0x0, 0x0, 0x0, .bar2⟩,
  ⟨0x41058, 0x0, 0x0, 0x0, 0x3077F, 0x0, 0x0, .bar2⟩,
  ⟨0x4105C, 0x0, 0x0, 0x0, 0x0, 0x0, 0x0, .both⟩,
  ⟨0x41060, 0x0, 0xFFFF, 0x0, 0x0, 0x0, 0x9C4, .bar2⟩,
  ⟨0x41064, 0x0, 0x0, 0x0, 0x0, 0xFFFFFFFF, 0x0, .both⟩,
  ⟨0x41068, 0x0, 0x0, 0x0, 0x0, 0xFFFFFFFF, 0x0, .both⟩,
  ⟨0x4106C, 0x0, 0x0, 0x0, 0x0, 0xFFFFFFFF, 0x0, .both⟩,
  ⟨0x41070, 0x0, 0x0, 0x0, 0x0, 0xFFFFFFFF, 0x0, .both⟩,
  ⟨0x41074, 0x0, 0x0, 0x0, 0x0, 0xFFFFFFFF, 0x0, .both⟩,
  ⟨0x41078, 0x0, 0x0, 0x0, 0x0, 0xFFFFFFFF, 0x0, .both⟩]

/-- Registers of page 0x042. -/
def regRows42 : List RegRow := [
  ⟨0x42040, 0x0, 0x3F, 0x0, 0x0, 0x0, 0x0, .bar2⟩,
  ⟨0x42044, 0x0, 0xFFFFF000, 0x0, 0x0, 0x0, 0x0, .both⟩,
  ⟨0x42048, 0x0, 0x3FFF, 0x0, 0x0, 0x0, 0x0, .both⟩,
  ⟨0x4204C, 0x0, 0xFFFFFFFF, 0x0, 0x0, 0x0, 0x0, .both⟩,
  ⟨0x42050, 0x0, 0xFF, 0x0, 0x0, 0x0, 0x0, .both⟩,
  ⟨0x42054, 0x0, 0xFFFFFFFF, 0x0, 0x0, 0x0, 0x0, .both⟩,
  ⟨0x42058, 0x0, 0x1F, 0x0, 0x0, 0x0, 0x0, .both⟩,
  ⟨0x4205C, 0x0, 0x7F3F, 0x0, 0x0, 0x0, 0x0, .both⟩,
  ⟨0x42060, 0x0, 0x7FE07FE, 0x0, 0x0, 0x0, 0x0, .both⟩,
  ⟨0x42064, 0x0, 0x0, 0x0, 0x3, 0x0, 0x0, .bar2⟩,
  ⟨0x42068, 0x0, 0x0, 0x0, 0x0, 0x0, 0x0, .both⟩,
  ⟨0x4206C, 0x0, 0x1, 0x0, 0x0, 0x0, 0x0, .bar2⟩,
  ⟨0x42070, 0x0, 0x0, 0x0, 0x0, 0xFFFFFFFF, 0x0, .both⟩,
  ⟨0x42074, 0x0, 0x0, 0x0, 0x0, 0x0, 0x0, .both⟩,
  ⟨0x42078, 0x0, 0x0, 0x0, 0x0, 0x0, 0x0, .both⟩]

/-- Registers of page 0x048. -/
def regRows48 : List RegRow := [
  ⟨0x48040, 0x0, 0x3F, 0x0, 0x0, 0x0, 0x0, .bar2⟩,
  ⟨0x48044, 0x0, 0xFFFFFFFF, 0x0, 0x0, 0x0, 0x0, .bar2⟩,
  ⟨0x48048, 0x0, 0x3FFF, 0x0, 0x0, 0x0, 0x0, .bar2⟩,
  ⟨0x48050, 0x0, 0xFFFFFFFF, 0x0, 0x0, 0x0, 0x0, .bar2⟩,
  ⟨0x48054, 0x0, 0x3FFF, 0x0, 0x0, 0x0, 0x0, .bar2⟩,
  ⟨0x4804C, 0x0, 0x3FFFFFF, 0x0, 0x0, 0x0, 0x0, .both⟩,
  ⟨0x48058, 0x0, 0x3FFFFFF, 0x0, 0x0, 0x0, 0x0, .both⟩,
  ⟨0x4805C, 0x0, 0x0, 0x0, 0x0, 0x0, 0x0, .both⟩,
  ⟨0x48060, 0x0, 0x0, 0x0, 0x0, 0x0, 0xFFFFFFFF, .both⟩,
  ⟨0x48064, 0x0, 0x0, 0x0, 0x0, 0x3FFFFFF, 0x0, .both⟩,
  ⟨0x48068, 0x0, 0x3F, 0x0, 0x0, 0x0, 0x18, .bar2⟩,
  ⟨0x4806C, 0x0, 0x3F, 0x0, 0x0, 0x0, 0x28, .bar2⟩,
  ⟨0x48070, 0x0, 0x0, 0x0, 0x3FFF07, 0x0, 0x0, .bar2⟩,
  ⟨0x48074, 0x0, 0xFFFFFFFF, 0x0, 0x0, 0x0, 0x0, .bar2⟩,
  ⟨0x48078, 0x0, 0x0, 0x0, 0x0, 0x0, 0x0, .both⟩,
  ⟨0x4807C, 0x0, 0x0, 0x0, 0x0, 0x0, 0xFFFFFFFF, .both⟩,
  ⟨0x48094, 0x0, 0x0, 0x0, 0x0, 0x0, 0xFFFFFFFF, .both⟩,
  ⟨0x48080, 0x0, 0x0, 0x0, 0x0, 0xFFFFFFFF, 0x0, .both⟩,
  ⟨0x48084, 0x0, 0x0, 0x0, 0x0, 0xFFFFFFFF, 0x0, .both⟩,
  ⟨0x48088, 0x0, 0x0, 0x0, 0x0, 0xFFFFFFFF, 0x0, .both⟩,
  ⟨0x4808C, 0x0, 0x0, 0x0, 0x0, 0xFFFFFFFF, 0x0, .both⟩,
  ⟨0x48090, 0x0, 0x0, 0x0, 0x0, 0xFFFFFFFF, 0x0, .both⟩,
  ⟨0x48098, 0x0, 0x0, 0x0, 0x0, 0x0, 0x0, .both⟩]

/-- Registers of page 0x050. -/
def regRows50 : List RegRow := [
  ⟨0x50040, 0x0, 0x1, 0x0, 0x0, 0x0, 0x0, .both⟩,
  ⟨0x50044, 0x0, 0x0, 0x0, 0x0, 0x0, 0x0, .both⟩,
  ⟨0x50048, 0x0, 0x0, 0x0, 0x0, 0x0, 0x0, .both⟩,
  ⟨0x5004C, 0x0, 0x3FFFF, 0x0, 0x0, 0x0, 0x2000, .bar2⟩,
  ⟨0x50050, 0x0, 0x3FFFF, 0x0, 0x0, 0x0, 0x4000, .bar2⟩,
  ⟨0x50054, 0x0, 0x3FFFF, 0x0, 0x0, 0x0, 0x6000, .bar2⟩,
  ⟨0x50058, 0x0, 0x7, 0x0, 0x0, 0x0, 0x0, .bar2⟩,
  ⟨0x5005C, 0x0, 0xFFFFFF, 0x0, 0x0, 0x0, 0x7D, .both⟩,
  ⟨0x50060, 0x0, 0x3, 0x0, 0x0, 0x0, 0x0, .bar2⟩,
  ⟨0x50064, 0x0, 0x3FFFF, 0x0, 0x0, 0x0, 0x0, .both⟩,
  ⟨0x50068, 0x0, 0x3FFFF, 0x0, 0x0, 0x0, 0x0, .both⟩,
  ⟨0x5006C, 0x0, 0xFF, 0x0, 0x0, 0x0, 0x0, .both⟩,
  ⟨0x50070, 0x0, 0x0, 0x0, 0x0, 0xFFFFFFFF, 0x0, .both⟩,
  ⟨0x50074, 0x0, 0x0, 0x0, 0x0, 0xFFFFFFFF, 0x0, .both⟩,
  ⟨0x50078, 0x0, 0x0, 0x0, 0x0, 0xFFFFFFFF, 0x0, .both⟩,
  ⟨0x5007C, 0x0, 0x0, 0x0, 0x0, 0xFFFFFFFF, 0x0, .both⟩,
  ⟨0x50080, 0x0, 0x0, 0x0, 0x0, 0xFFFFFFFF, 0x0, .both⟩,
  ⟨0x50084, 0x0, 0x0, 0x0, 0x0, 0xFFFFFFFF, 0x0, .both⟩,
  ⟨0x50088, 0x0, 0x0, 0x0, 0x0, 0xFFFFFFFF, 0x0, .both⟩,
  ⟨0x5008C, 0x0, 0x0, 0x0, 0x0, 0xFFFFFFFF, 0x0, .both⟩,
  ⟨0x50090, 0x0, 0x0, 0x0, 0x0, 0xFFFFFFFF, 0x0, .both⟩,
  ⟨0x50094, 0x0, 0x0, 0x0, 0x0, 0xFFFFFFFF, 0x0, .both⟩,
  ⟨0x50098, 0x0, 0x0, 0x0, 0x0, 0xFFFFFFFF, 0x0, .both⟩]

/-- Registers of page 0x051, part 1. -/
def regRows51a : List RegRow := [
  ⟨0x51040, 0x0, 0xFFFFFFFF, 0x0, 0x0, 0x0, 0x0, .bar2⟩,
  ⟨0x51044, 0x0, 0x3FFF, 0x0, 0x0, 0x0, 0x0, .bar2⟩,
  ⟨0x51048, 0x0, 0xFFFF, 0x0, 0x0, 0x0, 0xB798, .bar2⟩,
  ⟨0x5104C, 0x0, 0x7, 0x0, 0x0, 0x0, 0x0, .bar2⟩,
  ⟨0x51050, 0x0, 0xFF, 0x0, 0x0, 0x0, 0x5A, .both⟩,
  ⟨0x51054, 0x0, 0xFFFFF, 0x0, 0x0, 0x0, 0x7D00, .both⟩,
  ⟨0x51058, 0x0, 0x0, 0x0, 0x0, 0x0, 0x0, .both⟩,
  ⟨0x5105C, 0x0, 0x0, 0x0, 0x0, 0x0, 0x0, .both⟩,
  ⟨0x51060, 0x0, 0xFFFFFFFF, 0x0, 0x0, 0x0, 0x1000FA0, .both⟩,
  ⟨0x51064, 0x0, 0xFFFFFFFF, 0x0, 0x0, 0x0, 0x1001F40, .both⟩,
  ⟨0x51068, 0x0, 0xFFFFFFFF, 0x0, 0x0, 0x0, 0x1000FA0, .both⟩,
  ⟨0x5106C, 0x0, 0xFFFFFF, 0x0, 0x0, 0x0, 0x4000, .both⟩,
  ⟨0x51070, 0x0, 0xFFFFFF, 0x0, 0x0, 0x0, 0x10000, .both⟩,
  ⟨0x51074, 0x0, 0xFFFFFF, 0x0, 0x0, 0x0, 0x10000, .both⟩,
  ⟨0x51078, 0x0, 0xFFFFFF, 0x0, 0x0, 0x0, 0x8000, .both⟩,
  ⟨0x5107C, 0x0, 0xFFFFFF, 0x0, 0x0, 0x0, 0x4000, .both⟩,
  ⟨0x51080, 0x0, 0xFFFFFFFF, 0x0, 0x0, 0x0, 0x0, .bar2⟩,
  ⟨0x51084, 0x0, 0x3FFF, 0x0, 0x0, 0x0, 0x0, .bar2⟩,
  ⟨0x51088, 0x0, 0xFFFFFFFF, 0x0, 0x0, 0x0, 0x0, .bar2⟩,
  ⟨0x5108C, 0x0, 0xFFFFFFFF, 0x0, 0x0, 0x0, 0x0, .bar2⟩,
  ⟨0x51090, 0x0, 0x1FF, 0x0, 0x0, 0x0, 0x0, .bar2⟩,
  ⟨0x51094, 0x0, 0x0, 0x0, 0x3, 0x0, 0x0, .bar2⟩,
  ⟨0x51098, 0x0, 0x0, 0x0, 0x0, 0x0, 0x0, .both⟩,
  ⟨0x5109C, 0x0, 0x0, 0x0, 0x0, 0x0, 0x0, .both⟩]

/-- Registers of page 0x051, part 2. -/
def regRows51b : List RegRow := [
  ⟨0x510A0, 0x0, 0x73, 0x0, 0x0, 0x0, 0x0, .bar2⟩,
  ⟨0x510A4, 0x0, 0xFFFFF, 0x0, 0x0, 0x0, 0x0, .both⟩,
  ⟨0x510A8, 0x0, 0xFFFFF, 0x0, 0x0, 0x0, 0x0, .both⟩,
  ⟨0x510AC, 0x0, 0xFFFFFFFF, 0x0, 0x0, 0x0, 0x0, .both⟩,
  ⟨0x510B0, 0x0, 0x1, 0x0, 0x0, 0x0, 0x0, .both⟩,
  ⟨0x510B4, 0x0, 0x0, 0x0, 0x0, 0xFFFFFFFF, 0x0, .both⟩,
  ⟨0x510B8, 0x0, 0x0, 0x0, 0x0, 0xFFFFFFFF, 0x0, .both⟩,
  ⟨0x510BC, 0x0, 0x0, 0x0, 0x0, 0xFFFFFFFF, 0x0, .both⟩,
  ⟨0x510C0, 0x0, 0x0, 0x0, 0x0, 0xFFFFFFFF, 0x0, .both⟩,
  ⟨0x510C4, 0x0, 0x0, 0x0, 0x0, 0xFFFFFFFF, 0x0, .both⟩,
  ⟨0x510C8, 0x0, 0xFFF, 0x0, 0x80000000, 0x0, 0x0, .bar2⟩,
  ⟨0x510CC, 0x0, 0x0, 0x0, 0x0, 0x0, 0x0, .both⟩,
  ⟨0x510D0, 0x0, 0xFFFFFFFF, 0x0, 0x0, 0x0, 0x0, .bar2⟩,
  ⟨0x510D4, 0x0, 0x3FFF, 0x0, 0x0, 0x0, 0x0, .bar2⟩]

/-- Registers of page 0x052. -/
def regRows52 : List RegRow := [
  ⟨0x52040, 0x0, 0xFFFFFFFF, 0x0, 0x0, 0x0, 0x0, .bar2⟩,
  ⟨0x52044, 0x0, 0x3FFF, 0x0, 0x0, 0x0, 0x0, .bar2⟩,
  ⟨0x52048, 0x0, 0x3F, 0x0, 0x0, 0x0, 0xA, .bar2⟩,
  ⟨0x5204C, 0x0, 0xFF7F7F, 0x0, 0x0, 0x0, 0x0, .bar2⟩,
  ⟨0x52050, 0x0, 0xFFFFFF, 0x0, 0x0, 0x0, 0x0, .bar2⟩,
  ⟨0x52054, 0x0, 0xF, 0x0, 0x0, 0x0, 0x0, .bar2⟩,
  ⟨0x52058, 0x0, 0xFFFFFFFF, 0x0, 0x0, 0x0, 0x0, .bar2⟩,
  ⟨0x5205C, 0x3FFFFFF, 0x0, 0x0, 0x0, 0x0, 0x0, .both⟩,
  ⟨0x52060, 0x0, 0x0, 0x0, 0x0, 0x0, 0x0, .both⟩,
  ⟨0x52064, 0x0, 0x0, 0x0, 0x0, 0xFFFFFFFF, 0x0, .both⟩]

/-- Registers of page 0x058. -/
def regRows58 : List RegRow := [
  ⟨0x58040, 0x0, 0xFFFFFFFF, 0x0, 0x0, 0x0, 0x0, .bar2⟩,
  ⟨0x58044, 0x0, 0x3FFF, 0x0, 0x0, 0x0, 0x0, .bar2⟩,
  ⟨0x58048, 0x0, 0xF, 0x0, 0x0, 0x0, 0x6, .bar2⟩,
  ⟨0x5804C, 0x0, 0x0, 0x0, 0xFFF, 0x0, 0x0, .bar2⟩,
  ⟨0x58050, 0x0, 0x0, 0x0, 0x0, 0x0, 0x0, .both⟩,
  ⟨0x58054, 0x0, 0xFFFFFFFF, 0x0, 0x0, 0x0, 0x0, .bar2⟩,
  ⟨0x58058, 0x0, 0xFFFF, 0x0, 0x0, 0x0, 0x0, .bar2⟩,
  ⟨0x5805C, 0x0, 0x0, 0x0, 0x1, 0x0, 0x0, .bar2⟩,
  ⟨0x58060, 0x0, 0x0, 0x0, 0x0, 0x0, 0x0, .both⟩,
  ⟨0x58064, 0x0, 0xFFFFFF, 0x0, 0x0, 0x0, 0x30D4, .bar2⟩,
  ⟨0x58068, 0x0, 0xF, 0x0, 0x0, 0x0, 0x3, .bar2⟩,
  ⟨0x5806C, 0x0, 0x0, 0x0, 0x0, 0xFFFFFFFF, 0x0, .both⟩,
  ⟨0x58070, 0x0, 0x0, 0x0, 0x0, 0xFFFFFFFF, 0x0, .both⟩,
  ⟨0x58074, 0x0, 0x0, 0x0, 0x0, 0xFFFFFFFF, 0x0, .both⟩,
  ⟨0x58078, 0x0, 0x0, 0x0, 0x0, 0xFFFFFFFF, 0x0, .both⟩,
  ⟨0x5807C, 0x0, 0x0, 0x0, 0x0, 0xFFFFFFFF, 0x0, .both⟩,
  ⟨0x58080, 0x0, 0x0, 0x0, 0x0, 0x0, 0x0, .both⟩,
  ⟨0x58084, 0x0, 0x0, 0x0, 0x0, 0x0, 0x0, .both⟩,
  ⟨0x58088, 0x0, 0x0, 0x0, 0x0, 0x0, 0x0, .both⟩,
  ⟨0x5808C, 0x0, 0x0, 0x0, 0x0, 0x0, 0x0, .both⟩]

/-- Registers of page 0x059. -/
def regRows59 : List RegRow := [
  ⟨0x59040, 0x0, 0xFFFFFFFF, 0x0, 0x0, 0x0, 0x0, .bar2⟩,
  ⟨0x59044, 0x0, 0x3FFF, 0x0, 0x0, 0x0, 0x0, .bar2⟩,
  ⟨0x59048, 0x0, 0xFFF, 0x0, 0x0, 0x0, 0x0, .bar2⟩,
  ⟨0x5904C, 0x0, 0x0, 0x0, 0x3, 0x0, 0x0, .bar2⟩,
  ⟨0x59050, 0x0, 0x0, 0x0, 0x0, 0x0, 0x0, .both⟩,
  ⟨0x59054, 0x0, 0x0, 0x0, 0x0, 0x0, 0x0, .both⟩,
  ⟨0x59058, 0x0, 0x0, 0x0, 0x0, 0x0, 0x0, .both⟩,
  ⟨0x5905C, 0x0, 0x0, 0x0, 0x0, 0x0, 0x0, .both⟩,
  ⟨0x59060, 0x0, 0x0, 0x0, 0x0, 0x0, 0x0, .both⟩]

/-- Registers of page 0x060, part 1. -/
def regRows60a : List RegRow := [
  ⟨0x60040, 0x0, 0x0, 0x0, 0x0, 0x0, 0x38, .both⟩,
  ⟨0x60044, 0x0, 0xFFFF, 0x0, 0x0, 0x0, 0x0, .both⟩,
  ⟨0x60048, 0x0, 0x1FFFF, 0x0, 0x0, 0x0, 0x0, .both⟩,
  ⟨0x6004C, 0x0, 0x1FFFF, 0x0, 0x0, 0x0, 0x0, .both⟩,
  ⟨0x60050, 0x0, 0x1FFFF, 0x0, 0x0, 0x0, 0x0, .both⟩,
  ⟨0x60054, 0x0, 0x1FFFF, 0x0, 0x0, 0x0, 0x0, .both⟩,
  ⟨0x60058, 0x0, 0x0, 0x0, 0x0, 0x0, 0x0, .both⟩,
  ⟨0x6005C, 0x0, 0x0, 0x0, 0x0, 0x0, 0x0, .both⟩,
  ⟨0x60060, 0x0, 0x0, 0x0, 0x0, 0x0, 0x0, .both⟩,
  ⟨0x60064, 0x0, 0x0, 0x0, 0x0, 0x0, 0x0, .both⟩,
  ⟨0x60068, 0x0, 0x0, 0x0, 0x0, 0x0, 0x0, .both⟩,
  ⟨0x6006C, 0x0, 0x3, 0x0, 0x0, 0x0, 0x0, .bar2⟩,
  ⟨0x60070, 0x0, 0x0, 0x0, 0x0, 0xFFFFFFFF, 0x0, .both⟩,
  ⟨0x60074, 0x0, 0x0, 0x0, 0x0, 0xFFFFFFFF, 0x0, .both⟩,
  ⟨0x60078, 0x0, 0x0, 0x0, 0x0, 0xFFFFFFFF, 0x0, .both⟩,
  ⟨0x6007C, 0x0, 0x0, 0x0, 0x0, 0xFFFFFFFF, 0x0, .both⟩,
  ⟨0x60080, 0x0, 0x0, 0x0, 0x0, 0xFFFFFFFF, 0x0, .both⟩,
  ⟨0x60084, 0x0, 0x0, 0x0, 0x0, 0xFFFFFFFF, 0x0, .both⟩,
  ⟨0x60088, 0x0, 0xFF, 0x0, 0x0, 0x0, 0x0, .bar2⟩,
  ⟨0x6008C, 0x0, 0x0, 0x0, 0x0, 0x0, 0x0, .both⟩,
  ⟨0x60090, 0x0, 0x0, 0x0, 0x0, 0x0, 0x0, .both⟩,
  ⟨0x60094, 0x0, 0x0, 0x0, 0x0, 0x0, 0x0, .both⟩,
  ⟨0x60098, 0x0, 0x0, 0x0, 0x0, 0x0, 0x0, .both⟩,
  ⟨0x6009C, 0x0, 0x0, 0x0, 0x0, 0x0, 0x0, .both⟩]

/-- Registers of page 0x060, part 2. -/
def regRows60b : List RegRow := [
  ⟨0x600A0, 0x0, 0x0, 0x0, 0x0, 0x0, 0x0, .both⟩,
  ⟨0x600A4, 0x0, 0x0, 0x0, 0x0, 0x0, 0x0, .both⟩,
  ⟨0x600A8, 0x0, 0x0, 0x0, 0x0, 0x0, 0x0, .both⟩,
  ⟨0x600AC, 0x0, 0x0, 0x0, 0x0, 0x0, 0x0, .both⟩,
  ⟨0x600B0, 0x0, 0x0, 0x0, 0x0, 0x0, 0x0, .both⟩,
  ⟨0x600B4, 0x0, 0x0, 0x0, 0x0, 0x0, 0x0, .both⟩,
  ⟨0x600B8, 0x0, 0x0, 0x0, 0x0, 0x0, 0x0, .both⟩,
  ⟨0x600BC, 0x0, 0x0, 0x0, 0x0, 0x0, 0x0, .both⟩,
  ⟨0x600C0, 0x0, 0x0, 0x0, 0x0, 0x0, 0x0, .both⟩,
  ⟨0x600C4, 0x0, 0x0, 0x0, 0x0, 0x0, 0x0, .both⟩,
  ⟨0x600C8, 0x0, 0x0, 0x0, 0x0, 0x0, 0x0, .both⟩,
  ⟨0x600CC, 0x0, 0x0, 0x0, 0x1, 0x0, 0x0, .bar2⟩]

/-- Registers of page 0x064, part 1. -/
def regRows64a : List RegRow := [
  ⟨0x64040, 0x0, 0x37, 0x0, 0x0, 0x0, 0x0, .bar2⟩,
  ⟨0x64044, 0x0, 0x1F, 0x0, 0x0, 0x0, 0x4, .bar2⟩,
  ⟨0x64048, 0x0, 0xFFFFFFFF, 0x0, 0x0, 0x0, 0x0, .bar2⟩,
  ⟨0x6404C, 0x0, 0x3FFF, 0x0, 0x0, 0x0, 0x0, .bar2⟩,
  ⟨0x64050, 0x0, 0x7F, 0x0, 0x0, 0x0, 0x10, .bar2⟩,
  ⟨0x64054, 0x0, 0x3FFFFF, 0x0, 0x0, 0x0, 0x0, .bar2⟩,
  ⟨0x64058, 0x0, 0xFFF, 0x0, 0x0, 0x0, 0x20, .bar2⟩,
  ⟨0x6405C, 0x0, 0xFFFFFF, 0x0, 0x0, 0x0, 0x1E848, .bar2⟩,
  ⟨0x64060, 0x0, 0xF, 0x0, 0x0, 0x0, 0x8, .bar2⟩,
  ⟨0x64064, 0x0, 0xFFF, 0x0, 0x0, 0x0, 0x400, .bar2⟩,
  ⟨0x64068, 0x0, 0x0, 0x0, 0x0, 0x0, 0x0, .both⟩,
  ⟨0x6406C, 0x0, 0x0, 0x0, 0x0, 0x0, 0x0, .both⟩,
  ⟨0x64070, 0x0, 0x0, 0x0, 0x0, 0x0, 0x0, .both⟩,
  ⟨0x64074, 0x0, 0x0, 0x0, 0x0, 0x0, 0x0, .both⟩,
  ⟨0x64078, 0x0, 0x0, 0x0, 0x0, 0x0, 0x0, .both⟩,
  ⟨0x6407C, 0x0, 0xFFFF, 0x0, 0x0, 0x0, 0x1000, .bar2⟩,
  ⟨0x64080, 0x0, 0x0, 0x0, 0xF, 0x0, 0x0, .bar2⟩,
  ⟨0x64084, 0x0, 0x0, 0x0, 0x0, 0xFFFFFFFF, 0x0, .both⟩,
  ⟨0x64088, 0x0, 0x0, 0x0, 0x0, 0xFFFFFFFF, 0x0, .both⟩,
  ⟨0x6408C, 0x0, 0x0, 0x0, 0x0, 0xFFFFFFFF, 0x0, .both⟩,
  ⟨0x64090, 0x0, 0x0, 0x0, 0x0, 0xFFFFFFFF, 0x0, .both⟩,
  ⟨0x64094, 0x0, 0x0, 0x0, 0x0, 0xFFFFFFFF, 0x0, .both⟩,
  ⟨0x64098, 0x0, 0x0, 0x0, 0x0, 0xFFFFFFFF, 0x0, .both⟩,
  ⟨0x6409C, 0x0, 0x0, 0x0, 0x0, 0xFFFFFFFF, 0x0, .both⟩]

/-- Registers of page 0x064, part 2. -/
def regRows64b : List RegRow := [
  ⟨0x640A0, 0x0, 0x0, 0x0, 0x0, 0xFFFFFFFF, 0x0, .both⟩,
  ⟨0x640A4, 0x0, 0x0, 0x0, 0x0, 0xFFFFFFFF, 0x0, .both⟩,
  ⟨0x640A8, 0x0, 0x0, 0x0, 0x0, 0xFFFFFFFF, 0x0, .both⟩]

/-- Registers of page 0x068. -/
def regRows68 : List RegRow := [
  ⟨0x68040, 0x0, 0x0, 0x0, 0xFFFFFFFF, 0x0, 0x0, .core⟩,
  ⟨0x68044, 0x0, 0x0, 0x0, 0xFFFFFFFF, 0x0, 0x0, .core⟩,
  ⟨0x68048, 0x0, 0x0, 0x0, 0xFFFFFFFF, 0x0, 0x0, .core⟩,
  ⟨0x6804C, 0x0, 0x0, 0x0, 0xFFFFFFFF, 0x0, 0x0, .core⟩,
  ⟨0x68050, 0x0, 0x0, 0x0, 0xFFFFFFFF, 0x0, 0x0, .core⟩,
  ⟨0x68054, 0x0, 0x0, 0x0, 0xFFFFFFFF, 0x0, 0x0, .core⟩,
  ⟨0x68058, 0x0, 0x0, 0x0, 0xFFFFFFFF, 0x0, 0x0, .core⟩,
  ⟨0x6805C, 0x0, 0x0, 0x0, 0xFFFFFFFF, 0x0, 0x0, .core⟩,
  ⟨0x68060, 0x0, 0x0, 0x0, 0xFFFFFFFF, 0x0, 0x0, .core⟩,
  ⟨0x68064, 0x0, 0x0, 0x0, 0xFF, 0x0, 0x0, .core⟩,
  ⟨0x68068, 0x0, 0x0, 0x0, 0x0, 0x0, 0x0, .both⟩,
  ⟨0x6806C, 0x0, 0xF, 0x0, 0x0, 0x0, 0x0, .bar2⟩,
  ⟨0x68070, 0x0, 0x0, 0x0, 0x0, 0x0, 0x10, .both⟩,
  ⟨0x68074, 0x0, 0x0, 0x0, 0x0, 0x0, 0x0, .both⟩,
  ⟨0x68078, 0x0, 0x0, 0x0, 0x0, 0x0, 0x0, .both⟩,
  ⟨0x6807C, 0x0, 0x0, 0x0, 0x0, 0x0, 0x0, .both⟩,
  ⟨0x68080, 0x0, 0x0, 0x0, 0x0, 0x0, 0x0, .both⟩,
  ⟨0x68084, 0x0, 0xFFFF, 0x0, 0x0, 0x0, 0x12C, .bar2⟩,
  ⟨0x68088, 0x0, 0xFF, 0x0, 0x0, 0x0, 0xFF, .bar2⟩,
  ⟨0x6808C, 0x0, 0x0, 0x0, 0x0, 0xFFFFFFFF, 0x0, .both⟩,
  ⟨0x68090, 0x0, 0x0, 0x0, 0x0, 0xFFFFFFFF, 0x0, .both⟩,
  ⟨0x68094, 0x0, 0x0, 0x0, 0x0, 0xFFFFFFFF, 0x0, .both⟩,
  ⟨0x68098, 0x0, 0x0, 0x0, 0x0, 0xFFFFFFFF, 0x0, .both⟩,
  ⟨0x6809C, 0x0, 0x0, 0x0, 0x0, 0x0, 0x0, .both⟩]

/-- Registers of page 0x069. -/
def regRows69 : List RegRow := [
  ⟨0x69040, 0x0, 0x0, 0x0, 0xFFFFFFFF, 0x0, 0x0, .core⟩,
  ⟨0x69044, 0x0, 0x0, 0x0, 0xFFFFFFFF, 0x0, 0x0, .core⟩,
  ⟨0x69048, 0x0, 0x0, 0x0, 0xFFFFFFFF, 0x0, 0x0, .core⟩,
  ⟨0x6904C, 0x0, 0x0, 0x0, 0xFFFFFFFF, 0x0, 0x0, .core⟩,
  ⟨0x69050, 0x0, 0x0, 0x0, 0xFFFFFFFF, 0x0, 0x0, .core⟩,
  ⟨0x69054, 0x0, 0x0, 0x0, 0xFFFFFFFF, 0x0, 0x0, .core⟩,
  ⟨0x69058, 0x0, 0x0, 0x0, 0xFFFFFFFF, 0x0, 0x0, .core⟩,
  ⟨0x6905C, 0x0, 0x0, 0x0, 0xFFFFFFFF, 0x0, 0x0, .core⟩,
  ⟨0x69060, 0x0, 0x0, 0x0, 0xFFFFFFFF, 0x0, 0x0, .core⟩,
  ⟨0x69064, 0x0, 0x0, 0x0, 0xFFFFFFFF, 0x0, 0x0, .core⟩,
  ⟨0x69068, 0x0, 0x0, 0x0, 0x73, 0x0, 0x0, .core⟩,
  ⟨0x6906C, 0x0, 0x0, 0x0, 0x0, 0x0, 0x0, .both⟩,
  ⟨0x69070, 0x0, 0x7, 0x0, 0x0, 0x0, 0x0, .bar2⟩,
  ⟨0x69074, 0x0, 0x0, 0x0, 0x0, 0x0, 0x0, .both⟩,
  ⟨0x69078, 0x0, 0x0, 0x0, 0x0, 0x0, 0x0, .both⟩,
  ⟨0x6907C, 0x0, 0x0, 0x0, 0x0, 0x0, 0x0, .both⟩,
  ⟨0x69080, 0x0, 0x0, 0x0, 0x0, 0xFFFFFFFF, 0x0, .both⟩,
  ⟨0x69084, 0x0, 0x0, 0x0, 0x0, 0xFFFFFFFF, 0x0, .both⟩,
  ⟨0x69088, 0x0, 0x0, 0x0, 0x0, 0xFFFFFFFF, 0x0, .both⟩]

/-- Registers of page 0x070. -/
def regRows70 : List RegRow := [
  ⟨0x70040, 0x0, 0x1, 0x0, 0x0, 0x0, 0x0, .bar2⟩,
  ⟨0x70044, 0x0, 0x0, 0x0, 0x0, 0x0, 0x0, .both⟩,
  ⟨0x70048, 0x0, 0x3FFFFF, 0x0, 0x0, 0x0, 0x0, .both⟩,
  ⟨0x7004C, 0x0, 0x0, 0x0, 0xF3, 0x0, 0x0, .bar2⟩,
  ⟨0x70050, 0x0, 0xFFFFFFF, 0x0, 0x0, 0x0, 0x320840, .bar2⟩,
  ⟨0x70054, 0x0, 0xFFFF, 0x0, 0x0, 0x0, 0x6190, .bar2⟩,
  ⟨0x70058, 0x0, 0xFFFFFF, 0x0, 0x0, 0x0, 0x3D090, .bar2⟩,
  ⟨0x7005C, 0x0, 0x0, 0x0, 0x0, 0x0, 0x0, .both⟩,
  ⟨0x70060, 0x0, 0x0, 0x0, 0x0, 0x0, 0x0, .both⟩,
  ⟨0x70064, 0x0, 0x0, 0x0, 0x0, 0x0, 0x0, .both⟩,
  ⟨0x70068, 0x0, 0xFFFFFFFF, 0x0, 0x0, 0x0, 0x0, .bar2⟩,
  ⟨0x7006C, 0x0, 0xFFFFFFFF, 0x0, 0x0, 0x0, 0x0, .bar2⟩,
  ⟨0x70070, 0x0, 0x0, 0x0, 0x1F, 0x0, 0x0, .bar2⟩,
  ⟨0x70074, 0x0, 0x1, 0x0, 0x0, 0x0, 0x0, .bar2⟩,
  ⟨0x70078, 0x0, 0x0, 0x0, 0x0, 0x0, 0x0, .both⟩,
  ⟨0x7007C, 0x0, 0xFFFFFFF, 0x0, 0x0, 0x0, 0x0, .bar2⟩,
  ⟨0x70080, 0x0, 0x0, 0x0, 0x1, 0x0, 0x0, .bar2⟩,
  ⟨0x70084, 0x0, 0x0, 0x0, 0x0, 0x0, 0x0, .both⟩,
  ⟨0x70088, 0x0, 0x0, 0x0, 0x0, 0xFFFFFFFF, 0x0, .both⟩,
  ⟨0x7008C, 0x0, 0x0, 0x0, 0x0, 0xFFFFFFFF, 0x0, .both⟩,
  ⟨0x70090, 0x0, 0x0, 0x0, 0x0, 0xFFFFFFFF, 0x0, .both⟩,
  ⟨0x70094, 0x0, 0x0, 0x0, 0x0, 0xFFFFFFFF, 0x0, .both⟩,
  ⟨0x70098, 0x0, 0x0, 0x0, 0x0, 0xFFFFFFFF, 0x0, .both⟩]

/-- Registers of page 0x078, part 1. -/
def regRows78a : List RegRow := [
  ⟨0x78040, 0x0, 0x0, 0x0, 0x0, 0x0, 0x0, .both⟩,
  ⟨0x78044, 0x0, 0x0, 0x0, 0x0, 0x0, 0x0, .both⟩,
  ⟨0x78048, 0x0, 0x0, 0x0, 0x0, 0x0, 0x0, .both⟩,
  ⟨0x7804C, 0x0, 0x0, 0x0, 0x0, 0x0, 0x0, .both⟩,
  ⟨0x78050, 0x0, 0x0, 0x0, 0x0, 0x0, 0x6DB6DB6E, .both⟩,
  ⟨0x78054, 0x0, 0x0, 0x0, 0x0, 0x0, 0x1, .both⟩,
  ⟨0x78058, 0x0, 0x0, 0x0, 0xFFFFFFFF, 0x0, 0x0, .core⟩,
  ⟨0x7805C, 0x0, 0x0, 0x0, 0xFFFFFFFF, 0x0, 0x0, .core⟩,
  ⟨0x78060, 0x0, 0x0, 0x0, 0xFFFFFFFF, 0x0, 0x0, .core⟩,
  ⟨0x78064, 0x0, 0x0, 0x0, 0x3, 0x0, 0x0, .core⟩,
  ⟨0x78068, 0x0, 0x0, 0x0, 0x0, 0x0, 0xF00, .both⟩,
  ⟨0x7806C, 0x0, 0x0, 0x0, 0x0, 0x0, 0x0, .both⟩,
  ⟨0x78070, 0x0, 0xFFF, 0x0, 0x0, 0x0, 0xC00, .bar2⟩,
  ⟨0x78074, 0x0, 0xFF, 0x0, 0x0, 0x0, 0x3C, .bar2⟩,
  ⟨0x78078, 0x0, 0x1F, 0x0, 0x0, 0x0, 0x0, .bar2⟩,
  ⟨0x7807C, 0x0, 0xFFFFFFFF, 0x0, 0x0, 0x0, 0x0, .both⟩,
  ⟨0x78080, 0x0, 0xFFFFFFFF, 0x0, 0x0, 0x0, 0x0, .both⟩,
  ⟨0x78084, 0x0, 0x0, 0x0, 0x0, 0x0, 0x0, .both⟩,
  ⟨0x78088, 0x0, 0x0, 0x0, 0x0, 0x0, 0x0, .both⟩,
  ⟨0x7808C, 0x0, 0x3, 0x0, 0x0, 0x0, 0x0, .bar2⟩,
  ⟨0x78090, 0x0, 0xFFFFFFFF, 0x0, 0x0, 0x0, 0x0, .bar2⟩,
  ⟨0x78094, 0x0, 0xFFFFFFFF, 0x0, 0x0, 0x0, 0x0, .bar2⟩,
  ⟨0x78098, 0x0, 0xFFFFFFFF, 0x0, 0x0, 0x0, 0x0, .bar2⟩,
  ⟨0x7809C, 0x0, 0xFFFFFFFF, 0x0, 0x0, 0x0, 0x0, .bar2⟩]

/-- Registers of page 0x078, part 2. -/
def regRows78b : List RegRow := [
  ⟨0x780A0, 0x0, 0xFFFFFFFF, 0x0, 0x0, 0x0, 0x0, .bar2⟩,
  ⟨0x780A4, 0x0, 0x1, 0x0, 0x0, 0x0, 0x0, .bar2⟩,
  ⟨0x780A8, 0x0, 0x0, 0x0, 0x0, 0xFFFFFFFF, 0x0, .both⟩,
  ⟨0x780AC, 0x0, 0x0, 0x0, 0x0, 0xFFFFFFFF, 0x0, .both⟩,
  ⟨0x780B0, 0x0, 0x0, 0x0, 0x0, 0xFFFFFFFF, 0x0, .both⟩,
  ⟨0x780B4, 0x0, 0x0, 0x0, 0x0, 0xFFFFFFFF, 0x0, .both⟩]

/-- Registers of page 0x080, part 1. -/
def regRows80a : List RegRow := [
  ⟨0x80040, 0x0, 0x0, 0x0, 0x3FF, 0x0, 0x0, .both⟩,
  ⟨0x80044, 0x0, 0x3FF, 0x0, 0x0, 0x0, 0x0, .bar2⟩,
  ⟨0x80058, 0x0, 0xF, 0x0, 0x0, 0x0, 0x0, .bar2⟩,
  ⟨0x80048, 0x0, 0x1F1FF, 0x0, 0x80000, 0x0, 0x0, .both⟩,
  ⟨0x8004C, 0x0, 0xFFFF, 0x0, 0x0, 0x0, 0x0, .both⟩,
  ⟨0x80050, 0x0, 0xFFFFFF, 0x0, 0x0, 0x0, 0x30D4, .both⟩,
  ⟨0x80054, 0x0, 0x0, 0x0, 0x0, 0x0, 0x0, .both⟩,
  ⟨0x8005C, 0x0, 0x0, 0x0, 0x0, 0x0, 0x0, .both⟩,
  ⟨0x80060, 0x0, 0x0, 0x0, 0xF3FF, 0x0, 0x0, .bar2⟩,
  ⟨0x80064, 0x0, 0x0, 0x0, 0xF3FF, 0x0, 0x0, .bar2⟩,
  ⟨0x80068, 0x0, 0x0, 0x0, 0x0, 0x0, 0x0, .both⟩,
  ⟨0x8006C, 0x0, 0x0, 0x3FFFFF, 0x0, 0x0, 0x0, .both⟩,
  ⟨0x80070, 0x0, 0x3FFFFF, 0x0, 0x0, 0x0, 0x0, .both⟩,
  ⟨0x80074, 0x0, 0x0, 0x0, 0x0, 0x0, 0x0, .both⟩,
  ⟨0x80078, 0x0, 0x0, 0x0, 0x0, 0xFFFFFFFF, 0x0, .both⟩,
  ⟨0x8007C, 0x0, 0x0, 0x0, 0x0, 0xFFFFFFFF, 0x0, .both⟩,
  ⟨0x80080, 0x0, 0x0, 0x0, 0x0, 0xFFFFFFFF, 0x0, .both⟩,
  ⟨0x800C0, 0x0, 0x0, 0x0, 0x0, 0x0, 0x0, .both⟩,
  ⟨0x800C4, 0x0, 0x0, 0x0, 0x0, 0x0, 0x0, .both⟩,
  ⟨0x800C8, 0x0, 0x0, 0x0, 0x0, 0x0, 0x0, .both⟩,
  ⟨0x800CC, 0x0, 0x0, 0x0, 0x0, 0x0, 0x0, .both⟩,
  ⟨0x800D0, 0x0, 0x0, 0x0, 0x0, 0x0, 0x0, .both⟩,
  ⟨0x800D4, 0x0, 0x0, 0x0, 0x0, 0x0, 0x0, .both⟩,
  ⟨0x800D8, 0x0, 0x0, 0x0, 0x0, 0x0, 0x0, .both⟩]

/-- Registers of page 0x080, part 2. -/
def regRows80b : List RegRow := [
  ⟨0x800DC, 0x0, 0x0, 0x0, 0x0, 0x0, 0x0, .both⟩,
  ⟨0x800E0, 0x0, 0x0, 0x0, 0x0, 0x0, 0x0, .both⟩,
  ⟨0x800E4, 0x0, 0x0, 0x0, 0x0, 0x0, 0x0, .both⟩,
  ⟨0x800E8, 0x0, 0x0, 0x0, 0x0, 0x0, 0x0, .both⟩,
  ⟨0x800EC, 0x0, 0x0, 0x0, 0x0, 0x0, 0x0, .both⟩,
  ⟨0x800F0, 0x0, 0x0, 0x0, 0x0, 0x0, 0x0, .both⟩,
  ⟨0x800F4, 0x0, 0x0, 0x0, 0x0, 0x0, 0x0, .both⟩,
  ⟨0x800F8, 0x0, 0x0, 0x0, 0x0, 0x0, 0x0, .both⟩,
  ⟨0x800FC, 0x0, 0x0, 0x0, 0x0, 0x0, 0x0, .both⟩,
  ⟨0x80100, 0x0, 0x0, 0x0, 0x0, 0x0, 0x0, .both⟩,
  ⟨0x80104, 0x0, 0x0, 0x0, 0x0, 0x0, 0x0, .both⟩,
  ⟨0x80108, 0x0, 0x0, 0x0, 0x0, 0x0, 0x0, .both⟩,
  ⟨0x8010C, 0x0, 0x0, 0x0, 0x0, 0x0, 0x0, .both⟩,
  ⟨0x80110, 0x0, 0x0, 0x0, 0x0, 0x0, 0x0, .both⟩,
  ⟨0x80114, 0x0, 0x0, 0x0, 0x0, 0x0, 0x0, .both⟩,
  ⟨0x80118, 0x0, 0x0, 0x0, 0x0, 0x0, 0x0, .both⟩,
  ⟨0x8011C, 0x0, 0x0, 0x0, 0x0, 0x0, 0x0, .both⟩,
  ⟨0x80120, 0x0, 0x0, 0x0, 0x0, 0x0, 0x0, .both⟩,
  ⟨0x80124, 0x0, 0x0, 0x0, 0x0, 0x0, 0x0, .both⟩,
  ⟨0x80128, 0x0, 0x0, 0x0, 0x0, 0x0, 0x0, .both⟩,
  ⟨0x8012C, 0x0, 0x0, 0x0, 0x0, 0x0, 0x0, .both⟩,
  ⟨0x80130, 0x0, 0x0, 0x0, 0x0, 0x0, 0x0, .both⟩,
  ⟨0x80134, 0x0, 0x0, 0x0, 0x0, 0x0, 0x0, .both⟩,
  ⟨0x80138, 0x0, 0x0, 0x0, 0x0, 0x0, 0x0, .both⟩]

/-- Registers of page 0x080, part 3. -/
def regRows80c : List RegRow := [
  ⟨0x8013C, 0x0, 0x0, 0x0, 0x0, 0x0, 0x0, .both⟩]

/-- Registers of page 0x081. -/
def regRows81 : List RegRow := [
  ⟨0x81040, 0x0, 0x0, 0x1FFFFF, 0x0, 0x0, 0x0, .both⟩,
  ⟨0x81044, 0x0, 0x0, 0x0, 0x0, 0x0, 0x0, .both⟩,
  ⟨0x81048, 0x0, 0xFFFFFFFF, 0x0, 0x0, 0x0, 0x0, .bar2⟩,
  ⟨0x8104C, 0x0, 0x3FFF, 0x0, 0x0, 0x0, 0x0, .bar2⟩,
  ⟨0x81050, 0x0, 0x1F, 0x0, 0x0, 0x0, 0x14, .bar2⟩,
  ⟨0x81054, 0x3FFFFF, 0x0, 0x0, 0x0, 0x0, 0x0, .both⟩,
  ⟨0x81058, 0x0, 0x0, 0x0, 0x0, 0x0, 0x0, .both⟩,
  ⟨0x8105C, 0x0, 0x0, 0x0, 0x0, 0xFFFFFFFF, 0x0, .both⟩,
  ⟨0x81060, 0x0, 0x0, 0x0, 0x0, 0xFFFFFFFF, 0x0, .both⟩,
  ⟨0x81064, 0x0, 0xFFF, 0x0, 0x0, 0x0, 0x0, .bar2⟩,
  ⟨0x81068, 0x0, 0x0, 0x0, 0x0, 0x0, 0x0, .both⟩,
  ⟨0x8106C, 0x0, 0x11F, 0x0, 0x0, 0x0, 0x100, .both⟩,
  ⟨0x81070, 0x0, 0x1FFFF, 0x0, 0x0, 0x0, 0x30D4, .both⟩,
  ⟨0x81074, 0x0, 0x0, 0x0, 0x0, 0xFFFFFFFF, 0x0, .both⟩,
  ⟨0x81080, 0x0, 0x0, 0x0, 0x0, 0xFFFFFFFF, 0x0, .both⟩,
  ⟨0x81078, 0x0, 0x0, 0x0, 0x0, 0x0, 0x0, .both⟩,
  ⟨0x8107C, 0x0, 0x0, 0x0, 0x0, 0x0, 0x0, .both⟩,
  ⟨0x81084, 0x0, 0x0, 0x0, 0xFFFFFFFF, 0x0, 0x0, .core⟩,
  ⟨0x81088, 0x0, 0x0, 0x0, 0xFFFFFFFF, 0x0, 0x0, .core⟩,
  ⟨0x8108C, 0x0, 0x0, 0x0, 0xFFFFFFFF, 0x0, 0x0, .core⟩,
  ⟨0x81090, 0x0, 0x0, 0x0, 0xFFFFFFFF, 0x0, 0x0, .core⟩]

/-- Registers of page 0x088. -/
def regRows88 : List RegRow := [
  ⟨0x88040, 0x0, 0x0, 0x0, 0x0, 0x0, 0x0, .both⟩,
  ⟨0x88044, 0x0, 0x0, 0x0, 0x0, 0x0, 0x0, .both⟩,
  ⟨0x88048, 0x0, 0x0, 0x0, 0x0, 0xFFFFFFFF, 0x0, .both⟩,
  ⟨0x8804C, 0x0, 0x0, 0x0, 0x0, 0xFFFFFFFF, 0x0, .both⟩,
  ⟨0x88050, 0x0, 0x0, 0x0, 0x0, 0xFFFFFFFF, 0x0, .both⟩,
  ⟨0x88054, 0x0, 0x0, 0x0, 0x0, 0xFFFFFFFF, 0x0, .both⟩,
  ⟨0x88058, 0x0, 0x0, 0x0, 0x0, 0xFFFFFFFF, 0x0, .both⟩,
  ⟨0x8805C, 0x0, 0x0, 0x0, 0x0, 0xFFFFFFFF, 0x0, .both⟩]

/-- Registers of page 0x089. -/
def regRows89 : List RegRow := [
  ⟨0x89040, 0xFFFFFFF, 0x0, 0x0, 0x0, 0x0, 0x0, .bar2⟩,
  ⟨0x89044, 0x0, 0x0, 0x0, 0x1, 0x0, 0x0, .bar2⟩,
  ⟨0x89048, 0x0, 0x0, 0x0, 0x0, 0x0, 0x0, .both⟩,
  ⟨0x8904C, 0x0, 0x0, 0x0, 0x0, 0x0, 0x0, .both⟩,
  ⟨0x89050, 0x3F, 0x0, 0x0, 0x0, 0x0, 0x0, .bar2⟩,
  ⟨0x89054, 0x0, 0x0, 0x0, 0x0, 0x0, 0x0, .both⟩,
  ⟨0x89058, 0x0, 0x0, 0x0, 0x0, 0xFFFFFFFF, 0x0, .both⟩]

/-- Registers of page 0x090. -/
def regRows90 : List RegRow := [
  ⟨0x90040, 0x0, 0x0, 0x0, 0x0, 0x0, 0x0, .both⟩,
  ⟨0x90044, 0x0, 0x0, 0x0, 0x0, 0x0, 0x0, .both⟩,
  ⟨0x90048, 0x0, 0x0, 0x0, 0x0, 0x0, 0x0, .both⟩,
  ⟨0x9004C, 0x0, 0x0, 0x0, 0x0, 0x0, 0x0, .both⟩,
  ⟨0x90050, 0x0, 0x0, 0x0, 0x0, 0x0, 0x0, .both⟩,
  ⟨0x90054, 0x0, 0x7, 0x0, 0x0, 0x0, 0x0, .bar2⟩,
  ⟨0x90058, 0x0, 0x0, 0x0, 0x0, 0x0, 0x0, .both⟩,
  ⟨0x9005C, 0x0, 0x0, 0x0, 0x0, 0x0, 0x0, .both⟩,
  ⟨0x90060, 0x0, 0x0, 0x0, 0x0, 0x0, 0x0, .both⟩,
  ⟨0x90064, 0x0, 0x0, 0x0, 0x0, 0x0, 0x0, .both⟩,
  ⟨0x90068, 0x0, 0x0, 0x0, 0x0, 0x0, 0x0, .both⟩,
  ⟨0x9006C, 0x0, 0x0, 0x0, 0x0, 0x0, 0x0, .both⟩,
  ⟨0x90070, 0x0, 0x0, 0x0, 0x0, 0x0, 0x0, .both⟩,
  ⟨0x90074, 0x0, 0x0, 0x0, 0x0, 0x0, 0x0, .both⟩,
  ⟨0x90078, 0x0, 0x0, 0x0, 0x0, 0x0, 0x0, .both⟩,
  ⟨0x9007C, 0x0, 0x0, 0x0, 0x0, 0xFFFFFFFF, 0x0, .both⟩,
  ⟨0x90080, 0x0, 0x0, 0x0, 0x0, 0xFFFFFFFF, 0x0, .both⟩,
  ⟨0x90084, 0x0, 0x0, 0x0, 0x0, 0xFFFFFFFF, 0x0, .both⟩]

/-- Registers of page 0x098. -/
def regRows98 : List RegRow := [
  ⟨0x98040, 0x0, 0x0, 0x0, 0x0, 0x0, 0x30, .both⟩,
  ⟨0x98044, 0x0, 0x0, 0x0, 0x7, 0x0, 0x0, .bar2⟩,
  ⟨0x98048, 0x0, 0x0, 0x0, 0x0, 0x0, 0x0, .both⟩,
  ⟨0x9804C, 0x0, 0xF, 0x0, 0x0, 0x0, 0x0, .bar2⟩,
  ⟨0x98050, 0x0, 0x0, 0x0, 0x0, 0x0, 0x0, .both⟩,
  ⟨0x98054, 0x0, 0x7, 0x0, 0x0, 0x0, 0x0, .bar2⟩,
  ⟨0x98058, 0x0, 0x0, 0x0, 0x0, 0x0, 0x0, .both⟩,
  ⟨0x9805C, 0x0, 0xFFFFFF, 0x0, 0x0, 0x0, 0x6E535F, .bar2⟩,
  ⟨0x98060, 0x0, 0xFFF, 0x0, 0x0, 0x0, 0x708, .bar2⟩,
  ⟨0x98064, 0x0, 0x0, 0x0, 0x0, 0xFFF0000, 0x0, .both⟩,
  ⟨0x98068, 0x0, 0x7, 0x0, 0x0, 0x0, 0x0, .bar2⟩,
  ⟨0x9806C, 0x0, 0x0, 0x0, 0x0, 0x0, 0x0, .both⟩,
  ⟨0x98070, 0x0, 0x0, 0x0, 0x0, 0x0, 0x0, .both⟩,
  ⟨0x98074, 0x0, 0x0, 0x0, 0x0, 0xFFFFFFFF, 0x0, .both⟩,
  ⟨0x98078, 0x0, 0x0, 0x0, 0x0, 0xFFFFFFFF, 0x0, .both⟩]

/-- Registers of page 0x0A0. -/
def regRowsA0 : List RegRow := [
  ⟨0xA0040, 0x0, 0xFFFFFFFF, 0x0, 0x0, 0x0, 0x0, .bar2⟩,
  ⟨0xA0044, 0x0, 0x3FFF, 0x0, 0x0, 0x0, 0x0, .bar2⟩,
  ⟨0xA0048, 0x0, 0x0, 0x0, 0x0, 0x0, 0x0, .both⟩,
  ⟨0xA004C, 0x0, 0x0, 0x0, 0x0, 0x0, 0x0, .both⟩,
  ⟨0xA0050, 0x0, 0x0, 0x0, 0x0, 0x0, 0x0, .both⟩,
  ⟨0xA0054, 0x0, 0x0, 0x0, 0x0, 0x0, 0x0, .both⟩,
  ⟨0xA0058, 0x0, 0x0, 0x0, 0x0, 0x0, 0x0, .both⟩,
  ⟨0xA005C, 0x0, 0x0, 0x0, 0x0, 0x0, 0x0, .both⟩,
  ⟨0xA0060, 0x0, 0x0, 0x0, 0x0, 0x0, 0x0, .both⟩,
  ⟨0xA0064, 0x0, 0x0, 0x0, 0x0, 0x0, 0x0, .both⟩,
  ⟨0xA0068, 0x0, 0x0, 0x0, 0x0, 0x0, 0x0, .both⟩,
  ⟨0xA006C, 0x0, 0x0, 0x0, 0x0, 0x0, 0x0, .both⟩,
  ⟨0xA0070, 0x0, 0x1, 0x0, 0x0, 0x0, 0x0, .bar2⟩,
  ⟨0xA0074, 0x0, 0x0, 0x0, 0x0, 0x0, 0x0, .both⟩,
  ⟨0xA0078, 0x0, 0x0, 0x0, 0x0, 0xFFFFFFFF, 0x0, .both⟩,
  ⟨0xA007C, 0x0, 0x0, 0x0, 0x0, 0xFFFFFFFF, 0x0, .both⟩,
  ⟨0xA0080, 0x0, 0x0, 0x0, 0x0, 0xFFFFFFFF, 0x0, .both⟩,
  ⟨0xA0084, 0x0, 0x0, 0x0, 0x0, 0xFFFFFFFF, 0x0, .both⟩]

/-- Registers of page 0x0A1. -/
def regRowsA1 : List RegRow := [
  ⟨0xA1040, 0x0, 0xFFFFFFFF, 0x0, 0x0, 0x0, 0x0, .bar2⟩,
  ⟨0xA1044, 0x0, 0x3FFF, 0x0, 0x0, 0x0, 0x0, .bar2⟩,
  ⟨0xA1048, 0x0, 0x0, 0x0, 0x0, 0x0, 0x3E8, .both⟩,
  ⟨0xA104C, 0x0, 0x7FF07FF, 0x0, 0x0, 0x0, 0x6401F4, .bar2⟩,
  ⟨0xA1050, 0x0, 0x1FFFFFFF, 0x0, 0x0, 0x0, 0xC01E848, .bar2⟩,
  ⟨0xA1054, 0x0, 0xF, 0x0, 0x0, 0x0, 0x0, .bar2⟩,
  ⟨0xA1058, 0x0, 0xFFFFFFFF, 0x0, 0x0, 0x0, 0x0, .both⟩,
  ⟨0xA105C, 0x0, 0x0, 0x0, 0x0, 0x0, 0x0, .both⟩,
  ⟨0xA1060, 0x0, 0xFFFFFFFF, 0x0, 0x0, 0x0, 0x47868C0, .bar2⟩,
  ⟨0xA1064, 0x0, 0xFFFFFF, 0x0, 0x0, 0x0, 0x30D40, .bar2⟩,
  ⟨0xA1068, 0x0, 0xF, 0x0, 0x0, 0x0, 0x3, .bar2⟩,
  ⟨0xA106C, 0x0, 0x0, 0x0, 0x0, 0x0, 0x0, .both⟩,
  ⟨0xA1070, 0x0, 0x0, 0x0, 0x0, 0x0, 0x0, .both⟩,
  ⟨0xA1074, 0x0, 0x0, 0x0, 0x0, 0x0, 0x0, .both⟩,
  ⟨0xA1078, 0x0, 0x0, 0x0, 0x0, 0x0, 0x0, .both⟩,
  ⟨0xA107C, 0x0, 0x0, 0x0, 0x0, 0x0, 0x0, .both⟩,
  ⟨0xA1080, 0x0, 0x0, 0x0, 0x0, 0xFFFFFFFF, 0x0, .both⟩,
  ⟨0xA1084, 0x0, 0x0, 0x0, 0x0, 0xFFFFFFFF, 0x0, .both⟩,
  ⟨0xA1088, 0x0, 0x0, 0x0, 0x0, 0xFFFFFFFF, 0x0, .both⟩,
  ⟨0xA108C, 0x0, 0x3FF, 0x0, 0x0, 0x0, 0x0, .bar2⟩,
  ⟨0xA1090, 0x0, 0x0, 0x0, 0x0, 0x0, 0x0, .both⟩]

/-- Registers of page 0x0B0. -/
def regRowsB0 : List RegRow := [
  ⟨0xB0040, 0x0, 0xFFFFFFFF, 0x0, 0x0, 0x0, 0x0, .bar2⟩,
  ⟨0xB0044, 0x0, 0x3FFF, 0x0, 0x0, 0x0, 0x0, .bar2⟩,
  ⟨0xB0048, 0x0, 0xFFFFFFFF, 0x0, 0x0, 0x0, 0x0, .bar2⟩,
  ⟨0xB004C, 0x0, 0xFFFFFFFF, 0x0, 0x0, 0x0, 0x0, .bar2⟩,
  ⟨0xB0050, 0x0, 0x0, 0x0, 0x3, 0x0, 0x0, .bar2⟩,
  ⟨0xB0054, 0x0, 0x0, 0x0, 0x0, 0x0, 0x0, .both⟩,
  ⟨0xB0058, 0x0, 0x0, 0x0, 0x0, 0x0, 0x0, .both⟩,
  ⟨0xB0060, 0x0, 0x1FF, 0x0, 0x0, 0x0, 0x0, .bar2⟩,
  ⟨0xB0064, 0x0, 0x0, 0x0, 0x0, 0x0, 0x0, .both⟩,
  ⟨0xB0068, 0x0, 0x0, 0x0, 0x0, 0x0, 0x0, .both⟩,
  ⟨0xB006C, 0x0, 0x0, 0x0, 0x0, 0xFFFFFFFF, 0x0, .both⟩,
  ⟨0xB0070, 0x0, 0x0, 0x0, 0x0, 0x0, 0x2800, .both⟩,
  ⟨0xB0074, 0x0, 0x0, 0x0, 0x0, 0x0, 0x2800, .both⟩,
  ⟨0xB0078, 0x0, 0x0, 0x0, 0x0, 0x0, 0x2800, .both⟩,
  ⟨0xB007C, 0x0, 0x0, 0x0, 0x0, 0x0, 0x2800, .both⟩,
  ⟨0xB0080, 0x0, 0x0, 0x0, 0x0, 0x0, 0x2800, .both⟩,
  ⟨0xB0084, 0x0, 0x0, 0x0, 0x0, 0x0, 0x2800, .both⟩,
  ⟨0xB0088, 0x0, 0x0, 0x0, 0x0, 0x0, 0x2800, .both⟩,
  ⟨0xB008C, 0x0, 0x0, 0x0, 0x0, 0x0, 0x2800, .both⟩,
  ⟨0xB0090, 0x0, 0x0, 0x0, 0x0, 0xFFFFFFFF, 0x0, .both⟩]

/-- Registers of page 0x0B1. -/
def regRowsB1 : List RegRow := [
  ⟨0xB1040, 0x0, 0xFFFFFFFF, 0x0, 0x0, 0x0, 0x0, .bar2⟩,
  ⟨0xB1044, 0x0, 0x3FFF, 0x0, 0x0, 0x0, 0x0, .bar2⟩,
  ⟨0xB1048, 0x0, 0x0, 0x0, 0xFFF0003, 0x0, 0x0, .bar2⟩,
  ⟨0xB104C, 0x0, 0x0, 0x0, 0x0, 0x0, 0x0, .both⟩,
  ⟨0xB1050, 0x0, 0x0, 0x0, 0x0, 0x0, 0x0, .both⟩,
  ⟨0xB1054, 0x0, 0x0, 0x0, 0xFFFFFFF, 0x0, 0x0, .both⟩,
  ⟨0xB1058, 0x0, 0xFF0FFF, 0x0, 0x0, 0x0, 0x0, .bar2⟩,
  ⟨0xB105C, 0x0, 0x0, 0x0, 0x0, 0x0, 0x0, .both⟩,
  ⟨0xB1060, 0x0, 0x0, 0x0, 0x0, 0x0, 0x0, .both⟩,
  ⟨0xB1064, 0x0, 0x0, 0x0, 0x0, 0x0, 0x0, .both⟩,
  ⟨0xB1068, 0x0, 0xFFFFFFFF, 0x0, 0x0, 0x0, 0x0, .bar2⟩,
  ⟨0xB106C, 0x0, 0x3FFF, 0x0, 0x0, 0x0, 0x0, .bar2⟩,
  ⟨0xB1070, 0x0, 0xC3FF001F, 0x0, 0x0, 0x0, 0x0, .both⟩,
  ⟨0xB1074, 0xFFFF, 0x0, 0x0, 0x0, 0x0, 0x0, .both⟩,
  ⟨0xB1078, 0x0, 0x0, 0x0, 0x0, 0x0, 0x0, .both⟩,
  ⟨0xB1080, 0x0, 0x0, 0x0, 0x0, 0x0, 0x0, .both⟩,
  ⟨0xB1084, 0x0, 0x0, 0x0, 0x0, 0xFFFFFFFF, 0x0, .both⟩,
  ⟨0xB1088, 0x0, 0x0, 0x0, 0x0, 0xFFFFFFFF, 0x0, .both⟩,
  ⟨0xB108C, 0x0, 0x0, 0x0, 0x0, 0xFFFFFFFF, 0x0, .both⟩,
  ⟨0xB1090, 0x0, 0x0, 0x0, 0x0, 0xFFFFFFFF, 0x0, .both⟩]

/-- The block-specific registers of a page, by the first page of its kind. -/
def pageRows (page : Nat) : List RegRow :=
  match page with
  | 0x0 => regRows00
  | 0x1 => regRows01
  | 0x10 => regRows10
  | 0x20 => regRows20
  | 0x40 => regRows40
  | 0x41 => regRows41
  | 0x42 => regRows42
  | 0x48 => regRows48
  | 0x50 => regRows50
  | 0x51 => regRows51a ++ regRows51b
  | 0x52 => regRows52
  | 0x58 => regRows58
  | 0x59 => regRows59
  | 0x60 => regRows60a ++ regRows60b
  | 0x64 => regRows64a ++ regRows64b
  | 0x68 => regRows68
  | 0x69 => regRows69
  | 0x70 => regRows70
  | 0x78 => regRows78a ++ regRows78b
  | 0x80 => regRows80a ++ regRows80b ++ regRows80c
  | 0x81 => regRows81
  | 0x88 => regRows88
  | 0x89 => regRows89
  | 0x90 => regRows90
  | 0x98 => regRows98
  | 0xA0 => regRowsA0
  | 0xA1 => regRowsA1
  | 0xB0 => regRowsB0
  | 0xB1 => regRowsB1
  | _ => []

end Sys2Proof.Machine
end

