-- ==== Sys2Proof/Config.lean ====
section
/-!
DEFINITION. What the manual leaves open and the model leaves free: constants with no body, of which nothing can be
proved but what holds of every value.
-/
namespace Sys2Proof

/-- The n-th free value drawn: a value the manual does not fix (log entries name each use). -/
opaque Config.freeValue : Nat → Nat

/-- The bytes of the n-th free byte string of a length: nonces, IVs and keys drawn at random. -/
opaque Config.freeByte : Nat → Nat → Byte

/-- The target format of a CONVERT and the choice of a MAXMIN, by what the stream's open record and the tile's format say: the manual
names no field for either (R110). -/
opaque Config.convertTarget : List Nat → Nat
/-- Maximum? -/
opaque Config.maxminMax : List Nat → Bool

/-- The bank of a stack that holds a stack offset (R165 repairs per bank; the mapping is not given). -/
opaque Config.hbmBank : Nat → Nat

/-- The row of a stack that holds a stack offset (R165; the mapping is not given). -/
opaque Config.hbmRow : Nat → Nat

/-- The SHA-256 of the boot ROM (0), of the first stage (1), the Mirder image (2) and the configuration body (3) as manufactured. -/
opaque Config.factoryDigest : Nat → List Byte

/-- Brynraec's firmware root public key, device root public key and transfer key, as HSS public keys (R415, R419, R421). -/
opaque Config.rootKey : Nat → List Byte

/-- The part's serial number, its identity public key and its device certificate (R420, R421). -/
opaque Config.serial : Nat
/-- The identity public key. -/
opaque Config.idKey : List Byte
/-- The device certificate. -/
opaque Config.deviceCert : List Byte

/-- ML-KEM-1024 (FIPS 203): the encapsulation and decapsulation keys of the n-th key generation. -/
opaque Config.kemKeys : Nat → List Byte × List Byte
/-- Encapsulation under a key with the n-th randomness: the shared secret and the ciphertext. -/
opaque Config.kemEncaps : List Byte → Nat → List Byte × List Byte
/-- Decapsulation of a ciphertext: the shared secret. -/
opaque Config.kemDecaps : List Byte → List Byte → List Byte

end Sys2Proof
end

