-- ==== Sys2Proof/Machine/State.lean ====
section
/-!
DEFINITION. The state of the part, as plain data: its register file, its storage and, unit by unit, what the
manual gives it beside registers. The registers stand in `regs`, keyed by bank × 2^20 + page × 0x1000 + offset
and listed only where they differ from their reset values (Machine/Regs.lean); INVENTORY.md lists them one by one.
-/
namespace Sys2Proof.Machine

/-! ### Ticks and time (R40 to R44, R352 to R369) -/

/-- The cadence tick. Times are in units of 2^-32 ns since the PTP epoch (R352 carries the fraction to 32 bits). -/
structure TickSt where
  /-- The number of the last boundary emitted (R40), 64 bits. -/
  now : Nat := 0
  /-- The master time counter on H0 (R352). -/
  counter : Nat := 0
  /-- The follower counter on H1 (R41). -/
  follower : Nat := 0
  /-- The increment in force, in 2^-32 ns per 700 MHz cycle (R353). -/
  incr : Nat := 6135667566
  /-- The last boundary found H1's counter differing: load it at the next (R41). -/
  reload : Bool := false
  /-- Boundaries are held after a backward step (R42). -/
  held : Bool := false
  /-- The throttle level k in force now on each field die (R43, R435, R436). -/
  level : List Nat := [0, 0, 0, 0, 0, 0, 0, 0]
  /-- The lowest level that each field die has had in the tick (R43). -/
  levelMin : List Nat := [0, 0, 0, 0, 0, 0, 0, 0]
  /-- The highest level that each field die has had in the tick (R43). -/
  levelMax : List Nat := [0, 0, 0, 0, 0, 0, 0, 0]
  /-- Which field dies were parked when the tick began: their arithmetic clocks stand (R43, R433). -/
  parked : List Bool := [true, true, true, true, true, true, true, true]
  deriving DecidableEq, Repr

/-- One PTP port (R357): the data Mirder's boundary clock keeps for it. -/
structure PtpPort where
  /-- The announce message last received: (priority1, clock quality, priority2, identity, steps removed, port identity). -/
  announce : Option (List Nat) := none
  /-- The tick of the last Announce. -/
  lastAnnounce : Nat := 0
  /-- A Sync received whose Follow_Up is awaited: (sequence id, receive stamp). -/
  sync : Option (Nat × Int) := none
  /-- The last completed Sync: (origin time, receive time). -/
  t1t2 : Option (Int × Int) := none
  /-- A Delay_Req sent whose response is awaited: (sequence id, transmit stamp). -/
  req : Option (Nat × Int) := none
  /-- The next sequence ids for Sync, Delay_Req and Announce. -/
  seqs : List Nat := [0, 0, 0]
  deriving DecidableEq, Repr

/-- A timed pulse output's progress (R366, R367). -/
structure Pulse where
  /-- The time of the next scheduled edge, none when nothing is scheduled. -/
  next : Option Nat := none
  /-- While high, the time at which the output falls. -/
  fall : Option Nat := none
  /-- The time of the last scheduled edge fired. -/
  last : Option Nat := none
  deriving DecidableEq, Repr

/-- Mirder's clock servo and the pulse outputs. -/
structure TimeSt where
  ports : List (Nat × PtpPort) := []
  /-- The latency corrections in force, by port key × 2 + receive; a write takes effect at the next boundary (R359). -/
  tsc : List (Nat × Int) := []
  /-- The tick in which the running holdover began, or none. -/
  holdFrom : Option Nat := none
  /-- The tick until which a PATH_STEP freeze lasts (R362), or none. -/
  freezeTo : Option Nat := none
  /-- Delay exchanges completed since the master was selected or the freeze ended (R362). -/
  exchanges : Nat := 0
  /-- Consecutive Sync intervals with the offset within 250 ns (R361). -/
  inBand : Nat := 0
  /-- Mirder's frequency estimate: an increment (R355). How it follows from the offsets is left open. -/
  freq : Nat := 6135667566
  pulses : List Pulse := [{}, {}, {}, {}]
  /-- H1's ports' stamps of this tick are to be discarded (R41). -/
  skewTick : Bool := false
  deriving DecidableEq, Repr

/-! ### Fault collection and interrupts (R370 to R391) -/

/-- What the collector keeps of a fault source beside its registers FLT_SUM, FLT_REACT, FLT_QUIET, FLT_COUNT. -/
structure FltDyn where
  /-- The tick of its last record of severity WARN or above (R380). -/
  last : Nat := 0
  /-- It took the FAULT_N reaction and has not recovered (R376). -/
  holdsN : Bool := false
  /-- The test running for it (R378): (test code of FLT_TEST, context, address). -/
  test : Option (Nat × Nat × Nat) := none
  deriving DecidableEq, Repr

/-- The fault collector. -/
structure FltSt where
  srcs : List (Nat × FltDyn) := []
  /-- Source and kind pairs already met in this tick (R375). -/
  met : List (Nat × Nat) := []
  /-- Blocks whose BLOCK_RESET reaction is to be taken at the end of the command (R376). -/
  blockResets : List Nat := []
  /-- The CHIP_RESET reaction to be taken at the end of the command: source and kind (R377). -/
  chipReset : Option (Nat × Nat) := none
  /-- From a reaction reset until Mirder starts, CHIP_RESET reactions are not taken (R377). -/
  barred : Bool := false
  deriving DecidableEq, Repr

/-- What the interrupt controller keeps of a source beside its registers (R383 to R387). -/
structure IrqDyn where
  /-- The tick in which its pending bit was last set. -/
  lastSet : Option Nat := none
  /-- A message arrived inside the spacing (R386). -/
  latched : Bool := false
  /-- A message arrived in this tick (R387). -/
  msg : Bool := false
  /-- Consecutive complete ticks in which it was active. -/
  run : Nat := 0
  deriving DecidableEq, Repr

/-- The interrupt controller. -/
structure IrqSt where
  srcs : List (Nat × IrqDyn) := []
  /-- Pending bits, as target × 1024 + source, rising. -/
  pend : List Nat := []
  /-- The in-service stack of each target, top first: (source, priority). -/
  serving : List (Nat × List (Nat × Nat)) := []
  /-- Wake latches whose message waits for clocks to run (R388). -/
  owed : List Nat := []
  /-- The level input of each wake latch, at its active level now: the one home of IRQ_WAKE_RAW. -/
  raw : BitVec 32 := 0
  deriving DecidableEq, Repr

/-! ### The host attachment (R392 to R414) -/

/-- The host attachment beside its registers. -/
structure HostSt where
  /-- The nonce last returned and not yet used (R397). -/
  nonce : Option (List Byte) := none
  /-- Refused AUTH responses in a row. -/
  refusals : Nat := 0
  /-- Until this tick every AUTH command answers BUSY. -/
  lockTo : Nat := 0
  /-- PERST_N holds WG9 in reset (R411). -/
  perst : Bool := false
  /-- The tick in which each control core last wrote GLB_WDOG (R410). -/
  wdog : List Nat := [0, 0, 0, 0, 0, 0, 0, 0]
  /-- General Media event records in the CXL event log: the offsets (R393). -/
  events : List Nat := []
  deriving DecidableEq, Repr

/-! ### Memory (R154 to R181) -/

/-- A region table entry (R156, R162). -/
structure Region where
  valid : Bool := false
  lbase : Nat := 0
  len : Nat := 0
  phys : Nat := 0
  mode : Nat := 0
  die : Nat := 0
  kind : Nat := 0
  sealed : Bool := false
  compress : Bool := false
  member : Bool := false
  read : Nat := 0
  write : Nat := 0
  deriving DecidableEq, Repr

/-- The region table (R156): the versions that have been in force, newest first, since a hop finishes under the
table that was in force when it was admitted (R162); a change waiting for its boundary; the outer gate in force. -/
structure RegionSt where
  tables : List (List (Nat × Region)) := [[]]
  change : Option (Nat × Region) := none
  gate : Bool := false
  deriving DecidableEq, Repr

/-- Storage beside the bytes: upsets, repairs and removals (R163 to R166). -/
structure StoreSt where
  /-- Protected words in error, by storage key. -/
  ecc : List (Nat × EccKind) := []
  /-- Repairs left per bank of a stack, as the stack reported them: (stack × 65536 + bank, left). -/
  bankLeft : List (Nat × Nat) := []
  /-- Repairs left over all banks of a stack, as the stack reported them: (stack, left). -/
  stackLeft : List (Nat × Nat) := []
  /-- Rows repaired in the stacks' lives (kept in the stacks): (stack, count). -/
  lifeDone : List (Nat × Nat) := []
  /-- Spare rows used, by cluster (die × 40 + cluster) (R165). -/
  spares : List (Nat × Nat) := []
  /-- Scratchpad rows replaced by a spare, by the row's storage key. -/
  substituted : List Nat := []
  /-- Clusters retired (die × 40 + cluster). -/
  retired : List Nat := []
  /-- Clusters whose scratchpad is a hole (from the boundary after retirement). -/
  holes : List Nat := []
  /-- Hoist SRAM rows removed from use, by the row's storage key. -/
  removed : List Nat := []
  /-- Die-to-die links that have narrowed to half width (R37), as die × 3 + link. -/
  narrow : List Nat := []
  /-- The core local stores (R46, R154), core × 2,048 + offset: which only the core that owns one reaches. -/
  cores : List Host.Cell := []
  /-- The next 64-byte access of each stack's patrol scrub, as an offset. -/
  scrub : List (Nat × Nat) := []
  deriving DecidableEq, Repr

/-- The buffer pool manager beside its registers (R169 to R180). -/
structure PoolSt where
  /-- Segments refused at start (R170), as pool × 8 + segment. -/
  refused : List Nat := []
  /-- Reference counts of P0 cells, held outside any address (R171). -/
  p0 : List (Nat × Nat) := []
  /-- The link words of free P0 cells, where one names another cell than the next one by index (R172): (handle, next). -/
  p0next : List (Nat × Nat) := []
  /-- Releases waiting for a rebuild (R176). -/
  waiting : List Nat := []
  deriving DecidableEq, Repr

/-! ### Stations, tiles and streams (R50 to R79) -/

/-- A tile descriptor as fetched (R52). -/
structure Desc where
  /-- The descriptor's slot in the submission queue. -/
  qidx : Nat := 0
  fmt : Nat := 0
  attr : Nat := 0
  src : Nat := 0
  dst : Nat := 0
  len : Nat := 0
  ring : Nat := 0
  round : Nat := 0
  seq : Nat := 0
  tickSub : Nat := 0
  deriving DecidableEq, Repr

/-- A tile in flight. -/
structure Tile where
  desc : Desc := {}
  /-- The hop it stands at. -/
  hop : Nat := 0
  /-- The tick from which it is present at that hop (R60). -/
  present : Nat := 0
  /-- The tick in which it became due there (R68). -/
  due : Option Nat := none
  /-- The tick in which it was admitted there. -/
  admitted : Option Nat := none
  /-- The cluster of its die on which a TENSOR or VECTOR hop works on it (R70). -/
  cluster : Nat := 0
  /-- Finished at that hop, waiting to move on. -/
  finished : Bool := false
  /-- The tick in which it finished its last hop, or failed. -/
  doneTick : Option Nat := none
  /-- DELAY_TICKS and LATE_TICKS (R69). -/
  delay : Nat := 0
  late : Nat := 0
  /-- The failure code, or none (R65). -/
  fail : Option Nat := none
  /-- The bytes the hops so far hand on, when they are not at SRC. -/
  data : Option (List Byte) := none
  /-- The tile is coded: data holds its coded blocks (R145). -/
  coded : Bool := false
  /-- Bytes written or sent by the last hop. -/
  outLen : Nat := 0
  /-- An arithmetic hop of its route formed the data, which stand on no grid of the engine (R84). -/
  formed : Bool := false
  /-- Region tables still to come into force when it was admitted: the table it uses, counted from the oldest. -/
  table : Nat := 0
  /-- The outer gate in force when it was admitted (R161). -/
  gate : Bool := false
  /-- The landing buffer's handle (R61). -/
  landing : Option Nat := none
  /-- It was counted LATE at this hop already (R69). -/
  lateHere : Bool := false
  /-- The out hop withholds it, or its frames wait at the port (R69, R189). -/
  withheld : Bool := false
  /-- Transfers of it still at an egress port, and the worst outcome of those that ended (R192). -/
  txLeft : Nat := 0
  txWorst : Option Nat := none
  /-- What PROJECT drew for the next hop (R111): its operation, and the rows, in PFMT, that stand in scratchpad beside the tile, by
  panel and row. -/
  draw : Option Nat := none
  rows : List (Nat × Nat × List Val) := []
  /-- The codec context against which its coded form is decoded (R139, R145). -/
  ctx : Nat := 0
  /-- Its blocks counted at codec slots: (slot key, blocks) (R141). -/
  blocks : List (Nat × Nat) := []
  /-- The instance that its completion record names, where it is not its hop's: the EXPAND instance whose decode of it failed as it
  landed (R150). -/
  endHop : Option Nat := none
  deriving DecidableEq, Repr

/-- An open stream (R72). -/
structure Stream where
  id : Nat
  cls : Nat
  member : Bool
  hops : Nat
  route : List Nat
  rate : List Nat
  op : List Nat
  sub : Nat
  sqBase : Nat
  sqLog2 : Nat
  operand : List Nat
  /-- 1 OPEN, 2 CLOSING. -/
  state : Nat := 1
  head : Nat := 0
  tail : Nat := 0
  /-- The first sequence number. -/
  first : Nat := 0
  /-- The next descriptor to fetch. -/
  fetch : Nat := 0
  expect : Nat := 0
  credit : List Nat
  /-- Handles of the hop queues' buffers (R57). -/
  queues : List Nat := []
  /-- Tiles fetched and not completed, oldest first. -/
  tiles : List Tile := []
  /-- The nodes whose address entries were read for it (R187). -/
  nodes : List Nat := []
  /-- The rounds of its tiles that completed with a failure (R65), and the sequence numbers of LAST tiles that failed (R299). -/
  failed : List Nat := []
  lasts : List Nat := []
  deriving DecidableEq, Repr

/-- A transfer that has landed and waits for its receive descriptor's tile (R61). -/
structure Landed where
  port : Nat
  node : Nat
  stream : Nat
  data : List Byte
  coded : Bool
  rawLen : Nat
  seq : Nat
  round : Nat
  tick : Nat
  /-- The P2 buffer it lies in. -/
  handle : Option Nat
  /-- It ended CORRUPT (R188). -/
  bad : Bool := false
  deriving DecidableEq, Repr

/-- The streams. -/
structure StrmSt where
  slots : List (Nat × Stream) := []
  /-- Arrived tiles waiting for a receive descriptor, oldest first. -/
  landed : List Landed := []
  /-- The PHASE bit of each completion ring (R64). -/
  phase : List (Nat × Bool) := []
  /-- A close awaiting its end was the last command (R74). -/
  closing : Option Nat := none
  /-- The address of an open record whose hop queues wait for the POOL block (R177). -/
  opening : Option Nat := none
  deriving DecidableEq, Repr

/-- A station map (R70): the BIND words and the budget entries (station + 16 × place + 256 × direction, budget). -/
structure StnMap where
  id : Nat := 0
  bind : List Nat := [0xFFFFFFFFFF, 0xFFFFFFFFFF, 0xFFFFFFFFFF, 0xFFFFFFFFFF, 0xFFFFFFFFFF, 0xFFFFFFFFFF, 0xFFFFFFFFFF, 0xFFFFFFFFFF]
  budgets : List (Nat × Nat) := []
  /-- The local address it was read from, and its length. -/
  addr : Nat := 0
  size : Nat := 0
  deriving DecidableEq, Repr

/-- The stations. -/
structure StnSt where
  inForce : StnMap := {}
  /-- The boundary from which the map in force rules: tiles admitted before it finish under the map before (R71). -/
  since : Nat := 0
  armed : Option (StnMap × Nat) := none
  /-- The role each cluster has now: bit j of word i is 1 for VECTOR (R70). -/
  bound : List Nat := [0xFFFFFFFFFF, 0xFFFFFFFFFF, 0xFFFFFFFFFF, 0xFFFFFFFFFF, 0xFFFFFFFFFF, 0xFFFFFFFFFF, 0xFFFFFFFFFF, 0xFFFFFFFFFF]
  /-- Effective budgets of the current tick and the sixteenths carried into it, by instance (R67). -/
  effective : List (Nat × Nat) := []
  carried : List (Nat × Nat) := []
  /-- The slot after which round robin starts, by instance and class (R68). -/
  rr : List (Nat × Nat) := []
  /-- Instances whose budget is 0 while a KAT runs (R378). -/
  testing : List Nat := []
  deriving DecidableEq, Repr


/-! ### Outputs -/

/-- Messages and notices that WG9 or its Mirder sends, by kind. -/
inductive MsgKind where
  | snapAccept | roundCommitted | pushDone | roundAborted
  | tableLoad | tableUnload | tableAck | tableRefusal
  | exponentRecord | check | checkAck | abortAnnounce
  | beacon | propose | join | view | promiseCopy | promiseAck | joinReq | joinRefused | healReply
  | ready | offer | accept | commit
  | heartbeat | hoistChosen | hoistReady | expulsionRequest | expulsionAnswer | mirror | mirrorAck | changeRecord | changeAck
  | lane | keyRetire | keyRetireAck | kexCert | kexInit | kexReply | kexFail | sealMaster | ptp
  deriving DecidableEq, Repr

/-- Something the part sends: to a pin, a link, the host or another party. -/
inductive Out where
  /-- A non-maskable trap to control core 0 (R376). -/
  | nmi
  /-- An MSI-X message on a vector, for a source (R384). -/
  | msi (vector source : Nat)
  /-- A poisoned or plain CXL.mem response (R393). -/
  | cxlData (poison : Bool) (bytes : List Byte)
  /-- A wake-up request in P2 (R388). -/
  | wake (latch : Nat)
  /-- A message or notice: the port code (7 where it goes to the site's job or host), the node it names, its class, its
  fields and its bytes. -/
  | message (kind : MsgKind) (port node cls : Nat) (fields : List Nat) (data : List Byte)
  /-- A frame on a fabric port or HP, from its first byte. -/
  | frame (port : Nat) (bytes : List Byte)
  /-- A line frame on a module (R238), and a byte on a signal channel's serial port (R253): port 0 SCP0A, 1 SCP0B, 2 SCP1A,
  3 SCP1B. -/
  | line (md : Nat) (bytes : List Byte)
  | signal (port : Nat) (byte : Byte)
  /-- A fill frame to Mirder's intake queues of C0 to C3 and to the open LINE in streams of a line port, by slot (R250). -/
  | fill (port : Nat) (streams : List Nat) (bytes : List Byte)
  /-- A Semaphore command frame (R307). -/
  | command (md : Nat) (bytes : List Byte)
  /-- A two-wire access to a module: bank, page, address, and the byte to write or none to read (R305). -/
  | cmis (md bank page addr : Nat) (data : Option Byte)
  /-- The OCU's own two-wire access to a page of a module: the values it writes, none for a read (R305). -/
  | ocuCmis (md page : Nat) (vals : List Int)
  /-- A DOE response of the attestation mailbox (R423). -/
  | doe (bytes : List Byte)
  /-- A MESSAGE transfer that came whole, handed to Mirder: its port, node and stream, and its bytes (R184, R188). -/
  | handed (port node stream : Nat) (bytes : List Byte)
  /-- A pause frame: on or off, by port and priority (R186, R189). -/
  | pause (port prio : Nat) (on : Bool)
  deriving DecidableEq, Repr


/-! ### Switch core (R182 to R208) -/

/-- A subscriber record as read (R190). -/
structure Sub where
  valid : Bool := false
  paceIn : Bool := false
  job : Nat := 0
  group : Nat := 0
  epCount : Nat := 0
  epBase : Nat := 0
  rateOut : Nat := 0
  burstOut : Nat := 0
  rateIn : Nat := 0
  burstIn : Nat := 0
  quantum : Nat := 0
  deriving DecidableEq, Repr

/-- A frame queued for egress. -/
structure Frame where
  port : Nat
  cls : Nat
  /-- Flow index, 4096 for Mirder's own transfers. -/
  flow : Nat
  /-- The transfer it belongs to. -/
  xfer : Nat
  /-- The stream tile it carries: (slot, seq). -/
  tile : Option (Nat × Nat) := none
  hdr : List Byte
  payload : List Byte
  last : Bool
  colour : Nat := 0
  enter : Nat
  /-- P0 cells it holds, as handles. -/
  cells : List Nat := []
  /-- A SERVICE-mode copy's shared buffer, released after its last frame (R192). -/
  shared : Option Nat := none
  /-- The coded blocks that end in it, at their codec slots: (slot key, blocks) (R141). -/
  blocks : List (Nat × Nat) := []
  /-- Counted in SCHED_GATE_HELD already. -/
  held : Bool := false
  deriving DecidableEq, Repr

/-- A transfer being reassembled (R188), by sender and remote stream. -/
structure Partial where
  port : Nat
  node : Nat
  stream : Nat
  /-- 0 TILE, 1 MESSAGE. -/
  typ : Nat
  seq : Nat
  /-- The index of the next frame; 8 or more once a frame is missing. -/
  next : Nat
  bytes : List Byte
  cls : Nat
  /-- The tick of its first frame. -/
  tick : Nat
  coded : Bool
  portLen : Nat
  rawLen : Nat
  round : Nat
  /-- P0 cells it holds. -/
  cells : List Nat := []
  /-- The latest frame's first 64 bytes as on its port, its length and its CLASS byte (R205). -/
  head : List Byte := []
  len : Nat := 0
  byte : Nat := 0
  /-- Complete, waiting for a landing buffer (R61). -/
  done : Bool := false
  deriving DecidableEq, Repr

/-- A frame that has come and waits for cells: its port and colour, its transfer header and bytes, and its first bytes as on the port. -/
structure DoorFrame where
  port : Nat
  colour : Nat
  hdr : List Byte
  payload : List Byte
  head : List Byte
  deriving DecidableEq, Repr

/-- A gate control list (R201): start tick and entries (length, mask). -/
structure Gcl where
  start : Nat
  entries : List (Nat × Nat)
  deriving DecidableEq, Repr

/-- One egress port's scheduler (R197 to R200). -/
structure PortSched where
  /-- Charged bytes sent in this tick, and those of C0 to C3 among them. -/
  sent : Nat := 0
  priv : Nat := 0
  /-- Token buckets of C0 to C2, full at reset (102). -/
  bucket : List Nat := [0x4000, 0x4000, 0x4000]
  /-- Deficits of C0 to C7 and the class being served. -/
  deficit : List Nat := [0, 0, 0, 0, 0, 0, 0, 0]
  cur : Nat := 3
  /-- By class: the flows' deficits and the flow being served. -/
  flows : List (Nat × Nat) := []
  flowCur : List Nat := [0, 0, 0, 0, 0, 0, 0, 0]
  /-- Priorities paused by the peer, those paused at the last boundary, and those WG9 has paused. -/
  paused : List Bool := [false, false, false, false, false, false, false, false]
  pausedWas : List Bool := [false, false, false, false, false, false, false, false]
  pausing : List Bool := [false, false, false, false, false, false, false, false]
  /-- Classes paused for this tick by a red frame (R196). -/
  redPause : List Bool := [false, false, false, false, false, false, false, false]
  redNext : List Bool := [false, false, false, false, false, false, false, false]
  gcl : Option Gcl := none
  gclNext : Option Gcl := none
  gclOff : Bool := false
  deriving DecidableEq, Repr

/-- The switch core. -/
structure SwSt where
  frames : List Frame := []
  partials : List Partial := []
  /-- Frames that have come and wait for cells: while the POOL block is not in RUN (R177), and those that congestion may not drop
  (R189). -/
  door : List DoorFrame := []
  xfer : Nat := 0
  /-- Messages sent so far: SEQ of MESSAGE and GRANT transfers (R185). -/
  msgSeq : Nat := 0
  subs : List (Nat × Sub) := []
  /-- Records reread, which take effect at the next boundary (R190). -/
  reload : List (Nat × Sub) := []
  /-- Node address entries read when a stream opened (R187). -/
  nodes : List (Nat × List Byte) := []
  /-- Egress and ingress token buckets of the subscribers (R200). -/
  bucketOut : List (Nat × Nat) := []
  bucketIn : List (Nat × Nat) := []
  ports : List PortSched := [{}, {}, {}, {}, {}, {}, {}]
  /-- Policer buckets, by port × 8 + class: committed and peak tokens (R196). -/
  policers : List (Nat × (Nat × Nat)) := []
  /-- Coded blocks sent on a fabric port and not yet acknowledged by the far end: (transfer, blocks at codec slots) (R141). -/
  unacked : List (Nat × List (Nat × Nat)) := []
  /-- Grants a remote sender has given, by (port, node, stream), unused (R200). -/
  grants : List (Nat × Nat × Nat) := []
  /-- Grants WG9 owes for posted receive descriptors: (slot, sequence number), and those outstanding by endpoint: (port, node,
  stream). -/
  owed : List (Nat × Nat) := []
  granted : List (Nat × Nat × Nat) := []
  /-- By hoist die: below XOFF; below XOFF and not back at XON; below RSV; without cells for a full frame (R189). -/
  below : List Bool := [false, false]
  xoff : List Bool := [false, false]
  rsv : List Bool := [false, false]
  dry : List Bool := [false, false]
  /-- Selected frames since the last sample (R206). -/
  sample : Nat := 0
  recSeq : Nat := 0
  deriving DecidableEq, Repr

/-! ### Codec (R128 to R153) -/

/-- One direction of a table slot (R139 to R141). -/
structure CSlot where
  /-- EMPTY 0, LOADING or PENDING 1, READY 2. -/
  state : Nat := 0
  gen : Nat := 0
  /-- Blocks in flight or received (R141). -/
  count : Nat := 0
  /-- The table record in use, empty when there is none. -/
  table : List Byte := []
  /-- The P2 buffer of its built tables. -/
  handle : Option Nat := none
  /-- An inbound load waiting: record, generation, node and port it came from (R142). -/
  wait : Option (List Byte × Nat × Nat × Nat) := none
  /-- The P2 buffer taken for it. -/
  next : Option Nat := none
  deriving DecidableEq, Repr

/-- The codec's contexts beside CODEC_CTX_CFG: slots by context × 16 + direction × 8 + slot. -/
structure CodecSt where
  slots : List (Nat × CSlot) := []
  /-- The command awaiting an acknowledgement: (context, slot, unload?, tick). -/
  cmd : Option (Nat × Nat × Bool × Nat) := none
  /-- A LOAD whose buffer waits for the POOL block: (context, slot) (R177). -/
  waiting : Option (Nat × Nat) := none
  /-- Tables cached by each EXPAND instance: (place, slot key, generation) (R149). -/
  cache : List (Nat × Nat × Nat) := []
  deriving DecidableEq, Repr


/-! ### The job and its round (R16 to R31, R103 to R120) -/

/-- What the part keeps of the job it holds and of the round in progress. -/
structure JobSt where
  held : Bool := false
  id : Nat := 0
  /-- The addresses of the outer configuration record, the site table and the protection table (R405). -/
  ocr : Nat := 0
  siteTab : Nat := 0
  protTab : Nat := 0
  /-- The round begun or next to begin (R17). -/
  round : Nat := 0
  /-- The phase of R19, 0 between rounds. -/
  phase : Nat := 0
  /-- The latest committed round and the latest pushed round. -/
  commit : Nat := 0
  pushed : Nat := 0
  /-- The job's first round: it starts from the generator (R107). -/
  first : Nat := 0
  /-- Member-mode streams are admitted at no hop (R75). -/
  memberHold : Bool := false
  /-- PUSH_DONE has been sent: member mode re-enters at the next boundary (R29). -/
  reenter : Bool := false
  /-- JOB_END was given: the job ends after the push under way (R405). -/
  ending : Bool := false
  /-- The job holds at its last commit (R231, R233). -/
  holding : Bool := false
  /-- Consecutive aborts of the round in progress (R233). -/
  aborts : Nat := 0
  /-- A cause of R231 has arisen: the round to abort, and whether Mirder then holds. -/
  abortDue : Option (Nat × Bool) := none
  /-- The recheck of the round's chunks has agreed (R228). -/
  rechecked : Bool := false
  /-- Bytes of the shard pushed in phase 8, and residual elements formed in phase 7. -/
  pushedBytes : Nat := 0
  residDone : Nat := 0
  /-- A SNAP_READY of the round to begin has been accepted (R26). -/
  accepted : Bool := false
  /-- The round was aborted in this phase and waits for its replay (R233). -/
  aborted : Option Nat := none
  /-- Rounds that have been aborted, by a cause of R231 or by COLL_CMD, and not begun again (R65). -/
  gone : List Nat := []
  /-- READY has been sent for the round (R328). -/
  readySent : Bool := false
  /-- The tables of the job were checked (R405); its node. -/
  node : Nat := 0
  /-- Contributors of the reduction last combined, the combined record area and its round (R119, R221). -/
  contributors : Nat := 1
  area : Nat := 0
  areaRound : Nat := 0
  /-- The exchanges that the round in progress has finished (R19). -/
  exchanged : Nat := 0
  /-- What the round in progress has made of its factor parts: ranges of local addresses, first byte and end, rising and apart (R19). -/
  made : List (Nat × Nat) := []
  /-- Clusters in whose scratchpad the round in progress has staged data: die × 40 + cluster (R127, R165). -/
  staged : List Nat := []
  /-- Partial dot products kept exact across tiles: product terms by accumulator key (R115). -/
  acc : List (Nat × List Val) := []
  deriving DecidableEq, Repr


/-! ### The line (R238 to R284) -/

/-- A bulk load in a sender's store (R267, R271). -/
structure LineLoad where
  num : Nat
  /-- Its store entry. -/
  entry : Nat
  /-- Offset of the first transfer header that begins in it, 0xFFFF for none (R268). -/
  first : Nat
  /-- Its transmissions' frame sequences, latest first. -/
  seqs : List Nat
  /-- The epochs of the keys it was sealed under. -/
  epochs : List Nat
  /-- The ticks of its first transmission and of its timer's expiry (R272, R274). -/
  start : Nat
  expiry : Nat
  /-- To be repeated: 0 no, 1 missing (R271), 2 on its timer (R272). -/
  due : Nat := 0
  /-- Coded blocks counted until it is settled or abandoned (R141): (slot key, blocks). -/
  blocks : List (Nat × Nat) := []
  /-- The coded transfers whose bytes it carries (R153). -/
  xfers : List Nat := []
  deriving DecidableEq, Repr

/-- A load held at the receiver (R270): its number, its FIRST, and where it lies (P3 buffer, place in it). -/
structure HeldLoad where
  num : Nat
  first : Nat
  handle : Nat
  idx : Nat
  deriving DecidableEq, Repr

/-- A delivery context: one fibre direction of a module (R267). -/
structure LineCtx where
  /-- Sender: the next load number, the loads neither settled nor abandoned in rising order, the rest of the transfer
  frame in progress with the coded blocks it brings. -/
  next : Nat := 0
  loads : List LineLoad := []
  rest : List Byte := []
  restBlocks : List (Nat × Nat) := []
  /-- The transfer of that frame when it is a coded one. -/
  restXfer : Option Nat := none
  /-- Frozen at the last boundary (R273). -/
  frozen : Bool := true
  /-- The latest ACK_TOP a report has carried. -/
  report : Option Nat := none
  /-- Receiver: N, the held loads, their buffers, the transfer frame in progress, and whether reading waits for a FIRST. -/
  n : Nat := 0
  held : List HeldLoad := []
  bufs : List Nat := []
  part : List Byte := []
  skipped : Bool := false
  /-- Loads to be held that wait for the POOL block: (number, FIRST, bytes) (R177, R270). -/
  asking : List (Nat × Nat × List Byte) := []
  /-- The next good frame's LOW becomes N (R269). -/
  restart : Bool := false
  /-- The latest frame with a good pennant: sequence, TSTAMP as received, tick of receipt (R268). -/
  top : Option (Nat × Nat × Nat) := none
  /-- Recent frames with good pennants, latest first: sequence, accepted. -/
  log : List (Nat × Bool) := []
  /-- RTT_REF and RTT_TICK, none before the first sample; the smallest sample of this tick; when RTT_REF last moved; ticks in
  a row that differed by 63 or more; when PATH_STEP was last raised (R276, R277). -/
  ref : Option Nat := none
  rtt : Option Nat := none
  low : Option Nat := none
  moved : Nat := 0
  differ : Nat := 0
  stepped : Option Nat := none
  /-- The window limits the rate (R275). -/
  clamped : Bool := false
  deriving DecidableEq, Repr

/-- A privileged transfer frame as sent, with the coded blocks that end in it, counted at codec slots (R141, R263). -/
structure PrivFrame where
  bytes : List Byte := []
  blocks : List (Nat × Nat) := []
  deriving DecidableEq, Repr

/-- A privileged block as sent (R261, R264): its first sequence, its direction, whether it is void (R265) or was sent while
the context was frozen, its data slots by frame, the transfer frames begun in it that may be sent once more, and the frames of it reported
lost. -/
structure TxBlock where
  base : Nat := 0
  dir : Nat := 0
  void : Bool := true
  frozen : Bool := true
  data : List (List Byte) := []
  frames : List PrivFrame := []
  lost : List Nat := []
  /-- Its frames have been sent again, or need not be. -/
  settled : Bool := false
  deriving DecidableEq, Repr

/-- A privileged block as received (R262): its first sequence, whether it is void, its frames' privileged slots (none: an
erasure), whether a CLEAR frame is among them, and how many frames have been delivered. -/
structure RxBlock where
  base : Nat := 0
  void : Bool := true
  frames : List (Option (List Byte)) := []
  clear : Bool := false
  done : Nat := 0
  deriving DecidableEq, Repr

/-- What one TAI second counted on a module, until it is classified (R256, R257): frame positions in SYNC, errored blocks,
a defect or a cause of SUSPECT in it, and PENN, TAG, FEC, RETX, ABAND, LOF, STEER and PSTEP. -/
structure PmSec where
  sec : Nat
  pos : Nat := 0
  eb : Nat := 0
  defect : Bool := false
  suspect : Bool := false
  counts : List Nat := [0, 0, 0, 0, 0, 0, 0, 0]
  deriving DecidableEq, Repr

/-- A performance bin (R255, R256): its start, SUSPECT, and ES, SES, UAS, BBE, PENN, TAG, FEC, RETX, ABAND, LOF, STEER, PSTEP. -/
structure PmBin where
  start : Nat
  suspect : Bool := false
  counts : List Nat := [0, 0, 0, 0, 0, 0, 0, 0, 0, 0, 0, 0]
  deriving DecidableEq, Repr

/-- A module's performance data: seconds not yet classified in rising order, the next second to classify, the unavailable
state, and the bins, newest first. -/
structure PmSt where
  secs : List PmSec := []
  next : Nat := 0
  unavail : Bool := false
  quarter : Option PmBin := none
  quarters : List PmBin := []
  day : Option PmBin := none
  days : List PmBin := []
  deriving DecidableEq, Repr

/-- One line module's framing and delivery (R238 to R284). -/
structure LineMod where
  /-- The next frame's sequence, the channel in its pennants, and the frame positions of this tick so far. -/
  seq : Nat := 0
  chan : Nat := 0
  pos : Nat := 0
  /-- The rest of the privileged transfer frame in progress, that frame whole, whether it goes once more already, and the frames of failed
  blocks to be sent again (R264). -/
  priv : List Byte := []
  cur : PrivFrame := {}
  resent : Bool := false
  again : List PrivFrame := []
  /-- Coded blocks that ended in privileged slots and are not acknowledged: (direction, sequence, blocks at codec slots) (R141). -/
  coded : List (Nat × Nat × List (Nat × Nat)) := []
  block : TxBlock := {}
  blocks : List TxBlock := []
  /-- Transmit lanes in force; receive lanes the far end announced, and those it announced for later ticks (R280); ticks of
  the gap a change of rate makes. -/
  lanes : Nat := 4
  far : Nat := 4
  farNext : List (Nat × Nat) := []
  gapTo : Nat := 0
  /-- Tick at which the far sender changes its rate after a LANE message of ours. -/
  rxChange : Option Nat := none
  /-- Bytes received and not yet taken up; the delineator's state 0 HUNT, 1 PRESYNC, 2 SYNC; good pennants in PRESYNC; the
  sequence expected; consecutive bad pennants in SYNC (R246). -/
  buf : List Byte := []
  delin : Nat := 0
  count : Nat := 0
  expect : Nat := 0
  /-- The sequence of the last good pennant. -/
  rxSeq : Nat := 0
  badRun : Nat := 0
  /-- The module reports loss of signal; LOS and LOF are in force; RDI of the last good pennant (R248). -/
  dark : Bool := false
  los : Bool := false
  lof : Bool := true
  rdi : Bool := false
  /-- Re-acquiring since the steering boundary of this tick (R249). -/
  steer : Option Nat := none
  /-- The next privileged block begins after a steering gap: a part block before it is void. -/
  afterGap : Bool := false
  rblock : RxBlock := {}
  /-- The privileged transfer frame in progress at the receiver, blocks in a row that failed with no erasures, and what was
  delivered lately: (node, class, sequence, tick) (R263, R264, R266). -/
  part : Option (List Byte) := none
  noDecode : Nat := 0
  seen : List (Nat × Nat × Nat × Nat) := []
  /-- CLEAR frames in a row (R295), and the tick in which TAG_FAIL was last raised (R296). -/
  clears : Nat := 0
  tagTick : Option Nat := none
  ctxs : List LineCtx := [{}, {}, {}, {}]
  pm : PmSt := {}
  deriving DecidableEq, Repr

/-- The line, and the host and fabric lanes. Lanes are keyed by LDLV_IDX port × 8 + lane × 2 + receive. -/
structure LineSt where
  mods : List LineMod := [{}, {}]
  /-- Ticks of a lane's recent losses of lock, the tick at which its hold ends, and its ticks in a row above the threshold. -/
  losses : List (Nat × List Nat) := []
  holds : List (Nat × Nat) := []
  highRuns : List (Nat × Nat) := []
  /-- Transmit lanes to return at the next boundary (R282). -/
  returns : List Nat := []
  /-- Lanes whose LANE_PRBS failed: out of service until full reset (R379). -/
  failed : List Nat := []
  /-- Storage keys of RETX regions found uncorrectable: the loads there are abandoned (R164, R274). -/
  broken : List Nat := []
  deriving DecidableEq, Repr

/-! ### Line cipher and SEAL (R285 to R303) -/

/-- A key slot of a line pair (R287): its state code, key, epoch, frames sealed, the last sequence sealed, the tick of the
switch away from it. -/
structure KeySlot where
  state : Nat := 0
  key : List Byte := []
  epoch : Nat := 0
  sealed : Nat := 0
  last : Nat := 0
  since : Nat := 0
  deriving DecidableEq, Repr

/-- A SEAL key slot (R301): its key and the counter of the next MAKE. -/
structure SealSlot where
  key : List Byte
  ctr : Nat
  deriving DecidableEq, Repr

/-- A SEAL batch in progress on a stream (R299, R300): operation, the record's address and bytes, the key in use, and the
running GHASH: value, bytes not yet taken, bytes so far. -/
structure SealBatch where
  check : Bool
  addr : Nat
  record : List Byte
  key : List Byte
  /-- The key's slot, whether the record was named by a handle, and the last tile taken. -/
  kslot : Nat := 0
  handle : Bool := false
  seq : Nat := 0
  y : Nat := 0
  rest : List Byte := []
  bytes : Nat := 0
  deriving DecidableEq, Repr

/-- The cipher: line keys by module × 16 + side × 8 + direction × 2 + slot; the greatest epoch installed in each transmit
pair, by module × 4 + direction; the SWITCH that waits for its frame; the KEY_RETIRE messages not yet acknowledged (module,
direction, slot, epoch); SEAL slots; batches by stream slot; the secure flash's marks: SHA-256 of the key, high-water mark. -/
structure CipherSt where
  keys : List (Nat × KeySlot) := []
  epochs : List (Nat × Nat) := []
  switching : Option (Nat × Nat × Nat) := none
  retiring : List (Nat × Nat × Nat × Nat) := []
  seals : List (Nat × SealSlot) := []
  batches : List (Nat × SealBatch) := []
  marks : List (Nat × (List Byte × Nat)) := []
  deriving DecidableEq, Repr


/-! ### Collective engine (R209 to R237) -/

/-- A member of a group (R211). -/
structure CMember where
  node : Nat
  site : Nat
  present : Bool
  hall : Nat
  rack : Nat
  tray : Nat
  ep : Nat
  deriving DecidableEq, Repr

/-- A group in force (R209). -/
structure Group where
  /-- 1 ENABLED, 2 DISABLING. -/
  state : Nat := 1
  flags : Nat := 0
  job : Nat := 0
  epoch : Nat := 0
  self : Nat := 0
  members : List CMember := []
  stages : List Nat := []
  deriving DecidableEq, Repr

/-- A chunk's accumulator (R224): window integers, or under MAX and MIN the winning elements, each its scale code and its own code; the
contributions it holds; its buffers. -/
structure CChunk where
  idx : Nat
  ints : List Int
  vals : List (Nat × Nat)
  count : Nat
  handles : List Nat
  /-- The tiles added to it so far: first element, elements, contributors (R92). -/
  adds : List (Nat × Nat × Nat) := []
  deriving DecidableEq, Repr

/-- A request in the engine (R218). -/
structure CReq where
  /-- REQ_SEQ and the ring slot. -/
  num : Nat
  rslot : Nat
  oper : Nat
  group : Nat
  inFmt : Nat
  outFmt : Nat
  window : Nat
  ring : Nat
  notify : Bool
  round : Nat
  src : Nat
  dst : Nat
  elems : Nat
  records : Nat
  counts : Nat
  root : Nat
  tag : Nat
  /-- The group as it was at the fetch. -/
  grp : Group := {}
  /-- 0 exchange, 1 moving data, 2 ended and waiting for its record, 3 fetched and waiting to start (R19, R217). -/
  phase : Nat := 0
  /-- The exchange: the area so far, the contributors counted for each chunk of it, and what has come: from the peers of this step, or the
  counts of ALL_TO_ALL_V, by node. -/
  area : List Byte := []
  cnts : List Nat := []
  got : List (Nat × List Byte) := []
  /-- The step of its plan, or of its exchange, and the tiles, or messages, of it posted so far. -/
  step : Nat := 0
  next : Nat := 0
  /-- The chunks of its own that it has placed, or sent the checks of (R219, R227). -/
  placed : Nat := 0
  /-- The chunks it has finished. -/
  finished : List Nat := []
  chunks : List CChunk := []
  status : Option Nat := none
  /-- The tick in which it ended, and RFLAGS as they stood then (R229). -/
  endTick : Nat := 0
  rflags : Nat := 0
  delay : Nat := 0
  late : Nat := 0
  /-- ARITH_SPECIAL has been raised for it. -/
  special : Bool := false
  deriving DecidableEq, Repr

/-- What a carrier tile is for. -/
structure Purpose where
  slot : Nat
  seq : Nat
  num : Nat
  out : Bool
  gather : Bool
  level : Nat
  chunk : Nat
  /-- Elements of a partial, or bytes of a result, that it carries within the chunk. -/
  off : Nat
  len : Nat
  /-- Contributors that an arriving partial holds. -/
  count : Nat
  deriving DecidableEq, Repr

/-- A result chunk that this member holds, and its check (R226, R227). -/
structure CResult where
  num : Nat
  group : Nat
  round : Nat
  oper : Nat
  fmt : Nat
  chunk : Nat
  segs : List (Nat × Nat)
  crc : Nat
  own : Bool
  owner : Nat
  /-- Nodes whose acknowledgement is awaited. -/
  want : List Nat
  tick : Nat
  /-- The check has agreed, or every acknowledgement is in. -/
  acked : Bool
  /-- This member holds it at DST: a block exchanged away lies at its receiver only (R228). -/
  held : Bool := true
  deriving DecidableEq, Repr

/-- The grid of a result in W32 or W64 (R84, R94): where the result stands, its elements and their width, elements per granule, and for
each granule the grid exponent L and the SPECIAL code. -/
structure Grid where
  dst : Nat
  elems : Nat
  width : Nat
  per : Nat
  granules : List (Int × Nat)
  deriving DecidableEq, Repr

/-- The engine. -/
structure CollSt where
  groups : List (Nat × Group) := []
  /-- The ring index of the next request to fetch, and the requests fetched since the last enable. -/
  fetch : Nat := 0
  seq : Nat := 0
  active : List CReq := []
  purposes : List Purpose := []
  /-- Carrier tiles that completed: slot, seq, status, delay, late. -/
  ended : List (Nat × Nat × Nat × Nat × Nat) := []
  /-- Records and counts that arrived and wait: node, group, bytes. -/
  recs : List (Nat × Nat × List Byte) := []
  /-- Checks that arrived before their chunk: node, group, round, chunk, check. -/
  checks : List (Nat × Nat × Nat × Nat × Nat) := []
  results : List CResult := []
  /-- Grids of the results in W32 and W64 that stand in storage (R84). -/
  grids : List Grid := []
  /-- Rounds whose checks are discarded until a request of the replay is fetched (R232). -/
  dead : List Nat := []
  /-- Ring slots of requests completed out of ring order, and of those aborted unfetched. -/
  doneSlots : List Nat := []
  skip : List Nat := []
  deriving DecidableEq, Repr


/-! ### Optics (R304 to R318) -/

/-- A queued steer (R313, R314): its tick and direction; its steering ticks have begun, with WIDE as it then stood. -/
structure Steer where
  tick : Nat
  dir : Nat
  begun : Bool := false
  wide : Bool := false
  deriving DecidableEq, Repr

/-- One module's optical control. -/
structure OcuMod where
  /-- Directions in force on the transmit and receive sides. -/
  txDir : Nat := 0
  rxDir : Nat := 0
  txq : List Steer := []
  rxq : List Steer := []
  /-- The last transmit steer sent: its tick, and WIDE; the tick of the last receive steer. -/
  txAt : Option (Nat × Bool) := none
  rxAt : Option Nat := none
  /-- Sides whose new direction the module has not reported yet: transmit, receive. -/
  txWait : Bool := false
  rxWait : Bool := false
  /-- Light commanded: 0 dark, 1 probe, 2 line; fine offset in force. -/
  light : Nat := 0
  fine : Int := 0
  /-- Command frames sent: the last CMD_SEQ, and the frames of this tick so far. -/
  cmdSeq : Nat := 0
  frame : Nat := 0
  /-- Monitor frames in a row that passed R308, and that failed. -/
  good : Nat := 0
  bad : Nat := 0
  /-- The module is present with CMIS ready; the page checks of R304 have passed, or failed. -/
  ready : Bool := false
  pages : Option Bool := none
  /-- Set-point and slope of page C0h (R309). -/
  s : Nat := 0
  k : Int := 0
  /-- Locker samples of the last monitor frames, latest first: (LOCK_ETA, LOCK_REF). -/
  samples : List (Nat × Nat) := []
  acc : Int := 0
  /-- Updates in a row within LOCK_TOL, and beyond four times it. -/
  within : Nat := 0
  beyond : Nat := 0
  /-- WMON readings in a row within WMON_TOL, and outside. -/
  wIn : Nat := 0
  wOut : Nat := 0
  /-- Pages 00h, 02h and 04h as read at bring-up, and lower memory, with temperature and supply, as read last (R305, R423). -/
  page00 : List Byte := []
  page02 : List Byte := []
  page04 : List Byte := []
  lower : List Byte := []
  /-- Laser bias at bring-up, received power when first LIT toward each direction, and pre-FEC bit errors in 10⁻¹² (R338). -/
  bias0 : Option Nat := none
  litPower : List (Option Int) := [none, none, none, none]
  preFec : Nat := 0
  /-- A pennant refused under R247 since the last receive steer or light-up. -/
  pennBad : Bool := false
  /-- A new attempt begins at the next boundary; the tick of the attempt under way; DARK has stopped re-acquisition. -/
  again : Bool := false
  began : Option Nat := none
  stopped : Bool := true
  /-- Consecutive failed attempts by direction. -/
  attempts : List Nat := [0, 0, 0, 0]
  deriving DecidableEq, Repr

/-- The OCU. -/
structure OcuSt where
  mods : List OcuMod := [{}, {}]
  deriving DecidableEq, Repr


/-! ### Sites (R319 to R336) -/

/-- An entry of the site table (R319). -/
structure SiteEnt where
  id : Nat
  weight : Nat
  guidon : Nat
  alt : Nat
  deriving DecidableEq, Repr

/-- The site table of the job (R319), and its TAB_CRC (R320). -/
structure SiteTab where
  job : Nat
  self : Nat
  ensign : Nat
  lag : Nat
  h : Nat
  loss : Nat
  agree : Nat
  view : Nat
  ents : List SiteEnt
  crc : Nat
  deriving DecidableEq, Repr

/-- A proposal under way (R325, R326). -/
structure Proposal where
  epoch : Nat
  view : Nat
  /-- Sites that have joined: index, last committed round, accepted round with its epoch and digest. -/
  joins : List (Nat × Nat × Option (Nat × Nat × Nat))
  tick : Nat
  deriving DecidableEq, Repr

/-- The content of a VIEW (R323, R348): epoch, members, committed and decided rounds, node ids replaced. -/
structure ViewMsg where
  epoch : Nat
  view : Nat
  committed : Nat
  decided : Option (Nat × Nat)
  swaps : List (Nat × Nat)
  deriving DecidableEq, Repr

/-- The fetch of a healing site (R333, R334): the round whose state it fetches; its own residual is kept; the ranges of local addresses that
have come, first byte and end, rising and apart. -/
structure Fetch where
  round : Nat
  carry : Bool
  got : List (Nat × Nat) := []
  deriving DecidableEq, Repr

/-- What Mirder keeps of the job's sites beside the SITE page. -/
structure SiteSt where
  tab : Option SiteTab := none
  /-- The tick of each site's last BEACON, and the committed round it carried, by index. -/
  heard : List (Nat × Nat) := []
  committed : List (Nat × Nat) := []
  /-- TAB_CRC of each site id's last BEACON. -/
  crcs : List (Nat × Nat) := []
  /-- Sites whose table differs: SITE_CONFIG has been raised (R320). -/
  bad : List Nat := []
  /-- Site messages seen: source site id and message count (R323); messages this WG9 has sent. -/
  seen : List (Nat × Nat) := []
  sent : Nat := 0
  lastBeacon : Option Nat := none
  /-- The highest epoch joined, and the highest count seen (R325, R326). -/
  joined : Nat := 0
  count : Nat := 0
  /-- The round accepted and not committed: round, epoch, site digest (R329). -/
  accepted : Option (Nat × Nat × Nat) := none
  /-- Site digests of rounds committed here, latest first. -/
  digests : List (Nat × Nat) := []
  /-- READYs held: round, epoch, shard, digest; OFFERs and ACCEPTs held: site, round, epoch, digest. -/
  readys : List (Nat × Nat × Nat × Nat) := []
  offers : List (Nat × Nat × Nat × Nat) := []
  accepts : List (Nat × Nat × Nat × Nat) := []
  /-- Since when OFFERs are awaited, and ACCEPTs (R329). -/
  offerAt : Option Nat := none
  acceptAt : Option Nat := none
  prop : Option Proposal := none
  /-- Since when a proposal by a lower-id site is awaited (R325). -/
  wait : Option Nat := none
  /-- WG9 membership within the site changes: node ids to replace (R325, R348). -/
  swaps : List (Nat × Nat) := []
  /-- Promises copied and not yet acknowledged: accept?, epoch, round, digest (R322); promises kept as the alternate. -/
  promises : List (Bool × Nat × Nat × Nat) := []
  kept : List (Bool × Nat × Nat × Nat) := []
  /-- Sites that have asked to join again (R333). -/
  asked : List Nat := []
  /-- A view that only adds a site and waits for its round (R327); a PROPOSE of one, epoch and members, that waits for the round in exchange. -/
  later : Option ViewMsg := none
  asking : Option (Nat × Nat) := none
  /-- The fetch of a healing site under way. -/
  fetch : Option Fetch := none
  /-- ARITH_REV that each site's attestation report names, by site id (R101). -/
  revs : List (Nat × Nat) := []
  /-- The tick in which the job started. -/
  since : Nat := 0
  /-- A round to commit, and since when it waits for protection (R22). -/
  due : Option (Nat × Nat) := none
  /-- The tick of the latest expulsion grant known in the job, and the grant this guidon gave last (R340): tick and node. -/
  grant : Option Nat := none
  given : Option (Nat × Nat) := none
  deriving DecidableEq, Repr

/-! ### Health, spares and protected state (R337 to R351) -/

/-- A protection group (R343). -/
structure PGroup where
  data : List Nat
  p : Nat
  q : Nat
  partner : List Nat
  deriving DecidableEq, Repr

/-- A parity unit held here (R345): group, Q?, unit; the round of each data position; its bytes. -/
structure Parity where
  group : Nat
  q : Bool
  unit : Nat
  rounds : List Nat
  data : List Byte
  deriving DecidableEq, Repr

/-- A change record sent and not yet acknowledged by both parity members (R345). -/
structure ChangeOut where
  unit : Nat
  want : List Nat
  /-- The unit's new contents, where the apply waits to write them. -/
  write : Option (List Byte)
  deriving DecidableEq, Repr

/-- Hot state held for a member (R344): its node, the round, residual tile?, index, contents. -/
structure Mirrored where
  node : Nat
  round : Nat
  resid : Bool
  index : Nat
  data : List Byte
  deriving DecidableEq, Repr

/-- An adverse trend of a port (R338): evaluations in a row with a condition, without one, and the trend. -/
structure Trend where
  bad : Nat := 0
  good : Nat := 0
  adverse : Bool := false
  deriving DecidableEq, Repr

/-- What Mirder keeps of health, spares and protection beside the HEALTH page. -/
structure HlthSt where
  /-- D of each input (R337), and events since the last evaluation. -/
  d : List Nat := [0, 0, 0, 0, 0, 0, 0, 0, 0]
  events : List Nat := [0, 0, 0, 0, 0, 0, 0, 0, 0]
  lastEval : Nat := 0
  trends : List Trend := [{}, {}, {}, {}, {}, {}]
  /-- Corrected symbols of each fabric port since the last evaluation. -/
  symbols : List Nat := [0, 0, 0, 0]
  /-- Evaluations in a row at or above THR + HYST while at half-mast (R341). -/
  sound : Nat := 0
  /-- The protection table (R343). -/
  groups : List PGroup := []
  spares : List Nat := []
  /-- Spares taken by hoists, and WG9 of the site that are lost. -/
  taken : List Nat := []
  lost : List Nat := []
  /-- WG9 departing, with the spare that replaces each; WG9 whose shard another adopts. -/
  hoists : List (Nat × Nat) := []
  adopted : List Nat := []
  /-- The tick of each WG9's last heartbeat, and of this one's. -/
  beats : List (Nat × Nat) := []
  lastBeat : Option Nat := none
  /-- The mirror: what is sent and not acknowledged (residual tile?, index), chunks sent (request, chunk), and what is held. -/
  mirOut : List (Bool × Nat) := []
  mirChunks : List (Nat × Nat) := []
  held : List Mirrored := []
  parity : List Parity := []
  /-- The round whose records are being sent; new contents staged by the apply, by unit: (offset, bytes); units whose record
  waits to be paced; records in flight; bytes the pace allows now; units acknowledged. -/
  round : Nat := 0
  staged : List (Nat × List (Nat × List Byte)) := []
  queue : List Nat := []
  out : List ChangeOut := []
  credit : Nat := 0
  acked : List Nat := []
  /-- Every data member's records of the round have been acknowledged, as the parity member reports. -/
  allDone : Bool := false
  /-- The WG9 was expelled and goes to power state P1 (R348). -/
  toP1 : Bool := false
  /-- Uncorrectable words of OUTER regions that wait for Mirder's rebuild (R164). -/
  broken : List Nat := []
  deriving DecidableEq, Repr


/-! ### Power and start-up (R431 to R452) -/

/-- A field die's thermal control (R435). Temperatures are in thousandths of a degree; times count the die's samples, 10 µs
apart, since its history started. -/
structure Thermal where
  kT : Nat := 0
  /-- The last ten readings, latest first, and the samples taken. -/
  temps : List Nat := []
  count : Nat := 0
  /-- The samples of the last gradient rise, of the last limit rise, and from which every sample has been calm. -/
  grad : Option Nat := none
  limit : Option Nat := none
  calm : Option Nat := none
  /-- The last reading was at T_TRIP or above. -/
  trip : Bool := false
  deriving DecidableEq, Repr

/-- A stack's refresh rate (R438): 2× and 4× in force, and ticks in a row at or below 2 °C under the threshold of each. -/
structure StackHeat where
  two : Bool := false
  four : Bool := false
  under85 : Nat := 0
  under95 : Nat := 0
  trip : Bool := false
  deriving DecidableEq, Repr

/-- Power and start-up beside the PWR page. -/
structure PwrSt where
  /-- The power state the package is in: 0 P0, 1 P1, 2 P2, 3 P3. -/
  state : Nat := 0
  /-- The move under way, its target, and whether the FLD pages have been given ENABLE = 0 (R433). -/
  move : Option Nat := none
  parked : Bool := false
  /-- MAIN_EN is driven high (R434). -/
  mainEn : Bool := true
  /-- Start-up has halted (R440); it leaves P2 (R444); the PLLs are locked (R443). -/
  halted : Bool := false
  resume : Bool := false
  locked : Bool := true
  dies : List Thermal := [{}, {}, {}, {}, {}, {}, {}, {}]
  /-- k_P; a current sample above the limit in this window; the averages of the last windows in milliwatts, latest first; the
  tick at whose boundary the last window ended. -/
  kP : Nat := 0
  surge : Bool := false
  windows : List Nat := []
  lastWin : Nat := 0
  /-- In this tick some k_T was above 0; k_P was above 0. -/
  thr : Bool := false
  lim : Bool := false
  heat : List StackHeat := [{}, {}, {}, {}, {}, {}, {}, {}, {}, {}, {}, {}, {}, {}, {}, {}]
  deriving DecidableEq, Repr


/-! ### Boot and identity (R414 to R430) -/

/-- A firmware image as a flash slot holds it (R417): SVN, version, and the SHA-256 of the image (none: as manufactured). -/
structure FwImage where
  svn : Nat := 0
  version : Nat := 0
  digest : Option (List Byte) := none
  deriving DecidableEq, Repr

/-- A slot of the QSPI flash: one first stage and one Mirder image. -/
structure FwSlot where
  first : Option FwImage := some {}
  mirder : Option FwImage := some {}
  deriving DecidableEq, Repr

/-- A signed configuration (R418): its SVN, CFG_SEQ, FLAGS, OWNER_KEY (none: the transfer key), CXL_WIN, settings (page, offset,
value, mask) and digest (none: as manufactured). -/
structure SignedCfg where
  seq : Nat := 0
  flags : Nat := 0
  owner : Option (List Byte) := none
  base : Nat := 0
  len : Nat := 0
  mode : Nat := 0
  die : Nat := 0
  settings : List (Nat × Nat × Nat × Nat) := []
  digest : Option (List Byte) := none
  deriving DecidableEq, Repr

/-- An agreement that this WG9 runs as X on a direction (R426): its epoch, nonce, decapsulation key and the bytes of KEX_INIT. -/
structure KexRun where
  epoch : Nat
  nonce : List Byte
  dk : List Byte
  init : List Byte
  deriving DecidableEq, Repr

/-- A peer whose chain has verified (R426): its attestation key and ATT_GEN. -/
structure KexPeer where
  attKey : List Byte
  attGen : Nat
  deriving DecidableEq, Repr

/-- Boot, identity and attestation. The flash and secure flash come first: slots A and B, the active one, the SVN floor, the
configuration in force and its spare copy, its counter, identity leaves used, ATT_GEN, starts of the active image that ended
unproven, the SEAL master. -/
structure SecSt where
  slots : List FwSlot := [{}, {}]
  active : Nat := 0
  floor : Nat := 0
  cfg : SignedCfg := {}
  spare : Option SignedCfg := none
  cfgCount : Nat := 0
  leaves : Nat := 0
  attGen : Nat := 0
  unproven : Nat := 0
  master : Option (List Byte) := none
  /-- The firmware staged waits for the next full reset; the image of the active slot is newly activated and not proven. -/
  staged : Bool := false
  proving : Bool := false
  /-- The ROM has reverted the active slot (R425). -/
  reverted : Bool := false
  /-- This start: the slot booted, the tick in which Mirder started, the attestation tree's key and ATT_CERT, its identity leaf,
  and the leaves it has left. -/
  booted : Nat := 0
  started : Option Nat := none
  attKey : List Byte := []
  attCert : List Byte := []
  certLeaf : Nat := 0
  attLeft : Nat := 0
  /-- Ticks at which reports were served (R423). -/
  reports : List Nat := []
  /-- By module × 4 + direction: verified peers, agreements under way, the ticks of the last failure and of the last start. -/
  peers : List (Nat × KexPeer) := []
  runs : List (Nat × KexRun) := []
  failed : List (Nat × Nat) := []
  began : List (Nat × Nat) := []
  deriving DecidableEq, Repr

/-! ### The whole -/

/-- Why the machine stops with a fault. No rule of the manual stops the part, so no meaning raises one: the type is
kept for the interface. -/
inductive Fault where
  /-- An internal bound of the model was exceeded; raised by no meaning (safe). -/
  | stuck
  deriving DecidableEq, Repr

/-- Why a command has no meaning in the model. -/
inductive Refusal where
  /-- The command of this mnemonic has not been given its meaning (safe: the model stops where the part goes on). -/
  | notModelled (mnemonic : String)
  deriving DecidableEq, Repr

/-- The part. -/
structure State where
  /-- Commands waiting, first in first out: the model's queue. -/
  pending : List Instr := []
  /-- The register file: the registers that do not hold their reset values, keys rising. -/
  regs : List (Nat × BitVec 32) := []
  /-- Storage: the bytes that are not 0, keys rising (Machine/Memory.lean says what a key names). -/
  mem : List Host.Cell := []
  store : StoreSt := {}
  tick : TickSt := {}
  time : TimeSt := {}
  flt : FltSt := {}
  irq : IrqSt := {}
  host : HostSt := {}
  regn : RegionSt := {}
  pool : PoolSt := {}
  strm : StrmSt := {}
  stn : StnSt := {}
  sw : SwSt := {}
  codec : CodecSt := {}
  coll : CollSt := {}
  job : JobSt := {}
  line : LineSt := {}
  ciph : CipherSt := {}
  ocu : OcuSt := {}
  site : SiteSt := {}
  hlth : HlthSt := {}
  pwr : PwrSt := {}
  sec : SecSt := {}
  /-- The open-drain pin FAULT_N is driven low (R376). -/
  faultN : Bool := false
  /-- The interrupt line of each control core is high (R384). -/
  coreLine : List Bool := [false, false, false, false, false, false, false, false]
  /-- The model's own counter of free values drawn (values the manual leaves open). -/
  free : Nat := 0
  /-- The value the last register read returned: the model's own output. -/
  lastRead : BitVec 32 := 0
  /-- What the part has sent or reported, oldest first: the model's own record of its outputs. -/
  sent : List Out := []
  deriving DecidableEq, Repr

/-- The part right after a full reset at power-on, before any command. -/
def State.reset : State := {}

end Sys2Proof.Machine
end

