-- ==== Sys2Proof/Machine/Regs.lean ====
section
/-!
DEFINITION. The register file: reset values, reads and writes by field, event bits, saturating counters, and the
bank an index register selects (R13, R14, R400). The home of every register is `State.regs`; registers that show
other state are computed where they are read (Machine/Views.lean).
-/
namespace Sys2Proof.Machine

/-- The part of a key that names the bank. -/
def bankBase : Nat := 1048576

/-- The key of a register in a bank. -/
def keyB (key bank : Nat) : Nat := key % bankBase + bank * bankBase

/-- The page of a key. -/
def pageOf (key : Nat) : Nat := key % bankBase / 0x1000

/-- The first page of the kind of a page: FLD0 to FLD7, HBM0 to HBM15 and LFRM0, LFRM1 share their rows (R399). -/
def pageKind (page : Nat) : Nat :=
  if 0x10 ≤ page ∧ page ≤ 0x17 then 0x10
  else if 0x20 ≤ page ∧ page ≤ 0x2F then 0x20
  else if page = 0x61 then 0x60
  else page

/-- The pages of the index (R399). -/
def pageExists (page : Nat) : Bool :=
  page == 0x000 || page == 0x001 || (0x10 ≤ page && page ≤ 0x17) || (0x20 ≤ page && page ≤ 0x2F)
    || page == 0x40 || page == 0x41 || page == 0x42 || page == 0x48 || page == 0x50 || page == 0x51 || page == 0x52
    || page == 0x58 || page == 0x59 || page == 0x60 || page == 0x61 || page == 0x64 || page == 0x68 || page == 0x69
    || page == 0x70 || page == 0x78 || page == 0x80 || page == 0x81 || page == 0x88 || page == 0x89 || page == 0x90
    || page == 0x98 || page == 0xA0 || page == 0xA1 || page == 0xB0 || page == 0xB1

/-- The pages of the index, listed. -/
def allPages : List Nat := (List.range 0xC0).filter pageExists

/-- Blocks that never leave RUN once in it: GLB, TICK, TIME, IRQ, FAULT, CXL, MAILBOX, SEC and PWR (R402). -/
def neverLeavesRun (page : Nat) : Bool :=
  page == 0x00 || page == 0x01 || page == 0x78 || page == 0x80 || page == 0x81 || page == 0x88 || page == 0x89
    || page == 0x90 || page == 0x98

/-- Pages whose BLK_CTRL.ENABLE is 1 at reset (R400). -/
def enableAtReset (page : Nat) : Bool :=
  neverLeavesRun page || (0x10 ≤ page && page ≤ 0x17) || (0x20 ≤ page && page ≤ 0x2F)

/-- Blocks that are in RUN right after a full reset: GLB always, TICK and TIME since their PLL is locked, PWR since step 2 (R44,
R399, R442). -/
def runAtReset (page : Nat) : Bool := page == 0x00 || page == 0x01 || page == 0x78 || page == 0x98

/-! Offsets of the common header (R400). -/
/-- BLK_ID. -/
abbrev oID : Nat := 0x000
/-- BLK_VER. -/
abbrev oVER : Nat := 0x004
/-- BLK_CTRL. -/
abbrev oCTRL : Nat := 0x008
/-- BLK_STAT. -/
abbrev oSTAT : Nat := 0x00C
/-- BLK_EVT. -/
abbrev oEVT : Nat := 0x010
/-- BLK_EVT_EN. -/
abbrev oEVTEN : Nat := 0x014
/-- BLK_EVT_CNT. -/
abbrev oEVTCNT : Nat := 0x018
/-- BLK_LOCK. -/
abbrev oLOCK : Nat := 0x01C

/-- The key of a header register of a page. -/
def hdr (page off : Nat) : Nat := page * 0x1000 + off

/-- The rows of the common header on a page (R400). -/
def headerRow (page off : Nat) : Option RegRow :=
  if off = oID then some ⟨hdr page off, 0, 0, 0, 0, 0, page + 0x5739 * 0x10000, .both⟩
  else if off = oVER then some ⟨hdr page off, 0, 0, 0, 0, 0, 1, .both⟩
  else if off = oCTRL then some ⟨hdr page off, 0, 1, 0, 0xE, 0, ofBool (enableAtReset page), .both⟩
  else if off = oSTAT then some ⟨hdr page off, 0, 0, 0, 0, 0, ofBool (runAtReset page) * 2, .both⟩
  else if off = oEVT then some ⟨hdr page off, 0, 0, 0xFFFFFFFF, 0, 0, 0, .both⟩
  else if off = oEVTEN then some ⟨hdr page off, 0, 0xFFFFFFFF, 0, 0, 0, 0, .both⟩
  else if off = oEVTCNT then some ⟨hdr page off, 0, 0, 0, 0, 0xFFFFFFFF, 0, .both⟩
  else if off = oLOCK then some ⟨hdr page off, 0, 1, 0, 0, 0, 0, .both⟩
  else none

/-- The row of a register: the common header, the page's table, or the mailbox's notice ring and data (R404). -/
def regRow (key : Nat) : Option RegRow :=
  let k := key % bankBase
  let page := k / 0x1000
  let off := k % 0x1000
  if pageExists page then
    if off < 0x40 then headerRow page off
    else if page = 0x89 ∧ 0x800 ≤ off then some ⟨k, 0xFFFFFFFF, 0, 0, 0, 0, 0, .bar2⟩
    else if page = 0x89 ∧ 0x400 ≤ off then some ⟨k, 0, 0, 0, 0, 0, 0, .both⟩
    else (pageRows (pageKind page)).find? (fun r => r.key == pageKind page * 0x1000 + off)
  else none

/-- The kind of a port code of R182: 0 fabric, 1 line, 2 host. -/
def portKind (p : Nat) : Nat := if p < 4 then 0 else if p < 6 then 1 else 2

/-- The default age limits of R195, by class. -/
def ageDefault (c : Nat) : Nat := if c = 0 then 0x7D else if c ≤ 3 then 0x1E848 else if c ≤ 6 then 0x1312D0 else 0x30D4

/-- The default W and CAP of each health input (R337). -/
def healthDefault (i : Nat) : Nat :=
  let w := nthD 0 [160, 80, 1600, 3200, 1, 1600, 800, 16, 800] i
  let c := nthD 0 [300, 200, 400, 600, 200, 600, 600, 200, 600] i
  w + c * 0x10000

/-- The default reactions of a source (R374, R376) with TEST set. -/
def reactDefault (src : Nat) : Nat :=
  if 0xF00 ≤ src then (if src - 0xF00 ≤ 16 then 0x11B else 0x113)
  else if src = 0x80 ∨ src = 0x81 then 0x103 else 0x101

/-- The reset value of a register (R13), those that depend on the page, class, port or source included. -/
def resetOf (key : Nat) : Nat :=
  let k := key % bankBase
  let b := key / bankBase
  if k = R.SW_AGE_LIMIT then ageDefault b
  else if k = R.SW_RED_MIN then nthD 0 [2048, 1024, 256] b
  else if k = R.SW_RED_MAX then nthD 0 [8192, 4096, 2048] b
  else if k = R.SW_RED_PROB then nthD 0 [32, 64, 128] b
  else if k = R.SCHED_PORT_OVH then nthD 0 [0x5A, 0, 0x10] (portKind b)
  else if k = R.SCHED_PORT_RSV then (if portKind b = 0 then 0x7D00 else 0)
  else if k = R.HLT_WEIGHT then healthDefault b
  else if k = R.FLT_REACT then reactDefault b
  else match regRow key with
    | some r => r.reset
    | none => 0

/-- The value a register holds. -/
def getR (s : State) (key : Nat) : BitVec 32 :=
  match mapFind s.regs key with
  | some v => v
  | none => BitVec.ofNat 32 (resetOf key)

/-- Make a register hold a value. -/
def setR (s : State) (key : Nat) (v : BitVec 32) : State :=
  { s with regs := mapSet (BitVec.ofNat 32 (resetOf key)) s.regs key v }

/-- The value as a number. -/
def regN (s : State) (key : Nat) : Nat := (getR s key).toNat

/-- Make a register hold a number, modulo 2^32. -/
def setN (s : State) (key v : Nat) : State := setR s key (BitVec.ofNat 32 v)

/-- A field [hi:lo]. -/
def fld (s : State) (key hi lo : Nat) : Nat := bitsOf (regN s key) hi lo

/-- A one-bit field. -/
def flag (s : State) (key k : Nat) : Bool := bitOf (regN s key) k

/-- Write a field [hi:lo]. -/
def setFld (s : State) (key hi lo v : Nat) : State := setN s key (putBits (regN s key) hi lo v)

/-- Write a one-bit field. -/
def setFlag (s : State) (key k : Nat) (b : Bool) : State := setFld s key k k (ofBool b)

/-- Add to a counter that saturates at 0xFFFF_FFFF. -/
def bumpBy (s : State) (key n : Nat) : State := setN s key (min 0xFFFFFFFF (regN s key + n))

/-- Count one in a saturating counter. -/
def bump (s : State) (key : Nat) : State := bumpBy s key 1

/-- Count one in a wrapping counter. -/
def bumpWrap (s : State) (key : Nat) : State := setN s key (regN s key + 1)

/-- A 64-bit value held in a pair of registers. -/
def reg64 (s : State) (lo hi : Nat) : Nat := regN s lo + regN s hi * 0x100000000

/-- Write a pair of registers. -/
def set64 (s : State) (lo hi v : Nat) : State := setN (setN s lo v) hi (v / 0x100000000)

/-- Record an output. -/
def emit (s : State) (o : Out) : State := { s with sent := s.sent ++ [o] }

/-- Draw a free value. -/
def drawFree (s : State) : Nat × State := (Config.freeValue s.free, { s with free := s.free + 1 })

/-- Draw n free bytes. -/
def drawBytes (s : State) (n : Nat) : List Byte × State :=
  ((List.range n).map (Config.freeByte s.free), { s with free := s.free + 1 })

/-! The block state of a page, in its BLK_STAT (R400, R401). -/

/-- Block states of BLK_STAT.STATE. -/
abbrev bOFF : Nat := 0
/-- STARTING. -/
abbrev bSTARTING : Nat := 1
/-- RUN. -/
abbrev bRUN : Nat := 2
/-- DRAINING. -/
abbrev bDRAINING : Nat := 3
/-- DRAINED. -/
abbrev bDRAINED : Nat := 4
/-- FAULT. -/
abbrev bFAULT : Nat := 7

/-- A page's block state. -/
def blkState (s : State) (page : Nat) : Nat := fld s (hdr page oSTAT) 2 0

/-- Move a page's block. -/
def setBlk (s : State) (page st : Nat) : State := setFld s (hdr page oSTAT) 2 0 st

/-- A page's block is in RUN. -/
def inRun (s : State) (page : Nat) : Bool := blkState s page == bRUN
/-- A field die is parked: its block is OFF (R433). -/
def diePark (s : State) (die : Nat) : Bool := blkState s (0x10 + die) == bOFF

/-- Which bank of a register an access through a window reaches: the index register's selection (R13 tables). -/
def bankSel (s : State) (w : Win) (key : Nat) : Nat :=
  let k := key % bankBase
  let page := k / 0x1000
  let off := k % 0x1000
  let winNo := match w with | .bar0 => 0 | .bar2 => 1 | .core => 2
  let portDir (p d : Nat) := if p < 4 then p else 4 + 4 * (p - 4) + d
  if page = 0x01 then (if off = 0x44 then winNo else 0)
  else if page = 0x78 then
    if 0x44 ≤ off ∧ off ≤ 0x4C then winNo
    else if 0x7C ≤ off ∧ off ≤ 0x88 then portDir (fld s R.TIME_IDX 2 0) (fld s R.TIME_IDX 4 3)
    else if 0x90 ≤ off ∧ off ≤ 0xA4 then fld s R.TIME_PIDX 1 0 else 0
  else if page = 0xB0 then (if 0x64 ≤ off ∧ off ≤ 0x6C then fld s R.STN_BIDX 8 0 else 0)
  else if page = 0xB1 then
    if 0x5C ≤ off ∧ off ≤ 0x64 then fld s R.STRM_IDX 11 0
    else if 0x68 ≤ off ∧ off ≤ 0x78 then fld s R.STRM_IDX 23 16 else 0
  else if page = 0x41 then (if off = 0x44 then fld s R.CODEC_IDX 6 0 else if off = 0x48 then fld s R.CODEC_IDX 11 0 else 0)
  else if page = 0x48 then (if 0x44 ≤ off ∧ off ≤ 0x64 then fld s R.POOL_IDX 2 0 * 8 + fld s R.POOL_IDX 5 3 else 0)
  else if page = 0x50 then
    if off = 0x5C ∨ off = 0x80 then fld s R.SW_AGE_IDX 2 0
    else if 0x64 ≤ off ∧ off ≤ 0x6C then fld s R.SW_RED_IDX 1 0 else 0
  else if page = 0x51 then
    if (0x50 ≤ off ∧ off ≤ 0x9C) ∨ (0xBC ≤ off ∧ off ≤ 0xC4) then fld s R.SCHED_PORT_IDX 2 0
    else if 0xA4 ≤ off ∧ off ≤ 0xB8 then fld s R.SCHED_POL_IDX 1 0 * 8 + fld s R.SCHED_POL_IDX 6 4
    else if off = 0xCC then fld s R.SCHED_SUB_IDX 11 0 else 0
  else if page = 0x59 then (if 0x54 ≤ off ∧ off ≤ 0x5C then fld s R.GRP_IDX 11 0 else 0)
  else if page = 0x60 ∨ page = 0x61 then
    if off = 0x60 ∨ off = 0x68 then winNo
    else if 0x8C ≤ off ∧ off ≤ 0xC8 then fld s (hdr page 0x88) 7 0 else 0
  else if page = 0x64 then
    if off = 0x68 ∨ off = 0x6C ∨ off = 0x70 then fld s R.LDLV_IDX 2 0 * 4 + fld s R.LDLV_IDX 5 4
    else if 0x44 ≤ off ∧ off ≤ 0xA8 then fld s R.LDLV_IDX 2 0 else 0
  else if page = 0x68 then (if 0x70 ≤ off ∧ off ≤ 0x80 then fld s R.LCIPH_IDX 3 0 else 0)
  else if page = 0x69 then (if 0x74 ≤ off ∧ off ≤ 0x7C then fld s R.SEAL_IDX 2 0 else 0)
  else if page = 0x70 then
    if (0x44 ≤ off ∧ off ≤ 0x4C) ∨ (0x5C ≤ off ∧ off ≤ 0x9C) then fld s R.OCU_IDX 0 0 else 0
  else if page = 0xA1 then
    if off = 0x58 ∨ off = 0x5C then fld s R.HLT_IDX 3 0
    else if off = 0x90 then fld s R.HLT_PAR_IDX 9 0 else 0
  else if page = 0x81 then (if 0x68 ≤ off ∧ off ≤ 0x74 then fld s R.FLT_SIDX 11 0 else 0)
  else if page = 0x80 then
    if 0x48 ≤ off ∧ off ≤ 0x54 then fld s R.IRQ_SIDX 9 0
    else if off = 0x5C ∨ off = 0x68 ∨ (0xC0 ≤ off ∧ off ≤ 0x13C) then fld s R.IRQ_TIDX 3 0 else 0
  else if page = 0x90 then (if 0x58 ≤ off ∧ off ≤ 0x74 then fld s R.SEC_DIG_IDX 2 0 else 0)
  else if page = 0x98 then
    if off = 0x50 then fld s R.PWR_STEP_IDX 3 0
    else if off = 0x58 then fld s R.PWR_THM_IDX 2 0
    else if off = 0x6C then fld s R.PWR_RAIL_IDX 2 0 else 0
  else 0

/-- PRIV_GATE is open (R397). -/
def gateOpen (s : State) : Bool := flag s R.PRIV_GATE 0

/-- A page is locked against BAR2 (R400). -/
def pageLocked (s : State) (page : Nat) : Bool := flag s (hdr page oLOCK) 0

/-- Whether a 32-bit write through a window reaches a register: seen by the window, and through BAR2 the gate open
(MAILBOX excepted, R408) and the page not locked (R400); through BAR0 never, the three registers of R396 having
commands of their own. The key names a bank 0 register: the index has no page beyond 0xFF. The access code then decides field by field. -/
def mayWrite (s : State) (w : Win) (key : Nat) : Bool :=
  match (if key < bankBase then regRow key else none) with
  | none => false
  | some r =>
    let page := pageOf key
    let off := key % 0x1000
    match w with
    | .core => true
    | .bar0 => false
    | .bar2 =>
      r.win != .core && (gateOpen s || page == 0x89)
        && (!pageLocked s page || off == oCTRL || off == oEVT || off == oEVTEN)

/-- The bits a reader sees: all but the write-only ones (R14). -/
def readMask (key : Nat) : Nat :=
  match regRow key with
  | some r => 0xFFFFFFFF - r.wo
  | none => 0

/-- Whether a window sees a register (R396). -/
def seenBy (w : Win) (key : Nat) : Bool :=
  match regRow key with
  | none => false
  | some r =>
    match w with
    | .core => true
    | .bar2 => r.win != .core
    | .bar0 => r.win == .both

/-- The value a write leaves in a register under its access codes (R14). -/
def writeMasked (key : Nat) (old v : BitVec 32) : BitVec 32 :=
  match regRow key with
  | none => old
  | some r =>
    let m := BitVec.ofNat 32 (r.rw ||| r.rwp ||| r.wo)
    let c := BitVec.ofNat 32 r.w1c
    ((old &&& ~~~m) ||| (v &&& m)) &&& ~~~(v &&& c)

end Sys2Proof.Machine
end

