-- ==== Sys2Proof/Machine/Flags.lean ====
section
/-!
DEFINITION. Event bits, interrupt messages and the combinational outputs: BLK_EVT (R400), the doorbell interrupt
controller (R382 to R388), the FAULT_N pin (R376) and the core interrupt lines (R384).
-/
namespace Sys2Proof.Machine

/-! Completion codes (R63). -/
/-- SERVED. -/
abbrev cSERVED : Nat := 0
/-- DELAYED. -/
abbrev cDELAYED : Nat := 1
/-- REFUSED_CAPACITY. -/
abbrev cCAPACITY : Nat := 2
/-- REFUSED_POLICY. -/
abbrev cPOLICY : Nat := 3
/-- ABORTED_ROUND. -/
abbrev cABORTED : Nat := 4
/-- CORRUPT. -/
abbrev cCORRUPT : Nat := 5
/-- AGED_OUT. -/
abbrev cAGED : Nat := 6
/-- REFUSED_SEALED. -/
abbrev cSEALED : Nat := 7
/-- BUSY. -/
abbrev cBUSY : Nat := 8
/-- LATE. -/
abbrev cLATE : Nat := 9

/-! ### Interrupt messages -/

/-- What the controller keeps of a source. -/
def irqDyn (s : State) (src : Nat) : IrqDyn := mapGet {} s.irq.srcs src

/-- Update what the controller keeps of a source. -/
def setIrqDyn (s : State) (src : Nat) (d : IrqDyn) : State :=
  { s with irq := { s.irq with srcs := mapPut s.irq.srcs src d } }

/-- IRQ_SRC_CFG of a source. -/
def irqCfg (src : Nat) : Nat := keyB R.IRQ_SRC_CFG src

/-- The source's enable, target, vector, priority and stuck mask (R383). -/
def irqEn (s : State) (src : Nat) : Bool := flag s (irqCfg src) 16
/-- Target. -/
def irqTarget (s : State) (src : Nat) : Nat := fld s (irqCfg src) 3 0
/-- MSI-X vector. -/
def irqVector (s : State) (src : Nat) : Nat := fld s (irqCfg src) 8 4
/-- Priority. -/
def irqPrio (s : State) (src : Nat) : Nat := fld s (irqCfg src) 15 12
/-- STUCK_MASKED. -/
def irqMasked (s : State) (src : Nat) : Bool := flag s (irqCfg src) 17

/-- A target's in-service stack, top first. -/
def irqStack (s : State) (t : Nat) : List (Nat × Nat) := mapGet [] s.irq.serving t

/-- The priority at the top of a stack, 0 when it is empty (R384). -/
def levelOf : List (Nat × Nat) → Nat
  | [] => 0
  | (_, p) :: _ => p

/-- A target's level (R384). -/
def irqLevel (s : State) (t : Nat) : Nat := levelOf (irqStack s t)

/-- The pending bit of a source at a target. -/
def pendAt (s : State) (t src : Nat) : Bool := s.irq.pend.contains (t * 1024 + src)

/-- Clear the pending bit of a source at a target. -/
def clearPend (s : State) (t src : Nat) : State :=
  { s with irq := { s.irq with pend := s.irq.pend.filter (· ≠ t * 1024 + src) } }

/-- Send the host's MSI-X message of a source when its priority is above the host's level (R384). -/
def msiIf (s : State) (src : Nat) : State :=
  if irqTarget s src = 8 ∧ irqPrio s src > irqLevel s 8 then emit s (.msi (irqVector s src) src) else s

/-- Set a source's pending bit; the host's message goes out when the bit becomes 1 (R383, R384). -/
def setPend (s : State) (src : Nat) : State :=
  let t := irqTarget s src
  let s1 := setIrqDyn s src { irqDyn s src with lastSet := some s.tick.now, latched := false }
  if pendAt s t src then s1
  else msiIf { s1 with irq := { s1.irq with pend := insNat s1.irq.pend (t * 1024 + src) } } src

/-- The source's spacing has passed since its pending bit was last set (R386). -/
def spacingPassed (s : State) (src : Nat) : Bool :=
  match (irqDyn s src).lastSet with
  | none => true
  | some t => regN s (keyB R.IRQ_SRC_SPACE src) = 0 || t + regN s (keyB R.IRQ_SRC_SPACE src) ≤ s.tick.now

/-- A message for an interrupt source (R383, R386, R387). -/
def irqMessage (s : State) (src : Nat) : State :=
  if !irqEn s src then s
  else
    let s1 := setIrqDyn s src { irqDyn s src with msg := true }
    if irqMasked s1 src then bump s1 R.IRQ_STUCK_CNT
    else
      let s2 := setN s1 (keyB R.IRQ_SRC_CNT src) (min 255 (regN s1 (keyB R.IRQ_SRC_CNT src) + 1))
      if spacingPassed s2 src then setPend s2 src
      else setIrqDyn s2 src { irqDyn s2 src with latched := true }

/-- A page's event k occurs: its bit sets, the occurrence is counted, and source 0x200 + page is rung when the bit
becomes 1 with its enable set (R400, R381). -/
def event (s : State) (page k : Nat) : State :=
  let was := flag s (hdr page oEVT) k
  let s1 := bump (setFlag s (hdr page oEVT) k true) (hdr page oEVTCNT)
  if !was && flag s1 (hdr page oEVTEN) k then irqMessage s1 (0x200 + page) else s1

/-- Raise an event when a condition holds. -/
def eventIf (s : State) (b : Bool) (page k : Nat) : State := if b then event s page k else s

/-- Post a completion code in a result register's [7:4] field and clear its PENDING bit 0. -/
def result (s : State) (key code : Nat) : State := setN s key (code * 16)

/-! ### Combinational outputs -/

/-- FAULT_N is driven low while a source that took the reaction is in the fault state (R376), and while start-up has halted
(R440). -/
def faultNOf (s : State) : Bool := s.pwr.halted || s.flt.srcs.any (fun p => p.2.holdsN)

/-- A control core's line is high while a source targeted to it is pending, enabled, not masked and above the
core's level (R384). -/
def coreLineOf (s : State) (c : Nat) : Bool :=
  s.irq.pend.any (fun p => p / 1024 == c && irqEn s (p % 1024) && !irqMasked s (p % 1024)
    && decide (irqPrio s (p % 1024) > irqLevel s c))

/-- The eight core lines. -/
def coreLinesOf (s : State) : List Bool := (List.range 8).map (coreLineOf s)

/-- Recompute the combinational outputs. -/
def outputs (s : State) : State := { s with faultN := faultNOf s, coreLine := coreLinesOf s }

end Sys2Proof.Machine
end

