-- ==== Sys2Proof/Machine/Memory.lean ====
section
/-!
DEFINITION. Storage: HBM, scratchpad and hoist SRAM as one list of bytes, the local address space, the region table
and its access check (R154 to R163).

A storage key names one byte: die × 2^37 + physical offset for HBM (R155), and the local address itself for
scratchpad and hoist SRAM (R154), which start at 2^44.
-/
namespace Sys2Proof.Machine

/-- What a byte that nothing has written reads as. DESIGN CHOICE: 0, where the manual gives HBM no contents at
power-on; scratchpad and hoist SRAM are cleared by full reset (R412). -/
def memDefault : BitVec 8 := 0

/-- One byte of storage. -/
def memByte (m : List Host.Cell) (k : Nat) : BitVec 8 := mapGet memDefault m k

/-- The cells of a run of bytes from key k, less those that read as unlisted. -/
def runCells : Nat → List Byte → List Host.Cell
  | _, [] => []
  | k, b :: t => if b = memDefault then runCells (k + 1) t else (k, b) :: runCells (k + 1) t

/-- Write a run of bytes from key k, keeping the canonical form. -/
def memWrite (m : List Host.Cell) (k : Nat) (bs : List Byte) : List Host.Cell :=
  m.takeWhile (fun c => decide (c.1 < k)) ++ (runCells k bs ++ m.dropWhile (fun c => decide (c.1 < k + bs.length)))

/-- The n bytes from key k of cells whose keys rise from k. -/
def readRun : Nat → Nat → List Host.Cell → List Byte
  | 0, _, _ => []
  | n + 1, k, [] => memDefault :: readRun n (k + 1) []
  | n + 1, k, (a, b) :: t => if a = k then b :: readRun n (k + 1) t else memDefault :: readRun n (k + 1) ((a, b) :: t)

/-- The n bytes from key k. -/
def memRead (m : List Host.Cell) (k n : Nat) : List Byte := readRun n k (m.dropWhile (fun c => decide (c.1 < k)))

/-- The canonical form: keys rise strictly and no entry reads as unlisted. -/
def Memory.wf (m : List Host.Cell) : Bool := keysRise m && m.all (fun c => decide (c.2 ≠ memDefault))

/-! ### The local address space -/

/-- Bytes of physical HBM on a field die (R155). -/
def hbmBytes : Nat := 96000000000

/-- The storage key of an HBM byte. -/
def hbmKey (die phys : Nat) : Nat := die * 0x2000000000 + phys

/-- Where the direct places start (R154). -/
def directBase : Nat := 0x100000000000

/-- The place, 0 to 9, of a direct local address (R154). -/
def placeOf (a : Nat) : Nat := (a - directBase) / 0x40000000

/-- The offset within its place. -/
def placeOff (a : Nat) : Nat := (a - directBase) % 0x40000000

/-- The stack of a physical offset on a die, and the offset in the stack (R155). -/
def stackOf (die phys : Nat) : Nat := 2 * die + (phys / 4096) % 2
/-- Stack offset. -/
def stackOff (phys : Nat) : Nat := phys / 8192 * 4096 + phys % 4096

/-- A storage key is HBM's. -/
def isHbm (k : Nat) : Bool := k < directBase

/-- The first key of the protected word that holds a key: a 32-byte half of an HBM access, or a 64-bit SRAM word
(R163). -/
def wordOf (k : Nat) : Nat := if isHbm k then k / 32 * 32 else k / 8 * 8

/-- The length of that word. -/
def wordLen (k : Nat) : Nat := if isHbm k then 32 else 8

/-- POOL_P0_MIB in bytes: where staging begins in a hoist die's SRAM (R179). -/
def p0Bytes (s : State) : Nat := fld s R.POOL_P0_MIB 5 0 * 0x100000

/-- A range of direct addresses exists: within one cluster array of a field die and not a hole, or within the staging
part of a hoist die's SRAM and in no row removed from use (R154, R165, R179). -/
def directOk (s : State) (a n : Nat) : Bool :=
  decide (directBase ≤ a) && n != 0 &&
  (let p := placeOf a
   let o := placeOff a
   if p < 8 then decide (o + n ≤ 40 * 0x400000)
      && !((List.range 40).any (fun c => s.store.holes.contains (p * 40 + c) && decide (c * 0x400000 < o + n) && decide (o < (c + 1) * 0x400000)))
   else if p < 10 then decide (p0Bytes s ≤ o) && decide (o + n ≤ 48 * 0x100000)
      && !(s.store.removed.any (fun r => decide (r < a + n) && decide (a < r + 512)))
   else false)

/-! ### The region table -/

/-- The slice length of a SLICED region (R157). -/
def sliceLen (r : Region) : Nat := r.len / 8

/-- The table in force. -/
def regionsNow (s : State) : List (Nat × Region) := s.regn.tables.headD []

/-- The table a tile admitted under version v uses: version v is the v-th oldest (R162). -/
def regionsAt (s : State) (v : Nat) : List (Nat × Region) := nthD (regionsNow s) s.regn.tables.reverse v

/-- The version in force. -/
def regionVersion (s : State) : Nat := s.regn.tables.length - 1

/-- The entry that holds a local address, with its index (R156). -/
def regionOf : List (Nat × Region) → Nat → Option (Nat × Region)
  | [], _ => none
  | (i, r) :: t, a => if r.valid ∧ r.lbase ≤ a ∧ a < r.lbase + r.len then some (i, r) else regionOf t a

/-- The storage key of local address a in region r (R157). -/
def keyIn (r : Region) (a : Nat) : Nat :=
  let x := a - r.lbase
  if r.mode = 1 then hbmKey r.die (r.phys + x)
  else if r.mode = 2 then hbmKey (x / sliceLen r) (r.phys + x % sliceLen r)
  else a

/-- The range [a, a + n) lies in one region and one slice of it (R160). -/
def within (r : Region) (a n : Nat) : Bool :=
  decide (r.lbase ≤ a) && decide (a + n ≤ r.lbase + r.len) &&
  (if r.mode = 2 then decide ((a - r.lbase) / sliceLen r = (a + n - 1 - r.lbase) / sliceLen r) else true)

/-- A local range cut at the ends of the regions and slices it runs through: the pieces (address, length); none where a part of it lies
in no region that `ok` admits. -/
def spanPieces (tbl : List (Nat × Region)) (ok : Region → Bool) : Nat → Nat → Nat → Option (List (Nat × Nat))
  | 0, _, n => if n = 0 then some [] else none
  | fuel + 1, a, n =>
    if n = 0 then some []
    else match regionOf tbl a with
      | none => none
      | some (_, r) =>
        let left := if r.mode = 2 then sliceLen r - (a - r.lbase) % sliceLen r else r.lbase + r.len - a
        let k := min n left
        if ok r then (spanPieces tbl ok fuel (a + k) (n - k)).map ((a, k) :: ·) else none

/-- The storage key of a local range for a party that passes no station check: within one valid region, and existing
where the region is DIRECT. -/
def resolve (s : State) (a n : Nat) : Option Nat :=
  match regionOf (regionsNow s) a with
  | some (_, r) => if within r a n && (r.mode != 0 || directOk s a n) then some (keyIn r a) else none
  | none => none

/-- Mirder's reach of a local range (R154: the control cores need no region entry for scratchpad and SRAM). -/
def resolveCore (s : State) (a n : Nat) : Option Nat :=
  match resolve s a n with
  | some k => some k
  | none => if directBase ≤ a ∧ placeOf a < 10 then some a else none

/-- Why an access is refused, if it is (R160, R161). -/
inductive Deny where
  /-- A hole, a boundary crossed, the mask, the kind or the MEMBER attribute (R160). -/
  | denied
  /-- A write of an OUTER region while the gate is closed (R161). -/
  | outer
  deriving DecidableEq, Repr

/-- The kinds whose writers are named by R158 and stations are not. -/
def kindRefusesStations (k : Nat) : Bool := k == 4 || k == 5 || k == 6 || k == 7

/-- The check of one range at a hop (R160, R161): the storage key, or why not. `handle` says that the range was named
by a pool handle to an allocated buffer, which lets a station write a POOL region (R158). -/
def checkAccess (s : State) (tbl : List (Nat × Region)) (gate : Bool) (station : Nat) (wr member handle : Bool)
    (a n : Nat) : Except Deny Nat :=
  match regionOf tbl a with
  | none => .error .denied
  | some (_, r) =>
    if !within r a n || (r.mode == 0 && !directOk s a n) then .error .denied
    else if !(bitOf (if wr then r.write else r.read) station) then .error .denied
    else if wr && kindRefusesStations r.kind && !(r.kind == 5 && handle) then .error .denied
    else if member && !r.member then .error .denied
    else if wr && r.kind == 1 && !gate then .error .outer
    else .ok (keyIn r a)

/-- Where existing direct storage ends after an existing byte: a hole, a row removed from use, or the end of the place's part (R154,
R165, R179). -/
def directEnd (s : State) (a : Nat) : Nat :=
  let p := placeOf a
  let base := directBase + p * 0x40000000
  if p < 8 then
    let hole := (List.range 40).find? (fun c => decide (placeOff a < c * 0x400000) && s.store.holes.contains (p * 40 + c))
    base + hole.getD 40 * 0x400000
  else (s.store.removed.find? (fun r => decide (a < r) && placeOf r == p)).getD (base + 48 * 0x100000)

/-- The first refused byte of a range that fails the check (REG_LAST_DENIED): its first byte, or the first one past the boundary
that the range crosses. -/
def firstRefused (s : State) (tbl : List (Nat × Region)) (gate : Bool) (station : Nat) (wr member handle : Bool) (a : Nat) : Nat :=
  match checkAccess s tbl gate station wr member handle a 1, regionOf tbl a with
  | .ok _, some (_, r) =>
    if r.mode = 2 then r.lbase + ((a - r.lbase) / sliceLen r + 1) * sliceLen r
    else if r.mode = 0 then min (r.lbase + r.len) (directEnd s a)
    else r.lbase + r.len
  | _, _ => a

/-! ### Errors held in storage (R163) -/

/-- The word is covered whole by a range. -/
def covers (k n word : Nat) : Bool := decide (k ≤ word) && decide (word + wordLen word ≤ k + n)

/-- The error a protected word holds. -/
def eccOf (s : State) (word : Nat) : Option EccKind := mapFind s.store.ecc word

/-- A word's error ends. -/
def eccClear (s : State) (word : Nat) : State :=
  { s with store := { s.store with ecc := mapDel s.store.ecc word } }

/-- An upset strikes a word: an uncorrectable one stays so. -/
def eccSet (s : State) (word : Nat) (k : EccKind) : State :=
  if eccOf s word = some .ue then s
  else { s with store := { s.store with ecc := mapPut s.store.ecc word k } }

/-- The words of a range in error. -/
def eccWords (s : State) (k n : Nat) : List (Nat × EccKind) :=
  s.store.ecc.filter (fun p => decide (p.1 < k + n) && decide (k < p.1 + wordLen p.1))

/-- Read bytes with no regard to errors: the contents of the storage. -/
def rawRead (s : State) (k n : Nat) : List Byte := memRead s.mem k n

/-- Write bytes with no regard to errors. -/
def rawWrite (s : State) (k : Nat) (bs : List Byte) : State := { s with mem := memWrite s.mem k bs }

end Sys2Proof.Machine
end

