-- ==== Sys2Proof/Machine/Ops.lean ====
section
/-!
DEFINITION. The named operations over registers and storage: raising a fault record (R370 to R380), reading and
writing storage with its error handling (R163, R164), and the access check of a hop (R160, R161).
-/
namespace Sys2Proof.Machine

/-- DESC_INVALID (R373). -/
abbrev fDESC_INVALID : Nat := 0x01
/-- DOORBELL_OVERRUN (R373). -/
abbrev fDOORBELL_OVERRUN : Nat := 0x02
/-- DOORBELL_STRAY (R373). -/
abbrev fDOORBELL_STRAY : Nat := 0x03
/-- REGION_DENIED (R373). -/
abbrev fREGION_DENIED : Nat := 0x04
/-- OUTER_WRITE (R373). -/
abbrev fOUTER_WRITE : Nat := 0x05
/-- HBM_CE (R373). -/
abbrev fHBM_CE : Nat := 0x06
/-- HBM_UE (R373). -/
abbrev fHBM_UE : Nat := 0x07
/-- HBM_REPAIR_OUT (R373). -/
abbrev fHBM_REPAIR_OUT : Nat := 0x08
/-- SRAM_CE (R373). -/
abbrev fSRAM_CE : Nat := 0x09
/-- SRAM_UE (R373). -/
abbrev fSRAM_UE : Nat := 0x0A
/-- POOL_LINK_BAD (R373). -/
abbrev fPOOL_LINK_BAD : Nat := 0x0B
/-- DOUBLE_FREE (R373). -/
abbrev fDOUBLE_FREE : Nat := 0x0C
/-- POOL_HANDLE_FREE (R373). -/
abbrev fPOOL_HANDLE_FREE : Nat := 0x0D
/-- REFCNT_SAT (R373). -/
abbrev fREFCNT_SAT : Nat := 0x0E
/-- DECODE_FAIL (R373). -/
abbrev fDECODE_FAIL : Nat := 0x0F
/-- TABLE_STALE (R373). -/
abbrev fTABLE_STALE : Nat := 0x10
/-- WINDOW_MISMATCH (R373). -/
abbrev fWINDOW_MISMATCH : Nat := 0x11
/-- ARITH_SPECIAL (R373). -/
abbrev fARITH_SPECIAL : Nat := 0x12
/-- CHUNK_CORRUPT (R373). -/
abbrev fCHUNK_CORRUPT : Nat := 0x13
/-- GROUP_EPOCH (R373). -/
abbrev fGROUP_EPOCH : Nat := 0x14
/-- SEAL_MISMATCH (R373). -/
abbrev fSEAL_MISMATCH : Nat := 0x15
/-- LINE_LOF (R373). -/
abbrev fLINE_LOF : Nat := 0x16
/-- LINE_LOS (R373). -/
abbrev fLINE_LOS : Nat := 0x17
/-- TAG_FAIL (R373). -/
abbrev fTAG_FAIL : Nat := 0x18
/-- WAVE_MISMATCH (R373). -/
abbrev fWAVE_MISMATCH : Nat := 0x19
/-- LINE_ABANDON (R373). -/
abbrev fLINE_ABANDON : Nat := 0x1A
/-- PRIV_MISMATCH (R373). -/
abbrev fPRIV_MISMATCH : Nat := 0x1B
/-- PATH_STEP (R373). -/
abbrev fPATH_STEP : Nat := 0x1C
/-- LANE_DEGRADE (R373). -/
abbrev fLANE_DEGRADE : Nat := 0x1D
/-- LANE_HOLD (R373). -/
abbrev fLANE_HOLD : Nat := 0x1E
/-- KEY_ERASED (R373). -/
abbrev fKEY_ERASED : Nat := 0x1F
/-- KEY_EXPIRED (R373). -/
abbrev fKEY_EXPIRED : Nat := 0x20
/-- PEER_KEYLESS (R373). -/
abbrev fPEER_KEYLESS : Nat := 0x21
/-- ACQ_FAIL (R373). -/
abbrev fACQ_FAIL : Nat := 0x22
/-- SEM_LOSS (R373). -/
abbrev fSEM_LOSS : Nat := 0x23
/-- LOCK_LOSS (R373). -/
abbrev fLOCK_LOSS : Nat := 0x24
/-- STEER_MISS (R373). -/
abbrev fSTEER_MISS : Nat := 0x25
/-- D2D_DEGRADE (R373). -/
abbrev fD2D_DEGRADE : Nat := 0x26
/-- TICK_SKEW (R373). -/
abbrev fTICK_SKEW : Nat := 0x27
/-- IRQ_ORDER (R373). -/
abbrev fIRQ_ORDER : Nat := 0x28
/-- STUCK_SOURCE (R373). -/
abbrev fSTUCK_SOURCE : Nat := 0x29
/-- CLUSTER_FAULT (R373). -/
abbrev fCLUSTER_FAULT : Nat := 0x2A
/-- REPLAY_LIMIT (R373). -/
abbrev fREPLAY_LIMIT : Nat := 0x40
/-- QUORUM_LOST (R373). -/
abbrev fQUORUM_LOST : Nat := 0x41
/-- SITE_LOST (R373). -/
abbrev fSITE_LOST : Nat := 0x42
/-- SITE_CONFIG (R373). -/
abbrev fSITE_CONFIG : Nat := 0x43
/-- HEALTH_LOW (R373). -/
abbrev fHEALTH_LOW : Nat := 0x44
/-- MEMBER_LOST (R373). -/
abbrev fMEMBER_LOST : Nat := 0x45
/-- RESID_LOST (R373). -/
abbrev fRESID_LOST : Nat := 0x46
/-- GROUP_LOST (R373). -/
abbrev fGROUP_LOST : Nat := 0x47
/-- HOIST_FAIL (R373). -/
abbrev fHOIST_FAIL : Nat := 0x48
/-- TIME_UNLOCK (R373). -/
abbrev fTIME_UNLOCK : Nat := 0x49
/-- PLL_UNLOCK (R373). -/
abbrev fPLL_UNLOCK : Nat := 0x80
/-- POWER_FAULT (R373). -/
abbrev fPOWER_FAULT : Nat := 0x81
/-- THERMAL_TRIP (R373). -/
abbrev fTHERMAL_TRIP : Nat := 0x82
/-- D2D_DOWN (R373). -/
abbrev fD2D_DOWN : Nat := 0x83
/-- HBM_PHY_FAIL (R373). -/
abbrev fHBM_PHY_FAIL : Nat := 0x84
/-- CXL_PHY_FAIL (R373). -/
abbrev fCXL_PHY_FAIL : Nat := 0x85
/-- GLITCH (R373). -/
abbrev fGLITCH : Nat := 0x86
/-- TAMPER (R373). -/
abbrev fTAMPER : Nat := 0x87

/-- Kinds of R373 with their severities (R371). -/
def kindTable : List (Nat × Nat) := [
  (0x01, 2), (0x02, 2), (0x03, 2), (0x04, 2), (0x05, 3), (0x06, 1), (0x07, 3), (0x08, 1),
  (0x09, 1), (0x0A, 3), (0x0B, 1), (0x0C, 2), (0x0D, 2), (0x0E, 2), (0x0F, 3), (0x10, 3),
  (0x11, 3), (0x12, 3), (0x13, 3), (0x14, 3), (0x15, 2), (0x16, 1), (0x17, 1), (0x18, 1),
  (0x19, 1), (0x1A, 2), (0x1B, 1), (0x1C, 1), (0x1D, 1), (0x1E, 1), (0x1F, 1), (0x20, 1),
  (0x21, 1), (0x22, 1), (0x23, 1), (0x24, 1), (0x25, 1), (0x26, 1), (0x27, 1), (0x28, 2),
  (0x29, 1), (0x2A, 1), (0x40, 3), (0x41, 3), (0x42, 1), (0x43, 1), (0x44, 4), (0x45, 1),
  (0x46, 2), (0x47, 3), (0x48, 1), (0x49, 1), (0x80, 4), (0x81, 4), (0x82, 4), (0x83, 4),
  (0x84, 4), (0x85, 4), (0x86, 4), (0x87, 4)]

/-- The test a kind names (R373), in the codes of FLT_TEST: 0 none, 1 ROW_MARCH, 2 SRAM_MARCH, 3 KAT, 4 LANE_PRBS. -/
def kindTest (k : Nat) : Nat :=
  if k = fHBM_CE ∨ k = fHBM_UE ∨ k = fPOOL_LINK_BAD then 1
  else if k = fSRAM_CE ∨ k = fSRAM_UE then 2
  else if k = fDECODE_FAIL ∨ k = fCHUNK_CORRUPT ∨ k = fCLUSTER_FAULT then 3
  else if k = fLANE_DEGRADE ∨ k = fD2D_DEGRADE then 4
  else 0

/-- The severity of a kind, 0 for a code that is reserved. -/
def kindSev (k : Nat) : Nat := mapGet 0 kindTable k

/-- A fault source that exists (R372): a page of the index, or a wire bit. -/
def srcExists (src : Nat) : Bool := pageExists src || (decide (0xF00 ≤ src) && decide (src ≤ 0xF14))

/-- What the collector keeps of a source. -/
def fltDyn (s : State) (src : Nat) : FltDyn := mapGet {} s.flt.srcs src

/-- Update what the collector keeps of a source. -/
def setFltDyn (s : State) (src : Nat) (d : FltDyn) : State :=
  { s with flt := { s.flt with srcs := mapPut s.flt.srcs src d } }

/-- FLT_SUM of a source. -/
def fltSum (src : Nat) : Nat := keyB R.FLT_SUM src
/-- FLT_REACT of a source. -/
def fltReact (src : Nat) : Nat := keyB R.FLT_REACT src

/-- A source is in the fault state (R376). -/
def inFault (s : State) (src : Nat) : Bool := flag s (fltSum src) 0

/-- The bytes of a fault record (R370). -/
def recordBytes (src sev kind ctx tick addr : Nat) : List Byte :=
  bytesLE 2 (src + sev * 4096) ++ bytesLE 1 kind ++ bytesLE 1 ctx ++ bytesLE 6 tick ++ bytesLE 6 addr

/-- Where the fault log ring stands: its storage key, when it lies whole in a valid FAULT_LOG region (R375). -/
def logRing (s : State) : Option Nat :=
  let base := reg64 s R.FLT_LOG_BASE_LO R.FLT_LOG_BASE_HI
  let n := 16 * 2 ^ fld s R.FLT_LOG_CFG 4 0
  match regionOf (regionsNow s) base with
  | some (_, r) => if r.kind = 6 then resolve s base n else none
  | none => none

/-- What storing a record in the log met. -/
inductive LogOutcome where
  | written | merged | full | unplaced
  /-- An uncorrectable error of the log region: the record is lost; the word's key. -/
  | ue (word : Nat)
  /-- A correctable error, corrected; the word's key. -/
  | ce (word : Nat)
  deriving DecidableEq, Repr

/-- The collector's attempt to log a record, by the cases of R375 in their order. -/
def logRecord (s : State) (src kind : Nat) (bytes : List Byte) : LogOutcome × State :=
  if s.flt.met.contains (src, kind) then (.merged, bump s R.FLT_MERGED)
  else
    let s := { s with flt := { s.flt with met := (src, kind) :: s.flt.met } }
    let size := 2 ^ fld s R.FLT_LOG_CFG 4 0
    let tail := regN s R.FLT_LOG_TAIL % size
    if (tail + 1) % size = regN s R.FLT_LOG_HEAD % size then (.full, event (bump s R.FLT_LOG_LOST) 0x81 2)
    else
      match (if inRun s 0x81 then logRing s else none) with
      | none => (.unplaced, bump s R.FLT_LOG_LOST)
      | some ring =>
        let k := ring + 16 * tail
        let s1 := setN s R.FLT_LOG_TAIL ((tail + 1) % size)
        let w := wordOf k
        match (if covers k 16 w then none else eccOf s w) with
        | some .ue => (.ue w, bump s1 R.FLT_LOG_LOST)
        | some .ce => (.ce w, rawWrite (eccClear s1 w) k bytes)
        | none => (.written, rawWrite (eccClear s1 w) k bytes)

/-- The storage error a key belongs to, as a fault: source, kind for a correctable or uncorrectable error, and address
(R373: a stack offset for HBM, a local address for SRAM). -/
def eccFault (k : Nat) (ue : Bool) : Nat × Nat × Nat :=
  if isHbm k then
    let die := k / 0x2000000000
    let phys := k % 0x2000000000
    (0x20 + stackOf die phys, if ue then fHBM_UE else fHBM_CE, stackOff phys)
  else (if placeOf k < 8 then 0x10 + placeOf k else 0x50, if ue then fSRAM_UE else fSRAM_CE, k)

/-- The valid region entry that holds a storage key, with its index. -/
def regionAtKey (s : State) (k : Nat) : Option (Nat × Region) :=
  let die := k / 0x2000000000
  let phys := k % 0x2000000000
  (regionsNow s).find? (fun p => p.2.valid &&
    (if isHbm k then (p.2.mode == 1 && p.2.die == die && decide (p.2.phys ≤ phys) && decide (phys < p.2.phys + p.2.len))
        || (p.2.mode == 2 && decide (p.2.phys ≤ phys) && decide (phys < p.2.phys + sliceLen p.2))
      else p.2.mode == 0 && decide (p.2.lbase ≤ k) && decide (k < p.2.lbase + p.2.len)))

/-- The counters and error registers of an HBM page (R164), for an error found at a key. -/
def noteEcc (s : State) (k : Nat) (ue scrub : Bool) : State :=
  if isHbm k then
    let die := k / 0x2000000000
    let phys := k % 0x2000000000
    let d := stackOf die phys * 0x1000
    let off := stackOff phys / 64 * 64
    let info := ofBool ue + 2 * ofBool scrub + (match regionAtKey s k with | some (i, _) => 16 * i + 1024 | none => 0)
    let s1 := bump s ((if ue then R.HBM_UE_CNT else R.HBM_CE_CNT) + d)
    let s2 := setN (setN s1 (R.HBM_ERR_ADDR_LO + d) off) (R.HBM_ERR_ADDR_HI + d) (off / 0x100000000 % 16)
    event (setN s2 (R.HBM_ERR_INFO + d) info) (0x20 + stackOf die phys) (if ue then 1 else 0)
  else s

/-- Reactions of R376 taken when a source enters the fault state: NMI, BLOCK_RESET (left to the end of the command, as
the reset of the block), CHIP_RESET (left to the end of the command), FAULT_N. -/
def takeReactions (s : State) (src kind : Nat) : State :=
  let r := regN s (fltReact src)
  let s1 := if bitOf r 1 then emit s .nmi else s
  let s2 := if bitOf r 2 && !neverLeavesRun src && decide (src < 0x100)
    then { s1 with flt := { s1.flt with blockResets := s1.flt.blockResets ++ [src] } } else s1
  let s3 := if bitOf r 4 then setFltDyn s2 src { fltDyn s2 src with holdsN := true } else s2
  if bitOf r 3 && !s3.flt.barred && s3.flt.chipReset.isNone
    then { s3 with flt := { s3.flt with chipReset := some (src, kind) } } else s3

/-- Order the test a record's kind names, when the source's TEST is set and none of its tests runs (R378). -/
def orderTest (s : State) (src kind ctx addr : Nat) : State :=
  let t := kindTest kind
  if t ≠ 0 ∧ flag s (fltReact src) 8 ∧ (fltDyn s src).test = none then
    let s1 := setFltDyn s src { fltDyn s src with test := some (t, ctx, addr) }
    setN (setFlag s1 (fltSum src) 1 true) R.FLT_TEST (t + 8 + src * 32)
  else s

/-- The instance whose KAT was just ordered for a source takes no work until the test ends: its effective budget is 0 (R378). -/
def markTest (s : State) (src inst : Nat) : State :=
  if (fltDyn s src).test.isSome then { s with stn := { s.stn with testing := insNat s.stn.testing inst } } else s

/-- The health input that counts a kind of record as an event (R337). -/
def healthInput (kind : Nat) : Option Nat :=
  if kind = fLANE_DEGRADE ∨ kind = fLANE_HOLD then some 0
  else if kind = fLINE_LOF ∨ kind = fLINE_LOS ∨ kind = fSEM_LOSS then some 1
  else if kind = fHBM_CE ∨ kind = fSRAM_CE then some 4
  else if kind = fHBM_UE ∨ kind = fSRAM_UE then some 5
  else none

/-- Count an event of a health input. -/
def healthEvent (s : State) (i : Nat) : State :=
  { s with hlth := { s.hlth with events := setAt 0 s.hlth.events i (nthD 0 s.hlth.events i + 1) } }

/-- Everything a record does but the writing of the log: the summary, the counts, the reactions, the test
(R375, R376, R378, R380). -/
def noteRecord (s : State) (src sev kind ctx addr : Nat) : State :=
  let entering := !inFault s src
  let s0 := match healthInput kind with | some i => healthEvent s i | none => s
  let s1 := bump s0 (keyB R.FLT_COUNT src)
  let old := regN s1 (fltSum src)
  let s2 := setN s1 (fltSum src) (putBits (putBits (putBits old 0 0 1) 11 4 kind) 15 12 sev)
  let s3 := setFltDyn s2 src { fltDyn s2 src with last := s2.tick.now }
  let s4 := event s3 0x81 0
  let s5 := if flag s4 (fltReact src) 0
    then irqMessage s4 (if 0xF00 ≤ src then 0x100 + (src - 0xF00) else src) else s4
  let s6 := orderTest s5 src kind ctx addr
  if entering then takeReactions s6 src kind else s6

/-- Raise a fault record (R370 to R378). The fuel bounds the records that errors of the log region raise in turn: R375
logs one record of a source and kind in a tick, so two rounds reach the end. -/
def raiseN : Nat → State → Nat → Nat → Nat → Nat → Nat → State
  | 0, s, _, _, _, _, _ => s
  | fuel + 1, s, src, sev, kind, ctx, addr =>
    if !srcExists src then s
    else
      let (o, s1) := logRecord s src kind (recordBytes src sev kind ctx s.tick.now addr)
      let s2 := noteRecord s1 src sev kind ctx addr
      match o with
      | .ue w =>
        let (es, ek, ea) := eccFault w true
        raiseN fuel (noteEcc s2 w true false) es (kindSev ek) ek 0 ea
      | .ce w =>
        let (es, ek, ea) := eccFault w false
        raiseN fuel (noteEcc s2 w false false) es (kindSev ek) ek 0 ea
      | _ => s2

/-- Raise a fault of a kind of R373 from a source, with its severity. -/
def raise (s : State) (src kind ctx addr : Nat) : State := raiseN 4 s src (kindSev kind) kind ctx addr

/-- Raise a fault when a condition holds. -/
def raiseIf (s : State) (b : Bool) (src kind ctx addr : Nat) : State := if b then raise s src kind ctx addr else s

/-! ### Storage with its error handling -/

/-- A cause of R231 has arisen in a round not yet decided: the round is aborted at the end of the command
(Machine/Settle.lean). -/
def flagAbort (s : State) (round : Nat) (holds : Bool) : State :=
  if round ≠ 0 ∧ s.job.held ∧ round = s.job.round ∧ 1 ≤ s.job.phase ∧ s.job.phase ≤ 7 ∧ s.job.aborted.isNone then
    let was := match s.job.abortDue with | some (_, h) => h | none => false
    { s with job := { s.job with abortDue := some (round, was || holds) } }
  else s

/-- What an uncorrectable word brings by the kind of its region (R164): OUTER waits for Mirder's rebuild and aborts the round in
progress, SNAPSHOT, WORKSPACE and SCRATCH abort it, and in RETX the load there is abandoned (R274). The other kinds' consequences are their readers'. -/
def ueConsequence (s : State) (k : Nat) : State :=
  match regionAtKey s k with
  | some (_, r) =>
    if r.kind = 1 then flagAbort { s with hlth := { s.hlth with broken := insNat s.hlth.broken k } } s.job.round false
    else if r.kind = 4 then { s with line := { s.line with broken := insNat s.line.broken k } }
    else if r.kind = 2 ∨ r.kind = 3 ∨ r.kind = 0xA then flagAbort s s.job.round false
    else s
  | none => s

/-- Raise the fault of a storage error met at a key, with what an uncorrectable one brings (R164). -/
def eccRaise (s : State) (k : Nat) (ue scrub : Bool) : State :=
  let (src, kind, addr) := eccFault k ue
  let s1 := raise (noteEcc s k ue scrub) src kind 0 addr
  if ue then ueConsequence s1 k else s1

/-- Meet the errors of some words: a correctable one is corrected, counted and raised; an uncorrectable one is raised
and stays (R164). -/
def meetErrors : List (Nat × EccKind) → State → State
  | [], s => s
  | (w, .ce) :: t, s => meetErrors t (eccRaise (eccClear s w) w false false)
  | (w, .ue) :: t, s => meetErrors t (eccRaise s w true false)

/-- Read n bytes at a storage key: the bytes, or none when a word of them is uncorrectable (R164). -/
def storeRead (s : State) (k n : Nat) : Option (List Byte) × State :=
  let errs := eccWords s k n
  let s1 := meetErrors errs s
  if errs.any (fun p => p.2 == .ue) then (none, s1) else (some (rawRead s k n), s1)

/-- Write bytes at a storage key (R163): words covered whole end their errors; a partly covered word is read first, and
an uncorrectable one loses the write. The Bool says that the write was lost in part. -/
def storeWrite (s : State) (k : Nat) (bs : List Byte) : Bool × State :=
  let n := bs.length
  let errs := eccWords s k n
  let part := errs.filter (fun p => !covers k n p.1)
  let lost := part.filter (fun p => p.2 == .ue)
  let s1 := meetErrors part s
  let s2 := (errs.filter (fun p => covers k n p.1)).foldl (fun a p => eccClear a p.1) s1
  let s3 := rawWrite s2 k bs
  let s4 := lost.foldl (fun a p => rawWrite a p.1 (rawRead s p.1 (wordLen p.1))) s3
  (!lost.isEmpty, s4)

/-- A region of a kind that names its writer does not take the writes of others: kind is that of the writer's own regions (R158). -/
def kindOpen (s : State) (kind a : Nat) : Bool :=
  match regionOf (regionsNow s) a with
  | some (_, r) => !kindRefusesStations r.kind || r.kind == kind
  | none => false

/-- A write of a structure at a local address by the hardware whose own regions have a kind (R154, R158): nothing is written outside the
regions, or into one that another unit alone may write. -/
def hwWriteAs (kind : Nat) (s : State) (a : Nat) (bs : List Byte) : State :=
  match (if kindOpen s kind a then resolve s a bs.length else none) with
  | some k => (storeWrite s k bs).2
  | none => s

/-- The hardware's own write of a structure that no kind of region is kept for. -/
def hwWrite (s : State) (a : Nat) (bs : List Byte) : State := hwWriteAs 0 s a bs

/-- The hardware's own read of a structure at a local address (R154): none outside the regions or where a word is uncorrectable. -/
def hwRead (s : State) (a n : Nat) : Option (List Byte) × State :=
  match resolve s a n with
  | some k => storeRead s k n
  | none => (none, s)

/-- What the hardware's read of a structure leaves behind: the errors met there are handled as any read's (R164). -/
def met (s : State) (a n : Nat) : State := (hwRead s a n).2

/-- Mirder's write of a structure at a local address, scratchpad and SRAM included (R154); nothing is written at a hole. -/
def coreWrite (s : State) (a : Nat) (bs : List Byte) : State :=
  match resolveCore s a bs.length with
  | some k => (storeWrite s k bs).2
  | none => s

/-- Mirder's read of a structure at a local address: none in a hole or where a word is uncorrectable. -/
def coreRead (s : State) (a n : Nat) : Option (List Byte) × State :=
  match resolveCore s a n with
  | some k => storeRead s k n
  | none => (none, s)

/-- A refused access (R160, R161): counted, its address kept, the fault raised. -/
def refuseAccess (s : State) (d : Deny) (station place : Nat) (wr : Bool) (a : Nat) : State :=
  let s1 := setN (bump s R.REG_DENIED) R.REG_LAST_DENIED_LO a
  let s2 := setN s1 R.REG_LAST_DENIED_HI (bitsOf a 45 32 + station * 0x4000 + place * 0x40000 + ofBool wr * 0x400000)
  let s3 := event s2 0x42 2
  raise s3 0x42 (match d with | .denied => fREGION_DENIED | .outer => fOUTER_WRITE) station a

end Sys2Proof.Machine
end

