-- ==== Sys2Proof/Machine/Pools.lean ====
section
/-!
DEFINITION. The buffer pool manager: handles, link words, allocation with fallback, reference counts, rebuild
(R169 to R177).
-/
namespace Sys2Proof.Machine

/-- The end of a free list (R170). -/
def endHandle : Nat := 0xFFFFFFFF

/-- A handle's pool (R170). -/
def hPool (h : Nat) : Nat := h / 0x20000000
/-- Its segment: the hoist die for P0, [28:26] otherwise (R169). -/
def hSeg (h : Nat) : Nat := if hPool h = 0 then bitsOf h 20 20 else bitsOf h 28 26
/-- Its buffer index within the segment. -/
def hIdx (h : Nat) : Nat := if hPool h = 0 then bitsOf h 19 0 else bitsOf h 25 0
/-- The handle of a buffer. -/
def mkHandle (p s i : Nat) : Nat := p * 0x20000000 + (if p = 0 then s * 0x100000 else s * 0x4000000) + i

/-- Bytes of a pool's buffer (R169). -/
def bufSize (p : Nat) : Nat := nthD 256 [256, 0x1000, 0x10000, 0x100000, 0x400000] p

/-- A register of a segment. -/
def segReg (key p sg : Nat) : Nat := keyB key (p * 8 + sg)

/-- Buffers in a segment; none in one that was refused (R170, R179). -/
def segCount (s : State) (p sg : Nat) : Nat :=
  if p = 0 then (if sg < 2 then fld s R.POOL_P0_MIB 5 0 * 4096 else 0)
  else if s.pool.refused.contains (p * 8 + sg) then 0
  else fld s (segReg R.POOL_SEG_COUNT p sg) 25 0

/-- A segment's base and metadata, as local addresses. -/
def segBase (s : State) (p sg : Nat) : Nat :=
  if p = 0 then directBase + (8 + sg) * 0x40000000
  else regN s (segReg R.POOL_SEG_BASE_LO p sg) + regN s (segReg R.POOL_SEG_BASE_HI p sg) * 0x100000000
/-- Metadata base. -/
def segMeta (s : State) (p sg : Nat) : Nat :=
  regN s (segReg R.POOL_SEG_META_LO p sg) + regN s (segReg R.POOL_SEG_META_HI p sg) * 0x100000000

/-- The local address of a buffer. -/
def bufAddr (s : State) (h : Nat) : Nat := segBase s (hPool h) (hSeg h) + hIdx h * bufSize (hPool h)

/-- A handle that names a buffer: pool code 0 to 4 and an index below its segment's COUNT (R170, R173). DESIGN CHOICE (240): bits 28 to 21 of a P0
handle, which its index does not use, are not looked at. -/
def handleOk (s : State) (h : Nat) : Bool := decide (hPool h ≤ 4) && decide (hIdx h < segCount s (hPool h) (hSeg h))

/-- POOL_SEG_HEAD of a segment. -/
def segHead (s : State) (p sg : Nat) : Nat := regN s (segReg R.POOL_SEG_HEAD p sg)
/-- POOL_SEG_FREE.FREE. -/
def segFree (s : State) (p sg : Nat) : Nat := fld s (segReg R.POOL_SEG_FREE p sg) 25 0
/-- FROZEN (R176). -/
def segFrozen (s : State) (p sg : Nat) : Bool := flag s (segReg R.POOL_SEG_FREE p sg) 26
/-- REBUILDING (R176). -/
def segRebuilding (s : State) (p sg : Nat) : Bool := flag s (segReg R.POOL_SEG_FREE p sg) 27

/-- Set the free count; LOW follows it down. -/
def setFree (s : State) (p sg n : Nat) : State :=
  let s1 := setFld s (segReg R.POOL_SEG_FREE p sg) 25 0 n
  if n < regN s1 (segReg R.POOL_SEG_LOW p sg) then setN s1 (segReg R.POOL_SEG_LOW p sg) n else s1

/-- The reference count of a buffer: none when its metadata cannot be read (R171). -/
def refCount (s : State) (h : Nat) : Option Nat :=
  if hPool h = 0 then some (mapGet 0 s.pool.p0 h)
  else match resolve s (segMeta s (hPool h) (hSeg h) + hIdx h) 1 with
    | some k => if eccOf s (wordOf k) = some .ue then none else some (memByte s.mem k).toNat
    | none => none

/-- The pool manager reads a buffer's count: the errors it meets there are handled as any read's (R164). -/
def meetCount (s : State) (h : Nat) : State :=
  if hPool h = 0 then s else (hwRead s (segMeta s (hPool h) (hSeg h) + hIdx h) 1).2

/-- Write a buffer's count and its bitmap bit, which is 1 exactly when the count is at least 1 (R171). -/
def setCount (s : State) (h n : Nat) : State :=
  if hPool h = 0 then { s with pool := { s.pool with p0 := mapSet 0 s.pool.p0 h n } }
  else
    let m := segMeta s (hPool h) (hSeg h)
    let s1 := hwWriteAs 5 s (m + hIdx h) [BitVec.ofNat 8 n]
    let a := m + segCount s (hPool h) (hSeg h) + hIdx h / 8
    match resolve s1 a 1 with
    | some k =>
      let old := (memByte s1.mem k).toNat
      hwWriteAs 5 s1 a [BitVec.ofNat 8 (putBits old (hIdx h % 8) (hIdx h % 8) (ofBool (decide (1 ≤ n))))]
    | none => s1

/-- The buffer's state bit (R171). -/
def isAllocated (s : State) (h : Nat) : Bool := match refCount s h with | some n => decide (1 ≤ n) | none => false

/-- The row of hoist SRAM that holds a P0 cell has been removed from use (R165). -/
def rowRetired (s : State) (h : Nat) : Bool :=
  hPool h == 0 && s.store.removed.contains (bufAddr s h / 512 * 512)

/-- The link word of a free buffer: the next handle and its bitwise NOT (R172). -/
def linkBytes (next : Nat) : List Byte := bytesLE 4 next ++ bytesLE 4 (0xFFFFFFFF - next)

/-- What the link word of a P0 cell names where nothing else is kept: the next cell, or the end. -/
def p0Default (s : State) (h : Nat) : Nat := if hIdx h + 1 < segCount s 0 (hSeg h) then h + 1 else endHandle

/-- The next free cell after a free P0 cell. -/
def p0Next (s : State) (h : Nat) : Nat := mapGet (p0Default s h) s.pool.p0next h

/-- Link a P0 cell to the next. The word is written whole, so an error it held ends (R163). -/
def p0Link (s : State) (h next : Nat) : State :=
  let s1 := eccClear s (wordOf (bufAddr s h))
  { s1 with pool := { s1.pool with p0next := mapSet (p0Default s h) s1.pool.p0next h next } }

/-- Write the link word of a free buffer. -/
def linkWrite (s : State) (h next : Nat) : State :=
  if hPool h = 0 then p0Link s h next else hwWriteAs 5 s (bufAddr s h) (linkBytes next)

/-- Push a buffer on its segment's free list (R172). -/
def pushFree (s : State) (h : Nat) : State :=
  let p := hPool h
  let sg := hSeg h
  let s1 := linkWrite s h (segHead s p sg)
  setFree (setN s1 (segReg R.POOL_SEG_HEAD p sg) h) p sg (segFree s1 p sg + 1)

/-- Whether a link word is bad for a segment (R172). -/
def badLink (s : State) (p sg : Nat) (w : List Byte) : Bool :=
  let next := leAt w 0 4
  leAt w 4 4 != 0xFFFFFFFF - next
    || (next != endHandle && !(hPool next == p && hSeg next == sg && decide (hIdx next < segCount s p sg)))

/-- Freeze a segment on a bad link word (R172, R176). -/
def freeze (s : State) (p sg h : Nat) : State :=
  raise (event (setFlag s (segReg R.POOL_SEG_FREE p sg) 26 true) 0x48 3) 0x48 fPOOL_LINK_BAD 0 h

/-- Read the link word of a free buffer: none when it cannot be read or is bad (R172). A P0 cell's address is its storage key. -/
def linkRead (s : State) (h : Nat) : Option Nat × State :=
  let (w, s1) := if hPool h = 0 then storeRead s (bufAddr s h) 8 else hwRead s (bufAddr s h) 8
  match w with
  | none => (none, s1)
  | some w =>
    if hPool h = 0 then (some (p0Next s h), s1)
    else (if badLink s1 (hPool h) (hSeg h) w then none else some (leAt w 0 4), s1)

/-- Take the head of one segment: the handle, or none with the segment frozen when its link word is bad (R172). -/
def takeHead (s : State) (p sg n : Nat) : Option Nat × State :=
  let h := segHead s p sg
  if h = endHandle ∨ segFrozen s p sg ∨ segRebuilding s p sg then (none, s)
  else
    match linkRead s h with
    | (some next, s1) =>
      let s2 := setN s1 (segReg R.POOL_SEG_HEAD p sg) next
      let s3 := { s2 with pool := { s2.pool with p0next := mapDel s2.pool.p0next h } }
      (some h, setCount (setFree s3 p sg (segFree s3 p sg - 1)) h n)
    | (none, s1) => (none, freeze s1 p sg h)

/-- The fallback counter of a pool (R172). -/
def fallbackKey (p : Nat) : Nat := if p = 1 then R.POOL_FB_P1 else if p = 2 then R.POOL_FB_P2 else R.POOL_FB_P3

/-- The pools still to try, smallest first (R172): the floor keeps a larger pool for its own users, and P0 has no
fallback. -/
def allocFrom (want sg n : Nat) : List Nat → State → Option Nat × State
  | [], s => (none, event (bump s R.POOL_EMPTY) 0x48 0)
  | k :: t, s =>
    if want < k ∧ segFree s k sg ≤ fld s (segReg R.POOL_SEG_FLOOR k sg) 25 0 then allocFrom want sg n t s
    else
      match takeHead s k sg n with
      | (some h, s1) => (some h, if want < k then event (bump s1 (fallbackKey want)) 0x48 1 else s1)
      | (none, s1) => allocFrom want sg n t s1

/-- Allocate (R172). -/
def allocBuf (s : State) (p sg n : Nat) : Option Nat × State :=
  allocFrom p sg n (if p = 0 then [0] else (List.range 5).filter (fun k => p ≤ k)) s

/-- An internal request's answer: a buffer, none found, or it waits for the POOL block (R174, R177). -/
inductive PoolAns where
  | got (h : Nat) | empty | wait
  deriving DecidableEq, Repr

/-- In power state P1 HBM cannot be reached: pools P1 to P4 answer BUSY (R433). -/
def poolParked (s : State) (p : Nat) : Bool := s.pwr.state == 1 && decide (1 ≤ p)

/-- A request from inside WG9 (R174, R177): it waits unless the POOL block is in RUN; in power state P1 it finds nothing. -/
def allocInternal (s : State) (p sg : Nat) : PoolAns × State :=
  if poolParked s p then (.empty, s)
  else if inRun s 0x48 then
    match allocBuf s p sg 1 with
    | (some h, s1) => (.got h, s1)
    | (none, s1) => (.empty, s1)
  else (.wait, s)

/-- Internal requests of a pool wait (R177). -/
def poolWaits (s : State) (p : Nat) : Bool := !poolParked s p && !inRun s 0x48

/-- POOL_HOME's segment for a hoist die (R174). -/
def homeSeg (s : State) (hoist : Nat) : Nat := if hoist = 0 then fld s R.POOL_HOME 2 0 else fld s R.POOL_HOME 5 3

/-- A bad handle is kept (R173). -/
def noteBad (s : State) (h kind : Nat) : State := raise (setN s R.POOL_LAST_BAD h) 0x48 kind 0 h

/-- Release one reference (R172, R173, R176): the answer code and the state. A release to a segment being rebuilt
waits. DESIGN CHOICE (240): it answers SERVED at once, and a buffer released to a frozen segment is not counted as free before the rebuild. -/
def releaseBuf (s : State) (h : Nat) : Nat × State :=
  if !handleOk s h then (cPOLICY, noteBad s h fPOOL_HANDLE_FREE)
  else if segRebuilding s (hPool h) (hSeg h) then
    (cSERVED, { s with pool := { s.pool with waiting := s.pool.waiting ++ [h] } })
  else
    let s := meetCount s h
    match refCount s h with
    | none => (cPOLICY, s)
    | some 0 => (cPOLICY, noteBad (event (bump s R.POOL_DFREE) 0x48 2) h fDOUBLE_FREE)
    | some (n + 1) =>
      let s1 := setCount s h n
      if n = 0 ∧ segFrozen s1 (hPool h) (hSeg h) = false ∧ rowRetired s1 h = false then (cSERVED, pushFree s1 h)
      else (cSERVED, s1)

/-- Release, the answer not wanted. -/
def releaseQuiet (s : State) (h : Nat) : State := (releaseBuf s h).2

/-- Add references (R173). -/
def addrefBuf (s : State) (h n : Nat) : Nat × State :=
  if !handleOk s h then (cPOLICY, noteBad s h fPOOL_HANDLE_FREE)
  else
    let s := meetCount s h
    match refCount s h with
    | none => (cPOLICY, s)
    | some 0 => (cPOLICY, noteBad s h fPOOL_HANDLE_FREE)
    | some c => if 255 < c + n then (cPOLICY, noteBad s h fREFCNT_SAT) else (cSERVED, setCount s h (c + n))

/-- The cells of a P0 segment that a rebuild does not push, rising: those in use, and those in rows removed from use. -/
def p0Kept (s : State) (sg : Nat) : List Nat :=
  let used := (s.pool.p0.filter (fun e => hSeg e.1 == sg)).map (fun e => hIdx e.1)
  let rows := (s.store.removed.filter (fun r => placeOf r == 8 + sg)).flatMap (fun r => [placeOff r / 256, placeOff r / 256 + 1])
  ((used ++ rows).filter (fun i => decide (i < segCount s 0 sg))).foldl insNat []

/-- The first cell from i that is not in a rising list of cells, or the end. -/
def p0From (s : State) (sg : Nat) (kept : List Nat) (i : Nat) : Nat :=
  let j := kept.foldl (fun j b => if b = j then j + 1 else j) i
  if j < segCount s 0 sg then mkHandle 0 sg j else endHandle

/-- Rewriting the link word of every cell pushed ends the errors those words held (R163, R176). -/
def clearLinks (s : State) (sg : Nat) (kept : List Nat) : State :=
  let mine (k : Nat) : Bool := !isHbm k && placeOf k == 8 + sg && decide (placeOff k < p0Bytes s) && placeOff k % 256 == 0 && !kept.contains (placeOff k / 256)
  { s with store := { s.store with ecc := s.store.ecc.filter (fun e => !mine e.1) } }

/-- Thread a P0 segment: every cell links to the next one pushed, so only a cell before one not pushed is kept apart. -/
def threadP0 (s : State) (sg : Nat) : State :=
  let kept := p0Kept s sg
  let before := kept.filter (fun b => b != 0 && !kept.contains (b - 1))
  let other := s.pool.p0next.filter (fun e => hSeg e.1 != sg)
  let links := before.foldl (fun m b => mapPut m (mkHandle 0 sg (b - 1)) (p0From s sg kept b)) other
  let s1 := { clearLinks s sg kept with pool := { s.pool with p0next := links } }
  setFree (setN s1 (segReg R.POOL_SEG_HEAD 0 sg) (p0From s sg kept 0)) 0 sg (segCount s 0 sg - kept.length)

/-- Thread a segment's free list from its bitmap: every free buffer whose row is in use is pushed in descending index
order (R176). DESIGN CHOICE (220): LOW does not see the counts that the list passes through while it is built. -/
def threadSeg (s : State) (p sg : Nat) : State :=
  if p = 0 then threadP0 s sg
  else
    let low := regN s (segReg R.POOL_SEG_LOW p sg)
    let s0 := setFree (setN s (segReg R.POOL_SEG_HEAD p sg) endHandle) p sg 0
    let s1 := (List.range (segCount s p sg)).reverse.foldl (fun a i =>
      let h := mkHandle p sg i
      let a := meetCount a h
      if refCount a h = some 0 then pushFree a h else a) s0
    setN s1 (segReg R.POOL_SEG_LOW p sg) (min low (segFree s1 p sg))

/-- A cell whose row is removed leaves its segment's free list (R165). -/
def unlinkCell (s : State) (h : Nat) : State :=
  let sg := hSeg h
  if hIdx h < segCount s 0 sg ∧ mapGet 0 s.pool.p0 h = 0 ∧ inRun s 0x48 then
    let next := p0Next s h
    let s1 := { s with pool := { s.pool with p0next := mapDel s.pool.p0next h } }
    let s2 := if segHead s 0 sg = h then setN s1 (segReg R.POOL_SEG_HEAD 0 sg) next
      else
        let prev := match s.pool.p0next.find? (fun e => e.2 == h) with | some e => e.1 | none => h - 1
        { s1 with pool := { s1.pool with p0next := mapSet (p0Default s1 prev) s1.pool.p0next prev next } }
    setFree s2 0 sg (segFree s2 0 sg - 1)
  else s

/-- A rebuild ends (R176): the list is threaded, the segment leaves the frozen state and the releases that waited for it
are carried out. -/
def rebuildEnd (s : State) (p sg : Nat) : State :=
  if segRebuilding s p sg then
    let s1 := setFlag (setFlag s (segReg R.POOL_SEG_FREE p sg) 26 false) (segReg R.POOL_SEG_FREE p sg) 27 false
    let s2 := event (threadSeg s1 p sg) 0x48 4
    let mine := s2.pool.waiting.filter (fun h => hPool h == p && hSeg h == sg)
    let s3 := { s2 with pool := { s2.pool with waiting := s2.pool.waiting.filter (fun h => !(hPool h == p && hSeg h == sg)) } }
    mine.foldl releaseQuiet s3
  else s

/-- The pieces of a range that lies wholly in POOL regions (R170). -/
def poolPieces (s : State) (a n : Nat) : Option (List (Nat × Nat)) := spanPieces (regionsNow s) (fun r => r.kind == 5) 1024 a n

/-- Bytes of a segment's metadata for n buffers (R171). -/
def metaLen (n : Nat) : Nat := n + (n + 7) / 8

/-- A configured segment breaks the rule of R170: base aligned to the buffer size, or 1 MiB for P4, buffers and metadata
wholly in POOL regions. -/
def segBad (s : State) (p sg : Nat) : Bool :=
  let n := fld s (segReg R.POOL_SEG_COUNT p sg) 25 0
  segBase s p sg % (if p = 4 then 0x100000 else bufSize p) != 0
    || (poolPieces s (segBase s p sg) (n * bufSize p)).isNone || (poolPieces s (segMeta s p sg) (metaLen n)).isNone

/-- The pool and segment pairs. -/
def allSegs : List (Nat × Nat) :=
  [(0, 0), (0, 1)] ++ (List.range 4).flatMap (fun p => (List.range 8).map (fun sg => (p + 1, sg)))

/-- A segment with no free list: its FREE, FROZEN and REBUILDING read 0. -/
def blankSeg (s : State) (p sg : Nat) : State :=
  setN (setN s (segReg R.POOL_SEG_FREE p sg) 0) (segReg R.POOL_SEG_HEAD p sg) endHandle

/-- One HBM segment when the POOL block enters STARTING (R170): refused where it breaks the rule, and then absent. -/
def judgeSeg (s : State) (p sg : Nat) : State :=
  if p = 0 ∨ fld s (segReg R.POOL_SEG_COUNT p sg) 25 0 = 0 ∨ segBad s p sg = false then s
  else event (blankSeg { s with pool := { s.pool with refused := insNat s.pool.refused (p * 8 + sg) } } p sg) 0x48 5

/-- The POOL block enters STARTING (R170). -/
def poolJudge (s : State) : State :=
  allSegs.foldl (fun a e => judgeSeg a e.1 e.2) { s with pool := { s.pool with refused := [] } }

/-- Clear a segment's metadata, piece by piece. -/
def clearMeta (s : State) (p sg : Nat) : State :=
  ((poolPieces s (segMeta s p sg) (metaLen (segCount s p sg))).getD []).foldl (fun a x => hwWriteAs 5 a x.1 (List.replicate x.2 0)) s

/-- One segment when the POOL block starts (R177): threaded with all counts and bits 0; an absent one has no free list. -/
def startSeg (s : State) (p sg : Nat) : State :=
  let s0 := blankSeg s p sg
  if p = 0 then threadSeg { s0 with pool := { s0.pool with p0 := s0.pool.p0.filter (fun e => hSeg e.1 != sg) } } p sg
  else if segCount s p sg = 0 then s0
  else threadSeg (clearMeta s0 p sg) p sg

/-- A block enters STARTING: POOL judges its segments (R170). -/
def enterStarting (s : State) (page : Nat) : State :=
  let s1 := setBlk s page bSTARTING
  if page = 0x48 then poolJudge s1 else s1

/-- The work of STARTING (R177): every configured segment. -/
def poolStart (s : State) : State :=
  allSegs.foldl (fun a e => startSeg a e.1 e.2) { s with pool := { s.pool with waiting := [] } }

/-- Every buffer of a segment is free: no count is above 0 (R171, R173). -/
def segAllFree (s : State) (p sg : Nat) : Bool :=
  if p = 0 then s.pool.p0.all (fun e => hSeg e.1 != sg)
  else match poolPieces s (segMeta s p sg) (segCount s p sg) with
    | some l => l.all (fun x => match resolve s x.1 x.2 with
        | some k => s.mem.all (fun c => decide (c.1 < k) || decide (k + x.2 ≤ c.1))
        | none => false)
    | none => false

/-- Every buffer of every segment is free, and no release waits (R177: the drain is complete). -/
def poolAllFree (s : State) : Bool := allSegs.all (fun e => segAllFree s e.1 e.2) && s.pool.waiting.isEmpty

/-! ### POOL_CMD (R172, R173, R176, R177) -/

/-- Post an answer to POOL_CMD: the code, and the count and state bit of a buffer after the command. -/
def poolAnswer (s : State) (code h : Nat) : State :=
  let c := if handleOk s h then (refCount s h).getD 0 else 0
  setN s R.POOL_RES (code * 16 + (c % 256) * 0x100 + ofBool (decide (1 ≤ c)) * 0x10000)

/-- The POOL block's state forbids the operation: the answer (R177). -/
def poolGate (s : State) (op : Nat) : Option Nat :=
  let b := blkState s 0x48
  if b = bSTARTING then some cBUSY
  else if b = bDRAINING then (if op = 1 then some cBUSY else none)
  else if b = bRUN then none
  else some cPOLICY

/-- An operation of POOL_CMD: op 1 ALLOC, 2 ADDREF, 3 RELEASE, 4 QUERY, 5 REBUILD, others refused (R176). DESIGN CHOICE (240): REBUILD of a pool code
above 4 or of a segment without buffers is REFUSED_POLICY. -/
def poolCmd (s : State) (op v : Nat) : State :=
  let p := bitsOf v 10 8
  let sg := bitsOf v 13 11
  let n := bitsOf v 21 14
  let h := regN s R.POOL_ARG
  match poolGate s op with
  | some c => poolAnswer s c h
  | none =>
    if poolParked s (if op = 1 ∨ op = 5 then p else hPool h) then setN s R.POOL_RES (cBUSY * 16)
    else if op = 1 then
      if n = 0 ∨ p = 0 ∨ 4 < p then setN s R.POOL_RES (cPOLICY * 16)
      else match allocBuf s p sg n with
        | (some g, s1) => setN (poolAnswer s1 cSERVED g) R.POOL_RES_HANDLE g
        | (none, s1) => setN s1 R.POOL_RES (cBUSY * 16)
    else if op = 2 then
      if n = 0 then poolAnswer s cPOLICY h
      else let (c, s1) := addrefBuf s h n; poolAnswer s1 c h
    else if op = 3 then let (c, s1) := releaseBuf s h; poolAnswer s1 c h
    else if op = 4 then
      if handleOk s h then poolAnswer (meetCount s h) cSERVED h else poolAnswer (noteBad s h fPOOL_HANDLE_FREE) cPOLICY h
    else if op = 5 then
      if 4 < p ∨ segCount s p sg = 0 then setN s R.POOL_RES (cPOLICY * 16)
      else setN (setFlag s (segReg R.POOL_SEG_FREE p sg) 27 true) R.POOL_RES (cSERVED * 16)
    else setN s R.POOL_RES (cPOLICY * 16)

/-- A write of POOL_CMD through a window (R14, R179): ignored where the window or gate forbids it, or while a command is
pending. -/
def poolCmdWrite (s : State) (w : Win) (op v : Nat) : State :=
  if mayWrite s w R.POOL_CMD && !flag s R.POOL_RES 0 && op != 0 then poolCmd s op v else s

end Sys2Proof.Machine
end

