-- ==== Sys2Proof/Machine/Operands.lean ====
section
/-!
DEFINITION. The operand forms: tile descriptors (R52 to R56), stream open records (R72), station maps (R70), the outer
configuration and the panel table (R103, R104), subscriber, endpoint and node entries (R187, R190, R191), as they are
read from storage, with the checks that their own tables give.
-/
namespace Sys2Proof.Machine

/-! Station codes (R50). -/
/-- MATRIX. -/
abbrev stMATRIX : Nat := 1
/-- VECTOR. -/
abbrev stVECTOR : Nat := 2
/-- PROJECT. -/
abbrev stPROJECT : Nat := 3
/-- CODEC. -/
abbrev stCODEC : Nat := 4
/-- EXPAND. -/
abbrev stEXPAND : Nat := 5
/-- REDUCE. -/
abbrev stREDUCE : Nat := 6
/-- FABRIC. -/
abbrev stFABRIC : Nat := 7
/-- LINE. -/
abbrev stLINE : Nat := 8
/-- HOST. -/
abbrev stHOST : Nat := 9
/-- SEAL. -/
abbrev stSEAL : Nat := 10

/-- A station is at a place (R50). -/
def stationAt (st pl : Nat) : Bool :=
  if st = 0 then false
  else if st ≤ 3 then decide (pl ≤ 7)
  else if st = 5 then decide (pl ≤ 9)
  else if st ≤ 8 then pl == 8 || pl == 9
  else if st ≤ 10 then pl == 8
  else false

/-- A station with directions. -/
def isPort (st : Nat) : Bool := st == 7 || st == 8 || st == 9

/-- The direction of hop k: 0 in or none, 1 out. A port hop is in when it is hop 0 and out when it is later (R54, R61). -/
def dirAt (st k : Nat) : Nat := if isPort st && decide (0 < k) then 1 else 0

/-- An instance: station + 16 × place + 256 × direction, as STN_BIDX names it. -/
def instKey (st pl dir : Nat) : Nat := st + 16 * pl + 256 * dir

/-- A route's hops: the bytes before the first with station 0 (R52). -/
def routeOf (v : Nat) : List Nat := ((List.range 8).map (fun k => v / 256 ^ k % 256)).takeWhile (fun h => h % 16 != 0)

/-- Station of a hop byte. -/
def hopStation (h : Nat) : Nat := h % 16
/-- Place of a hop byte. -/
def hopPlace (h : Nat) : Nat := h / 16 % 16

/-- Operation codes that a station accepts (R109 to R111, R145, R147, R215, R299); no rule names codes for port hops. -/
def opOk (st op : Nat) : Bool :=
  if st = 1 then decide (1 ≤ op) && decide (op ≤ 4)
  else if st = 2 then (decide (1 ≤ op) && decide (op ≤ 9)) || (decide (0x20 ≤ op) && decide (op ≤ 0x24))
  else if st = 3 then decide (1 ≤ op) && decide (op ≤ 3)
  else if st = 4 then op == 0 || op == 1 || (decide (8 ≤ op) && decide (op ≤ 15))
  else if st = 5 then op == 0
  else if st = 6 then op == 1
  else if st = 10 then op == 1 || op == 2
  else true

/-- A round operation (R109 to R111). -/
def isRoundOp (st op : Nat) : Bool :=
  (st == 1 && decide (2 ≤ op) && decide (op ≤ 4)) || (st == 2 && decide (1 ≤ op) && decide (op ≤ 9)) || st == 3

/-- A member operation (R109, R110). -/
def isMemberOp (st op : Nat) : Bool := (st == 1 && op == 1) || (st == 2 && decide (0x20 ≤ op) && decide (op ≤ 0x24))

/-- Hop-0 operations whose tiles may be short anywhere (R51). -/
def shortOk (st op : Nat) : Bool := isRoundOp st op || (st == 1 && op == 1)

/-! ### Descriptors -/

/-- The form of a reference (R54). -/
def refForm (r : Nat) : Nat := bitsOf r 47 46

/-- A descriptor's fields (R52). -/
def parseDesc (qidx : Nat) (b : List Byte) : Desc :=
  { qidx := qidx, fmt := leAt b 0x12 1 % 32, attr := leAt b 0x13 1, src := leAt b 0x14 8 % 2 ^ 48, dst := leAt b 0x1C 8 % 2 ^ 48,
    len := leAt b 0x24 4 % 2 ^ 17, ring := leAt b 0x28 2 % 256, round := leAt b 0x2C 6, seq := leAt b 0x0C 6 }

/-- A reference takes a valid form at its place (R54, R59). `port` says whether an endpoint may stand there. -/
def refOk (r : Nat) (port : Bool) : Bool :=
  let f := refForm r
  f == 0 || f == 1 || (f == 2 && port)

/-- SRC takes a valid form (R54, R59, R61): an endpoint for a receive descriptor, and nowhere else. -/
def srcOk (r : Nat) (ingress : Bool) : Bool := if ingress then refForm r == 2 else refOk r false

/-- A port hop in at the head of a route. -/
def headIn (route : List Nat) : Bool := match route with | h :: _ => isPort (hopStation h) | [] => false

/-- A port hop out follows in the route. -/
def hasOut (route : List Nat) : Bool := route.tail.any (fun h => isPort (hopStation h))

/-- The checks of R59 on a fetched descriptor, against its stream. -/
def descOk (st : Stream) (b : List Byte) : Bool :=
  let d := parseDesc 0 b
  leAt b 0x02 1 % 16 == 1 && leAt b 0 2 == st.id && routeOf (leAt b 0x04 8) == st.route && d.seq == st.expect
    && (elemOf d.fmt).isSome && decide (1 ≤ d.len) && decide (d.len ≤ 0x10000)
    && (d.len == 0x10000 || bitOf d.attr 2 || (match st.route, st.op with
          | h :: _, o :: _ => shortOk (hopStation h) o
          | _, _ => false))
    && srcOk d.src (headIn st.route) && refOk d.dst (hasOut st.route)

/-! ### Open records -/

/-- A stream open record's fields (R72). -/
structure OpenRec where
  id : Nat
  cls : Nat
  member : Bool
  hops : Nat
  route : List Nat
  rate : List Nat
  op : List Nat
  sub : Nat
  sqBase : Nat
  sqLog2 : Nat
  first : Nat
  operand : List Nat
  deriving DecidableEq, Repr

/-- Read an open record. -/
def parseOpen (b : List Byte) : OpenRec :=
  let hops := leAt b 0x03 1 % 16
  { id := leAt b 0 2, cls := leAt b 0x02 1 % 8, member := bitOf (leAt b 0x02 1) 3, hops := hops,
    route := routeOf (leAt b 0x04 8), rate := (List.range hops).map (fun k => leAt b (0x0C + 2 * k) 2),
    op := (List.range hops).map (fun k => leAt b (0x1C + k) 1), sub := leAt b 0x24 2 % 4096,
    sqBase := leAt b 0x28 8, sqLog2 := leAt b 0x30 1, first := leAt b 0x32 6,
    operand := (List.range 3).map (fun k => leAt b (0x38 + 8 * k) 8) }

/-- The record's codes are valid (R50, R72, R109 to R111). -/
def openCodesOk (o : OpenRec) : Bool :=
  decide (1 ≤ o.hops) && decide (o.hops ≤ 8) && o.route.length == o.hops
    && o.route.all (fun h => stationAt (hopStation h) (hopPlace h)) && o.rate.all (· != 0)
    && (o.route.zip o.op).all (fun p => opOk (hopStation p.1) p.2)
    && decide (6 ≤ o.sqLog2) && decide (o.sqLog2 ≤ 16) && o.sqBase % 64 == 0 && decide (o.sqBase < 2 ^ 46)

/-! ### Station maps -/

/-- Read a station map (R70) of known size. -/
def parseMap (addr : Nat) (b : List Byte) : StnMap :=
  let n := leAt b 0x08 2
  { id := leAt b 4 4, bind := (List.range 8).map (fun i => leAt b (0x40 + 8 * i) 8 % 2 ^ 40),
    budgets := (List.range n).map (fun i => (leAt b (0x80 + 8 * i) 2 % 512, leAt b (0x82 + 8 * i) 2)),
    addr := addr, size := 0x80 + 8 * n }

/-! ### The outer configuration (R103, R104) -/

/-- The outer configuration record. -/
structure Ocr where
  ver : Nat
  method : Nat
  qfmt : Nat
  pfmt : Nat
  dist : Nat
  rank : Nat
  mu : Nat
  eta : Nat
  panels : Nat
  seed : Nat
  tab : Nat
  outer : Nat
  mom : Nat
  resA : Nat
  resB : Nat
  snap : Nat
  factor : Nat
  elems : Nat
  h : Nat
  lag : Nat
  deriving DecidableEq, Repr

/-- Read the record. -/
def parseOcr (b : List Byte) : Ocr :=
  { ver := leAt b 0 4, method := leAt b 4 1 % 4, qfmt := leAt b 5 1 % 4, pfmt := leAt b 6 1 % 4, dist := leAt b 7 1,
    rank := leAt b 8 2, mu := leAt b 0x0C 4, eta := leAt b 0x10 4, panels := leAt b 0x14 4, seed := leAt b 0x18 8,
    tab := leAt b 0x20 8, outer := leAt b 0x28 8, mom := leAt b 0x30 8, resA := leAt b 0x38 8, resB := leAt b 0x40 8,
    snap := leAt b 0x48 8, factor := leAt b 0x50 8, elems := leAt b 0x58 8, h := leAt b 0x60 4, lag := leAt b 0x64 1 % 4 }

/-- A panel record. -/
structure Panel where
  index : Nat
  base : Nat
  foff : Nat
  rows : Nat
  cols : Nat
  rank : Nat
  deriving DecidableEq, Repr

/-- Read a panel record. -/
def parsePanel (i : Nat) (b : List Byte) : Panel :=
  { index := i, base := leAt b 0 8, foff := leAt b 8 8, rows := leAt b 0x10 4, cols := leAt b 0x14 4, rank := leAt b 0x18 2 }

/-- A power of two. -/
def isPow2 (n : Nat) : Bool := n != 0 && 2 ^ Nat.log2 n == n

/-- The record's own rules (R103, R105). -/
def ocrOk (o : Ocr) : Bool :=
  o.ver == 1 && decide (o.method ≤ 1) && decide (o.qfmt ≤ 1) && decide (o.pfmt ≤ 2) && decide (o.dist ≤ 1)
    && decide (32 ≤ o.rank) && decide (o.rank ≤ 1024) && decide (1 ≤ o.panels) && decide (o.panels ≤ 2 ^ 28)
    && o.elems % 32 == 0 && decide (16 ≤ o.h) && decide (o.h ≤ 65536) && decide (o.lag ≤ 2)
    && (o.method != 0 || o.dist == 0)

/-- A panel's rules (R104, R105), given where it must begin. -/
def panelOk (o : Ocr) (start : Nat) (p : Panel) : Bool :=
  p.base == start && p.base % 32 == 0 && p.foff % 4096 == 0 && decide (1 ≤ p.rows) && decide (p.rows ≤ 2 ^ 24)
    && decide (1 ≤ p.cols) && decide (p.cols ≤ 2 ^ 24) && p.rows * p.cols % 32 == 0
    && (p.rank == 0 || (p.rank % 32 == 0 && decide (p.rank ≤ o.rank) && decide (p.rank ≤ min p.rows p.cols)
        && decide (p.cols * p.rank ≤ 2 ^ 22) && (o.method != 0 || isPow2 p.rank)))

/-- The panels cover the shard exactly, in order (R104). -/
def panelsOk (o : Ocr) : Nat → List Panel → Bool
  | at', [] => at' == o.elems
  | at', p :: t => panelOk o at' p && panelsOk o (at' + p.rows * p.cols) t

/-! ### Subscribers, endpoints, nodes -/

/-- A subscriber record (R190). -/
def parseSub (b : List Byte) : Sub :=
  { valid := bitOf (leAt b 0 1) 0, paceIn := bitOf (leAt b 0 1) 1, job := leAt b 2 2, group := leAt b 4 2 % 4096,
    epCount := leAt b 6 2, epBase := leAt b 8 8, rateOut := leAt b 0x10 4 % 2 ^ 24, burstOut := leAt b 0x14 4 % 2 ^ 24,
    rateIn := leAt b 0x18 4 % 2 ^ 24, burstIn := leAt b 0x1C 4 % 2 ^ 24, quantum := leAt b 0x20 4 % 2 ^ 24 }

/-- A subscriber record's codes are valid (R190). -/
def subOk (u : Sub) : Bool :=
  u.valid && decide (1 ≤ u.epCount) && decide (u.epCount ≤ 4096) && u.epBase % 16 == 0
    && (u.rateOut == 0 || decide (8448 ≤ u.burstOut)) && (u.rateIn == 0 || decide (8448 ≤ u.burstIn))
    && decide (8448 ≤ u.quantum)

/-- A unicast target (R191). -/
structure Target where
  port : Nat
  node : Nat
  stream : Nat
  deriving DecidableEq, Repr

/-- A unicast endpoint entry's target. -/
def parseTarget (b : List Byte) : Target :=
  { port := leAt b 0 1 / 16, node := leAt b 2 2, stream := leAt b 4 2 }

/-- The hoist die that serves a port (R182). -/
def portHoist (p : Nat) : Nat := if p = 2 ∨ p = 3 ∨ p = 5 then 1 else 0

/-- The port station that serves a port code. -/
def portStation (p : Nat) : Nat := if p < 4 then stFABRIC else if p < 6 then stLINE else stHOST

end Sys2Proof.Machine
end

