-- ==== Sys2Proof/Machine/Ports.lean ====
section
/-!
DEFINITION. The ports' widths, rates and capacities (R182, R198, R279 to R281, R392).
-/
namespace Sys2Proof.Machine

/-- A lane port's index in the codes of LDLV_IDX, from a port code of R182: 0 LP0, 1 LP1, 2 to 5 FP0 to FP3. -/
def ldlvPort (p : Nat) : Nat := if p < 4 then p + 2 else p - 4

/-- A lane's state: 0 ACTIVE, 1 DEGRADED, 2 DOWN, 3 HELD (LDLV_LANE), by LDLV_IDX port. -/
def laneState (s : State) (port lane : Nat) (rx : Bool) : Nat :=
  let lo := 4 * lane + (if rx then 2 else 0)
  fld s (keyB R.LDLV_LANE port) (lo + 1) lo

/-- Set a lane's state. -/
def setLane (s : State) (port lane : Nat) (rx : Bool) (v : Nat) : State :=
  let lo := 4 * lane + (if rx then 2 else 0)
  setFld s (keyB R.LDLV_LANE port) (lo + 1) lo v

/-- ACTIVE lanes of a direction. -/
def activeLanes (s : State) (port : Nat) (rx : Bool) : Nat :=
  ((List.range 4).filter (fun l => laneState s port l rx == 0)).length

/-- A fabric lane is ACTIVE in both directions. -/
def lanePairUp (s : State) (port l : Nat) : Bool :=
  laneState s port l false == 0 && laneState s port l true == 0

/-- Lanes a fabric port runs on: 4, 2 on a wholly ACTIVE pair, or 0 when it is down (R281). -/
def fabricLanes (s : State) (p : Nat) : Nat :=
  let port := ldlvPort p
  let a := lanePairUp s port 0 && lanePairUp s port 1
  let b := lanePairUp s port 2 && lanePairUp s port 3
  if a && b then 4 else if a || b then 2 else 0

/-- Privileged slots per frame of a line module (R260). -/
def lineSlots (s : State) (md : Nat) : Nat := fld s (keyB R.LDLV_CFG md) 4 0

/-- A line module's framing and delivery. -/
def lineMod (s : State) (md : Nat) : LineMod := nthD {} s.line.mods md

/-- Update it. -/
def putLine (s : State) (md : Nat) (m : LineMod) : State := { s with line := { s.line with mods := setAt {} s.line.mods md m } }

/-- A module's optical control. -/
def ocuMod (s : State) (md : Nat) : OcuMod := nthD {} s.ocu.mods md

/-- Update it. -/
def putOcu (s : State) (md : Nat) (m : OcuMod) : State := { s with ocu := { s.ocu with mods := setAt {} s.ocu.mods md m } }

/-- OCU_STATE.STATE (R311). -/
def ocuState (s : State) (md : Nat) : Nat := fld s (keyB R.OCU_STATE md) 2 0

/-- The module is lit: PROBE or LIT (R311). -/
def moduleLit (s : State) (md : Nat) : Bool := ocuState s md == 5 || ocuState s md == 6

/-- k and j of R314. -/
def steerK (wide : Bool) : Nat := if wide then 4 else 2
/-- j. -/
def steerJ (wide : Bool) : Nat := if wide then 12 else 6

/-- The tick is one of the module's steering ticks (R314). -/
def txSteering (s : State) (md : Nat) : Bool :=
  let o := ocuMod s md
  o.txq.any (·.begun) || (match o.txAt with | some (t, w) => decide (s.tick.now < t + steerJ w) | none => false)

/-- The module is steering in the tick, or makes the gap of a change of rate (R280, R314). -/
def moduleSteering (s : State) (md : Nat) : Bool := txSteering s md || decide (s.tick.now < (lineMod s md).gapTo)

/-- The module's receiver is re-acquiring after a steer (R249). -/
def moduleReacquiring (s : State) (md : Nat) : Bool := (lineMod s md).steer.isSome

/-- Lanes a line module's transmit direction runs on (R280). -/
def lineLanes (s : State) (md : Nat) : Nat := (lineMod s md).lanes

/-- Frames per tick of a line direction (R280). -/
def lineFrames (s : State) (md : Nat) : Nat := if lineLanes s md = 3 then 60 else 80

/-- HP's rate, scaled by the link's width and rate (R182, R392). -/
def hostRate (s : State) : Nat :=
  if flag s R.CXL_LINK 12 then 512000 * (fld s R.CXL_LINK 3 0 * fld s R.CXL_LINK 11 4) / (8 * 64) else 0

/-- A line port's R at full light: the bulk-slot bytes of 80 frames, three quarters on 3 lanes (R182). -/
def lineRateLit (s : State) (md : Nat) : Nat :=
  let r := 80 * 64 * (155 - lineSlots s md)
  if lineLanes s md = 3 then r * 3 / 4 else r

/-- R of a port as it stands (R182). -/
def portRate (s : State) (p : Nat) : Nat :=
  if p < 4 then 200000 * fabricLanes s p
  else if p < 6 then (if moduleLit s (p - 4) && !moduleSteering s (p - 4) then lineRateLit s (p - 4) else 0)
  else if p = 6 then hostRate s
  else 0

/-- SCHED_PORT_OVH. -/
def portOvh (s : State) (p : Nat) : Nat := fld s (keyB R.SCHED_PORT_OVH p) 7 0
/-- SCHED_PORT_RSV. -/
def portRsv (s : State) (p : Nat) : Nat := fld s (keyB R.SCHED_PORT_RSV p) 19 0

/-- Twice the charged bytes per sixteenth, 2κ, which is whole (R198). -/
def kappa2 (s : State) (p : Nat) : Nat := 8192 + 32 + portOvh s p

/-- Privileged data bytes per tick of a line port, P: s slots a frame of 64 bytes, six frames of eight being data (R261);
three quarters on 3 lanes. -/
def linePriv (s : State) (md : Nat) : Nat := lineFrames s md * lineSlots s md * 64 * 6 / 8

/-- A fabric or line port gives less than its plan took from it (R69): lanes lost, a dark module or a steering gap. -/
def portSlow (s : State) (p : Nat) : Bool :=
  if p < 4 then fabricLanes s p != 4
  else if p < 6 then !moduleLit s (p - 4) || moduleSteering s (p - 4) || lineLanes s (p - 4) != 4
  else false

/-- Bulk capacity of a port in sixteenths per tick, with R as it stands (R182, R198). -/
def portBulk (s : State) (p : Nat) : Nat :=
  (2 * (if p < 4 then portRate s p - portRsv s p else portRate s p)) / kappa2 s p

/-- Privileged capacity (R198). -/
def portPriv (s : State) (p : Nat) : Nat :=
  if p < 4 then 2 * portRsv s p / kappa2 s p else if p < 6 then 2 * linePriv s (p - 4) / kappa2 s p else 0

/-- The ports of a port station's hop at a place. -/
def hopPorts (st pl : Nat) : List Nat :=
  if st = 7 then (if pl = 8 then [0, 1] else [2, 3]) else if st = 8 then (if pl = 8 then [4] else [5]) else [6]

/-- The charged length of a frame (R198). -/
def chargedLen (s : State) (f : Frame) : Nat := 32 + f.payload.length + portOvh s f.port

end Sys2Proof.Machine
end

