-- ==== Sys2Proof/Machine/Streams.lean ====
section
/-!
DEFINITION. Streams and tiles: doorbells, fetch, hops, completion (R57 to R65, R74 to R76), the frame of every hop
operation (R60, R160, R164), and opens (R72, R73).
-/
namespace Sys2Proof.Machine

/-- The page of the streams. -/
abbrev pgSTRM : Nat := 0xB1
/-- The page of the stations. -/
abbrev pgSTN : Nat := 0xB0

/-! ### The stream table -/

/-- The stream in a slot. -/
def streamAt (s : State) (slot : Nat) : Option Stream := mapFind s.strm.slots slot

/-- Update the stream in a slot. -/
def putStream (s : State) (slot : Nat) (st : Stream) : State :=
  { s with strm := { s.strm with slots := mapPut s.strm.slots slot st } }

/-- Free a slot. -/
def dropStream (s : State) (slot : Nat) : State :=
  { s with strm := { s.strm with slots := mapDel s.strm.slots slot }, ciph := { s.ciph with batches := mapDel s.ciph.batches slot } }

/-- Any stream is OPEN or CLOSING. -/
def anyOpen (s : State) : Bool := !s.strm.slots.isEmpty

/-- Update a tile of a stream by its sequence number. -/
def setTile (st : Stream) (t : Tile) : Stream :=
  { st with tiles := st.tiles.map (fun x => if x.desc.seq = t.desc.seq then t else x) }

/-- Hop k of a stream: its byte, 0 beyond the route. -/
def hopAt (st : Stream) (k : Nat) : Nat := nthD 0 st.route k

/-- The instance that serves hop k. -/
def instAt (st : Stream) (k : Nat) : Nat := instKey (hopStation (hopAt st k)) (hopPlace (hopAt st k)) (dirAt (hopStation (hopAt st k)) k)

/-- The rates of all open streams at an instance (R71, R73). -/
def committed (s : State) (inst : Nat) : Nat :=
  s.strm.slots.foldl (fun a e => (List.range e.2.hops).foldl (fun b k => if instAt e.2 k = inst then b + nthD 0 e.2.rate k else b) a) 0

/-- A map's budget for an instance, 0 without an entry (R70). -/
def mapBudget (m : StnMap) (inst : Nat) : Nat := match m.budgets.find? (fun e => e.1 == inst) with | some e => e.2 | none => 0

/-! ### Codec slots' counts (R141) -/

/-- The key of a codec slot: context × 16 + direction × 8 + slot; direction 1 is inbound. -/
def cslotKey (ctx dir slot : Nat) : Nat := ctx * 16 + dir * 8 + slot

/-- A codec slot. -/
def cslot (s : State) (k : Nat) : CSlot := mapGet {} s.codec.slots k

/-- Update a codec slot. -/
def putCslot (s : State) (k : Nat) (c : CSlot) : State :=
  { s with codec := { s.codec with slots := mapSet {} s.codec.slots k c } }

/-- Count blocks in at some slots. -/
def countIn (s : State) (l : List (Nat × Nat)) : State :=
  l.foldl (fun a e => putCslot a e.1 { cslot a e.1 with count := min 0xFFFFFF ((cslot a e.1).count + e.2) }) s

/-- Count blocks out at some slots. -/
def countOut (s : State) (l : List (Nat × Nat)) : State :=
  l.foldl (fun a e => putCslot a e.1 { cslot a e.1 with count := (cslot a e.1).count - e.2 }) s

/-! ### Frames of a tile at the ports -/

/-- Release the cells of a frame. -/
def releaseCells (s : State) (f : Frame) : State := f.cells.foldl releaseQuiet s

/-- Classes and flows with nothing queued at a port keep no deficit (R199, R200). -/
def idlePort (s : State) (p : Nat) : State :=
  let q := nthD {} s.sw.ports p
  let mine := s.sw.frames.filter (fun f => f.port == p)
  let q1 := { q with deficit := q.deficit.zipIdx.map (fun e => if mine.any (fun f => f.cls == e.2) then e.1 else 0),
                     flows := q.flows.filter (fun e => mine.any (fun f => f.cls == e.1 / 8192 && f.flow == e.1 % 8192)) }
  { s with sw := { s.sw with ports := setAt {} s.sw.ports p q1 } }

/-- The shared buffers of some frames, one reference for each transfer that has frames left (R192). -/
def sharedRefs (l : List Frame) : List Nat :=
  (l.foldl (fun a f => match f.shared with
    | some h => if a.any (fun x => x.1 == f.xfer) then a else a ++ [(f.xfer, h)]
    | none => a) ([] : List (Nat × Nat))).map (·.2)

/-- The blocks of a transfer that the far end has not acknowledged leave their counts (R141). -/
def settleXfer (s : State) (xfer : Nat) : State :=
  (s.sw.unacked.filter (fun e => e.1 == xfer)).foldl (fun a e => countOut a e.2)
    { s with sw := { s.sw with unacked := s.sw.unacked.filter (fun e => e.1 != xfer) } }

/-- Take queued frames away: cells, shared buffers and the coded counts of their transfers go with them (R141, R192). -/
def dropFrames (s : State) (mine : Frame → Bool) : State :=
  let l := s.sw.frames.filter mine
  let s1 := { s with sw := { s.sw with frames := s.sw.frames.filter (fun f => !mine f) } }
  let s2 := l.foldl (fun a f => settleXfer (releaseCells (countOut a f.blocks) f) f.xfer) s1
  (l.map (·.port)).foldl idlePort ((sharedRefs l).foldl releaseQuiet s2)

/-- Take the queued frames of a tile away: its transfer has ended. -/
def dropTileFrames (s : State) (slot seq : Nat) : State := dropFrames s (fun f => f.tile == some (slot, seq))

/-! ### Completion -/

/-- A completion ring's size, none while it is not valid (CRING_CFG). -/
def cringSize (s : State) (ring : Nat) : Option Nat :=
  let k := keyB R.CRING_CFG ring
  let n := fld s k 4 0
  if flag s k 31 ∧ 6 ≤ n ∧ n ≤ 16 then some (2 ^ n) else none

/-- A completion ring's base. -/
def cringBase (s : State) (ring : Nat) : Nat :=
  regN s (keyB R.CRING_BASE_LO ring) + regN s (keyB R.CRING_BASE_HI ring) * 0x100000000

/-- Write a record, given its PHASE, at a ring's tail (R64): none when the ring is full; nothing is written for a ring
that is not valid. -/
def postRecord (s : State) (ring : Nat) (mk : Bool → List Byte) : Option State :=
  match cringSize s ring with
  | none => some s
  | some size =>
    let tail := fld s (keyB R.CRING_TAIL ring) 15 0
    let next := (tail + 1) % size
    if next = fld s (keyB R.CRING_HEAD ring) 15 0 then none
    else
      let ph := mapGet true s.strm.phase ring
      let s1 := hwWrite s (cringBase s ring + 32 * tail) (mk ph)
      let s2 := setN s1 (keyB R.CRING_TAIL ring) next
      some (if next = 0 then { s2 with strm := { s2.strm with phase := mapPut s2.strm.phase ring (!ph) } } else s2)

/-- Ring the interrupt source of a ring (R56). -/
def notifyRing (s : State) (ring : Nat) : State := irqMessage s (fld s (keyB R.CRING_CFG ring) 25 16)

/-- A tile's status (R65). -/
def tileStatus (t : Tile) : Nat :=
  match t.fail with
  | some c => c
  | none => if t.late ≠ 0 then cLATE else if t.delay ≠ 0 then cDELAYED else cSERVED

/-- Count a completion or answer by its code (STRM_DELAYED, STRM_LATE, STRM_REFUSED). -/
def countCode (s : State) (c : Nat) : State :=
  if c = cDELAYED then bump s R.STRM_DELAYED else if c = cLATE then bump s R.STRM_LATE
  else if c = cCAPACITY ∨ c = cPOLICY ∨ c = cSEALED then bump s R.STRM_REFUSED else s

/-- A tile's completion record (R62). -/
def tileRecord (st : Stream) (t : Tile) (done : Nat) (ph : Bool) : List Byte :=
  bytesLE 2 st.id ++ bytesLE 1 (tileStatus t + ofBool ph * 128) ++ bytesLE 1 (t.endHop.getD (hopAt st t.hop)) ++ bytesLE 6 t.desc.seq
    ++ bytesLE 2 (min 65535 t.delay) ++ bytesLE 2 (min 65535 t.late) ++ bytesLE 6 t.desc.round
    ++ bytesLE 4 (if t.fail.isSome then 0 else t.outLen) ++ bytesLE 6 done ++ bytesLE 2 0

/-- The descriptor's four fields written back (R53). -/
def writeBack (s : State) (st : Stream) (t : Tile) (done : Nat) : State :=
  let a := st.sqBase + 64 * t.desc.qidx
  let s1 := hwWrite (hwWrite s (a + 0x03) (bytesLE 1 t.hop)) (a + 0x2A) (bytesLE 1 (tileStatus t))
  hwWrite s1 (a + 0x34) (bytesLE 6 t.desc.tickSub ++ bytesLE 6 done)

/-- A carrier tile's completion reaches the collective engine (R215). -/
def noteCarrier (s : State) (slot : Nat) (t : Tile) : State :=
  if s.coll.purposes.any (fun p => p.slot == slot && p.seq == t.desc.seq) then
    { s with coll := { s.coll with ended := s.coll.ended ++ [(slot, t.desc.seq, tileStatus t, min 65535 t.delay, min 65535 t.late)] } }
  else s

/-- A parameter tile of the push completed (R27): a tile of the committed round that APPLY formed and FABRIC sent. -/
def notePush (s : State) (st : Stream) (t : Tile) : State :=
  if s.job.held ∧ s.job.phase = 8 ∧ t.desc.round = s.job.commit ∧ t.fail.isNone
      ∧ hopStation (hopAt st (st.hops - 1)) = stFABRIC ∧ (List.range st.hops).any (fun k => hopStation (hopAt st k) == stVECTOR && nthD 0 st.op k == 9) then
    { s with job := { s.job with pushedBytes := s.job.pushedBytes + t.desc.len } }
  else s

/-- Complete a stream's oldest tile, unless its ring is full (R53, R64). -/
def completeTile (s : State) (slot : Nat) (st : Stream) (t : Tile) (done : Nat) : Option State :=
  match postRecord (writeBack s st t done) t.desc.ring (tileRecord st t done) with
  | none => none
  | some s1 =>
    let s2 := countCode s1 (tileStatus t)
    let s3 := if bitOf t.desc.attr 4 && (cringSize s2 t.desc.ring).isSome then notifyRing s2 t.desc.ring else s2
    let s4 := noteCarrier (notePush (match t.landing with | some h => releaseQuiet s3 h | none => s3) st t) slot t
    some (putStream s4 slot { st with tiles := st.tiles.tail, head := (t.desc.qidx + 1) % 2 ^ st.sqLog2,
                                      failed := if t.fail.isSome then insNat st.failed t.desc.round else st.failed })

/-- The completed tiles next in order that a full ring holds (R64, R69). -/
def ringHeld (ring : Nat) : List Tile → List Tile
  | [] => []
  | t :: rest => if t.doneTick.isSome ∧ t.desc.ring = ring then { t with withheld := true } :: ringHeld ring rest else t :: rest

/-- Write the completions that are next in a stream's order, as far as its ring holds them (R60, R64). -/
def flushN : Nat → State → Nat → State
  | 0, s, _ => s
  | fuel + 1, s, slot =>
    match streamAt s slot with
    | some st =>
      match st.tiles with
      | t :: rest =>
        match t.doneTick with
        | some d =>
          match completeTile s slot st t d with
          | some s1 => flushN fuel s1 slot
          | none =>
            let s1 := putStream s slot { st with tiles := ringHeld t.desc.ring (t :: rest) }
            if t.withheld then s1 else event s1 pgSTRM 2
        | none => s
      | [] => s
    | none => s

/-- Write the completions of a stream that are due. -/
def flush (s : State) (slot : Nat) : State :=
  match streamAt s slot with
  | some st => flushN (st.tiles.length + 1) s slot
  | none => s

/-- End a tile with a failure code at the hop where it stands (R65). -/
def failTile (s : State) (slot : Nat) (t : Tile) (code : Nat) : State :=
  match streamAt s slot with
  | some st =>
    let st := if bitOf t.desc.attr 2 then { st with lasts := insNat st.lasts t.desc.seq } else st
    let s1 := countOut (dropTileFrames s slot t.desc.seq) t.blocks
    let t := { t with blocks := [] }
    flush (putStream s1 slot (setTile st { t with fail := some code, doneTick := some s.tick.now, txLeft := 0, withheld := false })) slot
  | none => s

/-- A stream whose route holds a round operation: its tiles' DST is 0 where no later hop takes the output (R108). -/
def roundStream (st : Stream) : Bool := (st.route.zip st.op).any (fun p => isRoundOp (hopStation p.1) p.2)

/-- DST names storage: a local address, address 0 too but for a round tile, or a handle (R54, R108). -/
def dstStorage (st : Stream) (t : Tile) : Bool := decide (refForm t.desc.dst ≤ 1) && (t.desc.dst != 0 || !roundStream st)

/-- A hop's work is done: the tile moves on at the next boundary, or has finished its last hop (R60); with it written to DST its landing
buffer is free (R174). -/
def finishHop (s : State) (slot : Nat) (t : Tile) : State :=
  match streamAt s slot with
  | some st =>
    let done := if t.hop + 1 = st.hops ∧ t.txLeft = 0 then some s.tick.now else none
    let landed := if done.isSome && dstStorage st t then t.landing else none
    let t1 := { t with finished := true, withheld := false, doneTick := done, landing := if landed.isSome then none else t.landing }
    flush (putStream (landed.toList.foldl releaseQuiet s) slot (setTile st t1)) slot
  | none => s

/-! ### Hop operations -/

/-- What a hop operation computes: it may end the tile with a failure code, and it changes the part. -/
abbrev HopM (α : Type) : Type := State → Except Nat α × State

/-- A value. -/
def HopM.ret {α : Type} (a : α) : HopM α := fun s => (.ok a, s)

/-- One after the other; a failure ends it. -/
def HopM.andThen {α β : Type} (m : HopM α) (f : α → HopM β) : HopM β := fun s =>
  match m s with
  | (.ok a, s1) => f a s1
  | (.error c, s1) => (.error c, s1)

/-- The tile ends with a code. -/
def hopFail {α : Type} (c : Nat) : HopM α := fun s => (.error c, s)

/-- Require a condition, or end the tile with a code. -/
def hopReq (b : Bool) (c : Nat) : HopM Unit := fun s => (if b then .ok () else .error c, s)

/-- Look at the part. -/
def hopGet {α : Type} (f : State → α) : HopM α := fun s => (.ok (f s), s)

/-- Change the part. -/
def hopDo (f : State → State) : HopM Unit := fun s => (.ok (), f s)

/-- The operations in turn over a list, collecting. -/
def HopM.each {α β : Type} (f : α → HopM β) : List α → HopM (List β)
  | [] => .ret []
  | x :: t => (f x).andThen fun y => (HopM.each f t).andThen fun ys => .ret (y :: ys)

/-- A full completion ring holds the stream's completed tiles: the stream does not advance at its last hop (R64). -/
def ringStopped (st : Stream) : Bool := match st.tiles with | t :: _ => t.doneTick.isSome && t.withheld | [] => false

/-- A tile stands at the last hop of a stream that a full ring stops there. -/
def stoppedHere (st : Stream) (t : Tile) : Bool := ringStopped st && t.hop + 1 == st.hops

/-- The tile of a stream on which an operation's hop may act now: it stands at a hop of that station with that operation,
admitted and not finished, every earlier tile of the stream being beyond that hop (R60), and no full ring stops it there (R64). -/
def actingTile (st : Stream) (seq station : Nat) (op : Nat → Bool) : Option Tile :=
  match st.tiles.find? (fun t => t.desc.seq == seq) with
  | some t =>
    if hopStation (hopAt st t.hop) == station && op (nthD 0 st.op t.hop) && t.admitted.isSome && !t.finished && t.fail.isNone
        && !stoppedHere st t && (st.tiles.takeWhile (fun x => x.desc.seq != seq)).all (fun x => decide (t.hop < x.hop) || x.finished || x.fail.isSome)
    then some t else none
  | none => none

/-- Not a completion code: the operation waits, and its tile counts the wait as DELAY (R69, R143, R189). -/
abbrev cWAIT : Nat := 255

/-- Not a completion code: the operation waits on WG9's own part, and its tile counts the wait as LATE (R69, R149, R165). -/
abbrev cLATEWAIT : Nat := 254

/-- Not a completion code: the operation meets a bank or row under test; it has no effect yet, and its tile counts the wait as LATE
(R69, R165). -/
abbrev cTESTWAIT : Nat := 253

/-- Not a completion code: the tile ends CORRUPT, and its record names the EXPAND instance of the hop's place (R150). -/
abbrev cEXPFAIL : Nat := 252

/-- The tile is withheld at its hop. -/
def holdTile (s : State) (slot : Nat) (t : Tile) : State :=
  match streamAt s slot with
  | some st => putStream s slot (setTile st { t with withheld := true })
  | none => s

/-- The frame of every hop operation (R60, R65): the tile it acts on, its work, and what becomes of the tile. -/
def runHop (s : State) (slot seq station : Nat) (op : Nat → Bool) (work : Stream → Tile → HopM Tile) : State :=
  match streamAt s slot with
  | none => s
  | some st =>
    match actingTile st seq station op with
    | none => s
    | some t =>
      match work st t s with
      | (.ok t1, s1) => finishHop s1 slot t1
      | (.error c, s1) => if c = cWAIT then holdTile s1 slot t else if c = cLATEWAIT then s1 else if c = cTESTWAIT then s
        else if c = cEXPFAIL then failTile s1 slot { t with endHop := some (5 + 16 * hopPlace (hopAt st t.hop)) } cCORRUPT
        else failTile s1 slot t c

/-- The instance's station and place, and the tile's table and gate, for its accesses (R160, R162). -/
structure Access where
  station : Nat
  place : Nat
  member : Bool
  table : Nat
  gate : Bool
  /-- The tile's round (R231). -/
  round : Nat
  deriving DecidableEq, Repr

/-- How a tile at its hop reaches storage. -/
def accessOf (st : Stream) (t : Tile) : Access :=
  ⟨hopStation (hopAt st t.hop), hopPlace (hopAt st t.hop), st.member, t.table, t.gate, t.desc.round⟩

/-- The storage key of a range for a tile, checked (R160, R161). -/
def hopKey (c : Access) (wr handle : Bool) (a n : Nat) : HopM Nat := fun s =>
  match checkAccess s (regionsAt s c.table) c.gate c.station wr c.member handle a n with
  | .ok k => (.ok k, s)
  | .error d =>
    let x := firstRefused s (regionsAt s c.table) c.gate c.station wr c.member handle a
    (.error cPOLICY, flagAbort (refuseAccess s d c.station c.place wr x) c.round true)

/-- A range of keys touches a bank of a stack. -/
def onBank (k n stack bank : Nat) : Bool :=
  isHbm k && (List.range (n / 64 + 2)).any (fun i =>
    let x := min (k + 64 * i) (k + n - 1) % 0x2000000000
    stackOf (k / 0x2000000000) x == stack && Config.hbmBank (stackOff x) == bank)

/-- A range of keys touches the bank or row that a test marches at a key (R165). -/
def onMarch (k n at' : Nat) : Bool :=
  if isHbm at' then onBank k n (stackOf (at' / 0x2000000000) (at' % 0x2000000000)) (Config.hbmBank (stackOff (at' % 0x2000000000)))
  else decide (at' / 512 * 512 < k + n) && decide (k < at' / 512 * 512 + 512)

/-- A range of keys touches a bank or row under a targeted test (R165, R378). -/
def underTest (s : State) (k n : Nat) : Bool :=
  s.flt.srcs.any (fun e => match e.2.test with
    | some (1, _, a) =>
      if 0x20 ≤ e.1 ∧ e.1 ≤ 0x2F then onBank k n (e.1 - 0x20) (Config.hbmBank a)
      else e.1 == 0x48 && (if hPool a = 0 then onMarch k n (bufAddr s a) else (resolve s (bufAddr s a) 1).any (onMarch k n))
    | some (2, _, a) => onMarch k n a
    | _ => false)

/-- The range is under no test, or the operation waits (R165). -/
def hopTest (k n : Nat) : HopM Unit := fun s => (if underTest s k n then .error cTESTWAIT else .ok (), s)

/-- Read bytes for a tile: a refused range ends it REFUSED_POLICY, an uncorrectable word CORRUPT (R160, R164). -/
def hopRead (c : Access) (a n : Nat) : HopM (List Byte) :=
  if n = 0 then .ret [] else
  (hopKey c false false a n).andThen fun k => (hopTest k n).andThen fun _ s =>
    match storeRead s k n with
    | (some b, s1) => (.ok b, s1)
    | (none, s1) => (.error cCORRUPT, flagAbort s1 c.round false)

/-- Write bytes for a tile (R160, R163): a write that an uncorrectable word loses ends the tile CORRUPT. -/
def hopWrite (c : Access) (handle : Bool) (a : Nat) (bs : List Byte) : HopM Unit :=
  if bs.isEmpty then .ret () else
  (hopKey c true handle a bs.length).andThen fun k => (hopTest k bs.length).andThen fun _ s =>
    match storeWrite s k bs with
    | (false, s1) => (.ok (), s1)
    | (true, s1) => (.error cCORRUPT, flagAbort s1 c.round false)

/-- Write pieces for a tile: none is written unless each may be (R160). -/
def hopWriteAll (c : Access) (handle : Bool) (l : List (Nat × List Byte)) : HopM Unit :=
  let l := l.filter (fun x => !x.2.isEmpty)
  (HopM.each (fun x => (hopKey c true handle x.1 x.2.length).andThen fun k => hopTest k x.2.length) l).andThen fun _ =>
  (HopM.each (fun x => hopWrite c handle x.1 x.2) l).andThen fun _ => .ret ()

/-- The address that a reference names, and whether by a handle; a P0 handle is refused (R54, R170, R173). -/
def refAddr (r : Nat) : HopM (Nat × Bool) := fun s =>
  if refForm r = 0 then (.ok (r % 2 ^ 46, false), s)
  else if refForm r = 1 then
    let h := r % 2 ^ 32
    if hPool h != 0 && handleOk s h && isAllocated (meetCount s h) h then (.ok (bufAddr s h, true), s) else (.error cPOLICY, noteBad s h fPOOL_HANDLE_FREE)
  else (.error cPOLICY, s)

/-- What a hop writes by a reference stays within what it names: a handle names one buffer (R158, R173). -/
def refBound (c : Access) (r n : Nat) : HopM Unit := fun s =>
  let h := r % 2 ^ 32
  if refForm r = 1 ∧ bufSize (hPool h) < n then
    (.error cPOLICY, flagAbort (refuseAccess s .denied c.station c.place true (bufAddr s h + bufSize (hPool h))) c.round true)
  else (.ok (), s)

/-- Write bytes where a reference names (R54, R158, R160). -/
def refWrite (c : Access) (r : Nat) (bs : List Byte) : HopM Unit :=
  (refAddr r).andThen fun p => (refBound c r bs.length).andThen fun _ => hopWrite c p.2 p.1 bs

/-- The bytes a hop works on: those the hops before it handed on, or the tile at SRC (R54). -/
def hopInput (c : Access) (t : Tile) : HopM (List Byte) :=
  match t.data with
  | some b => .ret b
  | none => (refAddr t.desc.src).andThen fun p => hopRead c p.1 t.desc.len

/-- A hop's result of n bytes may be written where it goes: checked before another write of the same hop (R160). -/
def outputMay (c : Access) (st : Stream) (t : Tile) (n : Nat) : HopM Unit :=
  if t.hop + 1 = st.hops ∧ dstStorage st t ∧ n ≠ 0 then
    (refAddr t.desc.dst).andThen fun p => (refBound c t.desc.dst n).andThen fun _ => (hopKey c true p.2 p.1 n).andThen fun k => hopTest k n
  else .ret ()

/-- Where the hop's result goes: to DST when the tile's route ends there and DST names storage, handed on always. -/
def hopOutput (c : Access) (st : Stream) (t : Tile) (bs : List Byte) : HopM Tile :=
  let t1 := { t with data := some bs, outLen := bs.length }
  if t.hop + 1 = st.hops ∧ dstStorage st t then
    (refWrite c t.desc.dst bs).andThen fun _ => .ret t1
  else .ret t1

/-- The operand base k (0 to 2) at the tile's offset: whole tiles of 65,536 bytes since the stream's first sequence number
(R54). -/
def operandAt (st : Stream) (t : Tile) (k : Nat) : Nat :=
  nthD 0 st.operand k + (t.desc.seq - st.first) * 0x10000

/-! ### Doorbells and fetch -/

/-- A stray doorbell (R58, R75, R79). -/
def strayDb (s : State) (slot : Nat) : State :=
  raise (event (bump s R.STRM_DB_STRAY) pgSTRM 1) pgSTRM fDOORBELL_STRAY 0 slot

/-- A doorbell that overruns the ring (R58). -/
def overrunDb (s : State) (page cnt ring ctx : Nat) : State := raise (bump s cnt) page fDOORBELL_OVERRUN ctx ring

/-- Free slots of a ring of a size (R57). -/
def ringFree (size head tail : Nat) : Nat := size - 1 - (tail + size - head) % size

/-- A doorbell of a stream through a window (R58, R75). DESIGN CHOICE (240): one that overruns the ring sets DB_STRAY too. -/
def streamDoorbell (s : State) (w : Win) (slot tail : Nat) : State :=
  let reaches := match w with
    | .bar0 => true
    | .bar2 => gateOpen s && !pageLocked s pgSTRM
    | .core => true
  if !reaches || !inRun s pgSTRM then s
  else match streamAt s slot with
    | none => strayDb s slot
    | some st =>
      if st.state ≠ 1 ∨ (w = .bar0 ∧ st.member = false) then strayDb s slot
      else
        let size := 2 ^ st.sqLog2
        if size ≤ tail ∨ ringFree size st.head st.tail < (tail + size - st.tail) % size then
          overrunDb (event s pgSTRM 1) pgSTRM R.STRM_DB_STRAY st.sqBase (slot % 256)
        else putStream s slot { st with tail := tail }

/-- Half-mast (R126): WG9 serves no member mode. -/
def halfMast (s : State) : Bool := fld s R.HLT_STAT 18 16 == 2

/-- The tile of a fetched descriptor that fails at hop 0, completed in the stream's order. -/
def addFailed (s : State) (slot : Nat) (st : Stream) (d : Desc) (code : Nat) : State :=
  let t : Tile := { desc := d, present := s.tick.now + 1, fail := some code, doneTick := some s.tick.now }
  flush (putStream s slot { st with tiles := st.tiles ++ [t], lasts := if bitOf d.attr 2 then insNat st.lasts d.seq else st.lasts }) slot

/-- A GEMM tile whose LENGTH is not whole rows of A, by the stream's parameter record (R125). -/
def gemmShort (s : State) (st : Stream) (d : Desc) : Bool :=
  (st.route.zip st.op).any (fun p => hopStation p.1 == stMATRIX && p.2 == 1)
    && (match (hwRead s (nthD 0 st.operand 2) 16).1 with
      | some b => (match elemOf (leAt b 8 1) with
        | some e =>
          let n := (decodeTensor e (List.replicate d.len 0)).length
          n % leAt b 0 4 != 0 || tensorBytes e n != d.len
        | none => false)
      | none => false)

/-- The errors met in the parameter record of a GEMM stream (R164). -/
def gemmMet (s : State) (st : Stream) : State :=
  if (st.route.zip st.op).any (fun p => hopStation p.1 == stMATRIX && p.2 == 1) then met s (nthD 0 st.operand 2) 16 else s

/-- Fetch the next submitted descriptor of a stream (R59). DESIGN CHOICE (220): the record of a descriptor whose own SEQ is wrong shows the
sequence number that was expected. DESIGN CHOICE (240): the record of one that cannot be read goes to completion ring 0, with the sequence
number that was expected. -/
def fetchDesc (s : State) (slot : Nat) : State :=
  match streamAt s slot with
  | none => s
  | some st =>
    if blkState s pgSTRM ≠ bRUN ∨ st.fetch = st.tail then s
    else
      let a := st.sqBase + 64 * st.fetch
      let (r, s1) := hwRead s a 64
      let st1 := { st with fetch := (st.fetch + 1) % 2 ^ st.sqLog2, expect := (st.expect + 1) % 2 ^ 48 }
      match r with
      | none => addFailed s1 slot st1 { qidx := st.fetch, seq := st.expect, tickSub := s.tick.now } cCORRUPT
      | some b =>
        let d := { parseDesc st.fetch b with tickSub := s.tick.now }
        if !descOk st b then
          raise (event (addFailed s1 slot st1 { d with seq := st.expect } cPOLICY) pgSTRM 4) pgSTRM fDESC_INVALID (hopStation (hopAt st 0)) a
        else if (cringSize s1 d.ring).isNone || gemmShort s1 st d then addFailed (gemmMet s1 st) slot st1 d cPOLICY
        else
          let s2 := putStream (gemmMet s1 st) slot { st1 with tiles := st1.tiles ++ [{ desc := d, present := s.tick.now + 1 }] }
          let pace := isPort (hopStation (hopAt st 0)) && (mapGet {} s.sw.subs st.sub).paceIn
          if pace then { s2 with sw := { s2.sw with owed := s2.sw.owed ++ [(slot, d.seq)] } } else s2

/-! ### Rounds end (R76) -/

/-- The queue slots of a stream's descriptors that are submitted and not fetched, in ring order. -/
def unfetched (st : Stream) : List Nat :=
  (List.range ((st.tail + 2 ^ st.sqLog2 - st.fetch) % 2 ^ st.sqLog2)).map (fun i => (st.fetch + i) % 2 ^ st.sqLog2)

/-- End every tile of a round in one stream, wherever it stands; submitted descriptors are fetched in ring order as far as the last
one of the round, so that each of them ends as well. -/
def abortStream (n : Nat) (s : State) (slot : Nat) : State :=
  match streamAt s slot with
  | none => s
  | some st =>
    let ahead := if blkState s pgSTRM = bRUN then unfetched st else []
    let isRound (i : Nat) : Bool := (hwRead s (st.sqBase + 64 * i + 0x2C) 6).1.any (fun b => leAt b 0 6 == n)
    let count := ahead.length - (ahead.reverse.takeWhile (fun i => !isRound i)).length
    let s1 := (List.range count).foldl (fun a _ => fetchDesc a slot) s
    match streamAt s1 slot with
    | none => s1
    | some st1 =>
      let dying := st1.tiles.filter (fun t => t.desc.round == n && t.doneTick.isNone)
      let s2 := dying.foldl (fun a t => countOut (dropTileFrames a slot t.desc.seq) t.blocks) s1
      flush (putStream s2 slot { st1 with lasts := (dying.filter (fun t => bitOf t.desc.attr 2)).foldl (fun l t => insNat l t.desc.seq) st1.lasts, tiles := st1.tiles.map (fun t =>
        if t.desc.round = n ∧ t.doneTick = none then
          { t with fail := some cABORTED, doneTick := some s.tick.now, txLeft := 0, withheld := false, blocks := [] } else t) }) slot

/-- End every tile of an aborted round (R76), which counts as aborted until it begins again (R65). -/
def abortTiles (s : State) (n : Nat) : State :=
  s.strm.slots.foldl (fun a e => abortStream n a e.1) { s with job := { s.job with gone := insNat s.job.gone n } }

/-! ### Close -/

/-- A close has nothing left to run: every submitted descriptor has completed. -/
def closeReady (st : Stream) : Bool := st.state == 2 && st.tiles.isEmpty && st.fetch == st.tail

/-- Node entries are kept while an open stream or an enabled group names them, and WG9's own with any (R187). -/
def pruneNodes (s : State) : State :=
  let named := s.strm.slots.flatMap (fun e => e.2.nodes) ++ s.coll.groups.flatMap (fun e => e.2.members.map (·.node))
  let own := fld s R.GLB_NODE 15 0
  { s with sw := { s.sw with nodes := s.sw.nodes.filter (fun e => named.contains e.1 || (!named.isEmpty && e.1 == own)) } }

/-- An active request of the engine may still send tiles on a stream that its group's stage words name (R237). -/
def carrierBusy (s : State) (slot : Nat) : Bool :=
  s.coll.active.any (fun r => r.phase != 2 && r.grp.stages.any (fun w => [bitsOf w 19 8, bitsOf w 31 20, bitsOf w 43 32, bitsOf w 55 44].contains slot))

/-- End a close (R74), once no request of the engine needs the stream (R237): the hop queues return, the slot is free, the result is posted when the command awaits it. -/
def closeDone (s : State) (slot : Nat) : State :=
  match streamAt s slot with
  | some st =>
    if closeReady st && !carrierBusy s slot then
      let s1 := pruneNodes (st.queues.foldl releaseQuiet (dropStream s slot))
      if s1.strm.closing = some slot then
        event (setN { s1 with strm := { s1.strm with closing := none } } R.STRM_RES (cSERVED * 16)) pgSTRM 0
      else s1
    else s
  | none => s

/-- CLOSE of a slot (R74); a slot that is not OPEN is refused. -/
def closeCmd (s : State) (slot : Nat) : State :=
  match streamAt s slot with
  | some st =>
    if st.state = 1 then
      setN { putStream s slot { st with state := 2 } with strm := { (putStream s slot { st with state := 2 }).strm with closing := some slot } } R.STRM_RES 1
    else event (countCode (setN s R.STRM_RES (cPOLICY * 16)) cPOLICY) pgSTRM 0
  | none => event (countCode (setN s R.STRM_RES (cPOLICY * 16)) cPOLICY) pgSTRM 0

/-! ### Completion rings -/

/-- A ring is named by a descriptor not yet completed, fetched or only submitted. -/
def ringBusy (s : State) (ring : Nat) : Bool :=
  s.strm.slots.any (fun e => e.2.tiles.any (fun t => t.desc.ring == ring)
    || (unfetched e.2).any (fun i => (hwRead s (e.2.sqBase + 64 * i + 0x28) 1).1.any (fun b => leAt b 0 1 == ring)))

/-- A write of CRING_CFG (R64, STREAM page): ignored while the ring is named; setting VALID resets it. DESIGN CHOICE (220): VALID written 1
to a ring that is VALID already leaves its head, its tail and PHASE as they are. -/
def cringCfg (s : State) (ring v : Nat) : State :=
  if ringBusy s ring then event s pgSTRM 3
  else
    let was := flag s (keyB R.CRING_CFG ring) 31
    let s1 := setR s (keyB R.CRING_CFG ring) (writeMasked R.CRING_CFG (getR s (keyB R.CRING_CFG ring)) (BitVec.ofNat 32 v))
    if !was && bitOf v 31 then
      let s2 := setN (setN s1 (keyB R.CRING_HEAD ring) 0) (keyB R.CRING_TAIL ring) 0
      { s2 with strm := { s2.strm with phase := mapPut s2.strm.phase ring true } }
    else s1

/-- The tiles of every stream whose completions a ring held. -/
def flushAll (s : State) : State := s.strm.slots.foldl (fun a e => flush a e.1) s

/-- A write of CRING_HEAD (R64): a head beyond the tail is ignored. -/
def cringHead (s : State) (ring v : Nat) : State :=
  let head := fld s (keyB R.CRING_HEAD ring) 15 0
  let tail := fld s (keyB R.CRING_TAIL ring) 15 0
  match cringSize s ring with
  | some size =>
    if v < size ∧ (v + size - head) % size ≤ (tail + size - head) % size then flushAll (setFld s (keyB R.CRING_HEAD ring) 15 0 v)
    else event s pgSTRM 3
  | none => if v = tail then setFld s (keyB R.CRING_HEAD ring) 15 0 v else event s pgSTRM 3

end Sys2Proof.Machine
end

