-- ==== Sys2Proof/Machine/Tans.lean ====
section
/-!
DEFINITION. The entropy coding of a block (R128 to R138): table records, table building, block images, encoding and
decoding, as pure functions on bytes.
-/
namespace Sys2Proof.Machine

/-- One decoder state's row: symbol, bits to read, base (R135). -/
structure TansRow where
  sym : Nat
  nb : Nat
  base : Nat
  deriving DecidableEq, Repr

/-- The spread of R138: the symbol at each position. -/
def tansSpread (tlog : Nat) (cnt : List Nat) : List Nat :=
  let l := 2 ^ tlog
  let step := l / 2 + l / 8 + 3
  let syms := (List.range 256).flatMap (fun s => List.replicate (nthD 0 cnt s) s)
  let a := (syms.foldl (fun (p : Array Nat × Nat) s => (p.1.setIfInBounds p.2 s, (p.2 + step) % l)) (Array.replicate l 0, 0)).1
  a.toList

/-- The rows of R138, in order of the state. -/
def tansRows (tlog : Nat) (spread : List Nat) (next : Array Nat) : List TansRow :=
  match spread with
  | [] => []
  | s :: t =>
    let c := next.getD s 1
    let nb := tlog - Nat.log2 c
    ⟨s, nb, c * 2 ^ nb - 2 ^ tlog⟩ :: tansRows tlog t (next.setIfInBounds s (c + 1))

/-- The decoder table of a distribution (R138). -/
def tansTable (tlog : Nat) (cnt : List Nat) : List TansRow := tansRows tlog (tansSpread tlog cnt) cnt.toArray

/-! ### Table records (R137) -/

/-- TLOG of a record. -/
def recTlog (b : List Byte) : Nat := leAt b 1 1
/-- NDIST of a record. -/
def recNdist (b : List Byte) : Nat := leAt b 2 1
/-- The distribution of sub-stream k. -/
def recSub (b : List Byte) (k : Nat) : Nat := leAt b 4 2 / 4 ^ k % 4
/-- The counts of a distribution. -/
def recCounts (b : List Byte) (d : Nat) : List Nat := (List.range 256).map (fun i => leAt b (0x10 + 512 * d + 2 * i) 2)
/-- Bytes of a record with its NDIST. -/
def recLen (b : List Byte) : Nat := 16 + 512 * recNdist b

/-- A record obeys R137. -/
def recOk (b : List Byte) : Bool :=
  leAt b 0 1 == 1 && decide (9 ≤ recTlog b) && decide (recTlog b ≤ 12) && decide (1 ≤ recNdist b) && decide (recNdist b ≤ 4)
    && (List.range 8).all (fun k => decide (recSub b k < recNdist b))
    && (List.range (recNdist b)).all (fun d => (recCounts b d).sum == 2 ^ recTlog b)

/-- A record's decoder tables, by distribution. -/
def recTables (b : List Byte) : List (List TansRow) :=
  (List.range (recNdist b)).map (fun d => tansTable (recTlog b) (recCounts b d))

/-! ### Sub-streams -/

/-- The symbols of sub-stream k of a block (R134). -/
def subSymbols (blk : List Byte) (k : Nat) : List Nat :=
  (List.range ((blk.length + 7 - k) / 8)).map (fun i => (nthD 0 blk (8 * i + k)).toNat)

/-- Symbols of sub-stream k of a block of a length. -/
def subCount (rawLen k : Nat) : Nat := (rawLen + 7 - k) / 8

/-- The state that carries a symbol and steps to x (R136). -/
def tansPred (tbl : List TansRow) (s x : Nat) : Nat × TansRow :=
  match tbl.zipIdx.find? (fun r => r.1.sym == s && decide (r.1.base ≤ x) && decide (x < r.1.base + 2 ^ r.1.nb)) with
  | some (r, i) => (i, r)
  | none => (0, ⟨0, 0, 0⟩)

/-- Code symbols, last first: (first state, the bits read from it on as a number, how many) (R136). -/
def tansEncode (tbl : List TansRow) (syms : List Nat) : Nat × Nat × Nat :=
  syms.foldr (fun s (a : Nat × Nat × Nat) =>
    let (u, r) := tansPred tbl s a.1
    (u, (a.1 - r.base) + a.2.1 * 2 ^ r.nb, a.2.2 + r.nb)) (0, 0, 0)

/-- The bytes of a sub-stream: initial state, then its bits (R134). -/
def subBytes (tbl : List TansRow) (syms : List Nat) : List Byte :=
  let (x, v, n) := tansEncode tbl syms
  bytesLE 2 x ++ bytesLE ((n + 7) / 8) v

/-- Decode n symbols from a state, the unread bits and their number: none when the bits run out (R135). -/
def tansDecode (tbl : List TansRow) : Nat → Nat → Nat → Nat → Option (List Byte × Nat × Nat × Nat)
  | 0, x, v, left => some ([], x, v, left)
  | n + 1, x, v, left =>
    let r := nthD ⟨0, 0, 0⟩ tbl x
    if left < r.nb then none
    else match tansDecode tbl n (r.base + v % 2 ^ r.nb) (v / 2 ^ r.nb) (left - r.nb) with
      | some (l, y) => some (BitVec.ofNat 8 r.sym :: l, y)
      | none => none

/-! ### Block images (R129, R132, R133) -/

/-- Reasons of R150. -/
abbrev xHEADER : Nat := 0
/-- STATE_INIT. -/
abbrev xSTATE : Nat := 1
/-- TERMINAL. -/
abbrev xTERMINAL : Nat := 2
/-- STALE_GEN. -/
abbrev xSTALE : Nat := 3
/-- SLOT_EMPTY. -/
abbrev xEMPTY : Nat := 4

/-- GRANULES of an image. -/
def imgGranules (h : List Byte) : Nat := leAt h 1 1 % 128
/-- RAW. -/
def imgRaw (h : List Byte) : Bool := bitOf (leAt h 1 1) 7
/-- SLOT. -/
def imgSlot (h : List Byte) : Nat := leAt h 0 1 % 8
/-- GEN. -/
def imgGen (h : List Byte) : Nat := leAt h 0 1 / 8
/-- RAW_LEN. -/
def imgRawLen (h : List Byte) : Nat := leAt h 2 2 % 8192
/-- END[k]. -/
def imgEnd (h : List Byte) (k : Nat) : Nat := leAt h 4 12 / 4096 ^ k % 4096
/-- Bytes of an image. -/
def imgLen (h : List Byte) : Nat := 16 + 64 * imgGranules h

/-- The raw image of a block. -/
def rawImage (blk : List Byte) : List Byte :=
  let g := (blk.length + 63) / 64
  bytesLE 1 0 ++ bytesLE 1 (g + 128) ++ bytesLE 2 blk.length ++ bytesLE 12 0 ++ blk ++ List.replicate (64 * g - blk.length) 0

/-- The coded image of a block with a table, when it may have one (R129). -/
def codedImage (rec : List Byte) (tabs : List (List TansRow)) (slot gen : Nat) (blk : List Byte) : Option (List Byte) :=
  let ok := (List.range 8).all (fun k => (subSymbols blk k).all (fun s => nthD 0 (recCounts rec (recSub rec k)) s != 0))
  if !ok || decide (blk.length < 80) then none
  else
    let subs := (List.range 8).map (fun k => subBytes (nthD [] tabs (recSub rec k)) (subSymbols blk k))
    let ends := (List.range 8).map (fun k => ((subs.take (k + 1)).map List.length).sum)
    let total := nthD 0 ends 7
    let g := (total + 63) / 64
    if 16 + 64 * g ≤ blk.length ∧ 1 ≤ g ∧ g ≤ 63 then
      some (bytesLE 1 (slot + 8 * gen) ++ bytesLE 1 g ++ bytesLE 2 blk.length
        ++ bytesLE 12 (ends.foldr (fun e a => e + 4096 * a) 0) ++ subs.flatten ++ List.replicate (64 * g - total) 0)
    else none

/-- A block's image (R129). -/
def imageOf (rec : List Byte) (tabs : List (List TansRow)) (slot gen : Nat) (blk : List Byte) : List Byte :=
  (codedImage rec tabs slot gen blk).getD (rawImage blk)

/-- The header checks of R132 and R133 on an image that lies whole in `img`, for a block of a length. -/
def imgOk (img : List Byte) (want : Nat) : Bool :=
  let g := imgGranules img
  let body := img.drop 16
  if imgRaw img then
    imgRawLen img == want && leAt img 0 1 == 0 && leAt img 4 12 == 0 && g == (want + 63) / 64 && decide (1 ≤ g) && decide (g ≤ 64)
      && (body.drop want).all (· == 0)
  else
    imgRawLen img == want && decide (1 ≤ g) && decide (g ≤ 63)
      && decide (64 * (g - 1) < imgEnd img 7) && decide (imgEnd img 7 ≤ 64 * g)
      && (List.range 8).all (fun k => decide ((if k = 0 then 0 else imgEnd img (k - 1)) + 2 ≤ imgEnd img k))
      && (body.drop (imgEnd img 7)).all (· == 0)

/-- Decode one sub-stream of an image: the symbols or a reason. -/
def decodeSub (tlog : Nat) (tbl : List TansRow) (bytes : List Byte) (n : Nat) : Except Nat (List Byte) :=
  let x := leAt bytes 0 2
  let bits := bytes.drop 2
  if 2 ^ tlog ≤ x then .error xSTATE
  else match tansDecode tbl n x (ofBytesLE bits) (8 * bits.length) with
    | some (l, 0, v, left) => if left < 8 ∧ v = 0 then .ok l else .error xTERMINAL
    | _ => .error xTERMINAL

/-- Put the sub-streams' symbols back in block order. -/
def interleave (rawLen : Nat) (subs : List (List Byte)) : List Byte :=
  (List.range rawLen).map (fun i => nthD 0 (nthD [] subs (i % 8)) (i / 8))

/-- Decode a coded image with a table record: STATE_INIT of any sub-stream comes before TERMINAL (R135, R150). -/
def decodeImage (rec img : List Byte) : Except Nat (List Byte) :=
  let tabs := recTables rec
  let n := imgRawLen img
  let res := (List.range 8).map (fun k =>
    let lo := if k = 0 then 0 else imgEnd img (k - 1)
    decodeSub (recTlog rec) (nthD [] tabs (recSub rec k)) (((img.drop 16).drop lo).take (imgEnd img k - lo)) (subCount n k))
  if res.any (fun r => match r with | .error 1 => true | _ => false) then .error xSTATE
  else if res.any (fun r => match r with | .error _ => true | _ => false) then .error xTERMINAL
  else .ok (interleave n (res.map (fun r => match r with | .ok l => l | .error _ => [])))

/-- The blocks of a tile (R128). -/
def tileBlocks : Nat → List Byte → List (List Byte)
  | 0, _ => []
  | n + 1, bs => if bs.isEmpty then [] else bs.take 4096 :: tileBlocks n (bs.drop 4096)

/-- Cut packed images: each by its header's GRANULES; a block whose image does not lie whole or fails its checks is none,
and so is every later one (R133). -/
def cutImages : List Nat → List Byte → List (Option (List Byte))
  | [], _ => []
  | want :: t, bs =>
    let img := bs.take (imgLen bs)
    if 16 ≤ bs.length ∧ imgLen bs ≤ bs.length ∧ imgOk img want ∧ (t ≠ [] ∨ imgLen bs = bs.length)
    then some img :: cutImages t (bs.drop (imgLen bs))
    else none :: t.map (fun _ => none)

/-- The headers of packed images, in order; empty from the first that cannot be found. -/
def cutHeads : List Nat → List Byte → List (List Byte)
  | [], _ => []
  | want :: t, bs =>
    bs.take 16 :: (match cutImages [want] (bs.take (imgLen bs)) with
      | [some img] => cutHeads t (bs.drop img.length)
      | _ => t.map (fun _ => []))

/-- Lengths of the blocks of a tile of a length. -/
def blockLens (n : Nat) : List Nat := (List.range ((n + 4095) / 4096)).map (fun k => min 4096 (n - 4096 * k))

end Sys2Proof.Machine
end

