-- ==== Sys2Proof/Machine/Codec.lean ====
section
/-!
DEFINITION. The CODEC and EXPAND stations (R128 to R153): contexts, table loads and their messages, coding a tile,
decoding a tile.
-/
namespace Sys2Proof.Machine

/-- The page of CODEC. -/
abbrev pgCODEC : Nat := 0x41
/-- The page of DMA/EXPAND. -/
abbrev pgEXP : Nat := 0x40

/-! ### Endpoints (R191) -/

/-- The targets of an endpoint index in a stream's subscriber: whether it is a multicast, and its unicast targets; none
for a refused entry or one that cannot be read. -/
def endpointOf (s : State) (st : Stream) (ref : Nat) : Option (Bool × List Target) :=
  let u := mapGet {} s.sw.subs st.sub
  let idx := ref % 0x10000
  if refForm ref ≠ 2 ∨ u.epCount ≤ idx then none
  else match (hwRead s (u.epBase + 16 * idx) 16).1 with
    | none => none
    | some b =>
      let kind := leAt b 0 1 % 4
      if kind = 0 then some (false, [parseTarget b])
      else if kind = 1 then
        let n := leAt b 1 1
        if n = 0 ∨ 64 < n then none
        else match (hwRead s (leAt b 2 6) (16 * n)).1 with
          | none => none
          | some l =>
            let es := (List.range n).map (fun i => sliceBytes l (16 * i) 16)
            if es.all (fun e => leAt e 0 1 % 4 == 0) then some (true, es.map parseTarget) else none
      else none

/-! ### Contexts -/

/-- CODEC_CTX_CFG of a context. -/
def ctxCfg (ctx : Nat) : Nat := keyB R.CODEC_CTX_CFG ctx
/-- A context is bound; context 0 always is (R139). -/
def ctxBound (s : State) (ctx : Nat) : Bool := ctx == 0 || flag s (ctxCfg ctx) 16
/-- The context bound to a node, if any (R139). -/
def ctxOfNode (s : State) (node : Nat) : Option Nat :=
  (List.range 128).find? (fun c => c != 0 && flag s (ctxCfg c) 16 && fld s (ctxCfg c) 15 0 == node)

/-- Return the buffer of a slot's table. -/
def dropBuffer (s : State) (k : Nat) : State :=
  match (cslot s k).handle with
  | some h => putCslot (releaseQuiet s h) k { cslot s k with handle := none }
  | none => s

/-- Return the buffer taken for a load that waits. -/
def dropNext (s : State) (k : Nat) : State :=
  match (cslot s k).next with
  | some h => putCslot (releaseQuiet s h) k { cslot s k with next := none }
  | none => s

/-- A slot becomes EMPTY: its generation and counts stay, its table and buffers go. -/
def emptySlot (s : State) (k : Nat) : State :=
  let s1 := dropNext (dropBuffer s k) k
  putCslot s1 k { cslot s1 k with state := 0, table := [], wait := none }

/-- Answer the table command (R142, R151). GEN keeps the generation that the last LOAD gave. -/
def answerLoad (s : State) (ctx slot code : Nat) : State :=
  let s1 := setN s R.CODEC_LD_RES (code * 16 + ctx * 0x100 + slot * 0x10000 + fld s R.CODEC_LD_RES 23 19 * 0x80000)
  event { s1 with codec := { s1.codec with cmd := none, waiting := none } } pgCODEC (if code = cSERVED then 0 else 1)

/-- The errors met in the table record at CODEC_LD_ADDR (R164). -/
def recordMet (s : State) : State :=
  let a := regN s R.CODEC_LD_ADDR_LO + regN s R.CODEC_LD_ADDR_HI * 0x100000000
  if a % 64 ≠ 0 then s
  else match hwRead s a 16 with
    | (some h, s1) => met s1 a (recLen h)
    | (none, s1) => s1

/-- The table record at CODEC_LD_ADDR, when it is valid (R142). -/
def loadRecord (s : State) : Option (List Byte) :=
  let a := regN s R.CODEC_LD_ADDR_LO + regN s R.CODEC_LD_ADDR_HI * 0x100000000
  if a % 64 ≠ 0 then none
  else match (hwRead s a 16).1 with
    | none => none
    | some h => match (hwRead s a (recLen h)).1 with
      | some b => if recOk b then some b else none
      | none => none

/-- The result register pends, CODE as it was. -/
def pendLoad (s : State) (ctx slot gen : Nat) : State :=
  setN s R.CODEC_LD_RES (1 + fld s R.CODEC_LD_RES 7 4 * 0x10 + ctx * 0x100 + slot * 0x10000 + gen * 0x80000)

/-- The command waits for its acknowledgement, and the far end is told. -/
def sendTable (s : State) (ctx slot gen : Nat) (unload : Bool) (rec : List Byte) : State :=
  let s1 := pendLoad s ctx slot (if unload then fld s R.CODEC_LD_RES 23 19 else gen)
  let s2 := { s1 with codec := { s1.codec with cmd := some (ctx, slot, unload, s.tick.now) } }
  emit s2 (.message (if unload then .tableUnload else .tableLoad) (fld s (ctxCfg ctx) 22 20) (fld s (ctxCfg ctx) 15 0) 3 [slot, gen] rec)

/-- A P2 buffer for a table, from H0's POOL_HOME segment (R139), with what the request leaves behind (R172). -/
def tableBuffer (s : State) : Option Nat × State :=
  match allocInternal s 2 (homeSeg s 0) with
  | (.got h, s1) => (some h, s1)
  | (_, s1) => (none, s1)

/-- LOAD (R142): its buffer waits for the POOL block (R177). -/
def loadCmd (s : State) (ctx slot : Nat) : State :=
  let k := cslotKey ctx 0 slot
  let c := cslot s k
  if !inRun s pgCODEC || !ctxBound s ctx then answerLoad s ctx slot cPOLICY
  else match loadRecord s with
    | none => answerLoad (recordMet s) ctx slot cPOLICY
    | some rec =>
      let s := recordMet s
      if c.count ≠ 0 ∨ c.state = 1 then answerLoad s ctx slot cBUSY
      else if poolWaits s 2 then
        let s1 := pendLoad s ctx slot (fld s R.CODEC_LD_RES 23 19)
        { s1 with codec := { s1.codec with waiting := some (ctx, slot) } }
      else match tableBuffer s with
        | (none, s1) => answerLoad s1 ctx slot cBUSY
        | (some h, s0) =>
          let s1 := dropBuffer s0 k
          let gen := (c.gen + 1) % 32
          let c1 := { cslot s1 k with handle := some h, gen := gen, table := rec, state := if ctx = 0 then 2 else 1 }
          let s2 := putCslot { s1 with codec := { s1.codec with waiting := none } } k c1
          if ctx = 0 then
            let ki := cslotKey 0 1 slot
            answerLoad (setFld (putCslot s2 ki { cslot s2 ki with gen := gen, table := rec, state := 2 }) R.CODEC_LD_RES 23 19 gen) ctx slot cSERVED
          else sendTable s2 ctx slot gen false rec

/-- A LOAD that waited for the POOL block is tried again at a boundary. -/
def loadAgain (s : State) : State :=
  match s.codec.waiting with
  | some (ctx, slot) => if poolWaits s 2 then s else loadCmd s ctx slot
  | none => s

/-- UNLOAD (R142): the same checks, with no record. -/
def unloadCmd (s : State) (ctx slot : Nat) : State :=
  let k := cslotKey ctx 0 slot
  let c := cslot s k
  if !inRun s pgCODEC || !ctxBound s ctx then answerLoad s ctx slot cPOLICY
  else if c.count ≠ 0 ∨ c.state = 1 then answerLoad s ctx slot cBUSY
  else if ctx = 0 then answerLoad (emptySlot (emptySlot s k) (cslotKey 0 1 slot)) ctx slot cSERVED
  else sendTable (putCslot s k { c with state := 1 }) ctx slot c.gen true []

/-- A write of CODEC_LD_CMD reaches WG9 and no command is pending. -/
def loadWrites (s : State) (w : Win) : Bool := mayWrite s w R.CODEC_LD_CMD && !flag s R.CODEC_LD_RES 0

/-- The acknowledgement of the pending command arrives (R142). -/
def loadAck (s : State) (node slot gen : Nat) : State :=
  match s.codec.cmd with
  | some (ctx, sl, unload, _) =>
    let k := cslotKey ctx 0 slot
    if sl = slot ∧ ctxOfNode s node = some ctx ∧ (cslot s k).gen = gen then
      let s1 := if unload then emptySlot s k else putCslot s k { cslot s k with state := 2 }
      answerLoad s1 ctx slot cSERVED
    else s
  | none => s

/-- The pending command ends without its table: the slot becomes EMPTY. -/
def loadEnds (s : State) (code : Nat) : State :=
  match s.codec.cmd with
  | some (ctx, slot, _, _) => answerLoad (emptySlot s (cslotKey ctx 0 slot)) ctx slot code
  | none => s

/-- The far end refuses the load (R142). DESIGN CHOICE (240): a refusal of an unload changes nothing. -/
def loadRefused (s : State) (node slot gen : Nat) : State :=
  match s.codec.cmd with
  | some (ctx, sl, unload, _) =>
    if sl = slot ∧ !unload ∧ ctxOfNode s node = some ctx ∧ (cslot s (cslotKey ctx 0 slot)).gen = gen then loadEnds s cPOLICY else s
  | none => s

/-- No acknowledgement within CODEC_LD_TMO (R142). -/
def loadTimeoutOp (s : State) : State :=
  match s.codec.cmd with
  | some (_, _, _, t) => if t + fld s R.CODEC_LD_TMO 15 0 ≤ s.tick.now then loadEnds s cAGED else s
  | none => s

/-- A slot whose load waits takes a buffer for it, when one can be had (R142). -/
def takeNext (s : State) (k : Nat) : State :=
  let c := cslot s k
  if c.next.isSome || !(c.wait.any (fun w => !w.1.isEmpty)) then s
  else match tableBuffer s with
    | (some h, s1) => putCslot s1 k { cslot s1 k with next := some h }
    | (none, s1) => s1

/-- A peer's load arrives (R142): its slot is PENDING and takes a buffer, or the load is refused. -/
def peerLoad (s : State) (port node slot gen : Nat) (rec : List Byte) : State :=
  match ctxOfNode s node with
  | some ctx =>
    if recOk rec ∧ rec.length = recLen rec then
      let k := cslotKey ctx 1 slot
      takeNext (putCslot s k { cslot s k with state := 1, wait := some (rec, gen, node, port) }) k
    else emit s (.message .tableRefusal port node 3 [slot, gen] [])
  | none => emit s (.message .tableRefusal port node 3 [slot, gen] [])

/-- A peer's unload arrives (R142): the slot empties once its received count is 0. DESIGN CHOICE (240): one from a node bound to no context is refused. -/
def peerUnload (s : State) (port node slot : Nat) : State :=
  match ctxOfNode s node with
  | some ctx =>
    let k := cslotKey ctx 1 slot
    let s1 := dropNext s k
    putCslot s1 k { cslot s1 k with state := 1, wait := some ([], (cslot s k).gen, node, port) }
  | none => emit s (.message .tableRefusal port node 3 [slot, 0] [])

/-- A load that waits takes its buffer, and is installed once it holds one and the slot's received count is 0 (R142). -/
def installSlot (s0 : State) (k : Nat) : State :=
  let s := takeNext s0 k
  let c := cslot s k
  match c.wait with
  | some (rec, gen, node, port) =>
    let slot := k % 8
    if c.count ≠ 0 then s
    else if rec.isEmpty then emit (emptySlot s k) (.message .tableAck port node 3 [slot, gen] [])
    else match c.next with
      | none => s
      | some h =>
        let s1 := dropBuffer s k
        let s2 := putCslot s1 k { cslot s1 k with state := 2, gen := gen, table := rec, wait := none, handle := some h, next := none }
        emit (event s2 pgCODEC 2) (.message .tableAck port node 3 [slot, gen] [])
  | none => s

/-- At a boundary: every load that waits. -/
def installAll (s : State) : State :=
  s.codec.slots.foldl (fun a e => if e.2.wait.isSome then installSlot a e.1 else a) s

/-- A context has a slot LOADING or PENDING, or blocks counted. -/
def ctxBusy (s : State) (ctx : Nat) : Bool :=
  s.codec.slots.any (fun e => e.1 / 16 == ctx && (e.2.state == 1 || e.2.count != 0))

/-- A write of CODEC_CTX_CFG for a context (CODEC page). DESIGN CHOICE (220): a write whose CUR names a slot that is not READY outbound is
ignored whole, unless it binds the context anew and leaves CUR as it is. -/
def ctxCfgWrite (s : State) (ctx v : Nat) : State :=
  let k := ctxCfg ctx
  let old := regN s k
  let binds := bitsOf v 16 0 != bitsOf old 16 0 || bitsOf v 22 20 != bitsOf old 22 20
  let cur := bitsOf v 19 17
  if ctx ≠ 0 ∧ ((binds ∧ ctxBusy s ctx) ∨ bitsOf v 22 20 = 6 ∨ bitsOf v 22 20 = 7) then event s pgCODEC 3
  else if (cur ≠ bitsOf old 19 17 ∨ !binds) ∧ (cslot s (cslotKey ctx 0 cur)).state ≠ 2 then event s pgCODEC 3
  else
    let nv := if ctx = 0 then putBits old 19 17 cur else bitsOf v 22 0
    let s1 := setN s k nv
    if ctx ≠ 0 ∧ bitOf old 16 ∧ !bitOf v 16 then
      (List.range 16).foldl (fun a i => emptySlot a (ctx * 16 + i)) s1
    else s1

/-! ### Coding a tile (R143, R145, R146) -/

/-- The region that holds the storage a reference names, in the table a tile uses. -/
def refRegion (s : State) (tbl : Nat) (r : Nat) : Option Region :=
  let a := if refForm r = 0 then r % 2 ^ 46 else bufAddr s (r % 2 ^ 32)
  if refForm r ≤ 1 then (regionOf (regionsAt s tbl) a).map (·.2) else none

/-- A tile is sealed (R56): DST names a region wherever it names storage, address 0 too but for a round tile (R108). -/
def isSealed (s : State) (st : Stream) (t : Tile) : Bool :=
  bitOf t.desc.attr 0
    || (match refRegion s t.table t.desc.src with | some r => r.sealed | none => false)
    || (dstStorage st t && (match refRegion s t.table t.desc.dst with | some r => r.sealed | none => false))

/-- The hops that follow a tile's hop. -/
def laterHops (st : Stream) (t : Tile) : List Nat := st.route.drop (t.hop + 1)

/-- Where a coded tile goes: the context, or none when it must pass plain; the Bool says that the peer is unbound (R145,
R147). -/
def codeContext (s : State) (st : Stream) (t : Tile) : Option Nat × Bool :=
  if (laterHops st t).any (fun h => isPort (hopStation h)) then
    match endpointOf s st t.desc.dst with
    | some (false, [e]) => match ctxOfNode s e.node with
      | some c => (some c, false)
      | none => (none, true)
    | _ => (none, true)
  else if (laterHops st t).any (fun h => hopStation h == stEXPAND) then (some 0, false)
  else (none, false)

/-- The images of a tile's blocks with a slot's table. -/
def tileImages (c : CSlot) (slot : Nat) (bs : List Byte) : List (List Byte) :=
  let tabs := recTables c.table
  (tileBlocks (bs.length / 4096 + 1) bs).map (imageOf c.table tabs slot c.gen)

/-- Write blocks or images of a tile at DST, each at its block's place (R131, R160). -/
def stageBlocks (c : Access) (t : Tile) (l : List (List Byte)) : HopM Unit :=
  (refAddr t.desc.dst).andThen fun p =>
  (refBound c t.desc.dst (4096 * (l.length - 1) + (l.getLastD []).length)).andThen fun _ => hopWriteAll c p.2 (l.zipIdx.map (fun x => (p.1 + 4096 * x.2, x.1)))

/-- A tile that a hop hands on raw: written at DST where it names storage, be the hop the last or not (R145, R147). -/
def rawOutput (c : Access) (st : Stream) (t : Tile) (raw : List Byte) : HopM Tile :=
  if t.hop + 1 ≠ st.hops ∧ dstStorage st t then
    (refWrite c t.desc.dst raw).andThen fun _ => hopOutput c st t raw
  else hopOutput c st t raw

/-- Code a tile with a READY slot: the coded form when it is shorter, else the plain form (R129, R130, R141). -/
def codeWith (c : Access) (st : Stream) (t : Tile) (ctx slot : Nat) (bs : List Byte) : HopM Tile :=
  (hopGet (fun s => cslot s (cslotKey ctx 0 slot))).andThen fun cs =>
    let imgs := tileImages cs slot bs
    let packed := imgs.flatten
    if packed.length < bs.length then
      let coded := imgs.filter (fun i => !imgRaw i)
      let key := cslotKey ctx 0 slot
      (if dstStorage st t then stageBlocks c t imgs else .ret ()).andThen fun _ =>
      (hopDo (fun s => countIn (bumpBy (bumpBy (bumpBy s R.CODEC_BLK_CODED coded.length) R.CODEC_BLK_RAW (imgs.length - coded.length))
        R.CODEC_GRAN_OUT ((coded.map imgGranules).sum)) [(key, coded.length)])).andThen fun _ =>
      .ret { t with data := some packed, coded := true, ctx := ctx, blocks := [(key, coded.length)], outLen := packed.length }
    else rawOutput c st t bs

/-- The work of a CODEC hop: `pick` gives the slot from the context, none under PASS (R143, R145, R146, R151). -/
def codecWork (pick : State → Nat → Option Nat) (st : Stream) (t : Tile) : HopM Tile :=
  let c := accessOf st t
  (hopGet (fun s => bitOf t.desc.attr 1 && isSealed s st t)).andThen fun sealed =>
  if sealed then (hopDo (fun s => bump s R.CODEC_SEALED)).andThen fun _ => hopFail cSEALED
  else
    (hopInput c t).andThen fun bs =>
    let plain : HopM Tile := rawOutput c st t bs
    (hopGet (fun s =>
      let comp := match refRegion s t.table t.desc.src with | some r => r.compress | none => false
      if !inRun s pgCODEC || !bitOf t.desc.attr 1 || !comp then (none, false) else
        match codeContext s st t with
        | (some ctx, _) => (match pick s ctx with | some k => some (ctx, k, (cslot s (cslotKey ctx 0 k)).state) | none => none, false)
        | (none, u) => (none, u && (pick s 0).isSome))).andThen fun r =>
    match r with
    | (some (ctx, slot, state), _) =>
      if state = 2 then codeWith c st t ctx slot bs
      else if state = 1 then hopFail cWAIT
      else (hopDo (fun s => bump s R.CODEC_PLAIN_NOTBL)).andThen fun _ => plain
    | (none, true) => (hopDo (fun s => bump s R.CODEC_PLAIN_NOCTX)).andThen fun _ => plain
    | (none, false) => plain

/-! ### Decoding a tile (R133, R144, R147, R149, R150) -/

/-- Note a use of a table in an EXPAND instance's cache of 16; a miss is counted, and which entry it replaces is free
(R149). -/
def cacheUse (s : State) (place key gen : Nat) : State :=
  if s.codec.cache.contains (place, key, gen) then s
  else
    let s1 := bump s R.EXP_CACHE_MISS
    let mine := s1.codec.cache.filter (fun e => e.1 == place && e.2.1 != key)
    let others := s1.codec.cache.filter (fun e => e.1 != place)
    let (r, s2) := drawFree s1
    let kept := if mine.length < 16 then mine else mine.eraseIdx (r % 16)
    { s2 with codec := { s2.codec with cache := others ++ kept ++ [(place, key, gen)] } }

/-- The tables that a coded tile's images need, as slot key and generation: those whose slots can decode them (R144). -/
def tablesOf (s : State) (ctx : Nat) (imgs : List (Option (List Byte))) : List (Nat × Nat) :=
  imgs.filterMap (fun i => i.bind (fun b =>
    let k := cslotKey ctx 1 (imgSlot b)
    let c := cslot s k
    if imgRaw b || c.state == 0 || c.table.isEmpty || c.gen != imgGen b then none else some (k, c.gen)))

/-- The tables among them that an EXPAND instance has not cached are fetched: whether there were any (R149). -/
def fetchTables (place ctx : Nat) (imgs : List (Option (List Byte))) : HopM Bool := fun s =>
  let l := (tablesOf s ctx imgs).filter (fun e => !s.codec.cache.contains (place, e.1, e.2))
  (.ok (!l.isEmpty), l.foldl (fun a e => cacheUse a place e.1 e.2) s)

/-- One block's outcome, from its header and its image where that lies whole: its bytes, or a reason with the header's SLOT and GEN and the
slot's generation. -/
def decodeBlock (s : State) (ctx : Nat) (x : List Byte × Option (List Byte)) : Except (Nat × Nat × Nat × Nat) (List Byte) × State :=
  match x.2 with
  | none => (.error (xHEADER, imgSlot x.1, imgGen x.1, if x.1.isEmpty then 0 else (cslot s (cslotKey ctx 1 (imgSlot x.1))).gen), s)
  | some b =>
    if imgRaw b then (.ok ((b.drop 16).take (imgRawLen b)), bump s R.EXP_BLK_RAW)
    else
      let k := cslotKey ctx 1 (imgSlot b)
      let c := cslot s k
      let bad (r : Nat) := (r, imgSlot b, imgGen b, c.gen)
      if c.state = 0 ∨ c.table.isEmpty then (.error (bad xEMPTY), s)
      else if c.gen ≠ imgGen b then (.error (bad xSTALE), s)
      else
        match decodeImage c.table b with
        | .ok l => (.ok l, bump s R.EXP_BLK_DEC)
        | .error r => (.error (bad r), s)

/-- Record a failed block (R150). -/
def noteBlockFail (s : State) (place ctx addr : Nat) (f : Nat × Nat × Nat × Nat) : State :=
  let (r, slot, hgen, sgen) := f
  let stale := decide (3 ≤ r)
  let s1 := bump s (if stale then R.EXP_STALE else R.EXP_FAIL)
  let s2 := setN s1 R.EXP_LAST_FAIL (ctx + slot * 0x100 + hgen * 0x800 + sgen * 0x10000 + r * 0x200000 + place * 0x1000000)
  let free := (fltDyn s2 pgEXP).test.isNone
  let s3 := raise (event s2 pgEXP (if stale then 1 else 0)) pgEXP (if stale then fTABLE_STALE else fDECODE_FAIL) r addr
  if free then markTest s3 pgEXP (instKey stEXPAND place 0) else s3

/-- Decode the blocks of a coded tile in order, failures recorded. -/
def decodeAll (place ctx addr : Nat) : List (List Byte × Option (List Byte)) → State → List (Option (List Byte)) × State
  | [], s => ([], s)
  | x :: t, s =>
    match decodeBlock s ctx x with
    | (.ok b, s1) => let (l, s2) := decodeAll place ctx addr t s1; (some b :: l, s2)
    | (.error f, s1) => let (l, s2) := decodeAll place ctx addr t (noteBlockFail s1 place ctx addr f); (none :: l, s2)

/-- Decode a coded tile at an EXPAND instance; it waits while a table that it needs is fetched (R149), and the slot counts fall as its blocks
are decoded (R141). A failing block ends the tile CORRUPT, the others being written at DST when it names storage (R150). -/
def decodeTile (c : Access) (st : Stream) (place : Nat) (t : Tile) (bs : List Byte) : HopM (List Byte) :=
  let imgs := cutImages (blockLens t.desc.len) bs
  (fetchTables place t.ctx imgs).andThen fun missed =>
  if missed then hopFail cLATEWAIT else fun s =>
  let (res, s1) := decodeAll place t.ctx (t.desc.dst % 2 ^ 46) ((cutHeads (blockLens t.desc.len) bs).zip imgs) s
  if res.all Option.isSome then (.ok (res.flatMap (fun r => r.getD [])), s1)
  else
    let toDst : HopM Unit := if dstStorage st t then stageBlocks c t (res.map (fun r => r.getD [])) else .ret ()
    (toDst.andThen fun _ => hopFail cEXPFAIL) (flagAbort s1 t.desc.round false)

/-- A tile whose blocks are decoded leaves their counts, once its hop's output stands; one that fails leaves them as it ends (R141). -/
def countDecoded (blocks : List (Nat × Nat)) (out : HopM Tile) : HopM Tile :=
  out.andThen fun t => (hopDo (fun s => countOut s blocks)).andThen fun _ => .ret t

/-- The work of an EXPAND hop: DECODE (R147). -/
def decodeWork (st : Stream) (t : Tile) : HopM Tile :=
  let c := accessOf st t
  (hopInput c t).andThen fun bs =>
  (if t.coded then decodeTile c st c.place t bs else .ret bs).andThen fun raw =>
  countDecoded (if t.coded then t.blocks else []) (rawOutput c st { t with coded := false, blocks := [] } raw)

end Sys2Proof.Machine
end

