-- ==== Sys2Proof/Machine/Gates.lean ====
section
/-!
DEFINITION. What withholds a frame at its port: the gates of R201 to R203, the buckets of R199 and R200, and pauses.
-/
namespace Sys2Proof.Machine

/-- Mirder's own flow. -/
abbrev ownFlow : Nat := 4096

/-- A port's scheduler. -/
def schedOf (s : State) (p : Nat) : PortSched := nthD {} s.sw.ports p

/-- Update a port's scheduler. -/
def putSched (s : State) (p : Nat) (q : PortSched) : State := { s with sw := { s.sw with ports := setAt {} s.sw.ports p q } }

/-! ### Gates (R201 to R203) -/

/-- The cycle of a list. -/
def gclCycle (g : Gcl) : Nat := (g.entries.map (·.1)).sum

/-- The entry at a position: its index, its mask, and the ticks left in it. -/
def gclEntry : List (Nat × Nat) → Nat → Nat → Nat × Nat × Nat
  | [], _, i => (i, 0xFF, 0)
  | (n, m) :: t, pos, i => if pos < n then (i, m, n - pos) else gclEntry t (pos - n) (i + 1)

/-- The entry in force at tick n. -/
def gclNow (g : Gcl) (n : Nat) : Nat × Nat × Nat := gclEntry g.entries ((n - g.start) % gclCycle g) 0

/-- A mask opens a class; C0 to C2 are never closed (R201). -/
def maskOpen (m k : Nat) : Bool := decide (k ≤ 2) || bitOf m k

/-- Ticks that consecutive entries keep a class open; none when they all do. -/
def runOpen (k : Nat) : List (Nat × Nat) → Nat → Option Nat
  | [], _ => none
  | (n, m) :: t, acc => if maskOpen m k then runOpen k t (acc + n) else some acc

/-- Ticks, with the present one, that a list keeps a class open from tick n; none when it never closes. -/
def openRun (g : Gcl) (n k : Nat) : Option Nat :=
  let (i, m, left) := gclNow g n
  if !maskOpen m k then some 0
  else (runOpen k (g.entries.drop (i + 1) ++ g.entries.take (i + 1)) 0).map (· + left)

/-- Ticks left in a class's window at a port, a pending list or a removal counting from its tick; none when it never closes. -/
def windowTicks (s : State) (p k : Nat) : Option Nat :=
  let q := schedOf s p
  let n := s.tick.now
  let active := match q.gcl with
    | some g => openRun g n k
    | none => none
  let next : Option (Nat × Option Nat) := q.gclNext.map (fun g => let t := max (n + 1) g.start; (t - n, openRun g t k))
  let then' : Option Nat := next.bind (fun x => x.2.map (· + x.1))
  match (if q.gclOff then some 1 else next.map (·.1)), active with
  | some d, some a => if a < d then some a else then'
  | some _, none => then'
  | none, _ => active

/-- The class is open at a port now. -/
def classOpen (s : State) (p k : Nat) : Bool := windowTicks s p k != some 0

/-- Charged bytes that a class's frames wait behind in this tick: on a line port the privileged slots and the bulk slots are apart (R199). -/
def sentBefore (s : State) (p k : Nat) : Nat :=
  let q := schedOf s p
  if p = 4 ∨ p = 5 then (if k ≤ 3 then q.priv else q.sent - q.priv) else q.sent

/-- The bytes that the port can send before the window closes cover the frame (R202). -/
def windowCovers (s : State) (p k len : Nat) : Bool :=
  match windowTicks s p k with
  | none => true
  | some w => decide (len + sentBefore s p k ≤ portRate s p * w)

/-! ### Buckets (R199, R200) -/

/-- The subscriber a flow names. -/
def flowSub (s : State) (flow : Nat) : Sub := mapGet {} s.sw.subs flow

/-- The level of a subscriber's egress bucket, full at first (102). -/
def outLevel (s : State) (flow : Nat) : Nat := (mapFind s.sw.bucketOut flow).getD (flowSub s flow).burstOut

/-- The level of its ingress bucket. -/
def inLevel (s : State) (flow : Nat) : Nat := (mapFind s.sw.bucketIn flow).getD (flowSub s flow).burstIn

/-- The egress bucket of a flow covers a length (R200). -/
def flowCovers (s : State) (flow len : Nat) : Bool :=
  flow == ownFlow || (flowSub s flow).rateOut == 0 || decide (len ≤ outLevel s flow)

/-- The scheduler withholds a frame: a pause, a closed window, or a bucket that does not cover it; a port that gives nothing at all is no
window's doing (R69, R200, R202). -/
def withheldFrame (s : State) (f : Frame) : Bool :=
  let q := schedOf s f.port
  let len := chargedLen s f
  (decide (f.port < 4) && nthD false q.paused f.cls) || !classOpen s f.port f.cls
    || (portRate s f.port != 0 && !windowCovers s f.port f.cls len) || !flowCovers s f.flow len
    || (decide (f.cls ≤ 2) && decide (f.port < 4 ∨ f.port = 6) && decide (nthD 0 q.bucket f.cls < len))

end Sys2Proof.Machine
end

