-- ==== Sys2Proof/Machine/Stations.lean ====
section
/-!
DEFINITION. Stations: maps and their arming (R70, R71), opens (R72, R73), and what a boundary does to tiles: moving on,
credit, admission, lateness (R60, R61, R66 to R69, R75).
-/
namespace Sys2Proof.Machine

/-! ### Clusters and ceilings -/

/-- A cluster is in service. -/
def clusterIn (s : State) (die c : Nat) : Bool := !s.store.retired.contains (die * 40 + c)

/-- Clusters of a die that a binding gives a role (0 MATRIX, 1 VECTOR), in service. -/
def boundCount (s : State) (bind : List Nat) (die role : Nat) : Nat :=
  ((List.range 40).filter (fun c => clusterIn s die c && bitOf (nthD 0 bind die) c == (role == 1))).length

/-- The ceiling of an instance under a binding (R66). -/
def ceiling (s : State) (bind : List Nat) (inst : Nat) : Nat :=
  let st := inst % 16
  let pl := inst / 16 % 16
  if st = 1 then 125 * boundCount s bind pl 0
  else if st = 2 then 125 * boundCount s bind pl 1
  else if st = 3 then 1400
  else if st = 4 then 600
  else if st = 5 ∨ st = 6 then 1400
  else if st = 7 then 390
  else if st = 8 then 5 * (155 - lineSlots s (if pl = 8 then 0 else 1)) / 4
  else if st = 9 then 125
  else 175

/-- STN_BIND_Fn of every die: the roles now, and the clusters that await a change (R71). -/
def showBind (s : State) : State :=
  (List.range 8).foldl (fun a d =>
    let chg := ((List.range 40).filter (fun c => clusterIn a d c
      && bitOf (nthD 0 a.stn.bound d) c != bitOf (nthD 0 a.stn.inForce.bind d) c)).length
    setN a (R.STN_BIND_F0 + 4 * d) (boundCount a a.stn.bound d 0 + boundCount a a.stn.bound d 1 * 0x100 + chg * 0x10000)) s

/-- The tiles in flight at an instance, that is admitted and not finished, with their streams' slots. -/
def inFlight (s : State) (inst : Nat) : List (Nat × Tile) :=
  s.strm.slots.flatMap (fun e => (e.2.tiles.filter (fun t =>
    instAt e.2 t.hop == inst && t.admitted.isSome && !t.finished && t.doneTick.isNone)).map (fun t => (e.1, t)))

/-- The instance that a cluster serves now. -/
def clusterInst (s : State) (die c : Nat) : Nat := instKey (if bitOf (nthD 0 s.stn.bound die) c then 2 else 1) die 0

/-- The tiles in flight on a cluster. -/
def tilesOn (s : State) (die c : Nat) : List (Nat × Tile) := (inFlight s (clusterInst s die c)).filter (fun x => x.2.cluster == c)

/-- A cluster holds a tile: one admitted under the map before, where its role changes (R71). -/
def clusterBusy (s : State) (die c : Nat) : Bool := !(tilesOn s die c).isEmpty

/-- The clusters of a TENSOR or VECTOR instance that take new tiles: those in service that have its role and keep it (R71). -/
def openClusters (s : State) (inst : Nat) : List Nat :=
  let die := inst / 16 % 16
  (List.range 40).filter (fun c => clusterIn s die c && clusterInst s die c == inst % 256
    && bitOf (nthD 0 s.stn.bound die) c == bitOf (nthD 0 s.stn.inForce.bind die) c)

/-- The instance has a cluster for a new tile, where it works on clusters at all. -/
def takesTiles (s : State) (inst : Nat) : Bool := !(inst % 16 == 1 || inst % 16 == 2) || !(openClusters s inst).isEmpty

/-- The cluster that takes a new tile. DESIGN CHOICE (221): the manual does not say which; the one with the fewest tiles, the lowest of
those. -/
def pickCluster (s : State) (inst : Nat) : Nat :=
  let load (c : Nat) := (tilesOn s (inst / 16 % 16) c).length
  match openClusters s inst with
  | [] => 0
  | c :: t => t.foldl (fun b x => if load x < load b then x else b) c

/-- The charge of a tile at its hop, in sixteenths (R51). -/
def chargeOf (st : Stream) (t : Tile) : Nat :=
  let b := if dirAt (hopStation (hopAt st t.hop)) t.hop = 1 then (match t.data with | some d => d.length | none => t.desc.len) else t.desc.len
  max 1 ((b + 4095) / 4096)

/-- The tiles on a cluster that is retired start again on others of its instance (R127): they wait, due, for their admission. -/
def restartTiles (s : State) (die c : Nat) : State :=
  (tilesOn s die c).foldl (fun a x =>
    match streamAt a x.1 with
    | some st =>
      putStream a x.1 { setTile st { x.2 with admitted := none, withheld := false } with
        credit := setAt 0 st.credit x.2.hop (nthD 0 st.credit x.2.hop + chargeOf st x.2) }
    | none => a) s

/-- A cluster takes the role of the map in force, once it holds no tile of the map before (R71). -/
def rebindCluster (s : State) (die c : Nat) : State :=
  let now := bitOf (nthD 0 s.stn.bound die) c
  let want := bitOf (nthD 0 s.stn.inForce.bind die) c
  if now = want ∨ clusterIn s die c = false ∨ clusterBusy s die c then s
  else showBind { s with stn := { s.stn with bound := setAt 0 s.stn.bound die (putBits (nthD 0 s.stn.bound die) c c (ofBool want)) } }

/-- Every cluster of every die that may change its role. -/
def rebindAll (s : State) : State :=
  (List.range 320).foldl (fun a i => rebindCluster a (i / 40) (i % 40)) s

/-! ### Maps -/

/-- Post the answer of an ARM. -/
def answerArm (s : State) (code inst short : Nat) : State :=
  let state := if s.stn.armed.isSome then 2 else 0
  let st := if code = cCAPACITY then inst % 16 + inst / 16 % 16 * 16 + inst / 256 * 256 else 0
  let v := state + code * 16 + st % 16 * 0x100 + st / 16 % 16 * 0x1000 + st / 256 * 0x10000 + min 0x7FFF short * 0x20000
  eventIf (setN s R.STN_ARM_RES v) (code != cSERVED) pgSTN 1

/-- An instance of a map entry is well coded (R70): the direction only where the station has one. -/
def entryOk (e : Nat × Nat) : Bool := stationAt (e.1 % 16) (e.1 / 16 % 16) && (isPort (e.1 % 16) || e.1 / 256 == 0)

/-- No instance is listed twice. -/
def distinct : List Nat → Bool
  | [] => true
  | a :: t => !t.contains a && distinct t

/-- Instances that open streams use. -/
def usedInsts (s : State) : List Nat :=
  s.strm.slots.flatMap (fun e => (List.range e.2.hops).map (instAt e.2))

/-- The first instance, in order, whose need exceeds what it gets. -/
def firstShort (need give : Nat → Nat) : List Nat → Option (Nat × Nat)
  | [] => none
  | i :: t => if give i < need i then some (i, need i - give i) else firstShort need give t

/-- The address of the map. -/
def mapAddr (s : State) : Nat := regN s R.STN_MAP_ADDR_LO + regN s R.STN_MAP_ADDR_HI * 0x100000000

/-- The errors met in the map at STN_MAP_ADDR (R164). -/
def mapMet (s : State) : State :=
  if mapAddr s % 64 ≠ 0 then s
  else match hwRead s (mapAddr s) 0x40 with
    | (some h, s1) => if leAt h 8 2 ≤ 64 then met s1 (mapAddr s) (0x80 + 8 * leAt h 8 2) else s1
    | (none, s1) => s1

/-- The map at STN_MAP_ADDR, when it can be read and its own codes hold (R71, first check). -/
def readMap (s : State) : Option StnMap :=
  let a := mapAddr s
  if a % 64 ≠ 0 then none
  else match (hwRead s a 0x40).1 with
    | none => none
    | some h =>
      let n := leAt h 8 2
      if leAt h 0 4 ≠ 1 ∨ n = 0 ∨ 64 < n then none
      else match (hwRead s a (0x80 + 8 * n)).1 with
        | none => none
        | some b =>
          let m := parseMap a b
          if m.budgets.all entryOk && distinct (m.budgets.map (·.1)) then some m else none

/-- ARM (R71, R77). -/
def armCmd (s : State) : State :=
  if !inRun s pgSTN then answerArm s cPOLICY 0 0
  else
    let map := readMap s
    let s := mapMet s
    match map with
    | none => answerArm s cPOLICY 0 0
    | some m =>
      match firstShort (mapBudget m) (ceiling s m.bind) (m.budgets.map (·.1)) with
      | some (i, x) => answerArm s cCAPACITY i x
      | none =>
        match firstShort (committed s) (mapBudget m) (m.budgets.map (·.1) ++ usedInsts s) with
        | some (i, x) => answerArm s cCAPACITY i x
        | none =>
          let t := reg64 s R.STN_ARM_TICK_LO R.STN_ARM_TICK_HI
          answerArm { s with stn := { s.stn with armed := some (m, t) } } cSERVED 0 0

/-- CANCEL (R71). -/
def cancelCmd (s : State) : State :=
  if s.stn.armed.isNone then s
  else setFld { s with stn := { s.stn with armed := none } } R.STN_ARM_RES 1 0 0

/-- What is kept of the instances that a map lists. -/
def listed (m : StnMap) (l : List (Nat × Nat)) : List (Nat × Nat) := l.filter (fun e => m.budgets.any (fun b => b.1 == e.1))

/-- The armed map comes into force at boundary n (R71); an instance that it does not list has an effective budget of 0 and carries
nothing (R67, R70). -/
def mapTakes (s : State) (m : StnMap) (n : Nat) : State :=
  let s1 := setN { s with stn := { s.stn with inForce := m, armed := none, since := n,
                                              effective := listed m s.stn.effective, carried := listed m s.stn.carried } } R.STN_MAP_ID m.id
  event (showBind (setFld s1 R.STN_ARM_RES 1 0 0)) pgSTN 0

/-- At boundary n: the armed map's tick has come. -/
def mapBoundary (s : State) (n : Nat) : State :=
  match s.stn.armed with
  | some (m, t) => if t ≤ n then mapTakes s m n else s
  | none => s

/-! ### Opens (R72, R73) -/

/-- Post the answer of STRM_CMD. -/
def answerStrm (s : State) (code inst short : Nat) : State :=
  let v := code * 16 + (if code = cCAPACITY then inst % 16 * 0x100 + inst / 16 % 16 * 0x1000 + inst / 256 * 0x10000 + min 0x7FFF short * 0x20000 else 0)
  event (countCode (setN s R.STRM_RES v) code) pgSTRM 0

/-- A range lies in one region that some station of a route may read or write (R73); for a member stream's operands, a
MEMBER region (R124). -/
def regionServes (s : State) (route : List Nat) (member : Bool) (a n : Nat) : Bool :=
  match regionOf (regionsNow s) a with
  | some (_, r) => within r a n && (!member || r.member)
      && route.any (fun h => bitOf r.read (hopStation h) || bitOf r.write (hopStation h))
  | none => false

/-- The address of a subscriber record. -/
def subAddr (s : State) (i : Nat) : Nat := regN s R.SCHED_SUB_BASE_LO + regN s R.SCHED_SUB_BASE_HI * 0x100000000 + 64 * i

/-- Read a subscriber record (R190). -/
def readSub (s : State) (i : Nat) : Option Sub :=
  match (hwRead s (subAddr s i) 64).1 with
  | some b => let u := parseSub b; if subOk u then some u else none
  | none => none

/-- The errors met in a subscriber record (R164). -/
def subMet (s : State) (i : Nat) : State := met s (subAddr s i) 64

/-- The address of a node's address entry. -/
def nodeAddr (s : State) (node : Nat) : Nat := regN s R.SCHED_NODE_BASE_LO + regN s R.SCHED_NODE_BASE_HI * 0x100000000 + 128 * node

/-- Read a node's address entry (R187). -/
def readNode (s : State) (node : Nat) : Option (List Byte) :=
  match (hwRead s (nodeAddr s node) 128).1 with
  | some b => if bitOf (leAt b 0 1) 0 then some b else none
  | none => none

/-- Read the entries of some nodes, to be kept (R187). -/
def readNodes (s : State) (nodes : List Nat) : State :=
  nodes.foldl (fun a nd =>
    let r := readNode a nd
    let a1 := met a (nodeAddr a nd) 128
    match r with
    | some b => { a1 with sw := { a1.sw with nodes := mapPut a1.sw.nodes nd b } }
    | none => { a1 with sw := { a1.sw with nodes := mapDel a1.sw.nodes nd } }) s

/-- The nodes that a stream's subscriber names as endpoints, and WG9's own. -/
def nodesOf (s : State) (st : Stream) : List Nat :=
  let u := mapGet {} s.sw.subs st.sub
  let refs := (List.range u.epCount).map (fun i => 2 ^ 47 + i)
  fld s R.GLB_NODE 15 0 :: refs.flatMap (fun r => match endpointOf s st r with
    | some (_, l) => l.map (·.node)
    | none => [])

/-- Keep the node entries that a stream's subscriber names, as it opens or its subscriber is reloaded (R187). -/
def cacheNodes (s : State) (slot : Nat) : State :=
  match streamAt s slot with
  | some st => let l := nodesOf s st; readNodes (putStream s slot { st with nodes := l }) l
  | none => s

/-- The rules on round and member operations (R108, R124, R126). -/
def opsOk (s : State) (o : OpenRec) : Bool :=
  let ops := o.route.zip o.op
  let round := ops.any (fun p => isRoundOp (hopStation p.1) p.2)
  (!o.member || (!halfMast s && ops.all (fun p => isPort (hopStation p.1) || isMemberOp (hopStation p.1) p.2) && (o.cls == 6 || o.cls == 7)
      && (o.cls == 6 || !(o.route.any (fun h => hopStation h == stFABRIC)))))
    && (!round || (s.job.held && nthD 0 o.operand 0 == s.job.ocr && nthD 0 o.operand 1 == 0 && nthD 0 o.operand 2 == 0))

/-- Check 1 of R73. -/
def openOk (s : State) (o : OpenRec) : Bool :=
  inRun s pgSTRM && openCodesOk o && !(s.strm.slots.any (fun e => e.2.id == o.id))
    && regionServes s o.route false o.sqBase (64 * 2 ^ o.sqLog2)
    && o.operand.all (fun a => a == 0 || regionServes s o.route o.member a 1)
    && opsOk s o && (readSub s o.sub).isSome

/-- Check 2 of R73. -/
def openSealed (s : State) (o : OpenRec) : Bool :=
  (o.route.zip o.op).any (fun p => hopStation p.1 == stCODEC && p.2 != 0)
    && (match regionOf (regionsNow s) o.sqBase with | some (_, r) => r.sealed | none => false)

/-- The lowest free slot. -/
def freeSlot (s : State) : Option Nat := (List.range 4096).find? (fun i => (streamAt s i).isNone)

/-- Take n buffers of P1 for hop queues; none when they cannot all be had, and then those that were had return. What the allocator
met on the way stays (R172). -/
def takeQueues : Nat → State → List Nat → Option (List Nat) × State
  | 0, s, got => (some got, s)
  | n + 1, s, got =>
    match allocInternal s 1 (homeSeg s 0) with
    | (.got h, s1) => takeQueues n s1 (got ++ [h])
    | (_, s1) => (none, got.foldl releaseQuiet s1)

/-- The instance of hop k of a record. -/
def recInst (o : OpenRec) (k : Nat) : Nat :=
  let h := nthD 0 o.route k
  instKey (hopStation h) (hopPlace h) (dirAt (hopStation h) k)

/-- The need at hop k of a record: the rates committed there, and those of its own hops so far. -/
def recNeed (s : State) (o : OpenRec) (k : Nat) : Nat :=
  committed s (recInst o k) + ((List.range (k + 1)).map (fun j => if recInst o j = recInst o k then nthD 0 o.rate j else 0)).sum

/-- Check 4 of R73 at hop k: the shortfall under the map in force and the armed map. -/
def shortAt (s : State) (o : OpenRec) (k : Nat) : Nat :=
  let need := recNeed s o k
  let a := need - mapBudget s.stn.inForce (recInst o k)
  let b := match s.stn.armed with | some (m, _) => need - mapBudget m (recInst o k) | none => 0
  max a b

/-- Rates declared at a port station's out hops by streams of the bulk or the privileged classes. -/
def declared (s : State) (inst : Nat) (bulk : Bool) : Nat :=
  s.strm.slots.foldl (fun a e => if decide (4 ≤ e.2.cls) == bulk then
    (List.range e.2.hops).foldl (fun b k => if instAt e.2 k = inst then b + nthD 0 e.2.rate k else b) a else a) 0

/-- Check 5 of R73 at hop k, with the record's own hops there so far (R198): both ports of a FABRIC instance are taken together; HP is
checked against its bulk capacity and, for the privileged classes, not at all. -/
def portShort (s : State) (o : OpenRec) (k : Nat) : Nat :=
  let h := nthD 0 o.route k
  let st := hopStation h
  let bulk := decide (4 ≤ o.cls)
  if dirAt st k = 1 ∧ (st = stFABRIC ∨ st = stLINE ∨ (st = stHOST ∧ bulk)) then
    let cap := ((hopPorts st (hopPlace h)).map (fun p => if bulk then portBulk s p else portPriv s p)).sum
    declared s (recInst o k) bulk + ((List.range (k + 1)).map (fun j => if recInst o j = recInst o k then nthD 0 o.rate j else 0)).sum - cap
  else 0

/-- The first hop of a record at which a check falls short. -/
def firstHop (f : Nat → Nat) : List Nat → Option (Nat × Nat)
  | [] => none
  | k :: t => if f k = 0 then firstHop f t else some (k, f k)

/-- The stream that an open makes. -/
def newStream (o : OpenRec) (queues : List Nat) : Stream :=
  { id := o.id, cls := o.cls, member := o.member, hops := o.hops, route := o.route, rate := o.rate, op := o.op, sub := o.sub,
    sqBase := o.sqBase, sqLog2 := o.sqLog2, operand := o.operand, expect := o.first, first := o.first, credit := o.rate, queues := queues }

/-- OPEN of the record at an address, its checks in order (R73); its hop queues wait for the POOL block (R177). DESIGN CHOICE (240): one that check 4 or
5 refuses leaves no trace of the buffers that check 3 found. -/
def openAt (s0 : State) (a : Nat) : State :=
  let s := { s0 with strm := { s0.strm with opening := none } }
  match (if a % 64 = 0 then hwRead s a 128 else (none, s)) with
  | (none, s) => answerStrm s cPOLICY 0 0
  | (some b, s1) =>
    let o := parseOpen b
    let s := subMet s1 o.sub
    if !openOk s o then answerStrm s cPOLICY 0 0
    else if openSealed s o then answerStrm s cSEALED 0 0
    else match freeSlot s with
      | none => answerStrm s cBUSY 0 0
      | some slot =>
        if 1 < o.hops && poolWaits s 1 then setN { s with strm := { s.strm with opening := some a } } R.STRM_RES 1 else
        match takeQueues (o.hops - 1) s [] with
        | (none, s1) => answerStrm s1 cBUSY 0 0
        | (some qs, s1) =>
          match (firstHop (shortAt s o) (List.range o.hops)).or (firstHop (portShort s o) (List.range o.hops)) with
          | some (k, x) => answerStrm s cCAPACITY (recInst o k) x
          | none =>
            let st := newStream o qs
            let s2 := putStream s1 slot st
            let s3 := match readSub s2 o.sub with
              | some u => cacheNodes { s2 with sw := { s2.sw with subs := mapPut s2.sw.subs o.sub u } } slot
              | none => s2
            answerStrm (setN s3 R.STRM_RES_SLOT slot) cSERVED 0 0

/-- OPEN of the record at STRM_OPEN_ADDR. -/
def openCmd (s : State) : State := openAt s (regN s R.STRM_OPEN_ADDR_LO + regN s R.STRM_OPEN_ADDR_HI * 0x100000000)

/-- An OPEN that waited for the POOL block is tried again at a boundary. -/
def openAgain (s : State) : State :=
  match s.strm.opening with
  | some a => if poolWaits s 1 then s else openAt s a
  | none => s

/-! ### The boundary's work on tiles -/

/-- Tiles of a stream that wait in the queue before hop k. -/
def queued (st : Stream) (k : Nat) : Nat := (st.tiles.filter (fun t => t.hop == k && t.admitted.isNone && t.doneTick.isNone)).length

/-- Frames of a tile wait at a port because it gives less than was planned, and not because the scheduler withholds them (R69, R202, R204). -/
def slowFrames (s : State) (slot seq : Nat) : Bool :=
  s.sw.frames.any (fun f => f.tile == some (slot, seq) && portSlow s f.port && !withheldFrame s f)

/-- Member mode is held or off for a stream's tiles (R29, R75, R126). -/
def memberStop (s : State) (st : Stream) : Bool := st.member && (s.job.memberHold || halfMast s)

/-- A tile counts a boundary of waiting by the submitter or the far side. -/
def delayed (t : Tile) : Tile × Option Nat := ({ t with delay := t.delay + 1 }, none)

/-- A tile counts a boundary of waiting by WG9, and its instance the tile once. -/
def lateAt (st : Stream) (t : Tile) : Tile × Option Nat :=
  ({ t with late := t.late + 1, lateHere := true }, if t.lateHere then none else some (instAt st t.hop))

/-- A finished tile moves on to the next hop when its queue has room, and otherwise counts the wait (R60, R69); a tile whose
frames or completion wait counts it too; an admitted tile not finished counts LATE, or DELAY where it is withheld, and a due tile that
member mode or a full ring holds back counts DELAY (R64, R75). -/
def moveTile (s : State) (n slot : Nat) (st : Stream) (t : Tile) : Tile × Option Nat :=
  if t.doneTick.isSome then (if t.withheld then delayed t else (t, none))
  else if t.finished then
    if t.txLeft ≠ 0 then (if slowFrames s slot t.desc.seq then lateAt st t else delayed t)
    else if queued st (t.hop + 1) < 63 then
      ({ t with hop := t.hop + 1, present := n, due := none, admitted := none, finished := false, lateHere := false, withheld := false }, none)
    else delayed t
  else if t.withheld then delayed t
  else if t.due.isNone then (t, none)
  else if stoppedHere st t || (memberStop s st && t.admitted.isNone) then delayed t
  else lateAt st t

/-- Move the tiles of a stream at boundary n, oldest first; the instances at which a tile was first counted LATE are
returned. -/
def moveTiles (s : State) (n slot : Nat) : List Tile → Stream → List Nat → Stream × List Nat
  | [], st, late => (st, late)
  | t :: rest, st, late =>
    let (t1, l) := moveTile s n slot st t
    moveTiles s n slot rest (setTile st t1) (match l with | some i => late ++ [i] | none => late)

/-- A credit after a boundary (R68). -/
def creditUp (rate c : Nat) : Nat := min (c + rate) (rate + 16)

/-- The landed transfer that a receive descriptor's endpoint takes next (R61). -/
def arrivalFor (s : State) (st : Stream) (t : Tile) : Option Landed :=
  match endpointOf s st t.desc.src with
  | some (false, [e]) => s.strm.landed.find? (fun l => l.port == e.port && l.node == e.node && l.stream == e.stream)
  | _ => none

/-- Match a receive descriptor to its arrival: its bytes, and the ticks it was held with no descriptor posted (R61). -/
def takeArrival (s : State) (t : Tile) (l : Landed) : Tile × State :=
  let t1 := { t with data := some l.data, coded := l.coded, landing := l.handle, ctx := (ctxOfNode s l.node).getD 0,
                     desc := { t.desc with len := l.rawLen }, delay := t.delay + (t.desc.tickSub - l.tick) }
  let t2 := if l.coded then
      let imgs := (cutImages (blockLens l.rawLen) l.data).filterMap id
      { t1 with blocks := ((imgs.filter (fun i => !imgRaw i)).map (fun i => (cslotKey t1.ctx 1 (imgSlot i), 1))) } else t1
  (t2, { s with strm := { s.strm with landed := s.strm.landed.filter (fun x => x != l) } })

/-- The SRC of a receive descriptor names a refused entry, a multicast, or a port that its hop cannot reach (R191). -/
def srcBad (s : State) (st : Stream) (t : Tile) : Bool :=
  match endpointOf s st t.desc.src with
  | some (false, [e]) => !((hopPorts (hopStation (hopAt st 0)) (hopPlace (hopAt st 0))).contains e.port)
  | _ => true

/-- A tile waits behind its FENCE: an earlier tile of its stream has not completed (R56). -/
def fenced (st : Stream) (t : Tile) : Bool :=
  t.hop == 0 && bitOf t.desc.attr 3 && (st.tiles.head?.map (fun x => x.desc.seq)) != some t.desc.seq

/-- A FENCE tile follows a failed tile, both of a round that has been aborted and not begun again (R65). -/
def fenceDies (s : State) (st : Stream) (t : Tile) : Bool :=
  t.hop == 0 && bitOf t.desc.attr 3 && t.desc.round != 0 && st.failed.contains t.desc.round
    && s.job.gone.contains t.desc.round

/-- A present tile becomes due when the credit left at its hop covers its charge, and otherwise counts the wait (R68, R69). -/
def judgeCredit (n slot : Nat) (st : Stream) (t : Tile) (credit : List Nat) (s : State) : List Nat × State :=
  let c := chargeOf st t
  if c ≤ nthD 0 credit t.hop then
    (setAt 0 credit t.hop (nthD 0 credit t.hop - c), putStream s slot (setTile st { t with due := some n }))
  else (setAt 0 credit t.hop 0, putStream s slot (setTile st { t with delay := t.delay + 1 }))

/-- Judge whether the tiles present at a hop are due, in order, with the credit left (R68, R69, R75, R56). `stop`: the stream's next
tile cannot start yet, and those behind it neither start nor count. -/
def judgeTiles (n slot : Nat) : List Tile → (stop : Bool) → (credit : List Nat) → State → State
  | [], _, _, s => s
  | t :: rest, stop, credit, s =>
    match streamAt s slot with
    | none => s
    | some st =>
      if t.doneTick.isSome ∨ t.finished ∨ n < t.present ∨ t.admitted.isSome then judgeTiles n slot rest stop credit s
      else if st.member ∧ halfMast s ∧ t.hop = 0 then judgeTiles n slot rest stop credit (failTile s slot t cPOLICY)
      else if t.due.isSome then judgeTiles n slot rest stop credit s
      else if memberStop s st || stoppedHere st t then
        judgeTiles n slot rest stop credit (putStream s slot (setTile st { t with delay := t.delay + 1 }))
      else if stop || fenced st t then judgeTiles n slot rest true credit s
      else if fenceDies s st t then judgeTiles n slot rest stop credit (failTile s slot t cABORTED)
      else if t.hop = 0 ∧ isPort (hopStation (hopAt st 0)) ∧ t.data.isNone then
        if srcBad s st t then judgeTiles n slot rest stop credit (failTile s slot t cPOLICY)
        else match arrivalFor s st t with
          | none => judgeTiles n slot rest true credit s
          | some l =>
            let (t1, s1) := takeArrival s t l
            if l.bad then judgeTiles n slot rest stop credit (failTile (putStream s1 slot (setTile st t1)) slot t1 cCORRUPT)
            else let r := judgeCredit n slot st t1 credit s1; judgeTiles n slot rest stop r.1 r.2
      else let r := judgeCredit n slot st t credit s; judgeTiles n slot rest stop r.1 r.2

/-- The credit of a stream's hops less the charges of due tiles not yet admitted. -/
def freeCredit (st : Stream) : List Nat :=
  st.tiles.foldl (fun c t => if t.due.isSome ∧ t.admitted.isNone ∧ t.doneTick.isNone then setAt 0 c t.hop (nthD 0 c t.hop - chargeOf st t) else c) st.credit

/-- One stream at boundary n: tiles move, credit rises, present tiles become due. -/
def streamBoundary (n : Nat) (s : State) (slot : Nat) : State :=
  match streamAt s slot with
  | none => s
  | some st =>
    let (st1, late) := moveTiles s n slot st.tiles st []
    let st2 := { st1 with credit := (st1.rate.zip st1.credit).map (fun p => creditUp p.1 p.2) }
    let s1 := late.foldl (fun a i => bump (bump a (keyB R.STN_LATE i)) R.STN_LATE_ALL) (putStream s slot st2)
    flush (judgeTiles n slot st2.tiles false (freeCredit st2) s1) slot

/-- The effective budget of an instance for the tick that begins (R67); a parked die delivers no clock (R433). -/
def effectiveBudget (s : State) (inst : Nat) : Nat :=
  let b := mapBudget s.stn.inForce inst
  let st := inst % 16
  let pl := inst / 16 % 16
  if s.stn.testing.contains inst then 0
  else if (st ≤ 3 ∨ st = 5) ∧ pl ≤ 7 then if diePark s pl then 0 else b * (700 * (16 - nthD 0 s.tick.level pl)) / 11200
  else if st = 8 then
    let md := if pl = 8 then 0 else 1
    if !moduleLit s md || (if inst / 256 = 0 then moduleReacquiring s md else moduleSteering s md) then 0 else if lineLanes s md = 3 then b * 3 / 4 else b
  else if st = 7 then b * ((hopPorts 7 pl).map (portRate s)).sum / 1600000
  else b

/-- A tile waiting for admission: its key in the order of R68, slot, sequence number, charge, class. -/
structure Cand where
  key : Nat
  slot : Nat
  seq : Nat
  charge : Nat
  cls : Nat
  carried : Bool
  deriving DecidableEq, Repr

/-- Insert by key. -/
def insCand (c : Cand) : List Cand → List Cand
  | [] => [c]
  | x :: t => if c.key < x.key then c :: x :: t else x :: insCand c t

/-- A stream's tiles due at an instance that may be admitted there: not those that member mode or a full ring holds back. -/
def dueAt (s : State) (inst : Nat) (st : Stream) : List Tile :=
  st.tiles.filter (fun t => instAt st t.hop == inst && t.due.isSome && t.admitted.isNone && t.doneTick.isNone
    && !memberStop s st && !stoppedHere st t)

/-- The tiles due at an instance and not admitted, in the order of R68: carried ones oldest first, then by class, round
robin by slot. -/
def candidates (s : State) (n inst : Nat) : List Cand :=
  (s.strm.slots.flatMap (fun e =>
    let st := e.2
    let mine := dueAt s inst st
    let start := mapGet 0 s.stn.rr (inst * 8 + st.cls)
    let rot := (e.1 + 4096 - start) % 4096
    let cand (key : Nat) (t : Tile) (carried : Bool) : Cand :=
      { key := key, slot := e.1, seq := t.desc.seq, charge := chargeOf st t, cls := st.cls, carried := carried }
    ((mine.filter (fun t => decide (t.due.getD n < n))).zipIdx.map (fun p =>
      cand (p.1.due.getD n * 2 ^ 40 + e.1 * 2 ^ 20 + p.2) p.1 true))
    ++ ((mine.filter (fun t => decide (n ≤ t.due.getD n))).zipIdx.map (fun p =>
      cand (2 ^ 120 + st.cls * 2 ^ 60 + p.2 * 2 ^ 20 + rot) p.1 false)))).foldl (fun l c => insCand c l) []

/-- The arrived tile of an in hop, or its decoding where its route has no EXPAND hop, goes on or lands at DST (R61, R147). -/
def landWork (st : Stream) (t : Tile) : HopM Tile :=
  let c := accessOf st t
  let bs := t.data.getD []
  let decodeHere := t.coded && !((laterHops st t).any (fun h => hopStation h == stEXPAND))
  (if decodeHere then decodeTile c st c.place t bs else .ret bs).andThen fun raw =>
  countDecoded (if decodeHere then t.blocks else []) (hopOutput c st { t with coded := t.coded && !decodeHere, blocks := if decodeHere then [] else t.blocks } raw)

/-- The work of an in hop at which a tile has been admitted (R61). -/
def landHop (s : State) (slot seq station : Nat) : State := runHop s slot seq station (fun _ => true) landWork

/-- Admit a tile (R68): its credit is charged; an in hop finishes at once. -/
def admitTile (s : State) (c : Cand) : State :=
  match streamAt s c.slot with
  | none => s
  | some st =>
    match st.tiles.find? (fun t => t.desc.seq == c.seq) with
    | none => s
    | some t =>
      let t1 := { t with admitted := some s.tick.now, cluster := pickCluster s (instAt st t.hop), table := regionVersion s, gate := s.regn.gate }
      let st1 := { setTile st t1 with credit := setAt 0 st.credit t.hop (nthD 0 st.credit t.hop - c.charge) }
      let s1 := putStream s c.slot st1
      if t.hop = 0 ∧ isPort (hopStation (hopAt st 0)) then landHop s1 c.slot c.seq (hopStation (hopAt st 0)) else s1

/-- The tiles of a list in order that a budget covers, as far as it covers the next (R68). -/
def admitted : List Cand → Nat → List Cand
  | [], _ => []
  | c :: t, left => if c.charge ≤ left then c :: admitted t (left - c.charge) else []

/-- The EXPAND instance that decodes a tile of an in hop as it lands, when its route has no EXPAND hop (R147). -/
def landExpand (st : Stream) (t : Tile) : Option Nat :=
  if t.hop = 0 ∧ t.coded ∧ isPort (hopStation (hopAt st 0)) ∧ !((laterHops st t).any (fun h => hopStation h == stEXPAND)) then
    some (instKey stEXPAND (hopPlace (hopAt st 0)) 0) else none

/-- What landing tiles that are admitted take from the budget of the EXPAND instance that decodes them (R147). -/
def landCharge (s : State) (l : List Cand) : List (Nat × Nat) :=
  l.filterMap (fun c => (streamAt s c.slot).bind (fun st => (st.tiles.find? (fun t => t.desc.seq == c.seq)).bind (fun t =>
    (landExpand st t).map (fun i => (i, c.charge)))))

/-- The classes' round robin starts one slot after the slot served first (R68). -/
def turnRobin (s : State) (inst : Nat) (l : List Cand) : State :=
  (List.range 8).foldl (fun a k => match l.find? (fun c => c.cls == k && !c.carried) with
    | some c => { a with stn := { a.stn with rr := mapPut a.stn.rr (inst * 8 + k) ((c.slot + 1) % 4096) } }
    | none => a) s

/-- Sixteenths that landing tiles have taken from an instance at this boundary. -/
def takenBy (inst : Nat) (taken : List (Nat × Nat)) : Nat := ((taken.filter (fun x => x.1 == inst)).map (·.2)).sum

/-- One instance at boundary n (R67, R68): its effective budget, the sixteenths carried, its admissions. What landing tiles take of
EXPAND instances is added to the list. -/
def instBoundary (n : Nat) (x : State × List (Nat × Nat)) (inst : Nat) : State × List (Nat × Nat) :=
  let s := x.1
  let eff := effectiveBudget s inst
  let l := candidates s n inst
  let running := s.strm.slots.foldl (fun a e => e.2.tiles.foldl (fun b t =>
    if instAt e.2 t.hop = inst ∧ t.lateHere ∧ t.admitted.isSome ∧ !t.finished ∧ t.doneTick.isNone then b + chargeOf e.2 t else b) a) 0
  let carried := ((l.filter (·.carried)).map (·.charge)).sum + running
  let s1 := { s with stn := { s.stn with effective := mapSet 0 s.stn.effective inst eff, carried := mapSet 0 s.stn.carried inst carried } }
  let taken := if takesTiles s inst then admitted l (eff - takenBy inst x.2) else []
  (taken.foldl admitTile (turnRobin s1 inst taken), x.2 ++ landCharge s taken)

/-- In hops whose tile was admitted and could not land yet (R149) try again at a boundary. -/
def landAgain (s : State) : State :=
  s.strm.slots.foldl (fun a e => e.2.tiles.foldl (fun b t =>
    if t.hop = 0 ∧ isPort (hopStation (hopAt e.2 0)) ∧ t.admitted.isSome ∧ !t.finished ∧ t.doneTick.isNone then
      landHop b e.1 t.desc.seq (hopStation (hopAt e.2 0)) else b) a) s

/-- The instances of a map, the ports' in directions first: their landing tiles come out of what EXPAND has (R147). -/
def instOrder (m : StnMap) : List Nat :=
  let l := m.budgets.map (·.1)
  l.filter (fun i => isPort (i % 16)) ++ l.filter (fun i => !isPort (i % 16))

/-- The tiles' part of boundary n: streams, then instances (R60, R67 to R69, R77). -/
def tilesBoundary (s : State) (n : Nat) : State :=
  let s1 := landAgain (s.strm.slots.foldl (fun a e => streamBoundary n a e.1) s)
  let insts := instOrder s1.stn.inForce
  let s2 := (insts.foldl (instBoundary n) (s1, [])).1
  eventIf s2 (insts.any (fun i => mapGet 0 s2.stn.carried i != 0)) pgSTN 2

end Sys2Proof.Machine
end

