-- ==== Sys2Proof/Machine/Round.lean ====
section
/-!
DEFINITION. The outer round's state in storage: panels, factor parts, residual and carry parity (R103 to R107, R112,
R113), and reading their values.
-/
namespace Sys2Proof.Machine

/-- Method, element and format facts of a job's configuration. -/
def pfmtElem (o : Ocr) : Elem := if o.pfmt = 0 then .mx e4m3 8 else if o.pfmt = 1 then .float bf16 else .float fp32
/-- QFMT. -/
def qfmtElem (o : Ocr) : Elem := if o.qfmt = 0 then .int 4 2 else .int 8 6
/-- The power method. -/
def isPower (o : Ocr) : Bool := o.method == 1
/-- The emax of the shared scale (R97). -/
def qEmax (o : Ocr) : Int := if o.qfmt = 0 then 2 else 6

/-- Parts of a factor block, in order (R106). -/
inductive Part where
  | lp | lq | ls | lo | gm | lf | qp | qq | qs0 | qs1 | dq | ds
  deriving DecidableEq, Repr

/-- How a part is stored: FP32, QFMT or W32 with shared-scale bytes. -/
inductive PartFmt where
  | f32 | qf | w32
  deriving DecidableEq, Repr

/-- Format of a part (R106). -/
def partFmt : Part → PartFmt
  | .lp => .f32 | .lq => .qf | .ls => .w32 | .lo => .f32 | .gm => .f32 | .lf => .f32
  | .qp => .f32 | .qq => .qf | .qs0 => .w32 | .qs1 => .w32 | .dq => .qf | .ds => .w32

/-- Elements of a part (R106). -/
def partElems (p : Panel) : Part → Nat
  | .lp => p.rows * p.rank | .lq => p.rows * p.rank | .ls => p.rows * p.rank | .lo => p.rows * p.rank
  | .gm => p.rank * p.rank | .lf => p.rank * p.rank
  | .qp => p.cols * p.rank | .qq => p.cols * p.rank | .qs0 => p.cols * p.rank | .qs1 => p.cols * p.rank
  | .dq => p.rows * p.cols | .ds => p.rows * p.cols

/-- Columns of a part's rows. -/
def partCols (p : Panel) : Part → Nat
  | .dq => p.cols | .ds => p.cols | _ => p.rank

/-- The parts a panel's block holds, in order (R106). -/
def partsOf (o : Ocr) (p : Panel) : List Part :=
  if p.rank = 0 then [.dq, .ds]
  else if isPower o then [.lp, .lq, .ls, .lo, .gm, .lf, .qp, .qq, .qs0, .qs1]
  else [.lp, .lq, .ls]

/-- Bytes of a part (R83, R106). -/
def partBytes (o : Ocr) (p : Panel) (x : Part) : Nat :=
  let n := partElems p x
  match partFmt x with
  | .f32 => 4 * n
  | .qf => tensorBytes (qfmtElem o) n
  | .w32 => 4 * n + n / 32

/-- The offset of a part in a block, each beginning at a 4 KiB boundary. -/
def partOffAux (o : Ocr) (p : Panel) (x : Part) : List Part → Nat → Nat
  | [], at' => at'
  | y :: t, at' => if x = y then at' else partOffAux o p x t (at' + (partBytes o p y + 4095) / 4096 * 4096)

/-- The local address of a part of a panel. -/
def partAddr (o : Ocr) (p : Panel) (x : Part) : Nat := o.factor + p.foff + partOffAux o p x (partsOf o p) 0

/-- The carry of a round: the reduced right sum it writes, and the one it reads (R107). -/
def qsOf (n : Nat) : Part := if n % 2 = 0 then .qs0 else .qs1
/-- The residual a round reads, and the one it writes (R107). -/
def residRead (o : Ocr) (n : Nat) : Nat := if n % 2 = 1 then o.resA else o.resB
/-- The residual region that a round writes. -/
def residWrite (o : Ocr) (n : Nat) : Nat := if n % 2 = 1 then o.resB else o.resA

/-- The job's configuration record, as it stands in storage. -/
def jobOcr (s : State) (addr : Nat) : Option Ocr := (coreRead s addr 128).1.map parseOcr

/-- The panel table (R104). -/
def readPanels (s : State) (o : Ocr) : Option (List Panel) :=
  (List.range o.panels).foldr (fun i acc => match acc, (coreRead s (o.tab + 32 * i) 32).1 with
    | some l, some b => some (parsePanel i b :: l)
    | _, _ => none) (some [])

/-- The configuration and panels that a round operation works under (R108). -/
def hopJob (st : Stream) : HopM (Ocr × List Panel) := fun s =>
  match jobOcr s (nthD 0 st.operand 0) with
  | some o => match readPanels s o with
    | some l => (.ok (o, l), s)
    | none => (.error cCORRUPT, s)
  | none => (.error cCORRUPT, s)

/-- The panel that holds a shard element. -/
def panelOf (l : List Panel) (e : Nat) : Option Panel := l.find? (fun p => decide (p.base ≤ e) && decide (e < p.base + p.rows * p.cols))

/-- Row and column of an element in its panel. -/
def rowCol (p : Panel) (e : Nat) : Nat × Nat := ((e - p.base) / p.cols, (e - p.base) % p.cols)

/-! ### Reading values -/

/-- FP32 values from bytes. -/
def vals32 (bs : List Byte) : List Val := decodeTensor (.float fp32) bs

/-- n FP32 values at an address, for a tile. -/
def readF32 (c : Access) (a n : Nat) : HopM (List Val) := (hopRead c a (4 * n)).andThen fun b => .ret (vals32 b)

/-- Block b of a scaled part of n elements at an address: its scale code and values (R83). -/
def readBlock (c : Access) (el : Elem) (a n b : Nat) : HopM (List Val) :=
  let bits := elemBits el
  let per := groupBlocks bits
  let g := b / per
  let k := b % per
  let inGroup := if n / 32 / per = g then n / 32 % per else per
  let base := a + 4096 * g
  (hopRead c (base + 4 * bits * k) (4 * bits)).andThen fun cs =>
  (hopRead c (base + 4 * bits * inGroup + k) 1).andThen fun sc =>
  .ret ((unpack bits 32 cs).map (decodeElem el (leAt sc 0 1)))

/-- Block b of a W32 part of n elements: its values and its shared-scale byte (R106). -/
def readW32 (c : Access) (a n b : Nat) : HopM (List Val × Nat) :=
  (hopRead c (a + 128 * b) 128).andThen fun cs =>
  (hopRead c (a + 4 * n + b) 1).andThen fun sc =>
  let code := leAt sc 0 1
  .ret ((unpack 32 32 cs).map (fun v => if code = 0xFF then .nan else ofInt (signedOf 32 v) ((code : Int) - 127)), code)

/-- One row of r values of a part, in any of its formats; the Bool says that a granule of it is special (R120). -/
def readRow (c : Access) (o : Ocr) (p : Panel) (x : Part) (row : Nat) : HopM (List Val × Bool) :=
  let cols := partCols p x
  let n := partElems p x
  let a := partAddr o p x
  let blocks := (List.range (cols / 32)).map (fun i => (row * cols) / 32 + i)
  match partFmt x with
  | .f32 => (readF32 c (a + 4 * row * cols) cols).andThen fun l => .ret (l, false)
  | .qf => (HopM.each (fun b => readBlock c (qfmtElem o) a n b) blocks).andThen fun l => .ret (l.flatten, false)
  | .w32 => (HopM.each (fun b => readW32 c a n b) blocks).andThen fun l => .ret (l.flatMap (·.1), l.any (fun y => y.2 == 0xFF))

/-- The element at a position of a direct panel's part. -/
def readElem (c : Access) (o : Ocr) (p : Panel) (x : Part) (k : Nat) : HopM (Val × Bool) :=
  match partFmt x with
  | .w32 => (readW32 c (partAddr o p x) (partElems p x) (k / 32)).andThen fun r => .ret (nthD vzero r.1 (k % 32), r.2 == 0xFF)
  | .qf => (readBlock c (qfmtElem o) (partAddr o p x) (partElems p x) (k / 32)).andThen fun l => .ret (nthD vzero l (k % 32), false)
  | .f32 => (readF32 c (partAddr o p x + 4 * k) 1).andThen fun l => .ret (nthD vzero l 0, false)

/-- Convert a row of values once into a format, block by block (R87, R115). -/
def convertRow (el : Elem) (l : List Val) : List Val :=
  if isScaled el then (pieces 32 l).flatMap (fun b => let e := encodeBlock el none b; e.2.map (decodeElem el e.1))
  else match el with
    | .float f => l.map (fun v => decodeF f (encodeF f false v))
    | _ => l

/-- A generator matrix id (R113). -/
def matId (p : Panel) (k : Nat) : Nat := p.index * 16 + k

/-- Row j of the sketch matrix Ω of a round (R113). -/
def omegaRow (o : Ocr) (p : Panel) (n j : Nat) : List Val :=
  (List.range p.rank).map (fun c => ofInt (genEntry 0 (Nat.xor o.seed (n % 2 ^ 64)) (matId p 0) j c) 0)

/-- Row j of the starting factor (R113). -/
def startRow (o : Ocr) (p : Panel) (j : Nat) : List Val :=
  (List.range p.rank).map (fun c => ofInt (genEntry o.dist o.seed (matId p 1) j c) 0)

/-- The carry columns of a panel whose exact values are all zero (R115). -/
def zeroCols (c : Access) (o : Ocr) (p : Panel) (n : Nat) : HopM (List Bool) :=
  (HopM.each (fun j => readRow c o p (qsOf (n - 1)) j) (List.range p.cols)).andThen fun rows =>
  .ret ((List.range p.rank).map (fun k => rows.all (fun r => isZero (nthD vzero r.1 k))))

/-- Row j of Y as the hop before drew it: Ω, the starting factor, or the carry with its zero columns replaced (R111, R115). -/
def yRow (c : Access) (o : Ocr) (p : Panel) (n draw : Nat) (zero : List Bool) (j : Nat) : HopM (List Val) :=
  if draw = 1 then .ret (omegaRow o p n j)
  else if draw = 2 then .ret (startRow o p j)
  else (readRow c o p (qsOf (n - 1)) j).andThen fun r =>
    .ret ((List.range p.rank).map (fun k =>
      if nthD false zero k then ofInt (genEntry o.dist o.seed (matId p 2) j k) 0 else nthD vzero r.1 k))

end Sys2Proof.Machine
end

