-- ==== Sys2Proof/Machine/Protect.lean ====
section
/-!
DEFINITION. Notices of the mailbox ring (R409), the phases of a round (R19), and the protection of outer state: the partner
mirror (R344) and the change records of the erasure code (R345).
-/
namespace Sys2Proof.Machine

/-- The HEALTH and SITE pages. -/
abbrev pgHLT : Nat := 0xA1
/-- The SITE page. -/
abbrev pgSITE : Nat := 0xA0
/-- The MAILBOX page. -/
abbrev pgMBX : Nat := 0x89

/-- This WG9's node id. -/
def ownNode (s : State) : Nat := fld s R.GLB_NODE 15 0

/-- Write bytes, a multiple of 4, into the MAILBOX page at an offset. -/
def mbxPut : Nat → List Nat → State → State
  | _, [], s => s
  | off, w :: t, s => mbxPut (off + 4) t (setN s (0x89000 + off) w)

/-- Little-endian words of a byte string. -/
def words32 (bs : List Byte) : List Nat := (List.range ((bs.length + 3) / 4)).map (fun i => leAt bs (4 * i) 4)

/-- Mirder posts a notice (R409): written at the ring's tail, or counted lost where the ring is full. -/
def postNotice (s : State) (code round : Nat) : State :=
  let tail := fld s R.MBX_NOTE_TAIL 5 0
  let next := (tail + 1) % 64
  if next = fld s R.MBX_NOTE_HEAD 5 0 then event (bump s R.MBX_NOTE_LOST) pgMBX 2
  else
    let s1 := mbxPut (0x400 + 16 * tail) (words32 (bytesLE 2 code ++ bytesLE 2 s.job.id ++ bytesLE 6 round ++ bytesLE 6 s.tick.now)) s
    irqMessage (event (setFld s1 R.MBX_NOTE_TAIL 5 0 next) pgMBX 1) 0x3DE

/-- A notice to the local job: it carries the round, then the job, the shard index and the site id (R25). -/
def jobNotice (s : State) (kind : MsgKind) (cls round : Nat) (fields : List Nat) : State :=
  let shard := fld s R.HLT_ROLE 9 0 * 8 + fld s R.HLT_ROLE 12 10
  let site := match s.site.tab with
    | some t => (match t.ents[t.self]? with | some e => e.id | none => 0)
    | none => 0
  emit s (.message kind 7 0 cls ([round, s.job.id, shard, site] ++ fields) [])

/-- Mirder opens or closes the outer gate (R161). -/
def outerGate (s : State) (b : Bool) : State := setFlag s R.REG_OUTER_GATE 0 b

/-- Work of a phase has begun on the round in progress (R19). -/
def notePhase (s : State) (round k : Nat) : State :=
  if s.job.held ∧ round = s.job.round ∧ 1 ≤ s.job.phase ∧ s.job.phase ≤ 7 ∧ s.job.aborted.isNone then { s with job := { s.job with phase := k } } else s

/-! ### The protected state, in units (R345) -/

/-- A unit of the code. -/
abbrev unitLen : Nat := 0x400000

/-- Part of a list of segments, from an offset. -/
def segSlice : List (Nat × Nat) → (off len : Nat) → List (Nat × Nat)
  | [], _, _ => []
  | (a, n) :: t, off, len =>
    if n ≤ off then segSlice t (off - n) len
    else
      let k := min len (n - off)
      if k = 0 then [] else (a + off, k) :: segSlice t 0 (len - k)

/-- The segments of the four parts of the protected state after a round: parameters, momentum, residual, carry. -/
def protParts (o : Ocr) (ps : List Panel) (n : Nat) : List (List (Nat × Nat)) :=
  [[(o.outer, 4 * o.elems)], [(o.mom, 4 * o.elems)], [(residWrite o n, 4 * o.elems)],
   if isPower o then (ps.filter (fun p => p.rank != 0)).map (fun p => (partAddr o p (qsOf n), partBytes o p (qsOf n))) else []]

/-- The same parts as they were before the round: in place for the first two. -/
def protOld (o : Ocr) (ps : List Panel) (n : Nat) : List (List (Nat × Nat)) :=
  [[(o.outer, 4 * o.elems)], [(o.mom, 4 * o.elems)], [(residRead o n, 4 * o.elems)],
   if isPower o then (ps.filter (fun p => p.rank != 0)).map (fun p => (partAddr o p (qsOf (n - 1)), partBytes o p (qsOf (n - 1)))) else []]

/-- Bytes of a list of segments. -/
def segsBytes (l : List (Nat × Nat)) : Nat := (l.map (·.2)).sum

/-- Units of each part: each part begins a new unit. -/
def partUnits (o : Ocr) (ps : List Panel) (n : Nat) : List Nat := (protParts o ps n).map (fun l => (segsBytes l + unitLen - 1) / unitLen)

/-- The first unit of a part. -/
def unitBase (o : Ocr) (ps : List Panel) (n part : Nat) : Nat := ((partUnits o ps n).take part).sum

/-- The part that a unit belongs to, and its place in it. -/
def unitPlace : List Nat → Nat → Nat → Option (Nat × Nat)
  | [], _, _ => none
  | k :: t, j, p => if j < k then some (p, j) else unitPlace t (j - k) (p + 1)

/-- Pieces cut at the ends of the regions and slices they run through; a piece that lies in none stays as it is (R160, R225). -/
def cutSegs (s : State) (l : List (Nat × Nat)) : List (Nat × Nat) :=
  l.flatMap (fun x => (spanPieces (regionsNow s) (fun _ => true) (x.2 / 65536 + 65) x.1 x.2).getD [x])

/-- Read parts as Mirder does, unreadable bytes as 0. -/
def readParts0 : List (Nat × Nat) → State → List Byte × State
  | [], s => ([], s)
  | (a, n) :: t, s =>
    let r := coreRead s a n
    let q := readParts0 t r.2
    (r.1.getD (List.replicate n 0) ++ q.1, q.2)

/-- Read segments as Mirder does, across regions and slices. -/
def readSegs0 (l : List (Nat × Nat)) (s : State) : List Byte × State := readParts0 (cutSegs s l) s

/-- Write bytes over parts. -/
def writeParts0 : List (Nat × Nat) → List Byte → State → State
  | [], _, s => s
  | (a, n) :: t, bs, s => writeParts0 t (bs.drop n) (coreWrite s a (bs.take n))

/-- Write bytes over segments, across regions and slices. -/
def writeSegs0 (l : List (Nat × Nat)) (bs : List Byte) (s : State) : State := writeParts0 (cutSegs s l) bs s

/-- Byte by byte exclusive or. -/
def xorBytes : List Byte → List Byte → List Byte
  | [], l => l
  | l, [] => l
  | a :: t, b :: u => (a ^^^ b) :: xorBytes t u

/-- The job's record and panels. -/
def jobParts (s : State) : Option (Ocr × List Panel) :=
  match jobOcr s s.job.ocr with
  | some o => (readPanels s o).map (fun l => (o, l))
  | none => none

/-- This WG9 is a data member: HLT_ROLE.DATA. -/
def isData (s : State) : Bool := s.job.held && flag s R.HLT_ROLE 13

/-- Its group. -/
def ownGroup (s : State) : Option PGroup := s.hlth.groups[fld s R.HLT_ROLE 9 0]?

/-- At the commit of round n its records begin: the residual and the carry are read and wait to be paced; those of the
parameters and momentum come as the apply forms them. -/
def protStart (s : State) (n : Nat) : State :=
  match (if isData s then jobParts s else none) with
  | some (o, ps) =>
    let b := unitBase o ps n 2
    let q := (List.range ((partUnits o ps n).drop 2).sum).map (b + ·)
    { s with hlth := { s.hlth with round := n, staged := [], queue := q, out := [], acked := [], credit := 0, allDone := false } }
  | none => s

/-- The offsets, within units, of a write to a part: unit, offset, bytes. -/
def unitPieces (base : Nat) : Nat → Nat → List Byte → List (Nat × Nat × List Byte)
  | 0, _, _ => []
  | fuel + 1, off, bs =>
    let k := min bs.length (unitLen - off % unitLen)
    if bs.isEmpty then [] else (base + off / unitLen, off % unitLen, bs.take k) :: unitPieces base fuel (off + k) (bs.drop k)

/-- Insert a staged piece in order of its offset. -/
def insPiece (p : Nat × List Byte) : List (Nat × List Byte) → List (Nat × List Byte)
  | [] => [p]
  | q :: t => if p.1 = q.1 then p :: t else if p.1 < q.1 then p :: q :: t else q :: insPiece p t

/-- Stage one piece; a unit that is complete waits for its record to be paced. -/
def stagePiece (len : Nat → Nat) (s : State) (x : Nat × Nat × List Byte) : State :=
  let l := insPiece x.2 (mapGet [] s.hlth.staged x.1)
  let full := (l.map (fun p => p.2.length)).sum == len x.1
  { s with hlth := { s.hlth with staged := mapPut s.hlth.staged x.1 l,
                                 queue := if full && !s.hlth.queue.contains x.1 then s.hlth.queue ++ [x.1] else s.hlth.queue } }

/-- Bytes of a unit. -/
def unitBytes (o : Ocr) (ps : List Panel) (n j : Nat) : Nat :=
  match unitPlace (partUnits o ps n) j 0 with
  | some (p, k) => min unitLen (segsBytes (nthD [] (protParts o ps n) p) - k * unitLen)
  | none => 0

/-- A round operation of the phases before the commit may run: its round is the one in progress (R18, R19). -/
def inRound (s : State) (n : Nat) : Bool :=
  s.job.held && n == s.job.round && decide (1 ≤ s.job.phase) && decide (s.job.phase ≤ 7) && s.job.aborted.isNone

/-! ### Whole results of a round (R19) -/

/-- Join a range to rising ranges that lie apart: those that it meets become one with it. -/
def joinRange (a e : Nat) : List (Nat × Nat) → List (Nat × Nat)
  | [] => [(a, e)]
  | (b, f) :: t => if e < b then (a, e) :: (b, f) :: t else if f < a then (b, f) :: joinRange a e t else joinRange (min a b) (max e f) t

/-- The round in progress has made bytes of a factor part. -/
def noteMade (s : State) (a n : Nat) : State :=
  if n = 0 then s else { s with job := { s.job with made := joinRange a (a + n) s.job.made } }

/-- Ranges that lie apart hold a whole range. -/
def rangeIn (l : List (Nat × Nat)) (a n : Nat) : Bool := n == 0 || l.any (fun x => decide (x.1 ≤ a) && decide (a + n ≤ x.2))

/-- A range that the round has made whole. -/
def madeWhole (s : State) (a n : Nat) : Bool := rangeIn s.job.made a n

/-- The parts that a choice names for each panel of the job are whole. -/
def partsWhole (s : State) (sel : Ocr → Panel → List Part) : Bool :=
  match jobParts s with
  | some (o, ps) => ps.all (fun p => (sel o p).all (fun x => madeWhole s (partAddr o p x) (partBytes o p x)))
  | none => true

/-- The projection of a pass is whole: part x of every projected panel. -/
def projected (s : State) (x : Part) : Bool := partsWhole s (fun _ p => if p.rank = 0 then [] else [x])

/-- The first reduction of the round is whole: LS, and DS of the direct panels. -/
def leftReduced (s : State) : Bool := partsWhole s (fun _ p => if p.rank = 0 then [.ds] else [.ls])

/-- Every reduction of round n is whole. -/
def allReduced (s : State) (n : Nat) : Bool :=
  partsWhole s (fun o p => if p.rank = 0 then [.ds] else if isPower o then [.ls, qsOf n] else [.ls])

/-- Work on the reduced left factor may run (R19, R115). -/
def reduceMay0 (s : State) (n : Nat) : Bool := inRound s n && leftReduced s

/-- The second projection may run: the left factor is orthonormalised whole (R19, R115). -/
def projRightMay (s : State) (n : Nat) : Bool := reduceMay0 s n && projected s .lo

/-- The reconstruction may run (R19). -/
def residualMay (s : State) (n : Nat) : Bool := inRound s n && allReduced s n

/-- QUANT of a pass may run: the exchange of that pass has ended, and none is under way (R19, R117). -/
def quantMay (s : State) (n pass : Nat) : Bool :=
  inRound s n && s.job.areaRound == n && decide (pass ≤ s.job.exchanged)
    && s.coll.active.all (fun r => r.round != n || r.oper != 1 || r.phase == 2 || r.phase == 3)

/-- An exchange of a round may start: the projection of its pass is whole (R19). -/
def exchangeMay (s : State) (n : Nat) : Bool :=
  inRound s n && projected s (match jobParts s with | some (o, _) => if isPower o && s.job.exchanged != 0 then .qp else .lp | none => .lp)

/-- What a request of a round reduces is whole: a quantised part that its input lies in has been quantised (R19). -/
def sourceMay (s : State) (n a len : Nat) : Bool :=
  inRound s n && (match jobParts s with
    | some (o, ps) =>
      !(ps.any (fun p => (partsOf o p).any (fun x => partFmt x == .qf && decide (partAddr o p x ≤ a) && decide (a < partAddr o p x + partBytes o p x))))
        || madeWhole s a len
    | none => true)

/-- APPLY may run: its round is committed and in phase 8 (R20, R119). -/
def applyMay (s : State) (n : Nat) : Bool := s.job.held && n == s.job.commit && s.job.phase == 8

/-- The unit of a part that holds an offset has been written already by the apply of the round: both parity members have acknowledged
its record (R345). An apply that runs again leaves it (R21). -/
def unitDone (s : State) (part round off : Nat) : Bool :=
  isData s && round == s.hlth.round && round == s.job.commit && (match jobParts s with
    | some (o, ps) => s.hlth.acked.contains (unitBase o ps round part + off / unitLen)
    | none => false)

/-- The apply has no unit that still waits to be written (R345). -/
def applySettled (s : State) : Bool := s.hlth.staged.isEmpty && s.hlth.out.all (fun x => x.write.isNone)

/-- The apply's new contents of part 0 or 1 at an offset: staged until both parity members acknowledge the unit's record
(R345), or written at once where the round has no protection under way. Units whose records are sent keep what they were sent with. -/
def protWrite (c : Access) (part round off addr : Nat) (bs : List Byte) : HopM Unit := fun s =>
  if isData s ∧ round = s.hlth.round ∧ round = s.job.commit then
    match jobParts s with
    | some (o, ps) =>
      let open' (u : Nat) : Bool := !s.hlth.acked.contains u && s.hlth.out.all (fun x => x.unit != u)
      (.ok (), ((unitPieces (unitBase o ps round part) (bs.length + 1) off bs).filter (fun x => open' x.1)).foldl (stagePiece (unitBytes o ps round)) s)
    | none => hopWrite c false addr bs s
  else hopWrite c false addr bs s

/-- Phase 7 of a round waits for the records of the residual and carry of the round before (R345). -/
def residMay (s : State) (round : Nat) : Bool :=
  if isData s ∧ round = s.hlth.round + 1 then
    match jobParts s with
    | some (o, ps) =>
      let b := unitBase o ps s.hlth.round 2
      (List.range ((partUnits o ps s.hlth.round).drop 2).sum).all (fun i => s.hlth.acked.contains (b + i))
    | none => true
  else true

/-- Send the change record of a unit to both parity members. -/
def sendChange (s : State) (j : Nat) : State :=
  match jobParts s, ownGroup s with
  | some (o, ps), some g =>
    match unitPlace (partUnits o ps s.hlth.round) j 0 with
    | some (p, k) =>
      let len := unitBytes o ps s.hlth.round j
      let slice (l : List (List (Nat × Nat))) := segSlice (nthD [] l p) (k * unitLen) len
      let r := readSegs0 (slice (protOld o ps s.hlth.round)) s
      let fresh := if p < 2 then ((mapGet [] s.hlth.staged j).flatMap (·.2), r.2) else readSegs0 (slice (protParts o ps s.hlth.round)) r.2
      let delta := xorBytes r.1 fresh.1
      let pos := fld s R.HLT_ROLE 12 10
      let send (a : State) (nd q : Nat) := emit a (.message .changeRecord 7 nd 5 [s.hlth.round, fld s R.HLT_ROLE 9 0, pos, j, q] delta)
      let s1 := send (send fresh.2 g.p 0) g.q 1
      { s1 with hlth := { s1.hlth with staged := mapDel s1.hlth.staged j,
                                       out := s1.hlth.out ++ [{ unit := j, want := [g.p, g.q], write := if p < 2 then some fresh.1 else none }] } }
    | none => s
  | _, _ => s

/-- Send the records that the pace allows. -/
def paceSend : Nat → State → State
  | 0, s => s
  | fuel + 1, s =>
    match s.hlth.queue with
    | [] => { s with hlth := { s.hlth with credit := 0 } }
    | j :: t =>
      if unitLen ≤ s.hlth.credit then
        paceSend fuel (sendChange { s with hlth := { s.hlth with queue := t, credit := s.hlth.credit - unitLen } } j)
      else s

/-- The records of one tick, at HLT_HOIST_RATE bytes (R345). -/
def protPace (s : State) : State :=
  if s.hlth.queue.isEmpty then s
  else paceSend (s.hlth.queue.length + 1) { s with hlth := { s.hlth with credit := s.hlth.credit + fld s R.HLT_HOIST_RATE 23 0 } }

/-- Round n's protection is complete for the group: HLT_PROT shows it. -/
def protDone (s : State) : State :=
  match jobParts s with
  | some (o, ps) =>
    if s.hlth.allDone ∧ (partUnits o ps s.hlth.round).sum ≤ s.hlth.acked.length then set64 s R.HLT_PROT_LO R.HLT_PROT_HI s.hlth.round else s
  | none => s

/-- CHANGE_RECORD_ACK (R345): both acknowledged, the unit's new contents are written. -/
def changeAckOp (s : State) (node unit round : Nat) (all : Bool) : State :=
  if round ≠ s.hlth.round then s
  else
    let s0 := { s with hlth := { s.hlth with allDone := s.hlth.allDone || all } }
    match s0.hlth.out.find? (fun x => x.unit == unit && x.want.contains node), jobParts s0 with
    | some x, some (o, ps) =>
      let y := { x with want := x.want.filter (· ≠ node) }
      if y.want.isEmpty then
        let s1 := { s0 with hlth := { s0.hlth with out := s0.hlth.out.filter (fun z => z.unit != unit), acked := insNat s0.hlth.acked unit } }
        let s2 := match x.write, unitPlace (partUnits o ps round) unit 0 with
          | some bs, some (p, k) => writeSegs0 (segSlice (nthD [] (protParts o ps round) p) (k * unitLen) bs.length) bs s1
          | _, _ => s1
        protDone s2
      else { s0 with hlth := { s0.hlth with out := s0.hlth.out.map (fun z => if z.unit = unit then y else z) } }
    | _, _ => protDone s0

/-- A parity member applies a change record and acknowledges it (R345): P ⊕= δ, or Q ⊕= α^i · δ. -/
def changeRecordOp (s : State) (node group : Nat) (q : Bool) (pos unit round : Nat) (delta : List Byte) : State :=
  match s.hlth.groups[group]? with
  | some g =>
    if (if q then g.q else g.p) ≠ ownNode s then s
    else
      let old := (s.hlth.parity.find? (fun x => x.group == group && x.q == q && x.unit == unit)).getD
        { group := group, q := q, unit := unit, rounds := List.replicate 8 0, data := [] }
      let d := if q then delta.map (fun b => BitVec.ofNat 8 (rsMul (rsPow pos) b.toNat)) else delta
      let new := { old with rounds := setAt 0 old.rounds pos round, data := xorBytes old.data d }
      let rest := s.hlth.parity.filter (fun x => !(x.group == group && x.q == q && x.unit == unit))
      emit { s with hlth := { s.hlth with parity := new :: rest } } (.message .changeAck 7 node 5 [unit, round] [])
  | none => s

/-! ### The mirror (R344) -/

/-- The partner, 0 when none. -/
def partner (s : State) : Nat := fld s R.HLT_PARTNER 15 0

/-- MIRROR_OK as it stands. -/
def mirrorFlag (s : State) : State := setFlag s R.HLT_PARTNER 16 s.hlth.mirOut.isEmpty

/-- Send hot state to the partner: a chunk or a tile of the residual. -/
def mirrorSend (s : State) (resid : Bool) (index crc : Nat) (hdr data : List Byte) : State :=
  let s1 := emit s (.message .mirror 7 (partner s) 5 [s.job.round, ofBool resid, index, crc] (hdr ++ data))
  mirrorFlag { s1 with hlth := { s1.hlth with mirOut := s1.hlth.mirOut ++ [(resid, index)] } }

/-- A tile of the new residual is mirrored (R344), and counted towards the end of phase 7. -/
def residFormed (round e n : Nat) (bs : List Byte) : HopM Unit := fun s =>
  if s.job.held ∧ round = s.job.round then
    let s1 := { s with job := { s.job with residDone := s.job.residDone + n } }
    (.ok (), if isData s1 ∧ partner s1 ≠ 0 then mirrorSend s1 true e (crc64 bs) [] bs else s1)
  else (.ok (), s)

/-- An acknowledgement of the partner. -/
def mirrorAckOp (s : State) (resid : Bool) (index : Nat) : State :=
  if s.hlth.mirOut.contains (resid, index) then
    mirrorFlag { s with hlth := { s.hlth with mirOut := s.hlth.mirOut.erase (resid, index) } }
  else s

/-- A partner receives hot state (R344): its check is verified, it is stored and acknowledged. The mirror of a round is kept
until hot state of the second round after it comes. -/
def mirrorReceiveOp (s : State) (node round : Nat) (resid : Bool) (index crc : Nat) (hdr data : List Byte) : State :=
  if crc64 (hdr ++ data) = crc then
    let x : Mirrored := { node := node, round := round, resid := resid, index := index, data := data }
    let keep := s.hlth.held.filter (fun y => !(y.node == node && (decide (y.round + 2 ≤ round) || (y.round == round && y.resid == resid && y.index == index))))
    emit { s with hlth := { s.hlth with held := x :: keep } } (.message .mirrorAck 7 node 5 [round, ofBool resid, index] [])
  else s

end Sys2Proof.Machine
end

