-- ==== Sys2Proof/Machine/Arith.lean ====
section
/-!
DEFINITION. The operations of MATRIX, VECTOR and PROJECT (R109 to R126) as the work of a hop.
-/
namespace Sys2Proof.Machine

/-! ### Rounding sums -/

/-- Count the elements of a rounded sum that overflow (R86, GLB page). -/
def countOvf (el : Elem) (l : List Val) : HopM Unit := hopDo (fun s => bumpBy s R.ARITH_OVF_CNT (sumOverflows el l))

/-- Encode the sums that an operation forms. -/
def encodeSums (el : Elem) (l : List Val) : HopM (List Byte) := (countOvf el l).andThen fun _ => .ret (encodeTensor el l)

/-- The key of an accumulator: 0 LP, 1 QP, 2 GM, of an element of a panel. -/
def accKey (kind panel elem : Nat) : Nat := kind * 2 ^ 100 + panel * 2 ^ 64 + elem

/-- Add one product term to a partial sum kept exact across tiles; when its last term has arrived, the sum rounded once to
FP32 (R115). -/
def addTerm (key total : Nat) (v : Val) : HopM (Option Val) := fun s =>
  let l := mapGet [] s.job.acc key ++ [v]
  if total ≤ l.length then
    let s1 := { s with job := { s.job with acc := mapDel s.job.acc key } }
    let r := exactSum l
    (.ok (some (round32 r)), if overflows fp32 r then bump s1 R.ARITH_OVF_CNT else s1)
  else (.ok none, { s with job := { s.job with acc := mapPut s.job.acc key l } })

/-- Add terms at accumulators: the sums that are complete, each with its address. -/
def addTerms (total : Nat) : List (Nat × Nat × Val) → HopM (List (Nat × List Byte))
  | [] => .ret []
  | (key, addr, v) :: t => (addTerm key total v).andThen fun r =>
    (addTerms total t).andThen fun l => .ret (match r with | some x => (addr, encodeTensor (.float fp32) [x]) :: l | none => l)

/-- Write pieces of the round's factor parts: none unless each may be written (R160), and then they are made (R19). -/
def writeMade (c : Access) (l : List (Nat × List Byte)) : HopM Unit :=
  (hopWriteAll c false l).andThen fun _ => hopDo (fun s => l.foldl (fun a x => noteMade a x.1 x.2.length) s)

/-- The work waits until a condition on the part holds (R19). -/
def hopMay (f : State → Bool) : HopM Unit := (hopGet f).andThen fun b => hopReq b cWAIT

/-! ### The elements of a tile (R108) -/

/-- The first element and the number of elements of an element operation's tile. -/
def tileElems (o : Ocr) (t : Tile) : HopM (Nat × Nat) :=
  if refForm t.desc.src ≠ 0 ∨ t.desc.src < o.snap ∨ (t.desc.src - o.snap) % 2 ≠ 0 ∨ t.desc.len % 2 ≠ 0 then hopFail cPOLICY
  else
    let e := (t.desc.src - o.snap) / 2
    let n := t.desc.len / 2
    if o.elems < e + n then hopFail cPOLICY else .ret (e, n)

/-- The runs of a tile's elements by panel: panel, first element, count. -/
def panelRuns (l : List Panel) (e n : Nat) : List (Panel × Nat × Nat) :=
  l.filterMap (fun p =>
    let lo := max e p.base
    let hi := min (e + n) (p.base + p.rows * p.cols)
    if lo < hi then some (p, lo, hi - lo) else none)

/-- Widen a run to the whole 32-element blocks of the shard that it touches, within its panel. -/
def blockRun (r : Panel × Nat × Nat) : Panel × Nat × Nat :=
  let lo := max r.1.base (r.2.1 / 32 * 32)
  (r.1, lo, min (r.1.base + r.1.rows * r.1.cols) ((r.2.1 + r.2.2 + 31) / 32 * 32) - lo)

/-- The elements of a run that lie in the tile. -/
def clipRun (en : Nat × Nat) (r : Panel × Nat × List Val) : Panel × Nat × List Val :=
  let lo := max en.1 r.2.1
  (r.1, lo, (r.2.2.drop (lo - r.2.1)).take (en.1 + en.2 - lo))

/-- The format in which a panel's Δ travels (R112, R117). -/
def deltaElem (o : Ocr) (p : Panel) : Elem := if p.rank = 0 then .float fp32 else pfmtElem o

/-- The runs whose Δ a tile forms: under a format with block scales a block takes its scale from all its values, so a run is widened to
whole blocks; under another format they are the tile's own elements (R112). -/
def deltaSpans (o : Ocr) (l : List Panel) (en : Nat × Nat) : List (Panel × Nat × Nat) :=
  (panelRuns l en.1 en.2).map (fun r => if isScaled (deltaElem o r.1) then blockRun r else r)

/-- Encode a tile's Δ, run by run. -/
def encodeDelta (o : Ocr) (l : List (Panel × Nat × List Val)) : List Byte := l.flatMap (fun r => encodeTensor (deltaElem o r.1) r.2.2)

/-- Count the sums of a tile's own elements of Δ that overflow their format, run by run (R86). -/
def countDelta (o : Ocr) (en : Nat × Nat) (l : List (Panel × Nat × List Val)) : HopM Unit :=
  (HopM.each (fun r => countOvf (deltaElem o r.1) (clipRun en r).2.2) l).andThen fun _ => .ret ()

/-- Decode a tile's Δ: each run with its values. -/
def decodeDelta (o : Ocr) : List (Panel × Nat × Nat) → List Byte → List (Panel × Nat × List Val)
  | [], _ => []
  | (p, lo, n) :: t, bs =>
    let k := tensorBytes (deltaElem o p) n
    (p, lo, decodeTensor (deltaElem o p) (bs.take k)) :: decodeDelta o t (bs.drop k)

/-- The three sources of Δ for a tile's elements: θ, s, e (R112). -/
def deltaTerms (c : Access) (o : Ocr) (n e cnt : Nat) : HopM (List (List Val)) :=
  (readF32 c (o.outer + 4 * e) cnt).andThen fun th =>
  (hopRead c (o.snap + 2 * e) (2 * cnt)).andThen fun sb =>
  (readF32 c (residRead o n + 4 * e) cnt).andThen fun re =>
  let sn := decodeTensor (.float bf16) sb
  .ret ((th.zip (sn.zip re)).map (fun x => [x.1, negVal x.2.1, x.2.2]))

/-- The round in progress has staged n bytes at an address: the clusters in whose scratchpad they lie hold its data (R165). -/
def noteStaged (round a n : Nat) (s : State) : State :=
  if n ≠ 0 ∧ directBase ≤ a ∧ placeOf a < 8 ∧ inRound s round then
    let first := placeOff a / 0x400000
    let l := (List.range ((placeOff a + n - 1) / 0x400000 - first + 1)).map (fun i => placeOf a * 40 + first + i)
    { s with job := { s.job with staged := l.foldl insNat s.job.staged } }
  else s

/-- Write a tile's output into its staging at DST, whatever hop follows (R108, R112). -/
def stageOut (c : Access) (t : Tile) (bs : List Byte) : HopM Unit :=
  if refForm t.desc.dst ≤ 1 ∧ t.desc.dst ≠ 0 then
    (refAddr t.desc.dst).andThen fun p => (refWrite c t.desc.dst bs).andThen fun _ => hopDo (noteStaged c.round p.1 bs.length)
  else .ret ()

/-- Δ goes to scratchpad at DST and never to HBM (R112). -/
def stageDelta (c : Access) (t : Tile) (bs : List Byte) : HopM Unit :=
  if t.desc.dst = 0 ∨ 2 ≤ refForm t.desc.dst then .ret ()
  else if refForm t.desc.dst = 0 ∧ directBase ≤ t.desc.dst % 2 ^ 46 then
    (hopWrite c false (t.desc.dst % 2 ^ 46) bs).andThen fun _ => hopDo (noteStaged c.round (t.desc.dst % 2 ^ 46) bs.length)
  else hopFail cPOLICY

/-- The exact values of Δ over a run of a panel (R112). -/
def deltaRun (c : Access) (o : Ocr) (n : Nat) (r : Panel × Nat × Nat) : HopM (Panel × Nat × List Val) :=
  (deltaTerms c o n r.2.1 r.2.2).andThen fun t => .ret (r.1, r.2.1, t.map exactSum)

/-- FORM_DELTA (R112). -/
def formDeltaWork (st : Stream) (t : Tile) : HopM Tile :=
  let c := accessOf st t
  (hopMay (fun s => inRound s t.desc.round)).andThen fun _ =>
  (hopDo (fun s => notePhase s t.desc.round 2)).andThen fun _ =>
  (hopJob st).andThen fun j =>
  (tileElems j.1 t).andThen fun en =>
  (HopM.each (deltaRun c j.1 t.desc.round) (deltaSpans j.1 j.2 en)).andThen fun l =>
  let bs := encodeDelta j.1 l
  (countDelta j.1 en l).andThen fun _ =>
  (stageDelta c t bs).andThen fun _ => .ret { t with data := some bs, outLen := bs.length }

/-! ### Projection (R111, R114, R115) -/

/-- The rows of the right operand that a run of a panel's elements needs: one for each column of the panel that it touches. -/
def neededRows (p : Panel) (lo n : Nat) : List Nat :=
  if p.cols ≤ n then List.range p.cols else (List.range n).map (fun i => (lo - p.base + i) % p.cols)

/-- The rows that a PROJECT hop draws for a run, converted once into PFMT (R111, R115). -/
def drawRun (c : Access) (o : Ocr) (n op : Nat) (r : Panel × Nat × Nat) : HopM (List (Nat × Nat × List Val)) :=
  if r.1.rank = 0 then .ret []
  else
    (if op = 3 then zeroCols c o r.1 n else .ret []).andThen fun zero =>
    HopM.each (fun j => (yRow c o r.1 n op zero j).andThen fun y => .ret (r.1.index, j, convertRow (pfmtElem o) y)) (neededRows r.1 r.2.1 r.2.2)

/-- A PROJECT hop: what it draws stands beside the tile for the next hop (R111). DESIGN CHOICE (222): the manual gives the rows no
address; the model keeps them with the tile. -/
def drawWork (op : Nat) (st : Stream) (t : Tile) : HopM Tile :=
  (hopMay (fun s => inRound s t.desc.round || applyMay s t.desc.round)).andThen fun _ =>
  (hopJob st).andThen fun j =>
  (tileElems j.1 t).andThen fun en =>
  (HopM.each (drawRun (accessOf st t) j.1 t.desc.round op) (panelRuns j.2 en.1 en.2)).andThen fun l =>
  .ret { t with draw := some op, rows := l.flatten, outLen := t.desc.len }

/-- A row that a PROJECT hop placed beside the tile. -/
def drawnRow (rows : List (Nat × Nat × List Val)) (p : Panel) (j : Nat) : Option (List Val) :=
  (rows.find? (fun y => y.1 == p.index && y.2.1 == j)).map (·.2.2)

/-- The product terms of one element with a row, at the accumulators of a row of LP or QP. -/
def rowTerms (kind : Nat) (p : Panel) (base accRow : Nat) (d : Val) (row : List Val) : List (Nat × Nat × Val) :=
  row.zipIdx.map (fun y => (accKey kind p.index (accRow * p.rank + y.2), base + 4 * (accRow * p.rank + y.2), mulVal d y.1))

/-- PROJ_LEFT on one run: LP += Δ·Y, with the rows of Y that stand beside the tile (R114, R115). -/
def projLeftRun (o : Ocr) (rows : List (Nat × Nat × List Val)) (r : Panel × Nat × List Val) : HopM (List (Nat × List Byte)) :=
  let (p, lo, vals) := r
  if p.rank = 0 then .ret []
  else
    (HopM.each (fun (x : Val × Nat) =>
      let (i, jj) := rowCol p (lo + x.2)
      addTerms p.cols (rowTerms 0 p (partAddr o p .lp) i x.1 ((drawnRow rows p jj).getD []))) vals.zipIdx).andThen fun l => .ret l.flatten

/-- The rows for a PROJ_LEFT tile: those beside it. DESIGN CHOICE (220): where no PROJECT hop came before in its route, those that the
method's PROJECT operation would have drawn: the sketch, the starting factor in the job's first round, the carry in the others. -/
def leftRows (c : Access) (j : Ocr × List Panel) (t : Tile) (en : Nat × Nat) : HopM (List (Nat × Nat × List Val)) :=
  if t.draw.isSome then .ret t.rows
  else
    (hopGet (fun s => s.job.first)).andThen fun first =>
    let op := if isPower j.1 then (if t.desc.round = first then 2 else 3) else 1
    (HopM.each (drawRun c j.1 t.desc.round op) (panelRuns j.2 en.1 en.2)).andThen fun l => .ret l.flatten

/-- The Δ of a tile's elements, run by run, from what the hop before handed on. -/
def deltaRuns (j : Ocr × List Panel) (en : Nat × Nat) (bs : List Byte) : List (Panel × Nat × List Val) :=
  (decodeDelta j.1 (deltaSpans j.1 j.2 en) bs).map (clipRun en)

/-- PROJ_LEFT. -/
def projLeftWork (st : Stream) (t : Tile) : HopM Tile :=
  let c := accessOf st t
  (hopMay (fun s => inRound s t.desc.round)).andThen fun _ =>
  (hopDo (fun s => notePhase s t.desc.round 3)).andThen fun _ =>
  (hopJob st).andThen fun j =>
  (tileElems j.1 t).andThen fun en =>
  (hopInput c t).andThen fun bs =>
  (leftRows c j t en).andThen fun rows =>
  (HopM.each (projLeftRun j.1 rows) (deltaRuns j en bs)).andThen fun l =>
  (writeMade c l.flatten).andThen fun _ => .ret t

/-- PROJ_RIGHT on one run: QP += Δᵀ·LO (R115). -/
def projRightRun (c : Access) (o : Ocr) (r : Panel × Nat × List Val) : HopM (List (Nat × List Byte)) :=
  let (p, lo, vals) := r
  if p.rank = 0 then .ret []
  else
    (HopM.each (fun (x : Val × Nat) =>
      let (i, jj) := rowCol p (lo + x.2)
      (readRow c o p .lo i).andThen fun l =>
        addTerms p.rows (rowTerms 1 p (partAddr o p .qp) jj x.1 (convertRow (pfmtElem o) l.1))) vals.zipIdx).andThen fun l => .ret l.flatten

/-- PROJ_RIGHT. -/
def projRightWork (st : Stream) (t : Tile) : HopM Tile :=
  let c := accessOf st t
  (hopMay (fun s => projRightMay s t.desc.round)).andThen fun _ =>
  (hopDo (fun s => notePhase s t.desc.round 3)).andThen fun _ =>
  (hopJob st).andThen fun j =>
  (tileElems j.1 t).andThen fun en =>
  (hopInput c t).andThen fun bs =>
  (HopM.each (projRightRun c j.1) (deltaRuns j en bs)).andThen fun l =>
  (writeMade c l.flatten).andThen fun _ => .ret t

/-! ### Reconstruction terms (R118, R119) -/

/-- A special granule stops the round, and the job holds: an apply under way too (R120). -/
def flagSpecial (s : State) (round : Nat) : State :=
  if applyMay s round && s.job.aborted.isNone then { s with job := { s.job with abortDue := some (round, true) } } else flagAbort s round true

/-- ARITH_SPECIAL: a special granule of a reduced factor ends the tile ABORTED_ROUND (R120). -/
def specialAbort {α : Type} (round : Nat) : HopM α :=
  (hopDo (fun s => flagSpecial (raise s 0x00 fARITH_SPECIAL 0 round) round)).andThen fun _ => hopFail cABORTED

/-- The product terms of one element from a left row and a right row, scaled by a power of two. -/
def dotTerms (l r : List Val) (x : Int) : List Val := (l.zip r).map (fun y => scaleVal (mulVal y.1 y.2) x)

/-- The terms of L (or of V, with the reduced parts) for element (i, j) of a panel (R118, R119). The row of Ω is the one that
DRAW_SKETCH placed beside the tile; where none came before, it is drawn here (220). -/
def reconTerms (c : Access) (o : Ocr) (p : Panel) (rows : List (Nat × Nat × List Val)) (round i jj : Nat) (reduced : Bool) : HopM (List Val) :=
  if p.rank = 0 then
    (readElem c o p (if reduced then .ds else .dq) (i * p.cols + jj)).andThen fun v =>
      if v.2 then specialAbort round else .ret [v.1]
  else if isPower o then
    (readRow c o p .lo i).andThen fun b =>
    (readRow c o p (if reduced then qsOf round else .qq) jj).andThen fun q =>
      if q.2 then specialAbort round else .ret (dotTerms (convertRow (.float bf16) b.1) q.1 0)
  else
    (readRow c o p (if reduced then .ls else .lq) i).andThen fun l =>
      if l.2 then specialAbort round
      else .ret (dotTerms l.1 ((drawnRow rows p jj).getD (omegaRow o p round jj)) (-(Nat.log2 p.rank : Int)))

/-- A granule of the round's reduced factors that stands behind element (i, j) of a panel is special (R120). -/
def reducedSpecial (c : Access) (o : Ocr) (p : Panel) (round i jj : Nat) : HopM Bool :=
  if p.rank = 0 then (readElem c o p .ds (i * p.cols + jj)).andThen fun v => .ret v.2
  else if isPower o then (readRow c o p (qsOf round) jj).andThen fun q => .ret q.2
  else (readRow c o p .ls i).andThen fun l => .ret l.2

/-- One element of the new residual: its exact sum (R118), its reduced granule checked first (R120). -/
def residElem (c : Access) (j : Ocr × List Panel) (t : Tile) (e : Nat) (terms : List Val) : HopM Val :=
  match panelOf j.2 e with
  | none => hopFail cPOLICY
  | some p =>
    let (i, jj) := rowCol p e
    (reducedSpecial c j.1 p t.desc.round i jj).andThen fun sp =>
    if sp then specialAbort t.desc.round
    else (reconTerms c j.1 p t.rows t.desc.round i jj false).andThen fun l => .ret (exactSum (terms ++ l.map negVal))

/-- RESIDUAL (R118). -/
def residualWork (st : Stream) (t : Tile) : HopM Tile :=
  let c := accessOf st t
  (hopMay (fun s => residualMay s t.desc.round && residMay s t.desc.round)).andThen fun _ =>
  (hopDo (fun s => notePhase s t.desc.round 7)).andThen fun _ =>
  (hopJob st).andThen fun j =>
  let o := j.1
  (tileElems o t).andThen fun en =>
  (deltaTerms c o t.desc.round en.1 en.2).andThen fun terms =>
  (HopM.each (fun (x : List Val × Nat) => residElem c j t (en.1 + x.2) x.1) terms.zipIdx).andThen fun res =>
  (encodeSums (.float fp32) res).andThen fun bs =>
  (hopWrite c false (residWrite o t.desc.round + 4 * en.1) bs).andThen fun _ =>
  (residFormed t.desc.round en.1 en.2 bs).andThen fun _ => .ret { t with outLen := bs.length }

/-- The exact sums of APPLY on one element: of u′, and of θ′ given u′ (R119). -/
def momSum (mu u d : Val) : Val := exactSum [mulVal mu u, d]
/-- The sum of θ′. -/
def thetaSum (mu eta th d u1 : Val) : Val := exactSum [th, negVal (mulVal eta d), negVal (mulVal (mulVal eta mu) u1)]

/-- One element of APPLY (R119): (θ′, u′), and the sums that were rounded. A value that an apply of the round has written already stays
(R21, R345). -/
def applyElem (mu eta th u v : Val) (n : Nat) (thDone uDone : Bool) : (Val × Val) × List Val :=
  let d := round32 (divVal v (ofInt n 0))
  let ue := momSum mu u d
  let u1 := if uDone then u else round32 ue
  let te := thetaSum mu eta th d u1
  ((if thDone then th else round32 te, u1), (if uDone then [] else [ue]) ++ (if thDone then [] else [te]))

/-- APPLY (R119): the outer step in place, and BF16 parameters to DST; only in phase 8 of a committed round. -/
def applyWork (st : Stream) (t : Tile) : HopM Tile :=
  let c := accessOf st t
  (hopMay (fun s => applyMay s t.desc.round)).andThen fun _ =>
  (hopJob st).andThen fun j =>
  let o := j.1
  (tileElems o t).andThen fun en =>
  (readF32 c (o.outer + 4 * en.1) en.2).andThen fun th =>
  (readF32 c (o.mom + 4 * en.1) en.2).andThen fun us =>
  (hopGet (fun s => s.job.contributors)).andThen fun cnt =>
  (HopM.each (fun (x : (Val × Val) × Nat) =>
    match panelOf j.2 (en.1 + x.2) with
    | none => hopFail cPOLICY
    | some p =>
      let (i, jj) := rowCol p (en.1 + x.2)
      (hopGet (fun s => (unitDone s 0 t.desc.round (4 * (en.1 + x.2)), unitDone s 1 t.desc.round (4 * (en.1 + x.2))))).andThen fun dn =>
      (if dn.1 && dn.2 then .ret [] else reconTerms c o p t.rows t.desc.round i jj true).andThen fun l =>
        .ret (applyElem (decodeF fp32 o.mu) (decodeF fp32 o.eta) x.1.1 x.1.2 (exactSum l) cnt dn.1 dn.2)) (th.zip us).zipIdx).andThen fun out =>
  let res := out.map (·.1)
  (hopKey c true false (o.outer + 4 * en.1) (4 * en.2)).andThen fun _ =>
  (hopKey c true false (o.mom + 4 * en.1) (4 * en.2)).andThen fun _ =>
  (outputMay c st t (2 * en.2)).andThen fun _ =>
  (countOvf (.float fp32) (out.flatMap (·.2))).andThen fun _ =>
  (protWrite c 0 t.desc.round (4 * en.1) (o.outer + 4 * en.1) (encodeTensor (.float fp32) (res.map (·.1)))).andThen fun _ =>
  (protWrite c 1 t.desc.round (4 * en.1) (o.mom + 4 * en.1) (encodeTensor (.float fp32) (res.map (·.2)))).andThen fun _ =>
  hopOutput c st t (encodeTensor (.float bf16) (res.map (·.1)))

/-! ### Factor operations (R116, R117) -/

/-- The panel, part and byte offset that an address lies in. -/
def locatePart (o : Ocr) (l : List Panel) (a : Nat) : Option (Panel × Part × Nat) :=
  (l.flatMap (fun p => (partsOf o p).map (fun x => (p, x)))).findSome? (fun y =>
    let b := partAddr o y.1 y.2
    if b ≤ a ∧ a < b + partBytes o y.1 y.2 then some (y.1, y.2, a - b) else none)

/-- The rows that a factor tile covers: whole rows of a part (R108); else it is refused. -/
def tileRows (o : Ocr) (l : List Panel) (t : Tile) : HopM (Panel × Part × Nat × Nat) :=
  if refForm t.desc.src ≠ 0 then hopFail cPOLICY
  else match locatePart o l t.desc.src with
    | none => hopFail cPOLICY
    | some (p, x, off) =>
      let row := 4 * partCols p x
      if off % row ≠ 0 ∨ t.desc.len % row ≠ 0 then hopFail cPOLICY
      else .ret (p, x, off / row, t.desc.len / row)

/-- A run of a direct panel's Δ widened to whole blocks: what lies outside the tile is formed afresh, in FP32 (R19, R112, R117). -/
def wholeBlocks (c : Access) (o : Ocr) (n : Nat) (r : Panel × Nat × List Val) : HopM (Panel × Nat × List Val) :=
  let w := blockRun (r.1, r.2.1, r.2.2.length)
  let hi := r.2.1 + r.2.2.length
  (deltaRun c o n (r.1, w.2.1, r.2.1 - w.2.1)).andThen fun pre =>
  (deltaRun c o n (r.1, hi, w.2.1 + w.2.2 - hi)).andThen fun post =>
  .ret (r.1, w.2.1, pre.2.2.map round32 ++ r.2.2 ++ post.2.2.map round32)

/-- The part of the job's factor area that a tile's SRC lies in. -/
def tilePart (s : State) (t : Tile) : Option Part :=
  match jobParts s with
  | some (o, ps) => (locatePart o ps t.desc.src).map (·.2.1)
  | none => none

/-- EXPREC may run: its round is in progress, and the projection that it records is whole (R19). -/
def exprecMay (s : State) (t : Tile) : Bool :=
  inRound s t.desc.round && (match tilePart s t with | some .lp => projected s .lp | some .qp => projected s .qp | _ => true)

/-- The pass that a QUANT tile belongs to: the second quantises QP (R115). -/
def tilePass (s : State) (t : Tile) : Nat := match tilePart s t with | some .qp => 2 | _ => 1

/-- The blocks, of 32 values, that EXPREC and QUANT work on: panel, the quantised part they go to, first block, values. Of a Δ tile, the
runs of direct panels alone have DQ (R117). -/
def factorBlocks (c : Access) (o : Ocr) (l : List Panel) (t : Tile) : HopM (List (Panel × Part × Nat × List (List Val))) :=
  match t.data with
  | some bs =>
    (tileElems o t).andThen fun en =>
    (HopM.each (wholeBlocks c o t.desc.round) ((decodeDelta o (deltaSpans o l en) bs).filter (fun r => r.1.rank == 0))).andThen fun rs =>
    .ret (rs.map (fun r => (r.1, Part.dq, (r.2.1 - r.1.base) / 32, pieces 32 r.2.2)))
  | none =>
    (tileRows o l t).andThen fun r =>
    let (p, x, row, n) := r
    if x ≠ .lp ∧ x ≠ .qp then hopFail cPOLICY
    else (readF32 c (partAddr o p x + 4 * row * p.rank) (n * p.rank)).andThen fun v =>
      .ret [(p, if x = .lp then Part.lq else Part.qq, row * p.rank / 32, pieces 32 v)]

/-- EXPREC (R117): one exponent record for each block. -/
def exprecWork (st : Stream) (t : Tile) : HopM Tile :=
  let c := accessOf st t
  (hopMay (fun s => exprecMay s t)).andThen fun _ =>
  (hopJob st).andThen fun j =>
  (factorBlocks c j.1 j.2 t).andThen fun l =>
  let bs := l.flatMap (fun r => r.2.2.2.flatMap (fun b => bytesLE 2 (exponentRecord b)))
  (stageOut c t bs).andThen fun _ => .ret { t with data := some bs, outLen := bs.length }

/-- The part of a panel that a reduction takes beside part x of another: the first reduction takes LQ of the projected panels and DQ of
the direct ones, the second QQ of the projected ones (R117). -/
def besidePart (x : Part) (q : Panel) : Option Part :=
  if x = .qq then (if q.rank = 0 then none else some .qq) else some (if q.rank = 0 then .dq else .lq)

/-- Where a part's blocks begin among the entries of the combined record area: after those of the panels before it that the same
reduction takes (R117). DESIGN CHOICE (241): the panels come in the order of the panel table, LQ with DQ in one area and QQ in its own. -/
def entryBase (l : List Panel) (p : Panel) (x : Part) : Nat :=
  ((l.filter (fun q => decide (q.index < p.index))).map (fun q => match besidePart x q with | some y => partElems q y / 32 | none => 0)).sum

/-- The record agreed for a block (R97, R117). DESIGN CHOICE (241): it stands in the combined area that the round's last exchange wrote. -/
def agreedRecord (c : Access) (entry : Nat) : HopM Nat :=
  (hopGet (fun s => s.job.area)).andThen fun a =>
  (hopRead c (a + 32 + 2 * entry) 2).andThen fun b => .ret (leAt b 0 2)

/-- Quantise one block with the agreed scale (R97, R117). -/
def quantBlock (o : Ocr) (record : Nat) (b : List Val) : Nat × List Nat :=
  if recSpecial record ≠ 0 then (0xFF, b.map (fun _ => 0))
  else encodeBlock (qfmtElem o) (if recEmax record = -8192 then none else some (recEmax record - qEmax o)) b

/-- Where one quantised block lies in its part, and its bytes; the last block of a full group brings the group's padding (R83). -/
def blockPieces (o : Ocr) (p : Panel) (x : Part) (b : Nat) (q : Nat × List Nat) : List (Nat × List Byte) :=
  let bits := elemBits (qfmtElem o)
  let per := groupBlocks bits
  let n := partElems p x
  let inGroup := if n / 32 / per = b / per then n / 32 % per else per
  let base := partAddr o p x + 4096 * (b / per)
  let pad := if inGroup = per ∧ b % per + 1 = per then List.replicate (4096 - per * (4 * bits + 1)) 0 else []
  [(base + 4 * bits * (b % per), pack bits q.2), (base + 4 * bits * inGroup + b % per, bytesLE 1 q.1 ++ pad)]

/-- QUANT (R117). -/
def quantWork (st : Stream) (t : Tile) : HopM Tile :=
  let c := accessOf st t
  (hopMay (fun s => quantMay s t.desc.round (tilePass s t))).andThen fun _ =>
  (hopDo (fun s => notePhase s t.desc.round 5)).andThen fun _ =>
  (hopJob st).andThen fun j =>
  let o := j.1
  (factorBlocks c o j.2 t).andThen fun l =>
  (HopM.each (fun (r : Panel × Part × Nat × List (List Val)) =>
    let (p, x, b0, bl) := r
    HopM.each (fun (y : List Val × Nat) =>
      (agreedRecord c (entryBase j.2 p x + b0 + y.2)).andThen fun rec =>
      let q := quantBlock o rec y.1
      .ret (q, blockPieces o p x (b0 + y.2) q)) bl.zipIdx) l).andThen fun qs =>
  let bs := layoutBlocks (elemBits (qfmtElem o)) (qs.flatten.map (·.1))
  (writeMade c (qs.flatten.flatMap (·.2))).andThen fun _ => .ret { t with data := some bs, outLen := bs.length }

/-- GRAM_A and GRAM_B over the tile's rows (R116). -/
def gramWork (want : Part) (st : Stream) (t : Tile) : HopM Tile :=
  let c := accessOf st t
  (hopMay (fun s => reduceMay0 s t.desc.round)).andThen fun _ =>
  (hopJob st).andThen fun j =>
  let o := j.1
  (tileRows o j.2 t).andThen fun r =>
  let (p, x, row, n) := r
  if x ≠ want then hopFail cPOLICY
  else
    (HopM.each (fun i => readRow c o p x (row + i)) (List.range n)).andThen fun rows =>
    if rows.any (·.2) then specialAbort t.desc.round
    else
      (HopM.each (fun (y : List Val × Bool) =>
        addTerms p.rows (y.1.zipIdx.flatMap (fun a => y.1.zipIdx.map (fun b =>
          let k := a.2 * p.rank + b.2
          (accKey 2 p.index k, partAddr o p .gm + 4 * k, mulVal a.1 b.1))))) rows).andThen fun l =>
      (hopWriteAll c false l.flatten).andThen fun _ => .ret t

/-- The rows of an r × r part. -/
def readSquare (c : Access) (o : Ocr) (p : Panel) (x : Part) : HopM (List (List Val)) :=
  (HopM.each (fun i => readRow c o p x i) (List.range p.rank)).andThen fun l => .ret (l.map (·.1))

/-- Entry (i, k) of a matrix of rows. -/
def entry (m : List (List Val)) (i k : Nat) : Val := nthD vzero (nthD [] m i) k

/-- x − Σ over t < k of a[t]·b[t], exact. -/
def minusDot (x : Val) (a b : List Val) (k : Nat) : Val :=
  exactSum (x :: ((a.zip b).take k).map (fun y => negVal (mulVal y.1 y.2)))

/-- One column of the factor (R116): the entries l[i][k] for i ≥ k. -/
def cholCol (g l : List (List Val)) (r k : Nat) : List Val :=
  let rowk := nthD [] l k
  let gkk := entry g k k
  let d := minusDot gkk rowk rowk k
  if isZero gkk || leVal d (scaleVal gkk (-24)) then (List.range (r - k)).map (fun _ => vzero)
  else
    let lkk := round32 (sqrtVal d)
    lkk :: (List.range (r - k - 1)).map (fun x =>
      let i := k + 1 + x
      round32 (divVal (minusDot (entry g i k) (nthD [] l i) rowk k) lkk))

/-- Put a column's entries into the rows of the factor. -/
def putCol (l : List (List Val)) (k : Nat) (col : List Val) : List (List Val) :=
  l.zipIdx.map (fun y => if k ≤ y.2 then setAt vzero y.1 k (nthD vzero col (y.2 - k)) else y.1)

/-- The columns of a block, in order. -/
def cholCols (g : List (List Val)) (r : Nat) : List Nat → List (List Val) → List (List Val)
  | [], l => l
  | k :: t, l => cholCols g r t (putCol l k (cholCol g l r k))

/-- CHOL (R116): the 32-column block of LF whose first column is the tile's first row of GM. -/
def cholWork (st : Stream) (t : Tile) : HopM Tile :=
  let c := accessOf st t
  (hopMay (fun s => reduceMay0 s t.desc.round)).andThen fun _ =>
  (hopJob st).andThen fun j =>
  let o := j.1
  (tileRows o j.2 t).andThen fun r =>
  let (p, x, row, _) := r
  if (x ≠ .gm ∧ x ≠ .lf) ∨ row % 32 ≠ 0 then hopFail cPOLICY
  else
    (readSquare c o p .gm).andThen fun g =>
    (readSquare c o p .lf).andThen fun l =>
    let cols := (List.range 32).map (row + ·)
    let l1 := cholCols g p.rank cols l
    (hopWriteAll c false (((List.range p.rank).filter (row ≤ ·)).map (fun i =>
      (partAddr o p .lf + 4 * (i * p.rank + row), encodeTensor (.float fp32) ((cols.filter (· ≤ i)).map (entry l1 i)))))).andThen fun _ => .ret t

/-- One row of y·lᵀ = x (R116). -/
def solveRow (l : List (List Val)) (x : List Val) : List Val :=
  x.zipIdx.foldl (fun y xk =>
    let lk := nthD [] l xk.2
    let lkk := nthD vzero lk xk.2
    y ++ [if isZero lkk then vzero else round32 (divVal (minusDot xk.1 y lk xk.2) lkk)]) []

/-- TRSOLVE_A and TRSOLVE_B (R116): rows of LO. -/
def trsolveWork (want : Part) (st : Stream) (t : Tile) : HopM Tile :=
  let c := accessOf st t
  (hopMay (fun s => reduceMay0 s t.desc.round)).andThen fun _ =>
  (hopJob st).andThen fun j =>
  let o := j.1
  (tileRows o j.2 t).andThen fun r =>
  let (p, x, row, n) := r
  if x ≠ want then hopFail cPOLICY
  else
    (readSquare c o p .lf).andThen fun l =>
    (HopM.each (fun i => (readRow c o p x (row + i)).andThen fun v =>
      .ret (partAddr o p .lo + 4 * (row + i) * p.rank, encodeTensor (.float fp32) (solveRow l v.1))) (List.range n)).andThen fun ys =>
    (if want = .lo then writeMade c ys else hopWriteAll c false ys).andThen fun _ => .ret t

/-! ### Member mode (R124, R125) -/

/-- The element format of a tile. -/
def tileElem (t : Tile) : Elem := (elemOf t.desc.fmt).getD .raw

/-- GEMM (R125): D = A × B. -/
def gemmWork (st : Stream) (t : Tile) : HopM Tile :=
  let c := accessOf st t
  (hopRead c (nthD 0 st.operand 2) 16).andThen fun pb =>
  let k := leAt pb 0 4
  let n := leAt pb 4 4
  let fd := leAt pb 10 1
  match elemOf (leAt pb 8 1), elemOf (leAt pb 9 1) with
  | some ea, some eb =>
    let fmtOk := decide (1 ≤ leAt pb 8 1) && decide (leAt pb 8 1 ≤ 12) && decide (1 ≤ leAt pb 9 1) && decide (leAt pb 9 1 ≤ 12)
      && decide (1 ≤ fd) && decide (fd ≤ 3) && decide (1 ≤ k) && decide (k ≤ 2 ^ 24) && decide (1 ≤ n) && decide (n ≤ 2 ^ 16)
      && (!(isScaled ea || isScaled eb) || k % 32 == 0)
    (hopReq fmtOk cPOLICY).andThen fun _ =>
    (hopInput c t).andThen fun ab =>
    let a := decodeTensor ea ab
    (hopReq (a.length % k == 0 && tensorBytes ea a.length == ab.length) cPOLICY).andThen fun _ =>
    (hopRead c (nthD 0 st.operand 0) (tensorBytes eb (k * n))).andThen fun bb =>
    let b := decodeTensor eb bb
    let d := (pieces k a).flatMap (fun row => (List.range n).map (fun col =>
      exactSum (row.zipIdx.map (fun x => mulVal x.1 (nthD vzero b (x.2 * n + col))))))
    (encodeSums ((elemOf fd).getD .raw) d).andThen fun bs => hopOutput c st { t with formed := true } bs
  | _, _ => hopFail cPOLICY

/-- The value of an element. -/
def rawVal (el : Elem) (x : Nat × Nat) : Val := decodeElem el x.1 x.2

/-- A block of elements that keep their bits, under the largest scale among them; those of a smaller scale are encoded against it (R95).
DEDUCED (83): a block has one scale. -/
def rawBlock (el : Elem) (l : List (Nat × Nat)) : Nat × List Nat :=
  let x := l.foldl (fun a e => max a e.1) 0
  if x = 0xFF then (0xFF, l.map (fun _ => 0))
  else (x, l.map (fun e => if e.1 = x ∨ rawVal el e = .nan then e.2 else encodeAgainst el ((x : Int) - 127) (rawVal el e)))

/-- The canonical NaN as an element: a NaN code where the format has one, else the scale that marks a block. -/
def nanRaw (el : Elem) : Nat × Nat :=
  match el with
  | .float f => (0, encodeF f false .nan)
  | .mx f _ => let c := encodeF f false .nan; if decodeF f c = .nan then (0, c) else (0xFF, 0)
  | _ => (0xFF, 0)

/-- An input element as it enters a comparison: a NaN is the canonical one (R95). -/
def canonRaw (el : Elem) (x : Nat × Nat) : Nat × Nat := if rawVal el x = .nan then nanRaw el else x

/-- The winner of a comparison of elements with their values, its bits unchanged (R95): NaN wins; −0 lies below +0; of equal values the one
of the larger scale code, so that no order of arrival shows (R100). -/
def winnerOf {α : Type} (isMax : Bool) (a b : Val × (Nat × Nat) × α) : Val × (Nat × Nat) × α :=
  match a.1, b.1 with
  | .nan, _ => a
  | _, .nan => b
  | x, y => if ltOrder x y then (if isMax then b else a) else if ltOrder y x then (if isMax then a else b)
      else if a.2.1.1 < b.2.1.1 then b else a

/-- The winner of two elements of one format. -/
def winner (el : Elem) (isMax : Bool) (a b : Nat × Nat) : Nat × Nat := (winnerOf isMax (rawVal el a, a, ()) (rawVal el b, b, ())).2.1

/-- The elements of a tensor's bytes, each its scale code and its own code. -/
def rawsOf (el : Elem) (bs : List Byte) : List (Nat × Nat) :=
  if isScaled el then (blocksOf el bs).flatMap (fun b => b.2.map (fun c => (b.1, c)))
  else (unpack (elemBits el) (bs.length / max 1 (elemBits el / 8)) bs).map (fun c => (0, c))

/-- The bytes of a tensor of elements that keep their bits. -/
def rawTensor (el : Elem) (l : List (Nat × Nat)) : List Byte :=
  if isScaled el then layoutBlocks (elemBits el) ((pieces 32 l).map (rawBlock el)) else l.flatMap (fun e => bytesLE (elemBits el / 8) e.2)

/-- What the choice of a CONVERT or a MAXMIN may rest on: the tile's format alone, which R100 counts to the configuration. -/
def choiceKey (t : Tile) : List Nat := [t.desc.fmt]

/-- The grid of a result in W32 or W64 that begins at an address or holds it (R84): the first element there, and the grid. -/
def gridFor (s : State) (a : Nat) : Option (Nat × Grid) :=
  (s.coll.grids.find? (fun g => decide (g.dst ≤ a) && decide (a < g.dst + g.width * g.elems))).map (fun g => ((a - g.dst) / g.width, g))

/-- The value of an integer of a granule: q × 2^L, or what the granule's SPECIAL code stands for (R84, R94). -/
def gridVal (g : Grid) (i : Nat) (v : Val) : Val :=
  let x := nthD (0, 0) g.granules (i / g.per)
  if x.2 ≠ 0 then specialVal x.2 else scaleVal v x.1

/-- An element with its value and its place on a grid: the exponent L and the SPECIAL code. -/
abbrev Cell : Type := Val × (Nat × Nat) × (Int × Nat)

/-- The elements of bytes that stand at an address, each with its value on the grid held for it there (R84). -/
def cellsAt (s : State) (el : Elem) (a : Option Nat) (bs : List Byte) : List Cell :=
  match el, a.bind (gridFor s) with
  | .win b, some (i, g) => (rawsOf el bs).zipIdx.map (fun x =>
      if g.width = b then (gridVal g (i + x.2) (rawVal el x.1), x.1, nthD (0, 0) g.granules ((i + x.2) / g.per)) else (rawVal el x.1, x.1, (0, 0)))
  | _, _ => (rawsOf el bs).map (fun x => (rawVal el x, x, (0, 0)))

/-- The address on whose grid a tile's input stands (R84). DEDUCED (243): SRC, where that is a local address and no hop before formed the data. -/
def srcGrid (t : Tile) : Option Nat := if t.formed ∨ refForm t.desc.src ≠ 0 then none else some (t.desc.src % 2 ^ 46)

/-- A tile's input, element by element. -/
def hopCells (c : Access) (t : Tile) : HopM (List Cell) := (hopInput c t).andThen fun b => hopGet (fun s => cellsAt s (tileElem t) (srcGrid t) b)

/-- The values of a tile's input, on the grid where it stands. -/
def hopVals (c : Access) (t : Tile) : HopM (List Val) := (hopCells c t).andThen fun l => .ret (l.map (·.1))

/-- Another operand of a tile's length, at the tile's offset (R54), element by element. -/
def operandCells (c : Access) (st : Stream) (t : Tile) (k : Nat) : HopM (List Cell) :=
  (hopRead c (operandAt st t k) t.desc.len).andThen fun b => hopGet (fun s => cellsAt s (tileElem t) (some (operandAt st t k)) b)

/-- Its values. -/
def operandVals (c : Access) (st : Stream) (t : Tile) (k : Nat) : HopM (List Val) :=
  (operandCells c st t k).andThen fun l => .ret (l.map (·.1))

/-- A grid comes into force over its range, in place of those that stood there. -/
def putGrid (s : State) (g : Grid) : State :=
  let apart (x : Grid) : Bool := decide (x.dst + x.width * x.elems ≤ g.dst) || decide (g.dst + g.width * g.elems ≤ x.dst)
  { s with coll := { s.coll with grids := s.coll.grids.filter apart ++ (if g.granules.isEmpty then [] else [g]) } }

/-- The result of an arithmetic hop: it stands on no grid of the engine where it is written, or on the one given element by element (R84). -/
def arithOutput (c : Access) (st : Stream) (t : Tile) (grid : List (Int × Nat)) (bs : List Byte) : HopM Tile :=
  (hopOutput c st { t with formed := true } bs).andThen fun t1 =>
  if t.hop + 1 = st.hops ∧ dstStorage st t then
    (refAddr t.desc.dst).andThen fun p => (hopDo (fun s => putGrid s
      { dst := p.1, elems := bs.length / max 1 (elemBits (tileElem t) / 8), width := elemBits (tileElem t) / 8, per := 1, granules := grid })).andThen fun _ => .ret t1
  else .ret t1

/-- CONVERT (R110): the manual names no field for the target format, so the target is a free value among the formats. -/
def convertWork (st : Stream) (t : Tile) : HopM Tile :=
  let c := accessOf st t
  (hopVals c t).andThen fun l =>
  arithOutput c st t [] (encodeTensor ((elemOf (Config.convertTarget (choiceKey t) % 15)).getD .raw) l)

/-- The values of the operands of an elementwise operation. -/
def elementwise (c : Access) (st : Stream) (t : Tile) (ks : List Nat) : HopM (List (List Val)) :=
  (hopVals c t).andThen fun l0 =>
  (HopM.each (operandVals c st t) ks).andThen fun l =>
  let all := l0 :: l
  .ret ((List.range (nthD [] all 0).length).map (fun i => all.map (fun x => nthD vzero x i)))

/-- ADD (R110): the operands that the open record gives. -/
def addWork (st : Stream) (t : Tile) : HopM Tile :=
  let c := accessOf st t
  (elementwise c st t ((List.range 3).filter (fun k => nthD 0 st.operand k != 0))).andThen fun l =>
  (encodeSums (tileElem t) (l.map exactSum)).andThen fun bs => arithOutput c st t [] bs

/-- MUL (R110). -/
def mulWork (st : Stream) (t : Tile) : HopM Tile :=
  let c := accessOf st t
  (elementwise c st t [0]).andThen fun l =>
  arithOutput c st t [] (encodeTensor (tileElem t) (l.map (fun x => mulVal (nthD vzero x 0) (nthD vzero x 1))))

/-- AXPBY (R110, R125): one exact expression rounded once. -/
def axpbyWork (st : Stream) (t : Tile) : HopM Tile :=
  let c := accessOf st t
  (hopRead c (nthD 0 st.operand 2) 8).andThen fun ab =>
  let a := decodeF fp32 (leAt ab 0 4)
  let b := decodeF fp32 (leAt ab 4 4)
  (elementwise c st t [0]).andThen fun l =>
  (encodeSums (tileElem t) (l.map (fun x => exactSum [mulVal a (nthD vzero x 0), mulVal b (nthD vzero x 1)]))).andThen fun bs =>
  arithOutput c st t [] bs

/-- An element as it enters a comparison: a NaN is the canonical one (R95). -/
def canonCell (el : Elem) (x : Cell) : Cell := if x.1 = .nan ∧ x.2.2.2 = 0 then (x.1, nanRaw el, x.2.2) else x

/-- The winners of two tensors, place by place, each with its bits and its place on its grid (R95). -/
def cellWinners (el : Elem) (isMax : Bool) (x y : List Cell) : List Cell := (x.zip y).map (fun p => winnerOf isMax (canonCell el p.1) (canonCell el p.2))

/-- MAXMIN (R95, R110): the manual names no field that chooses maximum or minimum, so the choice is a free value. -/
def maxminWork (st : Stream) (t : Tile) : HopM Tile :=
  let c := accessOf st t
  (hopCells c t).andThen fun x =>
  (operandCells c st t 0).andThen fun y =>
  let l := cellWinners (tileElem t) (Config.maxminMax (choiceKey t)) x y
  let grid := if l.any (fun w => w.2.2 != (0, 0)) then l.map (fun w => w.2.2) else []
  arithOutput c st t grid (rawTensor (tileElem t) (l.map (fun w => w.2.1)))

end Sys2Proof.Machine
end

