-- ==== Sys2Proof/Machine/Time.lean ====
section
/-!
DEFINITION. The time counter, its steps and the timed pulses (R352 to R355, R366, R367), and the tick's own part of a
boundary (R40 to R44). Times are in units of 2^-32 ns.
-/
namespace Sys2Proof.Machine

/-- One nanosecond. -/
def nsUnit : Nat := 0x100000000
/-- One second. -/
def secUnit : Nat := 1000000000 * nsUnit
/-- One tick, 8,000 ns (R40). -/
def tickUnit : Nat := 8000 * nsUnit
/-- The span of the counter: 2^64 seconds (R352). -/
def timeSpan : Nat := 0x10000000000000000 * secUnit

/-- The counter's fields: seconds, nanoseconds and the visible 16 bits of fraction (R352). -/
def secOf (t : Nat) : Nat := t / secUnit
/-- Nanoseconds. -/
def nsOf (t : Nat) : Nat := t % secUnit / nsUnit
/-- Fraction in 2^-16 ns. -/
def subOf (t : Nat) : Nat := t % nsUnit / 0x10000

/-- Cycles until the counter is at or beyond a time (R40, R366). -/
def cyclesTo (now target incr : Nat) : Nat := if target ≤ now then 0 else (target - now + incr - 1) / incr

/-- Cycles until the next boundary not yet emitted. -/
def cyclesToBoundary (s : State) : Nat := cyclesTo s.tick.counter ((s.tick.now + 1) * tickUnit) s.tick.incr

/-- Keys of a pulse output's registers. -/
def pulseKey (key p : Nat) : Nat := keyB key p

/-- START of a pulse, in counter units. -/
def pulseStart (s : State) (p : Nat) : Nat :=
  (regN s (pulseKey R.TIME_P_START_SEC_LO p) + regN s (pulseKey R.TIME_P_START_SEC_HI p) * 0x100000000) * secUnit
    + regN s (pulseKey R.TIME_P_START_NS p) * nsUnit

/-- The first START + k × PERIOD later than a time (R366, R367). -/
def nextEdge (start period t : Nat) : Nat :=
  if t < start then start else start + ((t - start) / period + 1) * period

/-- An output fires at the cycle at which the counter holds c: a single pulse then clears EN and sets BLK_EVT.PULSE, a periodic
one is scheduled again; the output falls after WIDTH (R366, R367). -/
def firePulse (s : State) (p c : Nat) : State :=
  let q := nthD {} s.time.pulses p
  let period := regN s (pulseKey R.TIME_P_PERIOD p) * nsUnit
  let fall := c + regN s (pulseKey R.TIME_P_WIDTH p) * nsUnit
  let nxt := if period = 0 then none else some (nextEdge (pulseStart s p) period c)
  let s1 := { s with time := { s.time with pulses := setAt {} s.time.pulses p { next := nxt, fall := some fall, last := q.next } } }
  if period = 0 then event (setFlag s1 (pulseKey R.TIME_P_CFG p) 0 false) 0x78 4 else s1

/-- The counter's value at the first cycle, after the one at c0, at which it is at or beyond t. -/
def edgeCycle (c0 t incr : Nat) : Nat := c0 + max 1 (cyclesTo c0 t incr) * incr

/-- The edges of one output while the counter goes from c0 to c1. -/
def runPulse (p c0 c1 : Nat) : Nat → State → State
  | 0, s => s
  | fuel + 1, s =>
    match (nthD {} s.time.pulses p).next with
    | some t =>
      let c := edgeCycle c0 t s.tick.incr
      if c ≤ c1 then runPulse p c0 c1 fuel (firePulse s p c) else s
    | none => s

/-- All four outputs over a number of cycles: PERIOD is at least 100 ns, 70 cycles, so the fuel covers every edge. -/
def runPulses (s : State) (c0 cycles : Nat) : State :=
  (List.range 4).foldl (fun a p => runPulse p c0 (c0 + cycles * s.tick.incr) (cycles / 60 + 2) a) s

/-- An output's level (R366). -/
def pulseLevel (s : State) (p : Nat) : Bool :=
  match (nthD {} s.time.pulses p).fall with
  | some t => decide (s.tick.counter < t)
  | none => false

/-- Let cycles pass on both counters; a hold counts them (R42, R353), and the outputs fire (R366). -/
def passCycles (s : State) (c : Nat) : State :=
  if c = 0 then s
  else
    let d := c * s.tick.incr
    let s1 := runPulses (if s.tick.held then bumpBy s R.TICK_HELD c else s) s.tick.counter c
    { s1 with tick := { s1.tick with counter := (s.tick.counter + d) % timeSpan, follower := (s.tick.follower + d) % timeSpan } }

/-- Let cycles pass within the tick: never up to the next boundary, which is a command of its own. -/
def elapse (s : State) (c : Nat) : State :=
  if inRun s 0x01 then passCycles s (min c (cyclesToBoundary s - 1)) else s

/-! ### Increment and step -/

/-- The nominal increment, 10/7 ns (R353). -/
def nominalIncr : Nat := 6135667566

/-- An increment within 200 ppm of nominal (R353). -/
def incrOk (v : Nat) : Bool :=
  decide (v * 1000000 ≤ nominalIncr * 1000200) && decide (nominalIncr * 999800 ≤ v * 1000000)

/-- Commit an increment (R353). A refused one leaves the increment in force, and the registers show it. -/
def commitIncr (s : State) (ns : Nat) : State :=
  let v := ns * 0x100000000 + regN s R.TIME_INCR_FRAC
  if incrOk v then setN { s with tick := { s.tick with incr := v } } R.TIME_INCR_NS ns
  else event (setN (setN s R.TIME_INCR_FRAC s.tick.incr) R.TIME_INCR_NS (s.tick.incr / 0x100000000)) 0x78 0

/-- What a step does to the tick's own state, apart from the boundary it may emit (R42, R354): the new counter (an output
that is high stays high for the rest of its WIDTH), the skipped boundaries, a hold. The Bool says that the boundary of the returned tick is emitted at this cycle. -/
def stepCounter (s : State) (target : Nat) : Option Nat × State :=
  let old := s.tick.counter
  let shift (q : Pulse) : Pulse := { q with fall := q.fall.bind (fun t => if old < t then some (target + (t - old)) else none) }
  let s0 := { s with tick := { s.tick with counter := target, follower := target }, time := { s.time with pulses := s.time.pulses.map shift } }
  let s1 := event (bump s0 R.TIME_STEPS) 0x78 1
  let m := target / tickUnit
  if s.tick.now < m then
    let skipped := m - s.tick.now - 1
    let s2 := bumpBy s1 R.TICK_SKIP skipped
    (some m, eventIf s2 (decide (0 < skipped)) 0x01 1)
  else if target < old ∧ s.tick.held = false then
    (none, event { s1 with tick := { s1.tick with held := true } } 0x01 2)
  else (none, s1)

/-! ### The tick's part of a boundary -/

/-- Which dies are parked as the tick begins. -/
def noteParked (s : State) : State := { s with tick := { s.tick with parked := (List.range 8).map (diePark s) } }

/-- The clocks a die delivered in the tick that ends, as observed: between the counts of the highest and the lowest level it had in the tick,
one more or fewer for the tolerance of the reference (R43, R435); none of a die that is parked, fewer of one that was parked for a part of
it (R433). -/
def clocksOf (s : State) (env : TickEnv) (die : Nat) : Nat :=
  let lo := 700 * (16 - nthD 0 s.tick.levelMax die)
  let hi := 700 * (16 - nthD 0 s.tick.levelMin die)
  let was := nthD false s.tick.parked die
  if was && diePark s die then 0
  else max (if was || diePark s die then 0 else lo - 1) (min (hi + 1) (nthD lo env.clocks die))

/-- TICK_CLK_Fn at the boundary (R43); the tick that begins has had the level in force. -/
def tickClocks (s : State) (env : TickEnv) : State :=
  let s1 := (List.range 8).foldl (fun a d => setN a (R.TICK_CLK_F0 + 4 * d) (clocksOf s env d + nthD 0 s.tick.level d * 0x10000)) s
  { s1 with tick := { s1.tick with levelMin := s1.tick.level, levelMax := s1.tick.level } }

/-- H1's follower at the boundary (R41): loaded when the last boundary found it wrong, then compared. -/
def followerCheck (s : State) (env : TickEnv) : State :=
  let s1 := if s.tick.reload then { s with tick := { s.tick with follower := s.tick.counter, reload := false } } else s
  let s2 := { s1 with tick := { s1.tick with
      follower := ((s1.tick.follower : Int) + env.followerErr * s1.tick.incr).toNat % timeSpan } }
  if s2.tick.follower = s2.tick.counter then
    { setFlag s2 R.TICK_STAT 2 true with time := { s2.time with skewTick := false } }
  else
    let s3 := { setFlag s2 R.TICK_STAT 2 false with
      tick := { s2.tick with reload := true }, time := { s2.time with skewTick := true } }
    raise (event s3 0x01 3) 0x01 fTICK_SKEW 0 (unsignedOf 48 env.followerErr)

/-- Begin tick n: the number, the end of a hold, the periodic event, the skew seen (R40 to R44). -/
def beginTick (s : State) (n : Nat) (env : TickEnv) : State :=
  let s1 := { s with tick := { s.tick with now := n % 0x10000000000000000, held := false },
                     flt := { s.flt with met := [] } }
  let s2 := if fld s1 R.TICK_SKEW_MAX 3 0 < env.skewClk then setFld s1 R.TICK_SKEW_MAX 3 0 (min 15 env.skewClk) else s1
  let p := fld s2 R.TICK_EVERY 23 0
  eventIf s2 (p != 0 && n % p == 0) 0x01 0

end Sys2Proof.Machine
end

