-- ==== Sys2Proof/Machine/Switch.lean ====
section
/-!
DEFINITION. The switch core: transfer headers (R185), cells and pauses (R189), the bunting ring (R205, R206),
arriving frames (R186 to R188, R193, R194, R196) and landings (R61, R131).
-/
namespace Sys2Proof.Machine

/-- The page of the switch. -/
abbrev pgSW : Nat := 0x50
/-- The page of the scheduler. -/
abbrev pgSCHED : Nat := 0x51
/-- The page of the mirror. -/
abbrev pgMIR : Nat := 0x52

/-! ### Transfer headers (R185) -/

/-- A transfer header. -/
structure XHdr where
  typ : Nat
  flags : Nat
  cls : Nat
  colour : Nat
  frag : Nat
  last : Bool
  src : Nat
  dst : Nat
  stream : Nat
  portLen : Nat
  rawLen : Nat
  seq : Nat
  round : Nat
  deriving DecidableEq, Repr

/-- The header's 32 bytes. -/
def xhdrBytes (h : XHdr) : List Byte :=
  let b := bytesBE 1 (1 + h.typ * 16) ++ bytesBE 1 h.flags ++ bytesBE 1 (h.cls + h.colour * 8) ++ bytesBE 1 (h.frag + ofBool h.last * 8)
    ++ bytesBE 2 h.src ++ bytesBE 2 h.dst ++ bytesBE 2 h.stream ++ bytesBE 3 h.portLen ++ bytesBE 3 h.rawLen
    ++ bytesBE 6 h.seq ++ bytesBE 6 h.round
  b ++ bytesBE 4 (crc32c b)

/-- Read a header. -/
def parseXhdr (b : List Byte) : XHdr :=
  { typ := beAt b 0 1 / 16, flags := beAt b 1 1, cls := beAt b 2 1 % 8, colour := beAt b 2 1 / 8 % 4, frag := beAt b 3 1 % 8,
    last := bitOf (beAt b 3 1) 3, src := beAt b 4 2, dst := beAt b 6 2, stream := beAt b 8 2, portLen := beAt b 10 3 % 2 ^ 17,
    rawLen := beAt b 13 3 % 2 ^ 17, seq := beAt b 16 6, round := beAt b 22 6 }

/-- The header check and the codes of R185 are good. -/
def xhdrOk (b : List Byte) : Bool :=
  let h := parseXhdr b
  decide (32 ≤ b.length) && beAt b 0 1 % 16 == 1 && decide (h.typ ≤ 2) && h.colour != 3 && decide (1 ≤ h.portLen)
    && decide (h.portLen ≤ 65536) && beAt b 28 4 == crc32c (b.take 28) && (h.typ != 2 || (h.last && h.portLen == 1))

/-- Cut a transfer into frames: each one's header and bytes (R184). -/
def cutFrames (h : XHdr) : Nat → List (List Byte) → List (XHdr × List Byte)
  | _, [] => []
  | k, b :: t => ({ h with frag := k, last := t.isEmpty }, b) :: cutFrames h (k + 1) t

/-- The cells of a frame (R189). -/
def cellsOf (payload : Nat) : Nat := (32 + payload + 255) / 256

/-! ### Cells (R189) -/

/-- Free cells of a hoist die. -/
def freeCells (s : State) (hoist : Nat) : Nat := if inRun s 0x48 then segFree s 0 hoist else 0

/-- The thresholds. -/
def cellRsv (s : State) : Nat := fld s R.SW_CELL_RSV 17 0
/-- XOFF. -/
def cellXoff (s : State) : Nat := fld s R.SW_XOFF 17 0
/-- XON. -/
def cellXon (s : State) : Nat := fld s R.SW_XON 17 0

/-- The free cells of a hoist die are below XOFF. -/
def underXoff (s : State) (hoist : Nat) : Bool := decide (freeCells s hoist < cellXoff s)

/-- C4 to C6 are held back at a hoist die: free cells below XOFF, or not back at XON since. -/
def belowXoff (s : State) (hoist : Nat) : Bool :=
  underXoff s hoist || (nthD false s.sw.xoff hoist && decide (freeCells s hoist < cellXon s))

/-- Take n cells; when they cannot all be had, those that were had return. What the allocator met on the way stays (R172). -/
def takeCells : Nat → State → Nat → List Nat → Option (List Nat) × State
  | 0, s, _, got => (some got, s)
  | n + 1, s, hoist, got =>
    match allocBuf s 0 hoist 1 with
    | (some h, s1) => takeCells n s1 hoist (h :: got)
    | (none, s1) => (none, got.foldl releaseQuiet s1)

/-- Release cells. -/
def dropCells (s : State) (l : List Nat) : State := l.foldl releaseQuiet s

/-- The pause that WG9 wants of a fabric port's class: short cells, or a red frame in the tick before (R189, R196). -/
def wantPause (s : State) (p k : Nat) : Bool :=
  let h := portHoist p
  (decide (4 ≤ k) && decide (k ≤ 6) && nthD false s.sw.xoff h) || (decide (k ≤ 3) && nthD false s.sw.dry h)
    || (decide (k ≤ 6) && nthD false (nthD {} s.sw.ports p).redPause k)

/-- Send the pause or its end for one class of a fabric port, when it changed (R186). -/
def pauseOne (p : Nat) (s : State) (k : Nat) : State :=
  let q := schedOf s p
  let want := wantPause s p k
  if nthD false q.pausing k = want then s
  else emit (bump (putSched s p { q with pausing := setAt false q.pausing k want }) (keyB R.SCHED_PAUSE_TX p)) (.pause p (7 - k) want)

/-- After every command: the thresholds' events and the pauses (R189, R207). DESIGN CHOICE (223): the pause of C0 to C3 for want of
cells starts when a full frame's 33 are no longer free. -/
def cellSettle (s : State) : State :=
  if inRun s pgSW && inRun s 0x48 then
    let below := (List.range 2).map (fun h => underXoff s h)
    let low := (List.range 2).map (fun h => belowXoff s h)
    let under := (List.range 2).map (fun h => decide (freeCells s h < cellRsv s))
    let dry := (List.range 2).map (fun h => decide (freeCells s h < 33))
    let rose (old new : List Bool) : Bool := (List.range 2).any (fun h => nthD false new h && !nthD false old h)
    let s1 := eventIf (eventIf s (rose s.sw.below below) pgSW 1) (rose s.sw.rsv under) pgSW 2
    let s2 := { s1 with sw := { s1.sw with below := below, xoff := low, rsv := under, dry := dry } }
    (List.range 4).foldl (fun a p => (List.range 7).foldl (pauseOne p) a) s2
  else s

/-! ### The bunting ring (R205, R206) -/

/-- A record of the ring: `cls` is the frame's CLASS byte (R185), its class and colour. -/
def mirRecord (s : State) (p dir cause len cls : Nat) (head : List Byte) : List Byte :=
  let c := s.tick.counter
  bytesLE 8 (secOf c) ++ bytesLE 4 (nsOf c) ++ bytesLE 2 (subOf c) ++ bytesLE 1 (p + dir * 8) ++ bytesLE 1 cause ++ bytesLE 2 len
    ++ bytesLE 1 cls ++ bytesLE 1 0 ++ bytesLE 4 s.sw.recSeq ++ bytesLE 8 s.tick.now ++ sliceBytes head 0 64 ++ List.replicate 32 0

/-- Write a record at the tail; a full ring drops its oldest under WRAP, and otherwise does not write the new one, which is lost (R206,
R207). -/
def mirWrite (s : State) (rec : List Byte) : State :=
  let n := 2 ^ fld s R.MIR_CFG 4 0
  let tail := fld s R.MIR_TAIL 25 0
  let head := fld s R.MIR_HEAD 25 0
  let full := (tail + 1) % n == head
  let put (a : State) : State :=
    setFld (hwWriteAs 7 a (reg64 a R.MIR_BASE_LO R.MIR_BASE_HI + 128 * tail) rec) R.MIR_TAIL 25 0 ((tail + 1) % n)
  let s0 := { s with sw := { s.sw with recSeq := (s.sw.recSeq + 1) % 2 ^ 32 } }
  if full then
    let s1 := event s0 pgMIR 0
    if flag s1 R.MIR_CFG 5 then put (setFld s1 R.MIR_HEAD 25 0 ((head + 1) % n)) else event (bump s1 R.MIR_LOST) pgMIR 1
  else put s0

/-- The mirror selects a frame by its port, direction and class (R206). -/
def mirSelects (s : State) (p dir cls : Nat) : Bool :=
  let sel := regN s R.MIR_SEL
  inRun s pgMIR && bitOf sel (p + 8 * dir) && bitOf sel (16 + cls % 8)

/-- Capture a frame with a CAUSE. -/
def capture (s : State) (p dir cls len cause : Nat) (head : List Byte) : State := mirWrite s (mirRecord s p dir cause len cls head)

/-- A fate is a trigger that MIR_TRIG enables. -/
def trigs (s : State) (fate : Nat) : Bool := fate != 0 && flag s R.MIR_TRIG (fate - 1)

/-- The mirror meets a frame: its fate is 0 when it passes, else the CAUSE of R205. `cls` is its CLASS byte; `stream` is its DST_STREAM
when it is a tile's frame. DESIGN CHOICE (236): of several reasons to capture it, CAUSE names its fate first, then the sample. -/
def mirror (s : State) (p dir cls len fate : Nat) (stream : Option Nat) (head : List Byte) : State :=
  if !mirSelects s p dir cls then s
  else
    let n := fld s R.MIR_N 23 0
    let c := s.sw.sample + 1
    let s1 := { s with sw := { s.sw with sample := if n ≠ 0 ∧ n ≤ c then 0 else c } }
    if trigs s fate then capture s1 p dir cls len fate head
    else if n ≠ 0 ∧ n ≤ c then capture s1 p dir cls len 0 head
    else if flag s R.MIR_TRIG 3 && stream.any (fun x => Nat.land x (fld s R.MIR_MATCH 31 16) == fld s R.MIR_MATCH 15 0)
      then capture s1 p dir cls len 4 head else s1

/-- The mirror meets the end of a broken transfer, whose frames it met as they came (R205, R206). -/
def mirrorXfer (s : State) (p cls len : Nat) (head : List Byte) : State :=
  if mirSelects s p 0 cls && trigs s 3 then capture s p 0 cls len 3 head else s

/-! ### Random early drop (R194) -/

/-- A C7 frame of a colour that finds q cells in its queue is dropped: the draw is free, the generator not being given. -/
def redDrops (s : State) (colour q : Nat) : Bool × State :=
  let lo := regN s (keyB R.SW_RED_MIN colour)
  let hi := regN s (keyB R.SW_RED_MAX colour)
  let prob := fld s (keyB R.SW_RED_PROB colour) 7 0
  if q < lo then (false, s)
  else if hi ≤ q then (true, s)
  else
    let (r, s1) := drawFree s
    (decide (r % (256 * (hi - lo)) < prob * (q - lo)), s1)

/-- Count a random early drop. -/
def countRed (s : State) (colour : Nat) : State :=
  bump s (if colour = 0 then R.SW_RED_DROP_G else if colour = 1 then R.SW_RED_DROP_Y else R.SW_RED_DROP_R)

/-! ### Policing (R196) -/

/-- The key of a policer. -/
def polKey (p k : Nat) : Nat := p * 8 + k

/-- The policer's bursts, in bytes. -/
def polBursts (s : State) (p k : Nat) : Nat × Nat :=
  (fld s (keyB R.SCHED_POL_BURST (polKey p k)) 15 0 * 1024, fld s (keyB R.SCHED_POL_BURST (polKey p k)) 31 16 * 1024)

/-- A policer's buckets: full when first enabled, as RFC 2698 gives. -/
def polBuckets (s : State) (p k : Nat) : Nat × Nat := (mapFind s.sw.policers (polKey p k)).getD (polBursts s p k)

/-- Colour a frame (R193, R196). -/
def police (s : State) (p k len : Nat) : Nat × State :=
  if !flag s (keyB R.SCHED_POL_CFG (polKey p k)) 0 then (0, s)
  else
    let (tc, tp) := polBuckets s p k
    let put (a : State) (v : Nat × Nat) : State := { a with sw := { a.sw with policers := mapPut a.sw.policers (polKey p k) v } }
    if tp < len then (2, bump (put s (tc, tp)) (keyB R.SCHED_POL_RED (polKey p k)))
    else if tc < len then (1, bump (put s (tc, tp - len)) (keyB R.SCHED_POL_YEL (polKey p k)))
    else (0, put s (tc - len, tp - len))

/-- Refill the policers at a boundary. -/
def policeRefill (s : State) : State :=
  { s with sw := { s.sw with policers := s.sw.policers.map (fun e =>
      let p := e.1 / 8
      let k := e.1 % 8
      let b := polBursts s p k
      (e.1, (min b.1 (e.2.1 + fld s (keyB R.SCHED_POL_CIR e.1) 19 0), min b.2 (e.2.2 + fld s (keyB R.SCHED_POL_PIR e.1) 19 0)))) } }

/-! ### Reassembly and landing (R61, R131, R188) -/

/-- The streams whose posted receive descriptors name a sender's stream, with the first such tile. -/
def posted (s : State) (port node stream : Nat) : Option (Nat × Stream) :=
  s.strm.slots.find? (fun e => isPort (hopStation (hopAt e.2 0)) && e.2.tiles.any (fun t =>
    t.hop == 0 && t.data.isNone && t.doneTick.isNone &&
      (match endpointOf s e.2 t.desc.src with
       | some (false, [x]) => x.port == port && x.node == node && x.stream == stream
       | _ => false)))

/-- What lands of a transfer. -/
def landedOf (k x : Partial) (tick : Nat) (handle : Option Nat) (bad : Bool) : Landed :=
  { port := k.port, node := k.node, stream := k.stream, data := x.bytes, coded := x.coded, rawLen := x.rawLen,
    seq := k.seq, round := k.round, tick := tick, handle := handle, bad := bad }

/-- Add it to what has landed. -/
def addLanded (s : State) (l : Landed) : State := { s with strm := { s.strm with landed := s.strm.landed ++ [l] } }

/-- A transfer ends CORRUPT: a receive descriptor that waits for it completes CORRUPT (R188). DESIGN CHOICE (223): the mirror's record of a
bad transfer shows the latest frame of it. -/
def xferBad (s : State) (x : Partial) : State :=
  let s1 := bump (dropCells s x.cells) R.SW_XFER_BAD
  let s2 := mirrorXfer s1 x.port x.byte x.len x.head
  if x.typ = 0 ∧ (posted s2 x.port x.node x.stream).isSome then
    addLanded s2 (landedOf x { x with bytes := [], coded := false, rawLen := max 1 x.rawLen } s.tick.now none true)
  else s2

/-- Remove a partial transfer. -/
def dropPartial (s : State) (x : Partial) : State := { s with sw := { s.sw with partials := s.sw.partials.filter (fun y => y != x) } }

/-- An ingress stream of a subscriber whose tiles are granted names a sender's stream as one of its endpoints (R190, R200). -/
def pacedFrom (s : State) (port node stream : Nat) : Bool :=
  s.strm.slots.any (fun e => isPort (hopStation (hopAt e.2 0)) && (mapGet {} s.sw.subs e.2.sub).paceIn
    && (List.range (mapGet {} s.sw.subs e.2.sub).epCount).any (fun i => match endpointOf s e.2 (2 ^ 47 + i) with
      | some (false, [x]) => x.port == port && x.node == node && x.stream == stream
      | _ => false))

/-- The endpoint's grant is used, or the arrival is ungranted (R200). -/
def noteGrant (s : State) (port node stream : Nat) : State :=
  if s.sw.granted.contains (port, node, stream) then { s with sw := { s.sw with granted := s.sw.granted.erase (port, node, stream) } }
  else if pacedFrom s port node stream then bump s R.SW_UNGRANTED
  else s

/-- Write a landed transfer into its buffer, a coded one's images each at its block's place (R131). -/
def fillBuffer (s : State) (h : Nat) (coded : Bool) (rawLen : Nat) (bs : List Byte) : State :=
  if coded then
    (cutImages (blockLens rawLen) bs).zipIdx.foldl (fun a p => match p.1 with
      | some img => hwWriteAs 5 a (bufAddr a h + 4096 * p.2) img
      | none => a) s
  else hwWriteAs 5 s (bufAddr s h) bs

/-- The coded images of an arrival, counted at the inbound slots they name (R141). -/
def inboundCounts (ctx rawLen : Nat) (bs : List Byte) : List (Nat × Nat) :=
  (((cutImages (blockLens rawLen) bs).filterMap id).filter (fun i => !imgRaw i)).map (fun i => (cslotKey ctx 1 (imgSlot i), 1))

/-- A complete tile transfer lands when a P2 buffer can be had; C7 is dropped when none can, the others wait and hold their
cells (R61). DESIGN CHOICE (220): a landing that waits is tried again at every boundary, and each try is a request of its own, which
POOL_EMPTY counts when it finds nothing. -/
def tryLand (s : State) (x : Partial) : State :=
  match allocInternal s 2 (homeSeg s (portHoist x.port)) with
  | (.got h, s1) =>
    let s2 := fillBuffer s1 h x.coded x.rawLen x.bytes
    let ctx := (ctxOfNode s2 x.node).getD 0
    let s3 := if x.coded then countIn s2 (inboundCounts ctx x.rawLen x.bytes) else s2
    let s4 := dropCells (dropPartial s3 x) x.cells
    noteGrant (addLanded s4 (landedOf x x s.tick.now (some h) false)) x.port x.node x.stream
  | (.wait, s1) => s1
  | (.empty, s1) =>
    if x.cls = 7 then bump (dropCells (dropPartial s1 x) x.cells) R.SW_TAIL_DROP else s1

/-- Landings that wait for a buffer, oldest first. -/
def landWaiting (s : State) : State :=
  (s.sw.partials.filter (·.done)).foldl tryLand s

/-- A transfer's last frame has come: it lands, or ends CORRUPT when its length does not agree; a message goes to Mirder. -/
def finishPartial (s : State) (x : Partial) : State :=
  if x.bytes.length ≠ x.portLen ∨ (x.typ = 0 ∧ !x.coded ∧ x.rawLen ≠ x.portLen) ∨ x.rawLen = 0 ∨ (if x.typ = 1 then 8192 else 65536) < x.rawLen then
    xferBad (dropPartial s x) x
  else if x.typ = 0 then
    let y := { x with done := true }
    tryLand { s with sw := { s.sw with partials := s.sw.partials.map (fun z => if z = x then y else z) } } y
  else emit (dropCells (dropPartial s x) x.cells) (.handed x.port x.node x.stream x.bytes)

/-- A GRANT accepted: the endpoint allows one tile (R200). -/
def grantOp (s : State) (p : Nat) (h : XHdr) : State :=
  { s with sw := { s.sw with grants := s.sw.grants ++ [(p, h.src, h.stream)] } }

/-- A transfer of which nothing has come. -/
def startPartial (s : State) (p : Nat) (h : XHdr) : Partial :=
  { port := p, node := h.src, stream := h.stream, typ := h.typ, seq := h.seq, next := 0, bytes := [], cls := h.cls,
    tick := s.tick.now, coded := bitOf h.flags 0, portLen := h.portLen, rawLen := h.rawLen, round := h.round }

/-- The CLASS byte of a header (R185). -/
def classByte (h : XHdr) : Nat := h.cls + h.colour * 8

/-- Add an accepted frame to its transfer (R188); `head` is its first bytes on the port. -/
def joinFrame (s : State) (p : Nat) (h : XHdr) (payload : List Byte) (cells : List Nat) (head : List Byte) : State :=
  if h.typ = 2 then grantOp (dropCells s cells) p h
  else
    let start := startPartial s p h
    let seen (x : Partial) : Partial := { x with head := sliceBytes head 0 64, len := 32 + payload.length, byte := classByte h }
    let prev := s.sw.partials.find? (fun x => !x.done && x.port == p && x.node == h.src && x.stream == h.stream && x.typ == h.typ)
    let (s1, cur) := match prev with
      | some x => if x.seq = h.seq then (dropPartial s x, x) else (xferBad (dropPartial s x) x, start)
      | none => (s, start)
    if cur.next ≠ h.frag then
      dropCells { s1 with sw := { s1.sw with partials := s1.sw.partials ++ [{ seen cur with next := if prev.any (fun x => x.seq == h.seq) then cur.next else 8 }] } } cells
    else
      let x := { seen cur with next := h.frag + 1, bytes := cur.bytes ++ payload, cells := cur.cells ++ cells }
      let s2 := { s1 with sw := { s1.sw with partials := s1.sw.partials ++ [x] } }
      if h.last then finishPartial s2 x else s2

/-- Transfers that stay incomplete past their class's age limit end CORRUPT (R188, R195). -/
def agePartials (s : State) : State :=
  (s.sw.partials.filter (fun x => !x.done && regN s (keyB R.SW_AGE_LIMIT x.cls) != 0
    && decide (regN s (keyB R.SW_AGE_LIMIT x.cls) < s.tick.now - x.tick))).foldl (fun a x => xferBad (dropPartial a x) x) s

/-- Cells that the C7 frames of a port's incomplete transfers hold. -/
def ingressC7 (s : State) (p : Nat) : Nat := ((s.sw.partials.filter (fun x => x.port == p && x.cls == 7)).map (fun x => x.cells.length)).sum

/-- A frame waits at its port for cells. -/
def atDoor (s : State) (p colour : Nat) (h : XHdr) (payload head : List Byte) : State :=
  { s with sw := { s.sw with door := s.sw.door ++ [{ port := p, colour := colour, hdr := xhdrBytes h, payload := payload, head := head }] } }

/-- A frame must wait at its port: the POOL block is not in RUN (R177), or one of its class waits there already. -/
def doorShut (s : State) (p cls : Nat) : Bool := !inRun s 0x48 || s.sw.door.any (fun d => d.port == p && (parseXhdr d.hdr).cls == cls)

/-- A frame with a good header arrives at a port, its colour known: C7 meets the cells' thresholds and random early drop, the others take
cells as their class may (R189, R194). `free` says that it takes no cells (the privileged intake). DESIGN CHOICE (236): a frame of C0 to C6
that comes although no cells are left for it, where R189 gives no action, waits at its port, as congestion never drops it. -/
def takeFrame (s : State) (p colour : Nat) (free : Bool) (h : XHdr) (payload head : List Byte) : State :=
  let hoist := portHoist p
  let strm := if h.typ = 0 then some h.stream else none
  let len := 32 + payload.length
  let drop (a : State) : State := mirror a p 0 (classByte h) len 1 strm head
  let short (a : State) : State := if h.cls = 7 then drop (bump a R.SW_TAIL_DROP) else atDoor a p colour h payload head
  if free then joinFrame (mirror s p 0 (classByte h) len 0 strm head) p h payload [] head
  else if doorShut s p h.cls then atDoor s p colour h payload head
  else if h.cls = 7 ∧ underXoff s hoist then short s
  else
    let (red, s1) := if h.cls = 7 then redDrops s colour (ingressC7 s p) else (false, s)
    if red then drop (countRed s1 colour)
    else
      let need := cellsOf payload.length
      let floor := if h.cls ≤ 3 then 0 else cellRsv s1
      if freeCells s1 hoist < need + floor then short s1
      else match takeCells need s1 hoist [] with
        | (some cells, s2) => joinFrame (mirror s2 p 0 (classByte h) len 0 strm head) p h payload cells head
        | (none, s2) => short s2

/-- The frames that wait at the ports try again, in the order in which they came. -/
def doorSettle (s : State) : State :=
  if inRun s pgSW && inRun s 0x48 then
    s.sw.door.foldl (fun a d => takeFrame a d.port d.colour false (parseXhdr d.hdr) d.payload d.head) { s with sw := { s.sw with door := [] } }
  else s

/-! ### Fabric frames (R186, R187) -/

/-- The node address entry WG9 uses: the one it keeps, or the table's. -/
def nodeEntry (s : State) (node : Nat) : Option (List Byte) :=
  match mapFind s.sw.nodes node with
  | some b => some b
  | none => readNode s node

/-- MAC and IPv6 addresses of a plane of an entry. -/
def planeMac (e : List Byte) (p : Nat) : List Byte := sliceBytes e (0x20 + 24 * p) 6
/-- IPv6 address. -/
def planeIp (e : List Byte) (p : Nat) : List Byte := sliceBytes e (0x20 + 24 * p + 8) 16

/-- The Ethernet frame that carries a transfer frame on FPp, its FCS last (R186, R187). -/
def fabricFrame (s : State) (p cls dstStream : Nat) (own dst xfer : List Byte) : List Byte :=
  let udpLen := 8 + xfer.length
  let port := fld s R.SCHED_FAB_UDP 15 0
  let sip := planeIp own p
  let dip := planeIp dst p
  let hop := let v := leAt own 1 1; if v = 0 then 64 else v
  let flow := Nat.xor (leAt own 4 4 % 2 ^ 20) dstStream % 2 ^ 20
  let udp0 := bytesBE 2 (0xC000 + dstStream % 0x4000) ++ bytesBE 2 port ++ bytesBE 2 udpLen
  let sum := onesSum (sip ++ dip ++ bytesBE 4 udpLen ++ bytesBE 4 17 ++ udp0 ++ [0, 0] ++ xfer) 0
  let chk := 0xFFFF - foldOnes (foldOnes sum)
  let f := planeMac dst p ++ planeMac own p ++ bytesBE 2 0x8100 ++ bytesBE 2 ((7 - cls) * 0x2000 + leAt own 2 2 % 4096) ++ bytesBE 2 0x86DD
    ++ bytesBE 4 (0x60000000 + (7 - cls) * 32 * 0x100000 + flow) ++ bytesBE 2 udpLen ++ [17, BitVec.ofNat 8 hop] ++ sip ++ dip
    ++ udp0 ++ bytesBE 2 (if chk = 0 then 0xFFFF else chk) ++ xfer
  f ++ bytesLE 4 (crcFcs f)

/-- A received Ethernet frame's parts: destination MAC and IPv6 address, the UDP destination port, the datagram's bytes, and
whether the FCS is good; none when it is not UDP over IPv6. -/
structure RxEth where
  mac : List Byte
  ip : List Byte
  port : Nat
  body : List Byte
  fcs : Bool
  deriving DecidableEq, Repr

/-- Take a received frame apart. -/
def parseEth (b : List Byte) : Option RxEth :=
  let n := b.length
  let off := if beAt b 12 2 = 0x8100 then 18 else 14
  if n < off + 52 ∨ beAt b (off - 2) 2 ≠ 0x86DD ∨ beAt b off 1 / 16 ≠ 6 ∨ beAt b (off + 6) 1 ≠ 17 then none
  else
    let udp := off + 40
    let len := beAt b (udp + 4) 2
    if len < 8 ∨ n < udp + len + 4 then none
    else some { mac := b.take 6, ip := sliceBytes b (off + 24) 16, port := beAt b (udp + 2) 2, body := sliceBytes b (udp + 8) (len - 8),
                fcs := leAt b (n - 4) 4 == crcFcs (b.take (n - 4)) }

/-- A PTP message on a fabric port (R188): its bytes. -/
def ptpOf (b : List Byte) : Option (List Byte) :=
  match parseEth b with
  | some e => if e.port = 319 ∨ e.port = 320 then some e.body else none
  | none => none

/-- A bad frame: discarded and counted (R188). Its length is that of its transfer header and bytes where they can be found, as charged
less the port's overhead (R205). DESIGN CHOICE (223): its class, for the mirror, is the one its priority code point names (R183), and C7
where it has none. -/
def badFrame (s : State) (p : Nat) (b : List Byte) : State :=
  let len := if p < 4 then (match parseEth b with | some e => e.body.length | none => b.length) else b.length
  let cls := if p < 4 ∧ beAt b 12 2 = 0x8100 then 7 - beAt b 14 1 / 32 else 7
  mirror (bump s R.SW_HDR_BAD) p 0 cls len 3 none b

/-- A GRANT arrives at a port, its bytes a transfer header: one that is no good GRANT is discarded (R185, R188, R200). -/
def grantRx (s : State) (p : Nat) (b : List Byte) : State :=
  if !inRun s pgSW then s
  else if !xhdrOk b || (parseXhdr b).typ != 2 then badFrame s p b
  else grantOp s p (parseXhdr b)

/-- A red frame of a lossless class asserts a pause for the following tick (R196). -/
def redPauses (s : State) (p k colour : Nat) : State :=
  if colour = 2 ∧ k ≤ 6 then let q := schedOf s p; putSched s p { q with redNext := setAt false q.redNext k true } else s

/-- A frame arrives on a fabric port, PTP apart (R186 to R188). -/
def fabricRx (s : State) (p : Nat) (b : List Byte) : State :=
  if !inRun s pgSW then s
  else match parseEth b, nodeEntry s (fld s R.GLB_NODE 15 0) with
    | some e, some own =>
      if e.mac ≠ planeMac own p ∨ e.ip ≠ planeIp own p ∨ e.port ≠ fld s R.SCHED_FAB_UDP 15 0 ∨ !e.fcs ∨ !xhdrOk e.body then badFrame s p b
      else
        let h := parseXhdr e.body
        let payload := if h.typ = 2 then [] else e.body.drop 32
        let (colour, s1) := police s p h.cls (32 + payload.length + portOvh s p)
        takeFrame (redPauses s1 p h.cls colour) p colour false h payload b
    | _, _ => badFrame s p b

/-- A frame arrives from the host: a transfer header and its bytes. -/
def hostRx (s : State) (b : List Byte) : State :=
  if !inRun s pgSW then s
  else if !xhdrOk b then badFrame s 6 b
  else let h := parseXhdr b; takeFrame s 6 0 false h (if h.typ = 2 then [] else b.drop 32) b

/-- A pause frame arrives (R186): PCP 1 to 7 are honoured. -/
def pauseOp (s : State) (p prio : Nat) (on : Bool) : State :=
  if prio = 0 ∨ !inRun s pgSCHED then s
  else
    let q := schedOf s p
    let was := if on then q.pausedWas else setAt false q.pausedWas (7 - prio) false
    bump (putSched s p { q with paused := setAt false q.paused (7 - prio) on, pausedWas := was }) (keyB R.SCHED_PAUSE_RX p)

end Sys2Proof.Machine
end

