-- ==== Sys2Proof/Machine/Egress.lean ====
section
/-!
DEFINITION. The egress scheduler: queueing at out hops (R184, R187, R189, R191, R192), ageing (R195), gates (R201 to
R203), the three levels of choice (R197 to R200), grants, and the scheduler's part of a boundary.
-/
namespace Sys2Proof.Machine

/-! ### A copy's end -/

/-- The rank of a failure code, worst first (R65). -/
def failRank (c : Nat) : Nat :=
  if c = cPOLICY then 0 else if c = cSEALED then 1 else if c = cCORRUPT then 2 else if c = cAGED then 3 else if c = cABORTED then 4 else 5

/-- The worse of two outcomes of copies. -/
def worse : Option Nat → Option Nat → Option Nat
  | some a, some b => if failRank b < failRank a then some b else some a
  | some a, none => some a
  | none, b => b

/-- A copy of a tile's transfer has ended, sent or with a failure: the tile's end when it was the last copy (R192). -/
def copyEnds (s : State) (tile : Option (Nat × Nat)) (code : Option Nat) : State :=
  match tile with
  | none => s
  | some (slot, seq) =>
    match streamAt s slot with
    | none => s
    | some st =>
      match st.tiles.find? (fun t => t.desc.seq == seq) with
      | none => s
      | some t =>
        let t1 := { t with txLeft := t.txLeft - 1, txWorst := worse t.txWorst code }
        if t1.txLeft = 0 then
          match t1.txWorst with
          | some c => failTile (putStream s slot (setTile st t1)) slot t1 c
          | none =>
            let t2 := { t1 with blocks := [], doneTick := if t1.hop + 1 = st.hops then some s.tick.now else none }
            flush (putStream s slot (setTile st t2)) slot
        else putStream s slot (setTile st t1)

/-! ### Discards -/

/-- Take away the queued frames of a transfer. -/
def dropXfer (s : State) (xfer : Nat) : State := dropFrames s (fun f => f.xfer == xfer)

/-- The DST_STREAM of a tile's frame. -/
def frameStream (f : Frame) : Option Nat := if (parseXhdr f.hdr).typ = 0 then some (parseXhdr f.hdr).stream else none

/-- The CLASS byte of a queued frame's header. -/
def frameByte (f : Frame) : Nat := beAt f.hdr 2 1 % 32

/-- The first bytes of a frame as on its port. -/
def frameHead (s : State) (f : Frame) : List Byte :=
  if f.port < 4 then
    let h := parseXhdr f.hdr
    match nodeEntry s (fld s R.GLB_NODE 15 0), nodeEntry s h.dst with
    | some own, some dst => (fabricFrame s f.port f.cls h.stream own dst (f.hdr ++ f.payload)).take 64
    | _, _ => []
  else (f.hdr ++ f.payload).take 64

/-- The transfers of a class queued at a port whose first frame has passed the age limit (R195). -/
def agedXfers (s : State) (p k : Nat) : List Frame :=
  let lim := regN s (keyB R.SW_AGE_LIMIT k)
  if lim = 0 then []
  else
    let q := s.sw.frames.filter (fun f => f.port == p && f.cls == k && decide (lim < s.tick.now - f.enter))
    q.foldl (fun l f => if l.any (fun g => g.xfer == f.xfer) then l else l ++ [f]) []

/-- Discard a transfer by age: every frame of it is counted, its tile's copy ends AGED_OUT (R195). -/
def ageXfer (s : State) (f : Frame) : State :=
  let mine := s.sw.frames.filter (fun g => g.xfer == f.xfer)
  let s1 := mine.foldl (fun a g => mirror (bump a (keyB R.SW_AGED f.cls)) f.port 1 (frameByte g) (32 + g.payload.length) 2 (frameStream g) (frameHead a g)) s
  copyEnds (event (dropXfer s1 f.xfer) pgSW 3) f.tile (some cAGED)

/-- Age a port's class. -/
def ageClass (p : Nat) (s : State) (k : Nat) : State := (agedXfers s p k).foldl ageXfer s

/-- Age every port and class, and the incomplete transfers (R188, R195). -/
def ageAll (s : State) : State :=
  (List.range 7).foldl (fun a p => (List.range 8).foldl (ageClass p) a) (agePartials s)

/-! ### Queueing -/

/-- Queue a transfer's frames at a port. -/
def queueFrames (s : State) (fs : List Frame) : State := { s with sw := { s.sw with frames := s.sw.frames ++ fs } }

/-- Cells in a port's C7 queue. -/
def queueC7 (s : State) (p : Nat) : Nat := ((s.sw.frames.filter (fun f => f.port == p && f.cls == 7)).map (fun f => f.cells.length)).sum

/-- A frame of a transfer, as queued. -/
def mkFrame (s : State) (p flow xfer : Nat) (tile : Option (Nat × Nat)) (x : XHdr × List Byte) (cells : List Nat) (shared : Option Nat)
    (blocks : List (Nat × Nat)) : Frame :=
  { port := p, cls := x.1.cls, flow := flow, xfer := xfer, tile := tile, hdr := xhdrBytes x.1, payload := x.2, last := x.1.last,
    enter := s.tick.now, cells := cells, shared := shared, blocks := blocks }

/-- A C7 frame is dropped at its out hop, and the mirror sees it (R194, R206). -/
def dropShown (s : State) (f : Frame) : State :=
  mirror s f.port 1 (frameByte f) (32 + f.payload.length) 1 (frameStream f) (frameHead s f)

/-- A C7 frame finds too few cells (R189). -/
def tailDrop (s : State) (f : Frame) : State := dropShown (bump s R.SW_TAIL_DROP) f

/-- A green C7 frame about to be queued meets random early drop (R194). -/
def redMeets (s : State) (f : Frame) : Bool × State :=
  if f.cls = 7 then
    let (red, s1) := redDrops s 0 (queueC7 s f.port)
    (red, if red then dropShown (countRed s1 0) f else s1)
  else (false, s)

/-- Take away the frames queued of a transfer that is not sent after all: its blocks stay its tile's. -/
def unqueue (s : State) (xfer : Nat) : State :=
  dropXfer { s with sw := { s.sw with frames := s.sw.frames.map (fun f => if f.xfer = xfer then { f with blocks := [] } else f) } } xfer

/-- Queue the frames of one copy in cells, a C7 frame meeting random early drop: none when all are queued; else none of the copy is, and
BUSY ends a C7 copy while another must wait (R189, R194). -/
def queueCopy : List Frame → State → Option Nat × State
  | [], s => (none, s)
  | f :: t, s =>
    let (red, s1) := redMeets s f
    if red then (some cBUSY, unqueue s1 f.xfer)
    else match takeCells (cellsOf f.payload.length) s1 (portHoist f.port) [] with
      | (some cells, s2) => queueCopy t (queueFrames s2 [{ f with cells := cells }])
      | (none, s2) => (some (if f.cls = 7 then cBUSY else cWAIT), unqueue (if f.cls = 7 then tailDrop s2 f else s2) f.xfer)

/-- A fresh transfer number. -/
def nextXfer (s : State) : Nat × State := (s.sw.xfer, { s with sw := { s.sw with xfer := s.sw.xfer + 1 } })

/-- The transfer header of a tile for one target, before cutting (R185). -/
def tileHdr (s : State) (st : Stream) (t : Tile) (len : Nat) (mcast : Bool) (x : Target) : XHdr :=
  { typ := 0, flags := ofBool t.coded + ofBool mcast * 2, cls := st.cls, colour := 0, frag := 0, last := false,
    src := fld s R.GLB_NODE 15 0, dst := x.node, stream := x.stream, portLen := len, rawLen := if t.coded then t.desc.len else len,
    seq := t.desc.seq, round := t.desc.round }

/-- Where the coded images among a tile's packed ones end. -/
def codedEnds : List (Option (List Byte)) → Nat → List Nat
  | some img :: t, a => let e := a + img.length; if imgRaw img then codedEnds t e else e :: codedEnds t e
  | _, _ => []

/-- The coded blocks of a tile that end in frame k of its transfer, at their slot (R141). -/
def blocksIn (t : Tile) (bs : List Byte) (k : Nat) : List (Nat × Nat) :=
  let n := ((codedEnds (cutImages (blockLens t.desc.len) bs) 0).filter (fun e => (e - 1) / 8192 == k)).length
  if n = 0 then [] else t.blocks.map (fun e => (e.1, n))

/-- The frames of one copy of a tile, as transfer n. -/
def copyFrames (s : State) (slot : Nat) (st : Stream) (t : Tile) (bs : List Byte) (mcast : Bool) (n : Nat) (x : Target) (shared : Option Nat) :
    List Frame :=
  (cutFrames (tileHdr s st t bs.length mcast x) 0 (pieces 8192 bs)).map
    (fun f => mkFrame s x.port st.sub n (some (slot, t.desc.seq)) f [] shared (if t.coded then blocksIn t bs f.1.frag else []))

/-- The copies of a tile, one per target, each in cells (NORMAL mode). A copy lost to random early drop ends BUSY. -/
def copiesNormal (slot : Nat) (st : Stream) (t : Tile) (bs : List Byte) (mcast : Bool) : List Target → State → List (Option Nat) × State
  | [], s => ([], s)
  | x :: rest, s =>
    let (n, s1) := nextXfer s
    let (code, s2) := queueCopy (copyFrames s1 slot st t bs mcast n x none) s1
    let s3 := if mcast && code.isNone then bump s2 R.SW_MC_COPY else s2
    let (l, s4) := copiesNormal slot st t bs mcast rest s3
    (code :: l, s4)

/-- Queue the frames of a copy that shares a buffer, without cells: a dropped one ends the copy, which gives up its reference. -/
def queueShared (h : Nat) : List Frame → State → Option Nat × State
  | [], s => (none, bump s R.SW_MC_REF)
  | f :: t, s =>
    let (red, s1) := redMeets s f
    if red then
      let queued := s1.sw.frames.any (fun g => g.xfer == f.xfer)
      let s2 := dropXfer s1 f.xfer
      (some cBUSY, bump (if queued then s2 else releaseQuiet s2 h) R.SW_MC_REF)
    else queueShared h t (queueFrames s1 [f])

/-- The copies of a tile that share one buffer (SERVICE mode). -/
def copiesService (slot : Nat) (st : Stream) (t : Tile) (bs : List Byte) (h : Nat) : List Target → State → List (Option Nat) × State
  | [], s => ([], s)
  | x :: rest, s =>
    let (n, s1) := nextXfer s
    let (code, s2) := queueShared h (copyFrames s1 slot st t bs true n x (some h)) s1
    let (l, s3) := copiesService slot st t bs h rest s2
    (code :: l, s3)

/-- The buffer that a SERVICE-mode multicast shares: SRC's own when the tile still lies in a pool buffer, else a P2 buffer
into which the tile is copied; it holds one reference per target (R192). -/
def sharedBuffer (s : State) (t : Tile) (bs : List Byte) (n : Nat) : Option Nat × State :=
  if t.data.isNone ∧ refForm t.desc.src = 1 then
    let h := t.desc.src % 2 ^ 32
    let (c, s1) := addrefBuf s h n
    (if c = cSERVED then some h else none, s1)
  else match allocInternal s 2 (homeSeg s 0) with
    | (.got h, s1) =>
      let s2 := hwWriteAs 5 s1 (bufAddr s1 h) bs
      (some h, if 1 < n then (addrefBuf s2 h (n - 1)).2 else s2)
    | (_, s1) => (none, s1)

/-- A port that an out hop reaches: of its station, and for a unicast served by its place (R191). -/
def portOk (st pl : Nat) (mcast : Bool) (p : Nat) : Bool :=
  decide (p ≤ 6) && (if mcast then portStation p == st else (hopPorts st pl).contains p)

/-- Cells that a tile's copies need on a hoist die. -/
def cellNeed (bs : List Byte) (l : List Target) (hoist : Nat) : Nat :=
  (l.filter (fun x => portHoist x.port == hoist)).length * ((pieces 8192 bs).map (fun b => cellsOf b.length)).sum

/-- A hoist die's cells drop the C7 copies that go there (R189). -/
def c7Shut (s : State) (bs : List Byte) (l : List Target) (h : Nat) : Bool :=
  underXoff s h || decide (freeCells s h < cellNeed bs l h + cellRsv s)

/-- Whether the cells let a station's tile in (R177, R189): none, to take it; or the code to end it or to withhold it. A C7 tile ends here
when the die of each of its copies is shut. -/
def cellGate (s : State) (cls : Nat) (bs : List Byte) (l : List Target) : Option Nat :=
  let hs := (List.range 2).filter (fun h => l.any (fun x => portHoist x.port == h))
  if !inRun s 0x48 then some cWAIT
  else if cls = 7 then (if hs.all (fun h => c7Shut s bs l h) then some cBUSY else none)
  else if 4 ≤ cls ∧ hs.any (fun h => belowXoff s h) then some cWAIT
  else if hs.any (fun h => decide (freeCells s h < cellNeed bs l h + (if cls ≤ 3 then 0 else cellRsv s))) then some cWAIT
  else none

/-- The fabric nodes of a tile's targets, and its own, have VALID entries (R187). -/
def nodesOk (s : State) (st : Nat) (l : List Target) : Bool :=
  st != stFABRIC || ((nodeEntry s (fld s R.GLB_NODE 15 0)).isSome && l.all (fun x => (nodeEntry s x.node).isSome))

/-- Copies that the cells drop: every frame is a tail drop (R189, R206). -/
def dropCopies (s : State) (slot : Nat) (st : Stream) (t : Tile) (bs : List Byte) (mcast : Bool) (l : List Target) : State :=
  (l.flatMap (fun x => copyFrames s slot st t bs mcast 0 x none)).foldl tailDrop s

/-- What the cells let through of a tile's copies, each of a C7 tile on its own (R189, R192, R206): a tile that must wait changes
nothing. -/
def gateCopies (slot : Nat) (st : Stream) (t : Tile) (bs : List Byte) (mcast : Bool) (l : List Target) : HopM (List (Option Nat)) := fun s =>
  match cellGate s st.cls bs l with
  | some code => (.error code, if code = cBUSY then dropCopies s slot st t bs mcast l else s)
  | none =>
    let shut (x : Target) : Bool := decide (st.cls = 7) && c7Shut s bs l (portHoist x.port)
    let lost := l.filter shut
    let (outs, s1) := copiesNormal slot st t bs mcast (l.filter (fun x => !shut x)) (dropCopies s slot st t bs mcast lost)
    if outs.contains (some cWAIT) then (.error cWAIT, dropTileFrames s1 slot t.desc.seq) else (.ok (lost.map (fun _ => some cBUSY) ++ outs), s1)

/-- The copies of a SERVICE-mode multicast, once its buffer can be had. -/
def shareCopies (slot : Nat) (st : Stream) (t : Tile) (bs : List Byte) (l : List Target) : HopM (List (Option Nat)) := fun s =>
  match sharedBuffer s t bs l.length with
  | (none, s1) => (.error cWAIT, s1)
  | (some h, s1) => let (outs, s2) := copiesService slot st t bs h l s1; (.ok outs, s2)

/-- The tile at its out hop once its copies stand as given: it ends when none is left (R192). -/
def copiesStand (t : Tile) (bs : List Byte) (outs : List (Option Nat)) : HopM Tile :=
  let left := (outs.filter Option.isNone).length
  let worst := outs.foldl worse none
  if left = 0 then hopFail (worst.getD cBUSY) else .ret { t with txLeft := left, txWorst := worst, outLen := bs.length }

/-- The work of an out hop: its tile is cut into frames and queued at its ports (R184, R189, R191, R192). -/
def outWork (slot : Nat) (st : Stream) (t : Tile) : HopM Tile :=
  let c := accessOf st t
  (hopGet (fun s => (inRun s pgSW && inRun s pgSCHED, endpointOf s st t.desc.dst))).andThen fun r =>
  match r with
  | (false, _) => hopFail cWAIT
  | (true, none) => hopFail cPOLICY
  | (true, some (mcast, l)) =>
    (hopGet (fun s => l.all (fun x => portOk c.station c.place mcast x.port) && nodesOk s c.station l)).andThen fun ok =>
    if !ok then hopFail cPOLICY else
    (hopInput c t).andThen fun bs =>
    if mcast then
      (hopGet (fun s => flag s R.SW_STATE 1)).andThen fun service =>
      (if service then shareCopies slot st t bs l else gateCopies slot st t bs true l).andThen fun outs => copiesStand t bs outs
    else (gateCopies slot st t bs false l).andThen fun outs => copiesStand { t with blocks := [] } bs outs

/-! ### Gates (R201 to R203) -/

/-- The errors met in the list at SCHED_GCL_BASE (R164). -/
def gclMet (s : State) (p : Nat) : State :=
  let a := reg64 s (keyB R.SCHED_GCL_BASE_LO p) (keyB R.SCHED_GCL_BASE_HI p)
  let n := regN s (keyB R.SCHED_GCL_LEN p)
  if n = 0 ∨ 256 < n ∨ !(match regionOf (regionsNow s) a with | some (_, r) => r.kind == 9 && within r a (4 * n) | none => false) then s else met s a (4 * n)

/-- The list at SCHED_GCL_BASE, checked (R203). -/
def readGcl (s : State) (p : Nat) : Option Gcl :=
  let k (r : Nat) := regN s (keyB r p)
  let a := k R.SCHED_GCL_BASE_LO + k R.SCHED_GCL_BASE_HI * 0x100000000
  let n := k R.SCHED_GCL_LEN
  let inQueue := match regionOf (regionsNow s) a with
    | some (_, r) => r.kind == 9 && within r a (4 * n)
    | none => false
  if n = 0 ∨ 256 < n ∨ !inQueue then none
  else match (hwRead s a (4 * n)).1 with
    | none => none
    | some b =>
      let es := (List.range n).map (fun i => (leAt b (4 * i) 2, leAt b (4 * i + 2) 1))
      if es.any (fun e => e.1 == 0) then none
      else some { start := k R.SCHED_GCL_START_LO + k R.SCHED_GCL_START_HI * 0x100000000, entries := es }

/-- LOAD for a port: it replaces a pending list; an OFF of the same tick still removes the active one. -/
def gclLoadOp (s : State) (p : Nat) : State :=
  let s1 := gclMet s p
  match readGcl s p with
  | some g => putSched s1 p { schedOf s1 p with gclNext := some g }
  | none => event s1 pgSCHED 1

/-- OFF for a port. -/
def gclOffOp (s : State) (p : Nat) : State := putSched s p { schedOf s p with gclOff := true }

/-- At boundary n: pending lists whose tick has come take over; an OFF removes the active one. -/
def gclBoundary (n : Nat) (s : State) (p : Nat) : State :=
  let q := schedOf s p
  let s1 := if q.gclOff then putSched s p { q with gcl := none, gclOff := false } else s
  let q1 := schedOf s1 p
  match q1.gclNext with
  | some g => if g.start ≤ n then event (putSched s1 p { q1 with gcl := some g, gclNext := none }) pgSCHED 0 else s1
  | none => s1

/-! ### Choice (R197 to R200) -/

/-- The quantum of a flow. -/
def flowQuantum (s : State) (flow : Nat) : Nat := if flow = ownFlow then 8448 else max 8448 (flowSub s flow).quantum

/-- The head frames of a port's class, one per flow, in queue order. -/
def headsOf (s : State) (p k : Nat) : List Frame :=
  (s.sw.frames.filter (fun f => f.port == p && f.cls == k)).foldl
    (fun l f => if l.any (fun g => g.flow == f.flow) then l else l ++ [f]) []

/-- Insert a candidate by index. -/
def insBy (x : Nat × Nat × Nat) : List (Nat × Nat × Nat) → List (Nat × Nat × Nat)
  | [] => [x]
  | y :: t => if x.1 < y.1 then x :: y :: t else y :: insBy x t

/-- Visit candidates (index, length, quantum) in turn, each gaining its quantum, until one's deficit covers its length. -/
def drrVisit : List (Nat × Nat × Nat) → List (Nat × Nat) → Option (Nat × List (Nat × Nat)) 
  | [], _ => none
  | (i, len, quantum) :: t, d =>
    let v := mapGet 0 d i + quantum
    if len ≤ v then some (i, mapSet 0 d i (v - len)) else drrVisit t (mapSet 0 d i v)

/-- Deficit round robin (R199, R200): the one being served goes on while its deficit covers its head; then the others in
cyclic order, each gaining its quantum. A quantum covers any frame within two visits. -/
def drr (cur : Nat) (d : List (Nat × Nat)) (cands : List (Nat × Nat × Nat)) : Option (Nat × List (Nat × Nat)) :=
  let c := cands.foldl (fun l x => insBy x l) []
  match c.find? (fun x => x.1 == cur && decide (x.2.1 ≤ mapGet 0 d cur)) with
  | some x => some (cur, mapSet 0 d cur (mapGet 0 d cur - x.2.1))
  | none =>
    let order := c.filter (fun x => decide (cur < x.1)) ++ c.filter (fun x => decide (x.1 ≤ cur))
    drrVisit (order ++ order) d

/-- A head may begin now as far as pause, gate and its subscriber allow. -/
def headReady (s : State) (p : Nat) (f : Frame) : Bool :=
  let q := schedOf s p
  !(decide (p < 4) && nthD false q.paused f.cls) && classOpen s p f.cls && windowCovers s p f.cls (chargedLen s f)
    && flowCovers s f.flow (chargedLen s f)

/-- The subscriber level: the flow's frame to send from a class, with the deficits as they become. -/
def pickFlow (s : State) (p k : Nat) (ready : Frame → Bool) : Option (Frame × PortSched) :=
  let q := schedOf s p
  let hs := (headsOf s p k).filter (fun f => headReady s p f && ready f)
  let mine := q.flows.filterMap (fun e => if e.1 / 8192 = k then some (e.1 % 8192, e.2) else none)
  match drr (nthD 0 q.flowCur k) mine (hs.map (fun f => (f.flow, chargedLen s f, flowQuantum s f.flow))) with
  | none => none
  | some (flow, d) =>
    match hs.find? (fun f => f.flow == flow) with
    | none => none
    | some f =>
      let others := q.flows.filter (fun e => e.1 / 8192 != k)
      let flows := d.foldl (fun l e => mapPut l (k * 8192 + e.1) e.2) others
      some (f, { q with flows := flows, flowCur := setAt 0 q.flowCur k flow })

/-- The cap of C0 to C2 at a port: on a line port the caps apply within P, in ratio when their sum exceeds it. -/
def capRate (s : State) (p k : Nat) : Nat :=
  let r (i : Nat) := fld s (keyB (R.SCHED_CAP_C0 + 4 * i) p) 19 0
  if p = 4 ∨ p = 5 then
    let pv := linePriv s (p - 4)
    let sum := r 0 + r 1 + r 2
    if pv < sum then r k * pv / sum else r k
  else r k

/-- The bucket depth of C0 to C2. -/
def capBurst (s : State) (p k : Nat) : Nat := fld s (keyB (R.SCHED_CAP_C0 + 4 * k) p) 31 20 * 1024

/-- Strict priority of C0 to C2, each within its bucket (R199, step 1). -/
def pickStrict (s : State) (p : Nat) (fits : Frame → Bool) : List Nat → Option (Frame × PortSched)
  | [] => none
  | k :: t =>
    match pickFlow s p k (fun f => fits f && decide (chargedLen s f ≤ nthD 0 (schedOf s p).bucket k)) with
    | some (f, q) => some (f, { q with bucket := setAt 0 q.bucket k (nthD 0 q.bucket k - chargedLen s f) })
    | none => pickStrict s p fits t

/-- The weight of a class. -/
def classWeight (s : State) (p k : Nat) : Nat := fld s (keyB (R.SCHED_WT_C3 + 4 * (k - 3)) p) 23 0

/-- Deficit weighted round robin over some classes (R199, step 3). -/
def pickWeighted (s : State) (p : Nat) (fits : Frame → Bool) (ks : List Nat) : Option (Frame × PortSched) :=
  let ready := ks.filterMap (fun k => (pickFlow s p k fits).map (fun r => (k, r)))
  let q := schedOf s p
  match drr q.cur (q.deficit.zipIdx.map (fun e => (e.2, e.1))) (ready.map (fun r => (r.1, chargedLen s r.2.1, classWeight s p r.1))) with
  | none => none
  | some (k, d) =>
    match ready.find? (fun r => r.1 == k) with
    | none => none
    | some (_, f, q1) => some (f, { q1 with cur := k, deficit := (List.range 8).map (fun i => mapGet 0 d i) })

/-- The frame that a fabric port or HP sends next, with its scheduler as it becomes (R199). -/
def pickFrame (s : State) (p : Nat) : Option (Frame × PortSched) :=
  match pickStrict s p (fun _ => true) [0, 1, 2] with
  | some r => some r
  | none =>
    match pickFlow s p 3 (fun f => p == 6 || decide ((schedOf s p).priv + chargedLen s f ≤ portRsv s p)) with
    | some r => some r
    | none => pickWeighted s p (fun _ => true) [3, 4, 5, 6, 7]

/-- Count a head whose open window does not cover it, once (R202). -/
def markHeld (s : State) (p : Nat) : State :=
  (List.range 8).foldl (fun a k =>
    (headsOf a p k).foldl (fun b f =>
      if !f.held && classOpen b p k && !windowCovers b p k (chargedLen b f) then
        let s1 := bump b (keyB R.SCHED_GATE_HELD p)
        { s1 with sw := { s1.sw with frames := s1.sw.frames.map (fun g => if g = f then { g with held := true } else g) } }
      else b) a) s

/-- The payload of a frame as sent: a SERVICE-mode copy's frame is read from its shared buffer. -/
def sentPayload (s : State) (f : Frame) : List Byte :=
  match f.shared with
  | some h => ((hwRead s (bufAddr s h + 8192 * (parseXhdr f.hdr).frag) f.payload.length).1).getD f.payload
  | none => f.payload

/-- A frame leaves its queue to be sent: it is charged, its cells return, a finished copy ends (R192, R197, R198, R200). The coded blocks that
end in it stay counted on a fabric port until the far end acknowledges the transfer (R141). DESIGN CHOICE (224): on HP, for which no
acknowledgement is given, they leave their counts as the frame does. -/
def leaveQueue (s : State) (f : Frame) (q : PortSched) : State :=
  let len := chargedLen s f
  let q1 := { q with sent := q.sent + len, priv := if f.cls ≤ 3 then q.priv + len else q.priv }
  let s1 := putSched s f.port q1
  let s2 := { s1 with sw := { s1.sw with frames := s1.sw.frames.erase f } }
  let s3 := if f.flow = ownFlow ∨ (flowSub s2 f.flow).rateOut = 0 then s2
    else { s2 with sw := { s2.sw with bucketOut := mapPut s2.sw.bucketOut f.flow (outLevel s2 f.flow - len) } }
  let s4 := idlePort (dropCells s3 f.cells) f.port
  let h := parseXhdr f.hdr
  let s5 := if f.last ∧ h.typ = 0 then { s4 with sw := { s4.sw with grants := s4.sw.grants.erase (f.port, h.dst, h.stream) } } else s4
  let s6 := mirror s5 f.port 1 (frameByte f) (32 + f.payload.length) 0 (frameStream f) (frameHead s5 f)
  let s7 := if f.blocks.isEmpty then s6 else if f.port < 4 then { s6 with sw := { s6.sw with unacked := s6.sw.unacked ++ [(f.xfer, f.blocks)] } }
    else countOut s6 f.blocks
  if f.last then
    copyEnds (match f.shared with | some b => releaseQuiet s7 b | none => s7) f.tile none
  else s7

/-- Receipts of fabric transfers that the far end acknowledged in the tick (R141). -/
def takeFabAcks (s : State) (l : List Nat) : State :=
  (l.filter (fun x => !(s.sw.frames.any (fun f => f.xfer == x)))).foldl settleXfer s

/-- The bytes of a frame on its port, none where the fabric cannot address it. -/
def frameOut (s : State) (f : Frame) : List Byte :=
  let x := f.hdr ++ sentPayload s f
  let h := parseXhdr f.hdr
  if f.port < 4 then
    match nodeEntry s (fld s R.GLB_NODE 15 0), nodeEntry s h.dst with
    | some own, some dst => fabricFrame s f.port f.cls h.stream own dst x
    | _, _ => []
  else x

/-- FRAME_EGRESS at a fabric port or HP (R197 to R202): heads past their age go first; then one frame is sent when the
port's rate allows it in this tick. -/
def egressOp (s : State) (p : Nat) : State :=
  if !inRun s pgSCHED || (4 ≤ p && p < 6) then s
  else
    let s1 := markHeld ((List.range 8).foldl (ageClass p) s) p
    if portRate s1 p ≤ (schedOf s1 p).sent then s1
    else match pickFrame s1 p with
      | none => s1
      | some (f, q) => leaveQueue (emit s1 (.frame p (frameOut s1 f))) f q

/-! ### Grants (R200) -/

/-- The charged length of a full tile at a port. -/
def tileCharge (s : State) (p : Nat) : Nat := 65536 + 8 * (32 + portOvh s p)

/-- MESSAGE and GRANT transfers that WG9 has sent (R185): the messages go out as typed outputs (95), PTP's not being transfers (R188). -/
def sentMessages (s : State) : Nat :=
  s.sw.msgSeq + (s.sent.filter (fun o => match o with | .message k _ _ _ _ _ => k != .ptp | _ => false)).length

/-- The header of a GRANT to an endpoint. -/
def grantHdr (s : State) (x : Target) : XHdr :=
  { typ := 2, flags := 0, cls := 3, colour := 0, frag := 0, last := true, src := fld s R.GLB_NODE 15 0, dst := x.node, stream := x.stream,
    portLen := 1, rawLen := 1, seq := sentMessages s % 2 ^ 48, round := 0 }

/-- Send the grant of one posted receive descriptor, when its subscriber's ingress bucket covers it: whether it is settled. -/
def grantOne (s : State) (slot seq : Nat) : Bool × State :=
  match streamAt s slot with
  | none => (true, s)
  | some st =>
    match st.tiles.find? (fun t => t.desc.seq == seq) with
    | none => (true, s)
    | some t =>
      match endpointOf s st t.desc.src with
      | some (false, [x]) =>
        let u := flowSub s st.sub
        let cost := tileCharge s x.port
        if u.rateIn ≠ 0 ∧ inLevel s st.sub < cost then (false, s)
        else match (if inRun s 0x48 then takeCells 1 s (portHoist x.port) [] else (none, s)) with
          | (none, s1) => (false, s1)
          | (some cells, s1) =>
            let (n, s2) := nextXfer s1
            let f := mkFrame s2 x.port ownFlow n none (grantHdr s2 x, []) cells none []
            let s3 := queueFrames s2 [f]
            let b := if u.rateIn = 0 then s3.sw.bucketIn else mapPut s3.sw.bucketIn st.sub (inLevel s3 st.sub - cost)
            (true, { s3 with sw := { s3.sw with msgSeq := s3.sw.msgSeq + 1, bucketIn := b, granted := s3.sw.granted ++ [(x.port, x.node, x.stream)] } })
      | _ => (true, s)

/-- Grants owed, oldest first. -/
def grantList : List (Nat × Nat) → State → State
  | [], s => s
  | (slot, seq) :: t, s =>
    match grantOne s slot seq with
    | (true, s1) => grantList t { s1 with sw := { s1.sw with owed := s1.sw.owed.erase (slot, seq) } }
    | (false, s1) => grantList t s1

/-- Send what grants can be sent. -/
def sendGrants (s : State) : State := if inRun s pgSCHED && inRun s pgSW then grantList s.sw.owed s else s

/-! ### Subscribers -/

/-- RELOAD of a subscriber record (R190): it is read now and takes effect at the next boundary. A refused record leaves the old one. -/
def reloadSub (s : State) (i : Nat) : State :=
  let s1 := subMet s i
  match readSub s i with
  | some u => { s1 with sw := { s1.sw with reload := mapPut s1.sw.reload i u } }
  | none => event s1 pgSCHED 1

/-- A reloaded record comes into force, with the node entries it names (R187, R190). -/
def takeReload (s : State) (e : Nat × Sub) : State :=
  let s1 := { s with sw := { s.sw with subs := mapPut s.sw.subs e.1 e.2 } }
  pruneNodes ((s1.strm.slots.filter (fun x => x.2.sub == e.1)).foldl (fun a x => cacheNodes a x.1) s1)

/-- Buckets of subscribers at a boundary (R200). -/
def subRefill (s : State) : State :=
  s.sw.subs.foldl (fun a e =>
    let o := min e.2.burstOut (outLevel a e.1 + e.2.rateOut)
    let i := min e.2.burstIn (inLevel a e.1 + e.2.rateIn)
    { a with sw := { a.sw with bucketOut := mapPut a.sw.bucketOut e.1 o, bucketIn := mapPut a.sw.bucketIn e.1 i } }) s

/-! ### The boundary -/

/-- Charged bytes of the tick before that a port carries into the next: on a line port those of the bulk slots alone (R182, R202). -/
def sentCarried (s : State) (p : Nat) : Nat :=
  let q := schedOf s p
  (if p = 4 ∨ p = 5 then q.sent - q.priv else q.sent) - portRate s p

/-- One port at a boundary: what it sent beyond its rate is carried, its class buckets refill, the red pauses of the tick
take effect, a pause that lasted the tick is told (R196, R199, R207). -/
def portBoundary (s : State) (p : Nat) : State :=
  let q := schedOf s p
  let long := (List.range 8).any (fun k => nthD false q.paused k && nthD false q.pausedWas k)
  let q1 := { q with sent := sentCarried s p, priv := 0, bucket := (List.range 3).map (fun k => min (capBurst s p k) (nthD 0 q.bucket k + capRate s p k)),
                     pausedWas := q.paused, redPause := q.redNext, redNext := List.replicate 8 false }
  eventIf (putSched s p q1) long pgSCHED 2

/-- The switch's part of boundary n (R190, R192, R195, R196, R199 to R203). -/
def switchBoundary (s : State) (n : Nat) : State :=
  let s1 := s.sw.reload.foldl takeReload { s with sw := { s.sw with reload := [] } }
  let s2 := (List.range 7).foldl (fun a p => gclBoundary n (portBoundary a p) p) s1
  let s3 := subRefill (policeRefill s2)
  let s4 := if flag s3 R.SW_STATE 0 != flag s3 R.SW_STATE 1 then event (setFlag s3 R.SW_STATE 1 (flag s3 R.SW_STATE 0)) pgSW 0 else s3
  let s5 := (List.range 7).foldl markHeld (ageAll s4)
  sendGrants (landWaiting s5)

end Sys2Proof.Machine
end

