-- ==== Sys2Proof/Machine/Groups.lean ====
section
/-!
DEFINITION. Groups of the collective engine: their tables, levels and sub-groups (R209 to R212), the algorithms as plans
of steps (R213), the carriers (R214) and the group commands (R216).
-/
namespace Sys2Proof.Machine

/-- The page of the collective engine. -/
abbrev pgCOLL : Nat := 0x58
/-- The page of the groups. -/
abbrev pgGRP : Nat := 0x59

/-! ### Stage words (R210) -/

/-- ALG of a stage word: 0 ABSENT, 1 RING, 2 TREE, 3 HALVING. -/
def stAlg (w : Nat) : Nat := w % 8
/-- DEPTH. -/
def stDepth (w : Nat) : Nat := bitsOf w 7 4
/-- The out carrier of a hoist die. -/
def stOut (w h : Nat) : Nat := if h = 0 then bitsOf w 19 8 else bitsOf w 31 20
/-- The in carrier of a hoist die. -/
def stIn (w h : Nat) : Nat := if h = 0 then bitsOf w 43 32 else bitsOf w 55 44

/-- The stage word of a level. -/
def stageOf (g : Group) (l : Nat) : Nat := nthD 0 g.stages l
/-- A level is present. -/
def levelPresent (g : Group) (l : Nat) : Bool := stAlg (stageOf g l) != 0
/-- L0 sums the eight field dies. -/
def l0Tree (g : Group) : Bool := stAlg (stageOf g 0) == 2
/-- The stage words' codes are valid. -/
def stagesOk (g : Group) : Bool :=
  (stAlg (stageOf g 0) == 0 || stAlg (stageOf g 0) == 2)
    && (List.range 5).all (fun l => decide (stAlg (stageOf g l) ≤ 3)
        && (stAlg (stageOf g l) == 0 || (decide (1 ≤ stDepth (stageOf g l)) && decide (stDepth (stageOf g l) ≤ 8))))

/-- A member by index. -/
def memberAt (g : Group) (i : Nat) : CMember := nthD { node := 0, site := 0, present := false, hall := 0, rack := 0, tray := 0, ep := 0 } g.members i
/-- The PRESENT members, by index, in list order. -/
def presentOf (g : Group) : List Nat := (List.range g.members.length).filter (fun i => (memberAt g i).present)
/-- The PRESENT members other than this one. -/
def othersOf (g : Group) : List Nat := (presentOf g).filter (· ≠ g.self)
/-- The member of a node. -/
def memberOfNode (g : Group) (node : Nat) : Option Nat := (presentOf g).find? (fun i => (memberAt g i).node == node)

/-- Two members meet at a level (R212). -/
def meets (g : Group) (l i j : Nat) : Bool :=
  let a := memberAt g i
  let b := memberAt g j
  if l = 4 then true
  else if l = 3 then a.site == b.site && a.hall == b.hall
  else if l = 2 then a.site == b.site && a.hall == b.hall && a.rack == b.rack
  else a.site == b.site && a.hall == b.hall && a.rack == b.rack && a.tray == b.tray

/-- Position of an element in a list. -/
def posIn (x : Nat) : List Nat → Nat
  | [] => 0
  | y :: t => if x = y then 0 else posIn x t + 1

/-- The sub-group at a level of the member with given ranks below, among members with theirs. -/
def subAt (g : Group) (l i : Nat) (keys : List (Nat × List Nat)) : List Nat :=
  let mine := (keys.find? (fun e => e.1 == i)).map (·.2)
  (keys.filter (fun e => meets g l i e.1 && some e.2 == mine)).map (·.1)

/-- One level: every member's rank joins its ranks below. -/
def rankLevel (g : Group) (l : Nat) (keys : List (Nat × List Nat)) : List (Nat × List Nat) :=
  keys.map (fun e => (e.1, e.2 ++ [posIn e.1 (subAt g l e.1 keys)]))

/-- The present levels among L1 to L4. -/
def portLevels (g : Group) : List Nat := (List.range 5).filter (fun l => l != 0 && levelPresent g l)

/-- The sub-groups of a member at each present level of L1 to L4: (level, sub-group). -/
def subGroups (g : Group) (i : Nat) : List Nat → List (Nat × List Nat) → List (Nat × List Nat)
  | [], _ => []
  | l :: t, keys => (l, subAt g l i keys) :: subGroups g i t (rankLevel g l keys)

/-- A member's sub-groups. -/
def groupsOfMember (g : Group) (i : Nat) : List (Nat × List Nat) := subGroups g i (portLevels g) ((presentOf g).map (fun x => (x, [])))

/-- The prime factors of k in rising order, the fuel bounding the search. -/
def primeFactors : Nat → Nat → Nat → List Nat
  | 0, _, _ => []
  | fuel + 1, k, d =>
    if k ≤ 1 then [] else if k % d = 0 then d :: primeFactors fuel (k / d) d else primeFactors fuel k (d + 1)

/-- The factors of a sub-group size. -/
def factorsOf (k : Nat) : List Nat := primeFactors (k + 32) k 2

/-- The first level at which sub-groups differ in size, or HALVING meets a factor above 7 (R212, R213). -/
def badLevel (g : Group) : Option Nat :=
  (portLevels g).find? (fun l =>
    let sizes := (presentOf g).map (fun i => match (groupsOfMember g i).find? (fun e => e.1 == l) with | some e => e.2.length | none => 0)
    sizes.any (fun n => n != sizes.headD 0) || (stAlg (stageOf g l) == 3 && (factorsOf (sizes.headD 0)).any (fun f => decide (7 < f))))

/-! ### Plans (R213) -/

/-- What passes between this member and one peer in one step: chunks sent and received, results (gather) or partials, and
the contributors that a received partial holds. -/
structure Xf where
  level : Nat
  peer : Nat
  gather : Bool
  send : List Nat
  recv : List Nat
  count : Nat
  deriving DecidableEq, Repr

/-- Part q of a range divided in k: positions congruent to q. -/
def partAt (range : List Nat) (k q : Nat) : List Nat := (range.zipIdx.filter (fun e => e.2 % k == q)).map (·.1)

/-- Digit j of x under radices. -/
def digitAt : List Nat → Nat → Nat → Nat
  | [], _, _ => 0
  | f :: _, 0, x => x % f
  | f :: t, j + 1, x => digitAt t j (x / f)

/-- Digits below j agree. -/
def lowAgree (fs : List Nat) (j x y : Nat) : Bool := (List.range j).all (fun i => digitAt fs i x == digitAt fs i y)
/-- All digits but j agree. -/
def onlyDiffers (fs : List Nat) (j x y : Nat) : Bool :=
  (List.range fs.length).all (fun i => i == j || digitAt fs i x == digitAt fs i y) && digitAt fs j x != digitAt fs j y

/-- The product of the first j factors. -/
def prodTo (fs : List Nat) (j : Nat) : Nat := (fs.take j).foldl (· * ·) 1

/-- The reduce half of a level for rank p of k over a range, m contributors standing behind each member (R213). -/
def reduceHalf (l alg : Nat) (sub range : List Nat) (p m : Nat) : List (List Xf) :=
  let k := sub.length
  let peer (q : Nat) := nthD 0 sub q
  if alg = 1 then
    (List.range (k - 1)).map (fun s =>
      [⟨l, peer ((p + 1) % k), false, partAt range k ((p + 2 * k - s) % k), [], 0⟩,
       ⟨l, peer ((p + k - 1) % k), false, [], partAt range k ((p + 2 * k - 1 - s) % k), (s + 1) * m⟩])
  else if alg = 2 then
    (List.range (Nat.log2 (max 1 (k - 1)) + 1)).map (fun j =>
      if p % 2 ^ (j + 1) = 2 ^ j then [⟨l, peer (p - 2 ^ j), false, range, [], 0⟩]
      else if p % 2 ^ (j + 1) = 0 ∧ p + 2 ^ j < k then [⟨l, peer (p + 2 ^ j), false, [], range, min (2 ^ j) (k - p - 2 ^ j) * m⟩]
      else [])
  else
    let fs := factorsOf k
    (List.range fs.length).map (fun j =>
      ((List.range k).filter (fun q => onlyDiffers fs j p q)).map (fun q =>
        let sent := ((List.range k).filter (fun x => lowAgree fs j p x && digitAt fs j x == digitAt fs j q)).flatMap (partAt range k)
        let got := ((List.range k).filter (fun x => lowAgree fs (j + 1) p x)).flatMap (partAt range k)
        ⟨l, peer q, false, sent, got, prodTo fs j * m⟩))

/-- The gather half of a level, over the whole range and its parts (R213). -/
def gatherHalf (l alg : Nat) (sub range : List Nat) (part : Nat → List Nat) (p : Nat) : List (List Xf) :=
  let k := sub.length
  let peer (q : Nat) := nthD 0 sub q
  if alg = 1 then
    (List.range (k - 1)).map (fun s =>
      [⟨l, peer ((p + 1) % k), true, part ((p + 2 * k - s + 1) % k), [], 0⟩,
       ⟨l, peer ((p + k - 1) % k), true, [], part ((p + 2 * k - s) % k), 0⟩])
  else if alg = 2 then
    (List.range (Nat.log2 (max 1 (k - 1)) + 1)).reverse.map (fun j =>
      if p % 2 ^ (j + 1) = 2 ^ j then [⟨l, peer (p - 2 ^ j), true, [], range, 0⟩]
      else if p % 2 ^ (j + 1) = 0 ∧ p + 2 ^ j < k then [⟨l, peer (p + 2 ^ j), true, range, [], 0⟩]
      else [])
  else
    let fs := factorsOf k
    (List.range fs.length).reverse.map (fun j =>
      ((List.range k).filter (fun q => onlyDiffers fs j p q)).map (fun q =>
        let sent := ((List.range k).filter (fun x => lowAgree fs (j + 1) p x)).flatMap part
        let got := ((List.range k).filter (fun x => lowAgree fs j p x && digitAt fs j x == digitAt fs j q)).flatMap part
        ⟨l, peer q, true, sent, got, 0⟩))

/-- ALL_GATHER under TREE: the blocks go up the tree to the root, each member sending those of the ranks behind it, and the rest comes down.
DEDUCED (113): the gather half passes the root's complete range down, and the root's range is complete only once it holds every member's
input. -/
def gatherTree (l : Nat) (sub whole : List Nat) (part : Nat → List Nat) (p : Nat) : List (List Xf) :=
  let k := sub.length
  let peer (q : Nat) := nthD 0 sub q
  let behind (q j : Nat) : List Nat := (List.range (min (2 ^ j) (k - q))).flatMap (fun i => part (q + i))
  let rest (q j : Nat) : List Nat := whole.filter (fun c => !(behind q j).contains c)
  let edge (f : Nat → List Xf) (g : Nat → List Xf) (j : Nat) : List Xf :=
    if p % 2 ^ (j + 1) = 2 ^ j then f j else if p % 2 ^ (j + 1) = 0 ∧ p + 2 ^ j < k then g j else []
  let steps := List.range (Nat.log2 (max 1 (k - 1)) + 1)
  steps.map (edge (fun j => [⟨l, peer (p - 2 ^ j), true, behind p j, [], 0⟩]) (fun j => [⟨l, peer (p + 2 ^ j), true, [], behind (p + 2 ^ j) j, 0⟩]))
    ++ steps.reverse.map (edge (fun j => [⟨l, peer (p - 2 ^ j), true, [], rest p j, 0⟩]) (fun j => [⟨l, peer (p + 2 ^ j), true, rest (p + 2 ^ j) j, [], 0⟩]))

/-- A half of a level, in batches of the chunks that DEPTH lets be in flight at once: a chunk is in flight until the half is complete for it
(R224). -/
def inBatches (depth : Nat) (range : List Nat) (steps : List (List Xf)) : List (List Xf) :=
  (pieces (max 1 depth) range).flatMap (fun b => steps.map (fun xs =>
    xs.map (fun x => { x with send := x.send.filter (fun c => b.contains c), recv := x.recv.filter (fun c => b.contains c) })))

/-- The range a member keeps after the reduce half: under RING the part that its last step completes, under HALVING part p,
under TREE the whole range at the root and nothing elsewhere. -/
def keptRange (alg : Nat) (sub range : List Nat) (p : Nat) : List Nat :=
  let k := sub.length
  if alg = 1 then partAt range k ((p + 1) % k)
  else if alg = 2 then (if p = 0 then range else [])
  else partAt range k p

/-- The reduce halves upward and the gather halves downward from a range, at the member's sub-groups in rising order; the
Bool says whether results are gathered. The second component is the range that the member finishes. -/
def reducePlan (g : Group) (gather : Bool) : List (Nat × List Nat) → List Nat → Nat → List (List Xf) × List Nat × List (List Xf)
  | [], range, _ => ([], range, [])
  | (l, sub) :: t, range, m =>
    let alg := stAlg (stageOf g l)
    let p := posIn g.self sub
    let depth := stDepth (stageOf g l)
    let up := inBatches depth range (reduceHalf l alg sub range p m)
    let (ups, final, downs) := reducePlan g gather t (keptRange alg sub range p) (m * sub.length)
    (up ++ ups, final, downs ++ (if gather then inBatches depth range (gatherHalf l alg sub range (partAt range sub.length) p) else []))

/-- The lowest present level at which two members meet. -/
def meetLevel (g : Group) (i j : Nat) : Nat := ((portLevels g).find? (fun l => meets g l i j)).getD 4

/-! ### Carriers (R214) -/

/-- A stream's route is an out carrier's for a level on a hoist die. -/
def outRoute (st : Stream) (l h : Nat) : Bool :=
  let port := if l = 4 then stLINE else stFABRIC
  let a := stREDUCE + 16 * (8 + h)
  let b := port + 16 * (8 + h)
  st.route == [a, b] || st.route == [a, stCODEC + 16 * (8 + h), b]

/-- A stream's route is an in carrier's. -/
def inRoute (st : Stream) (l h : Nat) : Bool :=
  let port := if l = 4 then stLINE else stFABRIC
  let a := stREDUCE + 16 * (8 + h)
  let b := port + 16 * (8 + h)
  st.route == [b, a] || st.route == [b, stEXPAND + 16 * (8 + h), a]

/-- The class of a group's carriers. -/
def carrierClass (g : Group) : Nat := if bitOf g.flags 1 then 4 else if bitOf g.flags 2 then 5 else 6

/-- The stream in a slot that a stage word names; 0xFFF names none (R210). -/
def carrierAt (s : State) (slot : Nat) : Option Stream := if slot = 0xFFF then none else streamAt s slot

/-- The carriers for a member at a level, in a state that is allowed: out and in slots on the hoist die of its endpoint's port (R214). -/
def carriersWhere (ok : Nat → Bool) (s : State) (g : Group) (l i : Nat) : Option (Nat × Nat) :=
  let w := stageOf g l
  if !levelPresent g l then none else
  (List.range 2).findSome? (fun h =>
    match carrierAt s (stOut w h), carrierAt s (stIn w h) with
    | some o, some n =>
      if ok o.state ∧ ok n.state ∧ outRoute o l h ∧ inRoute n l h ∧ o.cls = carrierClass g ∧ n.cls = carrierClass g then
        match endpointOf s o (2 ^ 47 + (memberAt g i).ep) with
        | some (false, [x]) => if x.port ≤ 6 ∧ portHoist x.port = h ∧ portStation x.port = (if l = 4 then stLINE else stFABRIC)
            then some (stOut w h, stIn w h) else none
        | _ => none
      else none
    | _, _ => none)

/-- The carriers for a member at a level, OPEN. -/
def carriersFor (s : State) (g : Group) (l i : Nat) : Option (Nat × Nat) := carriersWhere (· == 1) s g l i

/-! ### Group commands (R216) -/

/-- Read a member list entry. -/
def parseMember (b : List Byte) : CMember :=
  { node := leAt b 0 2, site := leAt b 2 1, present := bitOf (leAt b 3 1) 0, hall := leAt b 4 2, rack := leAt b 6 2, tray := leAt b 8 2, ep := leAt b 10 2 }

/-- A range lies whole in a valid region of a kind. -/
def inKind (s : State) (kind a n : Nat) : Bool :=
  match regionOf (regionsNow s) a with
  | some (_, r) => r.kind == kind && within r a n
  | none => false

/-- Read a group table entry and its members, each in a QUEUE region (R209), when check 1's own codes hold. -/
def readGroup (s : State) (g : Nat) : Option Group × State :=
  let a := reg64 s R.GRP_BASE_LO R.GRP_BASE_HI + 64 * g
  match (if inKind s 9 a 64 then hwRead s a 64 else (none, s)) with
  | (none, s1) => (none, s1)
  | (some b, s1) =>
    let n := leAt b 8 4 % 2 ^ 17
    let ml := leAt b 0x10 8
    let fl := leAt b 0 1
    if !bitOf fl 0 ∨ (bitOf fl 1 ∧ bitOf fl 2) ∨ n = 0 ∨ 65536 < n ∨ ml % 16 ≠ 0 ∨ !(inKind s1 9 ml (16 * n)) then (none, s1)
    else match hwRead s1 ml (16 * n) with
      | (none, s2) => (none, s2)
      | (some l, s2) =>
        let r : Group := { flags := fl, job := leAt b 2 2, epoch := leAt b 4 4, self := leAt b 0xC 4 % 65536,
                           members := (pieces 16 l).map parseMember, stages := (List.range 5).map (fun k => leAt b (0x18 + 8 * k) 8) }
        (if r.self < n ∧ (memberAt r r.self).node = fld s R.GLB_NODE 15 0 ∧ stagesOk r then some r else none, s2)

/-- The members that this one reaches at a level: those of its sub-group, and those that it meets first there (R214, R219). -/
def reachedAt (g : Group) (e : Nat × List Nat) : List Nat :=
  (othersOf g).filter (fun i => e.2.contains i || (portLevels g).find? (fun l => meets g l g.self i) == some e.1)

/-- The first level and member for which the carriers are not as required (check 3). -/
def badCarrier (s : State) (g : Group) : Option (Nat × Nat) :=
  if !(presentOf g).contains g.self then none
  else (groupsOfMember g g.self).findSome? (fun e => (reachedAt g e).findSome? (fun i =>
    if (carriersFor s g e.1 i).isNone then some (e.1, i) else none))

/-- A group's active requests. -/
def activeOf (s : State) (g : Nat) : List CReq := s.coll.active.filter (fun r => r.group == g)

/-- Post the answer of a group command. -/
def answerGroup (s : State) (code level member : Nat) : State :=
  event (setN s R.GRP_RES (code * 16 + level * 0x100 + member * 0x800)) pgGRP (if code = cSERVED then 0 else 1)

/-- A group as held, disabled when none. -/
def groupAt (s : State) (g : Nat) : Option Group := mapFind s.coll.groups g

/-- Hold a group. -/
def putGroup (s : State) (g : Nat) (x : Group) : State := { s with coll := { s.coll with groups := mapPut s.coll.groups g x } }

/-- Keep the node entries of a group's members (R187). -/
def cacheMembers (s : State) (g : Group) : State :=
  readNodes s ((presentOf g).map (fun i => (memberAt g i).node))

/-- A PRESENT member stands at a site whose attestation report names another ARITH_REV (R101). -/
def badRev (s : State) (g : Group) : Bool :=
  (presentOf g).any (fun i => match mapFind s.site.revs (memberAt g i).site with | some r => r != regN s R.ARITH_REV | none => false)

/-- ENABLE or RELOAD of a group, its checks in order; members with another ARITH_REV are not admitted (R101). -/
def groupEnableOp (s : State) (g : Nat) (reload : Bool) : State :=
  match (if inRun s pgCOLL then readGroup s g else (none, s)) with
  | (none, s) => answerGroup s cPOLICY 0 0
  | (some x, s) =>
    if badRev s x then answerGroup s cPOLICY 0 0 else
    match badLevel x with
    | some l => answerGroup s cPOLICY l 0
    | none =>
      match badCarrier s x with
      | some (l, i) => answerGroup s cPOLICY l i
      | none =>
        if reload ∧ !(activeOf s g).isEmpty then answerGroup s cBUSY 0 0
        else answerGroup (cacheMembers (putGroup s g x) x) cSERVED 0 0

/-- Drop a DISABLING group whose last request has ended: the disable is then done. -/
def groupDrained (s : State) (g : Nat) : State :=
  match groupAt s g with
  | some x =>
    if x.state = 2 ∧ (activeOf s g).isEmpty then
      let s1 := pruneNodes { s with coll := { s.coll with groups := mapDel s.coll.groups g } }
      if flag s1 R.GRP_RES 0 then answerGroup s1 cSERVED 0 0 else s1
    else s
  | none => s

/-- DISABLE of a group: the answer waits for its active requests. -/
def groupDisableOp (s : State) (g : Nat) : State :=
  if !inRun s pgCOLL then answerGroup s cPOLICY 0 0
  else match groupAt s g with
    | none => answerGroup s cSERVED 0 0
    | some x => groupDrained (setN (putGroup s g { x with state := 2 }) R.GRP_RES 1) g

/-- The command of GRP_CMD through a window, for the group in GRP_IDX. -/
def groupCmd (s : State) (w : Win) (op : Nat) : State :=
  if mayWrite s w R.GRP_CMD && !flag s R.GRP_RES 0 then
    let g := fld s R.GRP_IDX 11 0
    if op = 1 then groupEnableOp s g false else if op = 2 then groupDisableOp s g else groupEnableOp s g true
  else s

end Sys2Proof.Machine
end

