-- ==== Sys2Proof/Machine/Coll.lean ====
section
/-!
DEFINITION. The collective engine's requests: fetch and checks (R217 to R220), the exchange (R221, R222), chunks and
carrier tiles (R223 to R225), chunk checks (R226 to R228), completion and abort (R229 to R234).
-/
namespace Sys2Proof.Machine

/-! ### Requests -/

/-- The ring's size. -/
def rqSize (s : State) : Nat := 2 ^ fld s R.COLL_RQ_CFG 3 0
/-- HEAD of the ring. -/
def rqHead (s : State) : Nat := fld s R.COLL_RQ_PTR 11 0
/-- TAIL of the ring. -/
def rqTail (s : State) : Nat := fld s R.COLL_RQ_PTR 27 16

/-- The request record at a ring slot, when it can be read. -/
def readRequest (s : State) (slot : Nat) : Option (List Byte) × State :=
  hwRead s (reg64 s R.COLL_RQ_BASE_LO R.COLL_RQ_BASE_HI + 128 * slot) 128

/-- A record's fields (R218). -/
def parseRequest (num slot : Nat) (b : List Byte) : CReq :=
  { num := num, rslot := slot, oper := leAt b 1 1 % 16, group := leAt b 2 2 % 4096, inFmt := leAt b 4 1, outFmt := leAt b 5 1,
    window := leAt b 6 1, ring := leAt b 7 1, notify := bitOf (leAt b 0xE 2) 0, round := leAt b 8 6, src := leAt b 0x10 8,
    dst := leAt b 0x18 8, elems := leAt b 0x20 8, records := leAt b 0x28 8, counts := leAt b 0x30 8, root := leAt b 0x38 4,
    tag := leAt b 0x3C 4 }

/-- S code, G code, PREAGREED. -/
def reqS (r : CReq) : Nat := r.window % 4
/-- G code. -/
def reqG (r : CReq) : Nat := r.window / 4 % 4
/-- PREAGREED. -/
def reqPre (r : CReq) : Bool := bitOf r.window 4

/-- The input is block-scaled integer (R97). -/
def reqInt (r : CReq) : Bool := r.inFmt == 0x0B || r.inFmt == 0x0C
/-- The operation adds under a window. -/
def isSum (oper : Nat) : Bool := oper == 2 || oper == 3
/-- The operation compares. -/
def isCmp (oper : Nat) : Bool := oper == 8 || oper == 9
/-- The input's element. -/
def inElem (r : CReq) : Elem := (elemOf r.inFmt).getD .raw
/-- The result's element. -/
def outElem (r : CReq) : Elem := if isSum r.oper ∨ isCmp r.oper then (elemOf r.outFmt).getD .raw else inElem r

/-- Contributors a member declares (R221). -/
def ownCount (g : Group) : Nat := if l0Tree g then 8 else 1

/-! ### Places of elements -/

/-- Elements of a chunk of a format (R223). -/
def chunkElems (el : Elem) : Nat :=
  if isScaled el then 1024 * groupBlocks (elemBits el) * 32 else 0x400000 / max 1 (elemBits el / 8)

/-- Chunks of a request's input. -/
def reqChunks (r : CReq) : Nat := (r.elems + chunkElems (inElem r) - 1) / chunkElems (inElem r)
/-- The elements of a chunk: first and number. -/
def chunkRange (r : CReq) (c : Nat) : Nat × Nat :=
  let n := chunkElems (inElem r)
  (c * n, min n (r.elems - c * n))

/-- The part of one scale group that a run of blocks touches: the group, its first block there, their number, the blocks in the group, and the
padding that follows (R83). -/
structure GroupRun where
  grp : Nat
  first : Nat
  num : Nat
  inGroup : Nat
  pad : Nat
  deriving DecidableEq, Repr

/-- The parts of scale groups that n elements from e0 of a tensor of `total` elements touch, in address order (R83). -/
def groupRuns (bits total e0 n : Nat) : List GroupRun :=
  let per := groupBlocks bits
  let b0 := e0 / 32
  let b1 := b0 + n / 32
  (List.range ((b1 + per - 1) / per - b0 / per)).map (fun i =>
    let g := b0 / per + i
    let k0 := b0 - g * per
    let k1 := min per (b1 - g * per)
    ⟨g, k0, k1 - k0, min per (total / 32 - g * per), if k1 = per then 4096 - per * (4 * bits + 1) else 0⟩)

/-- Where a run of elements of a tensor lies: address and length of each piece, in address order: of each scale group it touches its element
bytes, its scale bytes and, where it ends a full group, the padding (R83). -/
def elemSegs (el : Elem) (base total e0 n : Nat) : List (Nat × Nat) :=
  let bits := elemBits el
  if !isScaled el then [(base + e0 * (bits / 8), n * (bits / 8))]
  else (groupRuns bits total e0 n).flatMap (fun r =>
    [(base + 4096 * r.grp + 4 * bits * r.first, 4 * bits * r.num), (base + 4096 * r.grp + 4 * bits * r.inGroup + r.first, r.num + r.pad)])

/-- The elements of the parts of groups from their bytes, each its scale code and its own code. -/
def groupRaws (bits : Nat) : List GroupRun → List Byte → List (Nat × Nat)
  | [], _ => []
  | r :: t, bs =>
    let codes := pieces 32 (unpack bits (32 * r.num) bs)
    (codes.zip ((bs.drop (4 * bits * r.num)).take r.num)).flatMap (fun x => x.1.map (fun c => (x.2.toNat, c)))
      ++ groupRaws bits t (bs.drop ((4 * bits + 1) * r.num + r.pad))

/-- The elements of a run from its bytes as `elemSegs` lists them. -/
def runRaws (el : Elem) (total e0 n : Nat) (bs : List Byte) : List (Nat × Nat) :=
  if isScaled el then groupRaws (elemBits el) (groupRuns (elemBits el) total e0 n) bs else rawsOf el bs

/-- The bytes of blocks laid over the parts of groups. -/
def layGroups (bits : Nat) : List GroupRun → List (Nat × List Nat) → List Byte
  | [], _ => []
  | r :: t, l =>
    let x := l.take r.num
    pack bits (x.flatMap (·.2)) ++ x.map (fun b => BitVec.ofNat 8 b.1) ++ List.replicate r.pad 0 ++ layGroups bits t (l.drop r.num)

/-- The bytes of a run of values from element e0 of a tensor. -/
def runBytes (el : Elem) (total e0 : Nat) (l : List Val) : List Byte :=
  if isScaled el then layGroups (elemBits el) (groupRuns (elemBits el) total e0 l.length) ((pieces 32 l).map (encodeBlock el none))
  else encodeTensor el l

/-- The bytes of a run of elements that keep their bits. -/
def rawBytes (el : Elem) (total e0 : Nat) (l : List (Nat × Nat)) : List Byte :=
  if isScaled el then layGroups (elemBits el) (groupRuns (elemBits el) total e0 l.length) ((pieces 32 l).map (rawBlock el))
  else l.flatMap (fun e => bytesLE (elemBits el / 8) e.2)

/-- Read pieces of storage in turn; none where a word is uncorrectable or missing. -/
def readParts : List (Nat × Nat) → State → Option (List Byte) × State
  | [], s => (some [], s)
  | (a, n) :: t, s =>
    match hwRead s a n with
    | (some b, s1) =>
      match readParts t s1 with
      | (some r, s2) => (some (b ++ r), s2)
      | (none, s2) => (none, s2)
    | (none, s1) => (none, s1)

/-- Read pieces of storage as the REDUCE station. -/
def readSegs (l : List (Nat × Nat)) (s : State) : Option (List Byte) × State := readParts (cutSegs s l) s

/-- Write a structure over a range that may run through several regions and slices. -/
def hwWriteRange (s : State) (a : Nat) (bs : List Byte) : State :=
  ((cutSegs s [(a, bs.length)]).foldl (fun x p => (hwWrite x.1 p.1 (x.2.take p.2), x.2.drop p.2)) (s, bs)).1

/-- Read a structure over a range that may run through several regions and slices. -/
def hwReadRange (s : State) (a n : Nat) : Option (List Byte) × State := readSegs [(a, n)] s

/-- Bytes laid over pieces, from an offset in their concatenation: address and bytes of each. -/
def segPieces : List (Nat × Nat) → Nat → List Byte → List (Nat × List Byte)
  | [], _, _ => []
  | (a, n) :: t, off, bs =>
    if bs.isEmpty then []
    else if n ≤ off then segPieces t (off - n) bs
    else (a + off, bs.take (n - off)) :: segPieces t 0 (bs.drop (n - off))

/-- Read pieces as a hop does (R160, R164). -/
def hopReadSegs (c : Access) (l : List (Nat × Nat)) : HopM (List Byte) :=
  (hopGet (fun s => cutSegs s l)).andThen fun p => (HopM.each (fun x => hopRead c x.1 x.2) p).andThen fun bs => .ret bs.flatten

/-- Write bytes over pieces as a hop does: all of them or none (R160). -/
def hopWriteSegs (c : Access) (l : List (Nat × Nat)) (off : Nat) (bs : List Byte) : HopM Unit :=
  (hopGet (fun s => cutSegs s l)).andThen fun p => hopWriteAll c false (segPieces p off bs)

/-- The REDUCE station of the hoist die that accumulates a chunk, as the engine itself works there for a request (R224, R231). -/
def engineAccess (s : State) (round chunk : Nat) : Access := ⟨stREDUCE, 8 + chunk % 2, false, regionVersion s, s.regn.gate, round⟩

/-- Total length of pieces. -/
def segsLen (l : List (Nat × Nat)) : Nat := (l.map (·.2)).sum

/-! Transfers of whole results are numbered: a chunk index for reductions and BROADCAST; position × 2^32 + chunk for ALL_GATHER;
(sender × 65536 + receiver) × 2^32 + chunk for the exchanges of blocks (positions among the PRESENT members). The chunk is one of the
sender's input (R223). -/

/-- The chunk index of a result transfer (R223, R226). -/
def chunkNum (id : Nat) : Nat := id % 2 ^ 32

/-- A member's position among the PRESENT. -/
def posOf (g : Group) (i : Nat) : Nat := posIn i (presentOf g)

/-- Elements that a sender's block for a receiver holds, and where it starts: in the sender's input, and at the receiver. `cnt x y`
gives the elements that position x sends to y. -/
def blockPlace (p : Nat) (cnt : Nat → Nat → Nat) (x y : Nat) : Nat × Nat × Nat :=
  let _ := p
  (cnt x y, ((List.range y).map (fun z => cnt x z)).sum, ((List.range x).map (fun z => cnt z y)).sum)

/-- The counts of ALL_TO_ALL_V that members sent, this member's own among them: elements from position x to y. -/
def countsOf (r : CReq) (x y : Nat) : Nat :=
  let g := r.grp
  let nx := (memberAt g (nthD 0 (presentOf g) x)).node
  let my := nthD 0 (presentOf g) y
  match r.got.find? (fun e => e.1 == nx) with
  | some e => leAt e.2 (8 * my) 8
  | none => 0

/-- Elements exchanged between positions: whole blocks, in a format that has block scales. DESIGN CHOICE (232): elements beyond those of equal
blocks, or beyond whole blocks of 32, do not move. -/
def a2aCount (r : CReq) (x y : Nat) : Nat :=
  let n := if r.oper = 7 then countsOf r x y else r.elems / max 1 (presentOf r.grp).length
  if isScaled (outElem r) then n / 32 * 32 else n

/-- The part of chunk c of position x's input that goes to position y: its first element in that input, its elements, and its first element in
y's result (R219, R223). -/
def a2aPiece (r : CReq) (x y c : Nat) : Nat × Nat × Nat :=
  let (n, so, d) := blockPlace 0 (a2aCount r) x y
  let per := chunkElems (outElem r)
  let e0 := max so (c * per)
  (e0, min (so + n) ((c + 1) * per) - e0, d + (e0 - so))

/-- Where the elements of a result transfer lie in the result at DST: the result's elements, the first, and their number. -/
def dstPlace (r : CReq) (id : Nat) : Nat × Nat × Nat :=
  let p := (presentOf r.grp).length
  if r.oper = 4 then
    let (e0, n) := chunkRange r (chunkNum id)
    (p * r.elems, id / 2 ^ 32 * r.elems + e0, n)
  else if r.oper = 6 ∨ r.oper = 7 then
    let y := id / 2 ^ 32 % 65536
    let (_, m, d) := a2aPiece r (id / 2 ^ 48) y (chunkNum id)
    (((List.range p).map (fun z => a2aCount r z y)).sum, d, m)
  else let (e0, n) := chunkRange r (chunkNum id); (r.elems, e0, n)

/-- Where they lie in this member's input at SRC. -/
def srcPlace (r : CReq) (id : Nat) : Nat × Nat × Nat :=
  if r.oper = 6 ∨ r.oper = 7 then
    let x := id / 2 ^ 48
    let (e0, m, _) := a2aPiece r x (id / 2 ^ 32 % 65536) (chunkNum id)
    (if r.oper = 6 then r.elems else ((List.range (presentOf r.grp).length).map (a2aCount r x)).sum, e0, m)
  else let (e0, n) := chunkRange r (chunkNum id); (r.elems, e0, n)

/-- The pieces of a result transfer at DST, in address order (R83, R226). -/
def resultSegs (r : CReq) (id : Nat) : List (Nat × Nat) :=
  if isSum r.oper ∧ reqInt r then
    let (e0, n) := chunkRange r (chunkNum id)
    [(r.dst + 4 * e0, 4 * n), (r.dst + 4 * r.elems + e0 / 32, n / 32)]
  else let (total, e0, n) := dstPlace r id; elemSegs (outElem r) r.dst total e0 n

/-- Its pieces at SRC. -/
def sourceSegs (r : CReq) (id : Nat) : List (Nat × Nat) :=
  let (total, e0, n) := srcPlace r id
  elemSegs (outElem r) r.src total e0 n

/-- The bytes of a transfer of this member's input as they lie at DST: its elements, laid out anew where block scales give them other places
there (R83, R226). -/
def sourceBytes (r : CReq) (id : Nat) (bs : List Byte) : List Byte :=
  let (total, e0, n) := srcPlace r id
  let (dtotal, d0, _) := dstPlace r id
  let bits := elemBits (outElem r)
  if isScaled (outElem r) then
    layGroups bits (groupRuns bits dtotal d0 n) ((pieces 32 (runRaws (outElem r) total e0 n bs)).map (fun l => ((l.headD (0, 0)).1, l.map (·.2))))
  else bs

/-! ### The plan of a request -/

/-- The whole range of a request's chunks. -/
def wholeRange (r : CReq) : List Nat := List.range (reqChunks r)

/-- ALL_GATHER: at each present level the gather half of its algorithm, a part being the blocks that a rank holds: under RING those of the rank
before, as the half takes rank p to hold part p + 1 (R213, R219). -/
def gatherPlan (r : CReq) (g : Group) : List (Nat × List Nat) → (Nat → List Nat) → List (List Xf)
  | [], _ => []
  | (l, sub) :: t, held =>
    let k := sub.length
    let ids (i : Nat) : List Nat := (held i).flatMap (fun b => (wholeRange r).map (fun c => b * 2 ^ 32 + c))
    let part (q : Nat) : List Nat := ids (nthD 0 sub q)
    let whole := (List.range k).flatMap part
    let p := posIn g.self sub
    let steps : List (List Xf) := match stAlg (stageOf g l) with
      | 2 => gatherTree l sub whole part p
      | 1 => gatherHalf l 1 sub whole (fun q => part ((q + k - 1) % k)) p
      | a => gatherHalf l a sub whole part p
    inBatches (stDepth (stageOf g l)) whole steps ++ gatherPlan r g t (fun i => match (groupsOfMember g i).find? (fun e => e.1 == l) with
      | some e => e.2.flatMap held
      | none => held i)

/-- BROADCAST: a binomial tree rotated so that ROOT has rank 0 (R219). -/
def broadcastPlan (r : CReq) (g : Group) : List (List Xf) :=
  let ps := presentOf g
  let n := ps.length
  let rp := posIn r.root ps
  let p := (posIn g.self ps + n - rp) % n
  let peer (q : Nat) := nthD 0 ps ((q + rp) % n)
  inBatches (((portLevels g).map (fun l => stDepth (stageOf g l))).foldl min 8) (wholeRange r) <|
  (List.range (Nat.log2 (max 1 (n - 1)) + 1)).reverse.map (fun j =>
    if p % 2 ^ (j + 1) = 2 ^ j then [⟨meetLevel g g.self (peer (p - 2 ^ j)), peer (p - 2 ^ j), true, [], wholeRange r, 0⟩]
    else if p % 2 ^ (j + 1) = 0 ∧ p + 2 ^ j < n then [⟨meetLevel g g.self (peer (p + 2 ^ j)), peer (p + 2 ^ j), true, wholeRange r, [], 0⟩]
    else [])

/-- The identifiers of a block from position x to y: the chunks of x's input that it lies in. -/
def blockIds (r : CReq) (x y : Nat) : List Nat :=
  let per := chunkElems (outElem r)
  let (n, so, _) := blockPlace 0 (a2aCount r) x y
  if n = 0 then [] else (List.range ((so + n - 1) / per - so / per + 1)).map (fun i => (x * 65536 + y) * 2 ^ 32 + (so / per + i))

/-- ALL_TO_ALL: every pair of different members at once (R219). -/
def a2aPlan (r : CReq) (g : Group) : List (List Xf) :=
  let me := posOf g g.self
  [(othersOf g).map (fun i =>
    let q := posOf g i
    ⟨meetLevel g g.self i, i, true, blockIds r me q, blockIds r q me, 0⟩)]

/-- A request's steps: those before FINISH, the chunks it finishes, those after. -/
def planOf (r : CReq) : List (List Xf) × List Nat × List (List Xf) :=
  let g := r.grp
  let subs := groupsOfMember g g.self
  if isSum r.oper ∨ isCmp r.oper then reducePlan g (r.oper != 3) subs (wholeRange r) (ownCount g)
  else if r.oper = 4 then ([], [], gatherPlan r g subs (fun i => [posOf g i]))
  else if r.oper = 5 then ([], [], broadcastPlan r g)
  else ([], [], a2aPlan r g)

/-! ### The window (R88 to R95, R97) -/

/-- The contributors N of a request. -/
def reqN (r : CReq) : Nat := leAt r.area 4 4
/-- The entry of an element's granule in the combined area. -/
def entryOf (r : CReq) (e : Nat) : Nat :=
  let g := if reqInt r ∨ reqG r = 0 then e / 32 else e / chunkElems (inElem r)
  leAt r.area (32 + 2 * g) 2
/-- The granules of a request's input. -/
def reqGranules (r : CReq) : Nat := if reqInt r ∨ reqG r = 0 then r.elems / 32 else reqChunks r

/-- The grid exponent of an element (R90, R97). -/
def gridAt (r : CReq) (e : Nat) : Int :=
  let m := recEmax (entryOf r e)
  if reqInt r ∧ m = -8192 then 0
  else if r.inFmt = 0x0B then clampScale (m - 6) else if r.inFmt = 0x0C then clampScale (m - 2) else m + 2 - (sigOf (reqS r) : Nat)

/-- Bytes of the container of a partial of k contributors. -/
def partBytesOf (r : CReq) (k : Nat) : Nat := if reqInt r then 4 else containerBytes (reqS r) k

/-- The integers of one input run on the agreed grid. -/
def toGrid (r : CReq) (e0 : Nat) (l : List Val) : List Int :=
  l.zipIdx.map (fun p => if recEmax (entryOf r (e0 + p.2)) = -8192 then 0 else gridInt (gridAt r (e0 + p.2)) p.1)

/-- Add integers place by place. -/
def addInts : List Int → List Int → List Int
  | a :: t, b :: u => (a + b) :: addInts t u
  | [], u => u
  | t, [] => t

/-- Compare elements place by place. -/
def winners (el : Elem) (isMax : Bool) : List (Nat × Nat) → List (Nat × Nat) → List (Nat × Nat)
  | a :: t, b :: u => winner el isMax a b :: winners el isMax t u
  | [], u => u
  | t, [] => t

/-! ### Failures -/

/-- Keep a chunk failure in the registers (COLL page). -/
def noteFail (s : State) (group level reason chunk round : Nat) : State :=
  let s1 := setN s R.COLL_LAST_FAIL (group + level * 0x1000 + reason * 0x10000)
  setN (set64 s1 R.COLL_LAST_CHUNK_LO R.COLL_LAST_CHUNK_HI chunk) R.COLL_LAST_ROUND_LO round

/-- A chunk failure (R227, R228, R231): CHUNK_CORRUPT; a round request's round is aborted. -/
def chunkFail (s : State) (group level reason chunk round : Nat) : State :=
  let s1 := bump (noteFail s group level reason chunk round) R.COLL_CHK_FAIL
  let free := (fltDyn s1 pgCOLL).test.isNone
  let s2 := raise (event s1 pgCOLL 1) pgCOLL fCHUNK_CORRUPT reason (chunk % 2 ^ 48)
  flagAbort (if free then markTest s2 pgCOLL (instKey stREDUCE (8 + chunk % 2) 0) else s2) round false

/-- WINDOW_MISMATCH or GROUP_EPOCH (R222). -/
def windowFail (s : State) (epoch : Bool) (group level chunk round : Nat) (holds : Bool) : State :=
  let s1 := bump (noteFail s group level (if epoch then 5 else 4) chunk round) R.COLL_WMISMATCH
  flagAbort (raise (event s1 pgCOLL 2) pgCOLL (if epoch then fGROUP_EPOCH else fWINDOW_MISMATCH) level (if epoch then group else chunk % 2 ^ 48)) round holds

/-- Update an active request. -/
def putReq (s : State) (r : CReq) : State :=
  { s with coll := { s.coll with active := s.coll.active.map (fun x => if x.num = r.num then r else x) } }
/-- An active request. -/
def reqAt (s : State) (num : Nat) : Option CReq := s.coll.active.find? (fun r => r.num == num)

/-! ### Completion (R229) -/

/-- A request as it ends: the tick, and PROVISIONAL and CHECKED as they stand (R229). -/
def stampReq (s : State) (r : CReq) (code : Option Nat) : CReq :=
  let prov := bitOf r.grp.flags 1 && r.round != 0 && decide (s.job.commit < r.round)
  let mine := s.coll.results.filter (fun x => x.num == r.num)
  { r with phase := 2, status := code, endTick := s.tick.now, rflags := ofBool prov + 2 * ofBool (mine.all (·.acked)) }

/-- A request's completion record. -/
def reqRecord (r : CReq) (ph : Bool) : List Byte :=
  let st := match r.status with | some c => c | none => if r.late ≠ 0 then cLATE else if r.delay ≠ 0 then cDELAYED else cSERVED
  bytesLE 2 r.group ++ bytesLE 1 (st + ofBool ph * 128) ++ bytesLE 1 0xF6 ++ bytesLE 6 r.num ++ bytesLE 2 r.delay ++ bytesLE 2 r.late
    ++ bytesLE 6 r.round ++ bytesLE 4 r.tag ++ bytesLE 6 r.endTick ++ bytesLE 2 r.rflags

/-- Advance the ring's head over slots of completed requests. -/
def moveHead : Nat → State → State
  | 0, s => s
  | fuel + 1, s =>
    let h := rqHead s
    if s.coll.doneSlots.contains h then
      moveHead fuel (setFld { s with coll := { s.coll with doneSlots := s.coll.doneSlots.filter (· ≠ h) } } R.COLL_RQ_PTR 11 0 ((h + 1) % rqSize s))
    else s

/-- Release a request's accumulators. -/
def dropChunks (s : State) (r : CReq) : State := r.chunks.foldl (fun a c => c.handles.foldl releaseQuiet a) s

/-- Write an ended request's record and free its ring slot; none when its completion ring is full. -/
def endRequest (s : State) (r : CReq) : Option State :=
  match postRecord s r.ring (reqRecord r) with
  | none => none
  | some s1 =>
    let s2 := if r.notify && (cringSize s1 r.ring).isSome then notifyRing s1 r.ring else s1
    let s3 := dropChunks s2 r
    let s4 := { s3 with coll := { s3.coll with active := s3.coll.active.filter (fun x => x.num != r.num),
                                               purposes := s3.coll.purposes.filter (fun p => p.num != r.num),
                                               doneSlots := r.rslot :: s3.coll.doneSlots } }
    let s5 := event (bump s4 R.COLL_REQ_DONE) pgCOLL 0
    some (groupDrained (moveHead (rqSize s5) s5) r.group)

/-- End requests in ring order within their group, as far as their completion rings hold the records (R217). -/
def endAll : List CReq → State → State
  | [], s => s
  | r :: t, s =>
    if r.phase = 2 ∧ (s.coll.active.filter (fun x => x.group == r.group && decide (x.num < r.num))).isEmpty then
      match endRequest s r with
      | some s1 => endAll t s1
      | none => endAll t s
    else endAll t s

/-- A request ends with a code, or as its carriers fared; where one without a round fails, the checks that came for it go too (R227, R234). -/
def finishReq (s : State) (r : CReq) (code : Option Nat) : State :=
  let s1 := putReq s (stampReq s r code)
  let s2 := if code.isSome ∧ r.round = 0 then
      { s1 with coll := { s1.coll with checks := s1.coll.checks.filter (fun c => !(c.2.1 == r.group && c.2.2.1 == 0)) } } else s1
  endAll s2.coll.active s2

/-- A request has lost something it needs: it ends with a code, unless its round is to be aborted, which ends it (R231, R234). -/
def loseReq (s : State) (r : CReq) (code : Nat) : State :=
  if r.round ≠ 0 && s.job.abortDue.any (fun d => d.1 == r.round) then s else finishReq s r (some code)

/-! ### Chunk checks (R226, R227) -/

/-- The members that receive the parts which this member finishes: those that it meets at the highest present level, as the gather halves of the
levels up to it reach no others (R212, R213, R227). -/
def receiversOf (g : Group) : List Nat :=
  match (portLevels g).getLast? with
  | some l => (othersOf g).filter (fun i => meets g l g.self i)
  | none => []

/-- The check of a result chunk. -/
def chunkCheck (group oper fmt round chunk : Nat) (bs : List Byte) : Nat :=
  crc64 (bytesLE 2 group ++ bytesLE 1 oper ++ bytesLE 1 fmt ++ bytesLE 4 0 ++ bytesLE 8 round ++ bytesLE 8 chunk ++ bytesLE 8 bs.length ++ bs)

/-- Send a message of the engine to a member's endpoint, in C3. -/
def collMessage (s : State) (kind : MsgKind) (g : Group) (i : Nat) (fields : List Nat) (data : List Byte) : State :=
  let l := meetLevel g g.self i
  let port := (List.range 2).findSome? (fun h => match carrierAt s (stOut (stageOf g l) h) with
    | some o => (match endpointOf s o (2 ^ 47 + (memberAt g i).ep) with
      | some (false, [x]) => if portHoist x.port = h then some x.port else none
      | _ => none)
    | none => none)
  emit s (.message kind (port.getD 7) (memberAt g i).node 3 fields data)

/-- A result chunk of a request, with its check (R226): at DST, or sent from this member's input. -/
def resultOf (s : State) (r : CReq) (id : Nat) (held own : Bool) (owner : Nat) (want : List Nat) (bs : List Byte) : CResult :=
  { num := r.num, group := r.group, round := r.round, oper := r.oper, fmt := r.outFmt, chunk := chunkNum id, segs := if held then resultSegs r id else [],
    crc := chunkCheck r.group r.oper r.outFmt r.round (chunkNum id) bs, own := own, owner := owner, want := want, tick := s.tick.now, acked := false,
    held := held }

/-- A result chunk is held; what a round rechecked before it no longer says all (R228). -/
def holdResult (s : State) (x : CResult) : State :=
  bump { s with coll := { s.coll with results := s.coll.results ++ [x] },
                job := if x.round ≠ 0 ∧ x.round = s.job.round then { s.job with rechecked := false } else s.job } R.COLL_CHUNKS

/-- The owner has written a result chunk, or sent it: its check is kept and sent to its receivers. -/
def ownChunk (s : State) (r : CReq) (id : Nat) (held : Bool) (receivers : List Nat) (bs : List Byte) : State :=
  let res := resultOf s r id held true (memberAt r.grp r.grp.self).node (receivers.map (fun i => (memberAt r.grp i).node)) bs
  receivers.foldl (fun a i => collMessage a .check r.grp i [r.group, r.round, res.chunk, res.crc] []) (holdResult s res)

/-- The level at which this member meets a node of a group. -/
def nodeLevel (s : State) (group node : Nat) : Nat :=
  match groupAt s group with
  | some g => (match memberOfNode g node with | some i => meetLevel g g.self i | none => 0)
  | none => 0

/-- A ROUND 0 request that is still active fails with a code (R234). -/
def failActive (s : State) (num code : Nat) : State :=
  match reqAt s num with
  | some r => if r.round = 0 ∧ r.phase ≠ 2 then finishReq s r (some code) else s
  | none => s

/-- A received chunk and its check meet: an acknowledgement, or CHUNK_CORRUPT. -/
def compareCheck (s : State) (x : CResult) (crc : Nat) : State :=
  if x.crc = crc then
    let s1 := { s with coll := { s.coll with results := s.coll.results.map (fun y => if y = x then { y with acked := true } else y) } }
    match (groupAt s1 x.group).bind (fun g => (memberOfNode g x.owner).map (fun i => (g, i))) with
    | some (g, i) => collMessage s1 .checkAck g i [x.group, x.round, x.chunk] []
    | none => s1
  else
    let s1 := { s with coll := { s.coll with results := s.coll.results.filter (fun y => y != x) } }
    failActive (chunkFail s1 x.group (nodeLevel s x.group x.owner) 0 x.chunk x.round) x.num cCORRUPT

/-- A chunk has landed whole from its owner (R227): its check is computed, and compared with one that came before. -/
def landedChunk (s : State) (r : CReq) (id owner : Nat) (bs : List Byte) : State :=
  let res := resultOf s r id true false owner [] bs
  let s1 := holdResult s res
  match s1.coll.checks.find? (fun c => c.1 == owner && c.2.1 == r.group && c.2.2.1 == r.round && c.2.2.2.1 == res.chunk) with
  | some c => compareCheck { s1 with coll := { s1.coll with checks := s1.coll.checks.erase c } } res c.2.2.2.2
  | none => s1

/-- A check arrives (R227, R232). DEDUCED (235): it names no request; one that comes early is kept for the next chunk that it fits. -/
def checkOp (s : State) (node group round chunk crc : Nat) : State :=
  if s.coll.dead.contains round then s
  else match s.coll.results.find? (fun x => !x.own && !x.acked && x.owner == node && x.group == group && x.round == round && x.chunk == chunk) with
    | some x => compareCheck s x crc
    | none => { s with coll := { s.coll with checks := s.coll.checks ++ [(node, group, round, chunk, crc)] } }

/-- An acknowledgement arrives (R227). -/
def ackOp (s : State) (node group round chunk : Nat) : State :=
  if s.coll.dead.contains round then s
  else match s.coll.results.find? (fun x => x.own && x.group == group && x.round == round && x.chunk == chunk && x.want.contains node) with
    | some x =>
      let y := { x with want := x.want.filter (· ≠ node), acked := (x.want.filter (· ≠ node)).isEmpty }
      { s with coll := { s.coll with results := s.coll.results.map (fun z => if z = x then y else z) } }
    | none => s

/-- A check or acknowledgement is missing COLL_CHK_TMO ticks after the chunk completed (R227). -/
def checkTimeoutOp (s : State) : State :=
  let lim := fld s R.COLL_CHK_TMO 23 0
  match s.coll.results.find? (fun x => !x.acked && !(x.own && x.want.isEmpty) && decide (x.tick + lim ≤ s.tick.now)) with
  | some x =>
    let s1 := { s with coll := { s.coll with results := s.coll.results.filter (fun y => y != x) } }
    let node := if x.own then x.want.headD 0 else x.owner
    failActive (chunkFail s1 x.group (nodeLevel s x.group node) 2 x.chunk x.round) x.num cCORRUPT
  | none => s

/-- Recheck the result chunks of a round from DST (R228): whether all agree. -/
def recheckList (n : Nat) : List CResult → State → Bool × State
  | [], s => (true, s)
  | x :: t, s =>
    if x.round ≠ n ∨ !x.held then recheckList n t s
    else
      match readSegs x.segs s with
      | (some bs, s1) =>
        if chunkCheck x.group x.oper x.fmt x.round x.chunk bs = x.crc then
          let s2 := if x.own ∧ x.want.isEmpty then
              { s1 with coll := { s1.coll with results := s1.coll.results.map (fun y => if y = x then { y with acked := true } else y) } } else s1
          recheckList n t s2
        else (false, chunkFail s1 x.group 0 1 x.chunk x.round)
      | (none, s1) => (false, chunkFail s1 x.group 0 1 x.chunk x.round)

/-- RECHECK of the round in progress (R228). -/
def recheckOp (s : State) : State :=
  let (ok, s1) := recheckList s.job.round s.coll.results s
  if ok then { s1 with job := { s1.job with rechecked := true } } else s1

/-! ### Carrier tiles (R214, R215, R224, R225) -/

/-- One tile to be posted: level, peer, out?, results?, chunk, offset, length, contributors. -/
structure TileJob where
  level : Nat
  peer : Nat
  out : Bool
  gather : Bool
  chunk : Nat
  off : Nat
  len : Nat
  count : Nat
  deriving DecidableEq, Repr

/-- Cut a length in runs of at most n. -/
def cutRuns (n total : Nat) : List (Nat × Nat) :=
  if n = 0 then [] else (List.range ((total + n - 1) / n)).map (fun i => (i * n, min n (total - i * n)))

/-- Bytes of n elements of a partial under MAX and MIN. DESIGN CHOICE (83): the manual gives no container for it; a winning element of a block
format goes with its scale code, a byte each, so that its bits arrive. -/
def cmpBytes (r : CReq) (n : Nat) : Nat := if isScaled (inElem r) then 2 * n else n * (elemBits (inElem r) / 8)

/-- The tiles of one chunk in one transfer. -/
def chunkTiles (r : CReq) (x : Xf) (c : Nat) (out : Bool) (held : Nat) : List TileJob :=
  let mk (p : Nat × Nat) : TileJob := ⟨x.level, x.peer, out, x.gather, c, p.1, p.2, held⟩
  if x.gather then (cutRuns 65536 (segsLen (resultSegs r c))).map mk
  else
    let n := (chunkRange r c).2
    (cutRuns (65536 / max 1 (if isCmp r.oper then cmpBytes r 1 else partBytesOf r held)) n).map mk

/-- Contributors this member's partial of a chunk holds. -/
def heldCount (r : CReq) (c : Nat) : Nat := match r.chunks.find? (fun x => x.idx == c) with | some x => x.count | none => ownCount r.grp

/-- Insert by chunk. -/
def insJob (x : TileJob) : List TileJob → List TileJob
  | [] => [x]
  | y :: t => if x.chunk < y.chunk then x :: y :: t else y :: insJob x t

/-- The tiles of a step, chunk by chunk. -/
def stepTiles (r : CReq) (step : List Xf) : List TileJob :=
  (step.flatMap (fun x => x.send.flatMap (fun c => chunkTiles r x c true (heldCount r c)) ++ x.recv.flatMap (fun c => chunkTiles r x c false x.count))).foldl
    (fun l j => insJob j l) []

/-- Bytes of a descriptor that the engine writes (R52, R215). -/
def carrierDesc (st : Stream) (seq fmt attr src dst len ring round : Nat) : List Byte :=
  bytesLE 2 st.id ++ bytesLE 1 1 ++ bytesLE 1 0 ++ ((List.range 8).map (fun k => BitVec.ofNat 8 (nthD 0 st.route k))) ++ bytesLE 6 seq
    ++ bytesLE 1 fmt ++ bytesLE 1 attr ++ bytesLE 8 src ++ bytesLE 8 dst ++ bytesLE 4 len ++ bytesLE 2 ring ++ bytesLE 2 0
    ++ bytesLE 6 round ++ bytesLE 2 0 ++ List.replicate 12 0

/-- Bytes of a tile on its carrier. -/
def jobBytes (r : CReq) (j : TileJob) : Nat :=
  if j.gather then j.len else if isCmp r.oper then cmpBytes r j.len else j.len * partBytesOf r j.count

/-- Post one carrier tile: its descriptor is written and its doorbell rung; none when its carrier cannot be used or has no
room. A carrier that closes still takes the tiles of requests that were active (R237). -/
def postTile (s : State) (r : CReq) (j : TileJob) : Option State :=
  match carriersWhere (fun k => decide (1 ≤ k)) s r.grp j.level j.peer with
  | none => none
  | some (o, i) =>
    let slot := if j.out then o else i
    match streamAt s slot with
    | none => none
    | some st =>
      let size := 2 ^ st.sqLog2
      if ringFree size st.head st.tail = 0 then none
      else
        let seq := (st.expect + (st.tail + size - st.fetch) % size) % 2 ^ 48
        let ep := 2 ^ 47 + (memberAt r.grp j.peer).ep
        let src := if j.out then r.src % 2 ^ 46 else ep
        let d := carrierDesc st seq 0 6 src (if j.out then ep else 0) (jobBytes r j) r.ring r.round
        let s1 := hwWrite s (st.sqBase + 64 * st.tail) d
        let s2 := putStream s1 slot { st with tail := (st.tail + 1) % size }
        some { s2 with coll := { s2.coll with purposes := s2.coll.purposes ++ [⟨slot, seq, r.num, j.out, j.gather, j.level, j.chunk, j.off, j.len, j.count⟩] } }

/-- Chunks of a request with tiles in flight at a level. -/
def chunksInFlight (s : State) (num level : Nat) : List Nat :=
  (s.coll.purposes.filter (fun p => p.num == num && p.level == level)).foldl (fun l p => insNat l p.chunk) []

/-- Post the tiles of a step as depth and room allow. -/
def postTiles : List TileJob → State → CReq → State × CReq
  | [], s, r => (s, r)
  | j :: t, s, r =>
    let fl := chunksInFlight s r.num j.level
    if !fl.contains j.chunk ∧ stDepth (stageOf r.grp j.level) ≤ fl.length then (s, r)
    else match postTile s r j with
      | none => (s, r)
      | some s1 => postTiles t s1 { r with next := r.next + 1 }

/-! ### A member's own input -/

/-- Read one of the member's input tensors over a chunk, element by element, integers on the grid held for them (R84). DESIGN CHOICE (111): the
eight field dies' tensors of an L0 TREE follow one another from SRC. -/
def inputCells (acc : Access) (r : CReq) (part e0 n : Nat) : HopM (List Cell) :=
  let el := inElem r
  let base := r.src + part * tensorBytes el r.elems
  (hopReadSegs acc (elemSegs el base r.elems e0 n)).andThen fun b =>
    if isScaled el then .ret ((runRaws el r.elems e0 n b).map (fun x => (rawVal el x, x, (0, 0))))
    else hopGet (fun s => cellsAt s el (some (base + e0 * (elemBits el / 8))) b)

/-- The accumulator of a chunk from the member's own input, one tensor or the eight dies' (R213, R225). -/
def ownParts (acc : Access) (r : CReq) (c : Nat) : List Nat → CChunk → HopM CChunk
  | [], x => .ret x
  | p :: t, x =>
    let (e0, n) := chunkRange r c
    (inputCells acc r p e0 n).andThen fun l =>
      ownParts acc r c t (if isCmp r.oper then { x with vals := winners (inElem r) (r.oper == 8) x.vals (l.map (fun y => canonRaw (inElem r) y.2.1)), count := x.count + 1 }
        else { x with ints := addInts x.ints (toGrid r e0 (l.map (·.1))), count := x.count + 1 })

/-- Take the P4 buffers of a chunk's accumulator from the home segment of its hoist die (R224): none when they cannot all be had, and then
those that were had return. -/
def takeAccs : Nat → State → Nat → List Nat → Option (List Nat) × State
  | 0, s, _, got => (some got, s)
  | n + 1, s, hoist, got =>
    match allocInternal s 4 (homeSeg s hoist) with
    | (.got h, s1) => takeAccs n s1 hoist (h :: got)
    | (_, s1) => (none, got.foldl releaseQuiet s1)

/-- Bytes of a chunk's accumulator (R224). -/
def accBytes (r : CReq) (c : Nat) : Nat :=
  let n := (chunkRange r c).2
  if isCmp r.oper then cmpBytes r n else n * partBytesOf r (reqN r)

/-- Make sure that a chunk has its accumulator: it waits for buffers (R224), and more own contributions than N allows fail it (R92). -/
def prepChunk (acc : Access) (r : CReq) (level c : Nat) : HopM CReq := fun s =>
  if (r.chunks.find? (fun x => x.idx == c)).isSome then (.ok r, s)
  else match takeAccs ((accBytes r c + 0x3FFFFF) / 0x400000) s (c % 2) [] with
    | (none, s1) => (.error cWAIT, s1)
    | (some hs, s1) =>
      if isSum r.oper ∧ reqN r < ownCount r.grp then (.error cCORRUPT, windowFail (hs.foldl releaseQuiet s1) false r.group level c r.round false)
      else match ownParts acc r c (List.range (ownCount r.grp)) { idx := c, ints := [], vals := [], count := 0, handles := hs } s1 with
        | (.ok x, s2) =>
          let r1 := { r with chunks := r.chunks ++ [x] }
          (.ok r1, putReq s2 r1)
        | (.error e, s2) => (.error e, hs.foldl releaseQuiet s2)

/-- Update a chunk of a request. -/
def putChunk (r : CReq) (x : CChunk) : CReq := { r with chunks := r.chunks.map (fun y => if y.idx = x.idx then x else y) }

/-- The accumulators of chunks that a member has passed on are released (R224). -/
def passChunks (s : State) (r : CReq) (l : List Nat) : State × CReq :=
  let gone := r.chunks.filter (fun x => l.contains x.idx)
  (dropChunks s { r with chunks := gone }, { r with chunks := r.chunks.filter (fun x => !l.contains x.idx) })

/-! ### COLLECTIVE (R215) -/

/-- The bytes of an outgoing partial. -/
def partialOut (r : CReq) (x : CChunk) (p : Purpose) : List Byte :=
  if isCmp r.oper then
    ((x.vals.drop p.off).take p.len).flatMap (fun e =>
      if isScaled (inElem r) then [BitVec.ofNat 8 e.2, BitVec.ofNat 8 e.1] else bytesLE (elemBits (inElem r) / 8) e.2)
  else ((x.ints.drop p.off).take p.len).flatMap (fun i => bytesLE (partBytesOf r p.count) (unsignedOf (8 * partBytesOf r p.count) i))

/-- The elements of an arriving partial under MAX and MIN. -/
def partialRaws (r : CReq) (bs : List Byte) : List (Nat × Nat) :=
  if isScaled (inElem r) then (List.range (bs.length / 2)).map (fun i => (leAt bs (2 * i + 1) 1, leAt bs (2 * i) 1))
  else rawsOf (inElem r) bs

/-- Add an arriving partial into a chunk. -/
def partialIn (r : CReq) (x : CChunk) (p : Purpose) (bs : List Byte) : CChunk :=
  let y := { x with count := if p.off = 0 then x.count + p.count else x.count, adds := x.adds ++ [(p.off, p.len, p.count)] }
  if isCmp r.oper then
    let l := winners (inElem r) (r.oper == 8) ((x.vals.drop p.off).take p.len) ((partialRaws r bs).take p.len)
    { y with vals := x.vals.take p.off ++ l ++ x.vals.drop (p.off + p.len) }
  else
    let w := partBytesOf r p.count
    let l := (List.range p.len).map (fun i => signedOf (8 * w) (leAt bs (w * i) w))
    { y with ints := x.ints.take p.off ++ addInts ((x.ints.drop p.off).take p.len) l ++ x.ints.drop (p.off + p.len) }

/-- With an arriving tile some element of a chunk would hold more contributions than N allows (R92). -/
def overN (r : CReq) (x : CChunk) (p : Purpose) : Bool :=
  let places := p.off :: (x.adds.map (·.1)).filter (fun o => decide (p.off ≤ o) && decide (o < p.off + p.len))
  places.any (fun e => decide (reqN r < ownCount r.grp + p.count
    + ((x.adds.filter (fun a => decide (a.1 ≤ e) && decide (e < a.1 + a.2.1))).map (fun a => a.2.2)).sum))

/-- The bytes of a tile that carries part of a result: those at DST, or, of a block for another member, this member's input laid out as it lies
at its receiver's DST (R219, R226). -/
def gatherOut (c : Access) (r : CReq) (id off n : Nat) : HopM (List Byte) :=
  if r.oper = 6 ∨ r.oper = 7 then (hopReadSegs c (sourceSegs r id)).andThen fun b => .ret (((sourceBytes r id b).drop off).take n)
  else hopReadSegs c (segSlice (resultSegs r id) off n)

/-- The work of COLLECTIVE on a carrier tile: what the tile is for decides (R215, R225). -/
def collectiveWork (slot : Nat) (st : Stream) (t : Tile) : HopM Tile := fun s =>
  let c := accessOf st t
  let out (d : List Byte) : HopM Tile := .ret { t with data := some d, outLen := d.length }
  match s.coll.purposes.find? (fun p => p.slot == slot && p.seq == t.desc.seq) with
  | none => (.error cPOLICY, s)
  | some p =>
    match reqAt s p.num with
    | none => (.error cPOLICY, s)
    | some r =>
      let d := t.data.getD []
      if p.gather then
        if p.out then ((gatherOut c r p.chunk p.off p.len).andThen out) s
        else ((hopWriteSegs c (resultSegs r p.chunk) p.off d).andThen fun _ => .ret { t with outLen := d.length }) s
      else ((prepChunk c r p.level p.chunk).andThen fun r1 =>
        match r1.chunks.find? (fun x => x.idx == p.chunk) with
        | none => hopFail cPOLICY
        | some x =>
          if p.out then out (partialOut r1 x p)
          else if isSum r1.oper ∧ overN r1 x p then
            (hopDo (fun a => windowFail a false r1.group p.level p.chunk r1.round false)).andThen fun _ => hopFail cCORRUPT
          else (hopDo (fun a => putReq a (putChunk r1 (partialIn r1 x p d)))).andThen fun _ => .ret { t with outLen := d.length }) s

/-! ### FINISH (R93, R94, R225) -/

/-- The values of a finished chunk of a sum that is neither integers nor a comparison, special granules marked (R94). -/
def finishVals (r : CReq) (x : CChunk) : List Val :=
  let e0 := (chunkRange r x.idx).1
  let whole := match outElem r with | .float f => !f.ieee | _ => false
  x.ints.zipIdx.map (fun p =>
    let k := recSpecial (entryOf r (e0 + p.2))
    if k ≠ 0 then (if whole then .nan else specialVal k) else if p.1 = 0 then vzero else ofInt p.1 (gridAt r (e0 + p.2)))

/-- The result bytes of a finished chunk, and how many special granules it has. DESIGN CHOICE (220): a W32 or W64 result keeps the low bytes of
a sum that does not fit it. -/
def finishBytes (r : CReq) (x : CChunk) : List Byte × Nat :=
  let (e0, n) := chunkRange r x.idx
  if isCmp r.oper then (rawBytes (outElem r) r.elems e0 x.vals, 0)
  else
    let per := if reqInt r ∨ reqG r = 0 then 32 else n
    let sp (e : Nat) := recSpecial (entryOf r (e0 + e))
    let special := ((List.range ((n + per - 1) / max 1 per)).filter (fun g => sp (g * per) != 0)).length
    if reqInt r then
      (x.ints.zipIdx.flatMap (fun p => bytesLE 4 (unsignedOf 32 (if sp p.2 = 0 then p.1 else 0)))
        ++ (List.range (n / 32)).map (fun b => if sp (32 * b) = 0 then BitVec.ofNat 8 (gridAt r (e0 + 32 * b) + 127).toNat else 0xFF), special)
    else match outElem r with
      | .win w => (x.ints.zipIdx.flatMap (fun p => bytesLE w (unsignedOf (8 * w) (if sp p.2 = 0 then p.1 else 0))), special)
      | el => (runBytes el r.elems e0 (finishVals r x), special)

/-- What a request does next: it goes on, waits, or has ended. -/
inductive Exch where
  | going (r : CReq) | waiting (r : CReq) | ended
  deriving DecidableEq, Repr

/-- The engine's own work on storage did not succeed: it waits, or the request is lost. -/
def stopReq (s : State) (r : CReq) (code : Nat) : Exch × State :=
  if 252 < code then (.waiting r, s) else (.ended, loseReq s r code)

/-- Finish one chunk: round, write, check, release (R93, R94, R227). -/
def finishChunk (s : State) (r : CReq) (c : Nat) : Exch × State :=
  let acc := engineAccess s r.round c
  match prepChunk acc r 0 c s with
  | (.error e, s1) => stopReq s1 r e
  | (.ok r1, s1) =>
    match r1.chunks.find? (fun x => x.idx == c) with
    | none => (.waiting r1, s1)
    | some x =>
      let (bs, special) := finishBytes r1 x
      match hopWriteSegs acc (resultSegs r1 c) 0 bs s1 with
      | (.error e, s2) => stopReq s2 r1 e
      | (.ok _, s2) =>
        let s3 := bumpBy s2 R.ARITH_SPECIAL_CNT special
        let s4 := if special ≠ 0 ∧ !r1.special then raise s3 0x00 fARITH_SPECIAL 0 r1.round else s3
        let s5 := bumpBy s4 R.ARITH_OVF_CNT (if reqInt r1 ∨ isCmp r1.oper then 0 else sumOverflows (outElem r1) (finishVals r1 x))
        let r2 := { r1 with chunks := r1.chunks.filter (fun y => y.idx != c), finished := r1.finished ++ [c], special := r1.special || decide (special ≠ 0) }
        (.going r2, ownChunk (x.handles.foldl releaseQuiet (putReq s5 r2)) r2 c true (if r2.oper = 3 then [] else receiversOf r2.grp) bs)

/-- The grid of a result in W32 or W64, fixed by the exchange, is held where the result stands (R84, R94); the winners of a comparison stand on
the grid of the input. DEDUCED (243): integers that were only moved stand on none. The inputs were read on theirs before. -/
def holdGrid (s : State) (r : CReq) : State :=
  let width := if reqInt r then 4 else match outElem r with | .win w => w | _ => 0
  if width = 0 then s
  else if isSum r.oper then
    let per := if reqInt r ∨ reqG r = 0 then 32 else chunkElems (inElem r)
    putGrid s { dst := r.dst, elems := r.elems, width := width, per := per,
                granules := (List.range (reqGranules r)).map (fun i => (gridAt r (i * per), recSpecial (entryOf r (i * per)))) }
  else if isCmp r.oper then
    putGrid s (match gridFor s r.src with
      | some (i, g) => { dst := r.dst, elems := r.elems, width := width, per := 1, granules := (List.range r.elems).map (fun e => nthD (0, 0) g.granules ((i + e) / g.per)) }
      | none => { dst := r.dst, elems := r.elems, width := width, per := 1, granules := [] })
  else putGrid s { dst := r.dst, elems := r.elems, width := width, per := 1, granules := [] }

/-! ### The exchange (R221, R222) -/

/-- Granules of a chunk of an exponent record area (R223). -/
def areaPer (r : CReq) : Nat := if leAt r.area 1 1 = 0 then max 1 (chunkElems (inElem r) / 32) else 1

/-- The granules of chunk c of the area: first and number. -/
def areaPart (r : CReq) (c : Nat) : Nat × Nat := (c * areaPer r, min (areaPer r) (leAt r.area 8 8 - c * areaPer r))

/-- The chunks of the area. -/
def areaChunks (r : CReq) : List Nat := List.range ((leAt r.area 8 8 + areaPer r - 1) / areaPer r)

/-- An area with N written. -/
def withN (a : List Byte) (n : Nat) : List Byte := a.take 4 ++ bytesLE 4 n ++ a.drop 8

/-- The contributors counted so far for a chunk of the area. -/
def countAt (r : CReq) (c : Nat) : Nat := nthD (ownCount r.grp) r.cnts c

/-- What a member sends of some chunks: the header, with their count, and their entries. -/
def areaSend (r : CReq) (cs : List Nat) : List Byte :=
  (withN r.area (countAt r (cs.headD 0))).take 32 ++ cs.flatMap (fun c => sliceBytes r.area (32 + 2 * (areaPart r c).1) (2 * (areaPart r c).2))

/-- Entries of a chunk that have come: combined by R89 going up, or complete going down. -/
def putEntries (gather : Bool) (a : List Byte) (at' : Nat) (bs : List Byte) : List Byte :=
  let old := sliceBytes a at' bs.length
  let new := if gather then bs else (List.range (bs.length / 2)).flatMap (fun i => bytesLE 2 (combineRecords (leAt old (2 * i) 2) (leAt bs (2 * i) 2)))
  a.take at' ++ new ++ a.drop (at' + bs.length)

/-- Take in what a peer sent of some chunks, n contributors standing behind it. -/
def areaTake (gather : Bool) (n : Nat) : List Nat → List Byte → CReq → CReq
  | [], _, r => r
  | c :: t, bs, r =>
    let k := 2 * (areaPart r c).2
    let cnt := if gather then n else countAt r c + n
    areaTake gather n t (bs.drop k)
      { r with area := putEntries gather r.area (32 + 2 * (areaPart r c).1) (bs.take k), cnts := setAt 0 r.cnts c cnt }

/-- What came agrees with this member's own area in S, G, GRANULES and ROUND, and holds the entries of its chunks. -/
def sameShape (r : CReq) (cs : List Nat) (b : List Byte) : Bool :=
  leAt r.area 0 2 == leAt b 0 2 && leAt r.area 8 8 == leAt b 8 8 && leAt r.area 0x10 6 == leAt b 0x10 6
    && b.length == 32 + (cs.map (fun c => 2 * (areaPart r c).2)).sum

/-- The steps of an exchange: those of the reduction over the same stages, and back (R221). -/
def exchSteps (r : CReq) : List (List Xf) :=
  let g := r.grp
  let (ups, _, downs) := reducePlan g true (groupsOfMember g g.self) (areaChunks r) (ownCount g)
  ups ++ downs

/-- This member's own area at an address, with the count it declares. -/
def ownArea (s : State) (r : CReq) : Option (List Byte) × State :=
  match hwReadRange s r.records 32 with
  | (none, s1) => (none, s1)
  | (some h, s1) =>
    match hwReadRange s1 r.records (32 + 2 * leAt h 8 8) with
    | (some b, s2) => (some (b.take 4 ++ bytesLE 4 (ownCount r.grp) ++ (b.drop 8).take 16 ++ bytesLE 4 r.grp.epoch ++ b.drop 28), s2)
    | (none, s2) => (none, s2)

/-- A record message to a member. -/
def sendArea (s : State) (r : CReq) (i : Nat) (b : List Byte) : State := collMessage s .exponentRecord r.grp i [r.group, r.round] b

/-- Take the first waiting record of a group from a node. -/
def takeRec (s : State) (group node : Nat) : Option (List Byte × State) :=
  match s.coll.recs.find? (fun x => x.1 == node && x.2.1 == group) with
  | some x => some (x.2.2, { s with coll := { s.coll with recs := s.coll.recs.erase x } })
  | none => none

/-- Take what the peers of a step have sent, checking each (R222). -/
def gatherRecs : List Xf → State → CReq → Exch × State
  | [], s, r => (.going r, s)
  | x :: t, s, r =>
    let nd := (memberAt r.grp x.peer).node
    if x.recv.isEmpty ∨ r.got.any (fun e => e.1 == nd) then gatherRecs t s r
    else match takeRec s r.group nd with
      | none => (.waiting r, s)
      | some (b, s1) =>
        if !(sameShape r x.recv b) then
          (.ended, finishReq (windowFail s1 false r.group x.level 0 r.round true) r (some cPOLICY))
        else if leAt b 0x18 4 ≠ r.grp.epoch then
          (.ended, finishReq (windowFail s1 true r.group x.level 0 r.round false) r (some cPOLICY))
        else gatherRecs t s1 (areaTake x.gather (leAt b 4 4) x.recv (b.drop 32) { r with got := r.got ++ [(nd, [])] })

/-- Run the steps of an exchange as far as records have come; at its end the area holds the total N. -/
def runSteps (steps : List (List Xf)) : Nat → State → CReq → Exch × State
  | 0, s, r => (.waiting r, s)
  | fuel + 1, s, r =>
    match steps[r.step]? with
    | none => (.going { r with area := withN r.area (countAt r 0), step := 0, next := 0, got := [] }, s)
    | some xs =>
      let s1 := if r.next = 0 then (xs.filter (fun x => !x.send.isEmpty)).foldl (fun a x => sendArea a r x.peer (areaSend r x.send)) s else s
      match gatherRecs xs s1 { r with next := 1 } with
      | (.going r1, s2) => runSteps steps fuel s2 { r1 with step := r.step + 1, next := 0, got := [] }
      | x => x

/-- Take the counts of ALL_TO_ALL_V that members have sent (R219). -/
def gatherCounts : List Nat → State → CReq → Exch × State
  | [], s, r => (.going { r with next := 0 }, s)
  | i :: t, s, r =>
    let nd := (memberAt r.grp i).node
    if r.got.any (fun e => e.1 == nd) then gatherCounts t s r
    else match takeRec s r.group nd with
      | none => (.waiting r, s)
      | some (b, s1) => gatherCounts t s1 { r with got := r.got ++ [(nd, b)] }

/-- Run a request's exchange: of counts, or of records. An exchange waits for those of the requests before it in its group (112). -/
def runExchange (s : State) (r : CReq) : Exch × State :=
  if s.coll.active.any (fun x => x.group == r.group && decide (x.num < r.num) && x.phase == 0) then (.waiting r, s)
  else if r.oper = 7 then
    let s1 := if r.next = 0 then (othersOf r.grp).foldl (fun a i => sendArea a r i r.area) s else s
    gatherCounts (othersOf r.grp) s1 { r with next := 1 }
  else let steps := exchSteps r; runSteps steps (steps.length + 1) s r

/-! ### Progress -/

/-- Carrier tiles that completed: those done leave the engine's book; a failed one fails its chunk (R231, R234). -/
def takeEnded : List (Nat × Nat × Nat × Nat × Nat) → State → State
  | [], s => s
  | (slot, seq, code, delay, late) :: t, s =>
    match s.coll.purposes.find? (fun p => p.slot == slot && p.seq == seq) with
    | none => takeEnded t s
    | some p =>
      let s1 := { s with coll := { s.coll with purposes := s.coll.purposes.filter (fun q => q != p) } }
      match reqAt s1 p.num with
      | none => takeEnded t s1
      | some r =>
        let r1 := { r with delay := max r.delay delay, late := max r.late late }
        let s2 := putReq s1 r1
        if code = cSERVED ∨ code = cDELAYED ∨ code = cLATE then
          let more := s2.coll.purposes.any (fun q => q.num == p.num && q.chunk == p.chunk && q.gather && !q.out)
          let posted := ((stepTiles r1 (nthD [] ((planOf r1).1 ++ (planOf r1).2.2) r1.step)).drop r1.next).any (fun j => j.chunk == p.chunk && !j.out)
          if p.gather ∧ !p.out ∧ !more ∧ !posted then
            match readSegs (resultSegs r1 p.chunk) s2 with
            | (some b, s3) =>
              let owner := if r1.oper = 4 then nthD 0 (presentOf r1.grp) (p.chunk / 2 ^ 32)
                else if r1.oper = 5 then r1.root
                else if r1.oper = 6 ∨ r1.oper = 7 then nthD 0 (presentOf r1.grp) (p.chunk / 2 ^ 48)
                else ((receiversOf r1.grp).find? (fun i => (reducePlan { r1.grp with self := i } true (groupsOfMember r1.grp i) (wholeRange r1) 1).2.1.contains p.chunk)).getD r1.grp.self
              takeEnded t (landedChunk s3 r1 p.chunk (memberAt r1.grp owner).node b)
            | (none, s3) => takeEnded t (loseReq (flagAbort s3 r1.round false) r1 cCORRUPT)
          else takeEnded t s2
        else if code = cABORTED then takeEnded t s2
        else
          let s3 := if code = cCORRUPT ∨ code = cAGED then chunkFail s2 r1.group p.level 3 (chunkNum p.chunk) r1.round else s2
          takeEnded t (loseReq s3 r1 code)

/-- The chunks that a member places or sends of its own input before its tiles move: transfer, whether it stays at DST here, and the members
that receive it (R219, R227). -/
def ownJobs (r : CReq) : List (Nat × Bool × List Nat) :=
  let g := r.grp
  let me := posOf g g.self
  if r.oper = 4 then (wholeRange r).map (fun c => (me * 2 ^ 32 + c, true, receiversOf g))
  else if r.oper = 5 ∧ g.self = r.root then (wholeRange r).map (fun c => (c, true, othersOf g))
  else if r.oper = 6 ∨ r.oper = 7 then
    (blockIds r me me).map (fun id => (id, true, [])) ++ (othersOf g).flatMap (fun i => (blockIds r me (posOf g i)).map (fun id => (id, false, [i])))
  else []

/-- One of them: read at SRC, laid out as at DST, written there when it stays, and its check sent. -/
def copyOwn (r : CReq) (x : Nat × Bool × List Nat) (s : State) : Exch × State :=
  let acc := engineAccess s r.round (chunkNum x.1)
  match ((hopReadSegs acc (sourceSegs r x.1)).andThen fun b =>
      (if x.2.1 then hopWriteSegs acc (resultSegs r x.1) 0 (sourceBytes r x.1 b) else .ret ()).andThen fun _ => .ret (sourceBytes r x.1 b)) s with
  | (.ok bs, s1) => (.going { r with placed := r.placed + 1 }, ownChunk s1 r x.1 x.2.1 x.2.2 bs)
  | (.error e, s1) => stopReq s1 r e

/-- What a member holds of itself under the operations that only move data, from the first not yet placed (R219, R227). -/
def placeOwn : List (Nat × Bool × List Nat) → State → CReq → Exch × State
  | [], s, r => (.going r, s)
  | x :: t, s, r =>
    match copyOwn r x s with
    | (.going r1, s1) => placeOwn t (putReq s1 r1) r1
    | q => q

/-! ### Start (R19, R217, R221) -/

/-- Bytes of the exponent record area at an address, as its header has them. -/
def areaBytes (s : State) (a : Nat) : Nat := match (hwRead s a 32).1 with | some h => 32 + 2 * leAt h 8 8 | none => 32

/-- Bytes of a request's input: a reduction of a group whose L0 is TREE takes the eight dies' (R213). -/
def srcBytes (r : CReq) : Nat := (if isSum r.oper ∨ isCmp r.oper then ownCount r.grp else 1) * tensorBytes (inElem r) r.elems

/-- A request may start: those before it in its group have, and what it needs of its round is whole. DEDUCED (226): R19 gives the phases an
order, and a round's requests belong to it. -/
def mayStart (s : State) (r : CReq) : Bool :=
  s.coll.active.all (fun x => x.group != r.group || decide (r.num ≤ x.num) || x.phase != 3)
    && (r.round == 0 || (if r.oper = 1 then exchangeMay s r.round else sourceMay s r.round r.src (srcBytes r)))

/-- A request starts: the exchange, or the moving of data. Checks left over from a failed request without a round are dropped where none of
the group's can have come for this one (R227, R234). -/
def startReq (s : State) (r : CReq) : State :=
  let s0 := if r.round = 0 then s else notePhase s r.round (if r.oper = 1 then 4 else 6)
  let alone := s0.coll.active.all (fun x => x.group != r.group || x.num == r.num)
  let s1 := if r.round = 0 ∧ (isSum r.oper ∨ isCmp r.oper) ∧ alone then
      { s0 with coll := { s0.coll with checks := s0.coll.checks.filter (fun c => !(c.2.1 == r.group && c.2.2.1 == 0)) } } else s0
  if r.oper = 1 ∨ (isSum r.oper ∧ !(reqPre r)) then
    match ownArea s1 r with
    | (none, s2) => loseReq (flagAbort s2 r.round false) r cCORRUPT
    | (some a, s2) =>
      let r1 : CReq := { r with area := a, phase := 0 }
      let r1 := { r1 with cnts := (areaChunks r1).map (fun _ => ownCount r.grp) }
      if isSum r.oper ∧ (leAt a 0 1 ≠ reqS r ∨ leAt a 1 1 ≠ reqG r ∨ leAt a 8 8 ≠ reqGranules r ∨ leAt a 0x10 6 ≠ r.round) then
        finishReq (windowFail s2 false r.group 0 0 r.round true) r1 (some cPOLICY)
      else putReq s2 r1
  else if isSum r.oper then
    match hwReadRange s1 r.records (32 + 2 * reqGranules r) with
    | (none, s2) => loseReq (flagAbort s2 r.round false) r cCORRUPT
    | (some a, s2) =>
      if leAt a 0 1 ≠ (if reqInt r then 0 else reqS r) ∨ leAt a 1 1 ≠ reqG r ∨ leAt a 8 8 ≠ reqGranules r ∨ leAt a 0x10 6 ≠ r.round then
        finishReq (windowFail s2 false r.group 0 0 r.round true) r (some cPOLICY)
      else if leAt a 0x18 4 ≠ r.grp.epoch then finishReq (windowFail s2 true r.group 0 0 r.round false) r (some cPOLICY)
      else putReq s2 { r with area := a, phase := 1 }
  else if r.oper = 7 then
    match hwReadRange s1 r.counts (8 * r.grp.members.length) with
    | (none, s2) => loseReq (flagAbort s2 r.round false) r cCORRUPT
    | (some c, s2) => putReq s2 { r with area := c, phase := 0, got := [((memberAt r.grp r.grp.self).node, c)] }
  else putReq s1 { r with phase := 1 }

/-- Carriers that a request needs are there (R237). -/
def carriersThere (s : State) (r : CReq) : Bool :=
  let (a, _, b) := planOf r
  (a ++ b).all (fun st => st.all (fun x => (x.send.isEmpty && x.recv.isEmpty) || (carriersFor s r.grp x.level x.peer).isSome))

/-- A request that ends whole has made the part of its round's factors that it wrote (R19); a BROADCAST of a STATE group has brought its part
of a healing site's state (R334). -/
def noteResult (s : State) (r : CReq) : State :=
  let segs := if r.oper = 3 then r.finished.flatMap (resultSegs r)
    else if isSum r.oper ∧ reqInt r then [(r.dst, 4 * r.elems + r.elems / 32)]
    else [(r.dst, tensorBytes (outElem r) (if r.oper = 4 then (presentOf r.grp).length * r.elems else r.elems))]
  if inRound s r.round then segs.foldl (fun a x => noteMade a x.1 x.2) s
  else if r.oper = 5 ∧ r.round = 0 ∧ bitOf r.grp.flags 2 then
    { s with site := { s.site with fetch := s.site.fetch.map (fun f => { f with got := joinRange r.dst (r.dst + tensorBytes (outElem r) r.elems) f.got }) } }
  else s

/-- An EXCHANGE ends: its area is written, and the round has it (R19, R119, R221). -/
def endExchange (s : State) (r : CReq) : State :=
  let s1 := hwWriteRange s r.dst r.area
  let s2 := { s1 with job := if r.round ≠ 0 ∧ r.round = s1.job.round ∧ s1.job.held then
    { s1.job with contributors := leAt r.area 4 4, area := r.dst, areaRound := r.round, exchanged := s1.job.exchanged + 1 } else s1.job }
  finishReq s2 r none

/-- Move one request on: exchange, steps, FINISH, end. The fuel bounds the steps taken at once. -/
def advanceReq : Nat → State → Nat → State
  | 0, s, _ => s
  | fuel + 1, s, num =>
    match reqAt s num with
    | none => s
    | some r =>
      if r.phase = 3 then (if mayStart s r then advanceReq fuel (startReq s r) num else s)
      else if r.phase = 0 then
        match runExchange s r with
        | (.ended, s1) => s1
        | (.waiting r1, s1) => putReq s1 r1
        | (.going r1, s1) =>
          if r1.oper = 1 then endExchange s1 r1
          else
            let r2 := { r1 with phase := 1 }
            if r2.oper = 7 ∧ !(carriersThere s1 r2) then finishReq s1 r2 (some cPOLICY)
            else advanceReq fuel (putReq s1 r2) num
      else if r.phase = 1 then
        match placeOwn ((ownJobs r).drop r.placed) s r with
        | (.ended, s1) => s1
        | (.waiting r1, s1) => putReq s1 r1
        | (.going r, s) =>
        let (ups, fin, downs) := planOf r
        let steps := ups ++ downs
        match (if r.step = ups.length ∧ r.next = 0 then fin.find? (fun c => !r.finished.contains c) else none) with
        | some c =>
          match finishChunk s r c with
          | (.going r1, s1) => advanceReq fuel (putReq s1 r1) num
          | (.waiting r1, s1) => putReq s1 r1
          | (.ended, s1) => s1
        | none =>
          if steps.length ≤ r.step then finishReq (holdGrid (noteResult s r) r) r none
          else
            let xs := nthD [] steps r.step
            let tiles := stepTiles r xs
            if tiles.length ≤ r.next then
              if s.coll.purposes.any (fun p => p.num == num) then s
              else
                let (s1, r1) := passChunks s r ((xs.filter (fun x => !x.gather)).flatMap (·.send))
                advanceReq fuel (putReq s1 { r1 with step := r.step + 1, next := 0 }) num
            else
              let (s1, r1) := postTiles (tiles.drop r.next) s r
              if r1.next = r.next then putReq s1 r1 else advanceReq fuel (putReq s1 r1) num
      else s

/-- Chunks of a request in flight, stage by stage: a chunk is in flight at a level from the first tile it sends there until its reduce or gather
half is complete at that level (R224). -/
def chunksMoving (r : CReq) : Nat :=
  if r.phase ≠ 1 then 0
  else
    let (ups, _, downs) := planOf r
    let steps := ups ++ downs
    let keys (l : List Xf) (f : Xf → List Nat) : List (Nat × Bool × Nat) := l.flatMap (fun x => (f x).map (fun c => (x.level, x.gather, c)))
    let now := ((stepTiles r (nthD [] steps r.step)).take r.next).filter (·.out)
    let sent := keys (steps.take r.step).flatten (·.send) ++ now.map (fun j => (j.level, j.gather, j.chunk))
    let left := keys (steps.drop r.step).flatten (fun x => x.send ++ x.recv)
    ((sent.filter (fun k => left.contains k)).eraseDups).length

/-- The engine moves on: completed carrier tiles, then every active request. -/
def collAdvance (s : State) : State :=
  if s.coll.active.isEmpty then { s with coll := { s.coll with ended := [] } }
  else
    let l := s.coll.ended
    let s1 := takeEnded l { s with coll := { s.coll with ended := [] } }
    let s2 := (s1.coll.active.map (·.num)).foldl (fun a n => advanceReq 4096 a n) s1
    endAll s2.coll.active s2

/-! ### Fetch (R217, R219, R220) -/

/-- The REDUCE station may read or write a range: every part of it, region by region. -/
def reduceMay (s : State) (wr : Bool) (a n : Nat) : Bool :=
  match spanPieces (regionsNow s) (fun _ => true) (n / 65536 + 65) a n with
  | some l => l.all (fun x => match checkAccess s (regionsNow s) s.regn.gate stREDUCE wr false false x.1 x.2 with | .ok _ => true | .error _ => false)
  | none => false

/-- Bytes of a request's result, as far as its record says. -/
def dstBytes (s : State) (r : CReq) : Nat :=
  if r.oper = 1 then areaBytes s r.records
  else if isSum r.oper ∧ reqInt r then 4 * r.elems + r.elems / 32
  else if r.oper = 4 then tensorBytes (inElem r) ((presentOf r.grp).length * r.elems)
  else if r.oper = 7 then 1
  else tensorBytes (outElem r) r.elems

/-- The checks of R220. DESIGN CHOICE (232): an input whose elements are no multiple of 32 (R218) is refused too. -/
def reqOk (s : State) (r : CReq) (ver : Nat) : Bool :=
  let n := ownCount r.grp * (presentOf r.grp).length
  ver == 1 && decide (1 ≤ r.oper) && decide (r.oper ≤ 9) && decide (r.ring ≤ 255) && r.grp.state == 1
    && (bitOf r.grp.flags 1 == (r.round != 0))
    && (elemOf r.inFmt).isSome && (elemOf r.outFmt).isSome && decide (reqS r ≤ 2) && decide (reqG r ≤ 1)
    && (!(reqInt r) || (reqPre r && r.outFmt == 0x0D))
    && (r.oper == 1 || (r.elems % 32 == 0 && reduceMay s false r.src (srcBytes r)))
    && reduceMay s true r.dst (dstBytes s r)
    && (!(isSum r.oper) || (r.outFmt != 0 && (reqInt r || sigAccepts (reqS r) r.inFmt)
        && decide (n ≤ (if r.inFmt = 0x0C then 2 ^ 27 else if r.inFmt = 0x0B then 2 ^ 23 else 2 ^ 31)) && reduceMay s false r.records (32 + 2 * reqGranules r)))
    && (!(isCmp r.oper) || r.outFmt == r.inFmt)
    && (r.oper != 1 || reduceMay s false r.records (areaBytes s r.records)) && (r.oper != 7 || reduceMay s false r.counts (8 * r.grp.members.length))
    && (r.oper != 5 || (presentOf r.grp).contains r.root)

/-- A request of a round group must carry the epoch in force (R327). -/
def epochOk (s : State) (r : CReq) : Bool := !(bitOf r.grp.flags 1) || r.grp.epoch == fld s R.SITE_EPOCH 31 0

/-- The next request of the ring, its codes and group known; a request that fails its checks completes REFUSED_POLICY. DESIGN CHOICE (225): at a
member that is not PRESENT, which takes no part in any step (R211), a request ends at once and moves nothing. -/
def fetchOne (s : State) (slot : Nat) (b : List Byte) : State :=
  let r0 := parseRequest s.coll.seq slot b
  let r := { r0 with grp := (groupAt s r0.group).getD { state := 0 }, phase := 3 }
  let s1 := { s with coll := { s.coll with fetch := (slot + 1) % rqSize s, seq := s.coll.seq + 1, dead := s.coll.dead.filter (· ≠ r.round),
                                           active := s.coll.active ++ [r] } }
  if !(reqOk s1 r (leAt b 0 1)) then finishReq s1 r (some cPOLICY)
  else if !(epochOk s1 r) then finishReq (windowFail s1 true r.group 0 0 r.round false) r (some cPOLICY)
  else if !((presentOf r.grp).contains r.grp.self) then finishReq s1 r none
  else if r.oper != 7 && r.oper != 1 && !(carriersThere s1 r) then finishReq s1 r (some cPOLICY)
  else s1

/-- A code of OPER that no operation has. -/
def refusedOper (b : List Byte) : Bool := leAt b 1 1 % 16 == 0 || decide (10 ≤ leAt b 1 1 % 16)

/-- The engine fetches the next request when its operation is `oper`; before it, requests whose operation code is refused and
slots whose request was aborted unfetched. -/
def fetchOper (oper : Nat) : Nat → State → State
  | 0, s => s
  | fuel + 1, s =>
    if !inRun s pgCOLL || s.coll.fetch == rqTail s || decide (64 ≤ s.coll.active.length) then s
    else
      let slot := s.coll.fetch
      if s.coll.skip.contains slot then
        fetchOper oper fuel { s with coll := { s.coll with skip := s.coll.skip.filter (· ≠ slot), fetch := (slot + 1) % rqSize s } }
      else match readRequest s slot with
        | (none, s1) => s1
        | (some b, s1) =>
          let s := s1
          if refusedOper b then fetchOper oper fuel (fetchOne s slot b)
          else if leAt b 1 1 % 16 = oper then collAdvance (fetchOne s slot b)
          else s

/-- COLL_DB (R217): the rules of R58. -/
def collDb (s : State) (tail : Nat) : State :=
  let size := rqSize s
  if blkState s pgCOLL ≠ bRUN then s
  else if size ≤ tail ∨ ringFree size (rqHead s) (rqTail s) < (tail + size - rqTail s) % size then
    overrunDb s pgCOLL R.STRM_DB_STRAY (reg64 s R.COLL_RQ_BASE_LO R.COLL_RQ_BASE_HI) 0
  else setFld s R.COLL_RQ_PTR 27 16 tail

/-- Records or counts arrive from a member (R221). -/
def recordsOp (s : State) (node group : Nat) (b : List Byte) : State :=
  collAdvance { s with coll := { s.coll with recs := s.coll.recs ++ [(node, group, b)] } }

/-! ### Abort (R232) -/

/-- Requests of a round still in the ring, unfetched: they end ABORTED_ROUND, and their slots are passed over; their records are written as those
of other ended requests. -/
def abortWaiting (n : Nat) : Nat → Nat → State → State
  | 0, _, s => s
  | fuel + 1, slot, s =>
    if slot = rqTail s then s
    else
      let next := (slot + 1) % rqSize s
      if s.coll.skip.contains slot then abortWaiting n fuel next s
      else match (readRequest s slot).1 with
        | some b =>
          let r0 := parseRequest s.coll.seq slot b
          let r := { r0 with grp := (groupAt s r0.group).getD { state := 0 } }
          if r.round = n then
            abortWaiting n fuel next (bump { s with coll := { s.coll with
              skip := slot :: s.coll.skip, seq := s.coll.seq + 1, active := s.coll.active ++ [stampReq s r (some cABORTED)] } } R.COLL_ABORTS)
          else abortWaiting n fuel next s
        | none => abortWaiting n fuel next s

/-- What the engine does when ABORT is written for a round. -/
def abortEngine (s : State) (n : Nat) : State :=
  let mine := s.coll.active.filter (fun r => r.round == n)
  let waiting := (List.range (rqSize s)).any (fun i =>
    let slot := (s.coll.fetch + i) % rqSize s
    decide (i < (rqTail s + rqSize s - s.coll.fetch) % rqSize s) && (match (readRequest s slot).1 with | some b => leAt b 8 6 == n | none => false))
  if mine.isEmpty ∧ !waiting then s
  else
    let s1 := mine.foldl (fun a r => if r.phase = 2 then a else bump (putReq (dropChunks a r) { stampReq a r (some cABORTED) with chunks := [] }) R.COLL_ABORTS) s
    let s2 := { s1 with coll := { s1.coll with purposes := s1.coll.purposes.filter (fun p => !(mine.any (fun r => r.num == p.num))),
                                               results := s1.coll.results.filter (fun x => x.round != n),
                                               checks := s1.coll.checks.filter (fun c => c.2.2.1 != n), dead := insNat s1.coll.dead n } }
    let s3 := abortWaiting n (rqSize s2) s2.coll.fetch s2
    event (endAll s3.coll.active s3) pgCOLL 3

/-- COLL_CMD ABORT for a round: the engine's requests, and every tile of the round (R76, R232). -/
def abortCmd (s : State) (n : Nat) : State := abortEngine (abortTiles s n) n

/-- A round's provisional results are discarded: its accumulators, its result chunks and checks, its residual, its mirror; it waits for its
replay (R231). -/
def forgetRound (s : State) (n : Nat) : State :=
  mirrorFlag { s with coll := { s.coll with results := s.coll.results.filter (fun x => x.round != n), checks := s.coll.checks.filter (fun c => c.2.2.1 != n) },
                      job := { s.job with acc := [], exchanged := 0, made := [], staged := [], rechecked := false, residDone := 0, readySent := false, aborted := some s.job.phase, abortDue := none },
                      hlth := { s.hlth with mirOut := [], mirChunks := [] } }

/-- Steps of R232 at this WG9: the announcement, the registers and the command. -/
def abortSteps (s : State) (n : Nat) : State :=
  let nodes := (s.coll.groups.filter (fun e => bitOf e.2.flags 1)).foldl (fun l e => (othersOf e.2).foldl (fun m i => insNat m (memberAt e.2 i).node) l) []
  let s1 := nodes.foldl (fun a nd => emit a (.message .abortAnnounce 7 nd 1 [n] [])) s
  let s2 := set64 s1 R.COLL_ABORT_LO R.COLL_ABORT_HI n
  forgetRound (abortCmd s2 n) n

/-- An apply that met a special granule stops (R120): what it staged is dropped, and nothing of the round is replayed or pushed. -/
def stopApply (s : State) : State :=
  let units := s.hlth.staged.map (·.1)
  { s with job := { s.job with phase := 0, aborted := none },
           hlth := { s.hlth with staged := [], queue := s.hlth.queue.filter (fun u => !units.contains u) } }

/-- Mirder aborts a round (R231 to R233): ROUND_ABORTED to the local job, but not of a round that a dipped site holds (R331); REPLAY_LIMIT, or a cause that would repeat, holds the
job at the last commit. -/
def abortRound (s : State) (n : Nat) (holds : Bool) : State :=
  let s3 := abortSteps s n
  let cnt := s3.job.aborts + 1
  let limit := decide (fld s3 R.COLL_REPLAY_MAX 3 0 ≤ cnt)
  let s4 := { s3 with job := { s3.job with aborts := cnt, holding := s3.job.holding || holds || limit } }
  let s5 := if fld s R.SITE_STATE 2 0 = 2 then s4 else postNotice (jobNotice s4 .roundAborted 1 n [cABORTED]) 2 n
  let s6 := if limit then raise s5 pgCOLL fREPLAY_LIMIT 0 n else s5
  let s7 := if holds || limit then postNotice s6 9 n else s6
  if s.job.phase = 8 then stopApply s7 else s7

/-- At the end of a command: the abort that it caused. -/
def abortSettle (s : State) : State :=
  match s.job.abortDue with
  | some (n, holds) => abortRound s n holds
  | none => s

end Sys2Proof.Machine
end

