-- ==== Sys2Proof/Machine/FaultIrq.lean ====
section
/-!
DEFINITION. Fault collection and the interrupt controller: the effects of their commands (R370 to R391).
-/
namespace Sys2Proof.Machine

/-! ### Faults -/

/-- A record raised by hardware (R373): its severity is its kind's; a reserved kind raises nothing. -/
def raiseHardware (s : State) (src kind ctx addr : Nat) : State :=
  if kindSev kind ≠ 0 ∧ kind ∉ [0x40, 0x41, 0x42, 0x43, 0x44, 0x45, 0x46, 0x47, 0x48, 0x49] then raise s src kind ctx addr else s

/-- The kind of each FLT_WIRE bit (R374). -/
def wireKind (b : Nat) : Nat :=
  if b ≤ 4 then fPLL_UNLOCK else if b ≤ 10 then fPOWER_FAULT else if b ≤ 13 then fTHERMAL_TRIP
  else if b = 14 then fD2D_DOWN else if b = 15 then fHBM_PHY_FAIL else if b = 16 then fCXL_PHY_FAIL
  else if b ≤ 19 then fGLITCH else fTAMPER

/-- The CONTEXT of a wire's record (R373): the bit for PLL_UNLOCK, POWER_FAULT, THERMAL_TRIP and GLITCH; the failed
link's FLD page, or the stack, as observed; 0 otherwise. -/
def wireContext (b : Nat) (seen : Nat) : Nat :=
  if b ≤ 13 ∨ (17 ≤ b ∧ b ≤ 19) then b else if b = 14 ∨ b = 15 then seen else 0

/-- A wire's latch sets, and the setting makes its record (R374). -/
def wireLatch (s : State) (b seen : Nat) : State :=
  let s1 := event (setFlag s R.FLT_WIRE b true) 0x81 1
  raise s1 (0xF00 + b) (wireKind b) (wireContext b seen) 0

/-- An error wire asserts: its level shows in FLT_WIRE_RAW, and the latch sets when it was clear (R374). -/
def wireAsserts (s : State) (b seen : Nat) : State :=
  let was := flag s R.FLT_WIRE b
  let s1 := setFlag s R.FLT_WIRE_RAW b true
  if was then s1 else wireLatch s1 b seen

/-- Clear the latches named by v; each whose wire still asserts sets again at once (R374). -/
def wireClear (s : State) (v : Nat) : State :=
  (List.range 21).foldl (fun a b =>
    if bitOf v b && flag a R.FLT_WIRE b then
      let a1 := setFlag a R.FLT_WIRE b false
      if flag a1 R.FLT_WIRE_RAW b then wireLatch a1 b 0 else a1
    else a) s

/-- A record that Mirder submits (R373, R389): the four words of FLT_RAISE; a kind outside 0x40 to 0x7F or reserved, a
refused severity or source, submits nothing. -/
def raiseMirder (s : State) (w3 : Nat) : State :=
  let w0 := regN s R.FLT_RAISE0
  let src := bitsOf w0 11 0
  let sev := bitsOf w0 15 12
  let kind := bitsOf w0 23 16
  let ctx := bitsOf w0 31 24
  let addr := bitsOf (regN s R.FLT_RAISE2) 31 16 + w3 * 0x10000
  if 0x40 ≤ kind ∧ kind ≤ 0x7F ∧ kindSev kind ≠ 0 ∧ 1 ≤ sev ∧ sev ≤ 4 then raiseN 4 s src sev kind ctx addr else s

/-- The quiet period of a source, in ticks (R380). -/
def quietTicks (s : State) (src : Nat) : Nat :=
  let q := regN s (keyB R.FLT_QUIET src)
  if bitOf q 16 then bitsOf q 15 0 * 125000 else bitsOf q 15 0

/-- The source may leave the fault state (R380). -/
def mayRecover (s : State) (src : Nat) : Bool :=
  inFault s src && (fltDyn s src).test.isNone && decide ((fltDyn s src).last + quietTicks s src ≤ s.tick.now)

/-- A source leaves the fault state: the recovery counter counts, FAULT_N is released, a block put in FAULT goes to
STARTING or OFF (R380, R401). -/
def recover (s : State) (src : Nat) : State :=
  let old := regN s (fltSum src)
  let s1 := setN s (fltSum src) (putBits (putBits old 0 0 0) 31 16 (bitsOf old 31 16 + 1))
  let s2 := setFltDyn s1 src { fltDyn s1 src with holdsN := false }
  if src < 0x100 ∧ blkState s2 src = bFAULT then
    if flag s2 (hdr src oCTRL) 0 then enterStarting s2 src else setBlk s2 src bOFF
  else s2

/-! ### Interrupts -/

/-- Whether a write of IRQ_DB from a window is accepted for a source (R382). -/
def dbAccepted (s : State) (w : Win) (src : Nat) : Bool :=
  let gen1 := decide (0x120 ≤ src) && decide (src ≤ 0x1FF)
  let gen2 := decide (0x300 ≤ src) && decide (src ≤ 0x3DF)
  match w with
  | .bar0 => gen1
  | .bar2 => gateOpen s && !pageLocked s 0x80 && (gen1 || gen2)
  | .core => gen1 || gen2

/-- A write of IRQ_DB (R382). -/
def doorbell (s : State) (w : Win) (v : Nat) : State :=
  let src := bitsOf v 9 0
  if dbAccepted s w src then irqMessage s src else bump s R.IRQ_DB_STRAY

/-- Raise IRQ_ORDER with a case of R385. -/
def irqOrder (s : State) (src case : Nat) : State :=
  raise (event (bump s R.IRQ_ORDER_CNT) 0x80 1) 0x80 fIRQ_ORDER case src

/-- The target of a SERVE write is refused: 9 to 15, or through BAR2 not 8 (R385). -/
def serveRefused (w : Win) (t : Nat) : Bool := decide (9 ≤ t) || (w == .bar2 && t != 8)

/-- Whether a window's write of SERVE_BEGIN or SERVE_END reaches WG9: the BAR0 window never writes it; BAR2 reaches it
whatever the gate for target 8 (R398), another target being refused and counted (R385), unless the page is locked
(R400). -/
def serveReaches (s : State) (w : Win) : Bool :=
  match w with
  | .bar0 => false
  | .core => true
  | .bar2 => !pageLocked s 0x80

/-- SERVE_BEGIN (R385). -/
def serveBeginOp (s : State) (w : Win) (v : Nat) : State :=
  let src := bitsOf v 9 0
  let t := bitsOf v 15 12
  if !serveReaches s w then s
  else if serveRefused w t then bump s R.IRQ_DB_STRAY
  else if 16 ≤ (irqStack s t).length then irqOrder s src 1
  else if irqTarget s src ≠ t then irqOrder s src 2
  else
    let cnt := fld s (keyB R.IRQ_SRC_CNT src) 7 0
    let s1 := clearPend s t src
    let s2 := setN s1 (keyB R.IRQ_SERVE_CNT t) (cnt + src * 0x10000)
    let s3 := setN s2 (keyB R.IRQ_SRC_CNT src) 0
    { s3 with irq := { s3.irq with serving := mapPut s3.irq.serving t ((src, irqPrio s3 src) :: irqStack s3 t) } }

/-- The host's level has fallen from `old`: one message for each pending source it had held back (R384). -/
def msiAfterFall (s : State) (old : Nat) : State :=
  s.irq.pend.foldl (fun a p =>
    if p / 1024 = 8 ∧ irqTarget a (p % 1024) = 8 ∧ irqEn a (p % 1024) ∧ irqMasked a (p % 1024) = false
        ∧ irqPrio a (p % 1024) ≤ old
    then msiIf a (p % 1024) else a) s

/-- SERVE_END (R385). -/
def serveEndOp (s : State) (w : Win) (v : Nat) : State :=
  let src := bitsOf v 9 0
  let t := bitsOf v 15 12
  if !serveReaches s w then s
  else if serveRefused w t then bump s R.IRQ_DB_STRAY
  else match irqStack s t with
    | (top, p) :: rest =>
      if top = src then
        let s1 := { s with irq := { s.irq with serving := mapPut s.irq.serving t rest } }
        if t = 8 then msiAfterFall s1 p else s1
      else irqOrder s src 0
    | [] => irqOrder s src 0

/-- A latched message's spacing has passed: the pending bit sets (R386). -/
def spacingEndOp (s : State) (src : Nat) : State :=
  if (irqDyn s src).latched ∧ spacingPassed s src ∧ irqEn s src ∧ irqMasked s src = false then setPend s src else s

/-- The active level of a wake source's input now (R388); latches 20 and 21 have none. -/
def wakeLevel (s : State) (latch : Nat) : Bool := latch < 20 && s.irq.raw.getLsbD latch

/-- A source with EN = 1 was active in the tick that ends (R387). -/
def wasActive (s : State) (src : Nat) : Bool :=
  irqEn s src && ((irqDyn s src).msg || (decide (0x3E0 ≤ src) && wakeLevel s (src - 0x3E0)))

/-- The sources whose activity the boundary must judge: those met before and the wake sources. -/
def judgedSources (s : State) : List Nat :=
  s.irq.srcs.map (·.1) ++ ((List.range 20).map (· + 0x3E0)).filter (fun x => (mapFind s.irq.srcs x).isNone)

/-- At a boundary: each source's ACTIVE bit and its run of active ticks (R387). -/
def judgeActivity (s : State) : State :=
  (judgedSources s).foldl (fun a src =>
    let act := wasActive a src
    let d := irqDyn a src
    let a1 := setIrqDyn a src { d with msg := false, run := if act then d.run + 1 else 0 }
    setFlag a1 (irqCfg src) 18 act) s

/-- A source active for STUCK ticks is stuck-masked (R387). -/
def stuckOp (s : State) (src : Nat) : State :=
  let lim := regN s (keyB R.IRQ_SRC_STUCK src)
  if irqEn s src ∧ lim ≠ 0 ∧ lim ≤ (irqDyn s src).run ∧ irqMasked s src = false then
    let s1 := clearPend (setFlag s (irqCfg src) 17 true) (irqTarget s src) src
    raise (event s1 0x80 0) 0x80 fSTUCK_SOURCE 0 src
  else s

/-- UNMASK of a source (R387). -/
def unmaskOp (s : State) (src : Nat) : State :=
  if flag s (irqCfg src) 18 then event s 0x80 2 else setFlag s (irqCfg src) 17 false

/-- The wake latch sets: in P0 or P1 its message goes at once; in P2 it waits for clocks, and with its enable set it
requests wake-up (R388). `inP2` says that the package is in P2. -/
def wakeLatch (s : State) (latch : Nat) (inP2 : Bool) : State :=
  let was := flag s R.IRQ_WAKE latch
  let s1 := setFlag s R.IRQ_WAKE latch true
  if was then s1
  else if inP2 then
    let s2 := { s1 with irq := { s1.irq with owed := insNat s1.irq.owed latch } }
    if flag s2 R.IRQ_WAKE_EN latch then emit s2 (.wake latch) else s2
  else irqMessage s1 (0x3E0 + latch)

/-- A wake input changes (R388): latches 0 to 19 set when the input reaches its active level, 20 and 21 on either
edge. -/
def wakeInputOp (s : State) (latch : Nat) (active inP2 : Bool) : State :=
  if 20 ≤ latch then wakeLatch s latch inP2
  else
    let was := s.irq.raw.getLsbD latch
    let raw := if active then s.irq.raw ||| BitVec.ofNat 32 (2 ^ latch) else s.irq.raw &&& ~~~ BitVec.ofNat 32 (2 ^ latch)
    let s1 := { s with irq := { s.irq with raw := raw } }
    if active && !was then wakeLatch s1 latch inP2 else s1

/-- A write of 1 clears a latch; while its input stays active it sets again at once (R388). -/
def wakeClear (s : State) (v : Nat) (inP2 : Bool) : State :=
  (List.range 22).foldl (fun a b =>
    if bitOf v b && flag a R.IRQ_WAKE b then
      let a1 := setFlag a R.IRQ_WAKE b false
      if wakeLevel a1 b then wakeLatch a1 b inP2 else a1
    else a) s

/-- Messages that waited for clocks to run follow (R388). -/
def sendOwed (s : State) : State :=
  s.irq.owed.foldl (fun a l => irqMessage a (0x3E0 + l)) { s with irq := { s.irq with owed := [] } }

end Sys2Proof.Machine
end

