-- ==== Sys2Proof/Machine/Line.lean ====
section
/-!
DEFINITION. What the line's framing, delivery and cipher share: pages, sequences, performance data (R255 to R257), keys
(R287, R293), defects (R248) and freezes (R273).
-/
namespace Sys2Proof.Machine

/-- The page of a module's framing. -/
def pgLFRM (md : Nat) : Nat := 0x60 + md
/-- The page of line delivery. -/
abbrev pgLDLV : Nat := 0x64
/-- The page of the line cipher. -/
abbrev pgLCIPH : Nat := 0x68
/-- The page of the keyed check service. -/
abbrev pgSEAL : Nat := 0x69
/-- The page of the OCU. -/
abbrev pgOCU : Nat := 0x70

/-- A register of LFRM0 on a module's page. -/
def lf (key md : Nat) : Nat := key + md * 0x1000

/-- The port code of R182 of a module. -/
def linePort (md : Nat) : Nat := 4 + md

/-! ### Sequences and ticks -/

/-- Sequences and load numbers are modulo 2^48 (R241, R267). -/
abbrev seq48 : Nat := 281474976710656

/-- a is later than b. -/
def later48 (a b : Nat) : Bool := let d := (a + seq48 - b % seq48) % seq48; d != 0 && decide (d < seq48 / 2)

/-- How far a is beyond b. -/
def beyond48 (a b : Nat) : Nat := (a + seq48 - b % seq48) % seq48

/-- The full tick of a 16-bit stamp (R243). -/
def fullTick (now stamp : Nat) : Int :=
  let d := (stamp + 65536 - now % 65536) % 65536
  (now : Int) + (if d < 32768 then (d : Int) else (d : Int) - 65536)

/-- TIME_STAT.LOCKED, mirrored in TICK_STAT. -/
def timeLocked (s : State) : Bool := flag s R.TIME_STAT 0

/-- The package is in P1. -/
def inP1 (s : State) : Bool := fld s R.PWR_STATE 1 0 == 1

/-! ### Performance data (R255 to R257) -/

/-- Change one second's record. -/
def pmModify (sec : Nat) (f : PmSec → PmSec) : List PmSec → List PmSec
  | [] => [f { sec := sec }]
  | x :: t => if x.sec = sec then f x :: t else if sec < x.sec then f { sec := sec } :: x :: t else x :: pmModify sec f t

/-- Note something of a second on a module. -/
def pmNoteAt (s : State) (md sec : Nat) (f : PmSec → PmSec) : State :=
  let m := lineMod s md
  putLine s md { m with pm := { m.pm with secs := pmModify sec f m.pm.secs } }

/-- Note something of the present second on a module. -/
def pmNote (s : State) (md : Nat) (f : PmSec → PmSec) : State := pmNoteAt s md (secOf s.tick.counter) f

/-- Count: 0 PENN, 1 TAG, 2 FEC, 3 RETX, 4 ABAND, 5 LOF, 6 STEER, 7 PSTEP. -/
def pmCount (s : State) (md i n : Nat) : State := pmNote s md (fun x => { x with counts := setAt 0 x.counts i (nthD 0 x.counts i + n) })

/-- Count corrected symbols of the tick that ends at the boundary now reached, in the second in which that tick lies (R256). -/
def pmSymbols (s : State) (md n : Nat) : State :=
  pmNoteAt s md (secOf (s.tick.counter - s.tick.incr)) (fun x => { x with counts := setAt 0 x.counts 2 (nthD 0 x.counts 2 + n) })

/-- A module enters a defect within the tick (R256). -/
def pmDefect (s : State) (md : Nat) : State := pmNote s md (fun x => { x with defect := true })

/-- A severely errored second (R256). -/
def isSes (x : PmSec) : Bool := x.defect || (x.eb != 0 && decide (3 * x.pos ≤ 10 * x.eb))

/-- The record of a second. -/
def pmOf (l : List PmSec) (t : Nat) : PmSec := (l.find? (fun x => x.sec == t)).getD { sec := t }

/-- Add to a bin, each counter saturating; FEC is 64 bits wide. -/
def pmAdd (old add : List Nat) : List Nat :=
  (old.zip add).zipIdx.map (fun e => min (if e.2 = 6 then 0xFFFFFFFFFFFFFFFF else 0xFFFFFFFF) (e.1.1 + e.1.2))

/-- Enter a second in a current bin of a length. -/
def pmEnter (len : Nat) (b : Option PmBin) (t : Nat) (suspect : Bool) (add : List Nat) : PmBin :=
  let c : PmBin := b.getD { start := t / len * len, suspect := t % len != 0 }
  { c with suspect := c.suspect || suspect, counts := pmAdd c.counts add }

/-- Classify one second and enter its counts (R256, R257): bins whose end it is move into history. -/
def classifySec (s : State) (md : Nat) : State :=
  let m := lineMod s md
  let p := m.pm
  let t := p.next
  let x := pmOf p.secs t
  let ten := (List.range 10).map (fun i => isSes (pmOf p.secs (t + i)))
  let un := if p.unavail then !(ten.all (fun b => !b)) else ten.all id
  let ses := isSes x
  let es := ses || x.eb != 0
  let add := [ofBool (es && !un), ofBool (ses && !un), ofBool un, if ses || un then 0 else x.eb] ++ x.counts
  let q := pmEnter 900 p.quarter t x.suspect add
  let d := pmEnter 86400 p.day t x.suspect add
  let qEnd := (t + 1) % 900 == 0
  let dEnd := (t + 1) % 86400 == 0
  let p1 := { p with
    secs := p.secs.filter (fun y => decide (t < y.sec)), next := t + 1, unavail := un,
    quarter := if qEnd then none else some q, quarters := if qEnd then (q :: p.quarters).take 96 else p.quarters,
    day := if dEnd then none else some d, days := if dEnd then (d :: p.days).take 7 else p.days }
  eventIf (eventIf (putLine s md { m with pm := p1 }) qEnd (pgLFRM md) 5) dEnd (pgLFRM md) 6

/-- SECOND_CLASSIFY: the next second, 10 s after it ended (R257). -/
def classifyOp (s : State) (md : Nat) : State :=
  if (lineMod s md).pm.next + 11 ≤ secOf s.tick.counter then classifySec s md else s

/-- The counter is stepped (R257): seconds that wait are entered, the current bins close SUSPECT. `now` is the second after
the step. -/
def pmStep (now : Nat) (s : State) (md : Nat) : State :=
  let s1 := (lineMod s md).pm.secs.foldl (fun a x =>
    let m := lineMod a md
    classifySec (putLine a md { m with pm := { m.pm with next := x.sec } }) md) s
  let m := lineMod s1 md
  let p := m.pm
  let close (b : Option PmBin) (h : List PmBin) (n : Nat) : List PmBin :=
    match b with | some x => ({ x with suspect := true } :: h).take n | none => h
  let p1 := { p with secs := [{ sec := now, suspect := true }], next := now, quarter := none, quarters := close p.quarter p.quarters 96,
                     day := none, days := close p.day p.days 7 }
  eventIf (eventIf (putLine s1 md { m with pm := p1 }) p.quarter.isSome (pgLFRM md) 5) p.day.isSome (pgLFRM md) 6

/-- A current bin cleared (R257): empty and SUSPECT; a bin into which no second has gone yet is the one of second t. -/
def pmCleared (len t : Nat) (b : Option PmBin) : PmBin := { start := (b.map (·.start)).getD (t / len * len), suspect := true }

/-- CLEAR_CUR (R257): both current bins; the seconds that wait to be classified still enter theirs. -/
def clearCurOp (s : State) (md : Nat) : State :=
  let m := lineMod s md
  let p := m.pm
  putLine s md { m with pm := { p with quarter := some (pmCleared 900 p.next p.quarter), day := some (pmCleared 86400 p.next p.day) } }

/-! ### Keys (R287, R293) -/

/-- The index of a key slot: side 0 transmit, 1 receive. -/
def keyIdx (md side dir slot : Nat) : Nat := md * 16 + side * 8 + dir * 2 + slot

/-- A key slot. -/
def keySlot (s : State) (md side dir slot : Nat) : KeySlot := mapGet {} s.ciph.keys (keyIdx md side dir slot)

/-- Update a key slot. -/
def putKey (s : State) (md side dir slot : Nat) (k : KeySlot) : State :=
  { s with ciph := { s.ciph with keys := mapSet {} s.ciph.keys (keyIdx md side dir slot) k } }

/-- The CURRENT transmit slot of a direction. -/
def currentKey (s : State) (md dir : Nat) : Option Nat := (List.range 2).find? (fun i => (keySlot s md 0 dir i).state == 2)

/-- Keyless on transmit. -/
def keylessTx (s : State) (md dir : Nat) : Bool := (currentKey s md dir).isNone

/-- Keyless on receive. -/
def keylessRx (s : State) (md dir : Nat) : Bool := (keySlot s md 1 dir 0).state == 0 && (keySlot s md 1 dir 1).state == 0

/-! ### Defects and freezes -/

/-- The KEYLESS defect: the current receive direction holds no usable key (R248). -/
def keylessDefect (s : State) (md : Nat) : Bool := keylessRx s md (ocuMod s md).rxDir

/-- The receive side is in defect (R248, R258). -/
def lineDefect (s : State) (md : Nat) : Bool :=
  let m := lineMod s md
  !inRun s (pgLFRM md) || m.los || m.lof || keylessDefect s md

/-- A delivery context. -/
def lineCtx (s : State) (md dir : Nat) : LineCtx := nthD {} (lineMod s md).ctxs dir

/-- Update a delivery context. -/
def putCtx (s : State) (md dir : Nat) (c : LineCtx) : State :=
  let m := lineMod s md
  putLine s md { m with ctxs := setAt {} m.ctxs dir c }

/-- A frame position of the tick starts at least so many microseconds after its boundary: position i starts at 8i / F µs. -/
def posAtLeast (s : State) (md us : Nat) : Bool := decide (us * lineFrames s md ≤ 8 * (lineMod s md).pos)

/-- The module's latest transmit steer: its tick and WIDE; one due in this tick stands although its GO has not gone yet (R314). -/
def txStart (s : State) (md : Nat) : Option (Nat × Bool) :=
  let o := ocuMod s md
  match o.txq with
  | e :: _ => if e.tick ≤ s.tick.now then some (s.tick.now, e.wide) else o.txAt
  | [] => o.txAt

/-- The direction's context has just been steered to, and does not carry loads yet (R314). -/
def settling (s : State) (md : Nat) : Bool :=
  match txStart s md with
  | some (t, w) => decide (s.tick.now < t + steerJ w) || (s.tick.now == t + steerJ w && !posAtLeast s md 2)
  | none => false

/-- A context is frozen (R273, R293, R314). -/
def ctxFrozen (s : State) (md dir : Nat) : Bool :=
  (ocuMod s md).txDir != dir || settling s md || lineDefect s md || (lineMod s md).rdi || inP1 s || keylessTx s md dir

/-! ### Loss of frame and of signal -/

/-- Declare LOF (R246, R249). -/
def declareLof (s : State) (md : Nat) : State :=
  let m := lineMod s md
  let s1 := putLine s md { m with delin := 0, count := 0, badRun := 0, lof := true, steer := none }
  let s2 := pmNote (pmCount (event (bump s1 (lf R.LFRM_LOF_CNT md)) (pgLFRM md) 1) md 5 1) md (fun x => { x with defect := true })
  raise s2 (pgLFRM md) fLINE_LOF 0 m.expect

/-- REACQUIRE_TIMEOUT: no SYNC within 6 ticks of the steering boundary (R249); a LOF already declared stays as it is (R259). -/
def reacquireTimeoutOp (s : State) (md : Nat) : State :=
  match (lineMod s md).steer with
  | some t =>
    if t + 6 ≤ s.tick.now then
      let m := lineMod s md
      if m.lof then putLine s md { m with steer := none } else declareLof s md
    else s
  | none => s

/-- LOS as it stands: the module reports it, unless it began under a receive steer that excuses it while the Semaphore port is UP (R308,
R315), or fewer than three receive lanes are ACTIVE (R279). -/
def losNow (s : State) (md : Nat) : Bool :=
  let m := lineMod s md
  let excused := match (ocuMod s md).rxAt with
    | some t => decide (s.tick.now ≤ t + 5) && !m.los && flag s (keyB R.OCU_STATE md) 14
    | none => false
  (m.dark && !excused) || decide (activeLanes s md true < 3)

/-- Bring LOS up to date (R248): entry raises LINE_LOS and forces HUNT; the defect of a LOS that clears stays until SYNC, as LOF (R259). -/
def updateLos (s : State) (md : Nat) : State :=
  let m := lineMod s md
  let v := losNow s md
  if v && !m.los then
    let s1 := pmNote (putLine s md { m with los := true, delin := 0, count := 0, badRun := 0, buf := [] }) md
      (fun x => { x with defect := true })
    raise (event s1 (pgLFRM md) 2) (pgLFRM md) fLINE_LOS 0 0
  else putLine s md { m with los := v, lof := m.lof || (m.los && !v) }

/-- A receive steer, or a change of the far end's rate: the receiver hunts again without LOF (R249). -/
def reacquire (s : State) (md t : Nat) : State :=
  let m := lineMod s md
  let s1 := putLine s md { m with delin := 0, count := 0, badRun := 0, buf := [], part := none, afterGap := true, clears := 0,
                                  rblock := { m.rblock with void := true }, steer := some t }
  pmCount s1 md 6 1

end Sys2Proof.Machine
end

