-- ==== Sys2Proof/Machine/Cipher.lean ====
section
/-!
DEFINITION. The line cipher's commands and key life (R287 to R298).
-/
namespace Sys2Proof.Machine

/-- Read a key from eight registers: byte i is bits [8i+7:8i]. -/
def keyBytes (s : State) (k0 : Nat) : List Byte := (List.range 8).flatMap (fun i => bytesLE 4 (regN s (k0 + 4 * i)))

/-- Clear registers. -/
def clearRegs (s : State) (k0 n : Nat) : State := (List.range n).foldl (fun a i => setN a (k0 + 4 * i) 0) s

/-- Complete a line cipher command. -/
def lciphDone (s : State) (code : Nat) : State := event (result s R.LCIPH_RES code) pgLCIPH 6

/-- Take line keys away, by key index; a SWITCH to one of them ends REFUSED_POLICY. -/
def dropKeys (s : State) (p : Nat → Bool) : State :=
  let s1 := { s with ciph := { s.ciph with keys := s.ciph.keys.filter (fun e => !p e.1) } }
  match s.ciph.switching with
  | some (md, dir, slot) =>
    if p (keyIdx md 0 dir slot) then lciphDone { s1 with ciph := { s1.ciph with switching := none } } cPOLICY else s1
  | none => s1

/-- The modules that an erasure leaves KEYLESS are in defect in this second (R248, R256). -/
def noteKeyless (s : State) : State := (List.range 2).foldl (fun a md => if inRun a (pgLFRM md) && keylessDefect a md then pmDefect a md else a) s

/-- An erasure event of R297 with its cause bits. -/
def noteErasure (s0 : State) (cause : Nat) : State :=
  let s := noteKeyless s0
  let s1 := setN (bump (event s pgLCIPH 4) R.LCIPH_ERASURES) R.LCIPH_ERASE_CAUSE cause
  raise s1 pgLCIPH fKEY_ERASED (cause % 256) 0

/-- The batches that use an erased SEAL key are refused through their LAST tiles (R300, R303). -/
def spoilBatches (p : Nat → Bool) (c : CipherSt) : CipherSt :=
  { c with batches := c.batches.map (fun e => if p e.2.kslot then (e.1, { e.2 with key := [] }) else e) }

/-- Erase every SEAL key. -/
def eraseSeals (s : State) : State :=
  if s.ciph.seals.isEmpty then s else event { s with ciph := spoilBatches (fun _ => true) { s.ciph with seals := [] } } pgSEAL 1

/-- A glitch or the tamper mesh: every line key and SEAL key; `wire` is the bit of FLT_WIRE, 17 to 20 (R297). Staged frames
are verified in the command that brings them, so none is in staging. -/
def eraseOnAlarm (s : State) (wire : Nat) : State := noteErasure (eraseSeals (dropKeys s (fun _ => true))) (2 ^ (wire - 17))

/-- A module's framing leaves RUN. -/
def eraseModule (s : State) (md : Nat) : State := noteErasure (dropKeys s (fun k => k / 16 == md)) (2 ^ (4 + md))

/-- Entry to P2. -/
def eraseForP2 (s : State) : State := noteErasure (dropKeys s (fun _ => true)) 256

/-- The far end is keyless (R295): the direction's pairs. -/
def erasePeer (s : State) (md dir : Nat) : State :=
  let s1 := dropKeys s (fun k => k / 16 == md && k % 8 / 2 == dir)
  let s2 := raise (event s1 pgLCIPH 5) pgLCIPH fPEER_KEYLESS (md + 2 * dir) 0
  noteErasure s2 64

/-- A transmit key has sealed 2^32 frames (R291): switch to a READY slot, or erase. -/
def expireKey (s : State) (md dir slot : Nat) : State :=
  let k := keySlot s md 0 dir slot
  let o := keySlot s md 0 dir (1 - slot)
  if o.state = 1 then
    let s1 := putKey s md 0 dir slot { k with state := 3, since := s.tick.now }
    let s2 := event (putKey s1 md 0 dir (1 - slot) { o with state := 2 }) pgLCIPH 0
    if s2.ciph.switching = some (md, dir, 1 - slot) then lciphDone { s2 with ciph := { s2.ciph with switching := none } } cSERVED else s2
  else
    let s1 := event (putKey s md 0 dir slot {}) pgLCIPH 3
    noteErasure (raise s1 pgLCIPH fKEY_EXPIRED (md + 2 * dir) k.epoch) 128

/-- A frame was sealed under a transmit slot (R291). -/
def countSealed (s : State) (md dir slot seq : Nat) : State :=
  let k := keySlot s md 0 dir slot
  let n := k.sealed + 1
  let s1 := eventIf (putKey s md 0 dir slot { k with sealed := n, last := seq }) (n == 0xE0000000) pgLCIPH 2
  if n = 0x100000000 then expireKey s1 md dir slot else s1

/-- A SWITCH takes effect at a frame whose sequence is a multiple of 8 (R289). -/
def takeSwitch (s : State) (md seq : Nat) : State :=
  match s.ciph.switching with
  | some (m, dir, slot) =>
    if m = md ∧ dir = (ocuMod s md).txDir ∧ seq % 8 = 0 then
      let s1 := match currentKey s md dir with
        | some old => putKey s md 0 dir old { keySlot s md 0 dir old with state := 3, since := s.tick.now }
        | none => s
      let s2 := putKey s1 md 0 dir slot { keySlot s1 md 0 dir slot with state := 2, sealed := 0 }
      lciphDone (event { s2 with ciph := { s2.ciph with switching := none } } pgLCIPH 0) cSERVED
    else s
  | none => s

/-! ### Commands (R288, R289) -/

/-- INSTALL into a slot. -/
def installKey (s : State) (md side dir slot : Nat) : State :=
  let epoch := regN s R.LCIPH_EPOCH
  let key := keyBytes s R.LCIPH_KEY0
  let s1 := clearRegs s R.LCIPH_KEY0 8
  let top := mapFind s.ciph.epochs (md * 4 + dir)
  if (keySlot s md side dir slot).state ≠ 0 then lciphDone s1 cBUSY
  else if side = 0 ∧ top.any (fun t => decide (epoch ≤ t)) then lciphDone s1 cPOLICY
  else
    let s2 := putKey s1 md side dir slot { state := 1, key := key, epoch := epoch }
    let s3 := if side = 0 then { s2 with ciph := { s2.ciph with epochs := mapPut s2.ciph.epochs (md * 4 + dir) epoch } } else s2
    lciphDone s3 cSERVED

/-- SWITCH. -/
def switchTo (s : State) (md side dir slot : Nat) : State :=
  let st := (keySlot s md 0 dir slot).state
  if side = 1 then lciphDone s cPOLICY
  else if st = 3 then lciphDone s cBUSY
  else if st ≠ 1 then lciphDone s cPOLICY
  else setN { s with ciph := { s.ciph with switching := some (md, dir, slot) } } R.LCIPH_RES 1

/-- RETIRE. -/
def retireKey (s : State) (md side dir slot : Nat) : State :=
  if side = 0 then lciphDone s cPOLICY else lciphDone (putKey s md 1 dir slot {}) cSERVED

/-- ERASE: both slots of the pair. -/
def erasePair (s : State) (md side dir : Nat) : State :=
  lciphDone (event (dropKeys s (fun k => k / 2 == keyIdx md side dir 0 / 2)) pgLCIPH 4) cSERVED

/-- A command written to LCIPH_CMD: 1 INSTALL, 2 SWITCH, 3 RETIRE, 4 ERASE; ignored while PENDING. -/
def lciphCmd (s : State) (op v : Nat) : State :=
  let md := bitsOf v 3 3
  let side := bitsOf v 4 4
  let dir := bitsOf v 6 5
  let slot := bitsOf v 7 7
  if flag s R.LCIPH_RES 0 then s
  else if op = 1 then installKey s md side dir slot
  else if op = 2 then switchTo s md side dir slot
  else if op = 3 then retireKey s md side dir slot
  else if op = 4 then erasePair s md side dir
  else if op = 0 then s
  else lciphDone s cPOLICY

/-- A write of LCIPH_CMD from a window. -/
def lciphCmdWrite (s : State) (w : Win) (op v : Nat) : State := if mayWrite s w R.LCIPH_CMD then lciphCmd s op v else s

/-! ### Retirement (R292) -/

/-- The site a direction's far end is expected to have. -/
def expSite (s : State) (md dir : Nat) : Nat := fld s (lf R.LFRM_EXP_A md + 4 * dir) 7 0

/-- Send a message of Mirder's on a line direction. -/
def lineMessage (s : State) (kind : MsgKind) (md dir cls : Nat) (fields : List Nat) (data : List Byte) : State :=
  emit s (.message kind (linePort md) (expSite s md dir) cls fields data)

/-- Every frame sent under a key is acknowledged or abandoned. -/
def keyCovered (s : State) (md dir : Nat) (k : KeySlot) : Bool :=
  let c := lineCtx s md dir
  c.report.any (fun a => !later48 k.last a) || c.loads.all (fun l => !l.epochs.contains k.epoch)

/-- RTT_REF, 0 before the first sample. -/
def rttRef (c : LineCtx) : Nat := c.ref.getD 0

/-- A RETIRING key may be erased. -/
def mayRetire (s : State) (md dir slot : Nat) : Bool :=
  let k := keySlot s md 0 dir slot
  k.state == 3 && keyCovered s md dir k && decide (k.since + 2 * rttRef (lineCtx s md dir) + 125 ≤ s.tick.now)

/-- KEY_RETIREMENT: the key is erased and the far Mirder told; with none to retire, the messages not yet acknowledged are
sent again. -/
def keyRetirementOp (s : State) (md dir : Nat) : State :=
  match (List.range 2).find? (mayRetire s md dir) with
  | some slot =>
    let e := (keySlot s md 0 dir slot).epoch
    let s1 := event (putKey s md 0 dir slot {}) pgLCIPH 1
    lineMessage { s1 with ciph := { s1.ciph with retiring := s1.ciph.retiring ++ [(md, dir, slot, e)] } } .keyRetire md dir 2 [dir, slot, e] []
  | none =>
    (s.ciph.retiring.filter (fun r => r.1 == md && r.2.1 == dir)).foldl
      (fun a r => lineMessage a .keyRetire md dir 2 [dir, r.2.2.1, r.2.2.2] []) s

/-- KEY_RETIRE arrives: Mirder writes RETIRE for its receive slot, and acknowledges. A repeat that names another epoch is
only acknowledged. -/
def keyRetireOp (s : State) (md dir slot epoch : Nat) : State :=
  let k := keySlot s md 1 dir slot
  let ack (a : State) : State := lineMessage a .keyRetireAck md dir 2 [dir, slot, epoch] []
  if k.state ≠ 0 ∧ k.epoch = epoch then
    if flag s R.LCIPH_RES 0 then s else ack (lciphCmd s 3 (3 + md * 8 + 16 + dir * 32 + slot * 128))
  else ack s

/-- Its acknowledgement arrives. -/
def keyRetireAckOp (s : State) (md dir slot epoch : Nat) : State :=
  { s with ciph := { s.ciph with retiring := s.ciph.retiring.erase (md, dir, slot, epoch) } }

end Sys2Proof.Machine
end

