-- ==== Sys2Proof/Machine/LineTx.lean ====
section
/-!
DEFINITION. What a module sends: pennants and trailers (R238 to R242), privileged blocks (R260 to R265), bulk loads and
their repeats (R267 to R275), seals (R285, R286, R291) and signal channels (R251 to R254).
-/
namespace Sys2Proof.Machine

/-- No frame is sent in the blank of a transmit steer (R314), without light, or on fewer than three lanes at either end, where the direction
is in defect (R279). -/
def mayTransmit (s : State) (md : Nat) : Bool :=
  let blank := match txStart s md with
    | some (t, _) => s.tick.now == t && decide (8 * (lineMod s md).pos ≤ 7 * lineFrames s md)
    | none => false
  inRun s (pgLFRM md) && moduleLit s md && decide (3 ≤ activeLanes s md false) && decide (3 ≤ (lineMod s md).far) && !blank

/-- The delivery block serves privileged slots: in RUN, and until OFF under DRAIN (R283). -/
def privServed (s : State) : Bool := let b := blkState s pgLDLV; b == bRUN || b == bDRAINING || b == bDRAINED

/-! ### Privileged slots -/

/-- Receive lanes of the far end in force at tick n: the latest of those announced (R280). -/
def farLanes (m : LineMod) (n : Nat) : Nat := ((m.farNext.filter (fun e => decide (e.1 ≤ n))).foldl (fun b e => if b.1 ≤ e.1 then e else b) (0, m.far)).2

/-- The block that begins now is void (R265): sent in the ticks after a transmit steer or in the gap of a change of rate (R280), or not
whole before the next of them. -/
def blockVoid (s : State) (md : Nat) : Bool :=
  let o := ocuMod s md
  let m := lineMod s md
  let n := s.tick.now
  let crosses := decide (lineFrames s md ≤ m.pos + 7)
  (match txStart s md with | some (t, w) => decide (n < t + steerJ w) | none => false)
    || decide (n < m.gapTo)
    || (match o.txq with | e :: _ => e.tick == n + 1 && crosses | [] => false)
    || (crosses && min (activeLanes s md false) (farLanes m (n + 1)) != m.lanes)
    || !privServed s

/-- A frame leaves its queue to be carried in line frames: its coded blocks stay counted until they are acknowledged (R141). -/
def leaveForLine (s : State) (f : Frame) (q : PortSched) : State :=
  leaveQueue { s with sw := { s.sw with frames := s.sw.frames.map (fun g => if g = f then { g with blocks := [] } else g) } } { f with blocks := [] } q

/-- The transfer frame to put next into privileged slots (R199, R263, R264), and whether it goes once more: C0, then those to be sent again,
then C1, C2, and C3 within P; only C0 and C2 while the direction is keyless on transmit (R293). -/
def nextPriv (s : State) (md : Nat) : Option (PrivFrame × Bool × State) :=
  let p := linePort md
  let send (r : Frame × PortSched) : PrivFrame × Bool × State :=
    ({ bytes := r.1.hdr ++ sentPayload s r.1, blocks := r.1.blocks }, false, leaveForLine s r.1 r.2)
  let all (_ : Frame) : Bool := true
  if keylessTx s md (ocuMod s md).txDir then (pickStrict s p all [0, 2]).map send
  else match pickStrict s p all [0] with
    | some r => some (send r)
    | none =>
      let m := lineMod s md
      match m.again with
      | x :: t => some (x, true, bump (putLine s md { m with again := t }) (keyB R.LDLV_PRIV_RESENT md))
      | [] =>
        match pickStrict s p all [1, 2] with
        | some r => some (send r)
        | none => (pickFlow s p 3 (fun f => decide ((schedOf s p).priv + chargedLen s f ≤ linePriv s md))).map send

/-- Zeros up to a multiple of 64. -/
def pad64 (l : List Byte) : List Byte := l ++ List.replicate ((64 - l.length % 64) % 64) 0

/-- A transfer frame of C1 or C3 in progress waits for a key with the others of its class (R293). DESIGN CHOICE (237): it is cut off, and
goes again whole. -/
def cutPriv (s : State) (md : Nat) : State :=
  let m := lineMod s md
  let k := (parseXhdr m.cur.bytes).cls
  if m.priv.isEmpty || !keylessTx s md (ocuMod s md).txDir || k == 0 || k == 2 then s
  else putLine s md { m with priv := [], cur := {}, resent := false, again := m.cur :: m.again,
                             block := { m.block with frames := m.block.frames.filter (· != m.cur) } }

/-- The transfer frame in progress has ended in the frame with sequence q: its coded blocks wait for the report on it (R141). -/
def endsPriv (s : State) (md q : Nat) : State :=
  let m := lineMod s md
  if m.priv.isEmpty && !m.cur.blocks.isEmpty then
    putLine s md { m with cur := {}, coded := m.coded ++ [((ocuMod s md).txDir, q, m.cur.blocks)] }
  else s

/-- Fill n data slots of the frame with sequence q: their bytes, and the transfer frames begun in them that may be sent once more. -/
def fillPriv (md q : Nat) : Nat → State → List Byte × List PrivFrame × State
  | 0, s => ([], [], s)
  | n + 1, s0 =>
    let s := cutPriv s0 md
    let m := lineMod s md
    if !m.priv.isEmpty then
      let (b, l, s1) := fillPriv md q n (endsPriv (putLine s md { m with priv := m.priv.drop 64 }) md q)
      (m.priv.take 64 ++ b, l, s1)
    else
      let s := markHeld s (linePort md)
      match nextPriv s md with
      | none => (List.replicate (64 * (n + 1)) 0, [], s)
      | some (x, again, s1) =>
        let y := pad64 x.bytes
        let (b, l, s2) := fillPriv md q n (endsPriv (putLine s1 md { lineMod s1 md with priv := y.drop 64, cur := x, resent := again }) md q)
        (y.take 64 ++ b, if again then l else x :: l, s2)

/-- The symbol at byte position b of slots of 64 bytes. -/
def slotColumn (slots : List (List Byte)) (b : Nat) : List Nat := slots.map (fun x => (nthD 0 x b).toNat)

/-- The parity slots of a block's data (R261): 2s slots of 64 bytes. -/
def paritySlots (sl : Nat) (data : List (List Byte)) : List (List Byte) :=
  let slots := piecesOf 64 data.flatten
  let cols := (List.range 64).map (fun b => rsParity (2 * sl) (slotColumn slots b))
  (List.range (2 * sl)).map (fun p => cols.map (fun c => BitVec.ofNat 8 (nthD 0 c p)))

/-- The privileged slots of the frame with sequence q. -/
def privBytes (s : State) (md q : Nat) : List Byte × State :=
  let sl := lineSlots s md
  let i := q % 8
  let dir := (ocuMod s md).txDir
  let s0 := if i = 0 then
      let m := lineMod s md
      let v := blockVoid s md
      let b : TxBlock := { base := q, dir := dir, void := v, frozen := ctxFrozen s md dir, frames := if v || m.priv.isEmpty || m.resent then [] else [m.cur] }
      putLine s md { m with block := b }
    else if privServed s then s
    else let m := lineMod s md; putLine s md { m with block := { m.block with void := true } }
  let m := lineMod s0 md
  if m.block.void then (List.replicate (64 * sl) 0, s0)
  else if i < 6 then
    let (bytes, began, s1) := fillPriv md q sl s0
    let m1 := lineMod s1 md
    let b := { m1.block with data := m1.block.data ++ [bytes], frames := m1.block.frames ++ began }
    (bytes, putLine s1 md { m1 with block := b, blocks := if i = 5 then m1.blocks ++ [{ b with data := [] }] else m1.blocks })
  else
    (((paritySlots sl m.block.data).drop (sl * (i - 6))).take sl |>.flatten, s0)

/-! ### Bulk loads -/

/-- Bytes of a load (R267). -/
def loadLen (s : State) (md : Nat) : Nat := 64 * (155 - lineSlots s md)

/-- Z of R275, in bytes. -/
def storeBytes (s : State) (md : Nat) : Nat := fld s (keyB R.LDLV_STORE_GIB md) 6 0 * 0x40000000

/-- The base of a module's store region. -/
def storeBase (s : State) (md : Nat) : Nat := reg64 s (keyB R.LDLV_STORE_BASE_LO md) (keyB R.LDLV_STORE_BASE_HI md)

/-- The store lies whole in a RETX region. -/
def storeThere (s : State) (md : Nat) : Bool :=
  match regionOf (regionsNow s) (storeBase s md) with
  | some (_, r) => r.kind == 4 && decide (storeBase s md + storeBytes s md ≤ r.lbase + r.len)
  | none => false

/-- Entries of a module's store. -/
def storeEntries (s : State) (md : Nat) : Nat := if storeThere s md then storeBytes s md / 20480 else 0

/-- The window W (R275). -/
def lineWindow (s : State) (md : Nat) : Nat :=
  let w := fld s (keyB R.LDLV_WIN md) 21 0
  if w = 0 then storeEntries s md else min w (storeEntries s md)

/-- The address of a store entry. -/
def entryAddr (s : State) (md e : Nat) : Nat := storeBase s md + md * (storeBytes s md / 2) + 10240 * e

/-- Write bytes piece by piece, since an entry may cross a slice boundary (R275). -/
def writePieces (s : State) (a : Nat) (bs : List Byte) : State :=
  (piecesOf 64 bs).zipIdx.foldl (fun t p => hwWriteAs 4 t (a + 64 * p.2) p.1) s

/-- Read pieces back: none when one cannot be read. -/
def readPieces (s : State) (a n : Nat) : Option (List Byte) × State :=
  (List.range ((n + 63) / 64)).foldl (fun r i =>
    let (x, t) := hwRead r.2 (a + 64 * i) (min 64 (n - 64 * i))
    (match r.1, x with | some l, some y => some (l ++ y) | _, _ => none, t)) (some [], s)

/-- The smallest free store entry of a module. -/
def freeEntry (s : State) (md : Nat) : Option Nat :=
  let used := ((lineMod s md).ctxs.flatMap (fun c => c.loads.map (fun l => l.entry)))
  let e := ((List.range (used.length + 1)).find? (fun i => !used.contains i)).getD 0
  if e < storeEntries s md then some e else none

/-- RTO (R272). -/
def rto (s : State) (md dir : Nat) : Nat := rttRef (lineCtx s md dir) + fld s (keyB R.LDLV_RTO_MARGIN md) 11 0

/-- What is packed into a load: its bytes, FIRST, the coded blocks that end in it, the coded transfers it carries bytes of. -/
structure Packed where
  bytes : List Byte := []
  first : Nat := 0xFFFF
  blocks : List (Nat × Nat) := []
  xfers : List Nat := []
  deriving DecidableEq, Repr

/-- Pack transfer frames into a load. -/
def packLoad (md dir size : Nat) : Nat → Packed → State → Packed × State
  | 0, a, s => (a, s)
  | n + 1, a, s =>
    let c := lineCtx s md dir
    let room := size - a.bytes.length
    if room = 0 then (a, s)
    else if !c.rest.isEmpty then
      let out := c.rest.take room
      let left := c.rest.drop room
      packLoad md dir size n
        { a with bytes := a.bytes ++ out, blocks := if left.isEmpty then a.blocks ++ c.restBlocks else a.blocks,
                 xfers := c.restXfer.toList.foldl insNat a.xfers }
        (putCtx s md dir { c with rest := left, restBlocks := if left.isEmpty then [] else c.restBlocks })
    else
      let s := markHeld s (linePort md)
      match pickWeighted s (linePort md) (fun _ => true) [4, 5, 6, 7] with
      | none => (a, s)
      | some (f, q) =>
        let x := f.hdr ++ sentPayload s f
        let s1 := leaveForLine s f q
        packLoad md dir size n { a with first := if a.first = 0xFFFF then a.bytes.length else a.first }
          (putCtx s1 md dir { lineCtx s1 md dir with rest := x, restBlocks := f.blocks,
                                                     restXfer := if bitOf (parseXhdr f.hdr).flags 0 then some f.xfer else none })

/-- A load is settled, or abandoned: its coded blocks leave their counts (R141). -/
def dropLoad (s : State) (md dir : Nat) (l : LineLoad) : State :=
  let c := lineCtx s md dir
  countOut (putCtx s md dir { c with loads := c.loads.filter (fun x => x.num != l.num) }) l.blocks

/-- Abandon a load (R274): the coded tiles it carries bytes of, and that have frames still queued, age out (R153). -/
def abandonLoad (md dir : Nat) (s : State) (l : LineLoad) : State :=
  let s0 := l.xfers.foldl (fun a x => match a.sw.frames.find? (fun f => f.xfer == x) with | some f => ageXfer a f | none => a) (dropLoad s md dir l)
  let s1 := pmCount (bump s0 (keyB R.LDLV_ABAND md)) md 4 1
  raise (event s1 pgLDLV 2) pgLDLV fLINE_ABANDON (md + 8 * dir) l.num

/-- What a frame's bulk slots carry: the load's number, FIRST and bytes. -/
structure BulkOut where
  num : Nat
  first : Nat
  bytes : List Byte
  deriving DecidableEq, Repr

/-- Repeat the first load that is due; those sent as often as they may be, or that the store cannot give, are abandoned. -/
def repeatLoad (md dir q epoch : Nat) : Nat → State → Option BulkOut × State
  | 0, s => (none, s)
  | n + 1, s =>
    let c := lineCtx s md dir
    match c.loads.find? (fun l => l.due != 0) with
    | none => (none, s)
    | some l =>
      if fld s (keyB R.LDLV_MAX_TX md) 3 0 ≤ l.seqs.length then repeatLoad md dir q epoch n (abandonLoad md dir s l)
      else match readPieces s (entryAddr s md l.entry) (loadLen s md) with
        | (none, s1) => repeatLoad md dir q epoch n (abandonLoad md dir s1 l)
        | (some b, s1) =>
          let c1 := lineCtx s1 md dir
          let l1 := { l with seqs := q :: l.seqs, epochs := insNat l.epochs epoch, expiry := s1.tick.now + rto s1 md dir, due := 0 }
          let s2 := putCtx s1 md dir { c1 with loads := c1.loads.map (fun x => if x.num = l.num then l1 else x) }
          let s3 := bump s2 (keyB (if l.due = 1 then R.LDLV_RETX_GAP else R.LDLV_RETX_TMO) md)
          (some ⟨l.num, l.first, b⟩, pmCount s3 md 3 1)

/-- Make a new load, when the window and the store allow one and there is something to carry. -/
def newLoad (s : State) (md dir q epoch : Nat) : Option BulkOut × State :=
  let c := lineCtx s md dir
  if lineWindow s md ≤ c.loads.length then (none, s)
  else match freeEntry s md with
    | none => (none, s)
    | some e =>
      let size := loadLen s md
      let (a, s1) := packLoad md dir size (size + 1) {} s
      if a.bytes.isEmpty then (none, s1)
      else
        let bytes := a.bytes ++ List.replicate (size - a.bytes.length) 0
        let s2 := writePieces s1 (entryAddr s1 md e) bytes
        let c2 := lineCtx s2 md dir
        let l : LineLoad := { num := c2.next, entry := e, first := a.first, seqs := [q], epochs := [epoch], start := s2.tick.now,
                              expiry := s2.tick.now + rto s2 md dir, blocks := a.blocks, xfers := a.xfers }
        (some ⟨c2.next, a.first, bytes⟩, putCtx s2 md dir { c2 with next := (c2.next + 1) % seq48, loads := c2.loads ++ [l] })

/-- The load of the frame with sequence q: repeats before new loads; none while the context is frozen or the module steers
(R271, R273, R283, R314). -/
def bulkOut (s : State) (md q epoch : Nat) : Option BulkOut × State :=
  let dir := (ocuMod s md).txDir
  let b := blkState s pgLDLV
  if ctxFrozen s md dir || moduleSteering s md || !(b == bRUN || b == bDRAINING) then (none, s)
  else match repeatLoad md dir q epoch ((lineCtx s md dir).loads.length + 1) s with
    | (some x, s1) => (some x, s1)
    | (none, s1) => if b == bRUN then newLoad s1 md dir q epoch else (none, s1)

/-! ### The frame -/

/-- LOW (R268). -/
def ctxLow (c : LineCtx) : Nat := match c.loads with | l :: _ => l.num | [] => c.next

/-- ACK_BITS (R268): bit i, from bit 7 of the first byte on, for frame ACK_TOP − 1 − i. -/
def ackBits (c : LineCtx) (top : Nat) : List Byte :=
  (List.range 10).map (fun b => BitVec.ofNat 8 ((List.range 8).foldl (fun a j =>
    a * 2 + ofBool (c.log.any (fun e => e.2 && e.1 == (top + seq48 - 1 - (8 * b + j)) % seq48))) 0))

/-- The ACK_MAP of a SEALED frame (R268). -/
def ackMap (s : State) (md dir : Nat) (load : Option BulkOut) : List Byte :=
  let c := lineCtx s md dir
  let ones : Nat := seq48 - 1
  let top := if lineDefect s md then none else c.top
  let (num, first) := match load with | some l => (l.num, l.first) | none => (ones, 0xFFFF)
  bytesBE 6 num ++ bytesBE 6 (ctxLow c) ++ bytesBE 6 c.n
    ++ (match top with
        | some (q, stamp, tick) => bytesBE 6 q ++ bytesBE 2 stamp ++ bytesBE 2 (s.tick.now - tick)
        | none => bytesBE 6 ones ++ [0, 0, 0, 0])
    ++ bytesBE 2 first ++ (match top with | some (q, _, _) => ackBits c q | none => List.replicate 10 0)

/-- A pennant (R239, R240). -/
def pennantBytes (clear : Bool) (site chan slot : Nat) (rdi : Bool) (seq tick : Nat) : List Byte :=
  let b := bytesBE 1 (1 + ofBool clear * 16) ++ bytesBE 1 site ++ bytesBE 1 chan ++ bytesBE 1 (slot + ofBool rdi * 2) ++ bytesBE 6 seq
    ++ bytesBE 2 (tick % 65536)
  b ++ bytesBE 4 (crc32c b)

/-- The nonce (R286). -/
def lineIv (site chan epoch seq : Nat) : List Byte := bytesBE 1 site ++ bytesBE 1 chan ++ bytesBE 4 epoch ++ bytesBE 6 seq

/-- The trailer's checked part and TCRC. -/
def trailerBytes (tag ack : List Byte) (sc : Byte) : List Byte :=
  let b := tag ++ ack ++ [sc, 0, 0, 0]
  b ++ bytesBE 4 (crc32c b)

/-- The channel whose byte a sequence carries: 0 SC-A, 1 SC-B (R251). -/
def scChannel (q : Nat) : Option Nat := if q % 8 = 0 then some 0 else if q % 32 = 4 then some 1 else none

/-- A channel is enabled (R254). -/
def scEnabled (s : State) (md ch : Nat) : Bool := flag s (lf R.LFRM_SC_CFG md) ch

/-- Mark on a serial port, counted (R253). -/
def scMark (s : State) (md ch : Nat) : State := emit (bump s (lf R.LFRM_SC_MARK md)) (.signal (2 * md + ch) 0xFF)

/-- What the serial ports send at a frame position of the local transmitter where no received byte is available (R253). -/
def idleSc (s : State) (md n : Nat) : State :=
  match scChannel n with
  | some ch => if scEnabled s md ch && (lineDefect s md || (lineMod s md).delin != 2) then scMark s md ch else s
  | none => s

/-- LINE_FRAME_TX: one frame position of the local transmitter; `sc` is the byte clocked in for its channel. -/
def lineTx (s : State) (md : Nat) (sc : Byte) : State :=
  let can := mayTransmit s md
  let m0 := lineMod s md
  if !can then idleSc (putLine s md { m0 with pos := m0.pos + 1 }) md (s.tick.now * lineFrames s md + m0.pos)
  else
    let q := m0.seq
    let s0 := takeSwitch s md q
    let dir := (ocuMod s0 md).txDir
    let site := fld s0 (lf R.LFRM_TX_ID md) 7 0
    let chan := if q % 8 = 0 then fld s0 (lf R.LFRM_TX_ID md) 15 8 else m0.chan
    let rdi := lineDefect s0 md
    let (priv, s1) := privBytes s0 md q
    let out := match scChannel q with
      | some ch => if scEnabled s1 md ch then sc else 0
      | none => 0
    let (bytes, s2) := match currentKey s1 md dir with
      | none =>
        let body := priv ++ List.replicate (loadLen s1 md) 0
        let pen := pennantBytes true site chan 0 rdi q s1.tick.now
        (pen ++ body ++ trailerBytes (List.replicate 16 0) (List.replicate 40 0) out, s1)
      | some slot =>
        let k := keySlot s1 md 0 dir slot
        let (load, a) := bulkOut s1 md q k.epoch
        let ack := ackMap a md dir load
        let body := priv ++ (match load with | some l => l.bytes | none => List.replicate (loadLen a md) 0)
        let pen := pennantBytes false site chan slot rdi q a.tick.now
        let (ct, tag) := gcmSeal k.key (lineIv site chan k.epoch q) (pen ++ ack) body
        (pen ++ ct ++ trailerBytes tag ack out, countSealed a md dir slot q)
    let m := lineMod s2 md
    idleSc (emit (putLine s2 md { m with seq := (q + 1) % seq48, chan := chan, pos := m.pos + 1 }) (.line md bytes)) md q

/-! ### Timers (R272, R274) -/

/-- RTO_EXPIRE: timers that have run out; a transmission the far end has not reached is armed again, another is repeated. -/
def rtoExpireOp (s : State) (md dir : Nat) : State :=
  if ctxFrozen s md dir then s
  else
    let c := lineCtx s md dir
    let r := rto s md dir
    let n := s.tick.now
    let judge (l : LineLoad) : LineLoad :=
      if l.due = 0 ∧ l.expiry ≤ n then
        let q := nthD 0 l.seqs 0
        if c.report.any (fun a => !later48 q a) then { l with due := 2 } else { l with expiry := n + r }
      else l
    putCtx s md dir { c with loads := c.loads.map judge }

/-- LOAD_ABANDON: loads unsettled for LDLV_ABANDON ticks. -/
def loadAbandonOp (s : State) (md dir : Nat) : State :=
  let lim := fld s (keyB R.LDLV_ABANDON md) 23 0
  ((lineCtx s md dir).loads.filter (fun l => decide (l.start + lim ≤ s.tick.now))).foldl (abandonLoad md dir) s

/-- When a freeze ends, and at a path step, every unsettled transmission is armed anew (R273, R278). -/
def rearm (s : State) (md dir : Nat) : State :=
  let c := lineCtx s md dir
  let e := s.tick.now + rto s md dir
  putCtx s md dir { c with loads := c.loads.map (fun l => { l with expiry := e }) }

end Sys2Proof.Machine
end

