-- ==== Sys2Proof/Machine/Ptp.lean ====
section
/-!
DEFINITION. Mirder's boundary clock (R355 to R365): message formats are those of IEEE 1588-2019, which R356 names. Times are
in units of 2^-32 ns.
-/
namespace Sys2Proof.Machine

/-- The page of time. -/
abbrev pgTIME : Nat := 0x78

/-- A PTP port's data. -/
def ptpPort (s : State) (p : Nat) : PtpPort := mapGet {} s.time.ports p

/-- Update it. -/
def putPtp (s : State) (p : Nat) (x : PtpPort) : State := { s with time := { s.time with ports := mapPut s.time.ports p x } }

/-- portState codes of IEEE 1588: FAULTY 2, LISTENING 4, MASTER 6, PASSIVE 7, SLAVE 9. -/
def ptpState (s : State) (p : Nat) : Nat := fld s (keyB R.TIME_PORT_STAT p) 3 0

/-- Move a port. -/
def setPtp (s : State) (p st : Nat) : State := setFld s (keyB R.TIME_PORT_STAT p) 3 0 st

/-- TIME_STAT.SLAVE. -/
def slavePort (s : State) : Nat := fld s R.TIME_STAT 11 8

/-- The port of a line module and direction. -/
def linePtp (md dir : Nat) : Nat := 4 + 4 * md + dir

/-- A line port's module faces its direction on a side; fabric ports always do (R357). -/
def ptpFaces (s : State) (p : Nat) (rx : Bool) : Bool :=
  if p < 4 then true
  else let o := ocuMod s ((p - 4) / 4); (if rx then o.rxDir else o.txDir) == (p - 4) % 4

/-- Picoseconds in time units. -/
def psUnits (ps : Int) : Int := ps * 4294967296 / 1000

/-- A stamp taken now, with the correction in force (R359); `rx` says which. -/
def stampNow (s : State) (p : Nat) (rx : Bool) : Int :=
  (s.tick.counter : Int) + mapGet 0 s.time.tsc (p * 2 + ofBool rx)

/-- Corrections written take effect at the boundary (R359). -/
def tscBoundary (s : State) : State :=
  let put (l : List (Nat × Int)) (p : Nat) : List (Nat × Int) :=
    mapSet 0 (mapSet 0 l (p * 2) (psUnits (signedOf 32 (regN s (keyB R.TIME_TSC_TX p))))) (p * 2 + 1) (psUnits (signedOf 32 (regN s (keyB R.TIME_TSC_RX p))))
  { s with time := { s.time with tsc := (List.range 12).foldl put s.time.tsc } }

/-- A stamp on H1's ports in a tick with TICK_SKEW is discarded (R360). -/
def stampLost (s : State) (p : Nat) : Bool := s.time.skewTick && (p == 2 || p == 3 || decide (8 ≤ p))

/-! ### Lock and holdover -/

/-- While LOCKED is 0, Mirder sets WIDE (R365). -/
def setWide (s : State) : State := (List.range 2).foldl (fun a md => setFlag a (keyB R.OCU_STEER_CFG md) 0 true) s

/-- LOCKED changes (R361). -/
def setLocked (s : State) (v : Bool) : State :=
  if timeLocked s = v then s
  else
    let s1 := event (setFlag (setFlag s R.TIME_STAT 0 v) R.TICK_STAT 0 v) pgTIME 3
    if v then s1
    else setWide (raise s1 pgTIME fTIME_UNLOCK 0 (unsignedOf 48 (signedOf 32 (regN s R.TIME_OFFSET))))

/-- Enter holdover (R362): its time counts from now. -/
def enterHoldover (s : State) : State :=
  let s1 := event (bump (setFlag s R.TIME_STAT 1 true) R.TIME_HOLDOVERS) pgTIME 2
  { s1 with time := { s1.time with holdFrom := some s.tick.now, exchanges := 0 } }

/-- Leave holdover when it may end (R362). -/
def tryEndHoldover (s : State) : State :=
  if flag s R.TIME_STAT 1 ∧ s.time.freezeTo = none ∧ slavePort s ≠ 15 ∧ 16 ≤ s.time.exchanges then
    let s1 := setFlag s R.TIME_STAT 1 false
    { s1 with time := { s1.time with holdFrom := none } }
  else s

/-- Discard a port's path-delay estimate. -/
def dropDelay (s : State) (p : Nat) : State :=
  putPtp (setFlag s (keyB R.TIME_PATH_DELAY p) 31 false) p { ptpPort s p with req := none }

/-- PATH_STEP on a line port's path (R362). -/
def ptpPathStep (s : State) (p : Nat) : State :=
  let s1 := dropDelay s p
  if slavePort s = p then
    let s2 := enterHoldover s1
    { s2 with time := { s2.time with freezeTo := some (s.tick.now + 3750000) } }
  else s1

/-! ### Best master (R356) -/

/-- Lexical order of two data sets. -/
def dsLess : List Nat → List Nat → Bool
  | x :: a, y :: b => if x < y then true else if y < x then false else dsLess a b
  | [], _ :: _ => true
  | _, [] => false

/-- A port's announce still counts: received within three announce intervals of 1 s. -/
def announceLives (s : State) (p : Nat) : Bool :=
  (ptpPort s p).announce.isSome && decide (s.tick.now < (ptpPort s p).lastAnnounce + 375000)

/-- A port may be SLAVE: it is neither FAULTY nor a line port whose direction the module does not receive from (R357). -/
def maySlave (s : State) (p : Nat) : Bool := announceLives s p && ptpState s p != 2 && ptpFaces s p true

/-- The port of the best master: by data set, then by port. -/
def bestPort (s : State) : Option Nat :=
  ((List.range 12).filter (maySlave s)).foldl (fun b p =>
    match b with
    | none => some p
    | some q => if dsLess ((ptpPort s p).announce.getD []) ((ptpPort s q).announce.getD []) then some p else some q) none

/-- The state decision of every port. FAULTY ports stay so. -/
def portStates (s : State) (best : Option Nat) (gm : Bool) : State :=
  (List.range 12).foldl (fun a p =>
    if ptpState s p = 2 then a
    else setPtp a p (match best with
      | none => if gm then 6 else 4
      | some q =>
        if p = q then 9
        else if announceLives s p && nthD 0 ((ptpPort s p).announce.getD []) 5 == nthD 0 ((ptpPort s q).announce.getD []) 5 then 7 else 6)) s

/-- Run the best-master choice. A SLAVE port lost makes holdover begin. -/
def runBmca (s : State) : State :=
  let best := bestPort s
  let gm := best.isNone && flag s R.TIME_PTP_CFG 7
  let old := slavePort s
  let new := best.getD 15
  let s1 := setFlag (setFld (portStates s best gm) R.TIME_STAT 11 8 new) R.TIME_STAT 2 gm
  if new = old then s1
  else
    let s2 := { s1 with time := { s1.time with exchanges := 0, inBand := 0 } }
    if old ≠ 15 ∧ !maySlave s old then enterHoldover s2 else s2

/-- A line port delivers fill to the C0 intake (R360): FAULTY at once; holdover when it is the SLAVE port. -/
def ptpFault (s : State) (p : Nat) : State :=
  if ptpState s p = 2 ∨ ptpState s p = 0 then s
  else
    let s1 := setPtp s p 2
    if slavePort s = p then runBmca s1 else s1

/-- The first SYNC after the defect: LISTENING again (R360). -/
def ptpListen (s : State) (p : Nat) : State := if ptpState s p = 2 then setPtp s p 4 else s

/-- A line module's receive side is steered: a SLAVE port steered away gives its place up (R357, R369). -/
def ptpSteered (s : State) (md : Nat) : State :=
  let p := slavePort s
  if p ≠ 15 ∧ 4 ≤ p ∧ (p - 4) / 4 = md ∧ !ptpFaces s p true then runBmca s else s

/-! ### The servo -/

/-- A new frequency estimate: a free value within 190 ppm of nominal, so that every increment of a slew stays within the
200 ppm of R353. -/
def newFreq (s : State) : State :=
  let (r, s1) := drawFree s
  { s1 with time := { s1.time with freq := 6135667566 - 1165776 + r % 2331553 } }

/-- Slew (R355): the increment is a free choice within 10 ppm of the frequency estimate; none in holdover. -/
def slew (s : State) (offset : Int) : State :=
  if flag s R.TIME_STAT 1 then s
  else
    let s0 := newFreq s
    if offset = 0 then
      setN (setN { s0 with tick := { s0.tick with incr := s0.time.freq } } R.TIME_INCR_FRAC s0.time.freq) R.TIME_INCR_NS (s0.time.freq / 0x100000000)
    else
      let (r, s1) := drawFree s0
      let v := s0.time.freq - 61356 + r % 122713
      setN (setN { s1 with tick := { s1.tick with incr := v } } R.TIME_INCR_FRAC v) R.TIME_INCR_NS (v / 0x100000000)

/-- Nanoseconds of a time difference, toward zero, saturating at 32 bits. -/
def nsOfDiff (d : Int) : Int := max (-2147483648) (min 2147483647 (Int.tdiv d 4294967296))

/-- A new offset estimate (R361). -/
def newOffset (s : State) (d : Int) : State :=
  let ns := nsOfDiff d
  let s1 := setN s R.TIME_OFFSET (unsignedOf 32 ns)
  let inB := decide (-250 ≤ ns) && decide (ns ≤ 250)
  let n := if inB then s.time.inBand + 1 else 0
  let s2 := { s1 with time := { s1.time with inBand := n } }
  let s3 := if !timeLocked s2 && decide (16 ≤ n) then setLocked s2 true
    else if timeLocked s2 && (decide (ns < -1000) || decide (1000 < ns)) then setLocked s2 false else s2
  slew s3 d

/-- The path delay of a port in time units, when VALID. -/
def delayOf (s : State) (p : Nat) : Option Int :=
  if flag s (keyB R.TIME_PATH_DELAY p) 31 then some ((fld s (keyB R.TIME_PATH_DELAY p) 30 0 : Nat) * 4294967296) else none

/-- A Sync has its origin time: an offset estimate on the SLAVE port outside holdover. -/
def syncDone (s : State) (p : Nat) (t1 t2 : Int) : State :=
  let s1 := putPtp s p { ptpPort s p with sync := none, t1t2 := some (t1, t2) }
  if slavePort s = p ∧ !flag s R.TIME_STAT 1 then
    match delayOf s1 p with
    | some d => newOffset s1 (t2 - t1 - d)
    | none => s1
  else s1

/-- A delay exchange completes: the mean path delay of the port (R364), and one more exchange with the master. -/
def delayDone (s : State) (p : Nat) (t3 t4 : Int) : State :=
  let x := ptpPort s p
  let s1 := putPtp s p { x with req := none }
  match x.t1t2 with
  | none => s1
  | some (t1, t2) =>
    let d := Int.ediv ((t2 - t1) + (t4 - t3)) 2
    let ns := Int.toNat (max 0 (nsOfDiff d))
    let s2 := setN s1 (keyB R.TIME_PATH_DELAY p) (ns % 2147483648 + 2147483648)
    if slavePort s = p ∧ s.time.freezeTo = none then
      tryEndHoldover { s2 with time := { s2.time with exchanges := s2.time.exchanges + 1 } }
    else s2

/-- A PTP time: 6 bytes of seconds, 4 of nanoseconds. -/
def ptpTime (b : List Byte) (off : Nat) : Int := ((beAt b off 6 * 1000000000 + beAt b (off + 6) 4 : Nat) : Int) * 4294967296

/-- The correction field. -/
def ptpCorr (b : List Byte) : Int := signedOf 64 (beAt b 8 8) * 65536

/-- The data set of an Announce: priority1, class, accuracy, variance, priority2, grandmaster, steps removed, sender. -/
def announceOf (b : List Byte) : List Nat :=
  [beAt b 47 1, beAt b 48 1, beAt b 49 1, beAt b 50 2, beAt b 52 1, beAt b 53 8, beAt b 61 2, beAt b 20 10]

/-- Send a PTP message: its type, sequence, and origin time. -/
def sendPtp (s : State) (p typ seq : Nat) (t : Int) (data : List Byte) : State :=
  let ns := Int.toNat (Int.ediv t 4294967296)
  emit s (.message .ptp (if p < 4 then p else 4 + (p - 4) / 4) p 0 [typ, fld s R.TIME_PTP_CFG 6 0, seq, ns / 1000000000, ns % 1000000000] data)

/-- PTP_MESSAGE: a message arrives on a port; `stamped` is false for one rebuilt from erasures (R358). -/
def ptpMessageOp (s : State) (p : Nat) (b : List Byte) (stamped : Bool) : State :=
  let typ := beAt b 0 1 % 16
  let seq := beAt b 30 2
  let acted := typ == 0 || typ == 1 || typ == 8 || typ == 9 || typ == 11
  if b.length < 34 ∨ !acted ∨ beAt b 1 1 % 16 ≠ 2 ∨ beAt b 4 1 ≠ fld s R.TIME_PTP_CFG 6 0 then bump s R.TIME_PTP_BAD
  else if typ < 8 ∧ stamped ∧ stampLost s p then bump s R.TIME_TS_DISCARD
  else
    let x := ptpPort s p
    let mine := (if typ < 8 && stamped && ptpFaces s p true then some (stampNow s p true - ptpCorr b) else none)
    if typ = 0 then
      match mine with
      | some t2 =>
        if bitOf (beAt b 6 1) 1 then putPtp s p { x with sync := some (seq, t2) } else s
      | none => s
    else if typ = 8 then
      match x.sync with
      | some (q, t2) => if q = seq then syncDone s p (ptpTime b 34 + ptpCorr b) t2 else s
      | none => s
    else if typ = 1 then
      match mine with
      | some t4 => if ptpState s p = 6 then sendPtp s p 9 seq t4 (sliceBytes b 20 10) else s
      | none => s
    else if typ = 9 then
      match x.req with
      | some (q, t3) => if q = seq then delayDone s p t3 (ptpTime b 34 - ptpCorr b) else s
      | none => s
    else
      let a := announceOf b
      let s1 := putPtp s p { x with announce := some a, lastAnnounce := s.tick.now }
      runBmca (if ptpState s1 p = 0 then setPtp s1 p 4 else s1)

/-- SYNC_INTERVAL: one of Mirder's PTP intervals on a port: kind 0 Sync with Follow_Up and 2 Announce on a MASTER port, 1
Delay_Req on any port that may measure its path (R356, R364). -/
def syncIntervalOp (s : State) (p kind : Nat) : State :=
  let x := ptpPort s p
  let st := ptpState s p
  let seq := nthD 0 x.seqs kind
  let next (a : State) (y : PtpPort) : State := putPtp a p { y with seqs := setAt 0 y.seqs kind ((seq + 1) % 65536) }
  if !ptpFaces s p false ∨ st = 2 ∨ st = 0 then s
  else if kind = 2 then (if st = 6 then next (sendPtp s p 11 seq 0 []) x else s)
  else if kind = 0 then
    if st ≠ 6 then s
    else
      let t := stampNow s p false
      let s1 := sendPtp s p 0 seq 0 []
      if stampLost s p then next (bump s1 R.TIME_TS_DISCARD) x else next (sendPtp s1 p 8 seq t []) x
  else if st = 6 ∨ (s.time.freezeTo.isSome ∧ slavePort s = p) then s
  else if stampLost s p then next (bump (sendPtp s p 1 seq 0 []) R.TIME_TS_DISCARD) x
  else next (sendPtp s p 1 seq 0 []) { x with req := some (seq, stampNow s p false) }

/-- ANNOUNCE_TIMEOUT: the SLAVE port misses announceReceiptTimeout (R362). -/
def announceTimeoutOp (s : State) : State :=
  let p := slavePort s
  if p ≠ 15 ∧ !announceLives s p then
    let s1 := putPtp s p { ptpPort s p with announce := none }
    runBmca s1
  else s

/-- HOLDOVER_END: the freeze after a path step ends, and delay exchanges begin again (R362). -/
def holdoverEndOp (s : State) : State :=
  match s.time.freezeTo with
  | some t => if t ≤ s.tick.now then { s with time := { s.time with freezeTo := none, exchanges := 0 } } else s
  | none => s

/-- HOLD_MAX_EXPIRE (R361). -/
def holdMaxOp (s : State) : State :=
  match s.time.holdFrom with
  | some t => if t + fld s R.TIME_HOLD_MAX 7 0 * 125000 < s.tick.now then setLocked s false else s
  | none => s

end Sys2Proof.Machine
end

