-- ==== Sys2Proof/Machine/LineRx.lean ====
section
/-!
DEFINITION. What a module receives: delineation (R245 to R249), the cipher's verdicts (R290, R294 to R296), privileged blocks
(R262 to R266), reports (R271), loads (R269, R270), round-trip samples (R276) and signal channels (R252, R253).
-/
namespace Sys2Proof.Machine

/-! ### Pennants -/

/-- A received pennant is well-formed (R245). -/
def pennantOk (b : List Byte) : Bool :=
  decide (16 ≤ b.length) && beAt b 12 4 == crc32c (b.take 12) && beAt b 0 1 % 16 == 1 && decide (beAt b 0 1 / 16 ≤ 1)
    && beAt b 1 1 != 0 && decide (beAt b 3 1 ≤ 3)

/-- Its sequence. -/
def pennantSeq (b : List Byte) : Nat := beAt b 4 6

/-! ### Privileged content -/

/-- The bytes of a transfer frame by its header (R184, R185). -/
def xferLen (h : XHdr) : Nat :=
  32 + (if h.typ = 2 then 0 else if h.last then h.portLen - 8192 * h.frag else min 8192 h.portLen)

/-- Deliver a privileged transfer frame, a repeat of one delivered within 1,250 ticks excepted (R264); from a CLEAR frame only
C0 and C2 (R294). -/
def deliverPriv (s : State) (md : Nat) (clear : Bool) (b : List Byte) : State :=
  let h := parseXhdr b
  let m := lineMod s md
  let now := s.tick.now
  let seen := m.seen.filter (fun e => decide (now ≤ e.2.2.2 + 1250))
  if !inRun s pgSW || 4 ≤ h.cls || (clear && h.cls != 0 && h.cls != 2) then s
  else if seen.any (fun e => e.1 == h.src && e.2.1 == h.cls && e.2.2.1 == h.seq * 8 + h.frag) then s
  else
    let s1 := putLine s md { m with seen := seen ++ [(h.src, h.cls, h.seq * 8 + h.frag, now)] }
    takeFrame s1 (linePort md) h.colour true h (b.drop 32) b

/-- Read one data slot (R263): none is a slot neither received nor rebuilt. A header whose check is good and whose codes are refused is a
frame that R188 discards. -/
def readSlot (md : Nat) (clear : Bool) (s : State) (x : Option (List Byte)) : State :=
  let m := lineMod s md
  let go (acc : List Byte) : State :=
    let h := parseXhdr acc
    if xferLen h ≤ acc.length then deliverPriv (putLine s md { m with part := none }) md clear (acc.take (xferLen h))
    else putLine s md { m with part := some acc }
  match x, m.part with
  | none, _ => putLine s md { m with part := none }
  | some b, some acc => go (acc ++ b)
  | some b, none =>
    if b.all (· == 0) then s
    else if xhdrOk b then go b
    else if beAt b 28 4 == crc32c (b.take 28) then bump s R.SW_HDR_BAD
    else s

/-- Read a frame's privileged slots. -/
def readSlots (s : State) (md : Nat) (clear : Bool) (x : Option (List Byte)) : State :=
  match x with
  | some b => (piecesOf 64 b).foldl (fun a p => readSlot md clear a (some p)) s
  | none => (List.replicate (lineSlots s md) none).foldl (readSlot md clear) s

/-- Deliver the data frames that stand next in order, up to the first erasure (R262). -/
def deliverReady (md : Nat) : Nat → State → State
  | 0, s => s
  | n + 1, s =>
    let m := lineMod s md
    let b := m.rblock
    if b.void || b.clear || 6 ≤ b.done then s
    else match nthD none b.frames b.done with
      | some x => deliverReady md n (readSlots (putLine s md { m with rblock := { b with done := b.done + 1 } }) md false (some x))
      | none => s

/-- The columns of a block's frames, 8s symbols each, zeros where erased. -/
def blockColumns (sl : Nat) (frames : List (Option (List Byte))) : List (List Nat) :=
  let slots := frames.flatMap (fun x => match x with | some b => piecesOf 64 b | none => List.replicate sl (List.replicate 64 0))
  (List.range 64).map (slotColumn slots)

/-- Decode a block: its frames, or none when some column cannot be decoded (R262). -/
def decodePriv (sl : Nat) (frames : List (Option (List Byte))) : Option (List (List Byte)) :=
  let erased := (frames.zipIdx.filter (fun e => e.1.isNone)).flatMap (fun e => (List.range sl).map (fun j => e.2 * sl + j))
  let cols := (blockColumns sl frames).map (fun c => rsDecode (2 * sl) c erased)
  if cols.any Option.isNone then none
  else
    let words := cols.map (fun c => c.getD [])
    some ((List.range 8).map (fun i => (List.range sl).flatMap (fun j => words.map (fun c => BitVec.ofNat 8 (nthD 0 c (i * sl + j))))))

/-- A block has failed (R264). -/
def blockFails (s : State) (md : Nat) : State := event (bump s (keyB R.LDLV_PRIV_FAIL md)) pgLDLV 3

/-- Blocks in a row that fail with no erasures (R266). -/
def noteDecode (s : State) (md : Nat) (bad : Bool) : State :=
  let m := lineMod s md
  let n := if bad then m.noDecode + 1 else 0
  raiseIf (putLine s md { m with noDecode := if n = 16 then 0 else n }) (n == 16) pgLDLV fPRIV_MISMATCH md 0

/-- A block's eight positions have passed: what is missing is rebuilt, and the rest of its data delivered (R262, R264). -/
def finishBlock (s : State) (md : Nat) : State :=
  let m := lineMod s md
  let b := m.rblock
  let sl := lineSlots s md
  let s0 := putLine s md { m with rblock := { b with void := true } }
  if b.void || 8 < b.frames.length || b.frames.isEmpty then s0
  else
    let fs := b.frames ++ List.replicate (8 - b.frames.length) none
    let er := (fs.filter Option.isNone).length
    let rest (l : List (Option (List Byte))) (a : State) : State := ((l.take 6).drop b.done).foldl (fun t x => readSlots t md b.clear x) a
    let d := decodePriv sl fs
    let s1 := noteDecode s0 md (er == 0 && d.isNone)
    if 2 < er then rest (if b.clear then List.replicate 8 none else fs) (blockFails s1 md)
    else
      match d with
      | some l => rest (l.map some) (if er = 0 then s1 else bump s1 (keyB R.LDLV_PRIV_REBUILT md))
      | none => if b.clear then rest (List.replicate 8 none) (blockFails s1 md) else rest fs s1

/-- Whole blocks whose positions passed unseen, in a defect, before the block at base begins: each has failed (R262, R264), and a transfer
frame across them is lost (R263). Those in a steering gap are void (R265). -/
def missBlocks (s : State) (md base : Nat) : State :=
  let m := lineMod s md
  let b := m.rblock
  let n := if b.frames.isEmpty || m.afterGap || !later48 base b.base then 0 else beyond48 base b.base / 8 - 1
  if n = 0 then s else event (bumpBy (putLine s md { m with part := none }) (keyB R.LDLV_PRIV_FAIL md) n) pgLDLV 3

/-- A frame position passes for the privileged code: its slots, or none for an erasure. -/
def privFrame (s : State) (md seq : Nat) (clear : Bool) (x : Option (List Byte)) : State :=
  let i := seq % 8
  let base := seq - i
  let s0 := let b := (lineMod s md).rblock; if b.base ≠ base ∨ i < b.frames.length then
      let s1 := missBlocks (finishBlock s md) md base
      let m := lineMod s1 md
      putLine s1 md { m with rblock := { base := base, void := m.afterGap && i != 0 }, afterGap := false }
    else s
  let m := lineMod s0 md
  let b := m.rblock
  let b1 := { b with frames := b.frames ++ List.replicate (i - b.frames.length) none ++ [x], clear := b.clear || clear }
  let s2 := deliverReady md 8 (putLine s0 md { m with rblock := b1 })
  if i = 7 then finishBlock s2 md else s2

/-! ### Loads -/

/-- Split a stream of bulk bytes into whole transfer frames, what is left of the one in progress, and what a bad header leaves
unread; zeros at a frame's place fill the load to its end. -/
def splitBulk : Nat → List Byte → List (List Byte) → List (List Byte) × List Byte × List Byte
  | 0, b, acc => (acc, b, [])
  | n + 1, b, acc =>
    if b.isEmpty ∨ b.head? = some 0 then (acc, [], [])
    else if b.length < 32 then (acc, b, [])
    else if !xhdrOk b then (acc, [], b)
    else
      let len := xferLen (parseXhdr b)
      if b.length < len then (acc, b, []) else splitBulk n (b.drop len) (acc ++ [b.take len])

/-- Release a load to the switch core (R189, R269): none while the cells that its frames of C0 to C6 need would not stay above RSV; those
of C7 meet their own thresholds, after the others, and take none that these need. While the POOL block is not in RUN its frames wait (R177). -/
def releaseLoad (s : State) (md dir : Nat) (first : Nat) (bytes : List Byte) : Option State :=
  let c := lineCtx s md dir
  let whole := if c.skipped then (if first = 0xFFFF then [] else bytes.drop first) else c.part ++ bytes
  let (fs, part, bad) := splitBulk (whole.length + 1) whole []
  let (low, kept) := fs.partition (fun f => (parseXhdr f).cls == 7)
  let need := (kept.map (fun f => cellsOf (f.length - 32))).sum
  if !inRun s pgSW ∨ (inRun s 0x48 ∧ need ≠ 0 ∧ freeCells s (portHoist (linePort md)) < need + cellRsv s) then none
  else
    let still := c.skipped && first == 0xFFFF
    let s1 := putCtx s md dir { c with n := (c.n + 1) % seq48, part := part, skipped := still || !bad.isEmpty }
    let s2 := if bad.isEmpty then s1 else badFrame s1 (linePort md) bad
    some ((kept ++ low).foldl (fun a f => let h := parseXhdr f; takeFrame a (linePort md) h.colour false h (f.drop 32) f) s2)

/-- Forget a held load; a buffer that holds no load any more is released. -/
def dropHeld (s : State) (md dir : Nat) (h : HeldLoad) : State :=
  let c := lineCtx s md dir
  let held := c.held.filter (fun x => x.num != h.num)
  if held.any (fun x => x.handle == h.handle) then putCtx s md dir { c with held := held }
  else releaseQuiet (putCtx s md dir { c with held := held, bufs := c.bufs.filter (· != h.handle) }) h.handle

/-- The address of a held load. -/
def heldAddr (s : State) (h : HeldLoad) : Nat := bufAddr s h.handle + 10240 * h.idx

/-- Release held loads N, N + 1 and so on in turn, and skip what LOW has passed (R269, R270). -/
def advanceCtx (md dir low : Nat) : Nat → State → State
  | 0, s => s
  | n + 1, s =>
    let c := lineCtx s md dir
    match c.held.find? (fun h => h.num == c.n) with
    | some h =>
      match readPieces s (heldAddr s h) (loadLen s md) with
      | (some b, s1) =>
        match releaseLoad s1 md dir h.first b with
        | some s2 => advanceCtx md dir low n (dropHeld s2 md dir h)
        | none => s1
      | (none, s1) =>
        let c1 := lineCtx s1 md dir
        advanceCtx md dir low n (dropHeld (putCtx s1 md dir { c1 with n := (c.n + 1) % seq48, part := [], skipped := true }) md dir h)
    | none =>
      if later48 low c.n then
        let t := c.held.foldl (fun t h => if later48 t h.num && later48 h.num c.n then h.num else t) low
        advanceCtx md dir low n (putCtx s md dir { c with n := t, part := [], skipped := true })
      else s

/-- Hold a load (R270): in a buffer with room, or in one more. While the POOL block is not in RUN it waits to be held, and is not reported
as received until it is (R177). -/
def holdLoad (s : State) (md dir num first : Nat) (bytes : List Byte) : Bool × State :=
  let c := lineCtx s md dir
  let used (h : Nat) : List Nat := (c.held.filter (fun x => x.handle == h)).map (fun x => x.idx)
  let place := c.bufs.findSome? (fun h => ((List.range 100).find? (fun i => !(used h).contains i)).map (fun i => (h, i)))
  let put (a : State) (h i : Nat) : State :=
    let x : HeldLoad := { num := num, first := first, handle := h, idx := i }
    let c1 := lineCtx a md dir
    let a1 := putCtx a md dir { c1 with held := c1.held ++ [x] }
    writePieces a1 (heldAddr a1 x) bytes
  match place with
  | some (h, i) => (true, put s h i)
  | none =>
    if fld s (keyB R.LDLV_HOLD_MAX md) 11 0 ≤ c.bufs.length then (false, bump s (keyB R.LDLV_HOLD_FULL md))
    else match allocInternal s 3 (homeSeg s md) with
      | (.got h, s1) => (true, put (putCtx s1 md dir { lineCtx s1 md dir with bufs := c.bufs ++ [h] }) h 0)
      | (.empty, s1) => (false, bump s1 (keyB R.LDLV_HOLD_FULL md))
      | (.wait, s1) =>
        (false, if c.asking.any (fun x => x.1 == num) then s1 else putCtx s1 md dir { lineCtx s1 md dir with asking := c.asking ++ [(num, first, bytes)] })

/-- The loads that wait to be held, once the POOL block is in RUN again. -/
def askAgain (md : Nat) (s : State) (dir : Nat) : State :=
  let l := (lineCtx s md dir).asking
  l.foldl (fun a x =>
    let c := lineCtx a md dir
    if later48 x.1 c.n && !c.held.any (fun h => h.num == x.1) then
      (holdLoad a md dir x.1 x.2.1 x.2.2).2
    else a) (if l.isEmpty then s else putCtx s md dir { lineCtx s md dir with asking := [] })

/-- HELD_LOAD_RELEASE: release goes on where it had paused (R270). -/
def heldReleaseOp (s : State) (md dir : Nat) : State :=
  let c := lineCtx s md dir
  advanceCtx md dir c.n (c.held.length + 1) s

/-- A received load (R269): whether the frame is accepted for it. -/
def takeLoad (s : State) (md dir num low first : Nat) (bytes : List Byte) : Bool × State :=
  let s1 := advanceCtx md dir low ((lineCtx s md dir).held.length + 2) s
  if num = seq48 - 1 then (true, s1)
  else
    let c := lineCtx s1 md dir
    if c.held.any (fun h => h.num == num) then (true, bump s1 (keyB R.LDLV_DUP md))
    else if num = c.n then
      match releaseLoad s1 md dir first bytes with
      | some s2 => (true, advanceCtx md dir low ((lineCtx s2 md dir).held.length + 2) s2)
      | none => (false, bump s1 R.SW_NOCELL_LINE)
    else if later48 num c.n then holdLoad s1 md dir num first bytes
    else (true, bump s1 (keyB R.LDLV_DUP md))

/-! ### Reports (R268, R271, R276) -/

/-- What a report says of a sequence: received, not received, or nothing. -/
def reportOf (top : Nat) (bits : List Byte) (q : Nat) : Option Bool :=
  let d := beyond48 top q
  if 1 ≤ d ∧ d ≤ 80 then some (bitOf (nthD 0 (bits.map BitVec.toNat) ((d - 1) / 8)) (7 - (d - 1) % 8)) else none

/-- One load under a report: settled, or how it goes on. -/
def reportLoad (rel : Nat) (top : Option Nat) (bits : List Byte) (l : LineLoad) : Option LineLoad :=
  if later48 rel l.num then none
  else match top with
    | none => some l
    | some t =>
      if l.seqs.any (fun q => reportOf t bits q == some true) then none
      else
        let q := nthD 0 l.seqs 0
        let passed := let d := beyond48 t q; decide (81 ≤ d) && decide (d < seq48 / 2)
        if l.due = 0 ∧ (reportOf t bits q = some false ∨ passed) then some { l with due := 1 } else some l

/-- A privileged block under a report: the frames of it that are lost or passed unreported. -/
def reportBlock (dir top : Nat) (bits : List Byte) (b : TxBlock) : TxBlock :=
  if b.dir ≠ dir then b
  else
    let lost := (List.range 8).filter (fun i =>
      let q := b.base + i
      let d := beyond48 top q
      !b.lost.contains i && (reportOf top bits q == some false || (decide (81 ≤ d) && decide (d < seq48 / 2) && !b.lost.contains (i + 8))))
    let got := (List.range 8).filter (fun i => reportOf top bits (b.base + i) == some true && !b.lost.contains (i + 8))
    { b with lost := b.lost ++ lost ++ got.map (· + 8) }

/-- Blocks with three frames lost have failed: their C1 to C3 transfer frames go again (R264), and their coded blocks are in flight again. -/
def resendBlocks (s : State) (md : Nat) : State :=
  let m := lineMod s md
  let failed := m.blocks.filter (fun b => !b.settled && decide (3 ≤ (b.lost.filter (· < 8)).length))
  let again := (failed.filter (fun b => !b.frozen)).flatMap (fun b => b.frames.filter (fun f => let k := (parseXhdr f.bytes).cls; decide (1 ≤ k) && decide (k ≤ 3)))
  let left := m.blocks.filter (fun b => !failed.contains b)
  again.foldl (fun a f => countIn a f.blocks) (putLine s md { m with again := m.again ++ again, blocks := left })

/-- Coded blocks in privileged slots under a report: those of a frame that has been acknowledged leave their counts, and so do those of a
frame that is lost or passed unreported, unless they go once more (R141, R264). -/
def settleCoded (s : State) (md dir top : Nat) (bits : List Byte) : State :=
  let m := lineMod s md
  let gone (e : Nat × Nat × List (Nat × Nat)) : Bool :=
    e.1 == dir && ((reportOf top bits e.2.1).isSome || (let d := beyond48 top e.2.1; decide (81 ≤ d) && decide (d < seq48 / 2)))
  (m.coded.filter gone).foldl (fun a e => countOut a e.2.2) (putLine s md { m with coded := m.coded.filter (fun e => !gone e) })

/-- Blocks whose eight frames have all been reported, or passed, are kept no longer. -/
def oldBlocks (s : State) (md dir top : Nat) : State :=
  let m := lineMod s md
  putLine s md { m with blocks := m.blocks.filter (fun b => b.dir != dir || !(let d := beyond48 top (b.base + 7); decide (81 ≤ d) && decide (d < seq48 / 2))) }

/-- An ACK_MAP arrives on a direction (R268, R271, R276). -/
def takeReport (s : State) (md dir : Nat) (a : List Byte) : State :=
  let rel := beAt a 12 6
  let topN := beAt a 18 6
  let top := if topN = seq48 - 1 then none else some topN
  let bits := sliceBytes a 30 10
  let c := lineCtx s md dir
  let kept := c.loads.map (reportLoad rel top bits)
  let settled := (c.loads.zip kept).filterMap (fun p => if p.2.isNone then some p.1 else none)
  let s1 := putCtx s md dir { c with loads := kept.filterMap id, report := match top with | some t => some t | none => c.report }
  let s2 := settled.foldl (fun t l => countOut t l.blocks) s1
  match top with
  | none => s2
  | some t =>
    let s2 := settleCoded s2 md dir t bits
    let m := lineMod s2 md
    let s3 := oldBlocks (resendBlocks (putLine s2 md { m with blocks := m.blocks.map (reportBlock dir t bits) }) md) md dir t
    let sample := ((s3.tick.now : Int) - fullTick s3.tick.now (beAt a 24 2) - (beAt a 26 2 : Nat)).toNat
    let c3 := lineCtx s3 md dir
    putCtx s3 md dir { c3 with low := some (match c3.low with | some x => min x sample | none => sample) }

/-! ### The frame -/

/-- Count an errored block of the present second (R256). -/
def noteEb (s : State) (md : Nat) : State := pmNote s md (fun x => { x with eb := x.eb + 1 })

/-- The SC byte of a trusted position (R252, R253), mark while the receive side is in defect (R250). -/
def takeSc (s : State) (md seq : Nat) (sc : Byte) (ok : Bool) : State :=
  match scChannel seq with
  | some ch => if !scEnabled s md ch then s else if ok && !lineDefect s md then emit s (.signal (2 * md + ch) sc) else scMark s md ch
  | none => s

/-- A tag failure (R247, R296): counted, TAG_FAIL at most once a tick and module, the frame an erasure. -/
def tagFails (s : State) (md seq : Nat) : State :=
  let m := lineMod s md
  let s1 := pmCount (bump s R.LCIPH_TAG_FAIL) md 1 1
  if m.tagTick = some s.tick.now then s1
  else raise (putLine s1 md { lineMod s1 md with tagTick := some s.tick.now }) (pgLFRM md) fTAG_FAIL 0 seq

/-- Record whether the frame was accepted, for the reports to come (R268). -/
def logFrame (s : State) (md dir seq : Nat) (ok : Bool) : State :=
  let c := lineCtx s md dir
  putCtx s md dir { c with log := ((seq, ok) :: c.log).take 96 }

/-- A good pennant names another far end than LFRM_EXP (R247). -/
def idDiffers (s : State) (md : Nat) (b : List Byte) : Bool :=
  let exp := lf R.LFRM_EXP_A md + 4 * (ocuMod s md).rxDir
  flag s exp 16 && (fld s exp 7 0 != beAt b 1 1 || fld s exp 15 8 != beAt b 2 1)

/-- A frame's content after a good pennant: whether its tag failed (an errored block). -/
def takeContent (s : State) (md seq : Nat) (b : List Byte) : Bool × State :=
  let o := ocuMod s md
  let dir := o.rxDir
  let clear := beAt b 0 1 / 16 == 1
  let m := lineMod s md
  let exp := lf R.LFRM_EXP_A md + 4 * dir
  let sl := 64 * lineSlots s md
  if idDiffers s md b then
    let s1 := event (bump (putLine s md { m with clears := 0 }) (lf R.LFRM_ID_ERR md)) (pgLFRM md) 4
    let s2 := putOcu (setFlag s1 (keyB R.OCU_STATE md) 8 false) md { o with pennBad := true }
    (false, logFrame (privFrame (raise s2 (pgLFRM md) fWAVE_MISMATCH (md + 2 * dir + 16) 0) md seq clear none) md dir seq false)
  else
    let s0 := if flag s exp 16 then setFlag s (keyB R.OCU_STATE md) 8 true else s
    if clear then
      let allowed := flag s0 R.LCIPH_CLEAR_OK (4 * md + dir)
      if keylessRx s0 md dir && allowed then
        let s1 := bump (putLine s0 md { m with clears := 0 }) R.LCIPH_CLEAR_RX
        (false, logFrame (privFrame s1 md seq true (some (sliceBytes b 16 sl))) md dir seq true)
      else
        let n := if allowed && !keylessRx s0 md dir then m.clears + 1 else 0
        let s1 := tagFails (putLine s0 md { m with clears := if n = 80 then 0 else n }) md seq
        let s2 := logFrame (privFrame s1 md seq false none) md dir seq false
        (true, if n = 80 then erasePeer s2 md dir else s2)
    else
      let s1 := putLine s0 md { m with clears := 0 }
      let k := keySlot s1 md 1 dir (beAt b 3 1 % 2)
      let lost (a : State) : Bool × State := (true, logFrame (privFrame (tagFails a md seq) md seq false none) md dir seq false)
      if k.state = 0 then lost (bump s1 R.LCIPH_NOKEY)
      else
        let pen := b.take 16
        let ack := sliceBytes b 9952 40
        match gcmOpen k.key (lineIv (beAt b 1 1) (beAt b 2 1) k.epoch seq) (pen ++ ack) (sliceBytes b 16 9920) (sliceBytes b 9936 16) with
        | none => lost s1
        | some body =>
          let c := lineCtx s1 md dir
          let low := beAt ack 6 6
          let s2 := if c.restart then
              let s2 := c.bufs.foldl releaseQuiet s1
              putCtx s2 md dir { c with restart := false, n := low, held := [], bufs := [], part := [], skipped := true, ref := none, rtt := none, differ := 0 }
            else s1
          let s3 := takeReport s2 md dir ack
          let (ok, s4) := takeLoad s3 md dir (beAt ack 0 6) low (beAt ack 28 2) (body.drop sl)
          let s5 := privFrame s4 md seq false (some (body.take sl))
          (false, logFrame s5 md dir seq ok)

/-- A good pennant in SYNC, with the whole frame (R247). -/
def goodFrame (s : State) (md : Nat) (b : List Byte) : State :=
  let m := lineMod s md
  let seq := m.expect
  let dir := (ocuMod s md).rxDir
  let fl := beAt b 3 1
  let rdi := bitOf fl 1
  let s1 := eventIf (putLine s md { m with expect := (seq + 1) % seq48, badRun := 0, rdi := rdi, rxSeq := seq }) (rdi && !m.rdi) (pgLFRM md) 3
  let s2 := setN s1 (lf R.LFRM_RX_ID md) (beAt b 1 1 + beAt b 2 1 * 0x100 + (beAt b 0 1 % 16) * 0x10000 + (beAt b 0 1 / 16) * 0x100000 + (fl % 2) * 0x1000000)
  let c := lineCtx s2 md dir
  let s4 := putCtx s2 md dir { c with top := some (seq, beAt b 10 2, s2.tick.now) }
  let s5 := pmNote s4 md (fun x => { x with pos := x.pos + 1 })
  let (tag, s6) := takeContent s5 md seq b
  let crcOk := beAt b 9996 4 == crc32c (sliceBytes b 9936 60)
  let s7 := if crcOk then s6 else bump s6 (lf R.LFRM_TRL_ERR md)
  let s8 := if tag || !crcOk then noteEb s7 md else s7
  takeSc s8 md seq (nthD 0 b 9992) (crcOk && !idDiffers s md b)

/-- A bad pennant in SYNC: the frame is lost, its position trusted (R246, R247). -/
def badPosition (s : State) (md : Nat) (b : List Byte) : State :=
  let m := lineMod s md
  let seq := m.expect
  let dir := (ocuMod s md).rxDir
  let s1 := putLine s md { m with expect := (seq + 1) % seq48, badRun := m.badRun + 1 }
  let s2 := pmCount (bump s1 (lf R.LFRM_PENN_ERR md)) md 0 1
  let s3 := noteEb (pmNote s2 md (fun x => { x with pos := x.pos + 1 })) md
  let crcOk := beAt b 9996 4 == crc32c (sliceBytes b 9936 60)
  let s4 := if crcOk then s3 else bump s3 (lf R.LFRM_TRL_ERR md)
  let s5 := takeSc s4 md seq (nthD 0 b 9992) crcOk
  let s6 := logFrame (privFrame s5 md seq false none) md dir seq false
  if m.badRun + 1 = 5 then declareLof s6 md else s6

/-- SYNC is reached at a sequence (R246, R249): LOF clears, and a context whose far end has restarted is reset (R269). -/
def reachSync (s : State) (md seq : Nat) : State :=
  let m := lineMod s md
  let dir := (ocuMod s md).rxDir
  let s0 := event (putLine s md { m with delin := 2, badRun := 0, expect := seq, lof := false, steer := none }) (pgLFRM md) 0
  let s1 := if lineDefect s0 md then s0 else ptpListen s0 (linePtp md dir)
  let c := lineCtx s1 md dir
  match c.top with
  | some (last, _, _) => if later48 seq last then s1 else putCtx s1 md dir { c with restart := true, log := [] }
  | none => s1

/-- The first offset of a well-formed pennant. -/
def huntFrom : List Byte → Nat → Option Nat
  | [], _ => none
  | b :: t, i => if pennantOk (b :: t) then some i else huntFrom t (i + 1)

/-- Run the delineator over the bytes received (R246). -/
def delineate (md : Nat) : Nat → State → State
  | 0, s => s
  | n + 1, s =>
    let m := lineMod s md
    if m.delin = 0 then
      match huntFrom m.buf 0 with
      | some i =>
        let b := m.buf.drop i
        delineate md n (putLine s md { m with buf := b, delin := 1, count := 1, expect := (pennantSeq b + 1) % seq48 })
      | none => putLine s md { m with buf := m.buf.drop (m.buf.length - 15) }
    else if m.delin = 1 then
      let at' := m.buf.drop (10000 * m.count)
      if at'.length < 16 then s
      else if pennantOk at' && pennantSeq at' == m.expect then
        if m.count = 2 then delineate md n (reachSync (putLine s md { m with buf := at', count := 3 }) md m.expect)
        else delineate md n (putLine s md { m with count := m.count + 1, expect := (m.expect + 1) % seq48 })
      else delineate md n (putLine s md { m with delin := 0, count := 0, buf := m.buf.drop 1 })
    else
      if m.buf.length < 10000 then s
      else
        let b := m.buf.take 10000
        let s1 := putLine s md { m with buf := m.buf.drop 10000 }
        delineate md n (if pennantOk b && pennantSeq b == m.expect then goodFrame s1 md b else badPosition s1 md b)

/-- LINE_FRAME_RX: bytes arrive on a module. Without signal, or out of RUN, they are not examined. -/
def lineRx (s : State) (md : Nat) (bytes : List Byte) : State :=
  let m := lineMod s md
  if !inRun s (pgLFRM md) || m.los then s
  else
    let b := m.buf ++ bytes
    delineate md (2 * b.length + 4) (putLine s md { m with buf := b })

end Sys2Proof.Machine
end

