-- ==== Sys2Proof/Machine/LineTick.lean ====
section
/-!
DEFINITION. Lanes (R279 to R282), round-trip times and path steps (R276 to R278), and the line's part of a boundary
(R249, R250, R256, R257, R273, R275).
-/
namespace Sys2Proof.Machine

/-! ### Lanes -/

/-- A lane's key: LDLV_IDX port × 8 + lane × 2 + receive. -/
def laneKey (port lane : Nat) (rx : Bool) : Nat := port * 8 + lane * 2 + ofBool rx

/-- The CONTEXT of a lane's record (R373). -/
def laneCtx (port lane : Nat) (rx : Bool) : Nat := port + lane * 8 + ofBool rx * 32

/-- Receive lanes of a line module have changed (R280): tell the far end the tick from which to send on them. The receiver
re-acquires when that change reaches it. -/
def sendLane (s : State) (port : Nat) (rx : Bool) : State :=
  if port < 2 ∧ rx then
    let dir := (ocuMod s port).rxDir
    let ref := rttRef (lineCtx s port dir)
    let t := s.tick.now + (ref + 1) / 2 + 16
    let s1 := lineMessage s .lane port dir 2 [t, activeLanes s port true] []
    putLine s1 port { lineMod s1 port with rxChange := some (t + ref / 2) }
  else s

/-- A lane takes a state: leaving ACTIVE raises LANE_DEGRADE (R279), and LOS follows at once (R248). -/
def moveLane (s : State) (port lane : Nat) (rx : Bool) (v : Nat) : State :=
  let old := laneState s port lane rx
  if old = v then s
  else
    let s1 := setLane s port lane rx v
    let s2 := if old = 0 then raise (event s1 pgLDLV 4) pgLDLV fLANE_DEGRADE (laneCtx port lane rx) 0 else s1
    if old = 0 ∨ v = 0 then (let s3 := sendLane s2 port rx; if port < 2 ∧ rx then updateLos s3 port else s3) else s2

/-- LANE_LOCK_LOSS (R279, R281). -/
def lockLossOp (s : State) (port lane : Nat) (rx : Bool) : State :=
  let k := laneKey port lane rx
  let n := s.tick.now
  let s1 := bump s (keyB R.LDLV_FLAPS port)
  if laneState s port lane rx = 3 then s1
  else
    let l := (mapGet [] s.line.losses k).filter (fun t => decide (n < t + 1250000)) ++ [n]
    let s2 := { s1 with line := { s1.line with losses := mapPut s1.line.losses k l } }
    if 4 < l.length then
      let s3 := { s2 with line := { s2.line with holds := mapPut s2.line.holds k (n + 7500000), losses := mapDel s2.line.losses k } }
      raise (event (moveLane s3 port lane rx 3) pgLDLV 5) pgLDLV fLANE_HOLD (laneCtx port lane rx) 0
    else moveLane s2 port lane rx 2

/-- LANE_LOCK_REGAIN: a DOWN lane becomes DEGRADED; only LDLV_LANE_CMD returns it (R282). -/
def lockRegainOp (s : State) (port lane : Nat) (rx : Bool) : State :=
  if laneState s port lane rx = 2 then moveLane s port lane rx 1 else s

/-- LANE_HOLD_EXPIRE (R281). -/
def holdExpireOp (s : State) (port lane : Nat) (rx : Bool) : State :=
  match mapFind s.line.holds (laneKey port lane rx) with
  | some t =>
    if laneState s port lane rx = 3 ∧ t ≤ s.tick.now then
      moveLane { s with line := { s.line with holds := mapDel s.line.holds (laneKey port lane rx) } } port lane rx 1
    else s
  | none => s

/-- LDLV_LANE_CMD (R282, R379): DEGRADED transmit lanes named return at the next boundary, receive lanes now, with a LANE message;
a lane whose LANE_PRBS failed is left. -/
def laneCmdOp (s : State) (port mask : Nat) : State :=
  (List.range 4).foldl (fun a l =>
    if bitOf mask l then
      let a1 := if laneState a port l true = 1 ∧ !(a.line.failed.contains (laneKey port l true)) then moveLane a port l true 0 else a
      if laneState a1 port l false = 1 ∧ !(a1.line.failed.contains (laneKey port l false)) then
        { a1 with line := { a1.line with returns := insNat a1.line.returns (laneKey port l false) } } else a1
    else a) s

/-- LANE_MESSAGE (R280): the far end names its receive lanes and the tick of the change. -/
def laneMessageOp (s : State) (md lanes tick : Nat) : State :=
  putLine s md { lineMod s md with farNext := (lineMod s md).farNext ++ [(tick, lanes)] }

/-- Corrected symbols of the tick that ends, by lane key (R256, R279). -/
def laneErrors (s : State) (errs : List (Nat × Nat)) : State :=
  let s1 := errs.foldl (fun a e => if e.1 < 16 ∧ e.1 % 2 = 1 then pmSymbols a (e.1 / 8) e.2 else a) s
  (List.range 48).foldl (fun a k =>
    let port := k / 8
    let lane := k % 8 / 2
    let rx := k % 2 == 1
    let n := mapGet 0 errs k
    if n ≤ fld a (keyB R.LDLV_LANE_THR port) 15 0 ∨ laneState a port lane rx ≠ 0 then
      { a with line := { a.line with highRuns := mapDel a.line.highRuns k } }
    else
      let c := mapGet 0 a.line.highRuns k + 1
      if c = 125 then moveLane { a with line := { a.line with highRuns := mapDel a.line.highRuns k } } port lane rx 1
      else { a with line := { a.line with highRuns := mapPut a.line.highRuns k c } }) s1

/-- Lanes and rates at boundary n (R280, R282): a changed rate makes a gap of the re-acquisition's six ticks; within a steer's re-acquisition
the far end's change makes no other (R318). -/
def laneBoundary (n : Nat) (s : State) : State :=
  let s1 := s.line.returns.foldl (fun a k => if laneState a (k / 8) (k % 8 / 2) false = 1 then moveLane a (k / 8) (k % 8 / 2) false 0 else a)
    { s with line := { s.line with returns := [] } }
  (List.range 2).foldl (fun a md =>
    let m := lineMod a md
    let m1 := { m with far := farLanes m n, farNext := m.farNext.filter (fun e => decide (n < e.1)) }
    let v := min (activeLanes a md false) m1.far
    let m2 := if v = m1.lanes then m1 else { m1 with lanes := v, gapTo := n + 6 }
    let a1 := putLine a md m2
    match m2.rxChange with
    | some t => if t ≤ n then (let a2 := putLine a1 md { m2 with rxChange := none }; if m2.steer.isSome then a2 else reacquire a2 md n) else a1
    | none => a1) s1

/-! ### Round-trip time (R276 to R278) -/

/-- PATH_STEP at a boundary. -/
def pathStep (s : State) (md dir x : Nat) : State :=
  let c := lineCtx s md dir
  let s1 := putCtx s md dir { c with ref := some x, differ := 0, stepped := some s.tick.now, moved := s.tick.now }
  let s2 := pmCount (bump (event s1 pgLDLV 0) (keyB R.LDLV_PSTEP md)) md 7 1
  let s3 := raise s2 pgLDLV fPATH_STEP (md + 8 * dir) x
  ptpPathStep (setFlag (rearm s3 md dir) (keyB R.OCU_STEER_CFG md) 0 true) (linePtp md dir)

/-- One context's round-trip time at boundary n. -/
def rttBoundary (n md : Nat) (s : State) (dir : Nat) : State :=
  let c := lineCtx s md dir
  let rtt := match c.low with | some x => some x | none => c.rtt
  let c1 := { c with rtt := rtt, low := none }
  match rtt, c.ref with
  | some x, none => putCtx s md dir { c1 with ref := some x, differ := 0, moved := n }
  | some x, some r =>
    let far := decide (r + 63 ≤ x) || decide (x + 63 ≤ r)
    let d := if far then c.differ + 1 else 0
    if 4 ≤ d then pathStep (putCtx s md dir c1) md dir x
    else if x ≠ r ∧ c.moved + 2000 ≤ n then putCtx s md dir { c1 with ref := some (if r < x then r + 1 else r - 1), moved := n, differ := d }
    else putCtx s md dir { c1 with differ := d }
  | none, _ => putCtx s md dir c1

/-- LINE_CAP.CLAMPED of a context (R275). -/
def ctxClamped (s : State) (md dir : Nat) : Bool :=
  let t := rto s md dir
  blkState s pgLDLV != bOFF && decide (lineWindow s md < lineFrames s md * t)

/-- LINE_CAP.CAP (R275). -/
def ctxCap (s : State) (md dir : Nat) : Nat :=
  let t := max 1 (rto s md dir)
  if blkState s pgLDLV = bOFF then 0 else min (lineFrames s md * t) (lineWindow s md) * loadLen s md / (4112 * t)

/-- A context's freeze as it stands: when one ends, every unsettled transmission is armed anew (R273). -/
def freezeCtx (md : Nat) (s : State) (dir : Nat) : State :=
  let c := lineCtx s md dir
  let f := ctxFrozen s md dir
  if c.frozen = f then s
  else
    let s1 := putCtx s md dir { c with frozen := f }
    if f then s1 else rearm s1 md dir

/-- The clamp of a context at a boundary (R275): CLAMP is told as the current context becomes clamped, or a clamped one current. -/
def clampCtx (md : Nat) (s : State) (dir : Nat) : State :=
  let c := lineCtx s md dir
  let k := ctxClamped s md dir && dir == (ocuMod s md).txDir
  eventIf (putCtx s md dir { c with clamped := k }) (k && !c.clamped) pgLDLV 1

/-- Freezes and clamps of a context at a boundary (R273, R275). -/
def freezeBoundary (md : Nat) (s : State) (dir : Nat) : State := clampCtx md (freezeCtx md s dir) dir

/-- A context's freeze has changed while it has loads under way. -/
def freezeDue (s : State) : Bool :=
  (List.range 2).any (fun md => (List.range 4).any (fun dir =>
    let c := lineCtx s md dir
    !c.loads.isEmpty && c.frozen != ctxFrozen s md dir))

/-- Loads wait to be held, and the POOL block is in RUN. -/
def askDue (s : State) : Bool := inRun s 0x48 && s.line.mods.any (fun m => m.ctxs.any (fun c => !c.asking.isEmpty))

/-- The loads of a context whose store entries hold one of some storage keys. -/
def brokenLoads (s : State) (md dir : Nat) (keys : List Nat) : List LineLoad :=
  (lineCtx s md dir).loads.filter (fun l => (List.range (loadLen s md / 64)).any (fun i =>
    (resolve s (entryAddr s md l.entry + 64 * i) 64).any (fun k => keys.any (fun x => decide (k ≤ x + 31) && decide (x < k + 64)))))

/-- Nothing of the line waits for the end of a command. -/
def lineCalm (s : State) : Bool := s.line.broken.isEmpty && !freezeDue s && !askDue s

/-- What the line does at the end of a command: freezes within a microsecond of their causes (R273), loads whose entries are found
uncorrectable (R274), and loads to be held (R177). -/
def lineSettle (s : State) : State :=
  if lineCalm s then s
  else
    let each (f : Nat → State → Nat → State) (a : State) : State := (List.range 2).foldl (fun b md => (List.range 4).foldl (f md) b) a
    let s1 := each freezeCtx s
    let s2 := each (fun md a dir => (brokenLoads a md dir s.line.broken).foldl (abandonLoad md dir) a) s1
    let s3 := { s2 with line := { s2.line with broken := [] } }
    if inRun s3 0x48 then each askAgain s3 else s3

/-! ### The boundary -/

/-- The fill frame (R250). -/
def fillFrame : List Byte :=
  let h : List Byte := [0x11, 0x04] ++ List.replicate 26 0xFF
  h ++ bytesBE 4 (crc32c h) ++ List.replicate 64 0xFF

/-- The open LINE in streams of a module. -/
def lineInStreams (s : State) (md : Nat) : List Nat :=
  (s.strm.slots.filter (fun e => hopStation (hopAt e.2 0) == stLINE && hopPlace (hopAt e.2 0) == 8 + md)).map (·.1)

/-- Consequent actions at a boundary (R250): a fill frame to each consumer, counted; none reaches a descriptor, a buffer or a sum. -/
def fillBoundary (s : State) (md : Nat) : State :=
  if lineDefect s md then
    ptpFault (emit (bump s (lf R.LFRM_FILL md)) (.fill (linePort md) (lineInStreams s md) fillFrame)) (linePtp md (ocuMod s md).rxDir)
  else s

/-- The bins' marks at a boundary (R256, R257). -/
def pmBoundary (s : State) (md : Nat) : State :=
  let d := lineDefect s md
  let x := !timeLocked s || !inRun s (pgLFRM md)
  if d || x then pmNote s md (fun y => { y with defect := y.defect || d, suspect := y.suspect || x }) else s

/-- One module at boundary n. -/
def moduleBoundary (n : Nat) (s : State) (md : Nat) : State :=
  let s1 := updateLos (putLine s md { lineMod s md with pos := 0 }) md
  let s2 := (List.range 4).foldl (rttBoundary n md) s1
  let s3 := (List.range 4).foldl (freezeBoundary md) s2
  pmBoundary (fillBoundary s3 md) md

/-- The line at boundary n. -/
def lineBoundary (s : State) (n : Nat) (errs : List (Nat × Nat)) : State :=
  (List.range 2).foldl (moduleBoundary n) (laneBoundary n (laneErrors s errs))

/-! ### Starting and stopping -/

/-- Delivery starts (R283): every context is reset. -/
def resetContexts (s : State) : State :=
  (List.range 2).foldl (fun a md =>
    let m := lineMod a md
    let a0 := m.ctxs.foldl (fun t c => countOut (c.bufs.foldl releaseQuiet (c.loads.foldl (fun u l => countOut u l.blocks) t)) c.restBlocks) a
    let a1 := (m.coded.map (·.2.2) ++ (m.cur :: m.again).map (·.blocks)).foldl countOut a0
    putLine a1 md { lineMod a1 md with ctxs := [{}, {}, {}, {}], blocks := [], again := [], coded := [], priv := [], cur := {}, resent := false, part := none, seen := [], noDecode := 0 }) s

/-- Every load is settled or abandoned (R283). -/
def allSettled (s : State) : Bool := s.line.mods.all (fun m => m.ctxs.all (fun c => c.loads.isEmpty))

/-- A module's framing enters RUN (R241, R248): sequence 0, hunting, LOF until SYNC; epochs of its pairs start afresh (R288). DESIGN
CHOICE (237): no report speaks of the sequences before, so that the loads unsettled then are due. -/
def startFraming (s : State) (md : Nat) : State :=
  let m := lineMod s md
  let s1 := putLine s md { m with seq := 0, chan := fld s (lf R.LFRM_TX_ID md) 15 8, delin := 0, count := 0, badRun := 0, buf := [], lof := true,
                                  steer := none, block := {}, blocks := [], rblock := {}, part := none, rdi := false, clears := 0,
                                  ctxs := m.ctxs.map (fun c => { c with report := none, loads := c.loads.map (fun l => { l with due := if l.due = 0 then 2 else l.due }) }) }
  { s1 with ciph := { s1.ciph with epochs := s1.ciph.epochs.filter (fun e => e.1 / 4 != md) } }

end Sys2Proof.Machine
end

