-- ==== Sys2Proof/Machine/Optics.lean ====
section
/-!
DEFINITION. The optical control unit: Semaphore frames (R306 to R308), the lock loop (R309), acquisition and its checks
(R310 to R312), steering (R313 to R316) and CMIS (R304, R305).
-/
namespace Sys2Proof.Machine

/-- States of R311. -/
abbrev ocABSENT : Nat := 0
/-- INIT. -/
abbrev ocINIT : Nat := 1
/-- DARK. -/
abbrev ocDARK : Nat := 2
/-- COARSE. -/
abbrev ocCOARSE : Nat := 3
/-- FINE. -/
abbrev ocFINE : Nat := 4
/-- PROBE. -/
abbrev ocPROBE : Nat := 5
/-- LIT. -/
abbrev ocLIT : Nat := 6
/-- FAILED. -/
abbrev ocFAILED : Nat := 7

/-- The key of OCU_STATE of a module. -/
def ocKey (md : Nat) : Nat := keyB R.OCU_STATE md

/-- Set the state. -/
def setOcState (s : State) (md st : Nat) : State := setFld s (ocKey md) 2 0 st

/-- The Semaphore port is UP. -/
def semUp (s : State) (md : Nat) : Bool := flag s (ocKey md) 14

/-- A direction is failed. -/
def dirFailed (s : State) (md dir : Nat) : Bool := flag s (ocKey md) (16 + dir)

/-- The module in OCU_IDX. -/
def ocSel (s : State) : Nat := fld s R.OCU_IDX 0 0

/-- The grid channel N of the laser's target (R309). -/
def ocChannel (s : State) (md : Nat) : Int := signedOf 16 (fld s (keyB R.OCU_GRID md) 15 0)

/-- The laser's target in MHz (R309). -/
def ocTarget (s : State) (md : Nat) : Int := 193100000 + ocChannel s md * 6250

/-! ### Light -/

/-- The light goes dark and the state with it; the checks are pending again. -/
def goDark (s : State) (md : Nat) : State :=
  let was := moduleLit s md
  let o := ocuMod s md
  let s1 := putOcu s md { o with light := 0, began := none, samples := [], acc := 0, within := 0, beyond := 0, wIn := 0, wOut := 0, pennBad := false }
  let s2 := setFld (setOcState s1 md ocDARK) (ocKey md) 8 5 0
  eventIf s2 was pgOCU 1

/-- The OCU writes the pilot code to page C0h (R305, R309). -/
def writePilot (s : State) (md : Nat) : State :=
  emit s (.ocuCmis md 0xC0 [(fld s (lf R.LFRM_TX_ID md) 7 0 * 256 + fld s (lf R.LFRM_TX_ID md) 15 8 : Nat)])

/-- Begin an attempt (R311): the laser is reset and retuned to channel N from the module's table, through page 12h. DESIGN CHOICE (238): the
pilot code is written with it. -/
def startAttempt (s : State) (md : Nat) : State :=
  let o := ocuMod s md
  let s1 := putOcu s md { o with light := 0, again := false, stopped := false, began := some s.tick.now, samples := [], acc := 0, within := 0,
                                 beyond := 0, wIn := 0, wOut := 0, pennBad := false, fine := 0 }
  writePilot (emit (bump (setFld (setOcState s1 md ocCOARSE) (ocKey md) 8 5 0) (keyB R.OCU_ACQ md)) (.ocuCmis md 0x12 [1, ocChannel s md])) md

/-- An attempt may begin: the port is UP, a width is set, and the receive side faces a direction that is not failed. -/
def mayAttempt (s : State) (md : Nat) : Bool :=
  inRun s pgOCU && semUp s md && fld s (keyB R.OCU_GRID md) 21 16 != 0 && !dirFailed s md (ocuMod s md).rxDir

/-- Charge a failed attempt to one direction (R312): the third in a row fails it. -/
def chargeDir (md check : Nat) (s : State) (dir : Nat) : State :=
  let o := ocuMod s md
  let n := min 3 (nthD 0 o.attempts dir + 1)
  let s1 := putOcu s md { o with attempts := setAt 0 o.attempts dir n }
  if n = 3 ∧ !dirFailed s1 md dir then
    raise (event (setFlag s1 (ocKey md) (16 + dir) true) pgOCU 3) pgOCU fACQ_FAIL (md + 2 * dir + 8 * check) 0
  else s1

/-- An attempt has failed: it is charged to the receive direction, or to all; unless every direction is failed, another
follows at the next boundary (R312). -/
def attemptFails (s : State) (md check : Nat) (all : Bool) : State :=
  let s1 := bump (goDark s md) (keyB R.OCU_ACQ_FAIL md)
  let s2 := (if all then List.range 4 else [(ocuMod s md).rxDir]).foldl (chargeDir md check) s1
  if fld s2 (ocKey md) 19 16 = 15 then setOcState s2 md ocFAILED
  else putOcu s2 md { ocuMod s2 md with again := true }

/-- A mismatch in PROBE or LIT (R312): check 0 WMON, 1 pilot, 2 pennant, 3 lock. The framing has raised that of a pennant. -/
def mismatch (s : State) (md check : Nat) : State :=
  let dir := (ocuMod s md).rxDir
  let s1 := event (bump s (keyB R.OCU_MISMATCH md)) pgOCU 2
  let s2 := if check = 2 then s1 else raise s1 pgOCU fWAVE_MISMATCH (md + 2 * dir + 8 * check) 0
  attemptFails s2 md check (check == 0 || check == 3)

/-- Judge the checks and move the state (R310, R311). -/
def ocuJudge (s : State) (md : Nat) : State :=
  let st := ocuState s md
  let o := ocuMod s md
  let locked := flag s (ocKey md) 5
  let wmon := flag s (ocKey md) 6
  let pilot := flag s (ocKey md) 7
  let penn := flag s (ocKey md) 8
  let exp := lf R.LFRM_EXP_A md + 4 * o.rxDir
  let rx := regN s (keyB R.OCU_RX md)
  let pilotBad := !o.rxWait && bitOf rx 16 && rx % 65536 != fld s exp 7 0 * 256 + fld s exp 15 8
  if st = ocFINE then
    if locked && wmon then putOcu (setFlag (setOcState s md ocPROBE) (ocKey md) 8 false) md { o with light := 1, pennBad := false } else s
  else if st = ocPROBE ∨ st = ocLIT then
    if 4 ≤ o.wOut then mismatch s md 0
    else if pilotBad then mismatch s md 1
    else if o.pennBad then mismatch s md 2
    else if st = ocPROBE && wmon && pilot && penn then
      let pw := match nthD none o.litPower o.rxDir with | some x => some x | none => some (signedOf 16 (fld s (keyB R.OCU_MON md) 15 0))
      event (putOcu (setOcState s md ocLIT) md { o with light := 2, began := none, attempts := setAt 0 o.attempts o.rxDir 0, litPower := setAt none o.litPower o.rxDir pw }) pgOCU 0
    else s
  else s

/-! ### The Semaphore port -/

/-- The port goes DOWN (R308). -/
def semDown (s : State) (md : Nat) : State :=
  let s1 := setFlag s (ocKey md) 14 false
  let s2 := raise (event s1 pgOCU 5) pgOCU fSEM_LOSS md 0
  let s3 := wakeInputOp s2 (18 + md) true (fld s2 R.PWR_STATE 1 0 == 2)
  let s4 := updateLos (putLine s3 md { lineMod s3 md with dark := true }) md
  if ocuState s4 md = ocABSENT ∨ ocuState s4 md = ocINIT then s4
  else
    let s5 := goDark s4 md
    putOcu s5 md { ocuMod s5 md with again := !(ocuMod s5 md).stopped }

/-- The port comes UP (R308, R311). -/
def semComesUp (s : State) (md : Nat) : State :=
  let s1 := wakeInputOp (setFlag s (ocKey md) 14 true) (18 + md) false false
  if ocuState s1 md = ocINIT ∧ (ocuMod s1 md).pages = some true then setOcState s1 md ocDARK else s1

/-- A good monitor frame's content (R307, R310). -/
def takeMonitor (s : State) (md : Nat) (b : List Byte) : State :=
  let b1 := beAt b 1 1
  let b2 := beAt b 2 1
  let o := ocuMod s md
  let st := ocuState s md
  let s1 := updateLos (putLine s md { lineMod s md with dark := bitOf b1 3 }) md
  let s2 := setFlag (setFld (setFld s1 (ocKey md) 10 9 (b2 % 4)) (ocKey md) 12 11 (b2 / 4 % 4)) (ocKey md) 13 (bitOf b1 4 || bitOf b1 5)
  let txGot := o.txWait && b2 % 4 == o.txDir
  let rxGot := o.rxWait && b2 / 4 % 4 == o.rxDir
  let s3 := eventIf s2 (txGot || rxGot) pgOCU 4
  let err := (beAt b 7 4 : Int) - ocTarget s md
  let tol : Int := (fld s R.OCU_TOL 11 0 : Nat) * 10
  let live := bitOf b1 6 && decide (ocDARK ≤ st) && st != ocCOARSE
  let inTol := decide (err ≤ tol) && decide (-tol ≤ err)
  let wIn := if live && inTol then o.wIn + 1 else 0
  let wOut := if live && !inTol then o.wOut + 1 else 0
  let o1 := { o with txWait := o.txWait && !txGot, rxWait := o.rxWait && !rxGot, wIn := wIn, wOut := wOut,
                     samples := ((beAt b 5 2, beAt b 3 2) :: o.samples).take 10 }
  let wmon := if !live then false else if 4 ≤ wIn then true else if 4 ≤ wOut then false else flag s3 (ocKey md) 6
  let pilot := beAt b 11 2
  let valid := bitOf b2 4
  let exp := lf R.LFRM_EXP_A md + 4 * o.rxDir
  let agrees := valid && !o1.rxWait && flag s3 exp 16 && pilot == fld s3 exp 7 0 * 256 + fld s3 exp 15 8
  let s4 := setFlag (setFlag (putOcu s3 md o1) (ocKey md) 6 wmon) (ocKey md) 7 agrees
  let s5 := setFld (setN s4 (keyB R.OCU_RX md) (pilot + ofBool valid * 65536)) (keyB R.OCU_FREQ md) 15 0 (unsignedOf 16 (Int.tdiv err 10))
  ocuJudge (setFld s5 (keyB R.OCU_MON md) 15 0 (beAt b 13 2)) md

/-- MONITOR_FRAME (R308). -/
def monitorOp (s : State) (md : Nat) (b : List Byte) : State :=
  let o := ocuMod s md
  let ok := b.length == 24 && beAt b 22 2 == crcFwd 16 0x1021 0xFFFF (b.take 22)
    && decide ((o.cmdSeq + 256 - beAt b 15 1) % 256 ≤ 2)
  if !ok then
    let s1 := bump (putOcu s md { o with good := 0, bad := o.bad + 1 }) (keyB R.OCU_SEM_BAD md)
    if semUp s md ∧ o.bad + 1 = 4 then semDown s1 md else s1
  else
    let s1 := putOcu s md { o with good := o.good + 1, bad := 0 }
    let s2 := if !semUp s md && decide (64 ≤ o.good + 1) then semComesUp s1 md else s1
    if semUp s2 md then takeMonitor s2 md b else s2

/-- An entry of a steering queue is due at tick n. -/
def steerDue (n : Nat) (e : Steer) : Bool := decide (e.tick ≤ n)

/-- A queue's entry whose GO goes in frame 0 of this tick: the last that is due. DEDUCED (227): several are due only where a step of time skipped
their ticks (R42), and a frame names one direction. -/
def goEntry (n : Nat) (q : List Steer) : Option Steer := (q.takeWhile (steerDue n)).getLast?

/-- What is left of a queue once its due entries have gone. -/
def afterGo (n : Nat) (q : List Steer) : List Steer := q.dropWhile (steerDue n)

/-- The command frame's bytes (R307). -/
def commandBytes (k seq tick light : Nat) (txGo rxGo : Bool) (txDir rxDir : Nat) (fine : Int) : List Byte :=
  let b := bytesBE 1 1 ++ bytesBE 1 (k + ofBool (k == 0) * 8 + ofBool txGo * 16 + ofBool rxGo * 32) ++ bytesBE 1 (txDir + rxDir * 4 + light * 16)
    ++ bytesBE 2 (unsignedOf 16 fine) ++ bytesBE 2 (tick % 65536) ++ bytesBE 1 seq ++ List.replicate 14 0
  b ++ bytesBE 2 (crcFwd 16 0x1021 0xFFFF b)

/-- COMMAND_FRAME: the next frame of the tick, with the GO bits due (R306, R307, R313). -/
def commandOp (s : State) (md : Nat) : State :=
  let o := ocuMod s md
  let n := s.tick.now
  if !inRun s pgOCU || ocuState s md == ocABSENT || decide (8 ≤ o.frame) then s
  else
    let tx := if o.frame = 0 then goEntry n o.txq else none
    let rx := if o.frame = 0 then goEntry n o.rxq else none
    let wide := flag s (keyB R.OCU_STEER_CFG md) 0
    let o1 := match tx with
      | some e => { o with txq := afterGo n o.txq, txDir := e.dir, txAt := some (n, if e.begun then e.wide else wide), txWait := true }
      | none => o
    let o2 := match rx with
      | some e => { o1 with rxq := afterGo n o1.rxq, rxDir := e.dir, rxAt := some n, rxWait := true, pennBad := false }
      | none => o1
    let seq := (o.cmdSeq + 1) % 256
    let s1 := putOcu s md { o2 with cmdSeq := seq, frame := o.frame + 1 }
    let s2 := bumpBy s1 (keyB R.OCU_STEERS md) (ofBool tx.isSome + ofBool rx.isSome)
    let s3 := if rx.isSome then ptpSteered (reacquire (setFld s2 (ocKey md) 8 7 0) md n) md else s2
    emit s3 (.command md (commandBytes o.frame seq n o.light tx.isSome rx.isSome o2.txDir o2.rxDir o.fine))

/-- The tick of a side's latest steer. -/
def steerTick (o : OcuMod) (rx : Bool) : Nat := if rx then o.rxAt.getD 0 else (match o.txAt with | some (t, _) => t | none => 0)

/-- A side's new direction is not reported 7 µs after the boundary of its steer: the tick's eighth command frame has gone, or the tick
(R306, R313). -/
def steerMissed (s : State) (md : Nat) (rx : Bool) : Bool :=
  let o := ocuMod s md
  (if rx then o.rxWait else o.txWait) && (decide (steerTick o rx < s.tick.now) || decide (8 ≤ o.frame))

/-- STEER_MISS (R313): handled as a mismatch. DESIGN CHOICE (238): the record of WAVE_MISMATCH, whose codes name no such check, shows
WMON's. -/
def steerMissOp (s : State) (md : Nat) (rx : Bool) : State :=
  if steerMissed s md rx then
    let o := ocuMod s md
    let s1 := putOcu s md (if rx then { o with rxWait := false } else { o with txWait := false })
    let s2 := event (bump (raise s1 pgOCU fSTEER_MISS (md + 2 * ofBool rx) (steerTick o rx)) (keyB R.OCU_MISMATCH md)) pgOCU 2
    if moduleLit s2 md then attemptFails (raise s2 pgOCU fWAVE_MISMATCH (md + 2 * o.rxDir) 0) md 0 false else s2
  else s

/-! ### The lock loop -/

/-- LOCK_LOOP_UPDATE (R309): err in units of 2^-16 MHz; S is a ratio with 16 fraction bits, K in MHz per unit. A reference sum
of 0 leaves the ratio open. -/
def lockLoopOp (s : State) (md : Nat) : State :=
  let o := ocuMod s md
  let st := ocuState s md
  if o.samples.length < 10 ∨ st < ocFINE ∨ st = ocFAILED then s
  else
    let eta := (o.samples.map (·.1)).sum
    let ref := (o.samples.map (·.2)).sum
    let (r, s0) := if ref = 0 then drawFree s else (eta * 65536 / ref, s)
    let err : Int := ((r : Int) - o.s) * o.k
    let acc := max (-1048576 * 65536) (min (1048576 * 65536) (o.acc + err))
    let kp : Int := fld s R.OCU_LOOP 7 0
    let ki : Int := fld s R.OCU_LOOP 15 8
    let tol : Int := (fld s R.OCU_LOOP 27 16 : Nat) * 65536
    let f := max (-32767) (min 32767 (Int.ediv (2 * (-kp * err - ki * acc) * 2 + 16777216) 33554432))
    let mag := if err < 0 then -err else err
    let w := if mag ≤ tol then o.within + 1 else 0
    let b := if 4 * tol < mag then o.beyond + 1 else 0
    let s1 := putOcu s0 md { o with acc := acc, fine := f, within := w, beyond := b }
    let s2 := setFld s1 (keyB R.OCU_FREQ md) 31 16 (unsignedOf 16 f)
    let was := flag s2 (ocKey md) 5
    if !was && decide (100 ≤ w) then ocuJudge (setFlag s2 (ocKey md) 5 true) md
    else if was && decide (10 ≤ b) then
      let s3 := setFlag s2 (ocKey md) 5 false
      if moduleLit s3 md then mismatch (raise s3 pgOCU fLOCK_LOSS md 0) md 3 else s3
    else s2

/-- TUNING_COMPLETE (R311): COARSE gives way to FINE. -/
def tuningOp (s : State) (md : Nat) : State := if ocuState s md = ocCOARSE then setOcState s md ocFINE else s

/-- ACQUISITION_TIMEOUT (R311): an attempt that has not reached LIT in time has failed; before PROBE the wavelength is what
failed, so every direction is charged. -/
def acqTimeoutOp (s : State) (md : Nat) : State :=
  let st := ocuState s md
  match (ocuMod s md).began with
  | some t =>
    if (st = ocCOARSE ∨ st = ocFINE ∨ st = ocPROBE) ∧ t + fld s R.OCU_ACQ_TMO 23 0 ≤ s.tick.now then
      attemptFails s md (if st = ocPROBE then 1 else 0) (st != ocPROBE)
    else s
  | none => s

/-! ### Commands -/

/-- ACQUIRE (R311). -/
def acquireOp (s : State) (md : Nat) : State :=
  let st := ocuState s md
  if (st = ocDARK ∨ (st = ocFAILED ∧ fld s (ocKey md) 19 16 ≠ 15)) ∧ mayAttempt s md then startAttempt s md else s

/-- DARK: light off, no automatic re-acquisition. -/
def darkOp (s : State) (md : Nat) : State :=
  let st := ocuState s md
  let s1 := if ocCOARSE ≤ st ∧ st ≤ ocLIT then goDark s md else s
  putOcu s1 md { ocuMod s1 md with again := false, stopped := true }

/-- CLEAR: the named directions are failed no longer, their counts are 0. -/
def clearDirsOp (s : State) (md dirs : Nat) : State :=
  (List.range 4).foldl (fun a d =>
    if bitOf dirs d then
      let a1 := setFlag a (ocKey md) (16 + d) false
      putOcu a1 md { ocuMod a1 md with attempts := setAt 0 (ocuMod a1 md).attempts d 0 }
    else a) s

/-- A write of OCU_CMD from a window: 1 ACQUIRE, 2 DARK, 3 CLEAR. -/
def ocuCmdWrite (s : State) (w : Win) (op v : Nat) : State :=
  if !mayWrite s w R.OCU_CMD then s
  else
    let md := ocSel s
    if op = 1 then acquireOp s md else if op = 2 then darkOp s md else if op = 3 then clearDirsOp s md (bitsOf v 7 4) else s

/-- PUSH (R313). -/
def pushOp (s : State) (v : Nat) : State :=
  let md := ocSel s
  let o := ocuMod s md
  let rx := bitOf v 2
  let dir := bitsOf v 4 3
  let t := reg64 s (keyB R.OCU_STEER_TICK_LO md) (keyB R.OCU_STEER_TICK_HI md)
  let q := if rx then o.rxq else o.txq
  let res (a : State) (c : Nat) : State := setFld a (keyB R.OCU_STEER_RES md) 7 4 c
  if t < s.tick.now + 16 ∨ q.getLast?.any (fun e => decide (t ≤ e.tick)) = true ∨ dirFailed s md dir then res s cPOLICY
  else if 8 ≤ q.length then res s cBUSY
  else
    let e : Steer := { tick := t, dir := dir }
    res (putOcu s md (if rx then { o with rxq := q ++ [e] } else { o with txq := q ++ [e] })) cSERVED

/-- FLUSH (R313). -/
def flushOp (s : State) : State :=
  let md := ocSel s
  putOcu s md { ocuMod s md with txq := [], rxq := [] }

/-- A write of OCU_STEER_CMD from a window. -/
def steerCmdWrite (s : State) (w : Win) (flushing : Bool) (v : Nat) : State :=
  if mayWrite s w R.OCU_STEER_CMD then (if flushing then flushOp s else pushOp s v) else s

/-! ### CMIS -/

/-- GO of a CMIS access (R305): a write to page 12h or C0h is refused. -/
def cmisGoOp (s : State) : State :=
  let md := ocSel s
  let q := regN s (keyB R.OCU_CMIS_REQ md)
  let page := bitsOf q 15 8
  if flag s (keyB R.OCU_CMIS_RES md) 0 then s
  else if bitOf q 24 && (page == 0x12 || page == 0xC0) then setN s (keyB R.OCU_CMIS_RES md) (cPOLICY * 16)
  else emit (setN s (keyB R.OCU_CMIS_RES md) 1)
    (.cmis md (bitsOf q 27 25) page (bitsOf q 7 0) (if bitOf q 24 then some (BitVec.ofNat 8 (bitsOf q 23 16)) else none))

/-- CMIS_ACCESS_DONE. -/
def cmisDoneOp (s : State) (md : Nat) (ok : Bool) (data : Nat) : State :=
  if flag s (keyB R.OCU_CMIS_RES md) 0 then setN s (keyB R.OCU_CMIS_RES md) (ofBool (!ok) * 2 + cSERVED * 16 + (if ok then data * 256 else 0)) else s

/-- The OCU brings a module up (R305): the data paths of the four host lanes through page 10h, the Semaphore port and the pilot code through
page C0h. -/
def openModule (s : State) (md : Nat) : State := writePilot (emit (emit s (.ocuCmis md 0x10 [1, 1, 1, 1])) (.ocuCmis md 0xC0 [1])) md

/-- CMIS_POLL (R304, R305, R311). -/
def cmisPollOp (s : State) (md : Nat) (p : CmisPoll) : State :=
  let s0 := setFld (putOcu s md { ocuMod s md with preFec := p.preFec, lower := p.lower }) (keyB R.OCU_MON md) 31 16 p.bias.toNat
  if !p.present then
    if ocuState s md = ocABSENT then s0
    else
      let s1 := goDark s0 md
      putOcu (setOcState s1 md ocABSENT) md { ocuMod s1 md with ready := false, pages := none, again := false, stopped := true }
  else
    let s1 := if ocuState s0 md = ocABSENT && p.ready then setOcState s0 md ocINIT else s0
    let o := ocuMod s1 md
    if ocuState s1 md = ocINIT ∧ o.pages = none ∧ p.ready then
      let s2 := putOcu s1 md { o with ready := true, pages := some p.steered, s := p.setPoint.toNat, k := p.slope, page00 := p.page00, page02 := p.page02, page04 := p.page04, bias0 := some p.bias.toNat }
      if p.steered then (let s3 := openModule s2 md; if semUp s3 md then setOcState s3 md ocDARK else s3)
      else raise s2 pgOCU fACQ_FAIL (md + 2 * o.rxDir) 0
    else s1

/-- A pennant of the wrong far end, taken while lit, darkens the module in its next command frame (R312). -/
def pennantDue (s : State) (md : Nat) : Bool := moduleLit s md && (ocuMod s md).pennBad

/-- At the end of a command: such pennants. -/
def ocuSettle (s : State) : State := (List.range 2).foldl (fun a md => if pennantDue a md then mismatch a md 2 else a) s

/-! ### The boundary -/

/-- One module's part of boundary n: steering ticks begin, an attempt that waits begins (R312, R314). -/
def ocuBoundary (n : Nat) (s : State) (md : Nat) : State :=
  let o := ocuMod s md
  let wide := flag s (keyB R.OCU_STEER_CFG md) 0
  let q := o.txq.map (fun e => if !e.begun && decide (e.tick ≤ n + steerK wide) then { e with begun := true, wide := wide } else e)
  let s1 := putOcu s md { o with frame := 0, txq := q }
  if o.again ∧ !o.stopped ∧ ocuState s1 md = ocDARK ∧ mayAttempt s1 md then startAttempt s1 md else s1

end Sys2Proof.Machine
end

