-- ==== Sys2Proof/Machine/HealthTab.lean ====
section
/-!
DEFINITION. The protection table and what this WG9 is in it (R343), replacing a node by a spare (R348), and the groups as a
view changes them (R327).
-/
namespace Sys2Proof.Machine

/-- A group entry of the protection table. -/
def parsePGroup (b : List Byte) : PGroup :=
  { data := (List.range 8).map (fun i => leAt b (2 * i) 2), p := leAt b 16 2, q := leAt b 18 2,
    partner := (List.range 8).map (fun i => leAt b (20 + 2 * i) 2) }

/-- The groups and spares of a table of a job at an address; none where R343's checks fail. The table lists every
shard-holding WG9 once. -/
def readProt (s : State) (a job : Nat) : Option (List PGroup × List Nat) :=
  match (if a % 64 = 0 ∧ inKind s 9 a 64 then (coreRead s a 64).1 else none) with
  | none => none
  | some h =>
    let g := leAt h 6 2
    let k := leAt h 8 1
    if leAt h 0 4 ≠ 1 ∨ leAt h 4 2 ≠ job ∨ g = 0 ∨ 1024 < g ∨ !(inKind s 9 a (64 + 48 * g + 2 * k)) then none
    else match (coreRead s (a + 64) (48 * g + 2 * k)).1 with
      | none => none
      | some b =>
        let gs := (List.range g).map (fun i => parsePGroup (sliceBytes b (48 * i) 48))
        let sp := (List.range k).map (fun i => leAt b (48 * g + 2 * i) 2)
        let all := gs.flatMap (·.data)
        let ok := all.eraseDups.length == all.length && gs.all (fun x =>
          x.p != x.q && !x.data.contains x.p && !x.data.contains x.q && x.partner.all (fun y => !x.data.contains y))
        if ok then some (gs, sp) else none

/-- The group and position of a data member. -/
def dataPlace (gs : List PGroup) (node : Nat) : Option (Nat × Nat) :=
  (gs.zipIdx.findSome? (fun x => if x.1.data.contains node then some (x.2, x.1.data.idxOf node) else none))

/-- Every WG9 that the table names. -/
def siteNodes (s : State) : List Nat :=
  s.hlth.groups.foldl (fun l g => (g.data ++ [g.p, g.q] ++ g.partner).foldl insNat l) (s.hlth.spares.foldl insNat [])

/-- HLT_ROLE, HLT_PARTNER and the list of HLT_PAR as the table gives them. -/
def showRole (s : State) : State :=
  let me := ownNode s
  let par := s.hlth.groups.zipIdx.filter (fun x => x.1.p == me || x.1.q == me)
  let s1 := match dataPlace s.hlth.groups me with
    | some (g, k) =>
      let s1 := setN s R.HLT_ROLE (g + k * 0x400 + 0x2000 + par.length * 0x10000)
      setFld s1 R.HLT_PARTNER 15 0 (match s.hlth.groups[g]? with | some x => nthD 0 x.partner k | none => 0)
    | none => setFld (setN s R.HLT_ROLE (par.length * 0x10000)) R.HLT_PARTNER 15 0 0
  (List.range 1024).foldl (fun a i => match par[i]? with
    | some x => setN a (keyB R.HLT_PAR i) (x.2 + ofBool (x.1.p != me) * 0x400 + 0x800)
    | none => setN a (keyB R.HLT_PAR i) 0) s1

/-- Take a node for another throughout a group. -/
def swapGroup (old new : Nat) (g : PGroup) : PGroup :=
  let f (x : Nat) := if x = old then new else x
  { data := g.data.map f, p := f g.p, q := f g.q, partner := g.partner.map f }

/-- The bytes of a group entry. -/
def groupBytes (g : PGroup) : List Byte :=
  g.data.flatMap (bytesLE 2) ++ bytesLE 2 g.p ++ bytesLE 2 g.q ++ g.partner.flatMap (bytesLE 2) ++ List.replicate 12 0

/-- Write the table back, as hoists and adoptions rewrite it (R343). -/
def writeProt (s : State) : State :=
  coreWrite s s.job.protTab (bytesLE 4 1 ++ bytesLE 2 s.job.id ++ bytesLE 2 s.hlth.groups.length ++ bytesLE 1 s.hlth.spares.length
    ++ List.replicate 55 0 ++ s.hlth.groups.flatMap groupBytes ++ s.hlth.spares.flatMap (bytesLE 2))

/-- A node replaces another in the protection table (R348). -/
def swapNode (s : State) (old new : Nat) : State :=
  let s1 := { s with hlth := { s.hlth with groups := s.hlth.groups.map (swapGroup old new), spares := s.hlth.spares.filter (· ≠ new),
                                           taken := s.hlth.taken.filter (· ≠ new), hoists := s.hlth.hoists.filter (fun h => h.1 != old) } }
  showRole (writeProt s1)

/-- The committed state that this WG9 holds is pushed (R31, R333): phase 8 with the outer gate open (R161), every unit of the state being that
of the committed round already, so that an APPLY leaves it and emits it. -/
def pushState (s : State) : State :=
  let s1 := outerGate s true
  let units := match jobParts s1 with | some (o, ps) => (partUnits o ps s1.job.commit).sum | none => 0
  { s1 with job := { s1.job with phase := 8, pushedBytes := 0 },
            hlth := { s1.hlth with round := s1.job.commit, acked := List.range units, staged := [], queue := [], out := [] } }

/-- A spare is admitted for a WG9 that was lost before its push was done (R31): the push starts again from the state that was loaded,
which is that of the committed round in every unit (R346). DEDUCED (245): PUSH_DONE is sent again. -/
def restartPush (s : State) : State := if s.job.pushed < s.job.commit then pushState s else s

/-- Where a view replaces nodes (R348): this WG9 is admitted as the spare, or leaves as the expelled one and goes to P1. -/
def admitSwaps (s : State) (swaps : List (Nat × Nat)) : State :=
  let me := ownNode s
  let s1 := if swaps.any (fun w => w.2 == me) ∧ fld s R.HLT_HOIST 2 0 = 3 then restartPush (setFld s R.HLT_HOIST 2 0 4) else s
  if swaps.any (fun w => w.1 == me) ∧ fld s1 R.HLT_STAT 18 16 = 3 then
    event { setFld s1 R.HLT_STAT 18 16 4 with hlth := { s1.hlth with toP1 := true } } pgHLT 2
  else s1

/-- Rewrite a ROUND group's entry and member list for a view, and reload it (R216, R327, R348). -/
def reloadGroup (epoch : Nat) (inView : Nat → Bool) (swaps : List (Nat × Nat)) (s : State) (e : Nat × Group) : State :=
  if !bitOf e.2.flags 1 then s
  else
    let a := reg64 s R.GRP_BASE_LO R.GRP_BASE_HI + 64 * e.1
    match (coreRead s a 64).1 with
    | none => s
    | some b =>
      let ml := leAt b 0x10 8
      let s1 := coreWrite s (a + 4) (bytesLE 4 epoch)
      let s2 := e.2.members.zipIdx.foldl (fun x m =>
        let node := (swaps.find? (fun w => w.1 == m.1.node)).elim m.1.node (·.2)
        coreWrite x (ml + 16 * m.2) (bytesLE 2 node ++ bytesLE 1 m.1.site ++ bytesLE 1 (ofBool (inView m.1.site)))) s1
      groupEnableOp s2 e.1 true

end Sys2Proof.Machine
end

