-- ==== Sys2Proof/Machine/Sites.lean ====
section
/-!
DEFINITION. Sites, views, commit agreement, dips and heals (R319 to R336), and the round's start and end at this WG9
(R18, R26, R29).
-/
namespace Sys2Proof.Machine

/-- SITE_STATE.STATE: JOINING, MEMBER, DIPPED, HEALING. -/
abbrev sJOINING : Nat := 0
/-- MEMBER. -/
abbrev sMEMBER : Nat := 1
/-- DIPPED. -/
abbrev sDIPPED : Nat := 2
/-- HEALING. -/
abbrev sHEALING : Nat := 3

/-- The site's state. -/
def siteState (s : State) : Nat := fld s R.SITE_STATE 2 0
/-- Move it. -/
def setSite (s : State) (k : Nat) : State := setFld s R.SITE_STATE 2 0 k
/-- This WG9 acts as guidon. -/
def isGuidon (s : State) : Bool := flag s R.SITE_STATE 21
/-- The view in force, and the reachable sites, as masks. -/
def viewMask (s : State) : Nat := regN s R.SITE_VIEW
/-- SITE_REACH. -/
def reachMask (s : State) : Nat := regN s R.SITE_REACH
/-- SITE_EPOCH. -/
def siteEpoch (s : State) : Nat := regN s R.SITE_EPOCH
/-- SITE_COMMIT. -/
def siteCommit (s : State) : Nat := reg64 s R.SITE_COMMIT_LO R.SITE_COMMIT_HI

/-- Update what Mirder keeps of the sites. -/
def modSite (s : State) (f : SiteSt → SiteSt) : State := { s with site := f s.site }

/-! ### The site table (R319 to R321) -/

/-- Read a site table of a job at an address; none where R319 is broken. -/
def readSites (s : State) (a job : Nat) : Option SiteTab :=
  match (if a % 64 = 0 ∧ inKind s 9 a 64 then (coreRead s a 64).1 else none) with
  | none => none
  | some h =>
    let n := leAt h 6 1
    match (if 1 ≤ n ∧ n ≤ 32 ∧ inKind s 9 a (64 + 16 * n) then (coreRead s (a + 64) (16 * n)).1 else none) with
    | none => none
    | some b =>
      let ents : List SiteEnt := (List.range n).map (fun i =>
        { id := leAt b (16 * i) 1, weight := leAt b (16 * i + 1) 1, guidon := leAt b (16 * i + 2) 2, alt := leAt b (16 * i + 4) 2 })
      let t : SiteTab :=
        { job := leAt h 4 2, self := leAt h 7 1, ensign := leAt h 8 1, lag := leAt h 9 1 % 4, h := leAt h 0xC 4, loss := leAt h 0x10 4,
          agree := leAt h 0x14 4, view := leAt h 0x18 4, ents := ents, crc := crc64 (h.take 7 ++ [0] ++ h.drop 8 ++ b) }
      let ids := ents.map (·.id)
      let ok := leAt h 0 4 == 1 && t.job == job && decide (t.self < n) && decide (t.ensign < n) && t.lag != 3
        && decide (16 ≤ t.h) && decide (t.h ≤ 65536) && decide (1250 ≤ t.loss) && decide (t.loss ≤ 1250000) && decide (125 ≤ t.agree)
        && ids.all (· != 0) && ids.eraseDups.length == ids.length && ents.all (fun e => e.weight != 0 && e.guidon != e.alt)
      if ok then some t else none

/-- Weight of a set of sites. -/
def weightOf (t : SiteTab) (v : Nat) : Nat := ((t.ents.zipIdx.filter (fun e => bitOf v e.2)).map (fun e => e.1.weight)).sum

/-- W. -/
def totalWeight (t : SiteTab) : Nat := (t.ents.map (·.weight)).sum

/-- A set of sites is a quorum (R321). -/
def isQuorum (t : SiteTab) (v : Nat) : Bool :=
  decide (totalWeight t < 2 * weightOf t v) || (2 * weightOf t v == totalWeight t && bitOf v t.ensign)

/-- Index of a site id. -/
def siteIdx (t : SiteTab) (id : Nat) : Option Nat := (t.ents.zipIdx.find? (fun e => e.1.id == id)).map (·.2)

/-- Entry of an index. -/
def siteEnt (t : SiteTab) (i : Nat) : SiteEnt := (t.ents[i]?).getD { id := 0, weight := 0, guidon := 0, alt := 0 }

/-- This site's id. -/
def ownSite (t : SiteTab) : Nat := (siteEnt t t.self).id

/-- Sites of a mask but this one. -/
def otherSites (t : SiteTab) (v : Nat) : List Nat := (List.range t.ents.length).filter (fun i => bitOf v i && i != t.self)

/-- The lowest site id of a mask. -/
def lowestId (t : SiteTab) (v : Nat) : Nat := ((t.ents.zipIdx.filter (fun e => bitOf v e.2)).map (fun e => e.1.id)).foldl min 256

/-- The site table, with the job. -/
def siteTab (s : State) : Option SiteTab := if s.job.held then s.site.tab else none

/-! ### Messages (R322, R323) -/

/-- A site message to a WG9 of this site, over the site fabric. -/
def localMsg (s : State) (kind : MsgKind) (node : Nat) (fields : List Nat) : State :=
  emit s (.message kind 7 node 1 fields [])

/-- The guidon of this site. -/
def guidonNode (s : State) (t : SiteTab) : Nat :=
  let e := siteEnt t t.self
  if isGuidon s then ownNode s else if s.hlth.lost.contains e.guidon then e.alt else e.guidon

/-- A message to a remote guidon: on this WG9's own line ports, and to every WG9 of the site to forward. -/
def siteSend (s : State) (t : SiteTab) (kind : MsgKind) (fields : List Nat) (dest : Nat) : State :=
  let e := siteEnt t dest
  let f := [ownSite t, s.site.sent, e.id] ++ fields
  let s1 := modSite s (fun x => { x with sent := x.sent + 1 })
  let s2 := [4, 5].foldl (fun a p => emit a (.message kind p e.guidon 1 f [])) s1
  ((siteNodes s).filter (· ≠ ownNode s)).foldl (fun a nd => localMsg a kind nd f) s2

/-- A message of the guidon to every WG9 of its site. -/
def siteTell (s : State) (t : SiteTab) (kind : MsgKind) (fields : List Nat) : State :=
  let f := [ownSite t, s.site.sent, ownSite t] ++ fields
  ((siteNodes s).filter (· ≠ ownNode s)).foldl (fun a nd => localMsg a kind nd f) (modSite s (fun x => { x with sent := x.sent + 1 }))

/-- A site message arrives (R323): a copy already seen is dropped; a WG9 that is not the guidon forwards what its guidon sends
abroad and passes the rest to its guidon. The Bool says that this WG9 acts on it. -/
def siteIn (s : State) (t : SiteTab) (kind : MsgKind) (site count dest port : Nat) (fields : List Nat) : Bool × State :=
  if s.site.seen.contains (site, count) then (false, s)
  else
    let s1 := modSite s (fun x => { x with seen := (site, count) :: x.seen })
    let f := [site, count, dest] ++ fields
    if isGuidon s then (site != ownSite t, s1)
    else if port < 4 ∧ site = ownSite t then
      if dest = ownSite t then (true, s1)
      else (false, [4, 5].foldl (fun a p => emit a (.message kind p (match siteIdx t dest with | some i => (siteEnt t i).guidon | none => 0) 1 f [])) s1)
    else (false, localMsg s1 kind (guidonNode s t) f)

/-! ### Commit (R21, R22, R329) -/

/-- The BROADCASTs of STATE groups that bring state to or from this WG9 end. DESIGN CHOICE (233): they complete REFUSED_POLICY. -/
def endFetches (s : State) (mine : CReq → Bool) : State :=
  (s.coll.active.filter (fun r => r.oper == 5 && r.round == 0 && bitOf r.grp.flags 2 && r.phase != 2 && mine r)).foldl (fun a r =>
    finishReq { dropChunks a r with coll := { (dropChunks a r).coll with purposes := (dropChunks a r).coll.purposes.filter (fun p => p.num != r.num) } }
      { r with chunks := [] } (some cPOLICY)) s

/-- A peer that serves a healing site stops at its apply (R334). -/
def stopServing (s : State) : State := endFetches s (fun r => r.root == r.grp.self)

/-- The round commits at this WG9: SITE_COMMIT, ROUND_COMMITTED, phase 8 with the outer gate open (R161), and its protection. -/
def commitRound (s : State) (n delay : Nat) : State :=
  let s1 := event (set64 s R.SITE_COMMIT_LO R.SITE_COMMIT_HI n) pgSITE 3
  let keep := match s1.site.accepted with | some (r, _, d) => if r = n then (n, d) :: s1.site.digests else s1.site.digests | none => s1.site.digests
  let s2 := modSite s1 (fun x => { x with digests := keep, due := none, offerAt := none, acceptAt := none,
                                          accepted := if x.accepted.any (fun a => decide (a.1 ≤ n)) then none else x.accepted,
                                          readys := x.readys.filter (fun r => decide (n < r.1)), offers := x.offers.filter (fun r => decide (n < r.2.1)),
                                          accepts := x.accepts.filter (fun r => decide (n < r.2.1)) })
  let s3 := stopServing (if s2.site.accepted.isNone then setFlag s2 R.SITE_ACCEPT_HI 16 false else s2)
  let s4 := postNotice (jobNotice (outerGate s3 true) .roundCommitted 1 n [if delay = 0 then cSERVED else cDELAYED, delay]) 1 n
  protStart { s4 with job := { s4.job with commit := n, round := n, phase := 8, aborts := 0, aborted := none, pushedBytes := 0, abortDue := none },
                      coll := { s4.coll with results := s4.coll.results.filter (fun x => x.round = 0 || decide (n ≤ x.round)) } } n

/-- The protection of the round before is not complete: the commit waits (R22). -/
def protBehind (s : State) (n : Nat) : Bool :=
  isData s && s.hlth.round + 1 == n && decide (s.job.first ≤ s.hlth.round) && reg64 s R.HLT_PROT_LO R.HLT_PROT_HI != s.hlth.round

/-- Commit round n, or wait until its protection allows. -/
def commitTry (s : State) (n delay : Nat) : State :=
  if n ≠ siteCommit s + 1 ∨ s.site.due.isSome then s
  else if protBehind s n then modSite s (fun x => { x with due := some (n, s.tick.now - delay) }) else commitRound s n delay

/-- A commit that waited (R22): its completion carries DELAYED with the delay. -/
def commitSettle (s : State) : State :=
  match s.site.due with
  | some (n, t) => if protBehind s n then s else commitRound s n (s.tick.now - t)
  | none => s

/-- COMMIT from the guidon (R329). -/
def commitOp (s : State) (n epoch : Nat) : State :=
  if s.job.held ∧ epoch = siteEpoch s then commitTry s n 0 else s

/-- The guidon commits, and tells the WG9 of its site; an agreement that waited AGREE_TMO delays the commit (R335). DEDUCED (244): here alone. -/
def guidonCommit (s : State) (t : SiteTab) (n delay : Nat) : State := commitTry (siteTell s t .commit [n, siteEpoch s]) n delay

/-- Judge the ACCEPTs (R329, step 3), unless a higher epoch was joined (R326). -/
def judgeAccepts (s : State) (t : SiteTab) : State :=
  match s.site.accepted, s.site.acceptAt with
  | some (n, e, d), some at' =>
    if e < s.site.joined then s else
    let got := s.site.accepts.filter (fun x => x.2 == (n, e, d) && bitOf (viewMask s) x.1)
    let mask := got.foldl (fun m x => m ||| 2 ^ x.1) 0
    if mask = viewMask s then guidonCommit s t n 0
    else if isQuorum t mask ∧ at' + t.agree ≤ s.tick.now then guidonCommit s t n (s.tick.now - at')
    else s
  | _, _ => s

/-- A round is held as accepted (R329). -/
def holdAccepted (s : State) (n e d : Nat) : State :=
  modSite (setFlag (set64 s R.SITE_ACCEPT_LO R.SITE_ACCEPT_HI n) R.SITE_ACCEPT_HI 16 true) (fun x => { x with accepted := some (n, e, d) })

/-- The site stands outside every quorum (R330). DEDUCED (246): it is no member of a view, or those it reaches form none. -/
def outside (s : State) (t : SiteTab) : Bool := siteState s != sMEMBER || !isQuorum t (reachMask s ||| 2 ^ t.self)

/-- The guidon sends ACCEPT, and from then holds the round as accepted, as every WG9 of its site does; a site outside every quorum sends none
(R329, R330). -/
def doAccept (s : State) (t : SiteTab) (n e d : Nat) : State :=
  if outside s t then s else
  let s0 := siteTell (holdAccepted s n e d) t .accept [n, e, d]
  let s2 := modSite s0 (fun x => { x with acceptAt := some s0.tick.now, accepts := x.accepts ++ [(t.self, n, e, d)] })
  judgeAccepts ((otherSites t (viewMask s2)).foldl (fun a i => siteSend a t .accept [n, e, d] i) s2) t

/-- Send JOIN to the proposer of an epoch. -/
def sendJoin (s : State) (t : SiteTab) (e : Nat) : State :=
  match siteIdx t (e % 256) with
  | some i => siteSend s t .join ([e, siteCommit s] ++ (match s.site.accepted with | some (n, x, d) => [1, n, x, d] | none => [0])) i
  | none => s

/-- Keep a promise (R322): it is copied to the alternate and waits for its acknowledgement; the alternate itself has no copy to
make. -/
def makePromise (s : State) (t : SiteTab) (p : Bool × Nat × Nat × Nat) : State :=
  let e := siteEnt t t.self
  if ownNode s = e.alt ∨ s.hlth.lost.contains e.alt then (if p.1 then doAccept s t p.2.2.1 p.2.1 p.2.2.2 else sendJoin s t p.2.1)
  else localMsg (modSite s (fun x => { x with promises := x.promises ++ [p] })) .promiseCopy e.alt [ofBool p.1, p.2.1, p.2.2.1, p.2.2.2]

/-- PROMISE_COPY at the alternate. -/
def promiseCopyOp (s : State) (p : Bool × Nat × Nat × Nat) : State :=
  match siteTab s with
  | some t => localMsg (modSite s (fun x => { x with kept := p :: x.kept })) .promiseAck (siteEnt t t.self).guidon [ofBool p.1, p.2.1, p.2.2.1, p.2.2.2]
  | none => s

/-- PROMISE_COPY_ACK at the guidon: the JOIN or ACCEPT goes, unless a higher epoch was joined meanwhile. -/
def promiseAckOp (s : State) (p : Bool × Nat × Nat × Nat) : State :=
  match siteTab s with
  | some t =>
    if s.site.promises.contains p then
      let s1 := modSite s (fun x => { x with promises := x.promises.erase p })
      if p.2.1 < s1.site.joined then s1
      else if p.1 then doAccept s1 t p.2.2.1 p.2.1 p.2.2.2 else sendJoin s1 t p.2.1
    else s
  | none => s

/-! ### READY and OFFER (R328, R329) -/

/-- Order result chunks by request and index. -/
def insResult (x : CResult) : List CResult → List CResult
  | [] => [x]
  | y :: t => if x.num < y.num ∨ (x.num = y.num ∧ x.chunk < y.chunk) then x :: y :: t else y :: insResult x t

/-- This WG9's shard index: 8 × group + position. -/
def shardIdx (s : State) : Nat := fld s R.HLT_ROLE 9 0 * 8 + fld s R.HLT_ROLE 12 10

/-- The shard digest of a round (R328). -/
def shardDigest (s : State) (n : Nat) : Nat :=
  let l := (s.coll.results.filter (fun x => x.round == n && x.held)).foldl (fun a x => insResult x a) []
  crc64 (bytesLE 2 s.job.id ++ bytesLE 2 (shardIdx s) ++ bytesLE 8 n ++ bytesLE 4 (siteEpoch s) ++ l.flatMap (fun x => bytesLE 8 x.crc))

/-- Shards of the site. -/
def siteShards (s : State) : Nat := 8 * s.hlth.groups.length

/-- The shard digests held for a round and epoch, in shard order; none until every one is there. -/
def shardDigests (s : State) (n e : Nat) : Option (List Nat) :=
  (List.range (siteShards s)).foldr (fun i acc => match acc, s.site.readys.find? (fun r => r.1 == n && r.2.1 == e && r.2.2.1 == i) with
    | some l, some r => some (r.2.2.2 :: l)
    | _, _ => none) (some [])

/-- Digests differ: the round has a chunk failure; the shard digests are exchanged (R329, step 2). -/
def offersDiffer (s : State) (t : SiteTab) (n e d : Nat) : State :=
  let s1 := modSite (bump s R.SITE_DIGEST_BAD) (fun x => { x with offerAt := none })
  (otherSites t (viewMask s1)).foldl (fun a i => siteSend a t .offer ([n, e, d] ++ (shardDigests s n e).getD []) i) s1

/-- Judge the OFFERs (R329, step 2), unless a higher epoch was joined (R326). -/
def judgeOffers (s : State) (t : SiteTab) : State :=
  let n := siteCommit s + 1
  let e := siteEpoch s
  if e < s.site.joined then s else
  match s.site.offerAt, s.site.offers.find? (fun x => x.1 == t.self && x.2.1 == n && x.2.2.1 == e) with
  | some at', some own =>
    let d := own.2.2.2
    let got := s.site.offers.filter (fun x => x.2.1 == n && x.2.2.1 == e && bitOf (viewMask s) x.1)
    let mask := got.foldl (fun m x => m ||| 2 ^ x.1) 0
    if mask ≠ viewMask s ∧ s.tick.now < at' + t.agree then s
    else if got.any (fun x => x.2.2.2 != d) then offersDiffer s t n e d
    else if isQuorum t mask then makePromise (modSite s (fun x => { x with offerAt := none })) t (true, e, n, d)
    else s
  | _, _ => s

/-- READY at the guidon; when every shard is there, the OFFER (R328, R329 step 1). -/
def readyOp (s : State) (n e shard d : Nat) : State :=
  match siteTab s with
  | some t =>
    if !isGuidon s ∨ e ≠ siteEpoch s ∨ n ≠ siteCommit s + 1 then s
    else
      let s1 := modSite s (fun x => { x with readys := (n, e, shard, d) :: x.readys.filter (fun r => !(r.1 == n && r.2.1 == e && r.2.2.1 == shard)) })
      match shardDigests s1 n e with
      | none => s1
      | some l =>
        let dig := crc64 (l.flatMap (bytesLE 8))
        let s2 := modSite s1 (fun x => { x with
          offerAt := some s1.tick.now
          offers := (t.self, n, e, dig) :: x.offers.filter (fun o => !(o.1 == t.self && o.2.1 == n)) })
        judgeOffers ((otherSites t (viewMask s2)).foldl (fun a i => siteSend a t .offer [n, e, dig] i) s2) t
  | none => s

/-- Every chunk of a round that is held has been acknowledged. -/
def allAcked (s : State) (n : Nat) : Bool := s.coll.results.all (fun x => x.round != n || x.acked)

/-- READY is sent once phase 7 is complete, every check is acknowledged and the recheck has passed (R328). -/
def readySettle (s : State) : State :=
  let n := s.job.round
  if !(s.job.held && s.job.phase == 7 && s.job.aborted.isNone && !s.job.readySent && s.job.rechecked && s.hlth.mirOut.isEmpty && allAcked s n) then s
  else match jobOcr s s.job.ocr, siteTab s with
    | some o, some t =>
      if s.job.residDone < o.elems then s
      else
        let s1 := { s with job := { s.job with readySent := true } }
        let d := shardDigest s1 n
        if isGuidon s1 then readyOp s1 n (siteEpoch s1) (shardIdx s1) d
        else localMsg s1 .ready (guidonNode s1 t) [n, siteEpoch s1, shardIdx s1, d]
    | _, _ => s

/-- This WG9's shard of a round differs from another site's: CHUNK_CORRUPT, and its round is aborted (R329, R231). -/
def shardFails (s : State) (n : Nat) : State :=
  flagAbort (raise (event (bump s R.COLL_CHK_FAIL) pgCOLL 1) pgCOLL fCHUNK_CORRUPT 0 0) n false

/-- Shard digests of another site at the guidon: those of ours that differ are no longer held, as their rounds are replayed (R329, step 2). -/
def shardsDiffer (s : State) (n e : Nat) (theirs : List Nat) : State :=
  match shardDigests s n e with
  | none => s
  | some ours =>
    let bad := (List.range ours.length).filter (fun i => nthD 0 ours i != nthD 0 theirs i)
    let s1 := modSite s (fun x => { x with readys := x.readys.filter (fun r => !(r.1 == n && bad.contains r.2.2.1)),
                                           offers := x.offers.filter (fun o => o.2.1 != n), offerAt := none })
    if bad.contains (shardIdx s) then shardFails s1 n else s1

/-- A shard digest of another site at a WG9 that is not the guidon: where it differs from its own, its shard's round is aborted (R329, step 2). -/
def ownShardDiffers (s : State) (n : Nat) (theirs : List Nat) : State :=
  if s.job.readySent ∧ s.job.round = n ∧ shardIdx s < theirs.length ∧ shardDigest s n ≠ nthD 0 theirs (shardIdx s) then shardFails s n else s

/-- OFFER at a guidon (R326, R329). -/
def offerOp (s : State) (t : SiteTab) (site n e d : Nat) (shards : List Nat) : State :=
  match siteIdx t site with
  | none => s
  | some i =>
    if e < s.site.joined then s
    else if !isGuidon s then ownShardDiffers s n shards
    else if !shards.isEmpty then shardsDiffer (siteTell s t .offer ([n, e, d] ++ shards)) n e shards
    else judgeOffers (modSite s (fun x => { x with offers := (i, n, e, d) :: x.offers.filter (fun o => !(o.1 == i && o.2.1 == n && o.2.2.1 == e)) })) t

/-- ACCEPT at a guidon; a WG9 of the site holds what its own guidon has accepted (R329, R331). -/
def acceptOp (s : State) (t : SiteTab) (site n e d : Nat) : State :=
  match siteIdx t site with
  | none => s
  | some i => if e < s.site.joined then s
    else if i = t.self then (if isGuidon s then s else holdAccepted s n e d)
    else judgeAccepts (modSite s (fun x => { x with accepts := (i, n, e, d) :: x.accepts.filter (fun o => !(o.1 == i && o.2.1 == n && o.2.2.1 == e)) })) t

/-- AGREE_TIMEOUT. -/
def agreeTimeoutOp (s : State) : State :=
  match siteTab s with
  | some t => if isGuidon s then judgeAccepts (judgeOffers s t) t else s
  | none => s

/-! ### Dips (R331) -/

/-- The site dips: the round in progress is aborted unless it is accepted, with no notice of it. -/
def dip (s : State) : State :=
  if siteState s = sDIPPED then s
  else
    let n := siteCommit s + 1
    let s1 := event (bump (setSite (raise s pgSITE fQUORUM_LOST 0 (siteCommit s)) sDIPPED) R.SITE_DIPS) pgSITE 1
    let s2 := postNotice s1 5 (siteCommit s1)
    let mine := decide (1 ≤ s2.job.phase) && decide (s2.job.phase ≤ 7)
    let s3 := if mine ∧ !(s2.site.accepted.any (fun a => a.1 == n)) ∧ s2.job.aborted.isNone then abortSteps s2 n else s2
    let s4 := if (mine ∨ s2.job.accepted) ∧ fld s3 R.SITE_LAG 1 0 = 0 then setFlag s3 R.SITE_LAG 2 true else s3
    modSite { s4 with job := { s4.job with holding := s4.job.holding || mine } } (fun x => { x with
      prop := none, wait := none, offerAt := none, asking := none, promises := x.promises.filter (fun p => !p.1) })

/-! ### Views (R324 to R327) -/

/-- The rest of a VIEW at this WG9, once it takes effect. -/
def viewNow (s : State) (t : SiteTab) (v : ViewMsg) : State :=
  let n := siteCommit s + 1
  let addsOnly := (viewMask s ||| v.view) == v.view && viewMask s != v.view && v.swaps.isEmpty
  let s1 := setN (setN (setN s R.SITE_EPOCH v.epoch) R.SITE_VIEW v.view) R.SITE_WEIGHT (weightOf t v.view + totalWeight t * 0x10000)
  let s2 := postNotice (event (bump s1 R.SITE_VIEWS) pgSITE 0) 4 n
  let decided := v.decided.any (fun d => d.1 == n)
  let running := decide (1 ≤ s2.job.phase) && decide (s2.job.phase ≤ 7) && s2.job.aborted.isNone
  let s3 := if running && !decided && !addsOnly then abortRound s2 n false else s2
  let s4 := admitSwaps (v.swaps.foldl (fun a w => swapNode a w.1 w.2) s3) v.swaps
  let inView (id : Nat) := match siteIdx t id with | some i => bitOf v.view i | none => false
  let s5 := s4.coll.groups.foldl (reloadGroup v.epoch inView v.swaps) s4
  let s6 := modSite s5 (fun x => { x with joined := max x.joined v.epoch, count := max x.count (v.epoch / 256), later := none, wait := none, swaps := [],
                                          prop := if x.prop.any (fun p => decide (v.epoch < p.epoch)) then x.prop else none,
                                          asked := x.asked.filter (fun i => !bitOf v.view i), offerAt := none })
  let s7 := setSite { s6 with job := { s6.job with holding := if siteState s = sHEALING ∨ siteState s = sDIPPED ∨ !v.swaps.isEmpty then false else s6.job.holding } } sMEMBER
  match v.decided with
  | some (k, d) =>
    if k ≠ n then s7
    else
      let own := if isGuidon s7 then s7.site.offers.any (fun o => o.1 == t.self && o.2.1 == n && o.2.2.2 == d) || s7.site.accepted.any (fun a => a.1 == n && a.2.2 == d)
        else s7.job.readySent
      if own then (if isGuidon s7 then guidonCommit s7 t n 0 else commitTry s7 n 0) else setSite s7 sHEALING
  | none => s7

/-- Phase 4 of the round in progress has begun: its first exchange. -/
def exchanging (s : State) : Bool := decide (4 ≤ s.job.phase) && decide (s.job.phase ≤ 7) && s.job.aborted.isNone

/-- A view names a site whose table differs from ours: it is never admitted (R320). -/
def badView (s : State) (view : Nat) : Bool := s.site.bad.any (bitOf view)

/-- A VIEW (R327): one whose members are no quorum is not valid (R324), and one that names a site with another table does not come into force
(R320); one that leaves this site out dips it; one that only adds a site waits for a round whose exchange has not begun. -/
def viewOp (s : State) (t : SiteTab) (v : ViewMsg) : State :=
  if v.epoch ≤ siteEpoch s then event s pgSITE 4
  else if !isQuorum t v.view ∨ badView s v.view then s
  else if !bitOf v.view t.self then dip s
  else
    let addsOnly := (viewMask s ||| v.view) == v.view && viewMask s != v.view && v.swaps.isEmpty
    let decided := v.decided.any (fun d => d.1 == siteCommit s + 1)
    if addsOnly ∧ exchanging s ∧ !decided then modSite s (fun x => { x with later := some v })
    else viewNow s t v

/-- Words of a VIEW message. -/
def viewFields (v : ViewMsg) : List Nat :=
  [v.epoch, v.view, v.committed] ++ (match v.decided with | some (n, d) => [1, n, d] | none => [0]) ++ v.swaps.flatMap (fun w => [w.1, w.2])

/-- The proposer installs its view once a quorum of V′ has joined (R326). -/
def tryInstall (s : State) (t : SiteTab) : State :=
  match s.site.prop with
  | none => s
  | some p =>
    let mask := p.joins.foldl (fun m j => m ||| 2 ^ j.1) 0 &&& p.view
    if p.epoch < s.site.joined ∨ !isQuorum t mask then s
    else
      let js := p.joins.filter (fun j => bitOf p.view j.1)
      let c := (js.map (·.2.1)).foldl max 0
      let acc := (js.filterMap (·.2.2)).filter (fun a => a.1 == c + 1)
      let best := acc.foldl (fun (b : Option (Nat × Nat × Nat)) a => match b with | some x => if x.2.1 < a.2.1 then some a else b | none => some a) none
      let v : ViewMsg := { epoch := p.epoch, view := p.view, committed := c, decided := best.map (fun b => (b.1, b.2.2)), swaps := s.site.swaps }
      let s1 := modSite s (fun x => { x with prop := none })
      let s2 := (otherSites t p.view).foldl (fun a i => siteSend a t .view (viewFields v) i) s1
      viewOp (siteTell s2 t .view (viewFields v)) t v

/-- Propose a view (R325): the count is one more than the highest seen. -/
def propose (s : State) (t : SiteTab) (view : Nat) : State :=
  let e := (s.site.count + 1) * 256 + ownSite t
  let p : Proposal := { epoch := e, view := view, joins := [(t.self, siteCommit s, s.site.accepted)], tick := s.tick.now }
  let s1 := modSite s (fun x => { x with count := x.count + 1, joined := e, prop := some p, wait := none })
  tryInstall ((otherSites t view).foldl (fun a i => siteSend a t .propose [e, view] i) s1) t

/-- The members that this guidon would now have: reachable sites of the view, and reachable sites outside it that have completed
healing; before the first view, every reachable site; each with this site's table and ARITH_REV (R101, R320). -/
def wantedView (s : State) (t : SiteTab) : Nat :=
  (List.range t.ents.length).foldl (fun m i =>
    let good := (bitOf (reachMask s) i && !s.site.bad.contains i && mapFind s.site.revs (siteEnt t i).id == some (regN s R.ARITH_REV)) || i == t.self
    let healed := s.site.asked.contains i && mapGet 0 s.site.committed i == siteCommit s
    if good && (bitOf (viewMask s) i || viewMask s == 0 || healed) then m ||| 2 ^ i else m) 0

/-- A set of members only adds to the view in force. -/
def adding (s : State) (v : Nat) : Bool := (viewMask s ||| v) == v && viewMask s != v

/-- A new view is wanted (R325): WG9 membership changes between rounds, or while an aborted round waits for its replay; a view that only adds
waits while a round is in exchange (157). -/
def viewWanted (s : State) (t : SiteTab) : Bool :=
  let v := wantedView s t
  isGuidon s && decide (siteState s ≤ sMEMBER) && isQuorum t v
    && (v != viewMask s || (!s.site.swaps.isEmpty && (s.job.phase == 0 || decide (8 ≤ s.job.phase) || s.job.aborted.isSome)))
    && !(adding s v && exchanging s)

/-- Propose, or wait for the site with the lowest id to do so. -/
def proposeIf (s : State) : State :=
  match siteTab s with
  | none => s
  | some t =>
    if !viewWanted s t then modSite s (fun x => { x with wait := none })
    else if s.site.prop.any (fun p => p.view == wantedView s t) ∨ s.site.later.isSome then s
    else if lowestId t (wantedView s t) = ownSite t then propose s t (wantedView s t)
    else if s.site.wait.isNone then modSite s (fun x => { x with wait := some s.tick.now }) else s

/-- VIEW_TIMEOUT (R325, R326). -/
def viewTimeoutOp (s : State) : State :=
  match siteTab s with
  | none => s
  | some t =>
    let due (at' : Nat) := decide (at' + t.view ≤ s.tick.now)
    if viewWanted s t ∧ s.site.later.isNone ∧ (s.site.prop.any (fun p => due p.tick) ∨ (s.site.prop.isNone ∧ s.site.wait.any due)) then propose s t (wantedView s t)
    else s

/-- A guidon joins an epoch (R326). -/
def joinEpoch (s : State) (t : SiteTab) (e : Nat) : State :=
  makePromise (modSite s (fun x => { x with joined := e, offerAt := none, asking := none })) t (false, e, 0, 0)

/-- PROPOSE at a guidon (R326): it joins no view that names a site with another table (R320); of one that only adds it waits for the round in
exchange, which an epoch joined now would leave undecided (R327, 157). -/
def proposeOp (s : State) (t : SiteTab) (e view : Nat) : State :=
  let s1 := modSite s (fun x => { x with count := max x.count (e / 256) })
  if e ≤ s1.site.joined ∨ badView s1 view then s1
  else if adding s1 view ∧ exchanging s1 then
    modSite s1 (fun x => { x with asking := if x.asking.any (fun p => decide (e ≤ p.1)) then x.asking else some (e, view) })
  else joinEpoch s1 t e

/-- A view, or a PROPOSE, that waited for the round in exchange. -/
def viewSettle (s : State) : State :=
  match siteTab s with
  | none => s
  | some t =>
    if exchanging s then s
    else
      let s1 := match s.site.asking with
        | some (e, view) => proposeOp (modSite s (fun x => { x with asking := none })) t e view
        | none => s
      match s1.site.later with
      | some v => if v.epoch ≤ siteEpoch s1 then modSite s1 (fun x => { x with later := none }) else viewNow s1 t v
      | none => s1

/-- JOIN at the proposer, of a site with this ARITH_REV (R101). -/
def joinOp (s : State) (t : SiteTab) (site e committed : Nat) (acc : Option (Nat × Nat × Nat)) : State :=
  match s.site.prop, siteIdx t site with
  | some p, some i =>
    if e ≠ p.epoch ∨ mapFind s.site.revs site ≠ some (regN s R.ARITH_REV) then s
    else tryInstall (modSite s (fun x => { x with prop := some { p with joins := (i, committed, acc) :: p.joins.filter (fun j => j.1 != i) } })) t
  | _, _ => s

/-! ### Reachability (R323) -/

/-- BEACON_SEND: every 125 ticks, a guidon. -/
def beaconSendOp (s : State) : State :=
  match siteTab s with
  | some t =>
    if isGuidon s ∧ s.site.lastBeacon.all (fun x => decide (x + 125 ≤ s.tick.now)) then
      let s1 := modSite s (fun x => { x with lastBeacon := some s.tick.now })
      (otherSites t (2 ^ 32 - 1)).foldl (fun a i => siteSend a t .beacon
        ([t.crc, s.site.joined, siteCommit s] ++ (match s.site.grant with | some g => [g] | none => [])) i) s1
    else s
  | none => s

/-- A dipped site that can reach a quorum again asks to join and becomes HEALING, at its guidon and at every WG9 that this tells (R333). -/
def healIf (s : State) (t : SiteTab) : State :=
  if siteState s = sDIPPED ∧ isGuidon s ∧ isQuorum t (reachMask s ||| 2 ^ t.self) then
    let s1 := siteTell (setN (setSite s sHEALING) R.SITE_HEAL 0) t .joinReq [siteCommit s]
    (otherSites t (2 ^ 32 - 1)).foldl (fun a i => siteSend a t .joinReq
      ([siteCommit s] ++ (match s.site.accepted with | some x => [1, x.1] | none => [0])) i) s1
  else s

/-- Two guidons granted an expulsion in the same evaluation: the higher site id's is refused (R351). -/
def grantTie (s : State) (t : SiteTab) (site : Nat) (grant : Option Nat) : State :=
  match s.site.given, grant with
  | some (g, node), some h =>
    if g = h ∧ site < ownSite t then
      let s1 := modSite s (fun x => { x with given := none })
      localMsg { s1 with hlth := { s1.hlth with hoists := s1.hlth.hoists.filter (fun w => w.1 != node) } } .expulsionAnswer node [0]
    else s
  | _, _ => s

/-- BEACON (R320, R323, R340). -/
def beaconOp (s : State) (t : SiteTab) (site crc joined committed : Nat) (grant : Option Nat) : State :=
  match siteIdx t site with
  | none => s
  | some i =>
    let s1 := modSite s (fun x => { x with
      heard := mapPut x.heard i s.tick.now
      committed := mapPut x.committed i committed
      count := max x.count (joined / 256)
      grant := (match x.grant, grant with | some a, some b => some (max a b) | none, g => g | g, none => g) })
    let s2 := setN s1 R.SITE_REACH (reachMask s1 ||| 2 ^ i)
    if crc ≠ t.crc then
      let s3 := bump s2 R.SITE_TAB_BAD
      if s3.site.bad.contains i then s3 else raise (modSite s3 (fun x => { x with bad := insNat x.bad i })) pgSITE fSITE_CONFIG 0 site
    else proposeIf (healIf (grantTie s2 t site grant) t)

/-- SITE_UNREACHABLE: no BEACON for LOSS_TICKS, counted from the job's start for a site never heard. -/
def unreachableOp (s : State) (site : Nat) : State :=
  match siteTab s with
  | none => s
  | some t =>
    match siteIdx t site with
    | none => s
    | some i =>
      if i = t.self ∨ s.tick.now < mapGet s.site.since s.site.heard i + t.loss then s
      else
        let s1 := if bitOf (reachMask s) i then raise (setN s R.SITE_REACH (reachMask s - 2 ^ i)) pgSITE fSITE_LOST 0 site else s
        if !isQuorum t (reachMask s1 ||| 2 ^ t.self) then dip s1 else proposeIf s1

/-! ### Healing (R333, R334) -/

/-- JOIN_REQ at a guidon; the lowest-id guidon of the view replies with the committed round. A site whose attestation report names another
ARITH_REV is refused (R101, R102). -/
def joinReqOp (s : State) (t : SiteTab) (site : Nat) (acc : Option Nat) (arithRev : Nat) : State :=
  match siteIdx t site with
  | none => s
  | some i =>
    if i = t.self then (if siteState s = sDIPPED ∧ !isGuidon s then setN (setSite s sHEALING) R.SITE_HEAL 0 else s)
    else if arithRev ≠ regN s R.ARITH_REV then siteSend s t .joinRefused [cPOLICY] i
    else
    let s1 := modSite s (fun x => { x with asked := insNat x.asked i })
    if siteState s = sMEMBER ∧ lowestId t (viewMask s) = ownSite t then
      let dig := acc.bind (fun n => (s.site.digests.find? (fun d => d.1 == n)).map (·.2))
      siteSend s1 t .healReply ([siteCommit s] ++ (match dig with | some d => [d] | none => [])) i
    else s1

/-- Copy the residual that one round reads into the region that another reads (R333). -/
def copyResidual (s : State) (from' to' : Nat) : State :=
  match jobOcr s s.job.ocr with
  | some o =>
    if residRead o from' = residRead o to' then s
    else let r := readSegs0 [(residRead o from', 4 * o.elems)] s
      writeSegs0 [(residRead o to', 4 * o.elems)] r.1 r.2
  | none => s

/-- Zero the residual region that a round reads, slice by slice. -/
def zeroResidual (s : State) (n : Nat) : State :=
  match jobOcr s s.job.ocr with
  | some o => writeSegs0 [(residRead o n, 4 * o.elems)] (List.replicate (4 * o.elems) 0) s
  | none => s

/-- The site takes the state of round c′ and pushes it. -/
def takeRound (s : State) (c : Nat) : State :=
  let s1 := modSite (set64 s R.SITE_COMMIT_LO R.SITE_COMMIT_HI c) (fun x => { x with fetch := none })
  pushState { s1 with job := { s1.job with commit := c, round := c, accepted := false, aborted := none, aborts := 0, holding := false, abortDue := none } }

/-- A fetch of the state of round c′ begins, or begins again: the outer gate is open for what lands (R161, R334), and the residual that round
c′ + 1 reads is the site's own or zero (R333). -/
def startFetch (s : State) (c : Nat) (carry : Bool) : State :=
  let s1 := endFetches (outerGate s true) (fun r => r.root != r.grp.self)
  let s2 := if carry then copyResidual s1 (siteCommit s1 + 1) (c + 1) else zeroResidual s1 (c + 1)
  modSite { s2 with job := { s2.job with phase := 0, accepted := false } } (fun x => { x with fetch := some { round := c, carry := carry } })

/-- Everything that a fetch brings has come: the outer parameters, the momentum and, under the power method, the carry of its round. -/
def fetchWhole (s : State) (f : Fetch) : Bool :=
  match jobParts s with
  | some (o, ps) =>
    rangeIn f.got o.outer (4 * o.elems) && rangeIn f.got o.mom (4 * o.elems)
      && (!(isPower o) || (ps.filter (fun p => p.rank != 0)).all (fun p => rangeIn f.got (partAddr o p (qsOf f.round)) (partBytes o p (qsOf f.round))))
  | none => false

/-- A fetch that is whole gives the site its round, which it pushes (R333). -/
def fetchSettle (s : State) : State :=
  match s.site.fetch with
  | some f => if fetchWhole s f then takeRound s f.round else s
  | none => s

/-- HEAL_REPLY (R333, R334): the outcome of the heal. A later round of the view starts a fetch under way again. -/
def healReplyOp (s : State) (c' : Nat) (dig : Option Nat) : State :=
  if siteState s ≠ sHEALING then s
  else if fld s R.SITE_HEAL 1 0 ≠ 0 then
    match s.site.fetch with
    | some f =>
      if f.round < c' then startFetch (setFld s R.SITE_HEAL 31 16 (min 65535 (fld s R.SITE_HEAL 31 16 + 1))) c' f.carry else s
    | none =>
      if siteCommit s < c' then startFetch (setFld s R.SITE_HEAL 31 16 (min 65535 (fld s R.SITE_HEAL 31 16 + 1))) c' (fld s R.SITE_HEAL 1 0 == 2) else s
  else
    let n := siteCommit s + 1
    let s1 := match s.site.accepted with
      | some (r, _, d) => if r = n ∧ n ≤ c' ∧ dig = some d then commitRound s n 0 else s
      | none => s
    let c := siteCommit s1
    let m := c' - c
    let force := flag s1 R.SITE_POLICY 0
    let out := if 2 ≤ m ∨ force then 3 else if m = 1 then 2 else 1
    let s2 := postNotice (event (setFlag (setN s1 R.SITE_HEAL (out + min m 255 * 256)) R.SITE_LAG 2 false) pgSITE 2) 6 c'
    if out = 1 then { s2 with job := { s2.job with holding := false } }
    else if out = 2 then startFetch s2 c' true
    else
      let s3 := if s2.job.accepted ∨ (1 ≤ s2.job.phase ∧ s2.job.phase ≤ 7) then
        postNotice (jobNotice s2 .roundAborted 1 (c + 1) [cABORTED]) 2 (c + 1) else s2
      if m = 0 then takeRound (zeroResidual s3 (c' + 1)) c' else startFetch s3 c' false

/-! ### The round at this WG9 (R18, R26, R29, R233) -/

/-- The round next to begin. -/
def nextRound (s : State) : Nat := s.job.commit + 1

/-- SNAP_READY (R26, R332). DESIGN CHOICE (220): the notice for the next round with base n − 1 and the right count, before PUSH_DONE of
round n − 1 has been sent, is refused. -/
def snapReadyOp (s : State) (m : SnapReady) : State :=
  let n := m.round.toNat
  let c := s.job.commit
  let answer (a : State) (code : Nat) := jobNotice a .snapAccept 3 n [code]
  let s0 := if siteState s = sDIPPED ∧ n = siteCommit s + fld s R.SITE_LAG 1 0 + 1 then setFlag s R.SITE_LAG 2 true else s
  if !s.job.held ∨ m.job.toNat ≠ s.job.id then answer s cPOLICY
  else if m.baseRound.toNat + 1 < n ∧ s.job.pushed + 1 < n then answer s0 cBUSY
  else if m.baseRound.toNat + 1 = n ∧ (siteTab s).any (fun t => m.steps.toNat == t.h) then
    if n ≠ nextRound s ∨ s.job.pushed ≠ c then answer s cPOLICY
    else if s.job.phase ≠ 0 ∨ s.job.accepted then answer s0 cSERVED
    else answer { s0 with job := { s0.job with accepted := true, memberHold := true, reenter := false } } cSERVED
  else answer s cPOLICY

/-- A member-mode tile is in flight: admitted at a hop, and not completed. -/
def memberBusy (s : State) : Bool :=
  s.strm.slots.any (fun e => e.2.member && e.2.tiles.any (fun t => t.admitted.isSome && t.doneTick.isNone))

/-- SNAPSHOT_PULL_START (R18, R29): the tiles have drained; the clusters take the roles of the round's map, and phase 1 begins.
A line path step's wide guards end with the new round's plan (R316). -/
def pullStartOp (s : State) : State :=
  if s.job.held ∧ s.job.accepted ∧ s.job.phase = 0 ∧ !(memberBusy s) ∧ s.job.pushed = s.job.commit then
    let s1 := rebindAll { s with job := { s.job with accepted := false, phase := 1, round := nextRound s, readySent := false, rechecked := false, exchanged := 0, made := [], staged := [],
                                                     residDone := 0, aborts := 0, aborted := none, gone := s.job.gone.erase (nextRound s), contributors := 1 } }
    let s2 := if flag s1 R.TIME_STAT 0 then (List.range 2).foldl (fun a md => setFlag a (keyB R.OCU_STEER_CFG md) 0 false) s1 else s1
    mirrorFlag { s2 with hlth := { s2.hlth with mirOut := [], mirChunks := [] } }
  else s

/-- MEMBER_MODE_REENTER (R29). -/
def reenterOp (s : State) : State :=
  if s.job.reenter then { s with job := { s.job with reenter := false, memberHold := false } } else s

/-- ROUND_REPLAY (R233): the aborted round begins again from the held snapshot, unless the job holds. -/
def replayOp (s : State) : State :=
  match s.job.aborted with
  | some k =>
    if s.job.holding ∨ !s.job.held then s
    else { s with job := { s.job with aborted := none, gone := s.job.gone.erase s.job.round, phase := if k = 1 then 1 else 2 } }
  | none => s

/-- The push completes (R27), once the apply has written every unit (R345): PUSH_DONE, the outer gate closes (R161), and member mode may
be entered again. -/
def pushSettle (s : State) : State :=
  if s.job.held ∧ s.job.phase = 8 ∧ applySettled s then
    match jobOcr s s.job.ocr with
    | some o =>
      if s.job.pushedBytes < 2 * o.elems then s
      else
        let n := s.job.commit
        let s1 := postNotice (jobNotice (outerGate s false) .pushDone 1 n [2 * o.elems]) 3 n
        { s1 with job := { s1.job with pushed := n, phase := 0, reenter := true } }
    | none => s
  else s

/-- Send to the partner the result chunks of a round that are acknowledged and not yet sent (R344). -/
def mirrorChunks (s : State) (n : Nat) : State :=
  let fresh := s.coll.results.filter (fun x => x.round == n && x.acked && x.held && !s.hlth.mirChunks.contains (x.num, x.chunk))
  fresh.foldl (fun a x =>
    let r := readSegs0 x.segs a
    let a1 := mirrorSend r.2 false a.hlth.mirChunks.length x.crc
      (bytesLE 2 x.group ++ bytesLE 1 x.oper ++ bytesLE 1 x.fmt ++ bytesLE 4 0 ++ bytesLE 8 x.round ++ bytesLE 8 x.chunk ++ bytesLE 8 r.1.length) r.1
    { a1 with hlth := { a1.hlth with mirChunks := a1.hlth.mirChunks ++ [(x.num, x.chunk)] } }) s

/-- Result chunks newly acknowledged in phases 6 and 7 are mirrored. -/
def mirrorSettle (s : State) : State :=
  if isData s ∧ partner s ≠ 0 ∧ 6 ≤ s.job.phase ∧ s.job.phase ≤ 7 ∧ s.job.aborted.isNone then mirrorChunks s s.job.round else s

end Sys2Proof.Machine
end

