-- ==== Sys2Proof/Machine/Health.lean ====
section
/-!
DEFINITION. The health score, expulsion and half-mast, heartbeats and lost members, hoists and adoption (R337 to R351), and a
die-to-die link that narrows (R37).
-/
namespace Sys2Proof.Machine

/-! ### Die-to-die links (R35, R37) -/

/-- The far end of a link of a field die: (die, field) of its register, where the far end is a field die. Links: 0 west,
1 east, 2 vertical. -/
def linkFar (die link : Nat) : Option (Nat × Nat) :=
  if link = 2 then some ((die + 4) % 8, 2)
  else if link = 0 then (if die % 4 = 0 then none else some (die - 1, 1))
  else (if die % 4 = 3 then none else some (die + 1, 0))

/-- A link by the lower of the field dies at its ends (R35). -/
def linkKey (die link : Nat) : Nat :=
  match linkFar die link with
  | some (d, l) => min (die * 3 + link) (d * 3 + l)
  | none => die * 3 + link

/-- Show a link's state on the pages of its ends (R45); a link at half width is kept as narrowed (R37). -/
def putLink (s : State) (die link st : Nat) : State :=
  let put (a : State) (d l : Nat) := setFld a (R.FLD_D2D_STAT + 0x1000 * d) (8 * l + 1) (8 * l) st
  let s0 : State := if st = 3 then { s with store := { s.store with narrow := insNat s.store.narrow (linkKey die link) } } else s
  let s1 := put s0 die link
  match linkFar die link with
  | some (d, l) => put s1 d l
  | none => s1

/-- Show how many of a link's lanes are replaced. -/
def putRepaired (s : State) (die link n : Nat) : State :=
  let put (a : State) (d l : Nat) := setFld a (R.FLD_D2D_STAT + 0x1000 * d) (8 * l + 7) (8 * l + 2) n
  let s1 := put s die link
  match linkFar die link with
  | some (d, l) => put s1 d l
  | none => s1

/-- The fourteen links, each once, by one field die and link of it (R35). -/
def allLinks : List (Nat × Nat) :=
  (List.range 8).map (fun d => (d, 0)) ++ [(3, 1), (7, 1)] ++ (List.range 4).map (fun d => (d, 2))

/-- A link narrows to half width: D2D_DEGRADE. -/
def d2dDegradeOp (s : State) (die link : Nat) : State := raise (putLink s die link 3) (0x10 + die) fD2D_DEGRADE link 0

/-- Links at HALF, each counted once. -/
def halfLinks (s : State) : Nat :=
  let st (d l : Nat) := fld s (R.FLD_D2D_STAT + 0x1000 * d) (8 * l + 1) (8 * l) == 3
  ((List.range 8).map (fun d => ofBool (st d 0) + ofBool (d % 4 == 3 && st d 1) + ofBool (decide (d < 4) && st d 2))).sum

/-! ### The score (R337 to R339) -/

/-- A port meets a condition of an adverse trend (R338): 0 to 3 fabric, 4 and 5 line. -/
def trendCond (s : State) (p : Nat) : Bool :=
  let n := fld s R.HLT_BER 3 0
  if p < 4 then
    let total := fld s R.HLT_EVAL 23 0 * (portRate s p * 8 / 10)
    decide (0 < nthD 0 s.hlth.symbols p) && decide (total ≤ nthD 0 s.hlth.symbols p * 10 ^ n)
  else
    let md := p - 4
    let o := ocuMod s md
    let bias := fld s (keyB R.OCU_MON md) 31 16
    let pw := signedOf 16 (fld s (keyB R.OCU_MON md) 15 0)
    (match o.bias0 with | some b => decide (0 < b) && decide (110 * b ≤ 100 * bias) | none => false)
      || (match nthD none o.litPower o.rxDir with | some x => moduleLit s md && decide (pw + 300 ≤ x) | none => false)
      || (decide (0 < o.preFec) && decide (10 ^ 12 ≤ o.preFec * 10 ^ n))

/-- One evaluation of a port's trend. -/
def trendStep (c : Bool) (t : Trend) : Trend :=
  if c then { bad := min 60 (t.bad + 1), good := 0, adverse := t.adverse || decide (60 ≤ t.bad + 1) }
  else { bad := 0, good := min 60 (t.good + 1), adverse := t.adverse && decide (t.good + 1 < 60) }

/-- Banks with no repair left, plus retired clusters. -/
def repairCount (s : State) : Nat := (s.store.bankLeft.filter (fun b => b.2 == 0)).length + s.store.retired.length

/-- The count of a state input, none for an event input. -/
def stateInput (s : State) (i : Nat) : Option Nat :=
  if i = 2 then some (s.hlth.trends.filter (·.adverse)).length
  else if i = 3 then some (halfLinks s)
  else if i = 6 then some (repairCount s)
  else none

/-- Decay an event input and add its events. -/
def decay (k n d : Nat) : Nat := d - d / 2 ^ k + 256 * n

/-- The penalty of an input, and the integer part of A; A is in 1/256. -/
def penalty (s : State) (i a256 : Nat) : Nat :=
  let w := fld s (keyB R.HLT_WEIGHT i) 15 0
  min (fld s (keyB R.HLT_WEIGHT i) 31 16) (w * a256 / 4096)

/-- Show HLT_INPUT of one input. -/
def showInput (s : State) (x : Nat × Nat) : State :=
  setN s (keyB R.HLT_INPUT x.1) (min 65535 (x.2 / 256) + penalty s x.1 x.2 * 0x10000)

/-- HLT_STAT.STATE. -/
def hltState (s : State) : Nat := fld s R.HLT_STAT 18 16

/-! ### Expulsion and half-mast (R340, R341) -/

/-- Spares that are listed, present and not taken. -/
def freeSpares (s : State) : List Nat := s.hlth.spares.filter (fun n => !s.hlth.taken.contains n && !s.hlth.lost.contains n)

/-- Live hoist is permitted (R349): every site holds every shard. -/
def liveHoist (s : State) (t : SiteTab) : Bool := decide (siteShards s * t.ents.length ≤ 256)

/-- The partner of a data member. -/
def partnerOf (s : State) (node : Nat) : Nat :=
  match dataPlace s.hlth.groups node with
  | some (g, k) => (match s.hlth.groups[g]? with | some x => nthD 0 x.partner k | none => 0)
  | none => 0

/-- The conductor of a hoist: the departing member's partner, or where that is lost the first living data member of the group
(R347, R351). -/
def conductorOf (s : State) (node : Nat) : Nat :=
  let p := partnerOf s node
  if !s.hlth.lost.contains p then p
  else match dataPlace s.hlth.groups node with
    | some (g, _) => (match s.hlth.groups[g]? with
      | some x => (x.data.find? (fun d => d != node && !s.hlth.lost.contains d)).getD p
      | none => p)
    | none => p

/-- What the conductor's rebuild of a departing member's state meets (R346). -/
def rebuildState (s : State) (node : Nat) : State :=
  match jobParts s, dataPlace s.hlth.groups node with
  | some (o, ps), some (g, _) =>
    let units := partUnits o ps s.job.commit
    let lost := match s.hlth.groups[g]? with | some x => (x.data.filter (fun d => s.hlth.lost.contains d || d == node)).length | none => 0
    let s1 := event (bumpBy s R.HLT_REBUILT units.sum) pgHLT 4
    if 3 ≤ lost then
      bumpBy (raise (raise s1 pgHLT fGROUP_LOST 0 g) pgHLT fRESID_LOST 0 node) R.HLT_RESID_LOST (nthD 0 units 2)
    else if s1.hlth.lost.contains (partnerOf s1 node) ∧ reg64 s1 R.HLT_PROT_LO R.HLT_PROT_HI < s1.job.commit then
      let f := drawFree s1
      bumpBy (raise f.2 pgHLT fRESID_LOST 0 node) R.HLT_RESID_LOST (f.1 % (nthD 0 units 2 + 1))
    else s1
  | _, _ => s

/-- Mirder rebuilds this WG9's own uncorrectable words of OUTER regions from the survivors of its erasure group, or, where three or more
of the group are lost, from another site (R164, R346): each word is written whole with the committed state that it held. -/
def brokenSettle (s : State) : State :=
  if s.hlth.broken.isEmpty then s
  else
    let s0 := { s with hlth := { s.hlth with broken := [] } }
    match (if isData s then ownGroup s else none) with
    | none => s0
    | some g =>
      let s1 := event (s.hlth.broken.foldl eccClear s0) pgHLT 4
      if 2 ≤ (g.data.filter (fun d => s.hlth.lost.contains d)).length then raise s1 pgHLT fGROUP_LOST 0 (fld s R.HLT_ROLE 9 0) else s1

/-- A departing WG9 is to be replaced (R347, R349): the first available spare is taken, or its shard is adopted by its partner. -/
def replaceNode (s : State) (node : Nat) : State :=
  match siteTab s with
  | none => s
  | some t =>
    let s0 := if conductorOf s node = ownNode s then rebuildState s node else s
    match (if liveHoist s0 t then freeSpares s0 else []) with
    | sp :: _ =>
      let s1 := { s0 with hlth := { s0.hlth with taken := insNat s0.hlth.taken sp, hoists := (node, sp) :: s0.hlth.hoists.filter (fun h => h.1 != node) } }
      if sp = ownNode s1 then setN s1 R.HLT_HOIST 1 else if isGuidon s1 then localMsg s1 .hoistChosen sp [node, sp] else s1
    | [] =>
      if (dataPlace s0.hlth.groups node).isNone then s0
      else
        let s1 := { s0 with hlth := { s0.hlth with adopted := insNat s0.hlth.adopted node } }
        if isGuidon s1 then proposeIf (modSite s1 (fun x => { x with swaps := x.swaps ++ [(node, conductorOf s1 node)] })) else s1

/-- The guidon's answer reaches the WG9 that asked: EXPELLING, or half-mast (R341). -/
def expulsionAnswered (s : State) (granted : Bool) : State :=
  if granted then setFld s R.HLT_STAT 18 16 3
  else
    let s1 := bump s R.HLT_DENIED
    if hltState s1 = 2 then s1
    else postNotice (event { setFld s1 R.HLT_STAT 18 16 2 with hlth := { s1.hlth with sound := 0 } } pgHLT 1) 7 s1.job.commit

/-- The guidon judges a request (R340). -/
def expulsionJudge (s : State) (node : Nat) : State :=
  let free := s.site.grant.all (fun g => decide (g + regN s R.HLT_EXP_INT ≤ s.tick.now))
  let ok := free && !(freeSpares s).isEmpty
  let s1 := if ok then modSite s (fun x => { x with grant := some s.tick.now, given := some (s.tick.now, node) }) else s
  let s2 := if node = ownNode s then expulsionAnswered s1 ok else localMsg s1 .expulsionAnswer node [ofBool ok]
  if ok then replaceNode s2 node else s2

/-- EXPULSION_REQUEST: the request at the guidon, or the guidon's answer. -/
def expulsionOp (s : State) (node : Nat) (answer : Option Bool) : State :=
  if !s.job.held then s
  else match answer with
    | none => if isGuidon s then expulsionJudge s node else s
    | some b => if node = ownNode s then expulsionAnswered s b else if b then replaceNode s node else s

/-- Ask for this WG9's expulsion. -/
def requestExpulsion (s : State) : State :=
  match siteTab s with
  | some t => if isGuidon s then expulsionJudge s (ownNode s) else localMsg s .expulsionRequest (guidonNode s t) [ownNode s]
  | none => s

/-- HEALTH_EVAL (R337 to R341). -/
def healthEvalOp (s : State) : State :=
  if s.tick.now < s.hlth.lastEval + fld s R.HLT_EVAL 23 0 then s
  else
    let k := fld s R.HLT_EVAL 28 24
    let trends := s.hlth.trends.zipIdx.map (fun x => trendStep (trendCond s x.2) x.1)
    let d := (List.range 9).map (fun i => decay k (nthD 0 s.hlth.events i) (nthD 0 s.hlth.d i))
    let s1 := { s with hlth := { s.hlth with d := d, trends := trends, events := List.replicate 9 0, symbols := [0, 0, 0, 0], lastEval := s.tick.now } }
    let a := (List.range 9).map (fun i => (i, match stateInput s1 i with | some c => 256 * c | none => nthD 0 d i))
    let score := 1000 - (a.map (fun x => penalty s1 x.1 x.2)).sum
    let s2 := setFld (a.foldl showInput s1) R.HLT_STAT 10 0 score
    let thr := fld s2 R.HLT_THR 10 0
    let low := decide (score < thr)
    let was := fld s2 R.HLT_STAT 23 20
    let s3 := setFld s2 R.HLT_STAT 23 20 (if low then min 8 (was + 1) else 0)
    let st := hltState s3
    let s4 := if st = 0 ∧ low then event (setFld s3 R.HLT_STAT 18 16 1) pgHLT 0
      else if st = 1 ∧ !low then setFld s3 R.HLT_STAT 18 16 0 else s3
    let s5 := if low ∧ was = 7 ∧ st ≤ 1 then requestExpulsion (raise s4 pgHLT fHEALTH_LOW 0 score)
      else if low ∧ st = 2 then requestExpulsion s4 else s4
    if st = 2 ∧ hltState s5 = 2 then
      let n := if thr + fld s5 R.HLT_THR 26 16 ≤ score then s5.hlth.sound + 1 else 0
      let s6 := { s5 with hlth := { s5.hlth with sound := n } }
      if 8 ≤ n then setFld s6 R.HLT_STAT 18 16 0 else s6
    else s5

/-! ### Heartbeats and lost members (R342) -/

/-- HEARTBEAT_SEND: every 125 ticks, to the guidon and the partner. -/
def heartbeatSendOp (s : State) : State :=
  match siteTab s with
  | some t =>
    if s.hlth.lastBeat.all (fun x => decide (x + 125 ≤ s.tick.now)) then
      let to' := ([guidonNode s t, partner s].filter (fun n => n != 0 && n != ownNode s)).eraseDups
      to'.foldl (fun a n => localMsg a .heartbeat n [ownNode s]) { s with hlth := { s.hlth with lastBeat := some s.tick.now } }
    else s
  | none => s

/-- HEARTBEAT; a WG9 that was lost and replaced joins the site's spares (R407). -/
def heartbeatOp (s : State) (node : Nat) : State :=
  let s1 := { s with hlth := { s.hlth with beats := mapPut s.hlth.beats node s.tick.now, lost := s.hlth.lost.filter (· ≠ node) } }
  if s.job.held ∧ s.hlth.lost.contains node ∧ !(s.hlth.spares.contains node) ∧ (dataPlace s.hlth.groups node).isNone then
    writeProt { s1 with hlth := { s1.hlth with spares := s1.hlth.spares ++ [node] } }
  else s1

/-- The alternate takes the guidon's place, with the promises copied to it (R322): it counts its messages on from the site's, and awaits the
ACCEPTs of a round that was accepted. -/
def takeOver (s : State) : State :=
  let s1 := setFlag s R.SITE_STATE 21 true
  let acc := s1.site.kept.find? (fun p => p.1 && p.2.2.1 == siteCommit s1 + 1)
  let s2 := modSite s1 (fun x => { x with
    joined := x.kept.foldl (fun m p => max m p.2.1) x.joined
    sent := (x.seen.filter (fun m => (siteTab s1).any (fun t => m.1 == ownSite t))).foldl (fun k m => max k (m.2 + 1)) x.sent
    acceptAt := if acc.isSome then some s1.tick.now else x.acceptAt
    accepted := match acc with | some p => some (p.2.2.1, p.2.1, p.2.2.2) | none => x.accepted })
  match acc with
  | some p => setFlag (set64 s2 R.SITE_ACCEPT_LO R.SITE_ACCEPT_HI p.2.2.1) R.SITE_ACCEPT_HI 16 true
  | none => s2

/-- A WG9 of the site that may be this member's partner (R343, R344): the first available spare, else any other. -/
def newPartner (s : State) : Option Nat :=
  let data := match ownGroup s with | some g => g.data | none => []
  (freeSpares s).head?.or ((siteNodes s).find? (fun n => n != ownNode s && !data.contains n && !s.hlth.lost.contains n))

/-- Mirror a committed round again, whose protection is not complete. -/
def remirror (s : State) : State :=
  let s1 := mirrorChunks { s with hlth := { s.hlth with mirChunks := [], mirOut := [] } } s.job.commit
  match jobOcr s1 s1.job.ocr with
  | some o => let r := readSegs0 [(residWrite o s1.job.commit, 4 * o.elems)] s1
    mirrorSend r.2 true 0 (crc64 r.1) [] r.1
  | none => s1

/-- The partner is lost (R344): a round in phases 6 or 7 is aborted; a new partner is bound. -/
def partnerLost (s : State) (node : Nat) : State :=
  if !isData s ∨ partner s ≠ node ∨ node = 0 then s
  else
    let s1 := if 6 ≤ s.job.phase ∧ s.job.phase ≤ 7 then flagAbort s s.job.round false else s
    match newPartner s1, ownGroup s1 with
    | some p, some g =>
      let k := fld s1 R.HLT_ROLE 12 10
      let s2 := { s1 with hlth := { s1.hlth with groups := setAt g s1.hlth.groups (fld s1 R.HLT_ROLE 9 0) { g with partner := setAt 0 g.partner k p } } }
      let s3 := showRole (writeProt s2)
      if (8 ≤ s3.job.phase ∨ s3.job.phase = 0) ∧ s3.hlth.round = s3.job.commit ∧ reg64 s3 R.HLT_PROT_LO R.HLT_PROT_HI ≠ s3.job.commit then remirror s3 else s3
    | _, _ => { s1 with job := { s1.job with holding := true } }

/-- The lost WG9 is a PRESENT member of a round group: the round is aborted, and replayed after a hoist or adoption (R231). -/
def roundMemberLost (s : State) (node : Nat) : State :=
  if 1 ≤ s.job.phase ∧ s.job.phase ≤ 7 ∧ s.coll.groups.any (fun e => bitOf e.2.flags 1 && (memberOfNode e.2 node).isSome) then
    let s1 := flagAbort s s.job.round false
    { s1 with job := { s1.job with holding := true } }
  else s

/-- MEMBER_LOST (R342): no heartbeat for 1,250 ticks, or the WG9's own Mirder reports a chip reset or FAULT_N. -/
def memberLostOp (s : State) (node : Nat) (reported : Bool) : State :=
  match siteTab s with
  | none => s
  | some t =>
    if node = ownNode s ∨ s.hlth.lost.contains node ∨ !(siteNodes s).contains node
        ∨ (!reported ∧ s.tick.now < mapGet 0 s.hlth.beats node + 1250) then s
    else
      let s1 := { s with hlth := { s.hlth with lost := insNat s.hlth.lost node } }
      let e := siteEnt t t.self
      let s2 := if node = e.guidon ∧ ownNode s1 = e.alt then takeOver s1 else s1
      let s3 := if isGuidon s2 then raise s2 pgHLT fMEMBER_LOST 0 node else s2
      replaceNode (roundMemberLost (partnerLost s3 node) node) node

/-! ### Hoists at the spare (R347) -/

/-- HOIST_SELFTEST_DONE. -/
def hoistTestOp (s : State) (node : Nat) (pass : Bool) : State :=
  let mine := node == ownNode s
  if pass then (if mine ∧ fld s R.HLT_HOIST 2 0 = 1 then outerGate (setN s R.HLT_HOIST 2) true else s)
  else
    let s1 := if mine ∧ fld s R.HLT_HOIST 2 0 = 1 then setN s R.HLT_HOIST 5 else s
    let s2 := if mine ∨ isGuidon s1 then raise s1 pgHLT fHOIST_FAIL 0 node else s1
    match s2.hlth.hoists.find? (fun h => h.2 == node) with
    | some (d, _) => replaceNode { s2 with hlth := { s2.hlth with hoists := s2.hlth.hoists.filter (fun h => h.2 != node) } } d
    | none => s2

/-- HOIST_LOAD_DONE: the spare is READY; its guidon proposes the epoch that admits it (R348). -/
def hoistLoadOp (s : State) (node : Nat) : State :=
  let s1 := if node = ownNode s ∧ fld s R.HLT_HOIST 2 0 = 2 then
      let a := postNotice (event (setN (outerGate s (s.job.phase == 8)) R.HLT_HOIST (3 + 0xFFFF0000)) pgHLT 3) 8 s.job.commit
      match siteTab a with | some t => if isGuidon a then a else localMsg a .hoistReady (guidonNode a t) [node] | none => a
    else s
  match s1.hlth.hoists.find? (fun h => h.2 == node) with
  | some h => if isGuidon s1 ∧ !s1.site.swaps.contains h then proposeIf (modSite s1 (fun x => { x with swaps := x.swaps ++ [h] })) else s1
  | none => s1

end Sys2Proof.Machine
end

