-- ==== Sys2Proof/Machine/Lms.lean ====
section
/-!
DEFINITION. The signatures of boot and identity (R415, R418, R420): verification of LMS and HSS over SHA-256 with 32-byte
nodes, as RFC 8554 gives it. PRESUMED: the chapters name the standard and do not restate it.
-/
namespace Sys2Proof.Machine

/-- An LM-OTS type of 32-byte hashes: w, p, ls. -/
def otsType (t : Nat) : Option (Nat × Nat × Nat) :=
  if t = 1 then some (1, 265, 7) else if t = 2 then some (2, 133, 6) else if t = 3 then some (4, 67, 4)
  else if t = 4 then some (8, 34, 0) else none

/-- An LMS type of 32-byte nodes: its height. -/
def lmsHeight (t : Nat) : Option Nat := if 5 ≤ t ∧ t ≤ 9 then some (5 * (t - 4)) else none

/-- The i-th w-bit digit of a string, most significant first. -/
def digitW (l : List Byte) (i w : Nat) : Nat := (nthD 0 l (i * w / 8)).toNat / 2 ^ (8 - (w * (i % (8 / w)) + w)) % 2 ^ w

/-- The checksum of a hash. -/
def otsSum (q : List Byte) (w ls : Nat) : Nat := ((List.range (256 / w)).map (fun i => 2 ^ w - 1 - digitW q i w)).sum * 2 ^ ls

/-- A chain from digit a to the end, for index i. -/
def otsChain (pre : List Byte) (i : Nat) : Nat → Nat → List Byte → List Byte
  | 0, _, x => x
  | n + 1, j, x => otsChain pre i n (j + 1) (sha256 (pre ++ bytesBE 2 i ++ bytesBE 1 j ++ x))

/-- The public key that a one-time signature implies for a message under identifier `pre` = I ‖ q. -/
def otsCandidate (pre sig m : List Byte) (w p ls : Nat) : List Byte :=
  let q := sha256 (pre ++ bytesBE 2 0x8181 ++ sliceBytes sig 4 32 ++ m)
  let v := q ++ bytesBE 2 (otsSum q w ls)
  let zs := (List.range p).map (fun i => let a := digitW v i w; otsChain pre i (2 ^ w - 1 - a) a (sliceBytes sig (36 + 32 * i) 32))
  sha256 (pre ++ bytesBE 2 0x8080 ++ zs.flatten)

/-- Climb the authentication path to the root. -/
def lmsClimb (ident : List Byte) : List (List Byte) → Nat → List Byte → List Byte
  | [], _, x => x
  | y :: t, n, x =>
    let pre := ident ++ bytesBE 4 (n / 2) ++ bytesBE 2 0x8383
    lmsClimb ident t (n / 2) (sha256 (if n % 2 = 1 then pre ++ y ++ x else pre ++ x ++ y))

/-- The length of an LMS signature of these types. -/
def lmsSigLen (p h : Nat) : Nat := 4 + (36 + 32 * p) + 4 + 32 * h

/-- The types of an LMS public key: (w, p, ls) and the height. -/
def lmsTypes (pub : List Byte) : Option ((Nat × Nat × Nat) × Nat) :=
  match otsType (beAt pub 4 4), lmsHeight (beAt pub 0 4) with
  | some o, some h => some (o, h)
  | _, _ => none

/-- An LMS signature verifies under a 56-byte public key. -/
def lmsVerify (pub m sig : List Byte) : Bool :=
  match lmsTypes pub with
  | some ((w, p, ls), h) =>
    let q := beAt sig 0 4
    let ident := sliceBytes pub 8 16
    let ots := sliceBytes sig 4 (36 + 32 * p)
    let tail := sig.drop (4 + 36 + 32 * p)
    pub.length == 56 && sig.length == lmsSigLen p h && beAt ots 0 4 == beAt pub 4 4 && beAt tail 0 4 == beAt pub 0 4
      && decide (q < 2 ^ h)
      && (let kc := otsCandidate (ident ++ bytesBE 4 q) ots m w p ls
          let leaf := sha256 (ident ++ bytesBE 4 (2 ^ h + q) ++ bytesBE 2 0x8282 ++ kc)
          lmsClimb ident ((List.range h).map (fun i => sliceBytes tail (4 + 32 * i) 32)) (2 ^ h + q) leaf == sliceBytes pub 24 32)
  | none => false

/-- The levels of an HSS signature below the first, under a key; the last signs the message. -/
def hssLevels (m : List Byte) : Nat → List Byte → List Byte → Bool
  | 0, pub, sig => lmsVerify pub m sig
  | n + 1, pub, sig =>
    match lmsTypes pub with
    | some ((_, p, _), h) =>
      let len := lmsSigLen p h
      let next := sliceBytes sig len 56
      lmsVerify pub next (sig.take len) && hssLevels m n next (sig.drop (len + 56))
    | none => false

/-- An HSS signature verifies under a 60-byte public key of one or two levels. -/
def hssVerify (key m sig : List Byte) : Bool :=
  let levels := beAt key 0 4
  key.length == 60 && (levels == 1 || levels == 2) && beAt sig 0 4 + 1 == levels && hssLevels m (levels - 1) (key.drop 4) (sig.drop 4)

end Sys2Proof.Machine
end

