-- ==== Sys2Proof/Machine/Power.lean ====
section
/-!
DEFINITION. Thermal throttle, the power limiter and the HBM refresh rate (R435 to R438). Temperatures are in thousandths of a
degree, currents in milliamperes, powers in milliwatts: the resolutions are the model's.
-/
namespace Sys2Proof.Machine

/-- The page of power. -/
abbrev pgPWR : Nat := 0x98

/-- Update power. -/
def modPwr (s : State) (f : PwrSt → PwrSt) : State := { s with pwr := f s.pwr }

/-- An error wire no longer asserts: its level shows in FLT_WIRE_RAW; the latch stays (R374). -/
def wireReleases (s : State) (b : Nat) : State := setFlag s R.FLT_WIRE_RAW b false

/-! ### Levels -/

/-- The level each die runs at (R436). -/
def levelsOf (p : PwrSt) : List Nat := (List.range 8).map (fun d => max (nthD {} p.dies d).kT p.kP)

/-- The levels come into force: the tick's clocks, PWR_THM, the tick's marks, and a health event for each die whose level rose
(R337, R435, R436). -/
def showLevels (s : State) : State :=
  let new := levelsOf s.pwr
  let rises := (List.range 8).filter (fun d => decide (nthD 0 s.tick.level d < nthD 0 new d))
  let s1 := rises.foldl (fun a _ => healthEvent a 7) s
  let s2 := { s1 with tick := { s1.tick with level := new, levelMin := List.zipWith min s1.tick.levelMin new, levelMax := List.zipWith max s1.tick.levelMax new },
                      pwr := { s1.pwr with thr := s1.pwr.thr || s1.pwr.dies.any (fun d => decide (0 < d.kT)),
                                           lim := s1.pwr.lim || decide (0 < s1.pwr.kP) } }
  (List.range 8).foldl (fun a d => setFld (setFld a (keyB R.PWR_THM d) 19 16 (nthD {} a.pwr.dies d).kT) (keyB R.PWR_THM d) 23 20 a.pwr.kP) s2

/-- A die's next state at a sample of temperature t (R435): the gradient over the last ten samples, and the state. -/
def thermalStep (cfg t : Nat) (d : Thermal) : Int × Thermal :=
  let hot := bitsOf cfg 7 0 * 1000
  let hyst := bitsOf cfg 11 8 * 1000
  let lim : Int := bitsOf cfg 15 12 * 1000
  let ago : Option Nat := d.temps[9]?
  let g : Int := match ago with | some b => (t : Int) - (b : Int) | none => 0
  let n := d.count
  let far (o : Option Nat) : Bool := o.all (fun x => decide (x + 10 ≤ n))
  let up := decide (lim < g) && far d.grad
  let above := decide (hot ≤ t) && far d.limit
  let k1 := min 15 (d.kT + 2 * ofBool up + ofBool above)
  let calm := decide (t + hyst < hot) && decide (g ≤ 0)
  let fall := calm && d.calm.any (fun x => decide (x + 100 ≤ n))
  (g, { kT := if fall then k1 - 1 else k1, temps := (t :: d.temps).take 10, count := n + 1,
        grad := if up then some n else d.grad, limit := if above then some n else d.limit,
        calm := if !calm then none else if fall then some n else some (d.calm.getD n),
        trip := decide (bitsOf cfg 23 16 * 1000 ≤ t) })

/-- The trip wire of the field dies follows their sensors (R435, R437). -/
def tripWire (s : State) : State :=
  if s.pwr.dies.any (fun d => d.trip) then wireAsserts s 11 0 else if flag s R.FLT_WIRE_RAW 11 then wireReleases s 11 else s

/-- THERMAL_SAMPLE of a die: the readings of its sensors (R435). -/
def thermalOp (s : State) (die : Nat) (temps : List Nat) : State :=
  match temps with
  | [] => s
  | x :: rest =>
    let t := rest.foldl max x
    let old := nthD {} s.pwr.dies die
    let (g, d) := thermalStep (regN s R.PWR_THM_CFG) t old
    let s1 := modPwr s (fun p => { p with dies := setAt {} p.dies die d })
    let s2 := setFld (setFld s1 (keyB R.PWR_THM die) 7 0 (min 255 (t / 1000))) (keyB R.PWR_THM die) 15 8 (unsignedOf 8 (max (-128) (min 127 (g / 1000))))
    let s3 := eventIf s2 (decide (old.kT < d.kT)) pgPWR 1
    tripWire (showLevels s3)

/-- A die's thermal history starts afresh (R435). -/
def restartThermal (s : State) (die : Nat) : State :=
  showLevels (modPwr s (fun p => { p with dies := setAt {} p.dies die {} }))

/-! ### The limiter (R436) -/

/-- k_P rises. -/
def raiseLimit (s : State) (n : Nat) : State :=
  let k := min 15 (s.pwr.kP + n)
  let s1 := eventIf s (decide (s.pwr.kP < k)) pgPWR 2
  showLevels (modPwr s1 (fun p => { p with kP := k }))

/-- CURRENT_SAMPLE of VDD_FLD. -/
def currentOp (s : State) (ma : Nat) : State :=
  let s1 := setFld s (keyB R.PWR_RAIL 0) 31 16 (ma / 1000)
  if 1700000 < ma then raiseLimit (modPwr s1 (fun p => { p with surge := true })) 4 else s1

/-- The 1-second average in milliwatts: over the last 1,000 windows, or over as many as have ended. -/
def meanPower (l : List Nat) : Nat := if l.isEmpty then 0 else l.sum / l.length

/-- POWER_WINDOW_END: an aligned window of 125 ticks has ended at this boundary. -/
def windowEndOp (s : State) (mw : Nat) : State :=
  if s.tick.now % 125 = 0 ∧ s.pwr.lastWin < s.tick.now then
    let ws := (mw :: s.pwr.windows).take 1000
    let above := decide (fld s R.PWR_LIMIT 11 0 * 1000 * ws.length < ws.sum)
    let surge := s.pwr.surge
    let s1 := modPwr s (fun p => { p with windows := ws, lastWin := s.tick.now, surge := false })
    let s2 := setFld s1 R.PWR_WATTS 11 0 (min 4095 (meanPower ws / 1000))
    let s3 := setFld s2 R.PWR_WATTS 27 16 (max (fld s2 R.PWR_WATTS 27 16) (min 4095 (mw / 1000)))
    if above then raiseLimit s3 1
    else if surge then s3
    else showLevels (modPwr s3 (fun p => { p with kP := p.kP - 1 }))
  else s

/-! ### The boundary -/

/-- A stack's refresh rate at its reported temperature (R438). -/
def heatStep (t : Nat) (h : StackHeat) : StackHeat :=
  let u85 := if t + 2 ≤ 85 then h.under85 + 1 else 0
  let u95 := if t + 2 ≤ 95 then h.under95 + 1 else 0
  { two := decide (85 ≤ t) || (h.two && decide (u85 < 125)), four := decide (95 ≤ t) || (h.four && decide (u95 < 125)),
    under85 := min 125 u85, under95 := min 125 u95, trip := decide (105 ≤ t) }

/-- The code of PWR_HBM_REF. -/
def heatCode (h : StackHeat) : Nat := if h.four then 2 else if h.two then 1 else 0

/-- Every stack at a boundary, with the temperatures reported in the tick; in P1 and P2 the stacks refresh themselves. -/
def refreshBoundary (s : State) (reports : List (Nat × Nat)) : State :=
  let s0 := reports.foldl (fun a r => if r.1 < 16 then setFld a (R.HBM_STAT + r.1 * 0x1000) 15 8 (min 255 r.2) else a) s
  if s.pwr.state ≠ 0 then s0
  else
    let s1 := (List.range 16).foldl (fun a i =>
      let old := nthD {} a.pwr.heat i
      let h := heatStep (fld a (R.HBM_STAT + i * 0x1000) 15 8) old
      let a1 := setFld (modPwr a (fun p => { p with heat := setAt {} p.heat i h })) R.PWR_HBM_REF (2 * i + 1) (2 * i) (heatCode h)
      eventIf a1 (decide (heatCode old < heatCode h)) pgPWR 3) s0
    if s1.pwr.heat.any (fun h => h.trip) then wireAsserts s1 13 0 else if flag s1 R.FLT_WIRE_RAW 13 then wireReleases s1 13 else s1

/-- The ticks of throttle are counted (PWR_THR_TICKS, PWR_LIMIT_TICKS). -/
def powerBoundary (s : State) : State :=
  let s1 := if s.pwr.thr then bump s R.PWR_THR_TICKS else s
  let s2 := if s.pwr.lim then bump s1 R.PWR_LIMIT_TICKS else s1
  modPwr s2 (fun p => { p with thr := p.dies.any (fun d => decide (0 < d.kT)), lim := decide (0 < p.kP) })

end Sys2Proof.Machine
end

