-- ==== Sys2Proof/Machine/Seal.lean ====
section
/-!
DEFINITION. The keyed check service: SEAL's operations and key slots (R299 to R303, R428).
-/
namespace Sys2Proof.Machine

/-- A SEAL slot. -/
def sealSlot (s : State) (k : Nat) : Option SealSlot := mapFind s.ciph.seals k

/-- Update a SEAL slot. -/
def putSeal (s : State) (k : Nat) (x : SealSlot) : State := { s with ciph := { s.ciph with seals := mapPut s.ciph.seals k x } }

/-- The mark in secure flash for a slot: the SHA-256 of its key, and the last counter reserved. -/
def sealMark (s : State) (k : Nat) : List Byte × Nat := mapGet ([], 0) s.ciph.marks k

/-- Update a mark. -/
def putMark (s : State) (k : Nat) (m : List Byte × Nat) : State := { s with ciph := { s.ciph with marks := mapPut s.ciph.marks k m } }

/-- A stream's batch. -/
def putBatch (s : State) (slot : Nat) (b : SealBatch) : State := { s with ciph := { s.ciph with batches := mapPut s.ciph.batches slot b } }

/-- A stream's batch ends. -/
def endBatch (s : State) (slot : Nat) : State := { s with ciph := { s.ciph with batches := mapDel s.ciph.batches slot } }

/-- A batch that is refused whole: its tiles complete REFUSED_POLICY through LAST, and no record is written (R300). -/
def refusedBatch (check : Bool) : SealBatch := { check := check, addr := 0, record := [], key := [] }

/-- Take a MAKE's counter (R300, R428): the mark goes 2^20 counters ahead before the first of them is used. -/
def takeCounter (s : State) (k : Nat) (x : SealSlot) : State :=
  let m := sealMark s k
  let s1 := if m.2 < x.ctr then putMark s k (m.1, x.ctr + 1048575) else s
  putSeal s1 k { x with ctr := x.ctr + 1 }

/-- Begin a batch at its first tile: read its record and take its key; a MAKE forms its IV (R299, R300). -/
def beginBatch (check : Bool) (c : Access) (t : Tile) : HopM SealBatch :=
  (refAddr t.desc.dst).andThen fun p =>
  (hopReq (p.1 % 64 == 0) cPOLICY).andThen fun _ =>
  (hopKey c true p.2 p.1 64).andThen fun _ =>
  (hopRead c p.1 64).andThen fun rec s =>
    let k := leAt rec 0 1 % 8
    match sealSlot s k with
    | none => (.ok (refusedBatch check), s)
    | some x =>
      if check then (.ok { check := true, addr := p.1, record := rec, key := x.key, kslot := k, handle := p.2 }, s)
      else if x.ctr = 0xFFFFFFFFFFFFFFFF then (.ok (refusedBatch check), s)
      else
        let r := rec.take 8 ++ sliceBytes rec 4 4 ++ bytesBE 8 x.ctr ++ rec.drop 20
        (.ok { check := false, addr := p.1, record := r, key := x.key, kslot := k, handle := p.2 }, takeCounter s k x)

/-- Take a tile's bytes into the running hash. -/
def sealAbsorb (b : SealBatch) (bs : List Byte) : SealBatch :=
  let all := b.rest ++ bs
  let n := all.length / 16 * 16
  let h := ghKey (aesKeys (natsOf b.key))
  { b with y := ghRun h b.y (natsOf (all.take n)), rest := all.drop n, bytes := b.bytes + bs.length }

/-- The tag of a batch, under the IV of its record. -/
def sealTag (b : SealBatch) : List Byte :=
  let ks := aesKeys (natsOf b.key)
  let h := ghKey ks
  bytesOf (gcmTag ks (natsOf (sliceBytes b.record 8 12)) h (ghRun h b.y (natsOf b.rest)) b.bytes 0)

/-- The record at a batch's end: the tag of a MAKE, and the bytes covered. -/
def sealRecord (b : SealBatch) (tag : List Byte) : List Byte :=
  b.record.take 20 ++ (if b.check then sliceBytes b.record 20 16 else tag) ++ bytesLE 8 b.bytes ++ sliceBytes b.record 44 20

/-- End a batch at its LAST tile (R299, R300). -/
def closeBatch (slot : Nat) (c : Access) (b : SealBatch) (t : Tile) : HopM Tile := fun s =>
  let tag := sealTag b
  match hopWrite c b.handle b.addr (sealRecord b tag) (endBatch s slot) with
  | (.error e, s1) => (.error e, s1)
  | (.ok _, s1) =>
    if b.check then
      let s2 := bump s1 R.SEAL_CHECKED
      if tag = sliceBytes b.record 20 16 then (.ok t, s2)
      else (.error cCORRUPT, raise (event (bump s2 R.SEAL_MISMATCH) pgSEAL 0) pgSEAL fSEAL_MISMATCH 0 b.addr)
    else (.ok t, bump s1 R.SEAL_MADE)

/-- The batch under way to which a tile belongs: none when a LAST tile that failed on its way here stood between them (R299). -/
def batchOf (s : State) (slot : Nat) (st : Stream) (t : Tile) : Option SealBatch :=
  match mapFind s.ciph.batches slot with
  | some b => if st.lasts.any (fun q => decide (b.seq < q) && decide (q < t.desc.seq)) then none else some b
  | none => none

/-- The work of MAKE and CHECK (R299 to R302). A tile that cannot be read refuses the rest of its batch. -/
def sealWork (check : Bool) (slot : Nat) (st : Stream) (t : Tile) : HopM Tile := fun s =>
  let c := accessOf st t
  let last := bitOf t.desc.attr 2
  let out (e : Nat) (a : State) : Except Nat Tile × State :=
    (.error e, if last then endBatch a slot else putBatch a slot { refusedBatch check with seq := t.desc.seq })
  if !inRun s pgSEAL then out cPOLICY s
  else
    let r : Except Nat SealBatch × State := match batchOf s slot st t with
      | some b => (.ok b, s)
      | none => beginBatch check c t s
    match r with
    | (.error e, s1) => out e s1
    | (.ok b, s1) =>
      if b.key.isEmpty then out cPOLICY s1
      else match hopInput c t s1 with
        | (.error e, s2) => out e s2
        | (.ok bs, s2) =>
          let b1 := { sealAbsorb b bs with seq := t.desc.seq }
          let t1 := { t with data := some bs, outLen := bs.length }
          if last then closeBatch slot c b1 t1 s2 else (.ok t1, putBatch s2 slot b1)

/-! ### Key slots (R301) -/

/-- Complete a SEAL command. -/
def sealDone (s : State) (code : Nat) : State := event (result s R.SEAL_RES code) pgSEAL 2

/-- Install a key with its starting counter: BUSY into a VALID slot; REFUSED_POLICY for the same key without a start above its
mark. -/
def sealInstall (s : State) (k : Nat) (key : List Byte) (start : Nat) : Nat × State :=
  let h := sha256 key
  let m := sealMark s k
  if (sealSlot s k).isSome then (cBUSY, s)
  else if m.1 = h ∧ start ≤ m.2 then (cPOLICY, s)
  else (cSERVED, putSeal (if m.1 = h then s else putMark s k (h, start - 1)) k { key := key, ctr := start })

/-- A command written to SEAL_CMD: 1 INSTALL, 2 ERASE. -/
def sealCmd (s : State) (op v : Nat) : State :=
  let k := bitsOf v 6 4
  if flag s R.SEAL_RES 0 then s
  else if op = 1 then
    let (code, s1) := sealInstall s k (keyBytes s R.SEAL_KEY0) (reg64 s R.SEAL_CTR_LO R.SEAL_CTR_HI)
    sealDone (clearRegs s1 R.SEAL_KEY0 10) code
  else if op = 2 then sealDone (event { s with ciph := spoilBatches (· == k) { s.ciph with seals := mapDel s.ciph.seals k } } pgSEAL 1) cSERVED
  else if op = 0 then s
  else sealDone s cPOLICY

/-- A write of SEAL_CMD from a window. -/
def sealCmdWrite (s : State) (w : Win) (op v : Nat) : State := if mayWrite s w R.SEAL_CMD then sealCmd s op v else s

/-- The job's SEAL key of a slot (R428). -/
def jobSealKey (master : List Byte) (k : Nat) : List Byte :=
  hkdf [] master (([0x57, 0x47, 0x39, 0x2D, 0x53, 0x45, 0x41, 0x4C] : List Byte) ++ [BitVec.ofNat 8 k]) 32

/-- Where a reinstall of a slot starts: this WG9's range, beyond the slot's mark when it is the same key. -/
def sealStart (s : State) (k : Nat) (key : List Byte) : Nat :=
  let base := fld s R.GLB_NODE 15 0 * seq48
  let m := sealMark s k
  if m.1 = sha256 key then max base (m.2 + 1) else base

/-- Mirder (re)installs the job's SEAL keys in every slot (R428). -/
def installSeals (s : State) (master : List Byte) : State :=
  (List.range 8).foldl (fun a k =>
    let key := jobSealKey master k
    (sealInstall { a with ciph := { a.ciph with seals := mapDel a.ciph.seals k } } k key (sealStart a k key)).2) s

end Sys2Proof.Machine
end

