-- ==== Sys2Proof/Machine/Blocks.lean ====
section
/-!
DEFINITION. The block state machine (R400 to R402), with what each chapter adds to it, and the ends of targeted tests (R165,
R379).
-/
namespace Sys2Proof.Machine

/-! ### Lasting faults (R165, R379) -/

/-- A cluster is retired: the tiles on it start again on others (R127), CL_SERVICE falls, its scratchpad becomes a hole at the next
boundary, and a round whose data stand in its scratchpad aborts (R165). DESIGN CHOICE (234): those are the data that a hop of the round
staged there; a tile it works on has none of them but restarts. -/
def retireCluster (s : State) (die c : Nat) : State :=
  let k := die * 40 + c
  if s.store.retired.contains k then s
  else
    let s0 := restartTiles s die c
    let s1 := { s0 with store := { s0.store with retired := insNat s0.store.retired k } }
    let n := 40 - (s1.store.retired.filter (fun x => x / 40 == die)).length
    let s2 := setFld s1 (R.FLD_CLUSTERS + die * 0x1000) 13 8 n
    if s.job.staged.contains k then flagAbort s2 s.job.round false else s2

/-- Correct a row's correctable errors as its contents are copied. -/
def correctRow (s : State) (row : Nat) : State :=
  { s with store := { s.store with ecc := s.store.ecc.filter (fun e => !(decide (row ≤ e.1) && decide (e.1 < row + 512) && e.2 == .ce)) } }

/-- SRAM_MARCH fails on the row of a local address (R165): a spare row takes its place, or the cluster is retired; a hoist SRAM
row is removed from use. -/
def sramLasting (s : State) (addr : Nat) : State :=
  let row := addr / 512 * 512
  let pl := placeOf addr
  if pl < 8 then
    let c := pl * 40 + placeOff addr / 0x400000
    let used := mapGet 0 s.store.spares c
    if s.store.substituted.contains row ∧ used = 32 then retireCluster s pl (c % 40)
    else if used < 32 then
      let s1 := correctRow s row
      { s1 with store := { s1.store with spares := mapPut s1.store.spares c (used + 1), substituted := insNat s1.store.substituted row } }
    else retireCluster s pl (c % 40)
  else if s.store.removed.contains row then s
  else
    let s1 := { s with store := { s.store with removed := insNat s.store.removed row } }
    if placeOff addr < p0Bytes s then
      let h := mkHandle 0 (pl - 8) (placeOff row / 256)
      bumpBy (unlinkCell (unlinkCell s1 h) (h + 1)) R.POOL_RETIRED 2
    else bumpBy s1 R.POOL_RETIRED 1

/-- Repairs of a stack that no bank seen so far holds: what the stack reports in all, less those of the banks seen. -/
def unseenRepairs (s : State) (stack : Nat) : Nat :=
  mapGet 0 s.store.stackLeft stack - ((s.store.bankLeft.filter (fun e => e.1 / 65536 == stack)).map (·.2)).sum

/-- Repairs left in the bank of a stack offset: as reported, else free among those that the stack reports beside the banks seen. -/
def bankRepairs (s : State) (stack off : Nat) : Nat × State :=
  let k := stack * 65536 + Config.hbmBank off % 65536
  match mapFind s.store.bankLeft k with
  | some n => (n, s)
  | none =>
    let (v, s1) := drawFree s
    let n := v % (unseenRepairs s stack + 1)
    (n, { s1 with store := { s1.store with bankLeft := mapPut s1.store.bankLeft k n } })

/-- ROW_MARCH fails on a row of a stack (R165): post-package repair, or HBM_REPAIR_OUT. -/
def hbmLasting (s : State) (stack off : Nat) : State :=
  let pg := stack * 0x1000
  let s0 := event s (0x20 + stack) 2
  let k := stack * 65536 + Config.hbmBank off % 65536
  let (left, s1) := bankRepairs s0 stack off
  if left = 0 then raise (event s1 (0x20 + stack) 3) (0x20 + stack) fHBM_REPAIR_OUT 0 off
  else
    let life := mapGet 0 s1.store.lifeDone stack + 1
    let all := mapGet 0 s1.store.stackLeft stack - 1
    let s2 := { s1 with store := { s1.store with bankLeft := mapPut s1.store.bankLeft k (left - 1), lifeDone := mapPut s1.store.lifeDone stack life,
                                                 stackLeft := mapPut s1.store.stackLeft stack all } }
    setN s2 (R.HBM_REPAIR + pg) (min 65535 life + min 65535 all * 65536)

/-- An error is classed lasting: counted in FLT_LASTING and in the LASTING input (R379). -/
def noteLasting (s : State) : State := healthEvent (event (bump s R.FLT_LASTING) 0x81 3) 8

/-- The port, lane and direction of a CONTEXT of LANE_DEGRADE, as a lane key. -/
def ctxLane (ctx : Nat) : Nat := laneKey (bitsOf ctx 2 0) (bitsOf ctx 4 3) (bitOf ctx 5)

/-- The storage key whose row a ROW_MARCH of a record's unit marches. -/
def marchLasting (s : State) (src addr : Nat) : State :=
  if 0x20 ≤ src ∧ src ≤ 0x2F then hbmLasting s (src - 0x20) addr
  else if src = 0x48 then
    match (if hPool addr = 0 then some (bufAddr s addr) else resolve s (bufAddr s addr) 1) with
    | some k => if isHbm k then hbmLasting s (stackOf (k / 0x2000000000) (k % 0x2000000000)) (stackOff (k % 0x2000000000)) else sramLasting s k
    | none => s
  else s

/-- What a lasting error of a source brings, by the test that found it (R379): 1 ROW_MARCH, 2 SRAM_MARCH, 3 KAT, 4 LANE_PRBS. -/
def lastingOf (s : State) (src test ctx addr : Nat) : State :=
  if test = 1 then marchLasting s src addr
  else if test = 2 then sramLasting s addr
  else if test = 3 then
    if 0x10 ≤ src ∧ src ≤ 0x17 then retireCluster s (src - 0x10) ctx else requestExpulsion s
  else if test = 4 ∧ src = pgLDLV then { s with line := { s.line with failed := insNat s.line.failed (ctxLane ctx) } }
  else s

/-- The station whose instances a source's KAT withdraws. -/
def katStation (src : Nat) : Nat := if src = 0x40 then stEXPAND else if src = 0x41 then stCODEC else stREDUCE

/-- TEST_DONE (R379): the test running for a source ends. -/
def testDoneOp (s : State) (src : Nat) (pass : Bool) : State :=
  let d := fltDyn s src
  match d.test with
  | none => s
  | some (test, ctx, addr) =>
    let s1 := setFltDyn s src { d with test := none }
    let s2 := setFld (setFlag s1 (fltSum src) 1 false) (fltSum src) 3 2 (if pass then 1 else 2)
    let s3 := if fld s2 R.FLT_TEST 16 5 = src then setFld s2 R.FLT_TEST 4 3 (if pass then 2 else 3) else s2
    let s4 := if test = 3 then { s3 with stn := { s3.stn with testing := s3.stn.testing.filter (fun i => i % 16 != katStation src) } } else s3
    let s5 := if 0x20 ≤ src ∧ src ≤ 0x2F then setFld s4 (R.HBM_ERR_INFO + (src - 0x20) * 0x1000) 3 2 (if pass then 1 else 2) else s4
    if pass then s5 else lastingOf (noteLasting s5) src test ctx addr

/-! ### The state machine (R401) -/

/-- Write BLK_CTRL.ENABLE. -/
def setEnable (s : State) (page : Nat) (b : Bool) : State := setFlag s (hdr page oCTRL) 0 b
/-- PEND_EN, PEND_DIS. -/
def setPendEn (s : State) (page : Nat) (b : Bool) : State := setFlag s (hdr page oSTAT) 3 b
/-- PEND_DIS. -/
def setPendDis (s : State) (page : Nat) (b : Bool) : State := setFlag s (hdr page oSTAT) 4 b

/-- A block is OFF. -/
def isOff (s : State) (page : Nat) : Bool := blkState s page == bOFF

/-- A physical range of a die touches a stack: some 4 KiB block of it lies there (R155). -/
def onStack (stack phys n : Nat) : Bool :=
  let first := phys / 4096
  let last := (phys + n - 1) / 4096
  n != 0 && (decide (first < last) || first % 2 == stack % 2)

/-- An HBM stack has a region mapped onto it (R167). -/
def stackMapped (s : State) (stack : Nat) : Bool :=
  (regionsNow s).any (fun r => r.2.valid && ((r.2.mode == 2 && onStack stack r.2.phys (sliceLen r.2))
    || (r.2.mode == 1 && r.2.die == stack / 2 && onStack stack r.2.phys r.2.len)))

/-- DRAIN and ENABLE = 0 are ignored on a page, as its chapter says. -/
def drainIgnored (s : State) (page : Nat) : Bool :=
  if neverLeavesRun page then true
  else if 0x20 ≤ page ∧ page ≤ 0x2F then stackMapped s (page - 0x20)
  else if (0x10 ≤ page ∧ page ≤ 0x17) ∨ page = 0x40 ∨ page = 0x42 ∨ page = 0x48 ∨ page = 0x50 ∨ page = 0x51 ∨ page = 0xB0 then !isOff s pgSTRM
  else if page = pgGRP ∨ page = pgSITE ∨ page = pgHLT then !isOff s pgCOLL
  else if page = 0x60 ∨ page = 0x61 then !isOff s pgLDLV
  else if page = pgLCIPH ∨ page = pgOCU then !isOff s 0x60 || !isOff s 0x61
  else false

/-- Pages whose chapters name start work: it ends with BLOCK_START_DONE; every other block leaves STARTING at the first
boundary. -/
def hasStartWork (page : Nat) : Bool := page == 0x48 || page == pgLDLV || (decide (0x10 ≤ page) && decide (page ≤ 0x2F))

/-- A field die is parked: its clusters' scratchpad is lost (R431, R433). -/
def loseScratch (s : State) (die : Nat) : State :=
  let lo := directBase + die * 0x40000000
  let out (k : Nat) : Bool := decide (k < lo) || decide (lo + 0x40000000 ≤ k)
  { s with mem := s.mem.filter (fun c => out c.1), store := { s.store with ecc := s.store.ecc.filter (fun e => out e.1) } }

/-- What a block does as it begins to drain: STREAM closes every slot and leaves its unfetched descriptors; a module's framing
leaves RUN, and its keys are erased (R78, R297). -/
def drainBegins (s : State) (page : Nat) : State :=
  if page = pgSTRM then
    { s with strm := { s.strm with slots := s.strm.slots.map (fun e => (e.1, { e.2 with state := 2, tail := e.2.fetch })) } }
  else if page = 0x60 ∨ page = 0x61 then eraseModule s (page - 0x60)
  else s

/-- Clusters in service on a die. -/
def clustersLeft (s : State) (die : Nat) : Nat := 40 - (s.store.retired.filter (fun x => x / 40 == die)).length

/-- A link of an unparked die that shows DOWN has trained again, at the width it had; the lanes replaced are free (R37, R433). -/
def retrain (s : State) (die link : Nat) : State :=
  if fld s (R.FLD_D2D_STAT + 0x1000 * die) (8 * link + 1) (8 * link) = 0 then
    let (v, s1) := drawFree s
    putRepaired (putLink s1 die link (if s1.store.narrow.contains (linkKey die link) then 3 else 2)) die link (v % 33)
  else s

/-- A field die enters RUN: its links have trained again and its clusters are those in service (R433). -/
def dieBack (s : State) (die : Nat) : State :=
  setFld ((List.range 3).foldl (fun a l => retrain a die l) s) (R.FLD_CLUSTERS + die * 0x1000) 13 8 (clustersLeft s die)

/-- What a block does as it enters RUN: the pools thread their segments, line delivery resets its contexts, framing starts, the
engine's request count starts, a die's thermal history starts. -/
def runBegins (s : State) (page : Nat) : State :=
  if page = 0x48 then poolStart s
  else if page = pgLDLV then resetContexts s
  else if page = 0x60 ∨ page = 0x61 then startFraming s (page - 0x60)
  else if page = pgCOLL then { s with coll := { s.coll with seq := 0, results := s.coll.results.map (fun x => { x with num := 2 ^ 48 }) } }
  else if 0x10 ≤ page ∧ page ≤ 0x17 then restartThermal (dieBack s (page - 0x10)) (page - 0x10)
  else s

/-- A block goes to RUN, or to DRAINING where a disable was latched (R401). -/
def leaveStarting (s : State) (page : Nat) : State :=
  let s1 := runBegins s page
  if flag s1 (hdr page oSTAT) 4 then drainBegins (setBlk (setPendDis s1 page false) page bDRAINING) page else setBlk s1 page bRUN

/-- Nothing holds the block in STARTING: a module's framing needs its SITE. -/
def mayRun (s : State) (page : Nat) : Bool :=
  if page = 0x60 ∨ page = 0x61 then fld s (lf R.LFRM_TX_ID (page - 0x60)) 7 0 != 0 else true

/-- The block's drain is complete. -/
def drainComplete (s : State) (page : Nat) : Bool :=
  if page = pgSTRM then !anyOpen s
  else if page = 0x48 then poolAllFree s
  else if page = pgCOLL then s.coll.active.isEmpty
  else if page = pgLDLV then allSettled s
  else true

/-- ENABLE written 1 (R401). In DRAINED it is latched as in DRAINING. The blocks that enter RUN without a write stay as they are. -/
def enableOp (s : State) (page : Nat) : State :=
  let s1 := setEnable s page true
  let st := blkState s1 page
  if neverLeavesRun page then s1
  else if st = bOFF then enterStarting s1 page
  else if st = bDRAINING ∨ st = bDRAINED then setPendEn s1 page true
  else s1

/-- DRAIN, or ENABLE written 0 (R401). -/
def drainOp (s : State) (page : Nat) : State :=
  if drainIgnored s page then s
  else
    let s1 := setEnable s page false
    let st := blkState s1 page
    if st = bRUN then drainBegins (setBlk s1 page bDRAINING) page
    else if st = bSTARTING then setPendDis s1 page true
    else s1

/-- BLOCK_START_DONE (R401, R433): a block's start work is done. -/
def startDoneOp (s : State) (page : Nat) : State :=
  if pageExists page ∧ hasStartWork page ∧ blkState s page = bSTARTING then leaveStarting s page else s

/-- DRAIN_DONE (R401). -/
def drainDoneOp (s : State) (page : Nat) : State :=
  if pageExists page ∧ blkState s page = bDRAINING ∧ drainComplete s page then setBlk s page bDRAINED else s

/-- A block reaches OFF: a parked field die loses what R431 names. -/
def reachOff (s : State) (page : Nat) : State :=
  let s1 := setBlk s page bOFF
  if 0x10 ≤ page ∧ page ≤ 0x17 then loseScratch s1 (page - 0x10) else s1

/-- A page at a boundary (R401). -/
def blockBoundary (s : State) (page : Nat) : State :=
  let st := blkState s page
  if st = bDRAINED then
    if flag s (hdr page oSTAT) 3 then enterStarting (setPendEn s page false) page else reachOff s page
  else if st = bSTARTING ∧ !hasStartWork page ∧ mayRun s page then leaveStarting s page
  else s

/-- Every page at a boundary. -/
def blocksBoundary (s : State) : State := allPages.foldl blockBoundary s

/-! ### SELFTEST (R402) -/

/-- A page has a KAT. -/
def hasKat (page : Nat) : Bool :=
  (decide (0x10 ≤ page) && decide (page ≤ 0x17)) || page == 0x40 || page == 0x41 || page == pgCOLL || page == pgSEAL

/-- SELFTEST: in OFF or DRAINED only. -/
def selftestOp (s : State) (page : Nat) : State :=
  let st := blkState s page
  if st = bOFF ∨ st = bDRAINED then setFld s (hdr page oSTAT) 6 5 (if hasKat page then 1 else 2) else s

/-- SELFTEST_DONE: the KATs named failed. A failing KAT counts as a lasting error, but SEAL's only shows. -/
def selftestDoneOp (s : State) (page : Nat) (failing : List Nat) : State :=
  if fld s (hdr page oSTAT) 6 5 = 1 then
    let s1 := setFld s (hdr page oSTAT) 6 5 (if failing.isEmpty then 2 else 3)
    if page = pgSEAL then s1 else failing.foldl (fun a c => lastingOf (noteLasting a) page 3 c 0) s1
  else s

end Sys2Proof.Machine
end

