-- ==== Sys2Proof/Machine/Reset.lean ====
section
/-!
DEFINITION. BLOCK_RESET (R402 and the pages' chapters), the reset reactions (R376, R377) and the full reset (R407, R411, R412,
R425, R430, R442).
-/
namespace Sys2Proof.Machine

/-! ### BLOCK_RESET -/

/-- Pages whose chapters say that BLOCK_RESET clears their counters and events only. -/
def countersOnly (page : Nat) : Bool :=
  neverLeavesRun page || (decide (0x20 ≤ page) && decide (page ≤ 0x2F)) || page == 0x40 || page == 0x41 || page == 0x42
    || page == 0x50 || page == 0x51 || page == 0x52 || page == 0x60 || page == 0x61 || page == 0x64 || page == 0x68 || page == 0x69
    || page == 0x70 || page == 0xA0 || page == 0xA1

/-- The bits of a register that are counters (RC, R14). -/
def rcMask (key : Nat) : Nat := match regRow key with | some r => r.rc | none => 0

/-- Clear a page's events and counters, in every bank. -/
def clearCounts (s : State) (page : Nat) : State :=
  let s1 := s.regs.foldl (fun a e => if pageOf e.1 = page then setR a e.1 (getR s e.1 &&& ~~~(BitVec.ofNat 32 (rcMask e.1))) else a) s
  setN s1 (hdr page oEVT) 0

/-- Registers whose lines say that they count since the last full reset, which a BLOCK_RESET leaves (R13, R165). -/
def standing (key : Nat) : Bool := key == R.POOL_RETIRED

/-- A register that a BLOCK_RESET returns to its reset value (R13): the block's own, and BLK_EVT_EN. -/
def clearable (off : Nat) : Bool := decide (0x40 ≤ off) || off == oEVTEN

/-- The links of a field die show their reset state, DOWN; a link to another field die shows it on both pages (R13, R45). -/
def downLinks (s : State) (die : Nat) : State :=
  (List.range 3).foldl (fun a l => putRepaired (putLink a die l 0) die l 0) s

/-- A page's registers return to their reset values, but those that count since the last full reset. -/
def clearRegsOf (s : State) (page : Nat) : State :=
  let s1 := if 0x10 ≤ page ∧ page ≤ 0x17 then downLinks s (page - 0x10) else s
  { s1 with regs := s1.regs.filter (fun e => !(pageOf e.1 == page && clearable (e.1 % 0x1000)) || standing e.1) }

/-- What a BLOCK_RESET does beside registers: STREAM frees every slot without completions and returns its hop queues; POOL
empties every segment; COLL's ring starts anew and what was active is gone; GROUP disables every group; STATION drops its maps (R78, R177, R235, R236). -/
def resetUnit (s : State) (page : Nat) : State :=
  if page = pgSTRM then
    let s1 := s.strm.slots.foldl (fun a e => e.2.queues.foldl releaseQuiet (e.2.tiles.foldl (fun b t => dropTileFrames b e.1 t.desc.seq) a)) s
    pruneNodes { s1 with strm := {}, ciph := { s1.ciph with batches := [] } }
  else if page = 0x48 then { s with pool := {} }
  else if page = pgCOLL then 
    let s1 := s.coll.active.foldl (fun a r => r.chunks.foldl (fun b c => c.handles.foldl releaseQuiet b) a) s
    { s1 with coll := { groups := s1.coll.groups, grids := s1.coll.grids } }
  else if page = pgGRP then { s with coll := { s.coll with groups := [] } }
  else if page = 0xB0 then { s with stn := { testing := s.stn.testing } }
  else s

/-- The effect of BLOCK_RESET on a page, its block state and ENABLE apart. -/
def blockResetEffect (s : State) (page : Nat) : State :=
  if countersOnly page then clearCounts s page
  else if page = pgCOLL then setN (clearCounts (resetUnit s page) page) R.COLL_RQ_PTR 0
  else clearRegsOf (clearCounts (resetUnit s page) page) page

/-- The states in which BLOCK_RESET may be written. -/
def resetAllowed (s : State) (page : Nat) : Bool :=
  let st := blkState s (if page = pgGRP then pgCOLL else page)
  neverLeavesRun page || st == bDRAINED || st == bFAULT || (st == bOFF && page != pgSTRM && page != pgCOLL)

/-- BLOCK_RESET written (R402). -/
def blockResetOp (s : State) (page : Nat) : State :=
  if !resetAllowed s page then s
  else
    let s1 := blockResetEffect s page
    if countersOnly page then s1
    else setEnable (setBlk (setPendDis (setPendEn s1 page false) page false) page bOFF) page false

/-- The reaction BLOCK_RESET (R376): the block takes it in any state, keeps ENABLE for its recovery (R380) and enters FAULT. A
module's framing so leaves RUN (R297). -/
def blockResetReaction (s : State) (page : Nat) : State :=
  let ran := inRun s page && (page == 0x60 || page == 0x61)
  let s1 := setBlk (blockResetEffect s page) page bFAULT
  if ran then eraseModule s1 (page - 0x60) else s1

/-- The BLOCK_RESET reactions ordered since, each in turn. -/
def takeBlockResets : Nat → State → State
  | 0, s => s
  | fuel + 1, s =>
    match s.flt.blockResets with
    | [] => s
    | p :: rest => takeBlockResets fuel (blockResetReaction { s with flt := { s.flt with blockResets := rest } } p)

/-! ### Full reset -/

/-- What start-up finds of the flash when it begins (R424, R425): what is staged becomes active; a start of an image not yet
proven has ended unproven, and at the third the ROM reverts the slot. -/
def flashStart (c : SecSt) : SecSt :=
  let base : SecSt := { slots := c.slots, active := c.active, floor := c.floor, cfg := c.cfg, spare := c.spare, cfgCount := c.cfgCount, leaves := c.leaves, attGen := c.attGen, unproven := c.unproven, master := c.master, staged := c.staged, proving := c.proving, reverted := c.reverted }
  let b1 := match c.spare with
    | some g => { base with cfg := g, spare := none }
    | none => base
  if c.staged then { b1 with active := 1 - c.active, staged := false, proving := true, unproven := 0, reverted := false }
  else if c.proving then
    if 2 ≤ c.unproven then { b1 with active := 1 - c.active, proving := false, unproven := 0, reverted := true }
    else { b1 with unproven := c.unproven + 1 }
  else b1

/-- The registers that a full reset with a cause leaves other than at their reset values. -/
def resetRegs (s : State) (cause : Nat) (core : Option Nat) : List (Nat × BitVec 32) :=
  let was := regN s R.FLT_RESET_CAUSE
  let s0 : State := { s with regs := [] }
  let s1 := setN s0 R.FLT_RESET_CAUSE (if cause = 4 then was else putBits was 20 20 0)
  let s2 := setN s1 R.GLB_RESET_CAUSE (cause + 16 * core.getD (fld s R.GLB_RESET_CAUSE 6 4))
  let s3 := setN s2 R.FLT_WIRE_RAW (regN s R.FLT_WIRE_RAW)
  let s4 := if flag s R.PRIV_GATE 0 then setFld s3 R.PRIV_GATE 11 8 5 else s3
  s4.regs

/-- Everything at its reset state but what R412 keeps: the contents of HBM and its errors, the stacks' repairs, flash and
secure flash, the SEAL marks, wake inputs and error wires as they stand. -/
def afterReset (s : State) (cause : Nat) (core : Option Nat) : State :=
  { pending := s.pending, regs := resetRegs s cause core,
    mem := s.mem.filter (fun c => isHbm c.1),
    store := { ecc := s.store.ecc.filter (fun e => isHbm e.1), bankLeft := s.store.bankLeft, stackLeft := s.store.stackLeft, lifeDone := s.store.lifeDone },
    flt := { barred := decide (cause = 4) }, irq := { raw := s.irq.raw }, host := { perst := s.host.perst },
    ciph := { marks := s.ciph.marks }, pwr := { locked := s.pwr.locked }, sec := flashStart s.sec,
    faultN := s.faultN, coreLine := s.coreLine, free := s.free, lastRead := s.lastRead, sent := s.sent }

/-- Set PWR_STATE.STEP, which BOOT_STAT[3:0] mirrors (R439). -/
def setStep (s : State) (k : Nat) : State := setFld s R.PWR_STATE 7 4 k

/-- Start-up halts at a step (R440). -/
def haltAt (s : State) (k : Nat) : State := modPwr (setStep s k) (fun p => { p with halted := true })

/-- A rail outside its limits holds its wire. -/
def railBad (s : State) : Bool := fld s R.FLT_WIRE_RAW 10 5 != 0
/-- A PLL is out of lock. -/
def pllBad (s : State) : Bool := fld s R.FLT_WIRE_RAW 4 0 != 0

/-- Error wires that still assert latch again, each with its record (R374). -/
def relatch (s : State) : State := (List.range 21).foldl (fun a b => if flag a R.FLT_WIRE_RAW b then wireLatch a b 0 else a) s

/-- A full reset (R411, R412). A WG9 whose start-up has halted takes one by PERST_N only (R440). Start-up begins at step 3 (R442);
a wire that still asserts halts it at its step (R377). -/
def fullReset (s : State) (cause : Nat) (core : Option Nat) : State :=
  if s.pwr.halted && cause != 1 then s
  else
    let s1 := relatch (afterReset s cause core)
    if railBad s1 then haltAt s1 1 else if pllBad s1 then haltAt s1 2 else setStep s1 3

/-- The CHIP_RESET reaction ordered (R377). -/
def takeChipReset (s : State) : State :=
  match s.flt.chipReset with
  | none => s
  | some (src, kind) =>
    if s.pwr.halted then { s with flt := { s.flt with chipReset := none } }
    else
    let s1 := setN { s with flt := { s.flt with chipReset := none } } R.FLT_RESET_CAUSE (src + kind * 4096 + 0x100000)
    fullReset s1 4 none

end Sys2Proof.Machine
end

