-- ==== Sys2Proof/Machine/Sec.lean ====
section
/-!
DEFINITION. Identity, attestation, staged images and line key establishment (R415 to R429).
-/
namespace Sys2Proof.Machine

/-- The page of SEC. -/
abbrev pgSEC : Nat := 0x90

/-- Update boot and identity. -/
def modSec (s : State) (f : SecSt → SecSt) : State := { s with sec := f s.sec }

/-- Mirder's key work is running: SEC in RUN (R429). -/
def secRuns (s : State) : Bool := inRun s pgSEC

/-! ### Identities and digests (R419 to R423) -/

/-- The owner key in force; a part leaves Brynraec with the transfer key (R419). -/
def ownerKey (s : State) : List Byte := s.sec.cfg.owner.getD (Config.rootKey 2)

/-- OWNER_ID. -/
def ownerId (s : State) : List Byte := sha256 (ownerKey s)

/-- The configuration digest. -/
def cfgDigest (s : State) : List Byte := s.sec.cfg.digest.getD (Config.factoryDigest 3)

/-- The slot booted. -/
def bootSlot (s : State) : FwSlot := nthD {} s.sec.slots s.sec.booted

/-- The digest of an image as booted. -/
def imageDigest (o : Option FwImage) (k : Nat) : List Byte := (o.bind (·.digest)).getD (Config.factoryDigest k)

/-- The six digests of R423. -/
def digests (s : State) : List (List Byte) :=
  [Config.factoryDigest 0, imageDigest (bootSlot s).first 1, imageDigest (bootSlot s).mirder 2, cfgDigest s, ownerId s,
    sha256 ((ocuMod s 0).page00 ++ (ocuMod s 1).page00)]

/-! ### Leaves (R420, R422) -/

/-- SEC_ID and SEC_ATT show the leaves. -/
def showLeaves (s : State) : State :=
  setN (setFld s R.SEC_ID 20 0 s.sec.leaves) R.SEC_ATT (s.sec.attGen % 65536 + s.sec.attLeft * 65536)

/-- The directions that LFRM_EXP names (R439). -/
def keyDirs (s : State) : List (Nat × Nat) :=
  ((List.range 2).flatMap (fun md => (List.range 4).map (fun d => (md, d)))).filter
    (fun x => flag s (lf R.LFRM_EXP_A x.1 + 4 * x.2) 16)

/-- KEX_CERT to the far end of a direction (R426). -/
def sendCert (s : State) (md dir : Nat) : State :=
  lineMessage s .kexCert md dir 2 [s.sec.attGen, Config.serial]
    (Config.idKey ++ s.sec.attKey ++ s.sec.attCert ++ Config.deviceCert)

/-- Generate and certify an attestation tree with one identity leaf (R422). Its key and certificate are free: the random bit
generator draws them. -/
def newTree (s : State) : State :=
  if 1048576 ≤ s.sec.leaves then s
  else
    let used := s.sec.leaves + 1
    let (key, s1) := drawBytes s 56
    let (cert, s2) := drawBytes s1 1772
    let s3 := showLeaves (modSec s2 (fun c => { c with leaves := used, attGen := c.attGen + 1, attKey := key, attCert := cert, certLeaf := used - 1, attLeft := 1024 }))
    let s4 := eventIf (eventIf s3 (used == 1044480) pgSEC 1) (used == 1048576) pgSEC 2
    (keyDirs s4).foldl (fun a x => sendCert a x.1 x.2) s4

/-- Use one attestation leaf: none when the tree is spent. With 64 left the next tree takes over. -/
def takeLeaf (s : State) : Option State :=
  if s.sec.attLeft = 0 then none
  else
    let s1 := showLeaves (modSec s (fun c => { c with attLeft := c.attLeft - 1 }))
    if s1.sec.attLeft = 64 ∧ s1.sec.leaves < 1048576 then some (event (newTree s1) pgSEC 0) else some s1

/-! ### The attestation report (R423) -/

/-- The bytes of a report less its signature. -/
def reportBytes (s : State) (nonce : List Byte) : List Byte :=
  bytesLE 4 1 ++ bytesLE 4 6892 ++ sliceBytes nonce 0 32 ++ bytesLE 2 (regN s R.GLB_STEP) ++ bytesLE 2 (regN s R.GLB_NODE)
    ++ bytesLE 4 (regN s R.ARITH_REV) ++ bytesLE 8 Config.serial ++ bytesLE 4 (((bootSlot s).mirder.map (·.svn)).getD 0)
    ++ bytesLE 4 s.sec.cfg.seq ++ (digests s).flatMap (fun d => sliceBytes d 0 32) ++ bytesLE 4 (regN s R.GLB_FW_VER) ++ bytesLE 4 s.sec.attGen
    ++ bytesLE 4 s.sec.certLeaf ++ bytesLE 4 0 ++ sliceBytes Config.idKey 0 56 ++ sliceBytes s.sec.attKey 0 56
    ++ sliceBytes s.sec.attCert 0 1772 ++ sliceBytes Config.deviceCert 0 3284

/-- The 8-byte object that carries BUSY. -/
def busyObject : List Byte := bytesLE 8 cBUSY

/-- An attestation request: at most four reports in any 7,500,000 ticks. -/
def reportOp (s : State) (nonce : List Byte) : State :=
  let recent := s.sec.reports.filter (fun t => decide (s.tick.now < t + 7500000))
  if !secRuns s then s
  else if 4 ≤ recent.length then emit s (.doe busyObject)
  else
    let body := reportBytes s nonce
    match takeLeaf s with
    | none => emit s (.doe busyObject)
    | some s1 =>
      let (sig, s2) := drawBytes s1 1452
      bump (emit (modSec s2 (fun c => { c with reports := s2.tick.now :: recent })) (.doe (body ++ sig))) R.SEC_ATT_RPT

/-! ### Staging (R416, R418, R419, R424) -/

/-- The largest body of an image kind. -/
def kindLimit (k : Nat) : Nat := if k = 1 then 512 * 1024 else if k = 2 then 16 * 1024 * 1024 else if k = 3 then 64 * 1024 else 0

/-- The header of an image is good for a total length. -/
def headerOk (b : List Byte) (floor : Nat) : Bool :=
  leAt b 0 4 == 0x39574D49 && decide (1 ≤ leAt b 4 1) && decide (leAt b 4 1 ≤ 3) && decide (floor ≤ leAt b 8 4)
    && decide (leAt b 0x10 4 ≤ kindLimit (leAt b 4 1)) && decide (64 + leAt b 0x10 4 ≤ b.length)

/-- A configuration's body as signed, with the image header's length already checked: none when its shape is wrong. -/
def parseCfg (body : List Byte) : Option SignedCfg :=
  let n := leAt body 0x5C 4
  if body.length = 0x60 + 12 * n ∧ n ≤ 4096 then
    some { seq := leAt body 0 4, flags := leAt body 4 4, owner := some (sliceBytes body 8 60), base := leAt body 0x44 8, len := leAt body 0x4C 8, mode := leAt body 0x54 1, die := leAt body 0x55 1, settings := (List.range n).map (fun i => (leAt body (0x60 + 12 * i) 2, leAt body (0x62 + 12 * i) 2, leAt body (0x64 + 12 * i) 4, leAt body (0x68 + 12 * i) 4)), digest := some (sha256 body) }
  else none

/-- The CXL_WIN region in force. -/
def cxlWin (s : State) : Option Region := ((regionsNow s).find? (fun e => e.2.valid && e.2.kind == 8)).map (·.2)

/-- Put a staged image into its place in the inactive slot. -/
def putImage (c : SecSt) (kind : Nat) (im : FwImage) : SecSt :=
  let k := 1 - c.active
  let old := nthD {} c.slots k
  { c with slots := setAt {} c.slots k (if kind = 1 then { old with first := some im } else { old with mirder := some im }), staged := true }

/-- Check and store an image (R424): none when a check fails. -/
def stageImage (s : State) (b : List Byte) (kind : Nat) : Option State :=
  let k := leAt b 4 1
  let n := 64 + leAt b 0x10 4
  let signed := b.take n
  let sig := b.drop n
  if !headerOk b s.sec.floor then none
  else if kind = 0 then
    if k ≠ 3 ∧ sig.length = 3284 ∧ hssVerify (Config.rootKey 0) signed sig then
      some (modSec s (fun c => putImage c k { svn := leAt b 8 4, version := leAt b 0xC 4, digest := some (sha256 signed) }))
    else none
  else if kind = 1 ∧ k = 3 ∧ hssVerify (ownerKey s) signed sig then
    match parseCfg (signed.drop 64) with
    | some g => if s.sec.cfgCount < g.seq then some (modSec s (fun c => { c with spare := some g, cfgCount := g.seq })) else none
    | none => none
  else none

/-- FW_STAGE's work on its payload: the completion code. -/
def stageOp (s : State) (payload : List Byte) : Nat × State :=
  let a := leAt payload 0 8
  let n := leAt payload 8 4
  let kind := leAt payload 0xC 1
  let show' (ok : Bool) (t : State) : State :=
    setN t R.SEC_STAGE ((if ok then 2 else 3) + 4 * (kind % 2) + 16 * (if ok then cSERVED else cPOLICY))
  let inside := (cxlWin s).any (fun r => decide (r.lbase ≤ a) && decide (a + n ≤ r.lbase + r.len))
  if !inside ∨ n < 64 then (cPOLICY, show' false s)
  else match coreRead s a n with
    | (none, s1) => (cPOLICY, show' false s1)
    | (some b, s1) =>
      match stageImage s1 b kind with
      | some s2 => (cSERVED, event (show' true s2) pgSEC 3)
      | none => (cPOLICY, show' false s1)

/-- IMAGE_PROVEN (R425): the image has run 7,500,000 ticks since Mirder started. -/
def provenOp (s : State) : State :=
  match s.sec.started with
  | some t =>
    if s.sec.proving ∧ t + 7500000 ≤ s.tick.now then
      let v := ((bootSlot s).mirder.map (·.svn)).getD 0
      let f := max s.sec.floor v
      event (setFld (modSec s (fun c => { c with proving := false, unproven := 0, floor := f })) R.SEC_SVN 31 16 f) pgSEC 5
    else s
  | none => s

/-! ### Line key establishment (R426, R427) -/

/-- An agreement fails: counted, and a KEX_FAIL goes to the far end, its reason free. -/
def kexFails (s : State) (md dir epoch : Nat) (tell : Bool) : State :=
  let s1 := event (bump s R.SEC_KEX_FAIL) pgSEC 4
  let s2 := modSec s1 (fun c => { c with runs := mapDel c.runs (md * 4 + dir), failed := mapPut c.failed (md * 4 + dir) s1.tick.now })
  if tell then
    let (r, s3) := drawBytes s2 1
    lineMessage s3 .kexFail md dir 2 [epoch] r
  else s2

/-- The bytes of KEX_INIT less its signature, in the order of R426, each field most significant byte first as on the line (R11). -/
def initBytes (md dir : Nat) (m : KexInit) : List Byte :=
  bytesBE 1 md ++ bytesBE 1 dir ++ bytesBE 4 m.epoch.toNat ++ [m.site, m.chan] ++ m.nonce ++ m.ek ++ bytesBE 4 m.attGen.toNat
    ++ bytesBE 4 m.arithRev.toNat ++ m.owner

/-- The bytes of KEX_REPLY less its signature, likewise. -/
def replyBytes (m : KexReply) : List Byte :=
  bytesBE 4 m.epoch.toNat ++ m.init ++ m.ct ++ bytesBE 4 m.attGen.toNat ++ bytesBE 4 m.arithRev.toNat ++ m.owner

/-- The line key (R427). -/
def lineKey (shared nonce : List Byte) (site chan : Byte) (epoch : Nat) (init reply : List Byte) : List Byte :=
  hkdf nonce shared
    (([0x57, 0x47, 0x39, 0x2D, 0x4C, 0x49, 0x4E, 0x45] : List Byte) ++ [site, chan] ++ bytesBE 4 epoch ++ sha256 (init ++ reply)) 32

/-- The lowest EMPTY slot of a pair: both ends so take the same one. -/
def emptyKey (s : State) (md side dir : Nat) : Option Nat := (List.range 2).find? (fun i => (keySlot s md side dir i).state == 0)

/-- Mirder's INSTALL through the LCIPH page (R288): none when it is not SERVED. -/
def installLine (s : State) (md side dir epoch : Nat) (key : List Byte) : Option (Nat × State) :=
  if flag s R.LCIPH_RES 0 then none
  else match emptyKey s md side dir with
    | none => none
    | some slot =>
      let s1 := (List.range 8).foldl (fun a i => setN a (R.LCIPH_KEY0 + 4 * i) (leAt key (4 * i) 4)) (setN s R.LCIPH_EPOCH epoch)
      let s2 := lciphCmd s1 1 (1 + md * 8 + side * 16 + dir * 32 + slot * 128)
      if fld s2 R.LCIPH_RES 7 4 = cSERVED then some (slot, s2) else none

/-- KEX_CERT: a chain that verifies is kept (R426). -/
def kexCertOp (s : State) (md dir : Nat) (m : KexCert) : State :=
  if !secRuns s then s
  else if hssVerify (Config.rootKey 1) (m.idKey ++ bytesLE 8 m.serial.toNat) m.devCert
      && lmsVerify m.idKey (m.attKey ++ bytesLE 4 m.attGen.toNat) m.attCert then
    modSec s (fun c => { c with peers := mapPut c.peers (md * 4 + dir) { attKey := m.attKey, attGen := m.attGen.toNat } })
  else kexFails s md dir 0 true

/-- A message's chain, revision, owner and tree are those expected of a direction's peer. -/
def peerOk (s : State) (md dir : Nat) (attGen arithRev : Nat) (owner body sig : List Byte) : Bool :=
  (mapFind s.sec.peers (md * 4 + dir)).any (fun p => decide (p.attGen = attGen) && lmsVerify p.attKey body sig)
    && arithRev == regN s R.ARITH_REV && owner == ownerId s

/-- KEX_INIT arrives at Z: it verifies, encapsulates, installs the receive key and only then replies (R427). -/
def kexInitOp (s : State) (md dir : Nat) (m : KexInit) : State :=
  let e := m.epoch.toNat
  let body := initBytes md dir m
  let exp := lf R.LFRM_EXP_A md + 4 * dir
  if !secRuns s then s
  else if !(peerOk s md dir m.attGen.toNat m.arithRev.toNat m.owner body m.signature && flag s exp 16
      && fld s exp 7 0 == m.site.toNat && (List.range 2).all (fun i => decide ((keySlot s md 1 dir i).state = 0 ∨ (keySlot s md 1 dir i).epoch < e)))
  then kexFails s md dir e true
  else match takeLeaf s with
    | none => kexFails s md dir e true
    | some s1 =>
      let (n, s2) := drawFree s1
      let (shared, ct) := Config.kemEncaps m.ek n
      let init := body ++ m.signature
      let r : KexReply := { epoch := m.epoch, init := sha256 init, ct := ct, attGen := BitVec.ofNat 32 s2.sec.attGen, arithRev := getR s2 R.ARITH_REV, owner := ownerId s2, signature := [] }
      match installLine s2 md 1 dir e (lineKey shared m.nonce m.site m.chan e init (replyBytes r)) with
      | none => kexFails s2 md dir e true
      | some (_, s3) =>
        let (sig, s4) := drawBytes s3 1452
        lineMessage (bump s4 R.SEC_KEX) .kexReply md dir 2 [e, s4.sec.attGen] (replyBytes r ++ sig)

/-- X begins an agreement (R426, R427): KEX_INIT under an epoch beyond every epoch of the pair;
which one, the manual leaves open. -/
def kexStart (s : State) (md dir : Nat) : State :=
  let k := md * 4 + dir
  let top := mapGet 0 s.ciph.epochs k
  let (x, s0) := drawFree s
  let e := min 0xFFFFFFFF (top + 1 + x % (0xFFFFFFFF - top))
  match takeLeaf s0 with
  | none => kexFails s0 md dir e false
  | some s1 =>
    let (nonce, s2) := drawBytes s1 32
    let (n, s3) := drawFree s2
    let (ek, dk) := Config.kemKeys n
    let m : KexInit := { epoch := BitVec.ofNat 32 e, site := BitVec.ofNat 8 (fld s3 (lf R.LFRM_TX_ID md) 7 0), chan := BitVec.ofNat 8 (fld s3 (lf R.LFRM_TX_ID md) 15 8), nonce := nonce, ek := ek, attGen := BitVec.ofNat 32 s3.sec.attGen, arithRev := getR s3 R.ARITH_REV, owner := ownerId s3, signature := [] }
    let (sig, s4) := drawBytes s3 1452
    let init := initBytes md dir m ++ sig
    let s5 := modSec s4 (fun c => { c with runs := mapPut c.runs k { epoch := e, nonce := nonce, dk := dk, init := init }, began := mapPut c.began k s4.tick.now, failed := mapDel c.failed k })
    lineMessage s5 .kexInit md dir 2 [e, s5.sec.attGen] init

/-- KEX_REPLY arrives at X: it verifies, decapsulates, installs the transmit key and switches (R427). -/
def kexReplyOp (s : State) (md dir : Nat) (m : KexReply) : State :=
  match mapFind s.sec.runs (md * 4 + dir) with
  | none => s
  | some run =>
    if run.epoch ≠ m.epoch.toNat then s
    else if !(peerOk s md dir m.attGen.toNat m.arithRev.toNat m.owner (replyBytes m) m.signature && m.init == sha256 run.init) then
      kexFails s md dir run.epoch true
    else
      let key := lineKey (Config.kemDecaps run.dk m.ct) run.nonce (nthD 0 run.init 6) (nthD 0 run.init 7) run.epoch run.init (replyBytes m)
      match installLine s md 0 dir run.epoch key with
      | none => kexFails s md dir run.epoch true
      | some (slot, s1) =>
        let s2 := lciphCmd s1 2 (2 + md * 8 + dir * 32 + slot * 128)
        bump (modSec s2 (fun c => { c with runs := mapDel c.runs (md * 4 + dir) })) R.SEC_KEX

/-- KEX_FAIL arrives: the agreement under that epoch is given up. -/
def kexFailOp (s : State) (md dir epoch : Nat) : State :=
  if (mapFind s.sec.runs (md * 4 + dir)).any (fun r => r.epoch == epoch) then kexFails s md dir epoch false else s

/-- A direction can be keyed: SEC in RUN, named in LFRM_EXP, delivery in RUN (R283). -/
def kexMay (s : State) (md dir : Nat) : Bool := secRuns s && flag s (lf R.LFRM_EXP_A md + 4 * dir) 16 && inRun s pgLDLV

/-- KEX_RETRY: 125,000 ticks after a failure. -/
def kexRetryOp (s : State) (md dir : Nat) : State :=
  if kexMay s md dir && (mapFind s.sec.failed (md * 4 + dir)).any (fun t => decide (t + 125000 ≤ s.tick.now)) then kexStart s md dir else s

/-- REKEY_INTERVAL: LCIPH_REKEY_S seconds since the last start; or the direction is keyless, with no agreement under way and no
retry awaited. -/
def rekeyOp (s : State) (md dir : Nat) : State :=
  let k := md * 4 + dir
  let due := (mapFind s.sec.began k).all (fun t => decide (t + 125000 * fld s R.LCIPH_REKEY_S 15 0 ≤ s.tick.now))
  let keyless := (currentKey s md dir).isNone && (mapFind s.sec.runs k).isNone && s.ciph.switching.all (fun x => x.1 != md || x.2.1 != dir)
  if kexMay s md dir && (mapFind s.sec.failed k).isNone && (due || keyless) then kexStart s md dir else s

/-- Every key is erased while agreements are under way: each fails (R430). -/
def kexErased (s : State) : State :=
  let n := s.sec.runs.length + ofBool s.ciph.switching.isSome
  let s1 := s.sec.runs.foldl (fun a r => kexFails a (r.1 / 4) (r.1 % 4) r.2.epoch false) s
  if n = s.sec.runs.length then s1 else event (bump s1 R.SEC_KEX_FAIL) pgSEC 4

/-- SEAL_MASTER_EXCHANGE (R428): the master is stored, and every SEAL key reinstalled. -/
def sealMasterOp (s : State) (master : List Byte) : State :=
  installSeals (modSec s (fun c => { c with master := some (sliceBytes master 0 32) })) (sliceBytes master 0 32)

end Sys2Proof.Machine
end

