-- ==== Sys2Proof/Machine/Host.lean ====
section
/-!
DEFINITION. The host attachment (R392 to R398), the mailbox (R404 to R408) and the job it creates and ends (R406, R407).
-/
namespace Sys2Proof.Machine

/-- The page of CXL. -/
abbrev pgCXL : Nat := 0x88

/-! ### The gate (R394, R397, R398) -/

/-- The gate closes with a cause; a gate that is closed stays as it is. -/
def closeGate (s : State) (cause : Nat) : State :=
  if flag s R.PRIV_GATE 0 then setFld (setFlag s R.PRIV_GATE 0 false) R.PRIV_GATE 11 8 cause else s

/-- The gate opens, and the opening is counted. -/
def openGate (s : State) : State :=
  setFld (setFlag s R.PRIV_GATE 0 true) R.PRIV_GATE 31 16 (fld s R.PRIV_GATE 31 16 + 1)

/-- IDE streams are established on both protocols, or the configuration does not require them. -/
def ideServes (s : State) : Bool := !flag s R.CXL_IDE 2 || (flag s R.CXL_IDE 0 && flag s R.CXL_IDE 1)

/-- The CXL link is up. -/
def linkUp (s : State) : Bool := flag s R.CXL_LINK 12

/-! ### The link (R392, R393) -/

/-- The link trains, from step 9 of start-up on (R441). -/
def linkUpOp (s : State) (width rate : Nat) : State :=
  if fld s R.PWR_STATE 7 4 < 9 then s
  else
    let was := linkUp s
    let s1 := setFlag (setFld (setFld s R.CXL_LINK 3 0 (2 ^ width)) R.CXL_LINK 11 4 (8 * 2 ^ rate)) R.CXL_LINK 12 true
    if was then s1 else event (setBlk s1 pgCXL bRUN) pgCXL 1

/-- An IDE stream ends (R394): IDE_LOST; with IDE_REQUIRED the gate closes. -/
def ideEnds (s : State) (cause : Nat) : State :=
  let s1 := event s pgCXL 2
  if flag s1 R.CXL_IDE 2 then closeGate s1 cause else s1

/-- The link goes down (R398): counted; the gate closes, and IDE ends with the link. The decoder stays committed. -/
def linkDownOp (s : State) : State :=
  if !linkUp s then s
  else
    let s1 := setN s R.CXL_LINK (ofBool (flag s R.CXL_LINK 13) * 0x2000)
    let s2 := closeGate (event (bump s1 R.CXL_DOWN) pgCXL 0) 2
    if fld s2 R.CXL_IDE 1 0 = 0 then s2 else ideEnds (setFld s2 R.CXL_IDE 1 0 0) 3

/-- IDE is established on a protocol. -/
def ideUpOp (s : State) (mem : Bool) : State := if linkUp s then setFlag s R.CXL_IDE (ofBool mem) true else s

/-- An IDE stream stops, or reports an integrity failure. -/
def ideStopOp (s : State) (mem failed : Bool) : State :=
  if !flag s R.CXL_IDE (ofBool mem) then s
  else ideEnds (setFlag (if failed then bump s R.CXL_IDE_ERR else s) R.CXL_IDE (ofBool mem) false) 3

/-- The host commits the decoder. -/
def commitOpHost (s : State) : State := if linkUp s then setFlag s R.CXL_LINK 13 true else s

/-- Storage key of a range of the window, where the host reaches it: decoder committed, region valid, within LEN; in P1 HBM cannot
be reached (R433). -/
def windowKey (s : State) (off n : Nat) : Option Nat :=
  match cxlWin s with
  | some r => if flag s R.CXL_LINK 13 && decide (off + n ≤ r.len) && s.pwr.state == 0 then resolve s (r.lbase + off) n else none
  | none => none

/-- A poisoned response. -/
def poisonRead (s : State) (bs : List Byte) : State := emit (event (bump s R.CXL_POISON) pgCXL 3) (.cxlData true bs)

/-- A CXL.mem read (R393). -/
def memReadOp (s : State) (off n : Nat) : State :=
  if !linkUp s then s
  else
    let s1 := bumpWrap s R.CXL_MEM_RD
    match windowKey s1 off n with
    | none => poisonRead s1 (List.replicate n 0xFF)
    | some k =>
      match storeRead s1 k n with
      | (some bs, s2) => emit s2 (.cxlData false bs)
      | (none, s2) =>
        let (bs, s3) := drawBytes s2 n
        poisonRead { s3 with host := { s3.host with events := s3.host.events ++ [off] } } bs

/-- A CXL.mem write (R393). -/
def memWriteOp (s : State) (off : Nat) (bs : List Byte) : State :=
  if !linkUp s then s
  else match windowKey s off bs.length with
    | none => bump s R.CXL_WR_DROP
    | some k => (storeWrite s k bs).2

/-! ### The mailbox (R404, R405, R408) -/

/-- The first byte of MBX_DATA. -/
abbrev mbxData : Nat := 0x89800

/-- The payload of a command. -/
def mbxPayload (s : State) (len : Nat) : List Byte :=
  ((List.range ((len + 3) / 4)).flatMap (fun i => bytesLE 4 (regN s (mbxData + 4 * i)))).take len

/-- A command completes: its response, RLEN, CODE, BUSY 0, the count, and the message to source 0x3DF. -/
def mbxDone (s : State) (code : Nat) (resp : List Byte) : State :=
  let s1 := mbxPut 0x800 (words32 resp) s
  let s2 := setN s1 R.MBX_STAT (code * 16 + resp.length * 0x10000)
  irqMessage (event (bumpWrap s2 R.MBX_DONE) pgMBX 0) 0x3DF

/-- The mailbox takes commands: Mirder runs, and the page is not locked against BAR2 (R400, R408). -/
def mbxOpen (s : State) : Bool := inRun s pgMBX && !pageLocked s pgMBX

/-- Run an accepted command on its payload: the answer code and response. -/
def mbxRun (s : State) (len : Nat) (gated : Bool) (f : List Byte → State → Nat × List Byte × State) : State :=
  if 2048 < len ∨ (gated ∧ !gateOpen s) then mbxDone s cPOLICY []
  else
    let r := f (mbxPayload s len) s
    mbxDone r.2.2 r.1 r.2.1

/-- A command as the driver gives it: MBX_CMD is written, then GO. -/
def mbxCommand (s : State) (op len : Nat) (gated : Bool) (f : List Byte → State → Nat × List Byte × State) : State :=
  if mbxOpen s then mbxRun (setN s R.MBX_CMD (op + len * 0x10000)) len gated f else s

/-- GET_INFO. -/
def infoWork (_ : List Byte) (s : State) : Nat × List Byte × State :=
  (cSERVED, [R.GLB_STEP, R.ARITH_REV, R.GLB_NODE, R.GLB_FW_VER, R.PRIV_GATE].flatMap (fun k => bytesLE 4 (regN s k &&& readMask k))
    ++ bytesLE 4 (if s.job.held then s.job.id + 0x10000 else 0), s)

/-- AUTH commands answer BUSY for a time after three refusals in a row. -/
def authLocked (s : State) : Bool := decide (s.tick.now < s.host.lockTo)

/-- AUTH_CHALLENGE (R397): a fresh nonce, free. -/
def challengeWork (_ : List Byte) (s : State) : Nat × List Byte × State :=
  if authLocked s then (cBUSY, [], s)
  else
    let (n, s1) := drawBytes s 32
    (cSERVED, n, { s1 with host := { s1.host with nonce := some n } })

/-- A refused response. -/
def authRefused (s : State) : Nat × List Byte × State :=
  let k := s.host.refusals + 1
  if 3 ≤ k then (cPOLICY, [], { s with host := { s.host with refusals := 0, lockTo := s.tick.now + 7500000 } })
  else (cPOLICY, [], { s with host := { s.host with refusals := k } })

/-- AUTH_RESPONSE (R397): the owner's signature over the nonce, GLB_NODE and the configuration digest. A nonce serves one response. -/
def responseWork (sig : List Byte) (s : State) : Nat × List Byte × State :=
  if authLocked s then (cBUSY, [], s)
  else
    let s1 : State := { s with host := { s.host with nonce := none } }
    match s.host.nonce with
    | none => authRefused s1
    | some n =>
      if hssVerify (ownerKey s) (n ++ bytesLE 2 (ownNode s) ++ cfgDigest s) sig && ideServes s then
        (cSERVED, [], openGate { s1 with host := { s1.host with refusals := 0 } })
      else authRefused s1

/-! ### The job (R105, R320, R343, R405 to R407) -/

/-- A site's beacon has shown another table (R407). -/
def crcsAgree (s : State) (t : SiteTab) : Bool :=
  s.site.crcs.all (fun e => t.ents.all (fun x => x.id != e.1) || e.2 == t.crc)

/-- The guidon of the ensign site draws the SEAL master and gives it to every WG9 of the job (R428). -/
def drawMaster (s : State) (t : SiteTab) : State :=
  if isGuidon s ∧ t.self = t.ensign then
    let (m, s1) := drawBytes s 32
    let s2 := ((siteNodes s1).filter (· ≠ ownNode s1)).foldl (fun a n => emit a (.message .sealMaster 7 n 2 [] [])) s1
    let s3 := (otherSites t (2 ^ 32 - 1)).foldl (fun a i => [4, 5].foldl (fun b p => emit b (.message .sealMaster p (siteEnt t i).guidon 2 [] [])) a) s2
    sealMasterOp s3 m
  else s

/-- What the health score has counted: it changes at an evaluation only, whatever job comes and goes (R337, R338). -/
def scoreKept (h : HlthSt) : HlthSt :=
  { d := h.d, events := h.events, lastEval := h.lastEval, trends := h.trends, symbols := h.symbols }

/-- Install a job that has passed its checks. -/
def startJob (s : State) (id ocr siteA protA node : Nat) (t : SiteTab) (gs : List PGroup) (sp : List Nat) : State :=
  let (x, s0) := drawFree s
  let first := 1 + x % (2 ^ 48 - 1)
  let guidon := decide ((siteEnt t t.self).guidon = node)
  let s1 : State := { s0 with job := { held := true, id := id, ocr := ocr, siteTab := siteA, protTab := protA, node := node, first := first, commit := first - 1, pushed := first - 1, round := first - 1 },
                              site := { s0.site with tab := some t, since := s0.tick.now }, hlth := { scoreKept s0.hlth with groups := gs, spares := sp } }
  let s2 := setN (set64 (set64 s1 R.SITE_TAB_LO R.SITE_TAB_HI siteA) R.HLT_PT_LO R.HLT_PT_HI protA) R.GLB_NODE node
  let s3 := setN s2 R.SITE_STATE (t.self * 0x100 + t.ensign * 0x10000 + ofBool guidon * 0x200000)
  let s4 := setN (setN (setN s3 R.SITE_EPOCH 0) R.SITE_VIEW 0) R.SITE_REACH (2 ^ t.self)
  let s5 := setN (setN s4 R.SITE_WEIGHT (totalWeight t * 0x10000)) R.SITE_LAG t.lag
  let s6 := set64 (setN s5 R.SITE_HEAL 0) R.SITE_COMMIT_LO R.SITE_COMMIT_HI (first - 1)
  proposeIf (drawMaster (zeroResidual (showRole (setN (setN s6 R.SITE_ACCEPT_LO 0) R.SITE_ACCEPT_HI 0)) first) t)

/-- A local range lies in HBM. -/
def inHbm (s : State) (a n : Nat) : Bool := match resolve s a n with | some k => isHbm k | none => false

/-- JOB_CREATE; the outer configuration record stands in HBM (R103, R105). -/
def createWork (b : List Byte) (s : State) : Nat × List Byte × State :=
  let id := leAt b 0 2
  let ocrA := leAt b 8 8
  let siteA := leAt b 0x10 8
  let protA := leAt b 0x18 8
  if s.job.held ∨ ocrA % 64 ≠ 0 ∨ !inHbm s ocrA 128 then (cPOLICY, [], s)
  else match jobOcr s ocrA with
    | none => (cPOLICY, [], s)
    | some o =>
      if !ocrOk o then (cPOLICY, [], s)
      else match readPanels s o, readSites s siteA id, readProt s protA id with
        | some ps, some t, some (gs, sp) =>
          if panelsOk o 0 ps && decide (t.lag = o.lag) && decide (t.h = o.h) && crcsAgree s t then
            (cSERVED, [], startJob s id ocrA siteA protA (leAt b 0x20 2) t gs sp)
          else (cPOLICY, [], s)
        | _, _, _ => (cPOLICY, [], s)

/-- The job ends at its last commit: the units that serve it are as without a job (R406). -/
def endJob (s : State) : State :=
  let s1 : State := { s with job := {}, site := {}, hlth := scoreKept s.hlth }
  [R.GLB_NODE, R.SITE_STATE, R.SITE_EPOCH, R.SITE_VIEW, R.SITE_REACH, R.SITE_WEIGHT, R.SITE_COMMIT_LO, R.SITE_COMMIT_HI,
    R.SITE_ACCEPT_LO, R.SITE_ACCEPT_HI, R.SITE_LAG, R.SITE_HEAL, R.HLT_ROLE, R.HLT_PARTNER, R.HLT_STAT, R.HLT_PROT_LO, R.HLT_PROT_HI].foldl
      (fun a k => setN a k (resetOf k)) s1

/-- JOB_END: at once, or after the push under way. A round in progress is aborted. -/
def endWork (_ : List Byte) (s : State) : Nat × List Byte × State :=
  if !s.job.held then (cPOLICY, [], s)
  else if s.job.pushed < s.job.commit ∧ s.job.phase = 8 then (cSERVED, [], { s with job := { s.job with ending := true } })
  else
    let s1 := if 1 ≤ s.job.phase ∧ s.job.phase ≤ 7 then abortRound s s.job.round false else s
    (cSERVED, [], endJob s1)

/-- The phase that JOB_STATUS shows: phase 9 while only the protection of the last commit is outstanding. -/
def phaseNow (s : State) : Nat :=
  if s.job.phase = 0 ∧ isData s ∧ s.job.first ≤ s.job.commit ∧ reg64 s R.HLT_PROT_LO R.HLT_PROT_HI < s.job.commit then 9 else s.job.phase

/-- JOB_STATUS. -/
def statusWork (_ : List Byte) (s : State) : Nat × List Byte × State :=
  (cSERVED, bytesLE 4 (regN s R.SITE_STATE) ++ bytesLE 8 (siteCommit s) ++ bytesLE 8 s.job.round ++ bytesLE 4 (phaseNow s), s)

/-- A round of the job stands between SNAP_ACCEPT and PUSH_DONE here (R355, R432). -/
def midRound (s : State) : Bool :=
  s.job.held && (s.job.accepted || s.job.phase != 0 || s.job.aborted.isSome || decide (s.job.pushed < s.job.commit))

/-- FW_STAGE. -/
def stageWork (b : List Byte) (s : State) : Nat × List Byte × State :=
  let r := stageOp s b
  (r.1, [], r.2)

end Sys2Proof.Machine
end

