-- ==== Sys2Proof/Machine/Regions.lean ====
section
/-!
DEFINITION. The region table's commands (R156 to R162, R168), the outer gate (R161) and the patrol scrub (R166).
-/
namespace Sys2Proof.Machine

/-- The page of the region table. -/
abbrev pgREG : Nat := 0x42

/-- The entry that the shadow registers describe. -/
def shadowEntry (s : State) : Region :=
  let a := regN s R.REG_ATTR
  { valid := bitOf a 0, lbase := reg64 s R.REG_LBASE_LO R.REG_LBASE_HI, len := reg64 s R.REG_LEN_LO R.REG_LEN_HI,
    phys := reg64 s R.REG_PHYS_LO R.REG_PHYS_HI, mode := bitsOf a 2 1, die := bitsOf a 5 3, kind := bitsOf a 11 8,
    sealed := bitOf a 12, compress := bitOf a 13, member := bitOf a 14,
    read := fld s R.REG_ACCESS 15 0, write := fld s R.REG_ACCESS 31 16 }

/-- Show an entry in the shadow registers. -/
def showEntry (s : State) (r : Region) : State :=
  let s1 := set64 (set64 (set64 s R.REG_LBASE_LO R.REG_LBASE_HI r.lbase) R.REG_LEN_LO R.REG_LEN_HI r.len) R.REG_PHYS_LO R.REG_PHYS_HI r.phys
  let attr := ofBool r.valid + r.mode * 2 + r.die * 8 + r.kind * 0x100 + ofBool r.sealed * 0x1000 + ofBool r.compress * 0x2000 + ofBool r.member * 0x4000
  setN (setN s1 R.REG_ATTR attr) R.REG_ACCESS (r.read + r.write * 0x10000)

/-- The entry of an index. -/
def entryAt (s : State) (i : Nat) : Region := mapGet {} (regionsNow s) i

/-- A DIRECT range lies within one place's scratchpad, or within a hoist die's staging part (R157, R162). -/
def directFits (s : State) (a n : Nat) : Bool :=
  let p := placeOf a
  decide (directBase ≤ a) && decide (p < 10) && placeOf (a + n - 1) == p
    && (if p < 8 then decide (placeOff a + n ≤ 40 * 0x400000) else decide (p0Bytes s ≤ placeOff a) && decide (placeOff a + n ≤ 48 * 0x100000))

/-- Check 1 of R162. DESIGN CHOICE (220): an entry of length 0, and an HBM entry whose local range does not lie below 0x1000_0000_0000 (R155), which
the check does not name, fail it too. -/
def entryOk1 (s : State) (i : Nat) (r : Region) : Bool :=
  let span := if r.mode = 2 then sliceLen r else r.len
  decide (r.mode ≤ 2) && decide (r.kind ≤ 0xA) && r.len != 0 && r.lbase % 4096 == 0 && (r.mode == 0) == (r.kind == 0xA)
    && (if r.mode = 0 then r.len % 64 == 0 && directFits s r.lbase r.len
        else decide (r.lbase + r.len ≤ directBase) && (r.mode == 1 || r.len % 8 == 0) && span % 64 == 0 && r.phys % 64 == 0
          && decide (r.phys + span ≤ hbmBytes))
    && (r.kind != 8 || (r.mode != 0 && decide (r.len ≤ 0x1000000000) && (regionsNow s).all (fun e => e.1 == i || !e.2.valid || e.2.kind != 8)))

/-- The dies an entry's HBM lies on, with the offset and length on each. -/
def physRanges (r : Region) : List (Nat × Nat × Nat) :=
  if r.mode = 1 then [(r.die, r.phys, r.len)]
  else if r.mode = 2 then (List.range 8).map (fun d => (d, r.phys, sliceLen r))
  else []

/-- Two ranges meet. -/
def meet (a n b m : Nat) : Bool := decide (a < b + m) && decide (b < a + n)

/-- Check 2: the entry that overlaps. -/
def overlapWith (s : State) (i : Nat) (r : Region) : Option Nat :=
  ((regionsNow s).find? (fun e => e.1 != i && e.2.valid && (meet r.lbase r.len e.2.lbase e.2.len
    || (physRanges r).any (fun x => (physRanges e.2).any (fun y => x.1 == y.1 && meet x.2.1 x.2.2 y.2.1 y.2.2))))).map (·.1)

/-- Ranges in use (check 3): open streams' queues and operands, valid completion rings, pool segments and their metadata, the maps
armed and in force. -/
def rangesInUse (s : State) : List (Nat × Nat) :=
  s.strm.slots.flatMap (fun e => (e.2.sqBase, 64 * 2 ^ e.2.sqLog2) :: (e.2.operand.filter (· ≠ 0)).map (fun a => (a, 1)))
    ++ (List.range 256).filterMap (fun k => (cringSize s k).map (fun n => (cringBase s k, 32 * n)))
    ++ allSegs.flatMap (fun e => if e.1 = 0 ∨ segCount s e.1 e.2 = 0 then [] else
        [(segBase s e.1 e.2, segCount s e.1 e.2 * bufSize e.1), (segMeta s e.1 e.2, segCount s e.1 e.2 + (segCount s e.1 e.2 + 7) / 8)])
    ++ [(s.stn.inForce.addr, s.stn.inForce.size)] ++ (match s.stn.armed with | some m => [(m.1.addr, m.1.size)] | none => [])

/-- Check 3 fails: a used range lies in the entry's old range, which moves. -/
def entryBusy (s : State) (old new : Region) : Bool :=
  old.valid && (old.lbase != new.lbase || old.len != new.len || old.phys != new.phys || old.mode != new.mode || old.die != new.die
      || old.valid != new.valid)
    && (rangesInUse s).any (fun u => u.2 != 0 && meet u.1 u.2 old.lbase old.len)

/-- A WRITE that is refused. -/
def regionRefused (s : State) (code conflict : Nat) : State := event (setN s R.REG_RES (code * 16 + conflict * 0x100)) pgREG 1

/-- REG_CMD WRITE of an entry (R162): the checks in their order; a change that passes waits for the boundary. -/
def writeEntry (s : State) (i : Nat) (r : Region) : State :=
  if r.valid && !entryOk1 s i r then regionRefused s cPOLICY 0
  else match (if r.valid then overlapWith s i r else none) with
    | some c => regionRefused s cPOLICY c
    | none =>
      if entryBusy s (entryAt s i) r then regionRefused s cBUSY 0
      else { setN s R.REG_RES 1 with regn := { s.regn with change := some (i, r) } }

/-- A write of REG_CMD: READ at once, then WRITE; ignored while PENDING. -/
def regionCmd (s : State) (w : Win) (v : Nat) : State :=
  if !mayWrite s w R.REG_CMD || flag s R.REG_RES 0 then s
  else
    let i := fld s R.REG_IDX 5 0
    let s1 := if bitOf v 1 then showEntry s (entryAt s i) else s
    if bitOf v 0 then writeEntry s1 i (shadowEntry s1) else s1

/-- An entry changes at once: Mirder's own writing of the table at start-up. -/
def putEntry (s : State) (i : Nat) (r : Region) : State :=
  { s with regn := { s.regn with tables := mapPut (regionsNow s) i r :: s.regn.tables } }

/-- At a boundary the change takes effect, and the gate for hops admitted from here (R161, R162). -/
def regionBoundary (s : State) : State :=
  let s1 := match s.regn.change with
    | some (i, r) => event (setN (putEntry { s with regn := { s.regn with change := none } } i r) R.REG_RES (cSERVED * 16)) pgREG 0
    | none => s
  { s1 with regn := { s1.regn with gate := flag s1 R.REG_OUTER_GATE 0 } }

/-- Mirder may open the outer gate (R161): for the apply of a committed round, while a spare is loaded, and for a rebuild of committed state:
the fetch of a healing site, and the shard that this WG9 adopts (R334, R349). -/
def gateMay (s : State) : Bool :=
  s.job.held && (s.job.phase == 8 || fld s R.HLT_HOIST 2 0 == 2 || s.site.fetch.isSome || s.hlth.adopted.any (fun n => conductorOf s n == ownNode s))

/-- A write of REG_OUTER_GATE; an opening one is ignored while the site is DIPPED (R331), and Mirder itself makes one in the cases of R161
alone. -/
def outerGateOp (s : State) (w : Win) (v : Nat) : State :=
  if !mayWrite s w R.REG_OUTER_GATE then s
  else if bitOf v 0 && siteState s == sDIPPED then event s pgSITE 4
  else if bitOf v 0 && w == .core && !gateMay s then s
  else setFlag s R.REG_OUTER_GATE 0 (bitOf v 0)

/-- Physical offset of a stack offset (R155). -/
def physOf (stack off : Nat) : Nat := off / 4096 * 8192 + stack % 2 * 4096 + off % 4096

/-- 64-byte accesses of a stack. -/
def stackAccesses : Nat := 750000000

/-- PATROL_SCRUB (R166): the next access of a stack is read; each of its words in error is corrected, or raised as uncorrectable. -/
def scrubOp (s : State) (stack : Nat) : State :=
  if !inRun s (0x20 + stack) then s
  else
    let pos := mapGet 0 s.store.scrub stack
    let k := hbmKey (stack / 2) (physOf stack (pos * 64))
    let s1 := (eccWords s k 64).foldl (fun a e => if e.2 = .ue then eccRaise a e.1 true true else eccRaise (eccClear a e.1) e.1 false true) s
    let next := pos + 1
    let d := stack * 0x1000
    if next = stackAccesses then
      let s2 := setN { s1 with store := { s1.store with scrub := mapPut s1.store.scrub stack 0 } } (R.HBM_SCRUB_POS + d)
        ((fld s1 (R.HBM_SCRUB_POS + d) 31 16 + 1) % 65536 * 65536)
      event s2 (0x20 + stack) 4
    else
      setFld { s1 with store := { s1.store with scrub := mapPut s1.store.scrub stack next } } (R.HBM_SCRUB_POS + d) 15 0
        (next * 65536 / stackAccesses)

end Sys2Proof.Machine
end

