-- ==== Sys2Proof/Machine/Tick.lean ====
section
/-!
DEFINITION. The boundary of a tick, with everything that runs at it (R40 to R44), and the commands that move or read the
time counter (R352 to R355, R366).
-/
namespace Sys2Proof.Machine

/-- The register that counts the flits retried on a link of a field die. -/
def retryReg (die link : Nat) : Nat := R.FLD_D2D_RETRY_W + 0x1000 * die + 4 * link

/-- Flits retried in the tick, link by link, counted alike on the pages of both its ends (R36, R45). -/
def countRetries (s : State) (l : List (Nat × Nat)) : State :=
  l.foldl (fun a e =>
    let die := e.1 / 0x1000 - 0x10
    let link := (e.1 % 0x1000 - 0x44) / 4
    if 0x10 ≤ e.1 / 0x1000 ∧ die ≤ 7 ∧ link ≤ 2 ∧ e.1 = retryReg die link then
      let a1 := bumpBy a e.1 e.2
      match linkFar die link with
      | some (d, k) => bumpBy a1 (retryReg d k) e.2
      | none => a1
    else a) s

/-- Corrected symbols of the fabric ports, for the health score (R337). -/
def countSymbols (s : State) (l : List (Nat × Nat)) : State :=
  l.foldl (fun a e =>
    let p := e.1 / 8
    if 2 ≤ p ∧ p ≤ 5 ∧ bitOf e.1 0 then
      { a with hlth := { a.hlth with symbols := setAt 0 a.hlth.symbols (p - 2) (nthD 0 a.hlth.symbols (p - 2) + e.2) } } else a) s

/-- Storage errors that arose in the tick (R163). -/
def takeUpsets (s : State) (l : List (Nat × EccKind)) : State := l.foldl (fun a e => eccSet a (wordOf e.1) e.2) s

/-- Error wires that stopped asserting (R374). -/
def takeWiresOff (s : State) (v : Nat) : State :=
  (List.range 21).foldl (fun a b => if bitOf v b then wireReleases a b else a) s

/-- What runs at the boundary of tick n while the package has its clocks: observations of the tick that ends, then each unit
in turn, tiles last, since admission uses the budgets, maps, tables and windows of the tick that starts. -/
def boundaryWork (s : State) (n : Nat) (env : TickEnv) : State :=
  let s1 := takeFabAcks (countRetries (takeUpsets s env.upsets) env.retries) env.fabAcks
  let s2 := powerBoundary (tickClocks (followerCheck s1 env) env)
  let s3 := regionBoundary (judgeActivity (tscBoundary s2))
  let s4 := mapBoundary { s3 with store := { s3.store with holes := s3.store.retired } } n
  let s5 := (List.range 2).foldl (ocuBoundary n) (switchBoundary s4 n)
  let s6 := lineBoundary (countSymbols s5 env.laneErrs) n env.laneErrs
  let s7 := tilesBoundary (rebindAll (installAll (openAgain (loadAgain (noteParked (blocksBoundary s6)))))) n
  refreshBoundary (protPace s7) env.stackTemps

/-- The boundary of tick n, at the counter's present value; in P2 only the always-on domain takes it (R431). -/
def boundary (s : State) (n : Nat) (env : TickEnv) : State :=
  let s1 := takeWiresOff (beginTick s n env) env.wiresOff.toNat
  if s1.pwr.state = 2 then s1 else boundaryWork s1 n env

/-- TICK_BOUNDARY: the counter runs to the next boundary not yet emitted, and the boundary is taken (R40). The tick runs from
the lock of the time PLL (R44). -/
def tickOp (s : State) (env : TickEnv) : State :=
  if inRun s 0x01 then
    let s1 := passCycles s (cyclesToBoundary s)
    boundary s1 (s1.tick.now + 1) env
  else s

/-! ### Steps (R354) -/

/-- A step to a counter value: the tick's part (R42), the boundary it reaches, the bins' part (R257). -/
def stepTo (s : State) (target : Nat) : State :=
  let (b, s1) := stepCounter s target
  let s2 := (List.range 2).foldl (pmStep (secOf target)) s1
  match b with
  | some m => boundary s2 m {}
  | none => s2

/-- A refused step: ignored, with CFG_REFUSED. -/
def stepRefused (s : State) : State := event s 0x78 5

/-- SET to seconds and nanoseconds. -/
def setStepTo (s : State) (sec ns : Nat) : State :=
  if 999999999 < ns then stepRefused s else stepTo s ((sec * 1000000000 + ns) * nsUnit)

/-- ADD of signed seconds and nanoseconds. -/
def addStep (s : State) (sec ns : Int) : State :=
  let t : Int := (s.tick.counter : Int) + (sec * 1000000000 + ns) * nsUnit
  if t < 0 ∨ (timeSpan : Int) ≤ t then stepRefused s else stepTo s t.toNat

/-- The seconds and nanoseconds of TIME_ADJ. -/
def adjSec (s : State) : Nat := reg64 s R.TIME_ADJ_SEC_LO R.TIME_ADJ_SEC_HI
/-- TIME_ADJ_NS. -/
def adjNs (s : State) : Nat := regN s R.TIME_ADJ_NS

/-- TIME_ADJ_CMD written SET, after cycles of the tick have passed. Control cores only. -/
def setTimeOp (s : State) (w : Win) (elapsed : Nat) : State :=
  let s1 := elapse s elapsed
  if mayWrite s1 w R.TIME_ADJ_CMD then setStepTo s1 (adjSec s1) (adjNs s1) else s1

/-- TIME_ADJ_CMD written ADD. -/
def timeAddOp (s : State) (w : Win) (elapsed : Nat) : State :=
  let s1 := elapse s elapsed
  if mayWrite s1 w R.TIME_ADJ_CMD then addStep s1 (signedOf 64 (adjSec s1)) (signedOf 32 (adjNs s1)) else s1

/-- The operator's TIME_STEP (R355): refused during a round. Mirder writes TIME_ADJ from the payload: [0] 1 SET or 2 ADD, [4] nanoseconds,
[8] seconds. -/
def timeStepWork (b : List Byte) (s : State) : Nat × List Byte × State :=
  let cmd := leAt b 0 1
  if midRound s || (cmd != 1 && cmd != 2) then (cPOLICY, [], s)
  else
    let s1 := set64 (setN s R.TIME_ADJ_NS (leAt b 4 4)) R.TIME_ADJ_SEC_LO R.TIME_ADJ_SEC_HI (leAt b 8 8)
    (cSERVED, [], if cmd = 1 then setTimeOp s1 .core 0 else timeAddOp s1 .core 0)

/-! ### Pulse outputs (R366) -/

/-- PULSE_EDGE: the counter runs to the output's next edge, when that falls within the tick. -/
def pulseEdgeOp (s : State) (p : Nat) : State :=
  match (nthD {} s.time.pulses p).next with
  | some t =>
    let k := max 1 (cyclesTo s.tick.counter t s.tick.incr)
    if k < cyclesToBoundary s then elapse s k else s
  | none => s

/-- PERIOD and WIDTH of an output are within R366's limits. -/
def pulseOk (s : State) (p : Nat) : Bool :=
  let period := regN s (pulseKey R.TIME_P_PERIOD p)
  let width := regN s (pulseKey R.TIME_P_WIDTH p)
  decide (10 ≤ width) && (period == 0 || (decide (100 ≤ period) && decide (width + 10 ≤ period)))

/-- An output armed at the counter's present value: a START in the past fires at the next cycle (R366). -/
def armPulse (s : State) (p : Nat) : State :=
  { setFlag s (pulseKey R.TIME_P_CFG p) 0 true with
    time := { s.time with pulses := setAt {} s.time.pulses p { nthD {} s.time.pulses p with next := some (pulseStart s p) } } }

/-- TIME_P_CFG.EN written. Written 0, no further edge is fired; an output that is high falls after its WIDTH. -/
def pulseCfgOp (s : State) (w : Win) (v : Nat) : State :=
  if !mayWrite s w R.TIME_P_CFG then s
  else
    let p := fld s R.TIME_PIDX 1 0
    let on := flag s (pulseKey R.TIME_P_CFG p) 0
    if bitOf v 0 then (if on then s else if pulseOk s p then armPulse s p else stepRefused s)
    else { setFlag s (pulseKey R.TIME_P_CFG p) 0 false with
      time := { s.time with pulses := setAt {} s.time.pulses p { nthD {} s.time.pulses p with next := none } } }

end Sys2Proof.Machine
end

