-- ==== Sys2Proof/Machine/PowerMoves.lean ====
section
/-!
DEFINITION. Moves between the power states P0 to P3 (R431 to R434).
-/
namespace Sys2Proof.Machine

/-- The state left when the package loses everything but its flash, the stacks' lives and what the pins show (R431). -/
def bareState (s : State) : State :=
  { pending := s.pending, regs := [(R.FLT_WIRE_RAW, getR s R.FLT_WIRE_RAW)].filter (fun e => e.2 != 0),
    store := { bankLeft := s.store.bankLeft, stackLeft := s.store.stackLeft, lifeDone := s.store.lifeDone }, irq := { raw := s.irq.raw }, host := { perst := s.host.perst },
    ciph := { marks := s.ciph.marks }, sec := s.sec, pwr := { locked := false },
    free := s.free, lastRead := s.lastRead, sent := s.sent }

/-- POWER_OFF: P3. -/
def powerOffOp (s : State) : State :=
  if s.pwr.state = 3 then s else { bareState s with pwr := { state := 3, mainEn := false, locked := false } }

/-- POWER_ON: start-up begins at step 1. TICK, TIME and PWR wait for step 2 (R44, R442). -/
def powerOnOp (s : State) : State :=
  if s.pwr.state = 3 then
    let s1 : State := { bareState s with sec := flashStart s.sec }
    setStep (setBlk (setBlk (setBlk (relatch s1) 0x01 bOFF) 0x78 bOFF) 0x98 bOFF) 1
  else s

/-! ### P0 and P1 -/

/-- The field dies' pages. -/
def fldPages : List Nat := (List.range 8).map (· + 0x10)

/-- A move ends: PWR_RES shows SERVED, PWR_STATE the state. -/
def moveEnds (s : State) (st : Nat) : State :=
  let s1 := modPwr (setFld s R.PWR_STATE 3 0 (st + 4 * st)) (fun p => { p with state := st, move := none, parked := false })
  event (setN s1 R.PWR_RES (cSERVED * 16)) pgPWR 0

/-- A move begins: out of P0 by draining STREAM and COLL, out of P1 to P0 by unparking the dies (R433). -/
def moveBegins (s : State) (tgt : Nat) : State :=
  let s1 := modPwr (setFld (setN s R.PWR_RES 1) R.PWR_STATE 3 2 tgt) (fun p => { p with move := some tgt, parked := false })
  if s.pwr.state = 0 then drainOp (drainOp s1 pgSTRM) pgCOLL
  else if tgt = 0 then fldPages.foldl enableOp s1
  else s1

/-- A move is requested (R432). -/
def moveOp (s : State) (tgt : Nat) : State :=
  if s.pwr.move.isSome then setFld s R.PWR_RES 7 4 cBUSY
  else if 2 < tgt then setN s R.PWR_RES (cPOLICY * 16)
  else if tgt = s.pwr.state then setN s R.PWR_RES (cSERVED * 16)
  else if s.pwr.state = 0 ∧ midRound s then setN s R.PWR_RES (cPOLICY * 16)
  else moveBegins s tgt

/-- PWR_REQ with GO, through a window. -/
def moveWrite (s : State) (w : Win) (tgt : Nat) : State := if mayWrite s w R.PWR_REQ then moveOp s tgt else s

/-- STREAM and COLL are OFF: Mirder writes ENABLE = 0 to the field dies. -/
def parkSettle (s : State) : State :=
  if s.pwr.move.isSome && s.pwr.move != some 0 && s.pwr.state == 0 && !s.pwr.parked && isOff s pgSTRM && isOff s pgCOLL then
    modPwr (fldPages.foldl drainOp s) (fun p => { p with parked := true })
  else s

/-- Mirder sends an expelled WG9 to P1 once no move is under way (R348). -/
def expelSettle (s : State) : State :=
  if s.hlth.toP1 && s.pwr.move.isNone then
    let s1 : State := { s with hlth := { s.hlth with toP1 := false } }
    if s.pwr.state = 0 then moveBegins s1 1 else s1
  else s

/-! ### P2 -/

/-- Pages whose registers P2 keeps: the always-on domain's (TICK, TIME, the wake latches of IRQ, PWR) and those that show
Mirder's saved data (GLB, SEC, SITE, HEALTH). -/
def keptInP2 (page : Nat) : Bool :=
  page == 0x00 || page == 0x01 || page == 0x78 || page == 0x80 || page == 0x98 || page == pgSEC || page == pgSITE || page == pgHLT

/-- The blocks whose clocks stop, among the pages kept. -/
def stopBlocks (s : State) : State :=
  setBlk (setBlk (setEnable (setBlk (setEnable (setBlk s pgSITE bOFF) pgSITE false) pgHLT bOFF) pgHLT false) pgSEC bOFF) 0x80 bOFF

/-- WG9 wakes: MAIN_EN goes high and start-up begins at step 1 (R434, R444). -/
def leaveP2 (s : State) : State :=
  let s1 := modPwr (setStep (setFld s R.PWR_STATE 3 0 0) 1) (fun p => { p with state := 0, mainEn := true, resume := true, locked := false, dies := List.replicate 8 {} })
  event s1 pgPWR 0

/-- A latch that requests wake-up is set. -/
def wakeDue (s : State) : Bool := (regN s R.IRQ_WAKE &&& regN s R.IRQ_WAKE_EN) % 2 ^ 22 != 0

/-- The registers that tell of the erasure that entry to P2 makes (R297). DEDUCED (238): they keep it, since LCIPH_ERASE_CAUSE has a bit for
it. -/
def eraseReg (k : Nat) : Bool := k == R.LCIPH_ERASE_CAUSE || k == R.LCIPH_ERASURES || k == hdr pgLCIPH oEVT || k == hdr pgLCIPH oEVTCNT

/-- P2 is entered: line keys erased, SEAL keys and Mirder's data kept, all else lost; MAIN_EN low. -/
def enterP2 (s : State) : State :=
  let s1 := eraseForP2 (linkDownOp s)
  let s2 : State :=
  { pending := s1.pending, regs := s1.regs.filter (fun e => keptInP2 (pageOf e.1) || eraseReg e.1 || e.1 == R.FLT_WIRE_RAW),
    store := { bankLeft := s1.store.bankLeft, stackLeft := s1.store.stackLeft, lifeDone := s1.store.lifeDone }, tick := s1.tick, time := s1.time, irq := { raw := s1.irq.raw, owed := s1.irq.owed },
    regn := s1.regn, ciph := { seals := s1.ciph.seals, marks := s1.ciph.marks }, job := s1.job, site := s1.site, hlth := s1.hlth, sec := s1.sec,
    line := { mods := List.replicate 2 { pm := { next := secOf s1.tick.counter } } },
    pwr := { s1.pwr with mainEn := false, resume := false }, free := s1.free, lastRead := s1.lastRead, sent := s1.sent }
  let s3 := moveEnds (stopBlocks s2) 2
  if wakeDue s3 then leaveP2 s3 else s3

/-! ### The end of a move -/

/-- Every field die is OFF. -/
def allParked (s : State) : Bool := fldPages.all (isOff s)
/-- Every field die is in RUN. -/
def allUnparked (s : State) : Bool := fldPages.all (inRun s)

/-- POWER_MOVE_DONE: the move under way has done what R433 or R434 gives. -/
def moveDoneOp (s : State) : State :=
  match s.pwr.move with
  | none => s
  | some tgt =>
    if s.pwr.state = 0 then
      if s.pwr.parked && allParked s then (if tgt = 1 then moveEnds s 1 else enterP2 s) else s
    else if tgt = 0 then (if allUnparked s then moveEnds s 0 else s)
    else enterP2 s

end Sys2Proof.Machine
end

