-- ==== Sys2Proof/Machine/Views.lean ====
section
/-!
DEFINITION. What a register read shows (R14): the register file, and the registers that show other state, computed here. A
key carries the bank that the page's index register selects.
-/
namespace Sys2Proof.Machine

/-- The fields of a word, low bits first: (value, width). -/
def packBits : List (Nat × Nat) → Nat
  | [] => 0
  | (v, w) :: t => v % 2 ^ w + 2 ^ w * packBits t

/-- TICK page. -/
def viewTick (s : State) (k : Nat) : Option Nat :=
  if k = R.TICK_NOW_LO then some s.tick.now
  else if k = R.TICK_STAT then some (putBits (regN s R.TICK_STAT) 1 1 (ofBool s.tick.held))
  else none

/-- TIME page. -/
def viewTime (s : State) (k b : Nat) : Option Nat :=
  if k = R.TIME_NOW_NS then some (nsOf s.tick.counter)
  else if k = R.TIME_P_CFG then some (putBits (regN s (keyB k b)) 1 1 (ofBool (pulseLevel s b)))
  else none

/-- IRQ page. -/
def viewIrq (s : State) (k b : Nat) : Option Nat :=
  if k = R.IRQ_LEVEL then
    let st := irqStack s b
    some (packBits [(st.length, 8), (irqLevel s b, 8), ((st.headD (0, 0)).1, 10)])
  else if R.IRQ_PEND0 ≤ k ∧ k ≤ R.IRQ_PEND31 then
    let g := (k - R.IRQ_PEND0) / 4
    some (packBits ((List.range 32).map (fun j => (ofBool (pendAt s b (32 * g + j)), 1))))
  else if k = R.IRQ_WAKE_RAW then some (s.irq.raw.toNat % 2 ^ 20)
  else none

/-- STATION page. -/
def viewStation (s : State) (k b : Nat) : Option Nat :=
  if k = R.STN_BUDGET then some (packBits [(mapBudget s.stn.inForce b, 16), (committed s b, 16)])
  else if k = R.STN_BUDGET_NOW then some (packBits [(mapGet 0 s.stn.effective b, 16), (mapGet 0 s.stn.carried b, 16)])
  else none

/-- STREAM page. -/
def viewStream (s : State) (k b : Nat) : Option Nat :=
  if k = R.STRM_SLOT_STAT then
    some (match streamAt s b with | some st => packBits [(st.id, 16), (st.state, 2), (ofBool st.member, 1)] | none => 0)
  else if k = R.STRM_SLOT_SQ then
    some (match streamAt s b with | some st => packBits [(st.head, 16), (st.tail, 16)] | none => 0)
  else if k = R.STRM_SLOT_INFL then
    some (match streamAt s b with | some st => st.tiles.length | none => 0)
  else if k = R.STRM_OPEN_CNT then some s.strm.slots.length
  else none

/-- CODEC page. -/
def viewCodec (s : State) (k b : Nat) : Option Nat :=
  if k = R.CODEC_SLOT_STAT then
    let c := cslot s (cslotKey (b % 128) (b / 2048 % 2) (b / 256 % 8))
    some (packBits [(c.state, 2), (c.gen, 6), (c.count, 24)])
  else if k = R.CODEC_CTX_CFG ∧ b = 0 then some (putBits (regN s k) 16 16 1)
  else none

/-- POOL, SWITCH and SCHED pages. -/
def viewSwitch (s : State) (k b : Nat) : Option Nat :=
  if k = R.POOL_SEG_COUNT ∧ b < 8 then some (segCount s 0 b)
  else if k = R.SW_CELLS_H0 then some (freeCells s 0)
  else if k = R.SW_CELLS_H1 then some (freeCells s 1)
  else if pageOf k = 0x51 ∧ blkState s 0x51 = bOFF then none
  else if k = R.SCHED_PORT_CAP then some (packBits [(portBulk s b, 16), (portPriv s b, 16)])
  else if k = R.SCHED_PORT_RATE then some (portRate s b % 2 ^ 20)
  else if k = R.SCHED_GCL_STAT then
    let q := schedOf s b
    some (match q.gcl with
      | some g =>
        let e := gclNow g s.tick.now
        packBits [(1, 1), (ofBool q.gclNext.isSome, 1), (e.1, 8), (e.2.1 ||| 7, 8)]
      | none => 2 * ofBool q.gclNext.isSome + 0xFF * 1024)
  else if k = R.SCHED_GCL_CYCLE then some (match (schedOf s b).gcl with | some g => gclCycle g % 2 ^ 24 | none => 0)
  else if k = R.SCHED_SUB_QUEUED then some ((s.sw.frames.filter (fun f => f.flow == b)).length % 2 ^ 24)
  else none

/-- A selected performance bin: 0 current, else the n-th of its history (R255). -/
def pmSelected (s : State) (md sel : Nat) : Option PmBin :=
  let p := (lineMod s md).pm
  let n := sel % 128
  if sel / 128 % 2 = 1 then (if n = 0 then p.day else p.days[n - 1]?) else (if n = 0 then p.quarter else p.quarters[n - 1]?)

/-- A counter of R256 of a bin, saturating at 32 bits, FEC at 64. -/
def pmShown (x : PmBin) (i : Nat) : Nat :=
  let n := nthD 0 x.counts i
  if i = 6 then min 0xFFFFFFFFFFFFFFFF n else min 0xFFFFFFFF n

/-- The register at offset 0x98 + 4j shows a counter: its number, and whether its high word. -/
def pmIndex (j : Nat) : Nat × Bool := if j ≤ 6 then (j, false) else (j - 1, j == 7)

/-- LFRM pages: k is the key on page LFRM0, md the module. -/
def viewLfrm (s : State) (k md b : Nat) : Option Nat :=
  let m := lineMod s md
  if k = R.LFRM_STATE then
    some (packBits [(m.delin, 2), (ofBool m.los, 1), (ofBool m.lof, 1), (ofBool (keylessDefect s md), 1), (ofBool (lineDefect s md), 1),
      (ofBool m.steer.isSome, 1), (ofBool m.rdi, 1), (m.badRun, 3)])
  else if k = R.LFRM_SEQ_TX_LO then some m.seq
  else if k = R.LFRM_SEQ_RX_LO then some m.rxSeq
  else if R.LFRM_PM_START_LO ≤ k ∧ k ≤ R.LFRM_PM_PSTEP then
    let x := pmSelected s md b
    some (match x with
      | none => 0
      | some x =>
        if k = R.LFRM_PM_START_LO then x.start
        else if k = R.LFRM_PM_START_HI then x.start / 2 ^ 32
        else if k = R.LFRM_PM_FLAGS then 1 + 2 * ofBool x.suspect
        else
          let j := pmIndex ((k - R.LFRM_PM_ES) / 4)
          if j.2 then pmShown x j.1 / 2 ^ 32 else pmShown x j.1)
  else none

/-- LDLV page: the bank of a context register is port × 4 + direction. -/
def viewLdlv (s : State) (k b : Nat) : Option Nat :=
  let md := b / 4
  let dir := b % 4
  if k = R.LDLV_RTT ∧ md < 2 then
    let c := lineCtx s md dir
    some (packBits [(c.ref.getD 0, 16), (c.rtt.getD 0, 16)])
  else if k = R.LINE_CAP ∧ md < 2 then some (packBits [(ctxCap s md dir, 16), (ofBool (ctxClamped s md dir), 1)])
  else if k = R.LDLV_UNSETTLED ∧ md < 2 then some (lineCtx s md dir).loads.length
  else if k = R.LDLV_STATE ∧ blkState s 0x64 ≠ bOFF then
    let port := b
    let cur := lineCtx s port (ocuMod s port).txDir
    let frozen := decide (port < 2) && ctxFrozen s port (ocuMod s port).txDir
    let stepped := decide (port < 2) && cur.stepped.any (fun t => decide (s.tick.now < t + 125000))
    some (packBits [(ofBool frozen, 1), (ofBool stepped, 1), (0, 2), (activeLanes s port false, 4), (activeLanes s port true, 4)])
  else none

/-- COLL and GROUP pages. -/
def viewColl (s : State) (k b : Nat) : Option Nat :=
  if k = R.COLL_STAT then some (packBits [(s.coll.active.length, 16), ((s.coll.active.map chunksMoving).sum, 16)])
  else if k = R.GRP_STAT then
    some (match groupAt s b with | some g => packBits [(g.state, 8), ((activeOf s b).length, 7)] | none => 0)
  else if k = R.GRP_EPOCH then some (match groupAt s b with | some g => g.epoch | none => 0)
  else if k = R.GRP_PRESENT then some (match groupAt s b with | some g => (presentOf g).length | none => 0)
  else if k = R.GRP_ENABLED then some s.coll.groups.length
  else none

/-- LCIPH and SEAL pages: the bank of a pair is module + 2 × side + 4 × direction. -/
def viewCipher (s : State) (k b : Nat) : Option Nat :=
  let slot (i : Nat) := keySlot s (b % 2) (b / 2 % 2) (b / 4) i
  let side := b / 2 % 2
  let sealed := if side = 1 then 0 else match currentKey s (b % 2) (b / 4) with | some i => (slot i).sealed | none => 0
  if k = R.LCIPH_SLOT_STAT then
    let keyless := if side = 0 then keylessTx s (b % 2) (b / 4) else keylessRx s (b % 2) (b / 4)
    some (packBits [((slot 0).state, 2), ((slot 1).state, 2), (ofBool keyless, 1)])
  else if k = R.LCIPH_EPOCH0 then some (if (slot 0).state = 0 then 0 else (slot 0).epoch)
  else if k = R.LCIPH_EPOCH1 then some (if (slot 1).state = 0 then 0 else (slot 1).epoch)
  else if k = R.LCIPH_SEALED_LO then some sealed
  else if k = R.LCIPH_SEALED_HI then some (sealed / 2 ^ 32 % 2)
  else if k = R.SEAL_SLOT_STAT then some (ofBool (sealSlot s b).isSome)
  else if k = R.SEAL_CTR_NOW_LO then some (match sealSlot s b with | some x => x.ctr | none => 0)
  else if k = R.SEAL_CTR_NOW_HI then some (match sealSlot s b with | some x => x.ctr / 2 ^ 32 | none => 0)
  else none

/-- OCU and SEC pages. The digests show once Mirder runs; before, the registers hold their Reset column (R13). -/
def viewOcu (s : State) (k b : Nat) : Option Nat :=
  if k = R.OCU_STATE then
    let o := ocuMod s b
    some (putBits (regN s (keyB k b)) 4 3 (nthD 0 o.attempts o.rxDir))
  else if k = R.OCU_STEER_RES then
    let o := ocuMod s b
    some (putBits (putBits (regN s (keyB k b)) 11 8 o.txq.length) 15 12 o.rxq.length)
  else if R.SEC_DIG0 ≤ k ∧ k ≤ R.SEC_DIG7 ∧ fld s R.SEC_BOOT 3 2 = 3 then some (beAt (nthD [] (digests s) b) (k - R.SEC_DIG0) 4)
  else none

/-- The computed value of a register that shows other state. -/
def viewOf (s : State) (key : Nat) : Option Nat :=
  let k := key % bankBase
  let b := key / bankBase
  match pageOf key with
  | 0x01 => viewTick s k
  | 0x78 => viewTime s k b
  | 0x80 => viewIrq s k b
  | 0xB0 => viewStation s k b
  | 0xB1 => viewStream s k b
  | 0x41 => viewCodec s k b
  | 0x48 => viewSwitch s k b
  | 0x50 => viewSwitch s k b
  | 0x51 => viewSwitch s k b
  | 0x58 => viewColl s k b
  | 0x59 => viewColl s k b
  | 0x60 => viewLfrm s k 0 b
  | 0x61 => viewLfrm s (k - 0x1000) 1 b
  | 0x64 => viewLdlv s k b
  | 0x68 => viewCipher s k b
  | 0x69 => viewCipher s k b
  | 0x70 => viewOcu s k b
  | 0x90 => viewOcu s k b
  | _ => none

/-- What a register shows a reader: write-only fields read 0 (R14). -/
def showReg (s : State) (key : Nat) : BitVec 32 :=
  BitVec.ofNat 32 (((viewOf s key).getD (regN s key)) &&& readMask key)

/-- What a read through a window returns: 0 where the window sees no register (R14, R396). -/
def readAt (s : State) (w : Win) (key : Nat) : BitVec 32 := if seenBy w key then showReg s key else 0

/-! ### The reads that latch or clear -/

/-- The latch bank of a window. -/
def winBank (w : Win) : Nat := match w with | .bar0 => 0 | .bar2 => 1 | .core => 2

/-- A read of TICK_NOW_LO: the low bits returned, the high bits latched into the window's TICK_NOW_HI. -/
def tickReadOp (s : State) (w : Win) : State :=
  { setN s (keyB R.TICK_NOW_HI (winBank w)) (s.tick.now / 2 ^ 32) with lastRead := BitVec.ofNat 32 s.tick.now }

/-- A read of TIME_NOW_NS after cycles of the tick have passed: SUB and SEC are latched. -/
def timeReadOp (s : State) (w : Win) (elapsed : Nat) : State :=
  let s1 := elapse s elapsed
  let t := s1.tick.counter
  let b := winBank w
  let s2 := setN s1 (keyB R.TIME_NOW_SUB b) (subOf t)
  let s3 := setN (setN s2 (keyB R.TIME_NOW_SEC_LO b) (secOf t)) (keyB R.TIME_NOW_SEC_HI b) (secOf t / 2 ^ 32)
  { s3 with lastRead := BitVec.ofNat 32 (nsOf t) }

/-- A read of LFRM_SEQ_TX_LO or LFRM_SEQ_RX_LO: HI is latched. -/
def seqReadOp (s : State) (w : Win) (md : Nat) (rx : Bool) : State :=
  let m := lineMod s md
  let q := if rx then m.rxSeq else m.seq
  { setN s (keyB (lf (if rx then R.LFRM_SEQ_RX_HI else R.LFRM_SEQ_TX_HI) md) (winBank w)) (q / 2 ^ 32 % 2 ^ 16) with
    lastRead := BitVec.ofNat 32 q }

/-- The registers cleared by a read of one: POOL_SEG_LOW is set to FREE instead. -/
def clearRead (s : State) (key : Nat) : State :=
  if key % bankBase = R.POOL_SEG_LOW then setN s key (segFree s (key / bankBase / 8) (key / bankBase % 8))
  else setR s key (getR s key &&& ~~~(BitVec.ofNat 32 (rcMask key)))

/-- A read of a register through a window: the value; through BAR2 its counters clear (R14). The reads that latch do so. -/
def readClearOp (s : State) (w : Win) (page off : Nat) : State :=
  let key0 := page * 0x1000 + off / 4 * 4
  let key := keyB key0 (bankSel s w key0)
  let md := page % 2
  if key0 = R.TICK_NOW_LO then tickReadOp s w
  else if key0 = R.TIME_NOW_NS then timeReadOp s w 0
  else if key0 = lf R.LFRM_SEQ_TX_LO md then seqReadOp s w md false
  else if key0 = lf R.LFRM_SEQ_RX_LO md then seqReadOp s w md true
  else
    let s1 : State := { s with lastRead := if pageExists page then readAt s w key else 0 }
    if w = .bar2 ∧ pageExists page ∧ seenBy w key then (if rcMask key = 0 then s1 else clearRead s1 key) else s1

end Sys2Proof.Machine
end

