-- ==== Sys2Proof/Machine/RegWrite.lean ====
section
/-!
DEFINITION. A register write through a window (R13, R14, R396, R400): every page's registers, with the values each refuses.
Registers whose write is a command act as that command.
-/
namespace Sys2Proof.Machine

/-- A write of the bits that the access codes allow. -/
def plainWrite (s : State) (key v : Nat) : State := setR s key (writeMasked key (getR s key) (BitVec.ofNat 32 v))

/-- A write that is ignored unless its value is allowed. -/
def writeIf (s : State) (ok : Bool) (key v : Nat) : State := if ok then plainWrite s key v else s

/-- A write that is ignored, with the page's CFG_REFUSED event k, unless its value is allowed. -/
def writeOr (s : State) (ok : Bool) (page k key v : Nat) : State := if ok then plainWrite s key v else event s page k

/-- A write of a ring's head, past the reserved bits of the word (R13): ignored beyond the tail. -/
def headWrite (s : State) (key size head tail v : Nat) : State :=
  if v < size ∧ (v + size - head % size) % size ≤ (tail % size + size - head % size) % size then setN s key v else s

/-- Within a range. -/
def inRange (x lo hi : Nat) : Bool := decide (lo ≤ x) && decide (x ≤ hi)

/-- Bits that Mirder writes from the control cores in registers that the windows only read (SITE, HEALTH and TIME pages). -/
def mirderBits (k : Nat) : Nat :=
  if k = R.SITE_STATE then 0x3F1F07
  else if k = R.SITE_EPOCH ∨ k = R.SITE_VIEW ∨ k = R.SITE_REACH ∨ k = R.SITE_WEIGHT ∨ k = R.SITE_COMMIT_LO ∨ k = R.SITE_ACCEPT_LO then 0xFFFFFFFF
  else if k = R.SITE_COMMIT_HI ∨ k = R.HLT_PROT_HI then 0xFFFF
  else if k = R.SITE_ACCEPT_HI then 0x1FFFF
  else if k = R.SITE_LAG then 7
  else if k = R.SITE_HEAL then 0xFFFFFF03
  else if k = R.HLT_STAT then 0xF707FF
  else if k = R.HLT_INPUT ∨ k = R.HLT_PROT_LO then 0xFFFFFFFF
  else if k = R.HLT_PARTNER then 0x1FFFF
  else if k = R.HLT_ROLE then 0x7FF3FFF
  else if k = R.HLT_HOIST then 0xFFFF0007
  else if k = R.HLT_PAR then 0xFFF
  else if k = R.TIME_INCR_FRAC ∨ k = R.TIME_OFFSET ∨ k = R.TIME_PATH_DELAY then 0xFFFFFFFF
  else if k = R.TIME_STAT then 0xF07
  else if k = R.TIME_PORT_STAT then 0xF
  else 0

/-- The field of such a register that an encoding table codes, and its reserved codes, which never appear in a value that WG9
produces (R15): high bit, low bit, first and last reserved code. -/
def reservedCodes (k : Nat) : Option (Nat × Nat × Nat × Nat) :=
  if k = R.SITE_STATE then some (2, 0, 4, 7)
  else if k = R.HLT_STAT then some (18, 16, 5, 7)
  else if k = R.HLT_HOIST then some (2, 0, 6, 7)
  else if k = R.TIME_STAT then some (11, 8, 0xC, 0xE)
  else none

/-- A word with a reserved code of its register read as 0. -/
def dropReserved (k v : Nat) : Nat :=
  match reservedCodes k with
  | some (hi, lo, a, b) => if inRange (bitsOf v hi lo) a b then putBits v hi lo 0 else v
  | none => v

/-- A write of those bits. -/
def mirderWrite (s : State) (key v : Nat) : State :=
  let m := mirderBits (key % bankBase)
  setN s key ((dropReserved (key % bankBase) v &&& m) ||| (regN s key &&& (0xFFFFFFFF - m)))

/-! ### The common header -/

/-- A write of BLK_CTRL (R402). -/
def ctrlWrite (s : State) (page v : Nat) : State :=
  let n := ofBool (bitOf v 1) + ofBool (bitOf v 2) + ofBool (bitOf v 3)
  if 1 < n then s
  else if bitOf v 1 then drainOp s page
  else if bitOf v 2 then blockResetOp s page
  else if bitOf v 3 then selftestOp s page
  else if bitOf v 0 then enableOp s page
  else drainOp s page

/-- BLK_LOCK: set only. -/
def lockWrite (s : State) (page v : Nat) : State := if bitOf v 0 then setFlag s (hdr page oLOCK) 0 true else s

/-- The header's registers. -/
def headerWrite (s : State) (page off v : Nat) : State :=
  if off = oCTRL then ctrlWrite s page v
  else if off = oLOCK then lockWrite s page v
  else plainWrite s (hdr page off) v

/-! ### Commands written to registers -/

/-- STRM_CMD: 1 OPEN, 2 CLOSE, 3 refused; ignored while PENDING (R73). -/
def strmCmd (s : State) (op slot : Nat) : State :=
  if flag s R.STRM_RES 0 ∨ op = 0 then s
  else if op = 1 then openCmd s
  else if op = 2 then closeCmd s slot
  else answerStrm s cPOLICY 0 0

/-- STRM_CMD through a window. -/
def strmCmdWrite (s : State) (w : Win) (op slot : Nat) : State := if mayWrite s w R.STRM_CMD then strmCmd s op slot else s

/-- CODEC_LD_CMD: 1 LOAD, 2 UNLOAD, 3 refused. -/
def loadCmdWrite (s : State) (w : Win) (op v : Nat) : State :=
  let ctx := bitsOf v 6 0
  let slot := bitsOf v 10 8
  if !loadWrites s w || op == 0 then s
  else if op = 1 then loadCmd s ctx slot
  else if op = 2 then unloadCmd s ctx slot
  else answerLoad s ctx slot cPOLICY

/-- STN_ARM_CMD. -/
def armWrite (s : State) (w : Win) (arm cancel : Bool) : State :=
  if mayWrite s w R.STN_ARM_CMD then
    let s1 := if arm then armCmd s else s
    if cancel then cancelCmd s1 else s1
  else s

/-- SCHED_GCL_CMD of the port in SCHED_PORT_IDX. -/
def gclWrite (s : State) (w : Win) (load off : Bool) : State :=
  if mayWrite s w R.SCHED_GCL_CMD then
    let p := fld s R.SCHED_PORT_IDX 2 0
    let s1 := if load then gclLoadOp s p else s
    if off then gclOffOp s1 p else s1
  else s

/-- COLL_CMD ABORT of the round in COLL_ABORT. -/
def abortWrite (s : State) (w : Win) : State :=
  if mayWrite s w R.COLL_CMD then abortCmd s (reg64 s R.COLL_ABORT_LO R.COLL_ABORT_HI) else s

/-- SCHED_SUB_IDX, with RELOAD. -/
def subWrite (s : State) (w : Win) (v : Nat) : State :=
  if mayWrite s w R.SCHED_SUB_IDX then
    let s1 := plainWrite s R.SCHED_SUB_IDX v
    if bitOf v 31 then reloadSub s1 (bitsOf v 11 0) else s1
  else s

/-- GLB_CTRL (R412). -/
def resetWrite (s : State) (w : Win) (v : Nat) : State :=
  if mayWrite s w R.GLB_CTRL && bitOf v 0 && bitsOf v 15 8 == 0xA5 then fullReset s 3 none else s

/-- PRIV_GATE CLOSE: through BAR2 (R398). -/
def gateWrite (s : State) (w : Win) (v : Nat) : State :=
  if w = .bar2 ∧ mayWrite s w R.PRIV_GATE ∧ bitOf v 1 then closeGate s 1 else s

/-- GLB_WDOG (R410). -/
def wdogWrite (s : State) (w : Win) (v : Nat) : State :=
  if mayWrite s w R.GLB_WDOG then { s with host := { s.host with wdog := setAt 0 s.host.wdog (bitsOf v 2 0) s.tick.now } } else s

/-- The work of a mailbox opcode and whether it is gated (R405). -/
def mbxWork (op : Nat) : Bool × (List Byte → State → Nat × List Byte × State) :=
  if op = 0x0001 then (false, infoWork)
  else if op = 0x0002 then (false, challengeWork)
  else if op = 0x0003 then (false, responseWork)
  else if op = 0x0010 then (true, createWork)
  else if op = 0x0011 then (true, endWork)
  else if op = 0x0012 then (false, statusWork)
  else if op = 0x0020 then (true, timeStepWork)
  else if op = 0x0030 then (true, stageWork)
  else (false, fun _ s => (cPOLICY, [], s))

/-- MBX_GO: the command in MBX_CMD runs. -/
def goWrite (s : State) (v : Nat) : State :=
  if bitOf v 0 && mbxOpen s then
    let f := mbxWork (fld s R.MBX_CMD 15 0)
    mbxRun s (fld s R.MBX_CMD 27 16) f.1 f.2
  else s

/-! ### The pages -/

/-- GLB page. -/
def writeGlb (s : State) (w : Win) (key v : Nat) : State :=
  if key = R.GLB_CTRL then resetWrite s w v
  else if key = R.PRIV_GATE then gateWrite s w v
  else if key = R.GLB_WDOG then wdogWrite s w v
  else plainWrite s key v

/-- HOLDOVER of a TIME_STAT word that Mirder writes: entering and leaving are the changes R362 describes. -/
def holdoverWritten (s : State) (v : Nat) : State :=
  if flag s R.TIME_STAT 1 = bitOf v 1 then s
  else if bitOf v 1 then enterHoldover s
  else { s with time := { s.time with holdFrom := none } }

/-- TIME page. DESIGN CHOICE (220): the refused code 3 of TIME_ADJ_CMD shows in BLK_EVT.CFG_REFUSED, as a bad SET or ADD does (R354):
the page has no result register for REFUSED_POLICY. -/
def writeTime (s : State) (w : Win) (key v : Nat) : State :=
  let k := key % bankBase
  if k = R.TIME_INCR_NS then (if w = .core then commitIncr s v else s)
  else if k = R.TIME_STAT ∧ w = .core then mirderWrite (holdoverWritten (setLocked s (bitOf v 0)) v) key v
  else if k = R.TIME_ADJ_CMD then
    let op := bitsOf v 1 0
    if op = 1 then setTimeOp s w 0 else if op = 2 then timeAddOp s w 0 else if op = 3 then stepRefused s else s
  else if k = R.TIME_P_CFG then pulseCfgOp s w v
  else if R.TIME_P_START_NS ≤ k ∧ k ≤ R.TIME_P_WIDTH then writeOr s (!flag s (keyB R.TIME_P_CFG (key / bankBase)) 0) pgTIME 5 key v
  else if k = R.TIME_PTP_CFG then let x := bitsOf v 11 8; writeIf s (x == 0 || decide (9 ≤ x)) key v
  else if k = R.TIME_HOLD_MAX then writeIf s (inRange (bitsOf v 7 0) 31 255) key v
  else if k = R.TIME_IDX then writeIf s (decide (bitsOf v 2 0 ≤ 5)) key v
  else plainWrite s key v

/-- IRQ page. -/
def writeIrq (s : State) (w : Win) (key v : Nat) : State :=
  let k := key % bankBase
  if k = R.IRQ_DB then doorbell s w v
  else if k = R.SERVE_BEGIN then serveBeginOp s w v
  else if k = R.SERVE_END then serveEndOp s w v
  else if k = R.IRQ_TIDX then writeIf s (decide (bitsOf v 3 0 ≤ 8)) key (v % 16)
  else if k = R.IRQ_SRC_CFG then
    if 9 ≤ bitsOf v 3 0 then s
    else
      let s1 := plainWrite s key v
      if bitOf v 19 then unmaskOp s1 (key / bankBase) else s1
  else if k = R.IRQ_SRC_SPACE then plainWrite s key (v % 2 ^ 16)
  else if k = R.IRQ_WAKE then wakeClear s v false
  else if k = R.IRQ_WAKE_EN then plainWrite s key (v % 2 ^ 22)
  else plainWrite s key v

/-- An alarm of bits 17 to 20 erases every key and closes the gate (R297, R374, R398). -/
def wireAlarm (s : State) (wire : Nat) : State := closeGate (kexErased (eraseOnAlarm s wire)) 4

/-- FLT_WIRE written (R374): an alarm whose wire still asserts sets its bit again, and erases again (R297). -/
def wireWrite (s : State) (v : Nat) : State :=
  wireClear ((List.range 4).foldl (fun a i =>
    let b := 17 + i
    if bitOf v b && flag s R.FLT_WIRE b && flag s R.FLT_WIRE_RAW b then wireAlarm a b else a) s) v

/-- FAULT page. -/
def writeFault (s : State) (key v : Nat) : State :=
  let k := key % bankBase
  let src := key / bankBase
  if k = R.FLT_WIRE then wireWrite s v
  else if k = R.FLT_LOG_BASE_LO ∨ k = R.FLT_LOG_BASE_HI then writeOr s (isOff s 0x81) 0x81 4 key v
  else if k = R.FLT_LOG_CFG then
    if !isOff s 0x81 then event s 0x81 4 else writeIf s (inRange (bitsOf v 4 0) 10 22) key v
  else if k = R.FLT_LOG_HEAD then
    let size := 2 ^ fld s R.FLT_LOG_CFG 4 0
    headWrite s key size (regN s R.FLT_LOG_HEAD) (regN s R.FLT_LOG_TAIL) (bitsOf v 21 0)
  else if k = R.FLT_REACT then
    plainWrite s key (if decide (0xF00 ≤ src) || neverLeavesRun src then v &&& 0x11B else v)
  else if k = R.FLT_QUIET then
    let n := bitsOf v 15 0
    writeIf s (n != 0 && (!bitOf v 16 || decide (n ≤ 60))) key v
  else if k = R.FLT_RAISE3 then raiseMirder (plainWrite s key v) v
  else plainWrite s key v

/-- MAILBOX page. -/
def writeMbx (s : State) (key v : Nat) : State :=
  if key = R.MBX_GO then goWrite s v
  else if key = R.MBX_NOTE_HEAD then headWrite s key 64 (regN s R.MBX_NOTE_HEAD) (regN s R.MBX_NOTE_TAIL) (bitsOf v 5 0)
  else plainWrite s key v

/-- PWR page. -/
def writePwr (s : State) (w : Win) (key v : Nat) : State :=
  if key = R.PWR_REQ then (if bitOf v 2 then moveWrite s w (bitsOf v 1 0) else s)
  else if key = R.PWR_STEP_IDX then writeIf s (inRange (bitsOf v 3 0) 1 14) key (v % 16)
  else if key = R.PWR_THM_CFG then
    let hot := bitsOf v 7 0
    let trip := bitsOf v 23 16
    writeOr s (inRange hot 70 100 && inRange (bitsOf v 11 8) 1 15 && inRange (bitsOf v 15 12) 2 15 && inRange trip 100 115
      && decide (hot + 5 ≤ trip)) pgPWR 4 key v
  else if key = R.PWR_LIMIT then writeIf s (inRange (bitsOf v 11 0) 900 1800) key v
  else if key = R.PWR_RAIL_IDX then writeIf s (bitsOf v 2 0 != 7) key (v % 8)
  else plainWrite s key v

/-- STATION page. -/
def writeStation (s : State) (w : Win) (key v : Nat) : State :=
  if key = R.STN_ARM_CMD then armWrite s w (bitOf v 0) (bitOf v 1) else plainWrite s key v

/-- CRING_HEAD through a window: through BAR0 only where MEMBER is 1 (R396). -/
def cringHeadWrite (s : State) (w : Win) (v : Nat) : State :=
  let ring := fld s R.STRM_IDX 23 16
  if (if w = .bar0 then flag s (keyB R.CRING_CFG ring) 30 else mayWrite s w R.CRING_HEAD) then cringHead s ring v else s

/-- CRING_CFG through a window. -/
def cringCfgWrite (s : State) (w : Win) (v : Nat) : State :=
  if mayWrite s w R.CRING_CFG then cringCfg s (fld s R.STRM_IDX 23 16) v else s

/-- STREAM page. -/
def writeStream (s : State) (w : Win) (key v : Nat) : State :=
  let k := key % bankBase
  if k = R.STRM_CMD then strmCmdWrite s w (bitsOf v 1 0) (bitsOf v 27 16)
  else if k = R.STRM_DB then streamDoorbell s w (bitsOf v 11 0) (bitsOf v 27 12)
  else if k = R.CRING_CFG then cringCfgWrite s w v
  else if k = R.CRING_HEAD then cringHeadWrite s w (bitsOf v 15 0)
  else if k = R.CRING_BASE_LO ∨ k = R.CRING_BASE_HI then writeOr s (!ringBusy s (key / bankBase)) pgSTRM 3 key v
  else plainWrite s key v

/-- CODEC_CTX_CFG through a window. -/
def ctxWrite (s : State) (w : Win) (v : Nat) : State :=
  if mayWrite s w R.CODEC_CTX_CFG then ctxCfgWrite s (fld s R.CODEC_IDX 6 0) v else s

/-- CODEC page. -/
def writeCodec (s : State) (w : Win) (key v : Nat) : State :=
  let k := key % bankBase
  if k = R.CODEC_CTX_CFG then ctxWrite s w v
  else if k = R.CODEC_LD_CMD then loadCmdWrite s w (bitsOf v 17 16) v
  else if k = R.CODEC_LD_TMO then writeIf s (bitsOf v 15 0 != 0) key v
  else plainWrite s key v

/-- REGION page. -/
def writeRegion (s : State) (w : Win) (key v : Nat) : State :=
  if key = R.REG_CMD then regionCmd s w v
  else if key = R.REG_OUTER_GATE then outerGateOp s w v
  else plainWrite s key v

/-- POOL page (R177, R179). -/
def writePool (s : State) (w : Win) (key v : Nat) : State :=
  let k := key % bankBase
  let off := isOff s 0x48
  let b := key / bankBase
  if k = R.POOL_CMD then poolCmdWrite s w (bitsOf v 2 0) v
  else if k = R.POOL_IDX then writeIf s (decide (bitsOf v 2 0 ≤ 4)) key v
  else if k = R.POOL_SEG_BASE_LO ∨ k = R.POOL_SEG_BASE_HI ∨ k = R.POOL_SEG_META_LO ∨ k = R.POOL_SEG_META_HI ∨ k = R.POOL_SEG_COUNT then
    if b < 8 then s else writeOr s off 0x48 5 key v
  else if k = R.POOL_P0_MIB then
    if !off then event s 0x48 5 else writeIf s (inRange (bitsOf v 5 0) 32 48) key v
  else plainWrite s key v

/-- SWITCH page. -/
def writeSwitch (s : State) (key v : Nat) : State :=
  let k := key % bankBase
  let x := bitsOf v 17 0
  if k = R.SW_CELL_RSV then writeOr s (decide (x < cellXoff s) && decide (cellXoff s < cellXon s)) pgSW 4 key v
  else if k = R.SW_XOFF then writeOr s (decide (cellRsv s < x) && decide (x < cellXon s)) pgSW 4 key v
  else if k = R.SW_XON then writeOr s (decide (cellRsv s < cellXoff s) && decide (cellXoff s < x)) pgSW 4 key v
  else if k = R.SW_RED_IDX then writeIf s (bitsOf v 1 0 != 3) key v
  else if k = R.SW_RED_MIN then writeOr s (decide (x < fld s (keyB R.SW_RED_MAX (key / bankBase)) 17 0)) pgSW 4 key v
  else if k = R.SW_RED_MAX then writeOr s (decide (fld s (keyB R.SW_RED_MIN (key / bankBase)) 17 0 < x)) pgSW 4 key v
  else if k = R.SW_RED_PROB then plainWrite s key (v % 256)
  else plainWrite s key v

/-- A port that an instance's hops use. -/
def instPort (inst p : Nat) : Bool := isPort (inst % 16) && (hopPorts (inst % 16) (inst / 16 % 16)).contains p

/-- Open streams use a port. -/
def portUsed (s : State) (p : Nat) : Bool := (usedInsts s).any (fun i => instPort i p)

/-- Open streams' rates fit a port's capacities (R198). -/
def portFits (s : State) (p : Nat) : Bool :=
  (usedInsts s).all (fun i => !(instPort i p && decide (256 ≤ i)) ||
    ([true, false].all (fun bulk =>
      let ports := hopPorts (i % 16) (i / 16 % 16)
      decide (declared s i bulk ≤ (ports.map (fun q => if bulk then portBulk s q else portPriv s q)).sum) || (i % 16 == stHOST && !bulk))))

/-- SCHED_CAP_Cn of a port: the three caps within RSV on a fabric port, within R on HP; a depth of 9 KiB at least (R199). -/
def capWrite (s : State) (key v : Nat) : State :=
  let p := key / bankBase
  let s1 := plainWrite s key v
  let sum := (List.range 3).foldl (fun a i => a + fld s1 (keyB (R.SCHED_CAP_C0 + 4 * i) p) 19 0) 0
  if bitsOf v 31 20 < 9 then s
  else if (p < 4 ∧ portRsv s p < sum) ∨ (p = 6 ∧ portRate s 6 < sum) then event s pgSCHED 1
  else s1

/-- SCHED page. -/
def writeSched (s : State) (w : Win) (key v : Nat) : State :=
  let k := key % bankBase
  let b := key / bankBase
  if k = R.SCHED_SUB_BASE_LO ∨ k = R.SCHED_SUB_BASE_HI ∨ k = R.SCHED_NODE_BASE_LO ∨ k = R.SCHED_NODE_BASE_HI then
    writeOr s (!anyOpen s) pgSCHED 1 key v
  else if k = R.SCHED_PORT_IDX then writeIf s (bitsOf v 2 0 != 7) key v
  else if k = R.SCHED_PORT_OVH then writeOr s (!portUsed s b) pgSCHED 1 key v
  else if k = R.SCHED_PORT_RSV then
    if b = 4 ∨ b = 5 then s
    else let s1 := plainWrite s key v; if portFits s1 b then s1 else event s pgSCHED 1
  else if k = R.SCHED_CAP_C0 ∨ k = R.SCHED_CAP_C1 ∨ k = R.SCHED_CAP_C2 then capWrite s key v
  else if R.SCHED_WT_C3 ≤ k ∧ k ≤ R.SCHED_WT_C7 then writeIf s (decide (8448 ≤ bitsOf v 23 0)) key v
  else if k = R.SCHED_GCL_CMD then gclWrite s w (bitOf v 0) (bitOf v 1)
  else if k = R.SCHED_POL_CIR then writeIf s (decide (bitsOf v 19 0 ≤ regN s (keyB R.SCHED_POL_PIR b))) key (v % 2 ^ 20)
  else if k = R.SCHED_POL_PIR then writeIf s (decide (regN s (keyB R.SCHED_POL_CIR b) ≤ bitsOf v 19 0)) key (v % 2 ^ 20)
  else if k = R.SCHED_POL_CFG then
    let s1 := plainWrite s key (v % 2)
    if bitOf v 0 && !flag s key 0 then { s1 with sw := { s1.sw with policers := mapDel s1.sw.policers b } } else s1
  else if k = R.SCHED_SUB_IDX then subWrite s w v
  else plainWrite s key v

/-- MIRROR page. -/
def writeMirror (s : State) (key v : Nat) : State :=
  if key = R.MIR_BASE_LO ∨ key = R.MIR_BASE_HI then writeIf s (isOff s pgMIR) key v
  else if key = R.MIR_CFG then
    if isOff s pgMIR ∧ inRange (bitsOf v 4 0) 10 26 then plainWrite s key v
    else setFlag s key 5 (bitOf v 5)
  else if key = R.MIR_N then plainWrite s key (v % 2 ^ 24)
  else if key = R.MIR_TRIG then plainWrite s key (v % 16)
  else if key = R.MIR_HEAD then
    let size := 2 ^ fld s R.MIR_CFG 4 0
    headWrite s key size (regN s R.MIR_HEAD) (regN s R.MIR_TAIL) (bitsOf v 25 0)
  else plainWrite s key v

/-- COLL and GROUP pages. -/
def writeColl (s : State) (w : Win) (key v : Nat) : State :=
  let k := key % bankBase
  if k = R.COLL_RQ_BASE_LO ∨ k = R.COLL_RQ_BASE_HI then writeOr s (isOff s pgCOLL) pgCOLL 4 key v
  else if k = R.COLL_RQ_CFG then
    if !isOff s pgCOLL then event s pgCOLL 4 else writeIf s (inRange (bitsOf v 3 0) 6 12) key v
  else if k = R.COLL_DB then collDb s (bitsOf v 11 0)
  else if k = R.COLL_CMD then (if bitOf v 0 then abortWrite s w else s)
  else if k = R.COLL_CHK_TMO then writeIf s (bitsOf v 23 0 != 0) key v
  else if k = R.COLL_REPLAY_MAX then writeIf s (bitsOf v 3 0 != 0) key v
  else if k = R.GRP_BASE_LO ∨ k = R.GRP_BASE_HI then writeOr s (s.coll.groups.all (fun g => g.2.state != 1)) pgGRP 2 key v
  else if k = R.GRP_CMD then (if bitsOf v 1 0 = 0 then s else groupCmd s w (bitsOf v 1 0))
  else plainWrite s key v

/-- CLEAR_CUR of LFRM_PM_CMD through a window. -/
def clearCurWrite (s : State) (w : Win) (md : Nat) : State :=
  if mayWrite s w (lf R.LFRM_PM_CMD md) then clearCurOp s md else s

/-- LFRM pages; md is the module. -/
def writeLfrm (s : State) (w : Win) (md key v : Nat) : State :=
  let k := key % bankBase
  if k = lf R.LFRM_PM_SEL md then writeIf s (decide (bitsOf v 6 0 ≤ (if bitOf v 7 then 7 else 96))) key v
  else if k = lf R.LFRM_PM_CMD md then (if bitOf v 0 then clearCurWrite s w md else s)
  else plainWrite s key v

/-- LDLV page. -/
def writeLdlv (s : State) (key v : Nat) : State :=
  let k := key % bankBase
  let off := isOff s pgLDLV
  if k = R.LDLV_IDX then writeIf s (decide (bitsOf v 2 0 ≤ 5)) key v
  else if k = R.LDLV_CFG then writeOr s (off && inRange (bitsOf v 4 0) 2 16) pgLDLV 6 key v
  else if k = R.LDLV_STORE_BASE_LO then writeOr s off pgLDLV 6 key (v / 4096 * 4096)
  else if k = R.LDLV_STORE_BASE_HI then writeOr s off pgLDLV 6 key (v % 2 ^ 14)
  else if k = R.LDLV_STORE_GIB then
    if !off then event s pgLDLV 6 else writeIf s (inRange (bitsOf v 6 0) 4 64) key (v % 128)
  else if k = R.LDLV_RTO_MARGIN then writeIf s (bitsOf v 11 0 != 0) key (v % 4096)
  else if k = R.LDLV_ABANDON then writeIf s (decide (1250 ≤ bitsOf v 23 0)) key v
  else if k = R.LDLV_MAX_TX then writeIf s (decide (2 ≤ bitsOf v 3 0)) key (v % 16)
  else if k = R.LDLV_HOLD_MAX then writeIf s (bitsOf v 11 0 != 0) key (v % 4096)
  else if k = R.LDLV_LANE_CMD then laneCmdOp s (fld s R.LDLV_IDX 2 0) (bitsOf v 3 0)
  else plainWrite s key v

/-- LCIPH and SEAL pages. -/
def writeCipher (s : State) (w : Win) (key v : Nat) : State :=
  if key = R.LCIPH_CMD then lciphCmdWrite s w (bitsOf v 2 0) v
  else if key = R.LCIPH_REKEY_S then writeIf s (inRange (bitsOf v 15 0) 10 360) key v
  else if key = R.SEAL_CMD then sealCmdWrite s w (bitsOf v 1 0) v
  else plainWrite s key v

/-- OCU page. -/
def writeOcu (s : State) (w : Win) (key v : Nat) : State :=
  let k := key % bankBase
  let md := key / bankBase % 2
  if k = R.OCU_GRID then
    let st := ocuState s md
    if st = ocABSENT ∨ st = ocINIT ∨ st = ocDARK ∨ st = ocFAILED then writeIf s (decide (bitsOf v 21 16 ≤ 48)) key v
    else event s pgOCU 6
  else if k = R.OCU_CMD then ocuCmdWrite s w (bitsOf v 1 0) v
  else if k = R.OCU_LOOP then writeIf s (bitsOf v 27 16 != 0) key v
  else if k = R.OCU_TOL then writeIf s (inRange (bitsOf v 11 0) 1 1000 && decide (3 ≤ bitsOf v 15 12)) key v
  else if k = R.OCU_ACQ_TMO then writeIf s (decide (12500 ≤ bitsOf v 23 0)) key v
  else if k = R.OCU_STEER_CMD then
    let s1 := if bitOf v 0 then steerCmdWrite s w false v else s
    if bitOf v 1 then steerCmdWrite s1 w true v else s1
  else if k = R.OCU_CMIS_CMD then (if bitOf v 0 then cmisGoOp s else s)
  else plainWrite s key v

/-- SITE and HEALTH pages. -/
def writeSite (s : State) (w : Win) (key v : Nat) : State :=
  let k := key % bankBase
  if k = R.SITE_TAB_LO ∨ k = R.SITE_TAB_HI then writeOr s (isOff s pgSITE) pgSITE 4 key v
  else if k = R.HLT_PT_LO ∨ k = R.HLT_PT_HI then writeOr s (isOff s pgHLT) pgHLT 5 key v
  else if w = .core ∧ k = R.SITE_EPOCH then
    if siteEpoch s < v then setN s key v else event s pgSITE 4
  else if w = .core ∧ (k = R.SITE_COMMIT_LO ∨ k = R.SITE_COMMIT_HI) then
    let s1 := mirderWrite s key v
    if siteState s = sHEALING ∨ siteCommit s1 = siteCommit s + 1 then s1 else event s pgSITE 4
  else if w = .core ∧ mirderBits k ≠ 0 then mirderWrite s key v
  else if k = R.HLT_THR then writeIf s (inRange (bitsOf v 10 0) 1 999) key v
  else if k = R.HLT_EVAL then writeIf s (decide (12500 ≤ bitsOf v 23 0) && inRange (bitsOf v 28 24) 8 16) key v
  else if k = R.HLT_IDX then writeIf s (decide (bitsOf v 3 0 ≤ 8)) key v
  else if k = R.HLT_WEIGHT then writeIf s (decide (bitsOf v 31 16 ≤ 1000)) key v
  else if k = R.HLT_EXP_INT then writeIf s (decide (7500000 ≤ v)) key v
  else if k = R.HLT_HOIST_RATE then plainWrite s key (v % 2 ^ 24)
  else if k = R.HLT_BER then writeIf s (inRange (bitsOf v 3 0) 2 8) key (v % 16)
  else plainWrite s key v

/-- A register that the write of its page reaches, past the window's check. -/
def writePage (s : State) (w : Win) (key v : Nat) : State :=
  let page := pageOf key
  if key % 0x1000 < 0x40 then headerWrite s page (key % 0x1000) v
  else match page with
  | 0x00 => writeGlb s w key v
  | 0x78 => if w = .core ∧ mirderBits (key % bankBase) ≠ 0 ∧ key % bankBase ≠ R.TIME_STAT then mirderWrite s key v else writeTime s w key v
  | 0x80 => writeIrq s w key v
  | 0x81 => writeFault s key v
  | 0x89 => writeMbx s key v
  | 0x98 => writePwr s w key v
  | 0xB0 => writeStation s w key v
  | 0xB1 => writeStream s w key v
  | 0x41 => writeCodec s w key v
  | 0x42 => writeRegion s w key v
  | 0x48 => writePool s w key v
  | 0x50 => writeSwitch s key v
  | 0x51 => writeSched s w key v
  | 0x52 => writeMirror s key v
  | 0x58 => writeColl s w key v
  | 0x59 => writeColl s w key v
  | 0x60 => writeLfrm s w 0 key v
  | 0x61 => writeLfrm s w 1 key v
  | 0x64 => writeLdlv s key v
  | 0x68 => writeCipher s w key v
  | 0x69 => writeCipher s w key v
  | 0x70 => writeOcu s w key v
  | 0xA0 => writeSite s w key v
  | 0xA1 => writeSite s w key v
  | 0x90 => if key = R.SEC_DIG_IDX then writeIf s (decide (bitsOf v 2 0 ≤ 5)) key v else plainWrite s key v
  | _ =>
    if 0x20 ≤ page ∧ page ≤ 0x2F ∧ key % 0x1000 = 0x5C then writeIf s (inRange (bitsOf v 7 0) 1 168) key v
    else plainWrite s key v

/-- Registers whose writes follow window rules of their own: the three of the unprivileged write set, and SERVE_BEGIN and
SERVE_END. -/
def ownRule (k : Nat) : Bool :=
  k == R.STRM_DB || k == R.CRING_HEAD || k == R.IRQ_DB || k == R.SERVE_BEGIN || k == R.SERVE_END

/-- A 32-bit write of a register. -/
def writeReg (s : State) (w : Win) (page off v : Nat) : State :=
  let k := page * 0x1000 + off
  if (regRow k).isSome && (ownRule k || mayWrite s w k) then writePage s w (keyB k (bankSel s w k)) v else s

/-- A write of some size at an offset (R396): a narrower one is ignored and counted, a 64-bit one is two. -/
def sizedWrite (s : State) (w : Win) (page off size v : Nat) : State :=
  if off % 4 ≠ 0 then s
  else if size = 4 then writeReg s w page off (v % 2 ^ 32)
  else if size = 8 then writeReg (writeReg s w page off (v % 2 ^ 32)) w page (off + 4) (v / 2 ^ 32)
  else if size < 4 ∧ w ≠ .core then bump s R.CXL_NARROW
  else s

end Sys2Proof.Machine
end

