-- ==== Sys2Proof/Machine/Startup.lean ====
section
/-!
DEFINITION. Start-up (R439 to R444), the boot chain's choice of slot (R415 to R419, R425), the full resets that arrive from outside
(R410, R411) and PERST_N (R443).
-/
namespace Sys2Proof.Machine

/-- The code of the start-up step in progress. -/
def stepNow (s : State) : Nat := fld s R.PWR_STATE 7 4

/-- A step ends: the next begins. Leaving P2, step 5 follows step 2 (R444). In step 5 the links train (R45). -/
def nextStep (s : State) (k : Nat) : State :=
  let n := if k = 2 ∧ s.pwr.resume then 5 else if k = 14 then 15 else k + 1
  setStep (if n = 5 then allLinks.foldl (fun a l => putLink a l.1 l.2 1) s else s) n

/-! ### The steps -/

/-- Step 2: the PLLs are locked; TICK, TIME and PWR run (R44). -/
def pllsLock (s : State) : State :=
  let s1 := setBlk (setBlk (setBlk (modPwr s (fun p => { p with locked := true })) 0x01 bRUN) 0x78 bRUN) 0x98 bRUN
  if s1.pwr.resume then sendOwed s1 else s1

/-- A flash slot passes the checks of R417: both images there, and no SVN below the floor. -/
def slotWhole (c : SecSt) (k : Nat) : Bool :=
  let x := nthD {} c.slots k
  match x.first, x.mirder with
  | some a, some b => decide (c.floor ≤ a.svn) && decide (c.floor ≤ b.svn)
  | _, _ => false

/-- The slot that boots, and whether it is the fallback; none when both fail (R417). -/
def slotBoots (c : SecSt) (ok : Bool) : Option (Nat × Bool) :=
  if ok && slotWhole c c.active then some (c.active, c.reverted)
  else if slotWhole c (1 - c.active) then some (1 - c.active, true)
  else none

/-- Step 4: the slot is chosen. -/
def bootStep (s : State) (ok : Bool) : State :=
  match slotBoots s.sec ok with
  | none => haltAt s 4
  | some (k, fb) => nextStep (setN (modSec s (fun c => { c with booted := k })) R.SEC_BOOT (k + 2 * ofBool fb + 4)) 4

/-- Step 5: every link has trained, at half width where named as die × 3 + link. The lanes replaced are free (R37). -/
def trainLinks (s : State) (half : List Nat) : State :=
  allLinks.foldl (fun a l =>
    let (v, a1) := drawFree a
    putRepaired (putLink a1 l.1 l.2 (if half.contains (l.1 * 3 + l.2) then 3 else 2)) l.1 l.2 (v % 33)) s

/-- The repairs that a stack has left, summed over its banks: as it reported before, else free (R165). -/
def stackRepairs (s : State) (k : Nat) : Nat × State :=
  match mapFind s.store.stackLeft k with
  | some n => (n, s)
  | none =>
    let (v, s1) := drawFree s
    (v % 65536, { s1 with store := { s1.store with stackLeft := mapPut s1.store.stackLeft k (v % 65536) } })

/-- Step 6: a stack has trained; it reports its repairs (R165). -/
def trainStack (s : State) (k : Nat) : State :=
  let d := k * 0x1000
  let (left, s1) := stackRepairs s k
  let s2 := setFlag s1 (R.HBM_STAT + d) 0 true
  setBlk (setN s2 (R.HBM_REPAIR + d) (min 65535 (mapGet 0 s.store.lifeDone k) + left * 65536)) (0x20 + k) bRUN

/-- Step 7: the clusters whose KAT failed and the rows that failed the march are dealt with; the field dies run. -/
def selftestStep (s : State) (ok : Bool) (clusters rows : List Nat) : State :=
  let s1 := (clusters.filter (· < 320)).foldl (fun a c => retireCluster a (c / 40) (c % 40)) s
  let s2 := rows.foldl sramLasting s1
  if !ok || (List.range 8).any (fun d => decide (clustersLeft s2 d < 32)) then haltAt s2 7
  else nextStep (setFld (fldPages.foldl (fun a p => setBlk (runBegins a p) p bRUN) s2) R.SEC_BOOT 3 2 2) 7

/-- A setting may stand in a configuration (R418): a register the windows may write, not the control cores' own, and none of
LCIPH, SEAL and SEC. -/
def settingOk (x : Nat × Nat × Nat × Nat) : Bool :=
  let page := x.1
  match regRow (page * 0x1000 + x.2.1) with
  | some r => x.2.1 % 4 == 0 && (r.rw ||| r.rwp ||| r.wo ||| r.w1c) != 0 && r.win != .core && page != pgLCIPH && page != pgSEAL && page != pgSEC
  | none => false

/-- A setting is applied as a write of value under mask. -/
def applySetting (s : State) (x : Nat × Nat × Nat × Nat) : State :=
  let k := x.1 * 0x1000 + x.2.1
  let old := regN s (keyB k (bankSel s .core k))
  writeReg s .core x.1 x.2.1 ((old &&& (0xFFFFFFFF - x.2.2.2 % 2 ^ 32)) ||| (x.2.2.1 &&& x.2.2.2 % 2 ^ 32))

/-- The CXL_WIN region of the configuration (R393); its entry, physical offset and access mask are free. -/
def windowRegion (s : State) : State :=
  let g := s.sec.cfg
  if g.len = 0 ∨ g.len % 0x10000000 ≠ 0 then s
  else
    let (e, s1) := drawFree s
    let (p, s2) := drawFree s1
    let (m, s3) := drawFree s2
    let span := if g.mode = 2 then g.len / 8 else g.len
    let r : Region := { valid := true, lbase := g.base, len := g.len, phys := p % ((hbmBytes - span) / 64 + 1) * 64, mode := g.mode, die := g.die, kind := 8, read := m % 65536, write := m / 65536 % 65536 }
    if entryOk1 s3 (e % 64) r then putEntry s3 (e % 64) r else s3

/-- Mirder starts from the boot chain: the configuration applied, the table built, the registers of SEC and GLB_FW_VER, the
attestation tree. -/
def freshStart (s : State) : State :=
  let s1 := windowRegion (s.sec.cfg.settings.foldl applySetting s)
  let im := (bootSlot s1).mirder
  let s2 := setFlag (setN s1 R.GLB_FW_VER ((im.map (·.version)).getD 0)) R.CXL_IDE 2 (bitOf s1.sec.cfg.flags 0)
  let s3 := setN (setN s2 R.SEC_SVN ((im.map (·.svn)).getD 0 % 65536 + s2.sec.floor * 65536)) R.SEC_CFG s2.sec.cfg.seq
  newTree (setFld s3 R.SEC_BOOT 3 2 3)

/-- A PTP port starts LISTENING. -/
def listenAll (s : State) : State := (List.range 12).foldl (fun a p => setPtp a p 4) s

/-- Step 8: Mirder starts, or resumes from P2 (R444). -/
def mirderStep (s : State) : State :=
  if !s.pwr.resume && !s.sec.cfg.settings.all settingOk then haltAt s 8
  else
    let s1 := if s.pwr.resume then s else freshStart s
    let s2 := [0x80, 0x81, 0x89, pgSEC].foldl (fun a p => setBlk a p bRUN) s1
    let now := s2.tick.now
    let s3 : State := modSec { s2 with flt := { s2.flt with barred := false }, host := { s2.host with wdog := List.replicate 8 now } }
      (fun c => { c with started := some now })
    let s4 := match s3.sec.master with | some m => installSeals s3 m | none => s3
    let s5 := if s.pwr.resume then s4 else listenAll s4
    let s6 := if timeLocked s5 then s5 else setWide s5
    nextStep (modPwr s6 (fun p => { p with resume := false })) 8

/-- The work of a step that ends. -/
def stepWork (s : State) (k : Nat) (ok : Bool) (clusters rows : List Nat) : State :=
  if k = 1 then (if !ok || railBad s then haltAt s 1 else nextStep s 1)
  else if k = 2 then
    if !ok || pllBad s then haltAt s 2
    else let s1 := pllsLock s; if s1.host.perst then s1 else nextStep s1 2
  else if k = 4 then bootStep s ok
  else if k = 5 then (if !ok || flag s R.FLT_WIRE_RAW 14 then haltAt s 5 else nextStep (trainLinks s rows) 5)
  else if k = 6 then
    if !ok || flag s R.FLT_WIRE_RAW 15 then haltAt s 6 else nextStep ((List.range 16).foldl trainStack s) 6
  else if k = 7 then selftestStep s ok clusters rows
  else if k = 8 then mirderStep s
  else if k = 9 then (if linkUp s then nextStep s 9 else s)
  else nextStep s k

/-- STARTUP_STEP_END: the step in progress ends after some microseconds. -/
def stepEndOp (s : State) (micros : Nat) (ok : Bool) (clusters rows : List Nat) : State :=
  let k := stepNow s
  if s.pwr.halted ∨ k = 0 ∨ 15 ≤ k ∨ (k = 2 ∧ s.pwr.locked ∧ s.host.perst) ∨ (k = 9 ∧ !linkUp s) then s
  else stepWork (setN s (keyB R.PWR_STEP_TIME k) micros) k ok clusters rows

/-! ### Resets from outside -/

/-- PERST_N asserted (R411): a full reset, held at step 2 until it is released (R443). In P2 the rails come up first; without power
only the pin's level is kept. -/
def perstOp (s : State) : State :=
  if s.host.perst then s
  else
    let s0 : State := { s with host := { s.host with perst := true } }
    if s.pwr.state = 3 then s0
    else if s.pwr.state = 2 then setStep (modPwr (fullReset s0 1 none) (fun p => { p with locked := false, halted := false })) 1
    else if stepNow s = 1 ∧ !s.pwr.halted then setStep (fullReset s0 1 none) 1
    else
      let r := fullReset s0 1 none
      if r.pwr.halted then r else setStep r 2

/-- Wires that assert and whose latch is clear: they latch. -/
def latchNew (s : State) : State :=
  (List.range 21).foldl (fun a b => if flag a R.FLT_WIRE_RAW b && !flag a R.FLT_WIRE b then wireLatch a b 0 else a) s

/-- PERST_N released: wires that came meanwhile latch, and start-up goes on when step 2 is done (R443). -/
def perstReleaseOp (s : State) : State :=
  let s1 := latchNew { s with host := { s.host with perst := false } }
  if s.host.perst ∧ stepNow s = 2 ∧ s.pwr.locked ∧ !s.pwr.halted then nextStep s1 2 else s1

/-- A CXL hot reset received on the link. -/
def hotResetOp (s : State) : State := if linkUp s then fullReset s 2 none else s

/-- A control core's watchdog expires: Mirder runs, and the core has not written for more than 1,250 ticks. -/
def watchdogOp (s : State) (core : Nat) : State :=
  if secRuns s && s.sec.started.isSome && decide (nthD 0 s.host.wdog core + 1250 ≤ s.tick.now) then fullReset s 5 (some core) else s

end Sys2Proof.Machine
end

