-- ==== Sys2Proof/Machine/Settle.lean ====
section
/-!
DEFINITION. What surrounds every command: whether the package takes it in the power state it is in (R411, R431), what a
command leaves to be done when it ends (aborts, commits, the end of a push, moves between power states, reactions), and the outputs.
-/
namespace Sys2Proof.Machine

/-- The package runs: P0 or P1, and PERST_N is not asserted. -/
def live (s : State) : Bool := decide (s.pwr.state ≤ 1) && !s.host.perst

/-- JOB_END was given during a push, and the push is done or will not be (R120, R405). -/
def jobEndSettle (s : State) : State :=
  if s.job.ending && s.job.phase == 0 then endJob s else s

/-- Nothing waits for the end of the command: no abort, no word to rebuild, no round in a phase, no request in the engine, no waiting commit or view,
no move, no reaction; and the switch core does not watch its cells. -/
def calm (s : State) : Bool :=
  s.job.abortDue.isNone && s.job.phase == 0 && !s.job.ending && s.coll.active.isEmpty && s.coll.ended.isEmpty
    && s.hlth.broken.isEmpty && lineCalm s && !pennantDue s 0 && !pennantDue s 1 && !(inRun s pgSW && inRun s 0x48) && s.site.due.isNone && s.site.later.isNone && s.site.asking.isNone && s.site.fetch.isNone && !s.hlth.toP1 && s.pwr.move.isNone
    && s.flt.blockResets.isEmpty && s.flt.chipReset.isNone

/-- What follows a command within it. -/
def settleWork (s : State) : State :=
  let s1 := cellSettle (doorSettle (collAdvance (abortSettle (brokenSettle (lineSettle (ocuSettle s))))))
  let s2 := viewSettle (fetchSettle (commitSettle (readySettle (mirrorSettle s1))))
  let s3 := parkSettle (expelSettle (jobEndSettle (pushSettle s2)))
  takeChipReset (takeBlockResets s3.flt.blockResets.length s3)

/-- What follows a command: nothing, where nothing waits. -/
def settle (s : State) : State := if calm s then s else settleWork s

/-- The end of a command: what follows it, the outputs, and the queue as it was. -/
def finish (q : List Instr) (s : State) : State := { outputs (settle s) with pending := q }

/-- A command that takes effect where a condition holds. -/
def actIf (b : Bool) (s : State) (f : State → State) : Host.Outcome State Fault Refusal :=
  .next (if b then finish s.pending (f s) else s)

/-- A command that the package takes while it runs. -/
def act (s : State) (f : State → State) : Host.Outcome State Fault Refusal := actIf (live s) s f

/-- Time passes in P0, P1 and P2, whatever PERST_N is. -/
def ticking (s : State) : Bool := s.pwr.state != 3

end Sys2Proof.Machine
end

