-- ==== Sys2Proof/Machine/CmdCodec.lean ====
section
/-!
DEFINITION. The meanings of the commands of codec tables (R139 to R144).
-/
namespace Sys2Proof.Machine

/-- LOAD (R142). -/
def execLoad (w : Win) (v : Word) (s : State) : Host.Outcome State Fault Refusal := act s (fun a => loadCmdWrite a w 1 v.toNat)

/-- UNLOAD (R142). -/
def execUnload (w : Win) (v : Word) (s : State) : Host.Outcome State Fault Refusal := act s (fun a => loadCmdWrite a w 2 v.toNat)

/-- TABLE_LOAD_MESSAGE (R142). -/
def execTableLoadMessage (port : Fin 7) (node : BitVec 16) (slot : Fin 8) (gen : Fin 32) (bytes : List Byte) (s : State) : Host.Outcome State Fault Refusal :=
  act s (fun a => peerLoad a port.val node.toNat slot.val gen.val bytes)

/-- TABLE_INSTALL (R142). -/
def execTableInstall (ctx : Fin 128) (slot : Fin 8) (s : State) : Host.Outcome State Fault Refusal :=
  act s (fun a => installSlot a (cslotKey ctx.val 1 slot.val))

/-- TABLE_LOAD_ACK (R142). -/
def execTableLoadAck (node : BitVec 16) (slot : Fin 8) (gen : Fin 32) (s : State) : Host.Outcome State Fault Refusal :=
  act s (fun a => loadAck a node.toNat slot.val gen.val)

/-- TABLE_LOAD_REFUSAL (R142). -/
def execTableLoadRefusal (node : BitVec 16) (slot : Fin 8) (gen : Fin 32) (s : State) : Host.Outcome State Fault Refusal :=
  act s (fun a => loadRefused a node.toNat slot.val gen.val)

/-- LOAD_TIMEOUT (R142). -/
def execLoadTimeout (s : State) : Host.Outcome State Fault Refusal := act s (fun a => loadTimeoutOp a)

/-- CODEC_CTX_CFG_WRITE (R139). -/
def execCodecCtxCfgWrite (w : Win) (v : Word) (s : State) : Host.Outcome State Fault Refusal := act s (fun a => ctxWrite a w v.toNat)

/-- TABLE_UNLOAD_MESSAGE (R142). -/
def execTableUnloadMessage (port : Fin 7) (node : BitVec 16) (slot : Fin 8) (s : State) : Host.Outcome State Fault Refusal :=
  act s (fun a => peerUnload a port.val node.toNat slot.val)

end Sys2Proof.Machine
end

