-- ==== Sys2Proof/Machine/CmdColl.lean ====
section
/-!
DEFINITION. The meanings of the commands of groups and the collective engine (R209 to R237).
-/
namespace Sys2Proof.Machine

/-- GROUP_ENABLE (R216). -/
def execGroupEnable (w : Win) (s : State) : Host.Outcome State Fault Refusal := act s (fun a => groupCmd a w 1)

/-- GROUP_DISABLE (R216). -/
def execGroupDisable (w : Win) (s : State) : Host.Outcome State Fault Refusal := act s (fun a => groupCmd a w 2)

/-- GROUP_RELOAD (R216). -/
def execGroupReload (w : Win) (s : State) : Host.Outcome State Fault Refusal := act s (fun a => groupCmd a w 3)

/-- COLL_DB (R217). -/
def execCollDb (w : Win) (v : Word) (s : State) : Host.Outcome State Fault Refusal :=
  act s (fun a => if mayWrite a w R.COLL_DB then Machine.collDb a (bitsOf v.toNat 11 0) else a)

/-- EXCHANGE (R219). -/
def execExchange (s : State) : Host.Outcome State Fault Refusal := act s (fun a => fetchOper 1 4096 a)

/-- ALL_REDUCE (R219). -/
def execAllReduce (s : State) : Host.Outcome State Fault Refusal := act s (fun a => fetchOper 2 4096 a)

/-- REDUCE_SCATTER (R219). -/
def execReduceScatter (s : State) : Host.Outcome State Fault Refusal := act s (fun a => fetchOper 3 4096 a)

/-- ALL_GATHER (R219). -/
def execAllGather (s : State) : Host.Outcome State Fault Refusal := act s (fun a => fetchOper 4 4096 a)

/-- BROADCAST (R219). -/
def execBroadcast (s : State) : Host.Outcome State Fault Refusal := act s (fun a => fetchOper 5 4096 a)

/-- ALL_TO_ALL (R219). -/
def execAllToAll (s : State) : Host.Outcome State Fault Refusal := act s (fun a => fetchOper 6 4096 a)

/-- ALL_TO_ALL_V (R219). -/
def execAllToAllV (s : State) : Host.Outcome State Fault Refusal := act s (fun a => fetchOper 7 4096 a)

/-- ALL_MAX (R219). -/
def execAllMax (s : State) : Host.Outcome State Fault Refusal := act s (fun a => fetchOper 8 4096 a)

/-- ALL_MIN (R219). -/
def execAllMin (s : State) : Host.Outcome State Fault Refusal := act s (fun a => fetchOper 9 4096 a)

/-- EXPONENT_RECORD_MESSAGE (R221). -/
def execExponentRecordMessage (node : BitVec 16) (group : BitVec 12) (bytes : List Byte) (s : State) : Host.Outcome State Fault Refusal :=
  act s (fun a => recordsOp a node.toNat group.toNat bytes)

/-- CHECK_MESSAGE (R227). -/
def execCheckMessage (node : BitVec 16) (group : BitVec 12) (round : BitVec 48) (chunk : DWord) (crc : DWord) (s : State) : Host.Outcome State Fault Refusal :=
  act s (fun a => checkOp a node.toNat group.toNat round.toNat chunk.toNat crc.toNat)

/-- CHECK_ACK (R227). -/
def execCheckAck (node : BitVec 16) (group : BitVec 12) (round : BitVec 48) (chunk : DWord) (s : State) : Host.Outcome State Fault Refusal :=
  act s (fun a => ackOp a node.toNat group.toNat round.toNat chunk.toNat)

/-- CHECK_TIMEOUT (R227). -/
def execCheckTimeout (s : State) : Host.Outcome State Fault Refusal := act s (fun a => checkTimeoutOp a)

/-- RECHECK (R228). -/
def execRecheck (s : State) : Host.Outcome State Fault Refusal := act s (fun a => recheckOp a)

/-- ABORT (R232). -/
def execAbort (w : Win) (s : State) : Host.Outcome State Fault Refusal := act s (fun a => abortWrite a w)

/-- ABORT_ANNOUNCE (R232). -/
def execAbortAnnounce (round : BitVec 48) (s : State) : Host.Outcome State Fault Refusal := act s (fun a => flagAbort a round.toNat false)

end Sys2Proof.Machine
end

