-- ==== Sys2Proof/Machine/CmdFault.lean ====
section
/-!
DEFINITION. The meanings of the commands of faults and interrupts (R370 to R391).
-/
namespace Sys2Proof.Machine

/-- A link of a field die goes down (R37); which of its three is free. -/
def linkDown (s : State) (die : Nat) : State :=
  let (v, s1) := drawFree s
  putLink s1 die (v % 3) 0

/-- An error wire asserts. The alarms 17 to 20 first erase every key and close the gate (R297, R398); with die-to-die training a
link of the die named is down (R37). While PERST_N is held only the wire's level is kept: its latch sets on release. -/
def wireOp (s : State) (wire ctx : Nat) : State :=
  if s.host.perst then setFlag s R.FLT_WIRE_RAW wire true
  else
    let s1 := if 17 ≤ wire then wireAlarm s wire else s
    let s2 := if wire = 14 ∧ 0x10 ≤ ctx ∧ ctx ≤ 0x17 then linkDown s1 (ctx - 0x10) else s1
    wireAsserts s2 wire ctx

/-- A wake input changes: in P2 it may wake the package (R388, R434); while PERST_N is held only its level is kept. -/
def wakeOp (s : State) (latch : Nat) (active : Bool) : State :=
  if s.pwr.state = 2 then
    let s1 := wakeInputOp s latch active true
    if wakeDue s1 then leaveP2 s1 else s1
  else if s.host.perst then
    { s with irq := { s.irq with raw := if latch < 20 then (wakeInputOp { s with regs := [] } latch active true).irq.raw else s.irq.raw } }
  else wakeInputOp s latch active false

/-- FAULT_RECORD (R375). -/
def execFaultRecord (src : BitVec 12) (kind : Byte) (ctx : Byte) (addr : BitVec 48) (s : State) : Host.Outcome State Fault Refusal :=
  act s (fun a => raiseHardware a src.toNat kind.toNat ctx.toNat addr.toNat)

/-- WIRE_ASSERT (R374). -/
def execWireAssert (wire : Fin 21) (ctx : Byte) (s : State) : Host.Outcome State Fault Refusal :=
  actIf (decide (s.pwr.state ≤ 1)) s (fun a => wireOp a wire.val ctx.toNat)

/-- FLT_WIRE_WRITE (R374). -/
def execFltWireWrite (w : Win) (v : Word) (s : State) : Host.Outcome State Fault Refusal :=
  act s (fun a => if mayWrite a w R.FLT_WIRE then wireWrite a v.toNat else a)

/-- FLT_RAISE3_WRITE (R373). -/
def execFltRaise3Write (w : Win) (v : Word) (s : State) : Host.Outcome State Fault Refusal :=
  act s (fun a => if mayWrite a w R.FLT_RAISE3 then raiseMirder (plainWrite a R.FLT_RAISE3 v.toNat) v.toNat else a)

/-- TEST_DONE (R379). -/
def execTestDone (src : BitVec 12) (pass : Bool) (s : State) : Host.Outcome State Fault Refusal := act s (fun a => testDoneOp a src.toNat pass)

/-- QUIET_PERIOD_END (R380). -/
def execQuietPeriodEnd (src : BitVec 12) (s : State) : Host.Outcome State Fault Refusal :=
  act s (fun a => if mayRecover a src.toNat then recover a src.toNat else a)

/-- IRQ_DB (R382). -/
def execIrqDb (w : Win) (v : Word) (s : State) : Host.Outcome State Fault Refusal := act s (fun a => doorbell a w v.toNat)

/-- SERVE_BEGIN (R385). -/
def execServeBegin (w : Win) (v : Word) (s : State) : Host.Outcome State Fault Refusal := act s (fun a => serveBeginOp a w v.toNat)

/-- SERVE_END (R385). -/
def execServeEnd (w : Win) (v : Word) (s : State) : Host.Outcome State Fault Refusal := act s (fun a => serveEndOp a w v.toNat)

/-- SPACING_END (R386). -/
def execSpacingEnd (src : BitVec 10) (s : State) : Host.Outcome State Fault Refusal := act s (fun a => spacingEndOp a src.toNat)

/-- STUCK_SOURCE (R387). -/
def execStuckSource (src : BitVec 10) (s : State) : Host.Outcome State Fault Refusal := act s (fun a => stuckOp a src.toNat)

/-- UNMASK (R387). -/
def execUnmask (w : Win) (v : Word) (s : State) : Host.Outcome State Fault Refusal :=
  act s (fun a => writeReg a w 0x80 (R.IRQ_SRC_CFG % 0x1000) (v.toNat ||| 0x80000))

/-- WAKE_INPUT (R388). -/
def execWakeInput (latch : Fin 22) (active : Bool) (s : State) : Host.Outcome State Fault Refusal :=
  actIf (decide (s.pwr.state ≤ 2)) s (fun a => wakeOp a latch.val active)

/-- IRQ_WAKE_WRITE (R388). -/
def execIrqWakeWrite (w : Win) (v : Word) (s : State) : Host.Outcome State Fault Refusal :=
  act s (fun a => if mayWrite a w R.IRQ_WAKE then wakeClear a v.toNat false else a)

end Sys2Proof.Machine
end

