-- ==== Sys2Proof/Machine/CmdHealth.lean ====
section
/-!
DEFINITION. The meanings of the commands of health, spares and protected state (R36, R337 to R351).
-/
namespace Sys2Proof.Machine

/-- D2D_LINK_DEGRADE (R37). -/
def execD2dLinkDegrade (die : Fin 8) (link : Fin 3) (s : State) : Host.Outcome State Fault Refusal := act s (fun a => d2dDegradeOp a die.val link.val)

/-- HEARTBEAT_SEND (R342). -/
def execHeartbeatSend (s : State) : Host.Outcome State Fault Refusal := act s (fun a => heartbeatSendOp a)

/-- HEARTBEAT (R342). -/
def execHeartbeat (node : BitVec 16) (s : State) : Host.Outcome State Fault Refusal := act s (fun a => heartbeatOp a node.toNat)

/-- MEMBER_LOST (R342). -/
def execMemberLost (node : BitVec 16) (reported : Bool) (s : State) : Host.Outcome State Fault Refusal :=
  act s (fun a => memberLostOp a node.toNat reported)

/-- HEALTH_EVAL (R337). -/
def execHealthEval (s : State) : Host.Outcome State Fault Refusal := act s (fun a => healthEvalOp a)

/-- EXPULSION_REQUEST (R340). -/
def execExpulsionRequest (node : BitVec 16) (answer : Option Bool) (s : State) : Host.Outcome State Fault Refusal :=
  act s (fun a => expulsionOp a node.toNat answer)

/-- MIRROR_RECEIVE (R344). -/
def execMirrorReceive (node : BitVec 16) (round : BitVec 48) (resid : Bool) (index : DWord) (crc : DWord) (hdr : List Byte) (data : List Byte) (s : State) : Host.Outcome State Fault Refusal :=
  act s (fun a => mirrorReceiveOp a node.toNat round.toNat resid index.toNat crc.toNat hdr data)

/-- MIRROR_ACK (R344). -/
def execMirrorAck (resid : Bool) (index : DWord) (s : State) : Host.Outcome State Fault Refusal := act s (fun a => mirrorAckOp a resid index.toNat)

/-- CHANGE_RECORD (R345). -/
def execChangeRecord (node : BitVec 16) (group : Fin 1024) (q : Bool) (position : Fin 8) (unit : DWord) (round : BitVec 48) (delta : List Byte) (s : State) : Host.Outcome State Fault Refusal :=
  act s (fun a => changeRecordOp a node.toNat group.val q position.val unit.toNat round.toNat delta)

/-- CHANGE_RECORD_ACK (R345). -/
def execChangeRecordAck (node : BitVec 16) (unit : DWord) (round : BitVec 48) (all : Bool) (s : State) : Host.Outcome State Fault Refusal :=
  act s (fun a => changeAckOp a node.toNat unit.toNat round.toNat all)

/-- HOIST_SELFTEST_DONE (R347). -/
def execHoistSelftestDone (node : BitVec 16) (pass : Bool) (s : State) : Host.Outcome State Fault Refusal :=
  act s (fun a => hoistTestOp a node.toNat pass)

/-- HOIST_LOAD_DONE (R347). -/
def execHoistLoadDone (node : BitVec 16) (s : State) : Host.Outcome State Fault Refusal := act s (fun a => hoistLoadOp a node.toNat)

end Sys2Proof.Machine
end

