-- ==== Sys2Proof/Machine/CmdHop.lean ====
section
/-!
DEFINITION. The meanings of the commands of the operations of a hop on its tile (R60, R108 to R126, R145, R215, R299).
-/
namespace Sys2Proof.Machine

/-- A hop of a station other than a port acts on its tile. A CODEC hop with its block not in RUN passes its tiles plain (R143). -/
def hopAct (s : State) (slot seq station : Nat) (op : Nat → Bool) (work : Stream → Tile → HopM Tile) : State :=
  runHop s slot seq station op work

/-- A hop whose work depends on its operation code: ENCODE_SLOT names its slot in it. -/
def runHopWith (s : State) (slot seq station : Nat) (op : Nat → Bool) (work : Nat → Stream → Tile → HopM Tile) : State :=
  runHop s slot seq station op (fun st t => work (nthD 0 st.op t.hop) st t)

/-- An out hop: a port hop after the first. -/
def outHop (s : State) (slot seq station : Nat) : State :=
  runHop s slot seq station (fun _ => true) (fun st t => if t.hop = 0 then landWork st t else outWork slot st t)

/-- GEMM (R125). -/
def execGemm (slot : BitVec 12) (seq : BitVec 48) (s : State) : Host.Outcome State Fault Refusal :=
  act s (fun a => hopAct a slot.toNat seq.toNat stMATRIX (· == 1) gemmWork)

/-- PROJ_LEFT (R115). -/
def execProjLeft (slot : BitVec 12) (seq : BitVec 48) (s : State) : Host.Outcome State Fault Refusal :=
  act s (fun a => hopAct a slot.toNat seq.toNat stMATRIX (· == 2) projLeftWork)

/-- PROJ_RIGHT (R115). -/
def execProjRight (slot : BitVec 12) (seq : BitVec 48) (s : State) : Host.Outcome State Fault Refusal :=
  act s (fun a => hopAct a slot.toNat seq.toNat stMATRIX (· == 3) projRightWork)

/-- RESIDUAL (R118). -/
def execResidual (slot : BitVec 12) (seq : BitVec 48) (s : State) : Host.Outcome State Fault Refusal :=
  act s (fun a => hopAct a slot.toNat seq.toNat stMATRIX (· == 4) residualWork)

/-- FORM_DELTA (R112). -/
def execFormDelta (slot : BitVec 12) (seq : BitVec 48) (s : State) : Host.Outcome State Fault Refusal :=
  act s (fun a => hopAct a slot.toNat seq.toNat stVECTOR (· == 1) formDeltaWork)

/-- EXPREC (R117). -/
def execExprec (slot : BitVec 12) (seq : BitVec 48) (s : State) : Host.Outcome State Fault Refusal :=
  act s (fun a => hopAct a slot.toNat seq.toNat stVECTOR (· == 2) exprecWork)

/-- QUANT (R117). -/
def execQuant (slot : BitVec 12) (seq : BitVec 48) (s : State) : Host.Outcome State Fault Refusal :=
  act s (fun a => hopAct a slot.toNat seq.toNat stVECTOR (· == 3) quantWork)

/-- GRAM_A (R116). -/
def execGramA (slot : BitVec 12) (seq : BitVec 48) (s : State) : Host.Outcome State Fault Refusal :=
  act s (fun a => hopAct a slot.toNat seq.toNat stVECTOR (· == 4) (gramWork .ls))

/-- CHOL (R116). -/
def execChol (slot : BitVec 12) (seq : BitVec 48) (s : State) : Host.Outcome State Fault Refusal :=
  act s (fun a => hopAct a slot.toNat seq.toNat stVECTOR (· == 5) cholWork)

/-- TRSOLVE_A (R116). -/
def execTrsolveA (slot : BitVec 12) (seq : BitVec 48) (s : State) : Host.Outcome State Fault Refusal :=
  act s (fun a => hopAct a slot.toNat seq.toNat stVECTOR (· == 6) (trsolveWork .ls))

/-- GRAM_B (R116). -/
def execGramB (slot : BitVec 12) (seq : BitVec 48) (s : State) : Host.Outcome State Fault Refusal :=
  act s (fun a => hopAct a slot.toNat seq.toNat stVECTOR (· == 7) (gramWork .lo))

/-- TRSOLVE_B (R116). -/
def execTrsolveB (slot : BitVec 12) (seq : BitVec 48) (s : State) : Host.Outcome State Fault Refusal :=
  act s (fun a => hopAct a slot.toNat seq.toNat stVECTOR (· == 8) (trsolveWork .lo))

/-- APPLY (R119). -/
def execApplyStep (slot : BitVec 12) (seq : BitVec 48) (s : State) : Host.Outcome State Fault Refusal :=
  act s (fun a => hopAct a slot.toNat seq.toNat stVECTOR (· == 9) applyWork)

/-- CONVERT (R110). -/
def execConvert (slot : BitVec 12) (seq : BitVec 48) (s : State) : Host.Outcome State Fault Refusal :=
  act s (fun a => hopAct a slot.toNat seq.toNat stVECTOR (· == 0x20) convertWork)

/-- ADD (R110). -/
def execAddOp (slot : BitVec 12) (seq : BitVec 48) (s : State) : Host.Outcome State Fault Refusal :=
  act s (fun a => hopAct a slot.toNat seq.toNat stVECTOR (· == 0x21) addWork)

/-- MUL (R110). -/
def execMulOp (slot : BitVec 12) (seq : BitVec 48) (s : State) : Host.Outcome State Fault Refusal :=
  act s (fun a => hopAct a slot.toNat seq.toNat stVECTOR (· == 0x22) mulWork)

/-- AXPBY (R110). -/
def execAxpby (slot : BitVec 12) (seq : BitVec 48) (s : State) : Host.Outcome State Fault Refusal :=
  act s (fun a => hopAct a slot.toNat seq.toNat stVECTOR (· == 0x23) axpbyWork)

/-- MAXMIN (R110). -/
def execMaxmin (slot : BitVec 12) (seq : BitVec 48) (s : State) : Host.Outcome State Fault Refusal :=
  act s (fun a => hopAct a slot.toNat seq.toNat stVECTOR (· == 0x24) maxminWork)

/-- DRAW_SKETCH (R113). -/
def execDrawSketch (slot : BitVec 12) (seq : BitVec 48) (s : State) : Host.Outcome State Fault Refusal :=
  act s (fun a => hopAct a slot.toNat seq.toNat stPROJECT (· == 1) (drawWork 1))

/-- DRAW_START (R113). -/
def execDrawStart (slot : BitVec 12) (seq : BitVec 48) (s : State) : Host.Outcome State Fault Refusal :=
  act s (fun a => hopAct a slot.toNat seq.toNat stPROJECT (· == 2) (drawWork 2))

/-- FILL (R115). -/
def execFill (slot : BitVec 12) (seq : BitVec 48) (s : State) : Host.Outcome State Fault Refusal :=
  act s (fun a => hopAct a slot.toNat seq.toNat stPROJECT (· == 3) (drawWork 3))

/-- PASS (R145). -/
def execPass (slot : BitVec 12) (seq : BitVec 48) (s : State) : Host.Outcome State Fault Refusal :=
  act s (fun a => hopAct a slot.toNat seq.toNat stCODEC (· == 0) (codecWork (fun _ _ => none)))

/-- ENCODE_CUR (R145). -/
def execEncodeCur (slot : BitVec 12) (seq : BitVec 48) (s : State) : Host.Outcome State Fault Refusal :=
  act s (fun a => hopAct a slot.toNat seq.toNat stCODEC (· == 1) (codecWork (fun b k => some (fld b (ctxCfg k) 19 17))))

/-- ENCODE_SLOT (R145). -/
def execEncodeSlot (slot : BitVec 12) (seq : BitVec 48) (s : State) : Host.Outcome State Fault Refusal :=
  act s (fun a => runHopWith a slot.toNat seq.toNat stCODEC (fun op => decide (8 ≤ op)) (fun op => codecWork (fun _ _ => some (op - 8))))

/-- DECODE (R147). -/
def execDecode (slot : BitVec 12) (seq : BitVec 48) (s : State) : Host.Outcome State Fault Refusal :=
  act s (fun a => hopAct a slot.toNat seq.toNat stEXPAND (· == 0) decodeWork)

/-- COLLECTIVE (R215). -/
def execCollective (slot : BitVec 12) (seq : BitVec 48) (s : State) : Host.Outcome State Fault Refusal :=
  act s (fun a => hopAct a slot.toNat seq.toNat stREDUCE (· == 1) (collectiveWork slot.toNat))

/-- MAKE (R300). -/
def execMake (slot : BitVec 12) (seq : BitVec 48) (s : State) : Host.Outcome State Fault Refusal :=
  act s (fun a => hopAct a slot.toNat seq.toNat stSEAL (· == 1) (sealWork false slot.toNat))

/-- CHECK (R300). -/
def execCheck (slot : BitVec 12) (seq : BitVec 48) (s : State) : Host.Outcome State Fault Refusal :=
  act s (fun a => hopAct a slot.toNat seq.toNat stSEAL (· == 2) (sealWork true slot.toNat))

/-- FABRIC_OUT (R187). -/
def execFabricOut (slot : BitVec 12) (seq : BitVec 48) (s : State) : Host.Outcome State Fault Refusal :=
  act s (fun a => outHop a slot.toNat seq.toNat stFABRIC)

/-- LINE_OUT (R267). -/
def execLineOut (slot : BitVec 12) (seq : BitVec 48) (s : State) : Host.Outcome State Fault Refusal :=
  act s (fun a => outHop a slot.toNat seq.toNat stLINE)

/-- HOST_OUT (R182). -/
def execHostOut (slot : BitVec 12) (seq : BitVec 48) (s : State) : Host.Outcome State Fault Refusal :=
  act s (fun a => outHop a slot.toNat seq.toNat stHOST)

end Sys2Proof.Machine
end

