-- ==== Sys2Proof/Machine/CmdHost.lean ====
section
/-!
DEFINITION. The meanings of the commands of the host attachment, the mailbox and the resets (R392 to R414).
-/
namespace Sys2Proof.Machine

/-- FULL_RESET (R412). -/
def execFullReset (w : Win) (v : Word) (s : State) : Host.Outcome State Fault Refusal := act s (fun a => resetWrite a w v.toNat)

/-- PERST_N (R411). -/
def execPerstN (s : State) : Host.Outcome State Fault Refusal := actIf (true) s (fun a => perstOp a)

/-- CXL_HOT_RESET (R411). -/
def execCxlHotReset (s : State) : Host.Outcome State Fault Refusal := act s (fun a => hotResetOp a)

/-- GLB_WDOG_WRITE (R410). -/
def execGlbWdogWrite (w : Win) (v : Word) (s : State) : Host.Outcome State Fault Refusal := act s (fun a => wdogWrite a w v.toNat)

/-- WATCHDOG_EXPIRE (R410). -/
def execWatchdogExpire (core : Fin 8) (s : State) : Host.Outcome State Fault Refusal := act s (fun a => watchdogOp a core.val)

/-- CXL_LINK_UP (R392). -/
def execCxlLinkUp (width : Fin 4) (rate : Fin 4) (s : State) : Host.Outcome State Fault Refusal := act s (fun a => linkUpOp a width.val rate.val)

/-- CXL_LINK_DOWN (R398). -/
def execCxlLinkDown (s : State) : Host.Outcome State Fault Refusal := act s (fun a => linkDownOp a)

/-- HDM_DECODER_COMMIT (R393). -/
def execHdmDecoderCommit (s : State) : Host.Outcome State Fault Refusal := act s (fun a => commitOpHost a)

/-- CXL_MEM_READ (R393). -/
def execCxlMemRead (off : DWord) (n : Fin 65) (s : State) : Host.Outcome State Fault Refusal := act s (fun a => memReadOp a off.toNat n.val)

/-- CXL_MEM_WRITE (R393). -/
def execCxlMemWrite (off : DWord) (bytes : List Byte) (s : State) : Host.Outcome State Fault Refusal := act s (fun a => memWriteOp a off.toNat bytes)

/-- IDE_STOP (R394). -/
def execIdeStop (mem : Bool) (failed : Bool) (s : State) : Host.Outcome State Fault Refusal := act s (fun a => ideStopOp a mem failed)

/-- PRIV_GATE_CLOSE (R398). -/
def execPrivGateClose (w : Win) (v : Word) (s : State) : Host.Outcome State Fault Refusal := act s (fun a => gateWrite a w v.toNat)

/-- GET_INFO (R405). -/
def execGetInfo (len : BitVec 12) (s : State) : Host.Outcome State Fault Refusal := act s (fun a => mbxCommand a 0x0001 len.toNat false infoWork)

/-- AUTH_CHALLENGE (R397). -/
def execAuthChallenge (len : BitVec 12) (s : State) : Host.Outcome State Fault Refusal :=
  act s (fun a => mbxCommand a 0x0002 len.toNat false challengeWork)

/-- AUTH_RESPONSE (R397). -/
def execAuthResponse (len : BitVec 12) (s : State) : Host.Outcome State Fault Refusal :=
  act s (fun a => mbxCommand a 0x0003 len.toNat false responseWork)

/-- JOB_CREATE (R405). -/
def execJobCreate (len : BitVec 12) (s : State) : Host.Outcome State Fault Refusal := act s (fun a => mbxCommand a 0x0010 len.toNat true createWork)

/-- JOB_END (R405). -/
def execJobEnd (len : BitVec 12) (s : State) : Host.Outcome State Fault Refusal := act s (fun a => mbxCommand a 0x0011 len.toNat true endWork)

/-- JOB_STATUS (R405). -/
def execJobStatus (len : BitVec 12) (s : State) : Host.Outcome State Fault Refusal := act s (fun a => mbxCommand a 0x0012 len.toNat false statusWork)

/-- TIME_STEP (R355). -/
def execTimeStep (len : BitVec 12) (s : State) : Host.Outcome State Fault Refusal := act s (fun a => mbxCommand a 0x0020 len.toNat true timeStepWork)

/-- FW_STAGE (R424). -/
def execFwStage (len : BitVec 12) (s : State) : Host.Outcome State Fault Refusal := act s (fun a => mbxCommand a 0x0030 len.toNat true stageWork)

/-- PERST_N_RELEASE (R443). -/
def execPerstNRelease (s : State) : Host.Outcome State Fault Refusal := actIf (true) s (fun a => perstReleaseOp a)

/-- IDE_ESTABLISHED (R394). -/
def execIdeEstablished (mem : Bool) (s : State) : Host.Outcome State Fault Refusal := act s (fun a => ideUpOp a mem)

end Sys2Proof.Machine
end

