-- ==== Sys2Proof/Machine/CmdKeys.lean ====
section
/-!
DEFINITION. The meanings of the commands of line keys, SEAL keys, attestation and key agreement (R285 to R303, R422 to R428).
-/
namespace Sys2Proof.Machine

/-- INSTALL (R288). -/
def execInstall (w : Win) (v : Word) (s : State) : Host.Outcome State Fault Refusal := act s (fun a => lciphCmdWrite a w 1 v.toNat)

/-- SWITCH (R289). -/
def execSwitchKey (w : Win) (v : Word) (s : State) : Host.Outcome State Fault Refusal := act s (fun a => lciphCmdWrite a w 2 v.toNat)

/-- RETIRE (R292). -/
def execRetire (w : Win) (v : Word) (s : State) : Host.Outcome State Fault Refusal := act s (fun a => lciphCmdWrite a w 3 v.toNat)

/-- ERASE (R297). -/
def execErase (w : Win) (v : Word) (s : State) : Host.Outcome State Fault Refusal := act s (fun a => lciphCmdWrite a w 4 v.toNat)

/-- KEY_RETIREMENT (R292). -/
def execKeyRetirement (md : Fin 2) (dir : Fin 4) (s : State) : Host.Outcome State Fault Refusal := act s (fun a => keyRetirementOp a md.val dir.val)

/-- KEY_RETIRE (R292). -/
def execKeyRetire (md : Fin 2) (dir : Fin 4) (slot : Fin 2) (epoch : Word) (s : State) : Host.Outcome State Fault Refusal :=
  act s (fun a => keyRetireOp a md.val dir.val slot.val epoch.toNat)

/-- SEAL_INSTALL (R301). -/
def execSealInstall (w : Win) (v : Word) (s : State) : Host.Outcome State Fault Refusal := act s (fun a => sealCmdWrite a w 1 v.toNat)

/-- SEAL_ERASE (R301). -/
def execSealErase (w : Win) (v : Word) (s : State) : Host.Outcome State Fault Refusal := act s (fun a => sealCmdWrite a w 2 v.toNat)

/-- ATTESTATION_REQUEST (R423). -/
def execAttestationRequest (nonce : List Byte) (s : State) : Host.Outcome State Fault Refusal := act s (fun a => reportOp a nonce)

/-- KEX_CERT (R426). -/
def execKexCert (md : Fin 2) (dir : Fin 4) (msg : KexCert) (s : State) : Host.Outcome State Fault Refusal :=
  act s (fun a => kexCertOp a md.val dir.val msg)

/-- KEX_INIT (R427). -/
def execKexInit (md : Fin 2) (dir : Fin 4) (msg : KexInit) (s : State) : Host.Outcome State Fault Refusal :=
  act s (fun a => kexInitOp a md.val dir.val msg)

/-- KEX_REPLY (R427). -/
def execKexReply (md : Fin 2) (dir : Fin 4) (msg : KexReply) (s : State) : Host.Outcome State Fault Refusal :=
  act s (fun a => kexReplyOp a md.val dir.val msg)

/-- KEX_FAIL (R426). -/
def execKexFail (md : Fin 2) (dir : Fin 4) (epoch : Word) (reason : Byte) (s : State) : Host.Outcome State Fault Refusal :=
  act s (fun a => kexFailOp a md.val dir.val epoch.toNat)

/-- KEX_RETRY (R426). -/
def execKexRetry (md : Fin 2) (dir : Fin 4) (s : State) : Host.Outcome State Fault Refusal := act s (fun a => kexRetryOp a md.val dir.val)

/-- REKEY_INTERVAL (R427). -/
def execRekeyInterval (md : Fin 2) (dir : Fin 4) (s : State) : Host.Outcome State Fault Refusal := act s (fun a => rekeyOp a md.val dir.val)

/-- SEAL_MASTER_EXCHANGE (R428). -/
def execSealMasterExchange (master : List Byte) (s : State) : Host.Outcome State Fault Refusal := act s (fun a => sealMasterOp a master)

/-- IMAGE_PROVEN (R425). -/
def execImageProven (s : State) : Host.Outcome State Fault Refusal := act s (fun a => provenOp a)

/-- KEY_RETIRE_ACK (R292). -/
def execKeyRetireAck (md : Fin 2) (dir : Fin 4) (slot : Fin 2) (epoch : Word) (s : State) : Host.Outcome State Fault Refusal :=
  act s (fun a => keyRetireAckOp a md.val dir.val slot.val epoch.toNat)

end Sys2Proof.Machine
end

