-- ==== Sys2Proof/Machine/CmdLine.lean ====
section
/-!
DEFINITION. The meanings of the commands of line framing, line delivery and the lanes (R238 to R284).
-/
namespace Sys2Proof.Machine

/-- LINE_FRAME_TX (R241). -/
def execLineFrameTx (md : Fin 2) (sc : Byte) (s : State) : Host.Outcome State Fault Refusal := act s (fun a => lineTx a md.val sc)

/-- LINE_FRAME_RX (R246). -/
def execLineFrameRx (md : Fin 2) (bytes : List Byte) (s : State) : Host.Outcome State Fault Refusal := act s (fun a => lineRx a md.val bytes)

/-- REACQUIRE_TIMEOUT (R249). -/
def execReacquireTimeout (md : Fin 2) (s : State) : Host.Outcome State Fault Refusal := act s (fun a => reacquireTimeoutOp a md.val)

/-- SECOND_CLASSIFY (R257). -/
def execSecondClassify (md : Fin 2) (s : State) : Host.Outcome State Fault Refusal := act s (fun a => classifyOp a md.val)

/-- CLEAR_CUR (R257). -/
def execClearCur (w : Win) (md : Fin 2) (s : State) : Host.Outcome State Fault Refusal := act s (fun a => clearCurWrite a w md.val)

/-- RTO_EXPIRE (R272). -/
def execRtoExpire (md : Fin 2) (dir : Fin 4) (s : State) : Host.Outcome State Fault Refusal := act s (fun a => rtoExpireOp a md.val dir.val)

/-- LOAD_ABANDON (R274). -/
def execLoadAbandon (md : Fin 2) (dir : Fin 4) (s : State) : Host.Outcome State Fault Refusal := act s (fun a => loadAbandonOp a md.val dir.val)

/-- HELD_LOAD_RELEASE (R270). -/
def execHeldLoadRelease (md : Fin 2) (dir : Fin 4) (s : State) : Host.Outcome State Fault Refusal := act s (fun a => heldReleaseOp a md.val dir.val)

/-- LANE_LOCK_LOSS (R279). -/
def execLaneLockLoss (port : Fin 6) (lane : Fin 4) (rx : Bool) (s : State) : Host.Outcome State Fault Refusal :=
  act s (fun a => lockLossOp a port.val lane.val rx)

/-- LANE_HOLD_EXPIRE (R281). -/
def execLaneHoldExpire (port : Fin 6) (lane : Fin 4) (rx : Bool) (s : State) : Host.Outcome State Fault Refusal :=
  act s (fun a => holdExpireOp a port.val lane.val rx)

/-- LANE_MESSAGE (R280). -/
def execLaneMessage (md : Fin 2) (lanes : Fin 5) (tick : DWord) (s : State) : Host.Outcome State Fault Refusal :=
  act s (fun a => laneMessageOp a md.val lanes.val tick.toNat)

/-- LDLV_LANE_CMD_WRITE (R282). -/
def execLdlvLaneCmdWrite (w : Win) (v : Word) (s : State) : Host.Outcome State Fault Refusal :=
  act s (fun a => if mayWrite a w R.LDLV_LANE_CMD then laneCmdOp a (fld a R.LDLV_IDX 2 0) (bitsOf v.toNat 3 0) else a)

/-- LANE_LOCK_REGAIN (R281). -/
def execLaneLockRegain (port : Fin 6) (lane : Fin 4) (rx : Bool) (s : State) : Host.Outcome State Fault Refusal :=
  act s (fun a => lockRegainOp a port.val lane.val rx)

end Sys2Proof.Machine
end

