-- ==== Sys2Proof/Machine/CmdMem.lean ====
section
/-!
DEFINITION. The meanings of the commands of regions, the outer gate, the scrub and the pools (R154 to R181).
-/
namespace Sys2Proof.Machine

/-- REGION_WRITE (R162). -/
def execRegionWrite (w : Win) (s : State) : Host.Outcome State Fault Refusal := act s (fun a => regionCmd a w 1)

/-- REGION_READ (R162). -/
def execRegionRead (w : Win) (s : State) : Host.Outcome State Fault Refusal := act s (fun a => regionCmd a w 2)

/-- OUTER_GATE_WRITE (R161). -/
def execOuterGateWrite (w : Win) (v : Word) (s : State) : Host.Outcome State Fault Refusal := act s (fun a => outerGateOp a w v.toNat)

/-- PATROL_SCRUB (R166). -/
def execPatrolScrub (stack : Fin 16) (s : State) : Host.Outcome State Fault Refusal := act s (fun a => scrubOp a stack.val)

/-- ALLOC (R172). -/
def execAlloc (w : Win) (v : Word) (s : State) : Host.Outcome State Fault Refusal := act s (fun a => poolCmdWrite a w 1 v.toNat)

/-- ADDREF (R173). -/
def execAddref (w : Win) (v : Word) (s : State) : Host.Outcome State Fault Refusal := act s (fun a => poolCmdWrite a w 2 v.toNat)

/-- RELEASE (R172). -/
def execRelease (w : Win) (v : Word) (s : State) : Host.Outcome State Fault Refusal := act s (fun a => poolCmdWrite a w 3 v.toNat)

/-- QUERY (R173). -/
def execQuery (w : Win) (v : Word) (s : State) : Host.Outcome State Fault Refusal := act s (fun a => poolCmdWrite a w 4 v.toNat)

/-- REBUILD (R176). -/
def execRebuild (w : Win) (v : Word) (s : State) : Host.Outcome State Fault Refusal := act s (fun a => poolCmdWrite a w 5 v.toNat)

/-- REBUILD_DONE (R176). -/
def execRebuildDone (pool : Fin 5) (seg : Fin 8) (s : State) : Host.Outcome State Fault Refusal := act s (fun a => rebuildEnd a pool.val seg.val)

end Sys2Proof.Machine
end

