-- ==== Sys2Proof/Machine/CmdOptics.lean ====
section
/-!
DEFINITION. The meanings of the commands of optics and steering (R304 to R318).
-/
namespace Sys2Proof.Machine

/-- COMMAND_FRAME (R306). -/
def execCommandFrame (md : Fin 2) (s : State) : Host.Outcome State Fault Refusal := act s (fun a => commandOp a md.val)

/-- MONITOR_FRAME (R308). -/
def execMonitorFrame (md : Fin 2) (bytes : List Byte) (s : State) : Host.Outcome State Fault Refusal := act s (fun a => monitorOp a md.val bytes)

/-- LOCK_LOOP_UPDATE (R309). -/
def execLockLoopUpdate (md : Fin 2) (s : State) : Host.Outcome State Fault Refusal := act s (fun a => lockLoopOp a md.val)

/-- TUNING_COMPLETE (R311). -/
def execTuningComplete (md : Fin 2) (s : State) : Host.Outcome State Fault Refusal := act s (fun a => tuningOp a md.val)

/-- ACQUISITION_TIMEOUT (R311). -/
def execAcquisitionTimeout (md : Fin 2) (s : State) : Host.Outcome State Fault Refusal := act s (fun a => acqTimeoutOp a md.val)

/-- ACQUIRE (R311). -/
def execAcquire (w : Win) (v : Word) (s : State) : Host.Outcome State Fault Refusal := act s (fun a => ocuCmdWrite a w 1 v.toNat)

/-- DARK (R311). -/
def execDark (w : Win) (v : Word) (s : State) : Host.Outcome State Fault Refusal := act s (fun a => ocuCmdWrite a w 2 v.toNat)

/-- CLEAR (R312). -/
def execClearFailed (w : Win) (v : Word) (s : State) : Host.Outcome State Fault Refusal := act s (fun a => ocuCmdWrite a w 3 v.toNat)

/-- PUSH (R313). -/
def execPush (w : Win) (v : Word) (s : State) : Host.Outcome State Fault Refusal := act s (fun a => steerCmdWrite a w false v.toNat)

/-- FLUSH (R313). -/
def execFlush (w : Win) (v : Word) (s : State) : Host.Outcome State Fault Refusal := act s (fun a => steerCmdWrite a w true v.toNat)

/-- STEER_MISS (R313). -/
def execSteerMiss (md : Fin 2) (side : Bool) (s : State) : Host.Outcome State Fault Refusal := act s (fun a => steerMissOp a md.val side)

/-- CMIS_GO (R305). -/
def execCmisGo (w : Win) (v : Word) (s : State) : Host.Outcome State Fault Refusal :=
  act s (fun a => if mayWrite a w R.OCU_CMIS_CMD && bitOf v.toNat 0 then cmisGoOp a else a)

/-- CMIS_ACCESS_DONE (R305). -/
def execCmisAccessDone (md : Fin 2) (ok : Bool) (data : Byte) (s : State) : Host.Outcome State Fault Refusal :=
  act s (fun a => cmisDoneOp a md.val ok data.toNat)

/-- CMIS_POLL (R305). -/
def execCmisPoll (md : Fin 2) (poll : CmisPoll) (s : State) : Host.Outcome State Fault Refusal := act s (fun a => cmisPollOp a md.val poll)

end Sys2Proof.Machine
end

