-- ==== Sys2Proof/Machine/CmdPower.lean ====
section
/-!
DEFINITION. The meanings of the commands of power and start-up (R431 to R444).
-/
namespace Sys2Proof.Machine

/-- STARTUP_STEP_END (R439). -/
def execStartupStepEnd (micros : BitVec 32) (ok : Bool) (clusters : List Nat) (rows : List Nat) (s : State) : Host.Outcome State Fault Refusal :=
  actIf (decide (s.pwr.state ≤ 1)) s (fun a => stepEndOp a micros.toNat ok clusters rows)

/-- PWR_TO_P0 (R432). -/
def execPwrToP0 (w : Win) (s : State) : Host.Outcome State Fault Refusal := act s (fun a => moveWrite a w 0)

/-- PWR_TO_P1 (R433). -/
def execPwrToP1 (w : Win) (s : State) : Host.Outcome State Fault Refusal := act s (fun a => moveWrite a w 1)

/-- PWR_TO_P2 (R434). -/
def execPwrToP2 (w : Win) (s : State) : Host.Outcome State Fault Refusal := act s (fun a => moveWrite a w 2)

/-- POWER_MOVE_DONE (R432). -/
def execPowerMoveDone (s : State) : Host.Outcome State Fault Refusal := act s (fun a => moveDoneOp a)

/-- THERMAL_SAMPLE (R435). -/
def execThermalSample (die : Fin 8) (temps : List Nat) (s : State) : Host.Outcome State Fault Refusal := act s (fun a => thermalOp a die.val temps)

/-- CURRENT_SAMPLE (R436). -/
def execCurrentSample (milliamps : Nat) (s : State) : Host.Outcome State Fault Refusal := act s (fun a => currentOp a milliamps)

/-- POWER_WINDOW_END (R436). -/
def execPowerWindowEnd (milliwatts : Nat) (s : State) : Host.Outcome State Fault Refusal := act s (fun a => windowEndOp a milliwatts)

/-- POWER_ON (R431). -/
def execPowerOn (s : State) : Host.Outcome State Fault Refusal := actIf (true) s (fun a => powerOnOp a)

/-- POWER_OFF (R431). -/
def execPowerOff (s : State) : Host.Outcome State Fault Refusal := actIf (true) s (fun a => powerOffOp a)

end Sys2Proof.Machine
end

