-- ==== Sys2Proof/Machine/CmdRegs.lean ====
section
/-!
DEFINITION. The meanings of the commands of register reads and writes, and the common block commands (R14, R396 to R402).
-/
namespace Sys2Proof.Machine

/-- LFRM_SEQ_LO_READ (R241). -/
def execLfrmSeqLoRead (w : Win) (md : Fin 2) (rx : Bool) (s : State) : Host.Outcome State Fault Refusal := act s (fun a => seqReadOp a w md.val rx)

/-- READ_CLEAR (R14). -/
def execReadClear (w : Win) (page : BitVec 12) (off : BitVec 12) (s : State) : Host.Outcome State Fault Refusal :=
  act s (fun a => readClearOp a w page.toNat off.toNat)

/-- REGISTER_WRITE (R14). -/
def execRegisterWrite (w : Win) (page : BitVec 12) (off : BitVec 12) (size : Nat) (v : DWord) (s : State) : Host.Outcome State Fault Refusal :=
  act s (fun a => sizedWrite a w page.toNat off.toNat size v.toNat)

/-- ENABLE (R401). -/
def execEnable (w : Win) (page : BitVec 12) (s : State) : Host.Outcome State Fault Refusal :=
  act s (fun a => if mayWrite a w (hdr page.toNat oCTRL) then enableOp a page.toNat else a)

/-- DRAIN (R401). -/
def execDrain (w : Win) (page : BitVec 12) (s : State) : Host.Outcome State Fault Refusal :=
  act s (fun a => if mayWrite a w (hdr page.toNat oCTRL) then drainOp a page.toNat else a)

/-- BLOCK_RESET (R402). -/
def execBlockReset (w : Win) (page : BitVec 12) (s : State) : Host.Outcome State Fault Refusal :=
  act s (fun a => if mayWrite a w (hdr page.toNat oCTRL) then blockResetOp a page.toNat else a)

/-- SELFTEST (R402). -/
def execSelftest (w : Win) (page : BitVec 12) (s : State) : Host.Outcome State Fault Refusal :=
  act s (fun a => if mayWrite a w (hdr page.toNat oCTRL) then selftestOp a page.toNat else a)

/-- SELFTEST_DONE (R402). -/
def execSelftestDone (page : BitVec 12) (failing : List Nat) (s : State) : Host.Outcome State Fault Refusal :=
  act s (fun a => selftestDoneOp a page.toNat failing)

/-- BLOCK_START_DONE (R401). -/
def execBlockStartDone (page : BitVec 12) (s : State) : Host.Outcome State Fault Refusal := act s (fun a => startDoneOp a page.toNat)

/-- DRAIN_DONE (R401). -/
def execDrainDone (page : BitVec 12) (s : State) : Host.Outcome State Fault Refusal := act s (fun a => drainDoneOp a page.toNat)

/-- BLK_LOCK_WRITE (R400). -/
def execBlkLockWrite (w : Win) (page : BitVec 12) (v : Word) (s : State) : Host.Outcome State Fault Refusal :=
  act s (fun a => if mayWrite a w (hdr page.toNat oLOCK) then lockWrite a page.toNat v.toNat else a)

end Sys2Proof.Machine
end

