-- ==== Sys2Proof/Machine/CmdSite.lean ====
section
/-!
DEFINITION. The meanings of the commands of the round, sites and commit agreement (R16 to R31, R319 to R336).
-/
namespace Sys2Proof.Machine

/-- What a site message carries of an accepted round. -/
def accFields (acc : Option Accepted) : List Nat :=
  match acc with
  | some x => [1, x.round.toNat, x.epoch.toNat, x.digest.toNat]
  | none => [0]

/-- An accepted round: round, epoch, digest. -/
def accTriple (x : Accepted) : Nat × Nat × Nat := (x.round.toNat, x.epoch.toNat, x.digest.toNat)

/-- A promise: of an ACCEPT?, epoch, round, digest. -/
def promiseOf (p : Promise) : Bool × Nat × Nat × Nat := (p.accept, p.epoch.toNat, p.round.toNat, p.digest.toNat)

/-- A VIEW's content. -/
def viewMsgOf (epoch members : Word) (committed : BitVec 48) (decided : Option (BitVec 48 × DWord)) (swaps : List (BitVec 16 × BitVec 16)) : ViewMsg :=
  { epoch := epoch.toNat, view := members.toNat, committed := committed.toNat,
    decided := decided.map (fun d => (d.1.toNat, d.2.toNat)), swaps := swaps.map (fun w => (w.1.toNat, w.2.toNat)) }

/-- The ARITH_REV that a site's attestation report names (R101). -/
def noteRev (s : State) (h : SiteHdr) : State := modSite s (fun x => { x with revs := mapPut x.revs h.site.toNat h.arithRev.toNat })

/-- A site message on which the guidon acts (R322, R323). -/
def siteRx (s : State) (h : SiteHdr) (kind : MsgKind) (fields : List Nat) (f : State → SiteTab → State) : State :=
  match siteTab s with
  | none => s
  | some t =>
    let r := siteIn (noteRev s h) t kind h.site.toNat h.count h.dest.toNat h.port.val fields
    if r.1 then f r.2 t else r.2

/-- A message on which a guidon and then every WG9 of its site acts (R324, R327, R333). DEDUCED (242): the guidon tells them of it. -/
def siteTold (a : State) (t : SiteTab) (kind : MsgKind) (fields : List Nat) : State := if isGuidon a then siteTell a t kind fields else a

/-- A VIEW: the guidon acts on another site's, every WG9 on its own guidon's (R327). -/
def viewRx (s : State) (h : SiteHdr) (v : ViewMsg) : State :=
  siteRx s h .view (viewFields v) (fun a t => viewOp (siteTold a t .view (viewFields v)) t v)

/-- A BEACON: every WG9 notes it, the guidon or not; with no job its table check is kept for the job to come (R320, R323). -/
def beaconRx (s : State) (h : SiteHdr) (crc joined committed : Nat) (grant : Option Nat) : State :=
  let s0 := modSite (noteRev s h) (fun x => { x with crcs := mapPut x.crcs h.site.toNat crc })
  match siteTab s0 with
  | none => s0
  | some t =>
    if s0.site.seen.contains (h.site.toNat, h.count) then s0
    else
      let r := siteIn s0 t .beacon h.site.toNat h.count h.dest.toNat h.port.val ([crc, joined, committed] ++ grant.toList)
      beaconOp r.2 t h.site.toNat crc joined committed grant

/-- SNAP_READY (R26). -/
def execSnapReady (msg : SnapReady) (s : State) : Host.Outcome State Fault Refusal := act s (fun a => snapReadyOp a msg)

/-- SNAPSHOT_PULL_START (R29). -/
def execSnapshotPullStart (s : State) : Host.Outcome State Fault Refusal := act s (fun a => pullStartOp a)

/-- MEMBER_MODE_REENTER (R29). -/
def execMemberModeReenter (s : State) : Host.Outcome State Fault Refusal := act s (fun a => reenterOp a)

/-- ROUND_REPLAY (R233). -/
def execRoundReplay (s : State) : Host.Outcome State Fault Refusal := act s (fun a => replayOp a)

/-- BEACON_SEND (R323). -/
def execBeaconSend (s : State) : Host.Outcome State Fault Refusal := act s (fun a => beaconSendOp a)

/-- BEACON (R323). -/
def execBeacon (h : SiteHdr) (crc : DWord) (joined : Word) (committed : BitVec 48) (grant : Option DWord) (s : State) : Host.Outcome State Fault Refusal :=
  act s (fun a => beaconRx a h crc.toNat joined.toNat committed.toNat (grant.map (·.toNat)))

/-- SITE_UNREACHABLE (R323). -/
def execSiteUnreachable (site : BitVec 8) (s : State) : Host.Outcome State Fault Refusal := act s (fun a => unreachableOp a site.toNat)

/-- PROPOSE (R326). -/
def execPropose (h : SiteHdr) (epoch : Word) (view : Word) (s : State) : Host.Outcome State Fault Refusal :=
  act s (fun a => siteRx a h .propose [epoch.toNat, view.toNat] (fun b t => proposeOp b t epoch.toNat view.toNat))

/-- JOIN (R326). -/
def execJoin (h : SiteHdr) (epoch : Word) (committed : BitVec 48) (acc : Option Accepted) (s : State) : Host.Outcome State Fault Refusal :=
  act s (fun a => siteRx a h .join ([epoch.toNat, committed.toNat] ++ accFields acc) (fun b t => joinOp b t h.site.toNat epoch.toNat committed.toNat (acc.map accTriple)))

/-- VIEW_TIMEOUT (R325). -/
def execViewTimeout (s : State) : Host.Outcome State Fault Refusal := act s (fun a => viewTimeoutOp a)

/-- VIEW (R327). -/
def execView (h : SiteHdr) (epoch : Word) (members : Word) (committed : BitVec 48) (decided : Option (BitVec 48 × DWord)) (swaps : List (BitVec 16 × BitVec 16)) (s : State) : Host.Outcome State Fault Refusal :=
  act s (fun a => viewRx a h (viewMsgOf epoch members committed decided swaps))

/-- PROMISE_COPY_ACK (R322). -/
def execPromiseCopyAck (p : Promise) (s : State) : Host.Outcome State Fault Refusal := act s (fun a => promiseAckOp a (promiseOf p))

/-- JOIN_REQ (R333). -/
def execJoinReq (h : SiteHdr) (committed : BitVec 48) (acc : Option (BitVec 48)) (s : State) : Host.Outcome State Fault Refusal :=
  act s (fun a => siteRx a h .joinReq ([committed.toNat] ++ (match acc with | some x => [1, x.toNat] | none => [0])) (fun b t => joinReqOp b t h.site.toNat (acc.map (·.toNat)) h.arithRev.toNat))

/-- HEAL_REPLY (R333). -/
def execHealReply (h : SiteHdr) (committed : BitVec 48) (digest : Option DWord) (s : State) : Host.Outcome State Fault Refusal :=
  act s (fun a => siteRx a h .healReply ([committed.toNat] ++ (match digest with | some d => [d.toNat] | none => [])) (fun b t =>
    healReplyOp (siteTold b t .healReply ([committed.toNat] ++ (match digest with | some d => [d.toNat] | none => []))) committed.toNat (digest.map (·.toNat))))

/-- READY (R328). -/
def execReady (round : BitVec 48) (epoch : Word) (shard : BitVec 16) (digest : DWord) (s : State) : Host.Outcome State Fault Refusal :=
  act s (fun a => readyOp a round.toNat epoch.toNat shard.toNat digest.toNat)

/-- OFFER (R329). -/
def execOffer (h : SiteHdr) (round : BitVec 48) (epoch : Word) (digest : DWord) (shards : List DWord) (s : State) : Host.Outcome State Fault Refusal :=
  act s (fun a => siteRx a h .offer ([round.toNat, epoch.toNat, digest.toNat] ++ shards.map (·.toNat)) (fun b t => offerOp b t h.site.toNat round.toNat epoch.toNat digest.toNat (shards.map (·.toNat))))

/-- ACCEPT (R329). -/
def execAccept (h : SiteHdr) (round : BitVec 48) (epoch : Word) (digest : DWord) (s : State) : Host.Outcome State Fault Refusal :=
  act s (fun a => siteRx a h .accept [round.toNat, epoch.toNat, digest.toNat] (fun b t => acceptOp b t h.site.toNat round.toNat epoch.toNat digest.toNat))

/-- AGREE_TIMEOUT (R329). -/
def execAgreeTimeout (s : State) : Host.Outcome State Fault Refusal := act s (fun a => agreeTimeoutOp a)

/-- COMMIT (R329). -/
def execCommit (round : BitVec 48) (epoch : Word) (s : State) : Host.Outcome State Fault Refusal :=
  act s (fun a => commitOp a round.toNat epoch.toNat)

/-- PROMISE_COPY (R322). -/
def execPromiseCopy (p : Promise) (s : State) : Host.Outcome State Fault Refusal := act s (fun a => promiseCopyOp a (promiseOf p))

end Sys2Proof.Machine
end

