-- ==== Sys2Proof/Machine/CmdStream.lean ====
section
/-!
DEFINITION. The meanings of the commands of streams and station maps (R50 to R79).
-/
namespace Sys2Proof.Machine

/-- STRM_DB (R58). -/
def execStrmDb (w : Win) (v : Word) (s : State) : Host.Outcome State Fault Refusal :=
  act s (fun a => streamDoorbell a w (bitsOf v.toNat 11 0) (bitsOf v.toNat 27 12))

/-- DESC_FETCH (R59). -/
def execDescFetch (slot : BitVec 12) (s : State) : Host.Outcome State Fault Refusal := act s (fun a => fetchDesc a slot.toNat)

/-- OPEN (R73). -/
def execOpenStream (w : Win) (s : State) : Host.Outcome State Fault Refusal := act s (fun a => strmCmdWrite a w 1 0)

/-- CLOSE (R74). -/
def execCloseStream (w : Win) (slot : BitVec 12) (s : State) : Host.Outcome State Fault Refusal := act s (fun a => strmCmdWrite a w 2 slot.toNat)

/-- STREAM_CLOSE_DONE (R74). -/
def execStreamCloseDone (slot : BitVec 12) (s : State) : Host.Outcome State Fault Refusal := act s (fun a => closeDone a slot.toNat)

/-- ARM (R71). -/
def execArm (w : Win) (s : State) : Host.Outcome State Fault Refusal := act s (fun a => armWrite a w true false)

/-- CANCEL (R71). -/
def execCancel (w : Win) (s : State) : Host.Outcome State Fault Refusal := act s (fun a => armWrite a w false true)

/-- CLUSTER_REBIND (R71). -/
def execClusterRebind (die : Fin 8) (cluster : Fin 40) (s : State) : Host.Outcome State Fault Refusal :=
  act s (fun a => rebindCluster a die.val cluster.val)

/-- CRING_CFG_WRITE (R64). -/
def execCringCfgWrite (w : Win) (v : Word) (s : State) : Host.Outcome State Fault Refusal := act s (fun a => Machine.cringCfgWrite a w v.toNat)

/-- CRING_HEAD_WRITE (R64). -/
def execCringHeadWrite (w : Win) (v : Word) (s : State) : Host.Outcome State Fault Refusal :=
  act s (fun a => Machine.cringHeadWrite a w (bitsOf v.toNat 15 0))

end Sys2Proof.Machine
end

