-- ==== Sys2Proof/Machine/CmdSwitch.lean ====
section
/-!
DEFINITION. The meanings of the commands of the switch core and its schedulers (R182 to R208).
-/
namespace Sys2Proof.Machine

/-- A frame arrives at a port: PTP, a fabric frame, or a frame from the host. A line port takes its frames as line frames. -/
def frameRx (s : State) (port : Nat) (bytes : List Byte) : State :=
  if port < 4 then
    match ptpOf bytes with
    | some b => ptpMessageOp s port b true
    | none => fabricRx s port bytes
  else if port = 6 then hostRx s bytes
  else s

/-- FABRIC_FRAME_RX (R188). -/
def execFabricFrameRx (port : Fin 7) (bytes : List Byte) (s : State) : Host.Outcome State Fault Refusal := act s (fun a => frameRx a port.val bytes)

/-- PAUSE_RX (R186). -/
def execPauseRx (port : Fin 4) (prio : Fin 8) (on : Bool) (s : State) : Host.Outcome State Fault Refusal :=
  act s (fun a => pauseOp a port.val prio.val on)

/-- FRAME_EGRESS (R197). -/
def execFrameEgress (port : Fin 7) (s : State) : Host.Outcome State Fault Refusal := act s (fun a => egressOp a port.val)

/-- FRAME_AGE_OUT (R195). -/
def execFrameAgeOut (port : Fin 7) (cls : Fin 8) (s : State) : Host.Outcome State Fault Refusal := act s (fun a => ageClass port.val a cls.val)

/-- GRANT (R200). -/
def execGrant (port : Fin 7) (bytes : List Byte) (s : State) : Host.Outcome State Fault Refusal :=
  act s (fun a => grantRx a port.val bytes)

/-- GCL_LOAD (R203). -/
def execGclLoad (w : Win) (v : Word) (s : State) : Host.Outcome State Fault Refusal := act s (fun a => gclWrite a w true false)

/-- GCL_OFF (R203). -/
def execGclOff (w : Win) (v : Word) (s : State) : Host.Outcome State Fault Refusal := act s (fun a => gclWrite a w false true)

/-- SUB_RELOAD (R190). -/
def execSubReload (w : Win) (v : Word) (s : State) : Host.Outcome State Fault Refusal := act s (fun a => subWrite a w (v.toNat ||| 0x80000000))

end Sys2Proof.Machine
end

