-- ==== Sys2Proof/Machine/CmdTime.lean ====
section
/-!
DEFINITION. The meanings of the commands of the tick, the time counter, PTP and the timed pulses (R40 to R44, R352 to R369).
-/
namespace Sys2Proof.Machine

/-- TICK_BOUNDARY (R40). -/
def execTickBoundary (env : TickEnv) (s : State) : Host.Outcome State Fault Refusal := actIf (ticking s) s (fun a => tickOp a env)

/-- TICK_NOW_LO_READ (R43). -/
def execTickNowLoRead (w : Win) (s : State) : Host.Outcome State Fault Refusal := act s (fun a => tickReadOp a w)

/-- TIME_NOW_NS_READ (R352). -/
def execTimeNowNsRead (w : Win) (elapsed : Nat) (s : State) : Host.Outcome State Fault Refusal := act s (fun a => timeReadOp a w elapsed)

/-- TIME_INCR_NS_WRITE (R353). -/
def execTimeIncrNsWrite (w : Win) (v : Word) (s : State) : Host.Outcome State Fault Refusal :=
  act s (fun a => if w = .core then commitIncr a v.toNat else a)

/-- SET (R354). -/
def execSetTime (w : Win) (elapsed : Nat) (s : State) : Host.Outcome State Fault Refusal := act s (fun a => setTimeOp a w elapsed)

/-- TIME_ADD (R354). -/
def execTimeAdd (w : Win) (elapsed : Nat) (s : State) : Host.Outcome State Fault Refusal := act s (fun a => timeAddOp a w elapsed)

/-- PTP_MESSAGE (R360). -/
def execPtpMessage (port : Fin 12) (bytes : List Byte) (stamped : Bool) (s : State) : Host.Outcome State Fault Refusal :=
  act s (fun a => ptpMessageOp a port.val bytes stamped)

/-- ANNOUNCE_TIMEOUT (R362). -/
def execAnnounceTimeout (s : State) : Host.Outcome State Fault Refusal := act s (fun a => announceTimeoutOp a)

/-- HOLDOVER_END (R362). -/
def execHoldoverEnd (s : State) : Host.Outcome State Fault Refusal := act s (fun a => holdoverEndOp a)

/-- HOLD_MAX_EXPIRE (R361). -/
def execHoldMaxExpire (s : State) : Host.Outcome State Fault Refusal := act s (fun a => holdMaxOp a)

/-- PULSE_EDGE (R366). -/
def execPulseEdge (pulse : Fin 4) (s : State) : Host.Outcome State Fault Refusal := act s (fun a => pulseEdgeOp a pulse.val)

/-- TIME_P_CFG_WRITE (R366). -/
def execTimePCfgWrite (w : Win) (v : Word) (s : State) : Host.Outcome State Fault Refusal := act s (fun a => pulseCfgOp a w v.toNat)

/-- SYNC_INTERVAL (R356). -/
def execSyncInterval (port : Fin 12) (kind : Fin 3) (s : State) : Host.Outcome State Fault Refusal :=
  act s (fun a => syncIntervalOp a port.val kind.val)

end Sys2Proof.Machine
end

