-- ==== Sys2Proof/Machine/Dispatch.lean ====
section
/-!
DEFINITION. The meaning of every command: one arm per constructor, each one direct call of that command's meaning.
-/
namespace Sys2Proof.Machine

def exec (i : Instr) (s : State) : Host.Outcome State Fault Refusal :=
  match i with
  | .tickBoundary env => Sys2Proof.Machine.execTickBoundary env s
  | .tickNowLoRead w => Sys2Proof.Machine.execTickNowLoRead w s
  | .timeNowNsRead w elapsed => Sys2Proof.Machine.execTimeNowNsRead w elapsed s
  | .lfrmSeqLoRead w md rx => Sys2Proof.Machine.execLfrmSeqLoRead w md rx s
  | .readClear w page off => Sys2Proof.Machine.execReadClear w page off s
  | .registerWrite w page off size v => Sys2Proof.Machine.execRegisterWrite w page off size v s
  | .d2dLinkDegrade die link => Sys2Proof.Machine.execD2dLinkDegrade die link s
  | .snapReady msg => Sys2Proof.Machine.execSnapReady msg s
  | .snapshotPullStart => Sys2Proof.Machine.execSnapshotPullStart s
  | .memberModeReenter => Sys2Proof.Machine.execMemberModeReenter s
  | .strmDb w v => Sys2Proof.Machine.execStrmDb w v s
  | .descFetch slot => Sys2Proof.Machine.execDescFetch slot s
  | .openStream w => Sys2Proof.Machine.execOpenStream w s
  | .closeStream w slot => Sys2Proof.Machine.execCloseStream w slot s
  | .streamCloseDone slot => Sys2Proof.Machine.execStreamCloseDone slot s
  | .arm w => Sys2Proof.Machine.execArm w s
  | .cancel w => Sys2Proof.Machine.execCancel w s
  | .clusterRebind die cluster => Sys2Proof.Machine.execClusterRebind die cluster s
  | .cringCfgWrite w v => Sys2Proof.Machine.execCringCfgWrite w v s
  | .cringHeadWrite w v => Sys2Proof.Machine.execCringHeadWrite w v s
  | .gemm slot seq => Sys2Proof.Machine.execGemm slot seq s
  | .projLeft slot seq => Sys2Proof.Machine.execProjLeft slot seq s
  | .projRight slot seq => Sys2Proof.Machine.execProjRight slot seq s
  | .residual slot seq => Sys2Proof.Machine.execResidual slot seq s
  | .formDelta slot seq => Sys2Proof.Machine.execFormDelta slot seq s
  | .exprec slot seq => Sys2Proof.Machine.execExprec slot seq s
  | .quant slot seq => Sys2Proof.Machine.execQuant slot seq s
  | .gramA slot seq => Sys2Proof.Machine.execGramA slot seq s
  | .chol slot seq => Sys2Proof.Machine.execChol slot seq s
  | .trsolveA slot seq => Sys2Proof.Machine.execTrsolveA slot seq s
  | .gramB slot seq => Sys2Proof.Machine.execGramB slot seq s
  | .trsolveB slot seq => Sys2Proof.Machine.execTrsolveB slot seq s
  | .applyStep slot seq => Sys2Proof.Machine.execApplyStep slot seq s
  | .convert slot seq => Sys2Proof.Machine.execConvert slot seq s
  | .addOp slot seq => Sys2Proof.Machine.execAddOp slot seq s
  | .mulOp slot seq => Sys2Proof.Machine.execMulOp slot seq s
  | .axpby slot seq => Sys2Proof.Machine.execAxpby slot seq s
  | .maxmin slot seq => Sys2Proof.Machine.execMaxmin slot seq s
  | .drawSketch slot seq => Sys2Proof.Machine.execDrawSketch slot seq s
  | .drawStart slot seq => Sys2Proof.Machine.execDrawStart slot seq s
  | .fill slot seq => Sys2Proof.Machine.execFill slot seq s
  | .pass slot seq => Sys2Proof.Machine.execPass slot seq s
  | .encodeCur slot seq => Sys2Proof.Machine.execEncodeCur slot seq s
  | .encodeSlot slot seq => Sys2Proof.Machine.execEncodeSlot slot seq s
  | .decode slot seq => Sys2Proof.Machine.execDecode slot seq s
  | .collective slot seq => Sys2Proof.Machine.execCollective slot seq s
  | .make slot seq => Sys2Proof.Machine.execMake slot seq s
  | .check slot seq => Sys2Proof.Machine.execCheck slot seq s
  | .fabricOut slot seq => Sys2Proof.Machine.execFabricOut slot seq s
  | .lineOut slot seq => Sys2Proof.Machine.execLineOut slot seq s
  | .hostOut slot seq => Sys2Proof.Machine.execHostOut slot seq s
  | .load w v => Sys2Proof.Machine.execLoad w v s
  | .unload w v => Sys2Proof.Machine.execUnload w v s
  | .tableLoadMessage port node slot gen bytes => Sys2Proof.Machine.execTableLoadMessage port node slot gen bytes s
  | .tableInstall ctx slot => Sys2Proof.Machine.execTableInstall ctx slot s
  | .tableLoadAck node slot gen => Sys2Proof.Machine.execTableLoadAck node slot gen s
  | .tableLoadRefusal node slot gen => Sys2Proof.Machine.execTableLoadRefusal node slot gen s
  | .loadTimeout => Sys2Proof.Machine.execLoadTimeout s
  | .codecCtxCfgWrite w v => Sys2Proof.Machine.execCodecCtxCfgWrite w v s
  | .regionWrite w => Sys2Proof.Machine.execRegionWrite w s
  | .regionRead w => Sys2Proof.Machine.execRegionRead w s
  | .outerGateWrite w v => Sys2Proof.Machine.execOuterGateWrite w v s
  | .patrolScrub stack => Sys2Proof.Machine.execPatrolScrub stack s
  | .alloc w v => Sys2Proof.Machine.execAlloc w v s
  | .addref w v => Sys2Proof.Machine.execAddref w v s
  | .release w v => Sys2Proof.Machine.execRelease w v s
  | .query w v => Sys2Proof.Machine.execQuery w v s
  | .rebuild w v => Sys2Proof.Machine.execRebuild w v s
  | .rebuildDone pool seg => Sys2Proof.Machine.execRebuildDone pool seg s
  | .fabricFrameRx port bytes => Sys2Proof.Machine.execFabricFrameRx port bytes s
  | .pauseRx port prio on => Sys2Proof.Machine.execPauseRx port prio on s
  | .frameEgress port => Sys2Proof.Machine.execFrameEgress port s
  | .frameAgeOut port cls => Sys2Proof.Machine.execFrameAgeOut port cls s
  | .grant port bytes => Sys2Proof.Machine.execGrant port bytes s
  | .gclLoad w v => Sys2Proof.Machine.execGclLoad w v s
  | .gclOff w v => Sys2Proof.Machine.execGclOff w v s
  | .subReload w v => Sys2Proof.Machine.execSubReload w v s
  | .groupEnable w => Sys2Proof.Machine.execGroupEnable w s
  | .groupDisable w => Sys2Proof.Machine.execGroupDisable w s
  | .groupReload w => Sys2Proof.Machine.execGroupReload w s
  | .collDb w v => Sys2Proof.Machine.execCollDb w v s
  | .exchange => Sys2Proof.Machine.execExchange s
  | .allReduce => Sys2Proof.Machine.execAllReduce s
  | .reduceScatter => Sys2Proof.Machine.execReduceScatter s
  | .allGather => Sys2Proof.Machine.execAllGather s
  | .broadcast => Sys2Proof.Machine.execBroadcast s
  | .allToAll => Sys2Proof.Machine.execAllToAll s
  | .allToAllV => Sys2Proof.Machine.execAllToAllV s
  | .allMax => Sys2Proof.Machine.execAllMax s
  | .allMin => Sys2Proof.Machine.execAllMin s
  | .exponentRecordMessage node group bytes => Sys2Proof.Machine.execExponentRecordMessage node group bytes s
  | .checkMessage node group round chunk crc => Sys2Proof.Machine.execCheckMessage node group round chunk crc s
  | .checkAck node group round chunk => Sys2Proof.Machine.execCheckAck node group round chunk s
  | .checkTimeout => Sys2Proof.Machine.execCheckTimeout s
  | .recheck => Sys2Proof.Machine.execRecheck s
  | .abort w => Sys2Proof.Machine.execAbort w s
  | .abortAnnounce round => Sys2Proof.Machine.execAbortAnnounce round s
  | .roundReplay => Sys2Proof.Machine.execRoundReplay s
  | .lineFrameTx md sc => Sys2Proof.Machine.execLineFrameTx md sc s
  | .lineFrameRx md bytes => Sys2Proof.Machine.execLineFrameRx md bytes s
  | .reacquireTimeout md => Sys2Proof.Machine.execReacquireTimeout md s
  | .secondClassify md => Sys2Proof.Machine.execSecondClassify md s
  | .clearCur w md => Sys2Proof.Machine.execClearCur w md s
  | .rtoExpire md dir => Sys2Proof.Machine.execRtoExpire md dir s
  | .loadAbandon md dir => Sys2Proof.Machine.execLoadAbandon md dir s
  | .heldLoadRelease md dir => Sys2Proof.Machine.execHeldLoadRelease md dir s
  | .laneLockLoss port lane rx => Sys2Proof.Machine.execLaneLockLoss port lane rx s
  | .laneHoldExpire port lane rx => Sys2Proof.Machine.execLaneHoldExpire port lane rx s
  | .laneMessage md lanes tick => Sys2Proof.Machine.execLaneMessage md lanes tick s
  | .ldlvLaneCmdWrite w v => Sys2Proof.Machine.execLdlvLaneCmdWrite w v s
  | .install w v => Sys2Proof.Machine.execInstall w v s
  | .switchKey w v => Sys2Proof.Machine.execSwitchKey w v s
  | .retire w v => Sys2Proof.Machine.execRetire w v s
  | .erase w v => Sys2Proof.Machine.execErase w v s
  | .keyRetirement md dir => Sys2Proof.Machine.execKeyRetirement md dir s
  | .keyRetire md dir slot epoch => Sys2Proof.Machine.execKeyRetire md dir slot epoch s
  | .sealInstall w v => Sys2Proof.Machine.execSealInstall w v s
  | .sealErase w v => Sys2Proof.Machine.execSealErase w v s
  | .commandFrame md => Sys2Proof.Machine.execCommandFrame md s
  | .monitorFrame md bytes => Sys2Proof.Machine.execMonitorFrame md bytes s
  | .lockLoopUpdate md => Sys2Proof.Machine.execLockLoopUpdate md s
  | .tuningComplete md => Sys2Proof.Machine.execTuningComplete md s
  | .acquisitionTimeout md => Sys2Proof.Machine.execAcquisitionTimeout md s
  | .acquire w v => Sys2Proof.Machine.execAcquire w v s
  | .dark w v => Sys2Proof.Machine.execDark w v s
  | .clearFailed w v => Sys2Proof.Machine.execClearFailed w v s
  | .push w v => Sys2Proof.Machine.execPush w v s
  | .flush w v => Sys2Proof.Machine.execFlush w v s
  | .steerMiss md side => Sys2Proof.Machine.execSteerMiss md side s
  | .cmisGo w v => Sys2Proof.Machine.execCmisGo w v s
  | .cmisAccessDone md ok data => Sys2Proof.Machine.execCmisAccessDone md ok data s
  | .cmisPoll md poll => Sys2Proof.Machine.execCmisPoll md poll s
  | .beaconSend => Sys2Proof.Machine.execBeaconSend s
  | .beacon h crc joined committed grant => Sys2Proof.Machine.execBeacon h crc joined committed grant s
  | .siteUnreachable site => Sys2Proof.Machine.execSiteUnreachable site s
  | .propose h epoch view => Sys2Proof.Machine.execPropose h epoch view s
  | .join h epoch committed acc => Sys2Proof.Machine.execJoin h epoch committed acc s
  | .viewTimeout => Sys2Proof.Machine.execViewTimeout s
  | .view h epoch members committed decided swaps => Sys2Proof.Machine.execView h epoch members committed decided swaps s
  | .promiseCopyAck p => Sys2Proof.Machine.execPromiseCopyAck p s
  | .joinReq h committed acc => Sys2Proof.Machine.execJoinReq h committed acc s
  | .healReply h committed digest => Sys2Proof.Machine.execHealReply h committed digest s
  | .ready round epoch shard digest => Sys2Proof.Machine.execReady round epoch shard digest s
  | .offer h round epoch digest shards => Sys2Proof.Machine.execOffer h round epoch digest shards s
  | .accept h round epoch digest => Sys2Proof.Machine.execAccept h round epoch digest s
  | .agreeTimeout => Sys2Proof.Machine.execAgreeTimeout s
  | .commit round epoch => Sys2Proof.Machine.execCommit round epoch s
  | .heartbeatSend => Sys2Proof.Machine.execHeartbeatSend s
  | .heartbeat node => Sys2Proof.Machine.execHeartbeat node s
  | .memberLost node reported => Sys2Proof.Machine.execMemberLost node reported s
  | .healthEval => Sys2Proof.Machine.execHealthEval s
  | .expulsionRequest node answer => Sys2Proof.Machine.execExpulsionRequest node answer s
  | .mirrorReceive node round resid index crc hdr data => Sys2Proof.Machine.execMirrorReceive node round resid index crc hdr data s
  | .mirrorAck resid index => Sys2Proof.Machine.execMirrorAck resid index s
  | .changeRecord node group q position unit round delta => Sys2Proof.Machine.execChangeRecord node group q position unit round delta s
  | .changeRecordAck node unit round all => Sys2Proof.Machine.execChangeRecordAck node unit round all s
  | .hoistSelftestDone node pass => Sys2Proof.Machine.execHoistSelftestDone node pass s
  | .hoistLoadDone node => Sys2Proof.Machine.execHoistLoadDone node s
  | .timeIncrNsWrite w v => Sys2Proof.Machine.execTimeIncrNsWrite w v s
  | .setTime w elapsed => Sys2Proof.Machine.execSetTime w elapsed s
  | .timeAdd w elapsed => Sys2Proof.Machine.execTimeAdd w elapsed s
  | .ptpMessage port bytes stamped => Sys2Proof.Machine.execPtpMessage port bytes stamped s
  | .announceTimeout => Sys2Proof.Machine.execAnnounceTimeout s
  | .holdoverEnd => Sys2Proof.Machine.execHoldoverEnd s
  | .holdMaxExpire => Sys2Proof.Machine.execHoldMaxExpire s
  | .pulseEdge pulse => Sys2Proof.Machine.execPulseEdge pulse s
  | .timePCfgWrite w v => Sys2Proof.Machine.execTimePCfgWrite w v s
  | .faultRecord src kind ctx addr => Sys2Proof.Machine.execFaultRecord src kind ctx addr s
  | .wireAssert wire ctx => Sys2Proof.Machine.execWireAssert wire ctx s
  | .fltWireWrite w v => Sys2Proof.Machine.execFltWireWrite w v s
  | .fltRaise3Write w v => Sys2Proof.Machine.execFltRaise3Write w v s
  | .testDone src pass => Sys2Proof.Machine.execTestDone src pass s
  | .quietPeriodEnd src => Sys2Proof.Machine.execQuietPeriodEnd src s
  | .irqDb w v => Sys2Proof.Machine.execIrqDb w v s
  | .serveBegin w v => Sys2Proof.Machine.execServeBegin w v s
  | .serveEnd w v => Sys2Proof.Machine.execServeEnd w v s
  | .spacingEnd src => Sys2Proof.Machine.execSpacingEnd src s
  | .stuckSource src => Sys2Proof.Machine.execStuckSource src s
  | .unmask w v => Sys2Proof.Machine.execUnmask w v s
  | .wakeInput latch active => Sys2Proof.Machine.execWakeInput latch active s
  | .irqWakeWrite w v => Sys2Proof.Machine.execIrqWakeWrite w v s
  | .enable w page => Sys2Proof.Machine.execEnable w page s
  | .drain w page => Sys2Proof.Machine.execDrain w page s
  | .blockReset w page => Sys2Proof.Machine.execBlockReset w page s
  | .selftest w page => Sys2Proof.Machine.execSelftest w page s
  | .selftestDone page failing => Sys2Proof.Machine.execSelftestDone page failing s
  | .blockStartDone page => Sys2Proof.Machine.execBlockStartDone page s
  | .drainDone page => Sys2Proof.Machine.execDrainDone page s
  | .blkLockWrite w page v => Sys2Proof.Machine.execBlkLockWrite w page v s
  | .fullReset w v => Sys2Proof.Machine.execFullReset w v s
  | .perstN => Sys2Proof.Machine.execPerstN s
  | .cxlHotReset => Sys2Proof.Machine.execCxlHotReset s
  | .glbWdogWrite w v => Sys2Proof.Machine.execGlbWdogWrite w v s
  | .watchdogExpire core => Sys2Proof.Machine.execWatchdogExpire core s
  | .cxlLinkUp width rate => Sys2Proof.Machine.execCxlLinkUp width rate s
  | .cxlLinkDown => Sys2Proof.Machine.execCxlLinkDown s
  | .hdmDecoderCommit => Sys2Proof.Machine.execHdmDecoderCommit s
  | .cxlMemRead off n => Sys2Proof.Machine.execCxlMemRead off n s
  | .cxlMemWrite off bytes => Sys2Proof.Machine.execCxlMemWrite off bytes s
  | .ideStop mem failed => Sys2Proof.Machine.execIdeStop mem failed s
  | .privGateClose w v => Sys2Proof.Machine.execPrivGateClose w v s
  | .getInfo len => Sys2Proof.Machine.execGetInfo len s
  | .authChallenge len => Sys2Proof.Machine.execAuthChallenge len s
  | .authResponse len => Sys2Proof.Machine.execAuthResponse len s
  | .jobCreate len => Sys2Proof.Machine.execJobCreate len s
  | .jobEnd len => Sys2Proof.Machine.execJobEnd len s
  | .jobStatus len => Sys2Proof.Machine.execJobStatus len s
  | .timeStep len => Sys2Proof.Machine.execTimeStep len s
  | .fwStage len => Sys2Proof.Machine.execFwStage len s
  | .attestationRequest nonce => Sys2Proof.Machine.execAttestationRequest nonce s
  | .kexCert md dir msg => Sys2Proof.Machine.execKexCert md dir msg s
  | .kexInit md dir msg => Sys2Proof.Machine.execKexInit md dir msg s
  | .kexReply md dir msg => Sys2Proof.Machine.execKexReply md dir msg s
  | .kexFail md dir epoch reason => Sys2Proof.Machine.execKexFail md dir epoch reason s
  | .kexRetry md dir => Sys2Proof.Machine.execKexRetry md dir s
  | .rekeyInterval md dir => Sys2Proof.Machine.execRekeyInterval md dir s
  | .sealMasterExchange master => Sys2Proof.Machine.execSealMasterExchange master s
  | .imageProven => Sys2Proof.Machine.execImageProven s
  | .startupStepEnd micros ok clusters rows => Sys2Proof.Machine.execStartupStepEnd micros ok clusters rows s
  | .pwrToP0 w => Sys2Proof.Machine.execPwrToP0 w s
  | .pwrToP1 w => Sys2Proof.Machine.execPwrToP1 w s
  | .pwrToP2 w => Sys2Proof.Machine.execPwrToP2 w s
  | .powerMoveDone => Sys2Proof.Machine.execPowerMoveDone s
  | .thermalSample die temps => Sys2Proof.Machine.execThermalSample die temps s
  | .currentSample milliamps => Sys2Proof.Machine.execCurrentSample milliamps s
  | .powerWindowEnd milliwatts => Sys2Proof.Machine.execPowerWindowEnd milliwatts s
  | .promiseCopy p => Sys2Proof.Machine.execPromiseCopy p s
  | .perstNRelease => Sys2Proof.Machine.execPerstNRelease s
  | .powerOn => Sys2Proof.Machine.execPowerOn s
  | .powerOff => Sys2Proof.Machine.execPowerOff s
  | .ideEstablished mem => Sys2Proof.Machine.execIdeEstablished mem s
  | .syncInterval port kind => Sys2Proof.Machine.execSyncInterval port kind s
  | .tableUnloadMessage port node slot => Sys2Proof.Machine.execTableUnloadMessage port node slot s
  | .keyRetireAck md dir slot epoch => Sys2Proof.Machine.execKeyRetireAck md dir slot epoch s
  | .laneLockRegain port lane rx => Sys2Proof.Machine.execLaneLockRegain port lane rx s

end Sys2Proof.Machine
end

