-- ==== Sys2Proof/WellFormed.lean ====
section
/-!
DEFINITION. Well-formed commands: the operands that the wires, the links and the buses can carry, command by command. The
machine takes an ill-formed command too (it then acts on what is there); a well-formed one is what an agent can send.
-/
namespace Sys2Proof

/-- A register access of 1, 2, 4 or 8 bytes (R14, R396). -/
def sizeOk (n : Nat) : Bool := n == 1 || n == 2 || n == 4 || n == 8

/-- A protected word's storage key and a stack that exist, in the facts of a tick. -/
def tickEnvOk (e : TickEnv) : Bool :=
  e.upsets.all (fun p => p.1 % 8 == 0) && e.stackTemps.all (fun p => decide (p.1 < 16)) && decide (e.clocks.length ≤ 8)

/-- The command's operands are such as its sender can form. -/
def Instr.wf : Instr → Bool
  | .tickBoundary env => tickEnvOk env
  | .readClear _ _ off => off.toNat % 4 == 0
  | .registerWrite _ _ _ size _ => sizeOk size
  | .tableLoadMessage _ _ _ _ bytes => !bytes.isEmpty
  | .fabricFrameRx _ bytes => !bytes.isEmpty
  | .grant _ bytes => !bytes.isEmpty
  | .lineFrameRx _ bytes => !bytes.isEmpty
  | .monitorFrame _ bytes => bytes.length == 24
  | .ptpMessage _ bytes _ => !bytes.isEmpty
  | .cxlMemRead off n => n.val != 0 && decide (off.toNat % 64 + n.val ≤ 64)
  | .cxlMemWrite off bytes => !bytes.isEmpty && decide (off.toNat % 64 + bytes.length ≤ 64)
  | .attestationRequest nonce => nonce.length == 32
  | .sealMasterExchange master => master.length == 32
  | .thermalSample _ temps => temps.length == 64
  | .startupStepEnd _ _ clusters _ => clusters.all (fun c => decide (c < 320))
  | .mirrorReceive _ _ _ _ _ _ data => !data.isEmpty
  | .changeRecord _ _ _ _ _ _ delta => !delta.isEmpty
  | .kexCert _ _ msg => msg.idKey.length == 56 && msg.attKey.length == 56
  | _ => true

/-- The register window that a command comes through, when it is an access of a register. -/
def Instr.window : Instr → Option Win
  | .tickNowLoRead w => some w
  | .timeNowNsRead w _ => some w
  | .lfrmSeqLoRead w _ _ => some w
  | .readClear w _ _ => some w
  | .registerWrite w _ _ _ _ => some w
  | .strmDb w _ => some w
  | .openStream w => some w
  | .closeStream w _ => some w
  | .arm w => some w
  | .cancel w => some w
  | .cringCfgWrite w _ => some w
  | .cringHeadWrite w _ => some w
  | .load w _ => some w
  | .unload w _ => some w
  | .codecCtxCfgWrite w _ => some w
  | .regionWrite w => some w
  | .regionRead w => some w
  | .outerGateWrite w _ => some w
  | .alloc w _ => some w
  | .addref w _ => some w
  | .release w _ => some w
  | .query w _ => some w
  | .rebuild w _ => some w
  | .gclLoad w _ => some w
  | .gclOff w _ => some w
  | .subReload w _ => some w
  | .groupEnable w => some w
  | .groupDisable w => some w
  | .groupReload w => some w
  | .collDb w _ => some w
  | .abort w => some w
  | .clearCur w _ => some w
  | .ldlvLaneCmdWrite w _ => some w
  | .install w _ => some w
  | .switchKey w _ => some w
  | .retire w _ => some w
  | .erase w _ => some w
  | .sealInstall w _ => some w
  | .sealErase w _ => some w
  | .acquire w _ => some w
  | .dark w _ => some w
  | .clearFailed w _ => some w
  | .push w _ => some w
  | .flush w _ => some w
  | .cmisGo w _ => some w
  | .timeIncrNsWrite w _ => some w
  | .setTime w _ => some w
  | .timeAdd w _ => some w
  | .timePCfgWrite w _ => some w
  | .fltWireWrite w _ => some w
  | .fltRaise3Write w _ => some w
  | .irqDb w _ => some w
  | .serveBegin w _ => some w
  | .serveEnd w _ => some w
  | .unmask w _ => some w
  | .irqWakeWrite w _ => some w
  | .enable w _ => some w
  | .drain w _ => some w
  | .blockReset w _ => some w
  | .selftest w _ => some w
  | .blkLockWrite w _ _ => some w
  | .fullReset w _ => some w
  | .glbWdogWrite w _ => some w
  | .privGateClose w _ => some w
  | .pwrToP0 w => some w
  | .pwrToP1 w => some w
  | .pwrToP2 w => some w
  | _ => none

end Sys2Proof
end

