-- ==== Sys2Proof/Safety.lean ====
section
/-!
DEFINITION. The terms claims are made in: the effect of a command, what stays as it was, and the outputs' agreement with the state.
-/
namespace Sys2Proof.Safety

open Sys2Proof.Machine

/-- The command answers a next state, with the effect u: the next state is u after what follows every command (`finish`: what
waits for the end of the command, then the outputs; nothing waits in a calm u). -/
def Effect (c : Instr) (s u : State) : Prop := exec c s = .next (finish s.pending u)

/-- FAULT_N and the core lines show what the state says (R376, R384). -/
def OutputsAgree (s : State) : Prop := s.faultN = faultNOf s ∧ s.coreLine = coreLinesOf s

/-- Every register but the listed ones and those of the listed pages reads as before. -/
def RegsKept (s u : State) (l : List Nat) (pages : List Nat) : Prop := ∀ k, k ∉ l → pageOf k ∉ pages → getR u k = getR s k

/-- What an event of a page writes beside the interrupt controller's registers on page 0x80: BLK_EVT and BLK_EVT_CNT (R400). -/
def evtKeys (page : Nat) : List Nat := [hdr page oEVT, hdr page oEVTCNT]

/-- Every byte of storage but those of the n from key k reads as before. -/
def MemKeptBut (s u : State) (k n : Nat) : Prop := ∀ a, a < k ∨ k + n ≤ a → memByte u.mem a = memByte s.mem a

/-- What a full reset leaves (R411, R412) where no error wire asserts: the contents of HBM, the SEAL marks and flash, and everything
else at its reset state; GLB_RESET_CAUSE shows the cause, and PRIV_GATE is closed, with cause 5 where it was open. -/
def ResetLeft (s u : State) (cause : Nat) : Prop :=
  (∀ k, memByte u.mem k = if isHbm k = true then memByte s.mem k else 0) ∧
  (∀ k, k ∉ [R.FLT_RESET_CAUSE, R.GLB_RESET_CAUSE, R.FLT_WIRE_RAW, R.PRIV_GATE, R.PWR_STATE] → regN u k = resetOf k % 2 ^ 32) ∧
  fld u R.GLB_RESET_CAUSE 2 0 = cause ∧ gateOpen u = false ∧ (gateOpen s = true → fld u R.PRIV_GATE 11 8 = 5) ∧
  u.tick = {} ∧ u.time = {} ∧ u.regn = {} ∧ u.pool = {} ∧ u.strm = {} ∧ u.stn = {} ∧ u.sw = {} ∧ u.codec = {} ∧ u.coll = {} ∧
  u.job = {} ∧ u.line = {} ∧ u.ocu = {} ∧ u.site = {} ∧ u.hlth = {} ∧ u.ciph = { marks := s.ciph.marks } ∧ u.sec = flashStart s.sec

/-- The count and the bitmap bit of a buffer can be written, at two places of storage that the pool manager may write (R158, R171). -/
def CountWritable (s : State) (h : Nat) : Prop :=
  let c := segMeta s (hPool h) (hSeg h) + hIdx h
  let m := segMeta s (hPool h) (hSeg h) + segCount s (hPool h) (hSeg h) + hIdx h / 8
  hPool h = 0 ∨ ∃ a b, kindOpen s 5 c = true ∧ kindOpen s 5 m = true ∧ resolve s c 1 = some a ∧ resolve s m 1 = some b ∧ a ≠ b

/-- An entry's fields lie within the widths of the shadow registers (R157, R162). -/
def EntryFits (r : Region) : Prop :=
  r.lbase < 2 ^ 64 ∧ r.len < 2 ^ 64 ∧ r.phys < 2 ^ 64 ∧ r.mode < 4 ∧ r.die < 8 ∧ r.kind < 16 ∧ r.read < 65536 ∧ r.write < 65536

/-- A site message reaches the guidon of another site's table entry for the first time, and it acts on it (R323). -/
def SiteActs (s : State) (t : SiteTab) (h : SiteHdr) : Prop :=
  siteTab s = some t ∧ isGuidon s = true ∧ s.site.seen.contains (h.site.toNat, h.count) = false ∧ h.site.toNat ≠ ownSite t

/-- The message noted as seen, with the ARITH_REV that its site's attestation names (R101). -/
def seenNow (s : State) (h : SiteHdr) : SiteSt :=
  { s.site with seen := (h.site.toNat, h.count) :: s.site.seen, revs := mapPut s.site.revs h.site.toNat h.arithRev.toNat }

/-- No BROADCAST of a STATE group is under way (R334). -/
def NoStateBroadcast (s : State) : Prop := ∀ r ∈ s.coll.active, r.oper = 5 → bitOf r.grp.flags 2 = false

/-- A tile stands admitted in a slot, at a hop of the station with an operation that the test takes, every earlier tile being beyond it (R60),
and no tile of its stream awaits its completion. -/
def HopAt (s : State) (slot seq station : Nat) (op : Nat → Bool) (st : Stream) (t : Tile) : Prop :=
  streamAt s slot = some st ∧ actingTile st seq station op = some t ∧ ∀ x ∈ st.tiles, x.doneTick = none

/-- The hop's work on a tile is done, and the tile waits to move on, or for its frames to leave. -/
def hopDone (s : State) (slot : Nat) (st : Stream) (t : Tile) : State :=
  putStream s slot (setTile st { t with finished := true, withheld := false, doneTick := none })

/-- The tile with what its hop hands on. -/
def handOn (t : Tile) (bs : List Byte) : Tile := { t with data := some bs, outLen := bs.length }

/-- The first element and the number of elements of an element operation's tile (R108). -/
def TileAt (o : Ocr) (t : Tile) (e n : Nat) : Prop :=
  refForm t.desc.src = 0 ∧ t.desc.src = o.snap + 2 * e ∧ t.desc.len = 2 * n ∧ e + n ≤ o.elems

/-- A structure of n bytes that the hardware writes at a local address lies at key k, in a region that it may write (R158). -/
def PlacedAt (s : State) (a n k : Nat) : Prop := kindOpen s 0 a = true ∧ resolve s a n = some k

/-- A hop may read, or write, n bytes at a local address (R160, R161), which lie at key k. -/
def Reach (s : State) (c : Access) (wr : Bool) (a n k : Nat) : Prop :=
  checkAccess s (regionsAt s c.table) c.gate c.station wr c.member false a n = .ok k

/-- No word of storage holds an error, and no source is under test (R163, R165). -/
def Sound (s : State) : Prop := s.store.ecc = [] ∧ s.flt.srcs = []

/-- The mailbox command in MBX_CMD has completed (R404, R405): MBX_STAT shows its code and the length of its response, MBX_DATA holds
the response, MBX_DONE counts it, and BLK_EVT.DONE is set. -/
def MbxAnswered (s u : State) (code : Nat) (resp : List Byte) : Prop :=
  regN u R.MBX_STAT = code * 16 + resp.length * 65536 ∧ mbxPayload u resp.length = resp ∧
  regN u R.MBX_DONE = (regN s R.MBX_DONE + 1) % 2 ^ 32 ∧ flag u (hdr pgMBX oEVT) 0 = true

end Sys2Proof.Safety
end

