-- ==== Sys2Proof/Certificates/Slice0/Obligations.lean ====
section
/-!
DEFINITION. The statements for the provers. Each says what one rule of the spec asks of the commands that carry it out, or what
the machine keeps. `Effect c s u` says that command c answers a next state whose own effect is u (Safety.lean); a frame is written as
an equation u = { s with … } that names every part of the state that may differ, and, for registers, every one that may differ.
-/
open Sys2Proof Sys2Proof.Machine Sys2Proof.Safety

/-! ### The machine -/

/-- The command at the front of the queue is the one that runs, with the queue's rest. On an empty queue the block idles (the model's choice: log entry 1). -/
def Obligations.StepRunsTheFront : Prop :=
  (∀ (c : Instr) (s : State), step { s with pending := c :: s.pending } = exec c s) ∧
  (∀ s : State, s.pending = [] → step s = .next s)

/-- Every command answers a next state in every state, and leaves the queue's rest as it was: nothing stops the machine. What follows a command where nothing
waits (a calm state): only the outputs, recomputed, and the queue. -/
def Obligations.CommandsNeverStop : Prop :=
  (∀ (c : Instr) (s : State), ∃ t, exec c s = .next t ∧ t.pending = s.pending) ∧
  (∀ (q : List Instr) (u : State), calm u = true →
     finish q u = { u with faultN := faultNOf u, coreLine := coreLinesOf u, pending := q })

/-- An invariant of every step: the open-drain pin FAULT_N and the eight interrupt lines of the control cores show what the state says (R376, R384, R440),
from any state in which they do, whatever the command. -/
def Obligations.OutputsStayTrue : Prop :=
  ∀ s t : State, OutputsAgree s → step s = .next t → OutputsAgree t

/-- What reset leaves where the spec gives a value: the registers listed, at the pages' first instances, start-up at step 3 in P0 with nothing halted, the
gate closed, no job, no stream, and the time's increment 10/7 ns. The outputs show the state right after reset. -/
def Obligations.ResetState : Prop :=
  (let s := State.reset
   (∀ p ∈ [(R.FLD_CLUSTERS, 10280), (R.STN_BIND_F0, 10240), (R.ARITH_REV, 4259841), (R.CODEC_LD_TMO, 2500), (R.HBM_SCRUB_CFG, 24), (R.POOL_HOME, 24), (R.POOL_P0_MIB, 40), (R.POOL_RES_HANDLE, 4294967295),
       (R.SW_CELL_RSV, 8192), (R.SW_XOFF, 16384), (R.SW_XON, 24576), (R.SCHED_FAB_UDP, 47000)], regN s p.1 = p.2) ∧
   (∀ p ∈ [(R.COLL_RQ_CFG, 6), (R.COLL_CHK_TMO, 12500), (R.COLL_REPLAY_MAX, 3), (R.LDLV_CFG, 4), (R.LCIPH_REKEY_S, 300), (R.LCIPH_CLEAR_OK, 255), (R.HLT_STAT, 1000), (R.HLT_EXP_INT, 75000000), (R.HLT_HOIST_RATE, 200000),
       (R.TIME_INCR_FRAC, 1840700270), (R.TIME_INCR_NS, 1), (R.TIME_STAT, 3840), (R.TIME_HOLD_MAX, 60), (R.FLT_LOG_CFG, 20), (R.GLB_STEP, 16944), (R.PWR_THM_CFG, 7230303), (R.PWR_LIMIT, 1800)], regN s p.1 = p.2) ∧
   (∀ i, i < 4096 → regN s (keyB R.FLT_QUIET i) = 12500) ∧ (∀ i, i < 1024 → regN s (keyB R.IRQ_SRC_STUCK i) = 12500) ∧
   s.tick.incr = 6135667566 ∧ stepNow s = 3 ∧ s.pwr.state = 0 ∧ s.pwr.halted = false ∧ gateOpen s = false ∧ linkUp s = false ∧ s.job.held = false ∧ (∀ i, streamAt s i = none) ∧ s.stn.armed = none ∧
   ocuState s 0 = ocABSENT ∧ ocuState s 1 = ocABSENT ∧ s.faultN = false ∧ s.coreLine = List.replicate 8 false ∧ s.pending = []) ∧
  (OutputsAgree State.reset)

/-- Without power nothing happens: in P3 every command but the return of power and the level of PERST_N leaves the whole state as it was (R431). While
PERST_N is asserted the package takes no command: time, the pin itself, power, the wires' and the wake inputs' levels and start-up's clock apart, every
command leaves the whole state as it was (R411). -/
def Obligations.HeldOrUnpowered : Prop :=
  (∀ (c : Instr) (s : State), s.pwr.state = 3 → c ≠ .powerOn → c ≠ .powerOff → c ≠ .perstN → c ≠ .perstNRelease →
     exec c s = .next s) ∧
  (∀ (c : Instr) (s : State), s.host.perst = true →
     (∀ e, c ≠ .tickBoundary e) → c ≠ .perstN → c ≠ .perstNRelease → c ≠ .powerOn → c ≠ .powerOff →
     (∀ b x, c ≠ .wireAssert b x) → (∀ l a, c ≠ .wakeInput l a) → (∀ m o cl r, c ≠ .startupStepEnd m o cl r) →
     exec c s = .next s)

/-- The unprivileged window writes three registers only (R396): every other write through BAR0 leaves the whole state as it was. The reads, which latch or
return a value, and the steps of the clock, before which cycles of the tick pass, are the commands left out. -/
def Obligations.Bar0WritesNothingElse : Prop :=
  ∀ (c : Instr) (s : State), c.window = some .bar0 → calm s = true → OutputsAgree s →
    (∀ v, c ≠ .strmDb .bar0 v) → (∀ v, c ≠ .cringHeadWrite .bar0 v) → (∀ v, c ≠ .irqDb .bar0 v) →
    c ≠ .tickNowLoRead .bar0 → (∀ e, c ≠ .timeNowNsRead .bar0 e) → (∀ m r, c ≠ .lfrmSeqLoRead .bar0 m r) →
    (∀ p o, c ≠ .readClear .bar0 p o) → (∀ p o n v, c ≠ .registerWrite .bar0 p o n v) →
    (∀ e, c ≠ .setTime .bar0 e) → (∀ e, c ≠ .timeAdd .bar0 e) →
    exec c s = .next s

/-! ### Registers, windows and the common header -/

/-- R408, the gate's rule for BAR2. A register is written through BAR2 only where the window sees it, its page is not locked (BLK_CTRL, BLK_EVT and
BLK_EVT_EN apart), and the gate is open or the page is MAILBOX's, whose registers are written whether or not it is. With the gate closed SERVE_BEGIN and
SERVE_END for target 8 still act, and every other write command through BAR2 leaves the whole state as it was (IRQ_DB counts a stray, the general
REGISTER_WRITE follows the first clause, reads and the steps of the clock, before which cycles of the tick pass, are no writes of their own). The opcodes
marked "gate" are refused in the mailbox. -/
def Obligations.GateRule : Prop :=
  (∀ (s : State) (k : Nat), k < bankBase →
    (mayWrite s .bar2 k = true ↔ ∃ r, regRow k = some r ∧ r.win ≠ .core ∧ (gateOpen s = true ∨ pageOf k = 0x89) ∧
      (pageLocked s (pageOf k) = false ∨ k % 0x1000 = oCTRL ∨ k % 0x1000 = oEVT ∨ k % 0x1000 = oEVTEN))) ∧
  (∀ (c : Instr) (s : State), c.window = some .bar2 → gateOpen s = false → calm s = true → OutputsAgree s →
    (∀ v, c ≠ .irqDb .bar2 v) → (∀ v, c ≠ .serveBegin .bar2 v) → (∀ v, c ≠ .serveEnd .bar2 v) →
    c ≠ .tickNowLoRead .bar2 → (∀ e, c ≠ .timeNowNsRead .bar2 e) → (∀ m r, c ≠ .lfrmSeqLoRead .bar2 m r) →
    (∀ p o, c ≠ .readClear .bar2 p o) → (∀ p o n v, c ≠ .registerWrite .bar2 p o n v) →
    (∀ e, c ≠ .setTime .bar2 e) → (∀ e, c ≠ .timeAdd .bar2 e) →
    c ≠ .enable .bar2 0x89 → c ≠ .drain .bar2 0x89 → c ≠ .blockReset .bar2 0x89 → c ≠ .selftest .bar2 0x89 →
    (∀ v, c ≠ .blkLockWrite .bar2 0x89 v) →
    exec c s = .next s) ∧
  (∀ (v : Word) (s : State), live s = true → gateOpen s = false → pageLocked s 0x80 = false → bitsOf v.toNat 15 12 = 8 →
    let src := bitsOf v.toNat 9 0
    ((irqStack s 8).length < 16 → irqTarget s src = 8 → ∃ u, Effect (.serveBegin .bar2 v) s u ∧ irqStack u 8 = (src, irqPrio s src) :: irqStack s 8 ∧ pendAt u 8 src = false ∧
      regN u (keyB R.IRQ_SERVE_CNT 8) = fld s (keyB R.IRQ_SRC_CNT src) 7 0 + src * 65536 ∧ regN u (keyB R.IRQ_SRC_CNT src) = 0) ∧
    (∀ p rest, irqStack s 8 = (src, p) :: rest → ∃ u, Effect (.serveEnd .bar2 v) s u ∧ irqStack u 8 = rest)) ∧
  (∀ (c : Instr) (len : BitVec 12) (s : State), live s = true → mbxOpen s = true → gateOpen s = false →
    c = .jobCreate len ∨ c = .jobEnd len ∨ c = .timeStep len ∨ c = .fwStage len →
    ∃ u, Effect c s u ∧ MbxAnswered s u cPOLICY [] ∧ RegsKept s u [] [0x80, 0x89] ∧ u = { s with regs := u.regs, irq := u.irq, sent := u.sent })

/-- The three reads that latch: the low word is returned, and the rest of the value goes into the latch of the window that reads, so that a read of the high
word belongs to the same moment (R43, R241, R352). Cycles of the tick may pass before the read of the time. A register read through the privileged window
returns what the register shows and clears its read-and-clear counters, through another window it clears nothing (R14). The registers that latch are the
reads stated apart, and POOL_SEG_LOW, which restarts at FREE, is left out. -/
def Obligations.RegisterReads : Prop :=
  ((∀ (w : Win) (s : State), live s = true → ∃ u, Effect (.tickNowLoRead w) s u ∧
     u.lastRead = BitVec.ofNat 32 s.tick.now ∧ regN u (keyB R.TICK_NOW_HI (winBank w)) = s.tick.now / 2 ^ 32 % 2 ^ 32 ∧
     RegsKept s u [keyB R.TICK_NOW_HI (winBank w)] [] ∧ u = { s with regs := u.regs, lastRead := u.lastRead }) ∧
   (∀ (w : Win) (e : Nat) (s : State), live s = true → ∃ u a, a = elapse s e ∧ Effect (.timeNowNsRead w e) s u ∧
     u.lastRead = BitVec.ofNat 32 (nsOf a.tick.counter) ∧
     regN u (keyB R.TIME_NOW_SUB (winBank w)) = subOf a.tick.counter % 2 ^ 32 ∧
     regN u (keyB R.TIME_NOW_SEC_LO (winBank w)) = secOf a.tick.counter % 2 ^ 32 ∧
     regN u (keyB R.TIME_NOW_SEC_HI (winBank w)) = secOf a.tick.counter / 2 ^ 32 % 2 ^ 32 ∧
     RegsKept a u [keyB R.TIME_NOW_SUB (winBank w), keyB R.TIME_NOW_SEC_LO (winBank w), keyB R.TIME_NOW_SEC_HI (winBank w)] [] ∧
     u = { a with regs := u.regs, lastRead := u.lastRead }) ∧
   (∀ (w : Win) (md : Fin 2) (rx : Bool) (s : State), live s = true →
     let q := if rx then (lineMod s md.val).rxSeq else (lineMod s md.val).seq
     let k := keyB (lf (if rx then R.LFRM_SEQ_RX_HI else R.LFRM_SEQ_TX_HI) md.val) (winBank w)
     ∃ u, Effect (.lfrmSeqLoRead w md rx) s u ∧ u.lastRead = BitVec.ofNat 32 q ∧ regN u k = q / 2 ^ 32 % 2 ^ 16 ∧
       RegsKept s u [k] [] ∧ u = { s with regs := u.regs, lastRead := u.lastRead })) ∧
  (∀ (w : Win) (page off : BitVec 12) (s : State), live s = true → off.toNat % 4 = 0 → pageExists page.toNat = true →
     let k := page.toNat * 0x1000 + off.toNat
     let key := keyB k (bankSel s w k)
     k ≠ R.TICK_NOW_LO → k ≠ R.TIME_NOW_NS → k ≠ R.POOL_SEG_LOW →
     (∀ md, k ≠ lf R.LFRM_SEQ_TX_LO md ∧ k ≠ lf R.LFRM_SEQ_RX_LO md) →
     ∃ u, Effect (.readClear w page off) s u ∧ u.lastRead = (if seenBy w key then showReg s key else 0) ∧
       getR u key = (if w = .bar2 ∧ seenBy w key = true then getR s key &&& ~~~BitVec.ofNat 32 (rcMask key) else getR s key) ∧
       RegsKept s u [key] [] ∧ u = { s with regs := u.regs, lastRead := u.lastRead })

/-- A 32-bit write of the event and event enable registers of a page (R400): a bit of BLK_EVT written 1 clears, a bit written 0 stays (W1C, R14); BLK_EVT_EN
takes the value written. Neither BLK_LOCK nor the state of the block stops them; a window that may not write the page changes nothing. A write at an offset
that is no multiple of 4 changes nothing, and a narrow write through a BAR is counted in CXL_NARROW and changes nothing else (R396; that the counter of
narrow writes counts misaligned ones is no part of this). Which writes reach a register (R396, R397, R400, R408): a control core's reach every register there
is; BAR0 reaches none but by the commands of its own; BAR2 reaches a register that is not the cores' own only while PRIV_GATE is open, or on the MAILBOX page
whether or not it is, and, on a page whose BLK_LOCK is set, only BLK_CTRL, BLK_EVT and BLK_EVT_EN. -/
def Obligations.RegisterWrites : Prop :=
  (∀ (w : Win) (page off : BitVec 12) (v : DWord) (s : State), live s = true → pageExists page.toNat = true →
     (let k := hdr page.toNat oEVT
      ∃ u, Effect (.registerWrite w page (BitVec.ofNat 12 oEVT) 4 v) s u ∧
        getR u k = (if mayWrite s w k = true then getR s k &&& ~~~(BitVec.ofNat 32 v.toNat) else getR s k) ∧
        RegsKept s u [k] [] ∧ u = { s with regs := u.regs }) ∧
     (let k := hdr page.toNat oEVTEN
      ∃ u, Effect (.registerWrite w page (BitVec.ofNat 12 oEVTEN) 4 v) s u ∧
        getR u k = (if mayWrite s w k = true then BitVec.ofNat 32 v.toNat else getR s k) ∧
        RegsKept s u [k] [] ∧ u = { s with regs := u.regs }) ∧
     (off.toNat % 4 ≠ 0 → Effect (.registerWrite w page off 4 v) s s) ∧
     (∀ n, n = 1 ∨ n = 2 → w ≠ .core → off.toNat % 4 = 0 → ∃ u, Effect (.registerWrite w page off n v) s u ∧
       regN u R.CXL_NARROW = min 0xFFFFFFFF (regN s R.CXL_NARROW + 1) ∧ RegsKept s u [R.CXL_NARROW] [] ∧ u = { s with regs := u.regs })) ∧
  (∀ (s : State) (k : Nat), k < bankBase →
     (mayWrite s .core k = true ↔ ∃ r, regRow k = some r) ∧
     mayWrite s .bar0 k = false ∧
     (mayWrite s .bar2 k = true ↔ ∃ r, regRow k = some r ∧ r.win ≠ .core ∧ (gateOpen s = true ∨ pageOf k = 0x89) ∧
       (pageLocked s (pageOf k) = false ∨ k % 0x1000 = oCTRL ∨ k % 0x1000 = oEVT ∨ k % 0x1000 = oEVTEN)))

/-- ENABLE on a page that may be written: OFF becomes STARTING, and the pool then judges its segments (R170); DRAINING and DRAINED latch PEND_EN; any other
state stays (R401; that DRAINED latches is the model's reading). The blocks that never leave RUN only show ENABLE as 1. DRAIN (R401): ignored on a page whose chapter says so; else ENABLE falls, RUN
becomes DRAINING and STARTING latches PEND_DIS. The stream table closes every slot as it begins to drain; the line framing pages, whose drain erases keys,
are stated with the keys. The end of a drain (R401): a block whose drain is complete moves from DRAINING to DRAINED; any other block stays as it is. And
BLK_LOCK: a 1 locks the page until the next full reset, a 0 changes nothing (R400). BLOCK_START_DONE (R401, R433): a block with start work of its own leaves
STARTING when that work is done, to RUN, or to DRAINING where a disable was latched. Here for the HBM pages, whose running begins with nothing else. -/
def Obligations.BlockStates : Prop :=
  (∀ (w : Win) (page : BitVec 12) (s : State), live s = true → mayWrite s w (hdr page.toNat oCTRL) = true →
     let st := blkState s page.toNat
     ∃ u, Effect (.enable w page) s u ∧ flag u (hdr page.toNat oCTRL) 0 = true ∧
       (neverLeavesRun page.toNat = false → st = bOFF → blkState u page.toNat = bSTARTING) ∧
       (neverLeavesRun page.toNat = true ∨ st ≠ bOFF → blkState u page.toNat = st) ∧
       (flag u (hdr page.toNat oSTAT) 3 = (flag s (hdr page.toNat oSTAT) 3
         || (!neverLeavesRun page.toNat && (st == bDRAINING || st == bDRAINED)))) ∧
       (page.toNat ≠ 0x48 ∨ st ≠ bOFF → RegsKept s u [hdr page.toNat oCTRL, hdr page.toNat oSTAT] [] ∧ u = { s with regs := u.regs }) ∧
       (page.toNat = 0x48 → RegsKept s u [] [0x48, 0x80] ∧ u = { s with regs := u.regs, irq := u.irq, sent := u.sent, pool := u.pool })) ∧
  (∀ (w : Win) (page : BitVec 12) (s : State), live s = true → mayWrite s w (hdr page.toNat oCTRL) = true →
     page.toNat ≠ 0x60 → page.toNat ≠ 0x61 →
     let st := blkState s page.toNat
     ∃ u, Effect (.drain w page) s u ∧ (drainIgnored s page.toNat = true → u = s) ∧
       (drainIgnored s page.toNat = false → flag u (hdr page.toNat oCTRL) 0 = false ∧
         (st = bRUN → blkState u page.toNat = bDRAINING) ∧ (st ≠ bRUN → blkState u page.toNat = st) ∧
         (st = bSTARTING → flag u (hdr page.toNat oSTAT) 4 = true) ∧
         (page.toNat = pgSTRM → st = bRUN → ∀ i, streamAt u i = (streamAt s i).map (fun x => { x with state := 2, tail := x.fetch }))) ∧
       RegsKept s u [hdr page.toNat oCTRL, hdr page.toNat oSTAT] [] ∧ u = { s with regs := u.regs, strm := u.strm } ∧
       (page.toNat ≠ pgSTRM → u.strm = s.strm)) ∧
  ((∀ (page : BitVec 12) (s : State), live s = true → ∃ u, Effect (.drainDone page) s u ∧
     (pageExists page.toNat = true ∧ blkState s page.toNat = bDRAINING ∧ drainComplete s page.toNat = true →
       blkState u page.toNat = bDRAINED) ∧
     (¬(pageExists page.toNat = true ∧ blkState s page.toNat = bDRAINING ∧ drainComplete s page.toNat = true) → u = s) ∧
     RegsKept s u [hdr page.toNat oSTAT] [] ∧ u = { s with regs := u.regs }) ∧
   (∀ (w : Win) (page : BitVec 12) (v : Word) (s : State), live s = true → ∃ u, Effect (.blkLockWrite w page v) s u ∧
     pageLocked u page.toNat = (pageLocked s page.toNat || (mayWrite s w (hdr page.toNat oLOCK) && bitOf v.toNat 0)) ∧
     RegsKept s u [hdr page.toNat oLOCK] [] ∧ u = { s with regs := u.regs })) ∧
  (∀ (page : BitVec 12) (s : State), live s = true → 0x20 ≤ page.toNat → page.toNat ≤ 0x2F → blkState s page.toNat = bSTARTING →
     ∃ u, Effect (.blockStartDone page) s u ∧
       blkState u page.toNat = (if flag s (hdr page.toNat oSTAT) 4 = true then bDRAINING else bRUN) ∧
       flag u (hdr page.toNat oSTAT) 4 = false ∧
       RegsKept s u [hdr page.toNat oSTAT] [] ∧ u = { s with regs := u.regs })

/-- SELFTEST (R402): in OFF and DRAINED only, it shows RUNNING on a page that has a known-answer test and PASS at once on one that has none; and a test that
ends with nothing failing shows PASS. BLOCK_RESET (R402): ignored in a state in which it may not be written. Where a page's chapter says so it clears the
page's events and counters, in every bank, and changes neither the block's state nor ENABLE; on the others it leaves the block OFF with ENABLE = 0, and, the
request ring's page apart, its block-specific registers and BLK_EVT_EN at their reset values, but the count of the pages retired since the last full
reset, which stands (R13). -/
def Obligations.TestsAndBlockResets : Prop :=
  ((∀ (w : Win) (page : BitVec 12) (s : State), live s = true → mayWrite s w (hdr page.toNat oCTRL) = true →
     let k := hdr page.toNat oSTAT
     let ok := blkState s page.toNat = bOFF ∨ blkState s page.toNat = bDRAINED
     ∃ u, Effect (.selftest w page) s u ∧ (ok → fld u k 6 5 = if hasKat page.toNat = true then 1 else 2) ∧
       (¬ok → u = s) ∧ blkState u page.toNat = blkState s page.toNat ∧ RegsKept s u [k] [] ∧ u = { s with regs := u.regs }) ∧
   (∀ (page : BitVec 12) (s : State), live s = true → fld s (hdr page.toNat oSTAT) 6 5 = 1 →
     ∃ u, Effect (.selftestDone page []) s u ∧ fld u (hdr page.toNat oSTAT) 6 5 = 2 ∧
       RegsKept s u [hdr page.toNat oSTAT] [] ∧ u = { s with regs := u.regs })) ∧
  (∀ (w : Win) (page : BitVec 12) (s : State), live s = true → mayWrite s w (hdr page.toNat oCTRL) = true →
     (resetAllowed s page.toNat = false → Effect (.blockReset w page) s s) ∧
     (resetAllowed s page.toNat = true → ∃ u, Effect (.blockReset w page) s u ∧
       (countersOnly page.toNat = true →
         (∀ k, pageOf k = page.toNat → k ≠ hdr page.toNat oEVT → getR u k = getR s k &&& ~~~BitVec.ofNat 32 (rcMask k)) ∧
         getR u (hdr page.toNat oEVT) = 0 ∧ RegsKept s u [] [page.toNat] ∧ u = { s with regs := u.regs }) ∧
       (countersOnly page.toNat = false → blkState u page.toNat = bOFF ∧ flag u (hdr page.toNat oCTRL) 0 = false ∧
         (page.toNat ≠ pgCOLL → ∀ k, pageOf k = page.toNat → clearable (k % 0x1000) = true →
           (standing k = false → regN u k = resetOf k % 2 ^ 32) ∧ (standing k = true → getR u k = getR s k &&& ~~~BitVec.ofNat 32 (rcMask k))))))

/-! ### The tick, the time counter and PTP -/

/-- A new increment (R353): committed from the control cores by the write of TIME_INCR_NS after TIME_INCR_FRAC, and in force at once for both counters, when
it lies within 200 ppm of 10/7 ns; else the increment in force stays and BLK_EVT.INCR_REFUSED is set. Another window's write changes nothing. A step of the
time (R42, R354) written by a control core, after e cycles of the tick. SET takes the seconds and nanoseconds given and clears the fraction; ADD adds signed
ones. Where the result lies before the epoch or beyond the counter's span (or, for SET, has nanoseconds beyond 999,999,999, by the model's reading) the
counter stays and CFG_REFUSED is set. Else both counters take it, the step is counted and sets STEPPED; where it reaches no boundary beyond the tick's, the
tick keeps its number, and a backward step holds it. A boundary (R40, R42): the counter runs to its first value at or beyond the next multiple of 8
microseconds not yet emitted, both counters by the same whole number of increments, and the boundary of the next tick is taken there. In P2 only the
always-on domain takes it, and the tick counts on (R431): the tick's number grows by one, a hold ends, and nothing else of time changes. -/
def Obligations.TimeCounter : Prop :=
  (∀ (w : Win) (v : Word) (s : State), live s = true →
     let x := v.toNat * 2 ^ 32 + regN s R.TIME_INCR_FRAC
     let ok := x * 1000000 ≤ 6135667566 * 1000200 ∧ 6135667566 * 999800 ≤ x * 1000000
     (w ≠ .core → Effect (.timeIncrNsWrite w v) s s) ∧
     (w = .core → ok → ∃ u, Effect (.timeIncrNsWrite w v) s u ∧ u.tick.incr = x ∧ regN u R.TIME_INCR_NS = v.toNat ∧
       RegsKept s u [R.TIME_INCR_NS] [] ∧ u = { s with regs := u.regs, tick := { s.tick with incr := x } }) ∧
     (w = .core → ¬ok → ∃ u, Effect (.timeIncrNsWrite w v) s u ∧ flag u (hdr 0x78 oEVT) 0 = true ∧
       RegsKept s u ([R.TIME_INCR_FRAC, R.TIME_INCR_NS] ++ evtKeys 0x78) [0x80] ∧
       u = { s with regs := u.regs, irq := u.irq, sent := u.sent })) ∧
  (∀ (c : Instr) (e : Nat) (s : State), live s = true → c = .setTime .core e ∨ c = .timeAdd .core e →
     let a := elapse s e
     let t : Int := if c = .setTime .core e then ((reg64 a R.TIME_ADJ_SEC_LO R.TIME_ADJ_SEC_HI * 1000000000 + regN a R.TIME_ADJ_NS : Nat) : Int) * 4294967296
       else a.tick.counter + (signedOf 64 (reg64 a R.TIME_ADJ_SEC_LO R.TIME_ADJ_SEC_HI) * 1000000000 + signedOf 32 (regN a R.TIME_ADJ_NS)) * 4294967296
     let bad := if c = .setTime .core e then 999999999 < regN a R.TIME_ADJ_NS else t < 0 ∨ (timeSpan : Int) ≤ t
     (bad → ∃ u, Effect c s u ∧ flag u (hdr 0x78 oEVT) 5 = true ∧ RegsKept a u (evtKeys 0x78) [0x80] ∧
       u = { a with regs := u.regs, irq := u.irq, sent := u.sent }) ∧
     (¬bad → t.toNat / 34359738368000 ≤ a.tick.now → ∃ u, Effect c s u ∧
       u.tick = { a.tick with counter := t.toNat, follower := t.toNat, held := (a.tick.held || decide (t.toNat < a.tick.counter)) } ∧
       regN u R.TIME_STEPS = min 0xFFFFFFFF (regN a R.TIME_STEPS + 1) ∧ flag u (hdr 0x78 oEVT) 1 = true ∧
       RegsKept a u ([R.TIME_STEPS] ++ evtKeys 0x78 ++ evtKeys 0x01) [0x60, 0x61, 0x80] ∧
       u = { a with regs := u.regs, irq := u.irq, sent := u.sent, tick := u.tick, time := u.time, line := u.line })) ∧
  (∀ (env : TickEnv) (s : State), ticking s = true → inRun s 0x01 = true → 0 < s.tick.incr →
     s.tick.counter < (s.tick.now + 1) * 34359738368000 → (s.tick.now + 1) * 34359738368000 + s.tick.incr ≤ timeSpan →
     ∃ a n, Effect (.tickBoundary env) s (boundary a (s.tick.now + 1) env) ∧
       a.tick.counter = s.tick.counter + n * s.tick.incr ∧ a.tick.follower = (s.tick.follower + n * s.tick.incr) % timeSpan ∧
       (s.tick.now + 1) * 34359738368000 ≤ a.tick.counter ∧ a.tick.counter < (s.tick.now + 1) * 34359738368000 + s.tick.incr ∧
       a.mem = s.mem ∧ a.store = s.store ∧ a.strm = s.strm ∧ a.coll = s.coll ∧ a.line = s.line ∧ a.site = s.site ∧
       (s.pwr.state = 2 → (boundary a (s.tick.now + 1) env).tick =
         { a.tick with now := (s.tick.now + 1) % 0x10000000000000000, held := false }))

/-- PTP's own work (R356, R358, R360, R364). A Sync that is stamped on a port that faces its path leaves its sequence and the time of its arrival less the
correction it carries; a Delay_Req on a MASTER port is answered with the time of its arrival; a message of another domain or version is discarded and
counted. At the Announce interval a MASTER port sends an Announce under the next sequence number. -/
def Obligations.PtpMessages : Prop :=
  (∀ (p : Fin 12) (b : List Byte) (s : State), live s = true → 34 ≤ b.length → ptpFaces s p.val true = true → stampLost s p.val = false →
    beAt b 1 1 % 16 = 2 → beAt b 4 1 = fld s R.TIME_PTP_CFG 6 0 →
    (beAt b 0 1 % 16 = 0 → bitOf (beAt b 6 1) 1 = true → ∃ u, Effect (.ptpMessage p b true) s u ∧
      (ptpPort u p.val).sync = some (beAt b 30 2, stampNow s p.val true - ptpCorr b) ∧
      (∀ q, q ≠ p.val → ptpPort u q = ptpPort s q) ∧ u = { s with time := { s.time with ports := u.time.ports } }) ∧
    (beAt b 0 1 % 16 = 1 → ptpState s p.val = 6 → ∃ u, Effect (.ptpMessage p b true) s u ∧
      u = sendPtp s p.val 9 (beAt b 30 2) (stampNow s p.val true - ptpCorr b) (sliceBytes b 20 10))) ∧
  (∀ (p : Fin 12) (b : List Byte) (x : Bool) (s : State), live s = true → beAt b 1 1 % 16 ≠ 2 ∨ beAt b 4 1 ≠ fld s R.TIME_PTP_CFG 6 0 →
    ∃ u, Effect (.ptpMessage p b x) s u ∧ regN u R.TIME_PTP_BAD = min 0xFFFFFFFF (regN s R.TIME_PTP_BAD + 1) ∧
      RegsKept s u [R.TIME_PTP_BAD] [] ∧ u = { s with regs := u.regs }) ∧
  (∀ (p : Fin 12) (s : State), live s = true → ptpFaces s p.val false = true → ptpState s p.val = 6 →
    ∃ u, Effect (.syncInterval p 2) s u ∧
      nthD 0 (ptpPort u p.val).seqs 2 = (nthD 0 (ptpPort s p.val).seqs 2 + 1) % 65536 ∧
      u.sent = s.sent ++ [Out.message .ptp (if p.val < 4 then p.val else 4 + (p.val - 4) / 4) p.val 0
        [11, fld s R.TIME_PTP_CFG 6 0, nthD 0 (ptpPort s p.val).seqs 2, 0, 0] []] ∧
      (∀ q, q ≠ p.val → ptpPort u q = ptpPort s q) ∧ u = { s with sent := u.sent, time := { s.time with ports := u.time.ports } })

/-- The SLAVE port whose Announce messages stop (R362): its announce is forgotten, the best of the other ports is chosen, and holdover begins, counted from
the present tick. After a path step, holdover's freeze ends with the exchanges counted anew (R362). When holdover has lasted longer than TIME_HOLD_MAX,
LOCKED is cleared in both registers that show it, TIME_UNLOCK is raised, and WIDE is set for both modules (R361, R365). A timed pulse (R366): armed by EN
with limits that hold, its next edge is START; refused, CFG_REFUSED is set and nothing is armed; written 0 it fires no further edge. Its edge fires at the
first cycle at which the counter is at or beyond it, and the output then stays high for WIDTH. -/
def Obligations.HoldoverAndPulses : Prop :=
  ((∀ s : State, live s = true → slavePort s ≠ 15 → announceLives s (slavePort s) = false →
     let p := slavePort s
     let a := putPtp s p { ptpPort s p with announce := none }
     ∃ u, Effect .announceTimeout s u ∧ (ptpPort u p).announce = none ∧ slavePort u = (bestPort a).getD 15 ∧
       flag u R.TIME_STAT 1 = true ∧ u.time.holdFrom = some s.tick.now ∧ u.time.exchanges = 0 ∧
       u = { s with regs := u.regs, irq := u.irq, sent := u.sent, time := u.time }) ∧
   (∀ (s : State) (t : Nat), live s = true → s.time.freezeTo = some t →
     (t ≤ s.tick.now → Effect .holdoverEnd s { s with time := { s.time with freezeTo := none, exchanges := 0 } }) ∧
     (s.tick.now < t → Effect .holdoverEnd s s)) ∧
   (∀ (s : State) (t : Nat), live s = true → s.store.ecc = [] → s.time.holdFrom = some t → flag s R.TIME_STAT 0 = true →
     t + fld s R.TIME_HOLD_MAX 7 0 * 125000 < s.tick.now →
     ∃ u, Effect .holdMaxExpire s u ∧ flag u R.TIME_STAT 0 = false ∧ flag u R.TICK_STAT 0 = false ∧ inFault u 0x78 = true ∧
       flag u (keyB R.OCU_STEER_CFG 0) 0 = true ∧ flag u (keyB R.OCU_STEER_CFG 1) 0 = true ∧
       RegsKept s u ([R.TIME_STAT, R.TICK_STAT, keyB R.OCU_STEER_CFG 0, keyB R.OCU_STEER_CFG 1] ++ evtKeys 0x78) [0x80, 0x81])) ∧
  ((∀ (w : Win) (v : Word) (s : State), live s = true → mayWrite s w R.TIME_P_CFG = true →
     let p := fld s R.TIME_PIDX 1 0
     let k := keyB R.TIME_P_CFG p
     let width := regN s (keyB R.TIME_P_WIDTH p)
     let period := regN s (keyB R.TIME_P_PERIOD p)
     let ok := 10 ≤ width ∧ (period = 0 ∨ (100 ≤ period ∧ width + 10 ≤ period))
     (bitOf v.toNat 0 = true → flag s k 0 = false → ok → ∃ u, Effect (.timePCfgWrite w v) s u ∧ flag u k 0 = true ∧
       (nthD {} u.time.pulses p).next = some (pulseStart s p) ∧ RegsKept s u [k] [] ∧
       u = { s with regs := u.regs, time := { s.time with pulses := u.time.pulses } }) ∧
     (bitOf v.toNat 0 = true → flag s k 0 = false → ¬ok → ∃ u, Effect (.timePCfgWrite w v) s u ∧ flag u (hdr 0x78 oEVT) 5 = true ∧
       RegsKept s u (evtKeys 0x78) [0x80] ∧ u = { s with regs := u.regs, irq := u.irq, sent := u.sent }) ∧
     (bitOf v.toNat 0 = false → ∃ u, Effect (.timePCfgWrite w v) s u ∧ flag u k 0 = false ∧ (nthD {} u.time.pulses p).next = none ∧
       RegsKept s u [k] [] ∧ u = { s with regs := u.regs, time := { s.time with pulses := u.time.pulses } })) ∧
   (∀ (p : Fin 4) (s : State) (t : Nat), live s = true → inRun s 0x01 = true → 0 < s.tick.incr → s.tick.held = false → (nthD {} s.time.pulses p.val).next = some t →
     let k := max 1 (cyclesTo s.tick.counter t s.tick.incr)
     k < cyclesToBoundary s → s.tick.counter + k * s.tick.incr < timeSpan →
     ∃ u, Effect (.pulseEdge p) s u ∧ u.tick = { s.tick with counter := s.tick.counter + k * s.tick.incr, follower := (s.tick.follower + k * s.tick.incr) % timeSpan } ∧
       (nthD {} u.time.pulses p.val).last = some t ∧
       (nthD {} u.time.pulses p.val).fall = some (s.tick.counter + k * s.tick.incr + regN s (keyB R.TIME_P_WIDTH p.val) * 4294967296)))

/-! ### Faults and interrupts -/

/-- A record of hardware or of Mirder (R370 to R376). The kinds 0x40 to 0x49 are Mirder's, submitted by FLT_RAISE with a severity of their own; the others of
the table are hardware's, of the table's severity; the source is a page of the index or a wire. The source is then in the fault state, its summary shows the
last record's kind and severity, FLT_COUNT counts it, and BLK_EVT.RECORD is set. The record's 16 bytes go to the log at the tail, which advances, unless the
tick has met its source and kind already, the ring is full, or the block is not in RUN with its ring placed; then no byte of memory changes. No error of
storage is listed in these states. -/
def Obligations.FaultRecords : Prop :=
  ∀ (c : Instr) (src sev kind ctx addr : Nat) (s a : State), live s = true → s.store.ecc = [] → srcExists src = true →
    (∃ (x : BitVec 12) (k : Byte) (y : Byte) (d : BitVec 48), c = .faultRecord x k y d ∧ src = x.toNat ∧ kind = k.toNat ∧ ctx = y.toNat ∧
        addr = d.toNat ∧ sev = kindSev kind ∧ sev ≠ 0 ∧ ¬(0x40 ≤ kind ∧ kind ≤ 0x49) ∧ a = s) ∨
      (∃ (v : Word), c = .fltRaise3Write .core v ∧ src = fld s R.FLT_RAISE0 11 0 ∧ sev = fld s R.FLT_RAISE0 15 12 ∧
        kind = fld s R.FLT_RAISE0 23 16 ∧ ctx = fld s R.FLT_RAISE0 31 24 ∧ addr = fld s R.FLT_RAISE2 31 16 + v.toNat * 65536 ∧
        1 ≤ sev ∧ sev ≤ 4 ∧ 0x40 ≤ kind ∧ kind ≤ 0x49 ∧ a = setR s R.FLT_RAISE3 (BitVec.ofNat 32 v.toNat)) →
    let size := 2 ^ fld s R.FLT_LOG_CFG 4 0
    let tail := regN s R.FLT_LOG_TAIL % size
    ∃ u, Effect c s u ∧ inFault u src = true ∧ fld u (fltSum src) 11 4 = kind ∧ fld u (fltSum src) 15 12 = sev ∧
      regN u (keyB R.FLT_COUNT src) = min 0xFFFFFFFF (regN s (keyB R.FLT_COUNT src) + 1) ∧ flag u (hdr 0x81 oEVT) 0 = true ∧
      (∀ ring, s.flt.met.contains (src, kind) = false → (tail + 1) % size ≠ regN s R.FLT_LOG_HEAD % size → inRun s 0x81 = true →
        logRing s = some ring → regN u R.FLT_LOG_TAIL = (tail + 1) % size ∧ MemKeptBut s u (ring + 16 * tail) 16 ∧
          ∀ i, i < 16 → memByte u.mem (ring + 16 * tail + i) = nthD 0 (recordBytes src sev kind ctx s.tick.now addr) i) ∧
      (s.flt.met.contains (src, kind) = true ∨ (tail + 1) % size = regN s R.FLT_LOG_HEAD % size ∨ inRun s 0x81 = false ∨ logRing s = none →
        u.mem = s.mem) ∧
      RegsKept a u [] [0x80, 0x81] ∧
      u = { a with regs := u.regs, irq := u.irq, sent := u.sent, flt := u.flt, mem := u.mem, store := u.store, hlth := u.hlth }

/-- The wire word (R374, R297, R398). A wire that asserts shows in FLT_WIRE_RAW; its latch, when clear, sets and its source enters the fault state; the
alarms of bits 17 to 20 close PRIV_GATE whatever the reaction. While PERST_N is asserted only the level is kept (the model's reading). A write of FLT_WIRE
clears the latches named in it whose wires no longer assert, and no other; an alarm of bits 17 to 20 named in it whose wire still asserts sets again, which
erases every line key and SEAL key and closes the gate again. The end of a source's test and of its quiet period (R379, R380). A test that
passes classes the error transient. A source leaves the fault state when its quiet period has passed since its last record and no test of it runs: its
recovery counter counts, it no longer holds FAULT_N, and its block, if put in FAULT, goes to STARTING with ENABLE set (the pool then judges its segments)
and to OFF without; else nothing happens. -/
def Obligations.WiresAndRecovery : Prop :=
  ((∀ (b : Fin 21) (x : Byte) (s : State), s.pwr.state ≤ 1 → s.store.ecc = [] → s.host.perst = false → ∃ u, Effect (.wireAssert b x) s u ∧
     flag u R.FLT_WIRE_RAW b.val = true ∧ flag u R.FLT_WIRE b.val = true ∧
     (flag s R.FLT_WIRE b.val = false → inFault u (0xF00 + b.val) = true ∧ fld u (fltSum (0xF00 + b.val)) 11 4 = wireKind b.val ∧
       fld u (fltSum (0xF00 + b.val)) 15 12 = 4) ∧
     (17 ≤ b.val → gateOpen u = false) ∧
     (b.val < 17 → b.val ≠ 14 → RegsKept s u [] [0x80, 0x81])) ∧
   (∀ (b : Fin 21) (x : Byte) (s : State), s.pwr.state ≤ 1 → s.host.perst = true → ∃ u, Effect (.wireAssert b x) s u ∧
     flag u R.FLT_WIRE_RAW b.val = true ∧ RegsKept s u [R.FLT_WIRE_RAW] [] ∧ u = { s with regs := u.regs }) ∧
   (∀ (w : Win) (v : Word) (s : State), live s = true → s.store.ecc = [] → ∃ u, Effect (.fltWireWrite w v) s u ∧
     (∀ b, b < 21 → flag u R.FLT_WIRE b =
       (flag s R.FLT_WIRE b && (!(mayWrite s w R.FLT_WIRE && bitOf v.toNat b) || flag s R.FLT_WIRE_RAW b))) ∧
     (let again := fun b : Nat => mayWrite s w R.FLT_WIRE = true ∧ 17 ≤ b ∧ b < 21 ∧ bitOf v.toNat b = true ∧ flag s R.FLT_WIRE b = true ∧ flag s R.FLT_WIRE_RAW b = true
      ((∃ b, again b) → gateOpen u = false ∧ u.ciph.keys = [] ∧ u.ciph.seals = []) ∧
      ((∀ b, ¬again b) → RegsKept s u [] [0x80, 0x81])))) ∧
  ((∀ (src : BitVec 12) (t x d : Nat) (s : State), live s = true → (fltDyn s src.toNat).test = some (t, x, d) →
     ∃ u, Effect (.testDone src true) s u ∧ (fltDyn u src.toNat).test = none ∧ flag u (fltSum src.toNat) 1 = false ∧
       fld u (fltSum src.toNat) 3 2 = 1 ∧ (∀ q, q ≠ src.toNat → fltDyn u q = fltDyn s q) ∧
       RegsKept s u [fltSum src.toNat, R.FLT_TEST, R.HBM_ERR_INFO + (src.toNat - 0x20) * 0x1000] [] ∧
       u = { s with regs := u.regs, flt := { s.flt with srcs := u.flt.srcs }, stn := { s.stn with testing := u.stn.testing } }) ∧
   (∀ (src : BitVec 12) (t x d : Nat) (s : State), live s = true → s.store.ecc = [] → (fltDyn s src.toNat).test = some (t, x, d) →
     t = 4 → src.toNat ≠ pgLDLV → ∃ u, Effect (.testDone src false) s u ∧ fld u (fltSum src.toNat) 3 2 = 2 ∧
       regN u R.FLT_LASTING = min 0xFFFFFFFF (regN s R.FLT_LASTING + 1) ∧ (fltDyn u src.toNat).test = none) ∧
   (∀ (src : BitVec 12) (s : State), live s = true →
     let q := regN s (keyB R.FLT_QUIET src.toNat)
     let ticks := if bitOf q 16 = true then bitsOf q 15 0 * 125000 else bitsOf q 15 0
     let may := inFault s src.toNat = true ∧ (fltDyn s src.toNat).test = none ∧ (fltDyn s src.toNat).last + ticks ≤ s.tick.now
     ∃ u, Effect (.quietPeriodEnd src) s u ∧ (¬may → u = s) ∧
       (may → inFault u src.toNat = false ∧ fld u (fltSum src.toNat) 31 16 = (fld s (fltSum src.toNat) 31 16 + 1) % 65536 ∧
         (fltDyn u src.toNat).holdsN = false ∧ (fltDyn u src.toNat).last = (fltDyn s src.toNat).last ∧
         (src.toNat < 0x100 → blkState s src.toNat = bFAULT →
           blkState u src.toNat = if flag s (hdr src.toNat oCTRL) 0 = true then bSTARTING else bOFF) ∧
         (src.toNat ≠ 0x48 → RegsKept s u [fltSum src.toNat, hdr src.toNat oSTAT] [] ∧ u = { s with regs := u.regs, flt := { s.flt with srcs := u.flt.srcs } }) ∧
         (src.toNat = 0x48 → RegsKept s u [fltSum 0x48] [0x48, 0x80] ∧
           u = { s with regs := u.regs, irq := u.irq, sent := u.sent, pool := u.pool, flt := { s.flt with srcs := u.flt.srcs } }))))

/-- IRQ_DB (R382, R383): a write that the window may make for its source is a message, any other is ignored and counted in IRQ_DB_STRAY. A message for a
source that is not enabled changes nothing; for one that is enabled, not masked and past its spacing it counts to at most 255 and sets the source's pending
bit at its target. Serving (R385). SERVE_BEGIN of a source that targets t, where t's stack holds fewer than 16, clears its pending bit, moves its event
counter into IRQ_SERVE_CNT, clears the counter and pushes the source with its priority; a full stack or another target leaves all that as it was and raises
IRQ_ORDER. SERVE_END of the source at the top pops it, any other raises IRQ_ORDER. A target of 9 to 15, or through BAR2 one that is not 8, is ignored and
counted in IRQ_DB_STRAY. -/
def Obligations.DoorbellAndServing : Prop :=
  (∀ (w : Win) (v : Word) (s : State), live s = true →
     let src := bitsOf v.toNat 9 0
     let general := (0x120 ≤ src ∧ src ≤ 0x1FF) ∨ (w ≠ .bar0 ∧ 0x300 ≤ src ∧ src ≤ 0x3DF)
     let taken := general ∧ (w = .bar2 → gateOpen s = true ∧ pageLocked s 0x80 = false)
     (¬taken → ∃ u, Effect (.irqDb w v) s u ∧ regN u R.IRQ_DB_STRAY = min 0xFFFFFFFF (regN s R.IRQ_DB_STRAY + 1) ∧
       RegsKept s u [R.IRQ_DB_STRAY] [] ∧ u = { s with regs := u.regs }) ∧
     (taken → irqEn s src = false → Effect (.irqDb w v) s s) ∧
     (taken → irqEn s src = true → irqMasked s src = false → spacingPassed s src = true → ∃ u, Effect (.irqDb w v) s u ∧
       pendAt u (irqTarget s src) src = true ∧ (∀ t x, (t * 1024 + x ≠ irqTarget s src * 1024 + src) → pendAt u t x = pendAt s t x) ∧
       regN u (keyB R.IRQ_SRC_CNT src) = min 255 (regN s (keyB R.IRQ_SRC_CNT src) + 1) ∧
       RegsKept s u [keyB R.IRQ_SRC_CNT src] [] ∧ u = { s with regs := u.regs, irq := u.irq, sent := u.sent })) ∧
  (∀ (w : Win) (v : Word) (s : State), live s = true → w ≠ .bar0 → pageLocked s 0x80 = false → s.store.ecc = [] →
     let src := bitsOf v.toNat 9 0
     let t := bitsOf v.toNat 15 12
     let stray := 9 ≤ t ∨ (w = .bar2 ∧ t ≠ 8)
     (∀ c, c = .serveBegin w v ∨ c = .serveEnd w v → stray → ∃ u, Effect c s u ∧
       regN u R.IRQ_DB_STRAY = min 0xFFFFFFFF (regN s R.IRQ_DB_STRAY + 1) ∧ RegsKept s u [R.IRQ_DB_STRAY] [] ∧ u = { s with regs := u.regs }) ∧
     (¬stray → (irqStack s t).length < 16 → irqTarget s src = t → ∃ u, Effect (.serveBegin w v) s u ∧
       irqStack u t = (src, irqPrio s src) :: irqStack s t ∧ (∀ x, x ≠ t → irqStack u x = irqStack s x) ∧ pendAt u t src = false ∧
       regN u (keyB R.IRQ_SERVE_CNT t) = fld s (keyB R.IRQ_SRC_CNT src) 7 0 + src * 65536 ∧ regN u (keyB R.IRQ_SRC_CNT src) = 0 ∧
       RegsKept s u [keyB R.IRQ_SERVE_CNT t, keyB R.IRQ_SRC_CNT src] [] ∧ u = { s with regs := u.regs, irq := u.irq }) ∧
     (¬stray → 16 ≤ (irqStack s t).length ∨ irqTarget s src ≠ t → ∃ u, Effect (.serveBegin w v) s u ∧ inFault u 0x80 = true ∧
       (∀ x, irqStack u x = irqStack s x) ∧ regN u R.IRQ_ORDER_CNT = min 0xFFFFFFFF (regN s R.IRQ_ORDER_CNT + 1)) ∧
     (¬stray → ∀ p rest, irqStack s t = (src, p) :: rest → ∃ u, Effect (.serveEnd w v) s u ∧ irqStack u t = rest ∧
       (∀ x, x ≠ t → irqStack u x = irqStack s x) ∧ u = { s with irq := { s.irq with serving := u.irq.serving }, sent := u.sent } ∧
       (t ≠ 8 → u.sent = s.sent)) ∧
     (¬stray → (∀ p rest, irqStack s t ≠ (src, p) :: rest) → ∃ u, Effect (.serveEnd w v) s u ∧ inFault u 0x80 = true ∧
       (∀ x, irqStack u x = irqStack s x)))

/-- Spacing, the stuck detector and UNMASK (R386, R387). A latched message whose spacing has passed sets the pending bit. A source active in as many ticks as
its limit, which is not 0, is masked, its pending bit clears and STUCK_SOURCE is raised. UNMASK is accepted only where the source was inactive in the last
tick; else CFG_REFUSED is set. The wake latches in P0 and P1 (R388): an input that reaches its active level sets its latch, which 20 and 21 do on either
edge; a level shows in IRQ_WAKE_RAW. A write of 1 clears a latch unless its input is still at its active level. -/
def Obligations.StuckSourcesAndWake : Prop :=
  ((∀ (src : BitVec 10) (s : State), live s = true → (irqDyn s src.toNat).latched = true → spacingPassed s src.toNat = true →
     irqEn s src.toNat = true → irqMasked s src.toNat = false → ∃ u, Effect (.spacingEnd src) s u ∧
       pendAt u (irqTarget s src.toNat) src.toNat = true ∧ (irqDyn u src.toNat).latched = false ∧
       (irqDyn u src.toNat).lastSet = some s.tick.now ∧ u = { s with irq := u.irq, sent := u.sent }) ∧
   (∀ (src : BitVec 10) (s : State), live s = true → s.store.ecc = [] → irqEn s src.toNat = true → irqMasked s src.toNat = false →
     regN s (keyB R.IRQ_SRC_STUCK src.toNat) ≠ 0 → regN s (keyB R.IRQ_SRC_STUCK src.toNat) ≤ (irqDyn s src.toNat).run →
     ∃ u, Effect (.stuckSource src) s u ∧ irqMasked u src.toNat = true ∧ inFault u 0x80 = true ∧ RegsKept s u [] [0x80, 0x81]) ∧
   (∀ (w : Win) (v : Word) (s : State), live s = true → mayWrite s w R.IRQ_SRC_CFG = true → bitsOf v.toNat 3 0 ≤ 8 →
     let src := fld s R.IRQ_SIDX 9 0
     ∃ u, Effect (.unmask w v) s u ∧ irqTarget u src = bitsOf v.toNat 3 0 ∧ irqEn u src = bitOf v.toNat 16 ∧
       (flag s (irqCfg src) 18 = false → irqMasked u src = false) ∧
       (flag s (irqCfg src) 18 = true → irqMasked u src = irqMasked s src ∧ flag u (hdr 0x80 oEVT) 2 = true) ∧ RegsKept s u [] [0x80])) ∧
  ((∀ (l : Fin 22) (on : Bool) (s : State), s.pwr.state ≤ 1 → s.host.perst = false → ∃ u, Effect (.wakeInput l on) s u ∧
     (l.val < 20 → u.irq.raw.getLsbD l.val = on ∧ (∀ j, j ≠ l.val → u.irq.raw.getLsbD j = s.irq.raw.getLsbD j) ∧
       flag u R.IRQ_WAKE l.val = (flag s R.IRQ_WAKE l.val || (on && !s.irq.raw.getLsbD l.val))) ∧
     (20 ≤ l.val → flag u R.IRQ_WAKE l.val = true ∧ u.irq.raw = s.irq.raw) ∧
     (∀ j, j ≠ l.val → j < 32 → flag u R.IRQ_WAKE j = flag s R.IRQ_WAKE j) ∧
     u = { s with regs := u.regs, irq := u.irq, sent := u.sent }) ∧
   (∀ (w : Win) (v : Word) (s : State), live s = true → mayWrite s w R.IRQ_WAKE = true → ∃ u, Effect (.irqWakeWrite w v) s u ∧
     (∀ b, b < 22 → flag u R.IRQ_WAKE b = (flag s R.IRQ_WAKE b && (!bitOf v.toNat b || (decide (b < 20) && s.irq.raw.getLsbD b)))) ∧
     u = { s with regs := u.regs, irq := u.irq, sent := u.sent }))

/-- R386, spacing. A message for an enabled source within SPACE ticks of the last time its pending bit was set, SPACE not being 0, is counted and latched,
and no pending bit changes; SPACING_END before the interval has passed changes nothing; at the first boundary at which it has, the pending bit of a source
with a latched message is set. Every message, IRQ_DB's as well as a block's own, is the operation `irqMessage`. -/
def Obligations.Spacing : Prop :=
  (∀ (w : Win) (v : Word) (s : State), live s = true → dbAccepted s w (bitsOf v.toNat 9 0) = true → Effect (.irqDb w v) s (irqMessage s (bitsOf v.toNat 9 0))) ∧
  (∀ (src : BitVec 10) (t : Nat) (s : State),
    let n := src.toNat
    let space := regN s (keyB R.IRQ_SRC_SPACE n)
    irqEn s n = true → irqMasked s n = false → space ≠ 0 → (irqDyn s n).lastSet = some t →
    (s.tick.now < t + space →
      (let u := irqMessage s n
       regN u (keyB R.IRQ_SRC_CNT n) = min 255 (regN s (keyB R.IRQ_SRC_CNT n) + 1) ∧ (irqDyn u n).latched = true ∧ u.irq.pend = s.irq.pend ∧ (irqDyn u n).lastSet = some t ∧
         RegsKept s u [keyB R.IRQ_SRC_CNT n] [] ∧ u = { s with regs := u.regs, irq := u.irq }) ∧
      (live s = true → Effect (.spacingEnd src) s s)) ∧
    (t + space ≤ s.tick.now → live s = true →
      ((irqDyn s n).latched = false → Effect (.spacingEnd src) s s) ∧
      ((irqDyn s n).latched = true → ∃ u, Effect (.spacingEnd src) s u ∧ pendAt u (irqTarget s n) n = true ∧ (irqDyn u n).latched = false ∧ (irqDyn u n).lastSet = some s.tick.now ∧
        u = { s with irq := u.irq, sent := u.sent })))

/-! ### Resets, the CXL link and the mailbox -/

/-- The full resets (R410 to R412, R442, R443): GLB_CTRL with its key, a hot reset of a link that is up, the watchdog of a control core that has not written
for more than 1,250 ticks, and PERST_N. Each leaves what R412 says and shows its cause; with the rails held and no wire asserting, start-up goes on at step
3, under PERST_N at step 2. GLB_CTRL without its key resets nothing. PERST_N holds start-up at step 2 with the PLLs locked: the end of step 2 while it is
asserted leaves the step where it is and locks them; released then, start-up goes on with step 3 (R443). GLB_WDOG (R410): a control core's write restarts the
watchdog of the core named in it, and of no other. -/
def Obligations.FullResets : Prop :=
  ((∀ (c : Instr) (cause : Nat) (s : State), regN s R.FLT_WIRE_RAW = 0 → s.host.perst = false → s.pwr.state ≤ 1 →
     ((∃ w v, c = .fullReset w v ∧ mayWrite s w R.GLB_CTRL = true ∧ bitOf v.toNat 0 = true ∧ bitsOf v.toNat 15 8 = 0xA5 ∧
         s.pwr.halted = false ∧ cause = 3) ∨
       (c = .cxlHotReset ∧ linkUp s = true ∧ s.pwr.halted = false ∧ cause = 2) ∨
       (∃ core, c = .watchdogExpire core ∧ secRuns s = true ∧ s.sec.started.isSome = true ∧
         nthD 0 s.host.wdog core.val + 1250 ≤ s.tick.now ∧ s.pwr.halted = false ∧ cause = 5) ∨
       (c = .perstN ∧ stepNow s ≠ 1 ∧ cause = 1)) →
     ∃ u, Effect c s u ∧ ResetLeft s u cause ∧ stepNow u = (if c = .perstN then 2 else 3) ∧ u.host.perst = decide (c = .perstN)) ∧
   (∀ (w : Win) (v : Word) (s : State), live s = true → bitsOf v.toNat 15 8 ≠ 0xA5 → Effect (.fullReset w v) s s)) ∧
  ((∀ (us : BitVec 32) (s : State), s.pwr.state ≤ 1 → s.host.perst = true → stepNow s = 2 → s.pwr.halted = false → s.pwr.locked = false →
     s.pwr.resume = false → fld s R.FLT_WIRE_RAW 4 0 = 0 → ∃ u, Effect (.startupStepEnd us true [] []) s u ∧ stepNow u = 2 ∧
       u.pwr.locked = true ∧ inRun u 0x01 = true ∧ inRun u 0x78 = true ∧ inRun u 0x98 = true) ∧
   (∀ s : State, s.host.perst = true → stepNow s = 2 → s.pwr.locked = true → s.pwr.halted = false → s.pwr.resume = false →
     regN s R.FLT_WIRE_RAW = 0 → ∃ u, Effect .perstNRelease s u ∧ stepNow u = 3 ∧ u.host.perst = false ∧
       RegsKept s u [R.PWR_STATE] [] ∧ u = { s with regs := u.regs, host := { s.host with perst := false } })) ∧
  (∀ (w : Win) (v : Word) (s : State), live s = true → mayWrite s w R.GLB_WDOG = true →
     ∃ u, Effect (.glbWdogWrite w v) s u ∧
       (∀ i, i < 8 → nthD 0 u.host.wdog i = if i = bitsOf v.toNat 2 0 then s.tick.now else nthD 0 s.host.wdog i) ∧
       u = { s with host := { s.host with wdog := u.host.wdog } })

/-- R442. A full reset with the rails held and the PLLs locked (no wire of a rail or a PLL asserts) starts at step 3, which BOOT_STAT shows, whatever other
wire asserts and whatever the cause; GLB_CTRL, the hot reset and the watchdog carry it out. A halted start-up takes one by PERST_N only (R440), whose reset
is held at step 2 while the pin is asserted (R443) and, released, goes on with step 3. -/
def Obligations.ResetStartsAtStep3 : Prop :=
  (∀ (cause : Nat) (core : Option Nat) (s : State), fld s R.FLT_WIRE_RAW 10 0 = 0 → s.pwr.halted = false ∨ cause = 1 → stepNow (fullReset s cause core) = 3) ∧
  (∀ (w : Win) (v : Word) (s : State), live s = true → mayWrite s w R.GLB_CTRL = true → bitOf v.toNat 0 = true → bitsOf v.toNat 15 8 = 0xA5 →
    Effect (.fullReset w v) s (fullReset s 3 none)) ∧
  (∀ s : State, live s = true → linkUp s = true → Effect .cxlHotReset s (fullReset s 2 none)) ∧
  (∀ (core : Fin 8) (s : State), live s = true → secRuns s = true → s.sec.started.isSome = true → nthD 0 s.host.wdog core.val + 1250 ≤ s.tick.now →
    Effect (.watchdogExpire core) s (fullReset s 5 (some core.val))) ∧
  (∀ s : State, s.host.perst = false → s.pwr.state ≤ 1 → fld s R.FLT_WIRE_RAW 10 0 = 0 → stepNow s ≠ 1 ∨ s.pwr.halted = true →
    (∃ u, Effect .perstN s u ∧ u = setStep (fullReset { s with host := { s.host with perst := true } } 1 none) 2) ∧
    (∀ t : State, t.host.perst = true → stepNow t = 2 → t.pwr.locked = true → t.pwr.halted = false → t.pwr.resume = false → regN t R.FLT_WIRE_RAW = 0 →
      ∃ u, Effect .perstNRelease t u ∧ stepNow u = 3))

/-- The CXL link (R392, R398, R441): it trains from step 9 of start-up on, shows width and rate, and BLK_EVT.LINK_UP is set where it was down. Going down it
is counted, the gate closes with cause 2, IDE ends with it, and the decoder stays committed. The host commits the decoder over a link that is up. IDE and the
gate (R394, R398). A stream is established over a link that is up. When one stops or reports an integrity failure, IDE_LOST is set and, where the
configuration requires IDE, the gate closes with cause 3; where it does not, the gate stays as it is. A write of CLOSE through BAR2 closes the gate with
cause 1. The host's memory accesses (R393): inside the window, with the decoder committed and no error in the words read, a read is answered with the bytes
stored there and a write stores its bytes and changes no other; outside it a read is answered with a poisoned response of all ones and counted, and a write
is dropped and counted. A link that is down takes neither. -/
def Obligations.CxlLink : Prop :=
  ((∀ (w r : Fin 4) (s : State), live s = true →
     (fld s R.PWR_STATE 7 4 < 9 → Effect (.cxlLinkUp w r) s s) ∧
     (9 ≤ fld s R.PWR_STATE 7 4 → ∃ u, Effect (.cxlLinkUp w r) s u ∧ linkUp u = true ∧ fld u R.CXL_LINK 3 0 = 2 ^ w.val ∧
       fld u R.CXL_LINK 11 4 = 8 * 2 ^ r.val ∧ flag u R.CXL_LINK 13 = flag s R.CXL_LINK 13 ∧
       (linkUp s = false → flag u (hdr pgCXL oEVT) 1 = true ∧ inRun u pgCXL = true) ∧
       RegsKept s u ([R.CXL_LINK, hdr pgCXL oSTAT] ++ evtKeys pgCXL) [0x80] ∧ u = { s with regs := u.regs, irq := u.irq, sent := u.sent })) ∧
   (∀ s : State, live s = true → linkUp s = true → ∃ u, Effect .cxlLinkDown s u ∧ linkUp u = false ∧ fld u R.CXL_LINK 11 0 = 0 ∧
     flag u R.CXL_LINK 13 = flag s R.CXL_LINK 13 ∧ gateOpen u = false ∧ (gateOpen s = true → fld u R.PRIV_GATE 11 8 = 2) ∧
     fld u R.CXL_IDE 1 0 = 0 ∧ regN u R.CXL_DOWN = min 0xFFFFFFFF (regN s R.CXL_DOWN + 1) ∧ flag u (hdr pgCXL oEVT) 0 = true ∧
     RegsKept s u ([R.CXL_LINK, R.CXL_DOWN, R.CXL_IDE, R.PRIV_GATE] ++ evtKeys pgCXL) [0x80] ∧
     u = { s with regs := u.regs, irq := u.irq, sent := u.sent }) ∧
   (∀ s : State, live s = true → linkUp s = true → ∃ u, Effect .hdmDecoderCommit s u ∧ flag u R.CXL_LINK 13 = true ∧
     fld u R.CXL_LINK 12 0 = fld s R.CXL_LINK 12 0 ∧ RegsKept s u [R.CXL_LINK] [] ∧ u = { s with regs := u.regs })) ∧
  ((∀ (m : Bool) (s : State), live s = true → linkUp s = true → ∃ u, Effect (.ideEstablished m) s u ∧ flag u R.CXL_IDE (ofBool m) = true ∧
     flag u R.CXL_IDE (ofBool (!m)) = flag s R.CXL_IDE (ofBool (!m)) ∧ RegsKept s u [R.CXL_IDE] [] ∧ u = { s with regs := u.regs }) ∧
   (∀ (m f : Bool) (s : State), live s = true → flag s R.CXL_IDE (ofBool m) = true → ∃ u, Effect (.ideStop m f) s u ∧
     flag u R.CXL_IDE (ofBool m) = false ∧ flag u (hdr pgCXL oEVT) 2 = true ∧
     (flag s R.CXL_IDE 2 = true → gateOpen u = false ∧ (gateOpen s = true → fld u R.PRIV_GATE 11 8 = 3)) ∧
     (flag s R.CXL_IDE 2 = false → getR u R.PRIV_GATE = getR s R.PRIV_GATE) ∧
     (f = true → regN u R.CXL_IDE_ERR = min 0xFFFFFFFF (regN s R.CXL_IDE_ERR + 1)) ∧
     RegsKept s u ([R.CXL_IDE, R.CXL_IDE_ERR, R.PRIV_GATE] ++ evtKeys pgCXL) [0x80] ∧ u = { s with regs := u.regs, irq := u.irq, sent := u.sent }) ∧
   (∀ (v : Word) (s : State), live s = true → mayWrite s .bar2 R.PRIV_GATE = true → bitOf v.toNat 1 = true →
     ∃ u, Effect (.privGateClose .bar2 v) s u ∧ gateOpen u = false ∧ fld u R.PRIV_GATE 31 16 = fld s R.PRIV_GATE 31 16 ∧
       (gateOpen s = true → fld u R.PRIV_GATE 11 8 = 1) ∧ RegsKept s u [R.PRIV_GATE] [] ∧ u = { s with regs := u.regs })) ∧
  ((∀ (off : DWord) (n : Fin 65) (s : State), live s = true →
     (linkUp s = false → Effect (.cxlMemRead off n) s s) ∧
     (∀ k, linkUp s = true → windowKey s off.toNat n.val = some k → eccWords s k n.val = [] → ∃ u, Effect (.cxlMemRead off n) s u ∧
       u.sent = s.sent ++ [.cxlData false (rawRead s k n.val)] ∧ regN u R.CXL_MEM_RD = (regN s R.CXL_MEM_RD + 1) % 2 ^ 32 ∧
       RegsKept s u [R.CXL_MEM_RD] [] ∧ u = { s with regs := u.regs, sent := u.sent }) ∧
     (linkUp s = true → windowKey s off.toNat n.val = none → ∃ u, Effect (.cxlMemRead off n) s u ∧
       regN u R.CXL_POISON = min 0xFFFFFFFF (regN s R.CXL_POISON + 1) ∧ flag u (hdr pgCXL oEVT) 3 = true ∧
       u.sent.getLast? = some (.cxlData true (List.replicate n.val 0xFF)) ∧
       RegsKept s u ([R.CXL_MEM_RD, R.CXL_POISON] ++ evtKeys pgCXL) [0x80] ∧ u = { s with regs := u.regs, irq := u.irq, sent := u.sent })) ∧
   (∀ (off : DWord) (bs : List Byte) (s : State), live s = true → s.store.ecc = [] →
     (linkUp s = false → Effect (.cxlMemWrite off bs) s s) ∧
     (∀ k, linkUp s = true → windowKey s off.toNat bs.length = some k → ∃ u, Effect (.cxlMemWrite off bs) s u ∧
       (∀ i, i < bs.length → memByte u.mem (k + i) = nthD 0 bs i) ∧ MemKeptBut s u k bs.length ∧ u = { s with mem := u.mem }) ∧
     (linkUp s = true → windowKey s off.toNat bs.length = none → ∃ u, Effect (.cxlMemWrite off bs) s u ∧
       regN u R.CXL_WR_DROP = min 0xFFFFFFFF (regN s R.CXL_WR_DROP + 1) ∧ RegsKept s u [R.CXL_WR_DROP] [] ∧ u = { s with regs := u.regs })))

/-- Mailbox commands that need no gate (R404, R405, R397): GET_INFO and JOB_STATUS answer with the registers they name and change nothing but the mailbox;
AUTH_CHALLENGE answers with a fresh nonce of 32 bytes, whose value is free, and keeps it, unless AUTH commands answer BUSY after three refusals.
AUTH_RESPONSE (R394, R397): with the owner's signature over the nonce last given, the node and the configuration digest, and IDE established where it is
required, the gate opens and the opening is counted; any other response is refused, and the third refusal in a row locks AUTH commands for 7,500,000 ticks.
The nonce serves one response, whatever it brings. -/
def Obligations.MailboxAndAuthentication : Prop :=
  (∀ (len : BitVec 12) (s : State), live s = true → mbxOpen s = true → len.toNat ≤ 2048 →
     (∃ u, Effect (.getInfo len) s u ∧ MbxAnswered s u cSERVED
       ([R.GLB_STEP, R.ARITH_REV, R.GLB_NODE, R.GLB_FW_VER, R.PRIV_GATE].flatMap (fun k => bytesLE 4 (regN s k &&& readMask k))
         ++ bytesLE 4 (if s.job.held = true then s.job.id + 0x10000 else 0)) ∧
       RegsKept s u [] [0x80, 0x89] ∧ u = { s with regs := u.regs, irq := u.irq, sent := u.sent }) ∧
     (∃ u, Effect (.jobStatus len) s u ∧ MbxAnswered s u cSERVED
       (bytesLE 4 (regN s R.SITE_STATE) ++ bytesLE 8 (siteCommit s) ++ bytesLE 8 s.job.round ++ bytesLE 4 (phaseNow s)) ∧
       RegsKept s u [] [0x80, 0x89] ∧ u = { s with regs := u.regs, irq := u.irq, sent := u.sent }) ∧
     (authLocked s = false → ∃ u n, Effect (.authChallenge len) s u ∧ n.length = 32 ∧ u.host.nonce = some n ∧ MbxAnswered s u cSERVED n ∧
       RegsKept s u [] [0x80, 0x89] ∧
       u = { s with regs := u.regs, irq := u.irq, sent := u.sent, free := s.free + 1, host := { s.host with nonce := some n } })) ∧
  (∀ (len : BitVec 12) (n : List Byte) (s : State), live s = true → mbxOpen s = true → len.toNat ≤ 2048 → authLocked s = false →
     s.host.nonce = some n →
     let good := hssVerify (ownerKey s) (n ++ bytesLE 2 (ownNode s) ++ cfgDigest s) (mbxPayload s len.toNat) = true ∧
       (flag s R.CXL_IDE 2 = true → flag s R.CXL_IDE 0 = true ∧ flag s R.CXL_IDE 1 = true)
     ∃ u, Effect (.authResponse len) s u ∧ u.host.nonce = none ∧
       (good → gateOpen u = true ∧ fld u R.PRIV_GATE 31 16 = (fld s R.PRIV_GATE 31 16 + 1) % 65536 ∧ u.host.refusals = 0 ∧
         MbxAnswered s u cSERVED []) ∧
       (¬good → gateOpen u = gateOpen s ∧ MbxAnswered s u cPOLICY [] ∧
         (s.host.refusals < 2 → u.host.refusals = s.host.refusals + 1 ∧ u.host.lockTo = s.host.lockTo) ∧
         (2 ≤ s.host.refusals → u.host.refusals = 0 ∧ u.host.lockTo = s.tick.now + 7500000)) ∧
       RegsKept s u [R.PRIV_GATE] [0x80, 0x89] ∧ u = { s with regs := u.regs, irq := u.irq, sent := u.sent, host := u.host })

/-- The gated mailbox commands (R405): refused with the gate closed, whatever they ask. JOB_CREATE with tables that are whole and agree holds the job from
then on, with its identity and node and its first round one after the last commit it shows (the first round's number is free, R17). JOB_END with every commit
pushed and no round begun ends the job at once. TIME_STEP between rounds steps the counter, here a SET that stays within the tick (R355); during a round it
is refused and steps nothing. FW_STAGE (R424) of an owner's configuration: read whole from the window's region, with a good header, the owner's signature and
a CFG_SEQ above the greatest staged, it waits as the spare configuration for the next start and counts from then on; SEC_STAGE shows STAGED and SERVED, and
BLK_EVT.STAGED is set. The configuration in force stays. -/
def Obligations.GatedCommands : Prop :=
  ((∀ (c : Instr) (len : BitVec 12) (s : State), live s = true → mbxOpen s = true → gateOpen s = false →
     c = .jobCreate len ∨ c = .jobEnd len ∨ c = .timeStep len ∨ c = .fwStage len →
     ∃ u, Effect c s u ∧ MbxAnswered s u cPOLICY [] ∧ RegsKept s u [] [0x80, 0x89] ∧ u = { s with regs := u.regs, irq := u.irq, sent := u.sent }) ∧
   (∀ (len : BitVec 12) (s a : State) (o : Ocr) (ps : List Panel) (t : SiteTab) (gs : List PGroup) (sp : List Nat), live s = true →
     mbxOpen s = true → gateOpen s = true → len.toNat ≤ 2048 → a = setN s R.MBX_CMD (0x10 + len.toNat * 65536) →
     let b := mbxPayload a len.toNat
     s.job.held = false → s.site = {} → leAt b 8 8 % 64 = 0 → inHbm a (leAt b 8 8) 128 = true → jobOcr a (leAt b 8 8) = some o → ocrOk o = true → readPanels a o = some ps →
     readSites a (leAt b 16 8) (leAt b 0 2) = some t → readProt a (leAt b 24 8) (leAt b 0 2) = some (gs, sp) →
     panelsOk o 0 ps = true → t.lag = o.lag → t.h = o.h → crcsAgree a t = true →
     ∃ u, Effect (.jobCreate len) s u ∧ u.job.held = true ∧ u.job.id = leAt b 0 2 ∧ u.job.node = leAt b 32 2 ∧
       u.job.first = u.job.commit + 1 ∧ 1 ≤ u.job.first ∧ u.job.first < 2 ^ 48 ∧ u.job.pushed = u.job.commit ∧ u.job.phase = 0 ∧
       regN u R.MBX_STAT = 0 ∧ u.regn = s.regn ∧ u.strm = s.strm ∧ (s.coll.groups = [] → u.coll = s.coll) ∧ u.tick = s.tick) ∧
   (∀ (len : BitVec 12) (s : State), live s = true → mbxOpen s = true → gateOpen s = true → len.toNat ≤ 2048 → s.job.held = true →
     s.job.commit ≤ s.job.pushed → s.job.phase = 0 → ∃ u, Effect (.jobEnd len) s u ∧ u.job = {} ∧ u.site = {} ∧ u.hlth = scoreKept s.hlth ∧
       regN u R.GLB_NODE = 0 ∧ regN u R.MBX_STAT = 0 ∧
       u = { s with regs := u.regs, irq := u.irq, sent := u.sent, job := {}, site := {}, hlth := scoreKept s.hlth }) ∧
   (∀ (len : BitVec 12) (s a : State), live s = true → mbxOpen s = true → gateOpen s = true → len.toNat ≤ 2048 →
     a = setN s R.MBX_CMD (0x20 + len.toNat * 65536) →
     let b := mbxPayload a len.toNat
     let x := (leAt b 8 8 * 1000000000 + leAt b 4 4) * 4294967296
     leAt b 0 1 = 1 → leAt b 4 4 ≤ 999999999 → x / 34359738368000 ≤ s.tick.now →
     (midRound s = false → ∃ u, Effect (.timeStep len) s u ∧ u.tick.counter = x ∧ u.tick.follower = x ∧ u.tick.now = s.tick.now ∧
       regN u R.TIME_STEPS = min 0xFFFFFFFF (regN s R.TIME_STEPS + 1) ∧ MbxAnswered s u cSERVED []) ∧
     (midRound s = true → ∃ u, Effect (.timeStep len) s u ∧ u.tick = s.tick ∧ MbxAnswered s u cPOLICY []))) ∧
  (∀ (len : BitVec 12) (s a : State) (k : Nat) (g : SignedCfg), live s = true → mbxOpen s = true → gateOpen s = true → len.toNat ≤ 2048 →
     s.store.ecc = [] → a = setN s R.MBX_CMD (0x30 + len.toNat * 65536) →
     let b := mbxPayload a len.toNat
     let img := rawRead a k (leAt b 8 4)
     let n := 64 + leAt img 16 4
     leAt b 12 1 = 1 → 64 ≤ leAt b 8 4 → (cxlWin a).any (fun r => decide (r.lbase ≤ leAt b 0 8) && decide (leAt b 0 8 + leAt b 8 4 ≤ r.lbase + r.len)) = true →
     resolveCore a (leAt b 0 8) (leAt b 8 4) = some k → headerOk img s.sec.floor = true → leAt img 4 1 = 3 →
     hssVerify (ownerKey s) (img.take n) (img.drop n) = true → parseCfg ((img.take n).drop 64) = some g → s.sec.cfgCount < g.seq →
     ∃ u, Effect (.fwStage len) s u ∧ u.sec = { s.sec with spare := some g, cfgCount := g.seq } ∧ fld u R.SEC_STAGE 1 0 = 2 ∧
       flag u (hdr pgSEC oEVT) 3 = true ∧ MbxAnswered s u cSERVED [] ∧ u.mem = s.mem ∧ u.job = s.job)

/-! ### Power and start-up -/

/-- PWR_REQ (R432, R434). While a move is under way it is answered BUSY; to the state the package is in, SERVED; out of P0 during a round, REFUSED_POLICY;
and nothing else changes. A move that begins shows PENDING and its target: out of P0 STREAM and COLL, where they run, begin to drain; from P1 to P0 the field
dies that are OFF begin to start. The end of a move (R431 to R434, R444): nothing while the field dies are not as the move asks. With the dies parked, P1 is
entered; with the dies back in RUN, P0; PWR_RES shows SERVED and STATE_CHANGED is set. P2 keeps the tick, the time, the SEAL keys and what Mirder and flash
hold, loses the rest, and lowers MAIN_EN; a wake latch that asks raises it at once, and start-up goes on at step 1. -/
def Obligations.PowerMoves : Prop :=
  (∀ (c : Instr) (tgt : Nat) (w : Win) (s : State), live s = true → mayWrite s w R.PWR_REQ = true →
     (c = .pwrToP0 w ∧ tgt = 0) ∨ (c = .pwrToP1 w ∧ tgt = 1) ∨ (c = .pwrToP2 w ∧ tgt = 2) →
     (s.pwr.move.isSome = true → ∃ u, Effect c s u ∧ fld u R.PWR_RES 7 4 = cBUSY ∧ RegsKept s u [R.PWR_RES] [] ∧ u = { s with regs := u.regs }) ∧
     (s.pwr.move = none → tgt = s.pwr.state ∨ (s.pwr.state = 0 ∧ midRound s = true) → ∃ u, Effect c s u ∧
       regN u R.PWR_RES = (if tgt = s.pwr.state then cSERVED else cPOLICY) * 16 ∧ RegsKept s u [R.PWR_RES] [] ∧ u = { s with regs := u.regs }) ∧
     (s.pwr.move = none → tgt ≠ s.pwr.state → ¬(s.pwr.state = 0 ∧ midRound s = true) → ∃ u, Effect c s u ∧ regN u R.PWR_RES = 1 ∧
       fld u R.PWR_STATE 3 2 = tgt ∧ fld u R.PWR_STATE 1 0 = fld s R.PWR_STATE 1 0 ∧
       u.pwr = { s.pwr with move := some tgt, parked := false } ∧
       (s.pwr.state = 0 → ∀ p, p = pgSTRM ∨ p = pgCOLL → flag u (hdr p oCTRL) 0 = false ∧ (blkState s p = bRUN → blkState u p = bDRAINING)) ∧
       (tgt = 0 → ∀ p, 0x10 ≤ p → p ≤ 0x17 → flag u (hdr p oCTRL) 0 = true ∧ (blkState s p = bOFF → blkState u p = bSTARTING)) ∧
       u = { s with regs := u.regs, pwr := u.pwr, strm := u.strm } ∧ (s.pwr.state ≠ 0 → u.strm = s.strm))) ∧
  ((∀ s : State, live s = true → (s.pwr.move = none ∨ (s.pwr.state = 0 ∧ s.pwr.move ≠ none ∧ (s.pwr.parked = false ∨ allParked s = false)) ∨
     (s.pwr.state = 1 ∧ s.pwr.move = some 0 ∧ allUnparked s = false)) → Effect .powerMoveDone s s) ∧
   (∀ (tgt : Nat) (s : State), live s = true → s.pwr.move = some tgt →
     (tgt = 1 ∧ s.pwr.state = 0 ∧ s.pwr.parked = true ∧ allParked s = true) ∨ (tgt = 0 ∧ s.pwr.state = 1 ∧ allUnparked s = true) →
     ∃ u, Effect .powerMoveDone s u ∧ u.pwr = { s.pwr with state := tgt, move := none, parked := false } ∧ fld u R.PWR_STATE 1 0 = tgt ∧
       fld u R.PWR_STATE 3 2 = tgt ∧ regN u R.PWR_RES = cSERVED * 16 ∧ flag u (hdr pgPWR oEVT) 0 = true ∧
       RegsKept s u ([R.PWR_STATE, R.PWR_RES] ++ evtKeys pgPWR) [0x80] ∧ u = { s with regs := u.regs, irq := u.irq, sent := u.sent, pwr := u.pwr }) ∧
   (∀ (s : State), live s = true → s.store.ecc = [] → s.pwr.move = some 2 → s.pwr.state = 1 ∨ (s.pwr.state = 0 ∧ s.pwr.parked = true ∧ allParked s = true) →
     ∃ u, Effect .powerMoveDone s u ∧ u.mem = [] ∧ u.store.ecc = [] ∧ u.tick = s.tick ∧ u.time = s.time ∧ u.ciph.seals = s.ciph.seals ∧
       u.ciph.marks = s.ciph.marks ∧ u.ciph.keys = [] ∧ u.job = s.job ∧ u.site = s.site ∧ u.hlth = s.hlth ∧ u.sec = s.sec ∧ u.regn = s.regn ∧
       u.strm = {} ∧ u.pool = {} ∧ u.sw = {} ∧ u.codec = {} ∧ u.coll = {} ∧ u.ocu = {} ∧
       u.line = { mods := List.replicate 2 { pm := { next := secOf s.tick.counter } } } ∧
       (wakeDue s = false → u.pwr.state = 2 ∧ u.pwr.mainEn = false ∧ fld u R.PWR_STATE 1 0 = 2) ∧
       (wakeDue s = true → u.pwr.state = 0 ∧ u.pwr.mainEn = true ∧ u.pwr.resume = true ∧ stepNow u = 1)))

/-- POWER_OFF and POWER_ON (R431, R439): without power the package is in P3, keeps its flash and the SEAL marks, and loses its memory and units; with power
back start-up begins at step 1, in which TICK, TIME and PWR wait for the PLLs. Each does nothing in the state it leads to. The steps of start-up (R439, R440,
R442, R444, R417). A step that ends shows its time, and the next begins: step 5 follows step 2 when the package leaves P2. A step that fails halts start-up:
PWR_STATE keeps its code and FAULT_N asserts; a halted start-up goes no further. Step 4 boots the slot that passes the checks, the other where the active one
fails them, and halts where both do. -/
def Obligations.PowerCycleAndStartup : Prop :=
  ((∀ s : State, s.pwr.state ≠ 3 → ∃ u, Effect .powerOff s u ∧ u.pwr = { state := 3, mainEn := false, locked := false } ∧ u.mem = [] ∧
     u.ciph = { marks := s.ciph.marks } ∧ u.sec = s.sec ∧ u.host = { perst := s.host.perst } ∧ u.tick = {} ∧ u.time = {} ∧ u.regn = {} ∧
     u.pool = {} ∧ u.strm = {} ∧ u.stn = {} ∧ u.sw = {} ∧ u.codec = {} ∧ u.coll = {} ∧ u.job = {} ∧ u.line = {} ∧ u.ocu = {} ∧
     u.site = {} ∧ u.hlth = {} ∧ (∀ k, k ≠ R.FLT_WIRE_RAW → regN u k = resetOf k % 2 ^ 32)) ∧
   (∀ s : State, s.pwr.state = 3 → Effect .powerOff s s) ∧
   (∀ s : State, s.pwr.state = 3 → regN s R.FLT_WIRE_RAW = 0 → ∃ u, Effect .powerOn s u ∧ u.pwr.state = 0 ∧ u.pwr.locked = false ∧
     stepNow u = 1 ∧ blkState u 0x01 = bOFF ∧ blkState u 0x78 = bOFF ∧ blkState u 0x98 = bOFF ∧ u.mem = [] ∧
     u.ciph = { marks := s.ciph.marks } ∧ u.sec = flashStart s.sec) ∧
   (∀ s : State, s.pwr.state ≠ 3 → Effect .powerOn s s)) ∧
  (∀ (us : BitVec 32) (ok : Bool) (cl rows : List Nat) (s : State), s.pwr.state ≤ 1 → regN s R.FLT_WIRE_RAW = 0 →
     let k := stepNow s
     let time := keyB R.PWR_STEP_TIME k
     (s.pwr.halted = true ∨ k = 0 ∨ k = 15 ∨ (k = 9 ∧ linkUp s = false) → Effect (.startupStepEnd us ok cl rows) s s) ∧
     (s.pwr.halted = false → ok = false → k = 1 ∨ (k = 2 ∧ ¬(s.pwr.locked = true ∧ s.host.perst = true)) ∨ k = 5 ∨ k = 6 →
       ∃ u, Effect (.startupStepEnd us ok cl rows) s u ∧ stepNow u = k ∧ faultNOf u = true ∧ u.pwr = { s.pwr with halted := true } ∧
         regN u time = us.toNat ∧ RegsKept s u [time, R.PWR_STATE] [] ∧ u = { s with regs := u.regs, pwr := u.pwr }) ∧
     (s.pwr.halted = false → k = 4 → ∃ u, Effect (.startupStepEnd us ok cl rows) s u ∧ regN u time = us.toNat ∧
       RegsKept s u [time, R.PWR_STATE, R.SEC_BOOT] fldPages ∧ (slotBoots s.sec ok = none → stepNow u = 4 ∧ faultNOf u = true) ∧
       (∀ j fb, slotBoots s.sec ok = some (j, fb) → u.sec.booted = j ∧ fld u R.SEC_BOOT 1 0 = (j + 2 * ofBool fb) % 4 ∧
         slotWhole s.sec j = true ∧ (ok = false → j ≠ s.sec.active ∧ fb = true) ∧ u.pwr = s.pwr)) ∧
     (s.pwr.halted = false → ok = true → k = 1 ∨ k = 3 ∨ (10 ≤ k ∧ k ≤ 14) ∨ (k = 9 ∧ linkUp s = true) →
       ∃ u, Effect (.startupStepEnd us ok cl rows) s u ∧ stepNow u = k + 1 ∧ regN u time = us.toNat ∧
         RegsKept s u [time, R.PWR_STATE] [] ∧ u = { s with regs := u.regs }) ∧
     (s.pwr.halted = false → ok = true → k = 2 → s.host.perst = false → s.irq.owed = [] → ∃ u, Effect (.startupStepEnd us ok cl rows) s u ∧
       stepNow u = (if s.pwr.resume = true then 5 else 3) ∧ inRun u 0x01 = true ∧ inRun u 0x78 = true ∧ inRun u 0x98 = true ∧
       u.pwr = { s.pwr with locked := true }) ∧
     (s.pwr.halted = false → ok = true → k = 5 → ∃ u, Effect (.startupStepEnd us ok cl rows) s u ∧ stepNow u = 6 ∧ ∀ d, d < 8 →
       fld u (R.FLD_D2D_STAT + 0x1000 * d) 1 0 = if rows.contains (d * 3) = true then 3 else 2) ∧
     (s.pwr.halted = false → ok = true → k = 6 → ∃ u, Effect (.startupStepEnd us ok cl rows) s u ∧ stepNow u = 7 ∧ ∀ i, i < 16 → inRun u (0x20 + i) = true) ∧
     (s.pwr.halted = false → ok = true → k = 7 → cl = [] → rows = [] → s.store.retired = [] → ∃ u, Effect (.startupStepEnd us ok cl rows) s u ∧
       stepNow u = 8 ∧ ∀ d, d < 8 → inRun u (0x10 + d) = true) ∧
     (s.pwr.halted = false → k = 8 → s.pwr.resume = true ∨ s.sec.cfg.settings.all settingOk = true → ∃ u, Effect (.startupStepEnd us ok cl rows) s u ∧
       stepNow u = 9 ∧ u.pwr.resume = false ∧ u.sec.started.isSome = true ∧ ∀ p, p = 0x80 ∨ p = 0x81 ∨ p = 0x89 ∨ p = 0x90 → inRun u p = true) ∧
     (s.pwr.halted = false → k = 8 → s.pwr.resume = false → s.sec.cfg.settings.all settingOk = false →
       ∃ u, Effect (.startupStepEnd us ok cl rows) s u ∧ stepNow u = 8 ∧ faultNOf u = true))

/-- Thermal throttle (R435). At a sample of a die, T the greatest reading: a T at or above T_HOT raises k_T by 1 unless it rose so within the last ten
samples; a T below T_HOT by the hysteresis, not rising, lowers it by 1 once that has held for a hundred samples; between the two, with too few samples for a
gradient, it stays. k_T stays within 0 to 15, and the tick's level is the greater of k_T and k_P. The limiter (R436). A sample of VDD_FLD above 1,700 A
raises k_P by 4, to at most 15; any other only shows. At the end of an aligned window of 125 ticks, k_P rises by 1 where the average of the last second lies
above the limit, stays where a sample of the window was above 1,700 A, and else falls by 1. Every sample and every end of a window completes, whatever it
reads and whatever the state in P0 and P1: the die's throttle takes the step of its sample, the level in force is the greater of k_T and k_P, and k_P moves as
said. -/
def Obligations.ThrottleAndLimiter : Prop :=
  (∀ s : State, live s = true →
     (∀ (d : Fin 8) (temps : List Nat), temps ≠ [] → ∃ u, Effect (.thermalSample d temps) s u ∧
       nthD {} u.pwr.dies d.val = (thermalStep (regN s R.PWR_THM_CFG) (temps.foldl max 0) (nthD {} s.pwr.dies d.val)).2 ∧
       (∀ e, e < 8 → nthD 0 u.tick.level e = max (nthD {} u.pwr.dies e).kT s.pwr.kP) ∧ u.pwr.kP = s.pwr.kP ∧ u.tick.now = s.tick.now) ∧
     (∀ ma : Nat, ∃ u, Effect (.currentSample ma) s u ∧ fld u (keyB R.PWR_RAIL 0) 31 16 = ma / 1000 % 65536 ∧
       u.pwr.kP = (if 1700000 < ma then min 15 (s.pwr.kP + 4) else s.pwr.kP) ∧ u.pwr.dies = s.pwr.dies ∧ u.mem = s.mem) ∧
     (∀ mw : Nat,
       let ws := (mw :: s.pwr.windows).take 1000
       let ends := s.tick.now % 125 = 0 ∧ s.pwr.lastWin < s.tick.now
       let above := fld s R.PWR_LIMIT 11 0 * 1000 * ws.length < ws.sum
       ∃ u, Effect (.powerWindowEnd mw) s u ∧ u.pwr.windows = (if ends then ws else s.pwr.windows) ∧
         u.pwr.kP = (if ends then (if above then min 15 (s.pwr.kP + 1) else if s.pwr.surge = true then s.pwr.kP else s.pwr.kP - 1) else s.pwr.kP) ∧
         u.pwr.dies = s.pwr.dies ∧ u.mem = s.mem)) ∧
  (∀ (d : Fin 8) (temps : List Nat) (s : State), live s = true → temps ≠ [] → s.store.ecc = [] →
     flag s R.FLT_WIRE_RAW 11 = false → (∀ x ∈ temps, x < bitsOf (regN s R.PWR_THM_CFG) 23 16 * 1000) → (∀ x ∈ s.pwr.dies, x.trip = false) →
     let old := nthD {} s.pwr.dies d.val
     let cfg := regN s R.PWR_THM_CFG
     let t := temps.foldl max 0
     let hot := bitsOf cfg 7 0 * 1000
     old.temps.length < 10 → old.kT ≤ 15 →
     ∃ u, Effect (.thermalSample d temps) s u ∧
       (let k := (nthD {} u.pwr.dies d.val).kT
        (hot ≤ t → (∀ x, old.limit = some x → x + 10 ≤ old.count) → k = min 15 (old.kT + 1)) ∧
        (hot ≤ t → (∃ x, old.limit = some x ∧ old.count < x + 10) → k = old.kT) ∧
        (t < hot → hot ≤ t + bitsOf cfg 11 8 * 1000 → k = old.kT) ∧
        (t + bitsOf cfg 11 8 * 1000 < hot → (∃ x, old.calm = some x ∧ x + 100 ≤ old.count) → k = old.kT - 1) ∧
        nthD 0 u.tick.level d.val = max k s.pwr.kP ∧ fld u (keyB R.PWR_THM d.val) 19 16 = k) ∧
       fld u (keyB R.PWR_THM d.val) 7 0 = min 255 (t / 1000) ∧ (∀ e, e ≠ d.val → nthD {} u.pwr.dies e = nthD {} s.pwr.dies e) ∧
       u.pwr.kP = s.pwr.kP ∧ u.mem = s.mem) ∧
  ((∀ (ma : Nat) (s : State), live s = true → s.pwr.kP ≤ 15 → ∃ u, Effect (.currentSample ma) s u ∧
     fld u (keyB R.PWR_RAIL 0) 31 16 = ma / 1000 % 65536 ∧ u.pwr.kP = (if 1700000 < ma then min 15 (s.pwr.kP + 4) else s.pwr.kP) ∧
     (1700000 < ma → u.pwr.surge = true ∧ ∀ d, d < 8 → nthD 0 u.tick.level d = max (nthD {} s.pwr.dies d).kT u.pwr.kP) ∧
     (ma ≤ 1700000 → RegsKept s u [keyB R.PWR_RAIL 0] [] ∧ u = { s with regs := u.regs })) ∧
   (∀ (mw : Nat) (s : State), live s = true → s.tick.now % 125 = 0 → s.pwr.lastWin < s.tick.now → s.pwr.kP ≤ 15 →
     let ws := (mw :: s.pwr.windows).take 1000
     let above := fld s R.PWR_LIMIT 11 0 * 1000 * ws.length < ws.sum
     ∃ u, Effect (.powerWindowEnd mw) s u ∧ u.pwr.windows = ws ∧ u.pwr.lastWin = s.tick.now ∧ u.pwr.surge = false ∧
       (above → u.pwr.kP = min 15 (s.pwr.kP + 1)) ∧ (¬above → s.pwr.surge = true → u.pwr.kP = s.pwr.kP) ∧
       (¬above → s.pwr.surge = false → u.pwr.kP = s.pwr.kP - 1) ∧ fld u R.PWR_WATTS 11 0 = min 4095 (meanPower ws / 1000) ∧ u.mem = s.mem) ∧
   (∀ (mw : Nat) (s : State), live s = true → ¬(s.tick.now % 125 = 0 ∧ s.pwr.lastWin < s.tick.now) → Effect (.powerWindowEnd mw) s s))

/-! ### Keys, reports and agreements -/

/-- The line cipher's commands (R288, R289, R292, R297), with LCIPH_RES not PENDING. INSTALL places the key staged in the LCIPH_KEY registers, which it
clears, into an EMPTY slot; a slot in use is answered BUSY, a transmit epoch that is not beyond the pair's greatest REFUSED_POLICY. SWITCH of a READY
transmit slot shows PENDING. RETIRE empties a receive slot, and ERASE both slots of a pair. Each that ends posts its code and sets BLK_EVT.DONE, and no slot
of another pair changes. A command written while one is PENDING is ignored. The life of a retiring key (R292). KEY_RETIREMENT erases a RETIRING transmit key
that is covered and 125 ticks and two round trips old, and tells the far Mirder; with none it sends again what is not acknowledged. KEY_RETIRE empties the
receive slot that holds the epoch it names and is acknowledged; a repeat is only acknowledged. The acknowledgement ends the sending again. -/
def Obligations.LineKeys : Prop :=
  (∀ (w : Win) (v : Word) (s : State), live s = true → mayWrite s w R.LCIPH_CMD = true →
     let md := bitsOf v.toNat 3 3
     let side := bitsOf v.toNat 4 4
     let dir := bitsOf v.toNat 6 5
     let slot := bitsOf v.toNat 7 7
     let old := keySlot s md side dir slot
     let epoch := regN s R.LCIPH_EPOCH
     let apart (u : State) := ∀ m sd d i, m < 2 → sd < 2 → d < 4 → i < 2 → (m, sd, d) ≠ (md, side, dir) → keySlot u m sd d i = keySlot s m sd d i
     let ends (u : State) (code : Nat) := regN u R.LCIPH_RES = code * 16 ∧ flag u (hdr pgLCIPH oEVT) 6 = true
     (flag s R.LCIPH_RES 0 = true → ∀ c, c = .install w v ∨ c = .switchKey w v ∨ c = .retire w v ∨ c = .erase w v → Effect c s s) ∧
     (flag s R.LCIPH_RES 0 = false →
       (∃ u, Effect (.install w v) s u ∧ apart u ∧ keySlot u md side dir (1 - slot) = keySlot s md side dir (1 - slot) ∧
         (∀ i, i < 8 → regN u (R.LCIPH_KEY0 + 4 * i) = 0) ∧ u.ciph.seals = s.ciph.seals ∧
         (old.state ≠ 0 → ends u cBUSY ∧ keySlot u md side dir slot = old) ∧
         (old.state = 0 → side = 0 → (∃ t, mapFind s.ciph.epochs (md * 4 + dir) = some t ∧ epoch ≤ t) → ends u cPOLICY ∧ keySlot u md side dir slot = old) ∧
         (old.state = 0 → side = 1 ∨ (∀ t, mapFind s.ciph.epochs (md * 4 + dir) = some t → t < epoch) → ends u cSERVED ∧
           keySlot u md side dir slot = { state := 1, key := keyBytes s R.LCIPH_KEY0, epoch := epoch } ∧
           (side = 0 → mapFind u.ciph.epochs (md * 4 + dir) = some epoch)) ∧
         u = { s with regs := u.regs, irq := u.irq, sent := u.sent, ciph := u.ciph }) ∧
       (∃ u, Effect (.switchKey w v) s u ∧ (side = 0 → old.state = 1 → regN u R.LCIPH_RES = 1 ∧ u.ciph = { s.ciph with switching := some (md, dir, slot) } ∧
           u = { s with regs := u.regs, ciph := u.ciph }) ∧
         (side = 0 → old.state = 3 → ends u cBUSY) ∧ (side = 1 ∨ (old.state ≠ 1 ∧ old.state ≠ 3) → ends u cPOLICY) ∧
         (side = 1 ∨ old.state ≠ 1 → u = { s with regs := u.regs, irq := u.irq, sent := u.sent })) ∧
       (∃ u, Effect (.retire w v) s u ∧ (side = 0 → ends u cPOLICY ∧ u.ciph = s.ciph) ∧
         (side = 1 → ends u cSERVED ∧ keySlot u md 1 dir slot = {} ∧ apart u ∧ keySlot u md 1 dir (1 - slot) = keySlot s md 1 dir (1 - slot)) ∧
         u = { s with regs := u.regs, irq := u.irq, sent := u.sent, ciph := u.ciph }) ∧
       (∃ u, Effect (.erase w v) s u ∧ ends u cSERVED ∧ keySlot u md side dir 0 = {} ∧ keySlot u md side dir 1 = {} ∧ apart u ∧
         flag u (hdr pgLCIPH oEVT) 4 = true ∧ u = { s with regs := u.regs, irq := u.irq, sent := u.sent, ciph := u.ciph }))) ∧
  (∀ (md : Fin 2) (dir : Fin 4) (s : State), live s = true →
     let msg (k : MsgKind) (l : List Nat) := Out.message k (linePort md.val) (expSite s md.val dir.val) 2 l []
     (∀ i, i < 2 → mayRetire s md.val dir.val i = true → (∀ j, j < i → mayRetire s md.val dir.val j = false) →
       let e := (keySlot s md.val 0 dir.val i).epoch
       ∃ u, Effect (.keyRetirement md dir) s u ∧ keySlot u md.val 0 dir.val i = {} ∧ flag u (hdr pgLCIPH oEVT) 1 = true ∧
         u.sent.getLast? = some (msg .keyRetire [dir.val, i, e]) ∧ u.ciph.retiring = s.ciph.retiring ++ [(md.val, dir.val, i, e)] ∧
         RegsKept s u (evtKeys pgLCIPH) [0x80] ∧ u = { s with regs := u.regs, irq := u.irq, sent := u.sent, ciph := u.ciph }) ∧
     (mayRetire s md.val dir.val 0 = false → mayRetire s md.val dir.val 1 = false → ∃ u, Effect (.keyRetirement md dir) s u ∧
       let again := (s.ciph.retiring.filter (fun r => r.1 == md.val && r.2.1 == dir.val)).map (fun r => msg .keyRetire [dir.val, r.2.2.1, r.2.2.2])
       u = { s with sent := s.sent ++ again }) ∧
     (∀ (i : Fin 2) (e : Word),
       let k := keySlot s md.val 1 dir.val i.val
       (k.state ≠ 0 → k.epoch = e.toNat → flag s R.LCIPH_RES 0 = false → ∃ u, Effect (.keyRetire md dir i e) s u ∧
         keySlot u md.val 1 dir.val i.val = {} ∧ regN u R.LCIPH_RES = cSERVED * 16 ∧ u.sent.getLast? = some (msg .keyRetireAck [dir.val, i.val, e.toNat]) ∧
         RegsKept s u ([R.LCIPH_RES] ++ evtKeys pgLCIPH) [0x80] ∧ u = { s with regs := u.regs, irq := u.irq, sent := u.sent, ciph := u.ciph }) ∧
       (k.state = 0 ∨ k.epoch ≠ e.toNat → ∃ u, Effect (.keyRetire md dir i e) s u ∧
         u = { s with sent := s.sent ++ [msg .keyRetireAck [dir.val, i.val, e.toNat]] }) ∧
       (∃ u, Effect (.keyRetireAck md dir i e) s u ∧
         u = { s with ciph := { s.ciph with retiring := s.ciph.retiring.erase (md.val, dir.val, i.val, e.toNat) } })))

/-- SEAL's key slots (R301, R428), with SEAL_RES not PENDING: an install into an EMPTY slot takes the key and its starting counter, and the registers that
carried them clear; a slot in use answers BUSY, the marked key without a start above its mark REFUSED_POLICY. An erasure empties the slot. A master from the
exchange keys every slot with the job's key of it, its counter beyond the slot's mark. Attestation reports and the proving of an image (R423, R425). While
SEC runs, a request is answered with the report of the state and its signature of 1,452 bytes, whose value is free, and counted; the fifth within 7,500,000
ticks, and one with no leaf left, is answered with the object that carries BUSY. An image in proof that has run 7,500,000 ticks since Mirder started is
proven, and the floor rises to its SVN. -/
def Obligations.SealKeysAndReports : Prop :=
  ((∀ (w : Win) (v : Word) (s : State), live s = true → mayWrite s w R.SEAL_CMD = true → flag s R.SEAL_RES 0 = false →
     let k := bitsOf v.toNat 6 4
     let key := keyBytes s R.SEAL_KEY0
     let start := reg64 s R.SEAL_CTR_LO R.SEAL_CTR_HI
     let m := sealMark s k
     (∃ u, Effect (.sealInstall w v) s u ∧ (∀ i, i < 10 → regN u (R.SEAL_KEY0 + 4 * i) = 0) ∧ flag u (hdr pgSEAL oEVT) 2 = true ∧
       ((sealSlot s k).isSome = true → regN u R.SEAL_RES = cBUSY * 16 ∧ u.ciph = s.ciph) ∧
       (sealSlot s k = none → m.1 = sha256 key → start ≤ m.2 → regN u R.SEAL_RES = cPOLICY * 16 ∧ u.ciph = s.ciph) ∧
       (sealSlot s k = none → m.1 ≠ sha256 key ∨ m.2 < start → regN u R.SEAL_RES = cSERVED * 16 ∧ sealSlot u k = some { key := key, ctr := start } ∧
         (m.1 ≠ sha256 key → sealMark u k = (sha256 key, start - 1)) ∧ (m.1 = sha256 key → u.ciph.marks = s.ciph.marks)) ∧
       (∀ j, j ≠ k → sealSlot u j = sealSlot s j ∧ sealMark u j = sealMark s j) ∧ u = { s with regs := u.regs, irq := u.irq, sent := u.sent, ciph := u.ciph }) ∧
     (∃ u, Effect (.sealErase w v) s u ∧ sealSlot u k = none ∧ (∀ j, j ≠ k → sealSlot u j = sealSlot s j) ∧ u.ciph.marks = s.ciph.marks ∧
       regN u R.SEAL_RES = cSERVED * 16 ∧ flag u (hdr pgSEAL oEVT) 1 = true ∧ flag u (hdr pgSEAL oEVT) 2 = true ∧
       u = { s with regs := u.regs, irq := u.irq, sent := u.sent, ciph := u.ciph })) ∧
   (∀ (master : List Byte) (s : State), live s = true → master.length = 32 → ∃ u, Effect (.sealMasterExchange master) s u ∧
     u.sec = { s.sec with master := some master } ∧
     (∀ k, k < 8 → sealSlot u k = some { key := jobSealKey master k, ctr := sealStart s k (jobSealKey master k) } ∧
       ((sealMark s k).1 = sha256 (jobSealKey master k) → (sealMark s k).2 < sealStart s k (jobSealKey master k))) ∧
     u = { s with sec := u.sec, ciph := u.ciph })) ∧
  ((∀ (nonce : List Byte) (s : State), live s = true → nonce.length = 32 →
     let recent := s.sec.reports.filter (fun t => decide (s.tick.now < t + 7500000))
     (secRuns s = false → Effect (.attestationRequest nonce) s s) ∧
     (secRuns s = true → 4 ≤ recent.length ∨ s.sec.attLeft = 0 → ∃ u, Effect (.attestationRequest nonce) s u ∧
       u = { s with sent := s.sent ++ [.doe busyObject] }) ∧
     (secRuns s = true → recent.length < 4 → s.sec.attLeft ≠ 0 → s.sec.attLeft ≠ 65 → ∃ u sig, Effect (.attestationRequest nonce) s u ∧
       sig.length = 1452 ∧ u.sent = s.sent ++ [.doe (reportBytes s nonce ++ sig)] ∧ u.sec = { s.sec with attLeft := s.sec.attLeft - 1, reports := s.tick.now :: recent } ∧
       regN u R.SEC_ATT_RPT = min 0xFFFFFFFF (regN s R.SEC_ATT_RPT + 1) ∧ RegsKept s u [R.SEC_ID, R.SEC_ATT, R.SEC_ATT_RPT] [] ∧
       u = { s with regs := u.regs, sent := u.sent, sec := u.sec, free := s.free + 1 })) ∧
   (∀ s : State, live s = true →
     let due := s.sec.proving = true ∧ ∃ t, s.sec.started = some t ∧ t + 7500000 ≤ s.tick.now
     let f := max s.sec.floor (((bootSlot s).mirder.map (·.svn)).getD 0)
     (¬due → Effect .imageProven s s) ∧
     (due → ∃ u, Effect .imageProven s u ∧ u.sec = { s.sec with proving := false, unproven := 0, floor := f } ∧
       fld u R.SEC_SVN 31 16 = f % 65536 ∧ flag u (hdr pgSEC oEVT) 5 = true ∧ RegsKept s u ([R.SEC_SVN] ++ evtKeys pgSEC) [0x80] ∧
       u = { s with regs := u.regs, irq := u.irq, sent := u.sent, sec := u.sec })))

/-- Line key agreement (R426, R427). A KEX_CERT whose chain verifies is kept as the direction's peer; one that does not fails. At Z, a KEX_INIT that
verifies, under an epoch beyond those of the pair, installs the receive key in an EMPTY slot and only then is answered; one that does not verify fails. At X,
a KEX_REPLY to the run under way that verifies installs the transmit key, switches to it and ends the run; one that does not fails; one under another epoch
does nothing. KEX_FAIL ends the run it names. A failure is counted and stamped with its tick. An agreement begins (R426, R427): at the rekey interval, for a
direction that is keyless with nothing under way, and 125,000 ticks after a failure; the direction is named in LFRM_EXP, and SEC and line delivery run.
KEX_INIT goes out under an epoch beyond every epoch of the pair. At any other moment nothing happens. -/
def Obligations.KeyAgreements : Prop :=
  (∀ (md : Fin 2) (dir : Fin 4) (s : State), live s = true →
     let k := md.val * 4 + dir.val
     let fails (u : State) := regN u R.SEC_KEX_FAIL = min 0xFFFFFFFF (regN s R.SEC_KEX_FAIL + 1) ∧ flag u (hdr pgSEC oEVT) 4 = true ∧
       mapFind u.sec.runs k = none ∧ mapFind u.sec.failed k = some s.tick.now ∧ u.ciph.keys = s.ciph.keys ∧
       u = { s with regs := u.regs, irq := u.irq, sent := u.sent, sec := u.sec, free := u.free }
     (∀ m : KexCert, ∃ u, Effect (.kexCert md dir m) s u ∧
       let good := (hssVerify (Config.rootKey 1) (m.idKey ++ bytesLE 8 m.serial.toNat) m.devCert
         && lmsVerify m.idKey (m.attKey ++ bytesLE 4 m.attGen.toNat) m.attCert) = true
       (secRuns s = false → u = s) ∧ (secRuns s = true → ¬good → fails u) ∧
       (secRuns s = true → good → mapFind u.sec.peers k = some { attKey := m.attKey, attGen := m.attGen.toNat } ∧ u = { s with sec := u.sec })) ∧
     (∀ m : KexInit, let e := m.epoch.toNat
       let good := (peerOk s md.val dir.val m.attGen.toNat m.arithRev.toNat m.owner (initBytes md.val dir.val m) m.signature
           && flag s (lf R.LFRM_EXP_A md.val + 4 * dir.val) 16 && fld s (lf R.LFRM_EXP_A md.val + 4 * dir.val) 7 0 == m.site.toNat) = true ∧
         (∀ i, i < 2 → (keySlot s md.val 1 dir.val i).state = 0 ∨ (keySlot s md.val 1 dir.val i).epoch < e)
       (secRuns s = false → Effect (.kexInit md dir m) s s) ∧
       (secRuns s = true → ¬good → ∃ u, Effect (.kexInit md dir m) s u ∧ fails u) ∧
       (∀ i, secRuns s = true → good → s.sec.attLeft ≠ 0 → s.sec.attLeft ≠ 65 → emptyKey s md.val 1 dir.val = some i → flag s R.LCIPH_RES 0 = false →
         ∃ u, Effect (.kexInit md dir m) s u ∧ (keySlot u md.val 1 dir.val i).state = 1 ∧ (keySlot u md.val 1 dir.val i).epoch = e ∧
           regN u R.SEC_KEX = min 0xFFFFFFFF (regN s R.SEC_KEX + 1) ∧ u.sec.attLeft = s.sec.attLeft - 1 ∧
           (∃ d, u.sent.getLast? = some (.message .kexReply (linePort md.val) (expSite s md.val dir.val) 2 [e, s.sec.attGen] d)))) ∧
     (∀ m : KexReply,
       (mapFind s.sec.runs k = none ∨ (∃ r, mapFind s.sec.runs k = some r ∧ r.epoch ≠ m.epoch.toNat) → Effect (.kexReply md dir m) s s) ∧
       (∀ r, mapFind s.sec.runs k = some r → r.epoch = m.epoch.toNat →
         let good := (peerOk s md.val dir.val m.attGen.toNat m.arithRev.toNat m.owner (replyBytes m) m.signature && m.init == sha256 r.init) = true
         (¬good → ∃ u, Effect (.kexReply md dir m) s u ∧ fails u) ∧
         (∀ i, good → emptyKey s md.val 0 dir.val = some i → flag s R.LCIPH_RES 0 = false → (∀ t, mapFind s.ciph.epochs k = some t → t < r.epoch) →
           ∃ u, Effect (.kexReply md dir m) s u ∧ (keySlot u md.val 0 dir.val i).state = 1 ∧ (keySlot u md.val 0 dir.val i).epoch = r.epoch ∧
             u.ciph.switching = some (md.val, dir.val, i) ∧ mapFind u.sec.runs k = none ∧ regN u R.SEC_KEX = min 0xFFFFFFFF (regN s R.SEC_KEX + 1)))) ∧
     (∀ (e : Word) (b : Byte),
       ((∃ r, mapFind s.sec.runs k = some r ∧ r.epoch = e.toNat) → ∃ u, Effect (.kexFail md dir e b) s u ∧ fails u) ∧
       (¬(∃ r, mapFind s.sec.runs k = some r ∧ r.epoch = e.toNat) → Effect (.kexFail md dir e b) s s))) ∧
  (∀ (c : Instr) (md : Fin 2) (dir : Fin 4) (s : State), live s = true →
     let k := md.val * 4 + dir.val
     let due := kexMay s md.val dir.val = true ∧
       ((c = .kexRetry md dir ∧ ∃ t, mapFind s.sec.failed k = some t ∧ t + 125000 ≤ s.tick.now) ∨
        (c = .rekeyInterval md dir ∧ mapFind s.sec.failed k = none ∧
          ((∀ t, mapFind s.sec.began k = some t → t + 125000 * fld s R.LCIPH_REKEY_S 15 0 ≤ s.tick.now) ∨
           ((∀ i, i < 2 → (keySlot s md.val 0 dir.val i).state ≠ 2) ∧ mapFind s.sec.runs k = none ∧
             ∀ a b i, s.ciph.switching = some (a, b, i) → ¬(a = md.val ∧ b = dir.val)))))
     (due → s.sec.attLeft ≠ 0 → s.sec.attLeft ≠ 65 → mapGet 0 s.ciph.epochs k < 0xFFFFFFFF → ∃ u r, Effect c s u ∧
       mapFind u.sec.runs k = some r ∧ mapGet 0 s.ciph.epochs k < r.epoch ∧ r.epoch < 2 ^ 32 ∧ mapFind u.sec.began k = some s.tick.now ∧
       mapFind u.sec.failed k = none ∧ u.sec.attLeft = s.sec.attLeft - 1 ∧
       u.sent = s.sent ++ [.message .kexInit (linePort md.val) (expSite s md.val dir.val) 2 [r.epoch, s.sec.attGen] r.init] ∧
       RegsKept s u [R.SEC_ID, R.SEC_ATT] [] ∧ u = { s with regs := u.regs, sent := u.sent, sec := u.sec, free := u.free }) ∧
     (c = .kexRetry md dir ∨ c = .rekeyInterval md dir → ¬due → Effect c s s))

/-! ### The line: frames, delivery and lanes -/

/-- LINE_FRAME_TX (R239 to R242, R286, R291, R314), where the privileged block is void and no load may be carried. A module that may not send lets the
position pass. Without a CURRENT key a CLEAR frame of zeros goes out; with one, the sealed frame: pennant, ciphertext, tag and ACK_MAP under the nonce of
site, channel, epoch and sequence; and the key's count of sealed frames grows. The sequence advances by one. While the receive side is in defect or not in
SYNC the serial ports send mark at the position, counted, whether or not a frame goes out (R250, R253). -/
def Obligations.LineTransmits : Prop :=
  ∀ (md : Fin 2) (sc : Byte) (s : State), live s = true →
    let m := lineMod s md.val
    let q := m.seq
    let dir := (ocuMod s md.val).txDir
    let site := fld s (lf R.LFRM_TX_ID md.val) 7 0
    let chan := if q % 8 = 0 then fld s (lf R.LFRM_TX_ID md.val) 15 8 else m.chan
    let rdi := lineDefect s md.val
    let out := match scChannel q with | some ch => if scEnabled s md.val ch = true then sc else 0 | none => 0
    let zeros := List.replicate (64 * lineSlots s md.val) (0 : Byte) ++ List.replicate (loadLen s md.val) 0
    (mayTransmit s md.val = false → ∃ u, Effect (.lineFrameTx md sc) s u ∧ 
      u = idleSc (putLine s md.val { m with pos := m.pos + 1 }) md.val (s.tick.now * lineFrames s md.val + m.pos)) ∧
    (∀ n : Nat, idleSc s md.val n = (match scChannel n with
      | some ch => if scEnabled s md.val ch = true ∧ (rdi = true ∨ m.delin ≠ 2) then scMark s md.val ch else s
      | none => s)) ∧
    (mayTransmit s md.val = true → s.ciph.switching = none → (if q % 8 = 0 then blockVoid s md.val = true else m.block.void = true) →
      ctxFrozen s md.val dir = true ∨ (blkState s pgLDLV ≠ bRUN ∧ blkState s pgLDLV ≠ bDRAINING) → ∃ u, Effect (.lineFrameTx md sc) s u ∧
        (lineMod u md.val).seq = (q + 1) % 2 ^ 48 ∧ (lineMod u md.val).pos = m.pos + 1 ∧
        (currentKey s md.val dir = none → Out.line md.val (pennantBytes true site chan 0 rdi q s.tick.now ++ zeros
          ++ trailerBytes (List.replicate 16 0) (List.replicate 40 0) out) ∈ u.sent.drop s.sent.length) ∧
        (∀ i, currentKey s md.val dir = some i → (keySlot s md.val 0 dir i).sealed + 1 < 0xE0000000 →
          let k := keySlot s md.val 0 dir i
          let pen := pennantBytes false site chan i rdi q s.tick.now
          let x := gcmSeal k.key (lineIv site chan k.epoch q) (pen ++ ackMap s md.val dir none) zeros
          Out.line md.val (pen ++ x.1 ++ trailerBytes x.2 (ackMap s md.val dir none) out) ∈ u.sent.drop s.sent.length ∧
            keySlot u md.val 0 dir i = { k with sealed := k.sealed + 1, last := q }) ∧
        u = { s with regs := u.regs, sent := u.sent, line := u.line, ciph := u.ciph })

/-- LINE_FRAME_RX (R245 to R249, R294). Out of RUN and in LOS nothing is examined. Hunting, the first well-formed pennant begins to confirm the boundary; the
third in step reaches SYNC, which ends LOF. In SYNC a position whose pennant is bad is counted, and the fifth in a row declares LOF; a CLEAR frame, where the
direction is keyless and allowed, shows its pennant, is counted, and becomes the latest frame reported. -/
def Obligations.LineReceives : Prop :=
  ∀ (md : Fin 2) (bs : List Byte) (s : State), live s = true → bs ≠ [] →
    let m := lineMod s md.val
    let b := m.buf ++ bs
    let dir := (ocuMod s md.val).rxDir
    (inRun s (pgLFRM md.val) = false ∨ m.los = true → Effect (.lineFrameRx md bs) s s) ∧
    (inRun s (pgLFRM md.val) = true → m.los = false → m.delin = 0 → huntFrom b 0 = none → ∃ u, Effect (.lineFrameRx md bs) s u ∧
      u = putLine s md.val { m with buf := b.drop (b.length - 15) }) ∧
    (∀ i, inRun s (pgLFRM md.val) = true → m.los = false → m.delin = 0 → huntFrom b 0 = some i → b.length < i + 10016 →
      ∃ u, Effect (.lineFrameRx md bs) s u ∧ pennantOk (b.drop i) = true ∧
        u = putLine s md.val { m with buf := b.drop i, delin := 1, count := 1, expect := (pennantSeq (b.drop i) + 1) % 2 ^ 48 }) ∧
    (inRun s (pgLFRM md.val) = true → m.los = false → m.delin = 1 → m.count = 2 → 20016 ≤ b.length → b.length < 30000 →
      pennantOk (b.drop 20000) = true → pennantSeq (b.drop 20000) = m.expect → ∃ u, Effect (.lineFrameRx md bs) s u ∧
        (lineMod u md.val).delin = 2 ∧ (lineMod u md.val).lof = false ∧ (lineMod u md.val).expect = m.expect ∧ flag u (hdr (pgLFRM md.val) oEVT) 0 = true) ∧
    (inRun s (pgLFRM md.val) = true → m.los = false → m.delin = 2 → b.length = 10000 → m.rblock.void = true → m.expect % 8 < 7 →
      m.rblock.base = m.expect - m.expect % 8 → m.rblock.frames.length = m.expect % 8 → scChannel m.expect = none → s.store.ecc = [] →
      let good := pennantOk b = true ∧ pennantSeq b = m.expect
      (¬good → ∃ u, Effect (.lineFrameRx md bs) s u ∧ (lineMod u md.val).expect = (m.expect + 1) % 2 ^ 48 ∧
        regN u (lf R.LFRM_PENN_ERR md.val) = min 0xFFFFFFFF (regN s (lf R.LFRM_PENN_ERR md.val) + 1) ∧
        (m.badRun ≠ 4 → (lineMod u md.val).badRun = m.badRun + 1 ∧ (lineMod u md.val).delin = 2 ∧ (lineMod u md.val).lof = m.lof) ∧
        (m.badRun = 4 → (lineMod u md.val).delin = 0 ∧ (lineMod u md.val).lof = true ∧ inFault u (pgLFRM md.val) = true)) ∧
      (good → flag s (lf R.LFRM_EXP_A md.val + 4 * dir) 16 = false → beAt b 0 1 / 16 = 1 → keylessRx s md.val dir = true →
        flag s R.LCIPH_CLEAR_OK (4 * md.val + dir) = true → ∃ u, Effect (.lineFrameRx md bs) s u ∧
          (lineMod u md.val).expect = (m.expect + 1) % 2 ^ 48 ∧ (lineMod u md.val).badRun = 0 ∧ (lineMod u md.val).rxSeq = m.expect ∧
          regN u (lf R.LFRM_RX_ID md.val) = beAt b 1 1 + beAt b 2 1 * 256 + 0x110000 + beAt b 3 1 % 2 * 0x1000000 ∧
          (lineCtx u md.val dir).top = some (m.expect, beAt b 10 2, s.tick.now) ∧
          regN u R.LCIPH_CLEAR_RX = min 0xFFFFFFFF (regN s R.LCIPH_CLEAR_RX + 1)))

/-- The line's timers and bins (R249, R257, R270, R272, R274). A re-acquisition that has not reached SYNC within six ticks declares LOF. The second that
ended ten seconds ago is entered once. CLEAR_CUR zeroes the current bins, which are then suspect. An expired timer of a load that the far end has passed
makes the load due, of another is set anew; none runs while the context is frozen. Loads unsettled for LDLV_ABANDON ticks are dropped. The load held next in
turn is released when cells suffice. Lanes (R279 to R282) and links between dies (R45, R46). A loss of lock counts; an ACTIVE lane goes DOWN with
LANE_DEGRADE, a held lane stays, and the fifth loss within 1,250,000 ticks holds the lane. A lane that regains lock, or whose hold has run out, is DEGRADED.
LDLV_LANE_CMD returns the receive lanes it names that are DEGRADED and no other. A LANE message waits for its tick. A link that narrows shows HALF at its end
and raises D2D_DEGRADE. -/
def Obligations.LineTimersAndLanes : Prop :=
  (∀ (md : Fin 2) (dir : Fin 4) (s : State), live s = true →
     let m := lineMod s md.val
     let c := lineCtx s md.val dir.val
     (m.steer = none ∨ (∃ t, m.steer = some t ∧ s.tick.now < t + 6) → Effect (.reacquireTimeout md) s s) ∧
     (∀ t, m.steer = some t → t + 6 ≤ s.tick.now →
       (m.lof = true → ∃ u, Effect (.reacquireTimeout md) s u ∧ u = putLine s md.val { m with steer := none }) ∧
       (m.lof = false → s.store.ecc = [] → ∃ u, Effect (.reacquireTimeout md) s u ∧ (lineMod u md.val).lof = true ∧
         (lineMod u md.val).delin = 0 ∧ (lineMod u md.val).steer = none ∧ inFault u (pgLFRM md.val) = true ∧
         regN u (lf R.LFRM_LOF_CNT md.val) = min 0xFFFFFFFF (regN s (lf R.LFRM_LOF_CNT md.val) + 1))) ∧
     (secOf s.tick.counter < m.pm.next + 11 → Effect (.secondClassify md) s s) ∧
     (m.pm.next + 11 ≤ secOf s.tick.counter → ∃ u, Effect (.secondClassify md) s u ∧ (lineMod u md.val).pm.next = m.pm.next + 1 ∧
       (∀ x ∈ (lineMod u md.val).pm.secs, m.pm.next < x.sec) ∧
       (∀ b, m.pm.quarter = some b → m.pm.unavail = false → b.counts.length = 12 → (m.pm.next + 1) % 900 ≠ 0 → isSes (pmOf m.pm.secs m.pm.next) = false →
         ∃ b', (lineMod u md.val).pm.quarter = some b' ∧
           nthD 0 b'.counts 0 = min 0xFFFFFFFF (nthD 0 b.counts 0 + ofBool ((pmOf m.pm.secs m.pm.next).eb != 0)) ∧ nthD 0 b'.counts 1 = min 0xFFFFFFFF (nthD 0 b.counts 1))) ∧
     (∀ w, mayWrite s w (lf R.LFRM_PM_CMD md.val) = true → ∃ u, Effect (.clearCur w md) s u ∧
       (∀ b, (lineMod u md.val).pm.quarter = some b ∨ (lineMod u md.val).pm.day = some b → b.counts = List.replicate 12 0 ∧ b.suspect = true) ∧
       (lineMod u md.val).pm.quarters = m.pm.quarters ∧ (lineMod u md.val).pm.days = m.pm.days ∧ u = { s with line := u.line }) ∧
     (ctxFrozen s md.val dir.val = true → Effect (.rtoExpire md dir) s s) ∧
     (ctxFrozen s md.val dir.val = false → ∃ u, Effect (.rtoExpire md dir) s u ∧ (lineCtx u md.val dir.val).loads.length = c.loads.length ∧
       (∀ (i : Nat) (l : LineLoad), c.loads[i]? = some l → (lineCtx u md.val dir.val).loads[i]? = some (
         if l.due = 0 ∧ l.expiry ≤ s.tick.now then
           (if c.report.any (fun a => !later48 (nthD 0 l.seqs 0) a) = true then { l with due := 2 } else { l with expiry := s.tick.now + rto s md.val dir.val })
         else l)) ∧ u = { s with line := u.line }) ∧
     (s.store.ecc = [] → let lim := fld s (keyB R.LDLV_ABANDON md.val) 23 0
       ∃ u, Effect (.loadAbandon md dir) s u ∧ (∀ l ∈ (lineCtx u md.val dir.val).loads, l ∈ c.loads ∧ s.tick.now < l.start + lim) ∧
         (∀ l ∈ c.loads, l.start + lim ≤ s.tick.now → inFault u pgLDLV = true) ∧
         ((∀ l ∈ c.loads, s.tick.now < l.start + lim) → u = s)) ∧
     ((∀ h ∈ c.held, h.num ≠ c.n) → c.n < 2 ^ 48 → Effect (.heldLoadRelease md dir) s s) ∧
     (∀ h b, c.held = [h] → h.num = c.n → c.part = [] → c.skipped = false → readPieces s (heldAddr s h) (loadLen s md.val) = (some b, s) → b.head? = some 0 →
       inRun s pgSW = true → cellRsv s ≤ freeCells s (portHoist (linePort md.val)) → ∃ u, Effect (.heldLoadRelease md dir) s u ∧
         (lineCtx u md.val dir.val).n = (c.n + 1) % 2 ^ 48 ∧ (lineCtx u md.val dir.val).held = [])) ∧
  ((∀ (p : Fin 6) (l : Fin 4) (rx : Bool) (s : State), live s = true → s.store.ecc = [] →
     let st := laneState s p.val l.val rx
     let k := laneKey p.val l.val rx
     let lost := ((mapGet [] s.line.losses k).filter (fun t => decide (s.tick.now < t + 1250000))).length
     (∃ u, Effect (.laneLockLoss p l rx) s u ∧ regN u (keyB R.LDLV_FLAPS p.val) = min 0xFFFFFFFF (regN s (keyB R.LDLV_FLAPS p.val) + 1) ∧
       (st = 3 → laneState u p.val l.val rx = 3) ∧
       (st ≠ 3 → lost < 4 → laneState u p.val l.val rx = 2) ∧
       (st ≠ 3 → 4 ≤ lost → laneState u p.val l.val rx = 3 ∧ mapFind u.line.holds k = some (s.tick.now + 7500000)) ∧
       (st = 0 → inFault u pgLDLV = true)) ∧
     (∃ u, Effect (.laneLockRegain p l rx) s u ∧ laneState u p.val l.val rx = (if st = 2 then 1 else st) ∧ (st ≠ 2 → u = s) ∧
       RegsKept s u [keyB R.LDLV_LANE p.val] []) ∧
     (∃ u, Effect (.laneHoldExpire p l rx) s u ∧
       (∀ t, st = 3 → mapFind s.line.holds k = some t → t ≤ s.tick.now → laneState u p.val l.val rx = 1 ∧ mapFind u.line.holds k = none) ∧
       (st ≠ 3 ∨ mapFind s.line.holds k = none → u = s))) ∧
   (∀ (w : Win) (v : Word) (s : State), live s = true → mayWrite s w R.LDLV_LANE_CMD = true →
     let p := fld s R.LDLV_IDX 2 0
     ∃ u, Effect (.ldlvLaneCmdWrite w v) s u ∧ (∀ l, l < 4 → laneState u p l true =
       if bitOf v.toNat l = true ∧ laneState s p l true = 1 ∧ s.line.failed.contains (laneKey p l true) = false then 0 else laneState s p l true) ∧
       (∀ l, l < 4 → laneState u p l false = laneState s p l false) ∧
       (∀ l, l < 4 → bitOf v.toNat l = true → laneState s p l false = 1 → s.line.failed.contains (laneKey p l false) = false →
         u.line.returns.contains (laneKey p l false) = true)) ∧
   (∀ (md : Fin 2) (n : Fin 5) (t : DWord) (s : State), live s = true → ∃ u, Effect (.laneMessage md n t) s u ∧
     u = putLine s md.val { lineMod s md.val with farNext := (lineMod s md.val).farNext ++ [(t.toNat, n.val)] }) ∧
   (∀ (d : Fin 8) (l : Fin 3) (s : State), live s = true → s.store.ecc = [] → ∃ u, Effect (.d2dLinkDegrade d l) s u ∧
     fld u (R.FLD_D2D_STAT + 0x1000 * d.val) (8 * l.val + 1) (8 * l.val) = 3 ∧ inFault u (0x10 + d.val) = true ∧ RegsKept s u [] ([0x80, 0x81] ++ fldPages)))

/-- R240. HCHK and TCRC are the CRC with generator 0x1EDC_6F41, input and output reflected, from all ones and inverted at the end; over "123456789" it is
0xE306_9283; a pennant is its first twelve bytes with theirs, and a trailer its first sixty with theirs, most significant byte first. -/
def Obligations.LineChecks : Prop :=
  let reflected (n x : Nat) := ((BitVec.ofNat n x).reverse).toNat
  let sent (x : Nat) := [BitVec.ofNat 8 (x / 2 ^ 24), BitVec.ofNat 8 (x / 2 ^ 16), BitVec.ofNat 8 (x / 2 ^ 8), BitVec.ofNat 8 x]
  (∀ bs : List Byte, crc32c bs = Nat.xor (reflected 32 (crcFwd 32 0x1EDC6F41 0xFFFFFFFF (bs.map BitVec.reverse))) 0xFFFFFFFF) ∧
  crc32c [0x31, 0x32, 0x33, 0x34, 0x35, 0x36, 0x37, 0x38, 0x39] = 0xE3069283 ∧
  (∀ (clear rdi : Bool) (site chan slot q n : Nat), ∃ b : List Byte, b.length = 12 ∧ pennantBytes clear site chan slot rdi q n = b ++ sent (crc32c b)) ∧
  (∀ (tag ack : List Byte) (sc : Byte), tag.length = 16 → ack.length = 40 → ∃ b : List Byte, b.length = 60 ∧ trailerBytes tag ack sc = b ++ sent (crc32c b))

/-! ### Regions and pools -/

/-- The region table's commands (R161, R162). READ shows the entry of REG_IDX in the shadow registers. WRITE of an entry that is out of its bounds, or that
meets another valid one, is refused and shows the other's index; one that would move a range in use is answered BUSY; any other waits for the boundary,
PENDING, and the table in force stays. REG_OUTER_GATE takes its bit, but does not open while the site is DIPPED, and Mirder opens it only in the cases of
R161. The patrol scrub (R166): nothing while the
stack's block is out of RUN; else the next access of the stack is read. With no error in it the position advances, starting afresh and counting a pass at the
stack's end; a correctable error in it is corrected, and no byte changes. -/
def Obligations.RegionsAndScrub : Prop :=
  ((∀ (w : Win) (s : State), live s = true → mayWrite s w R.REG_CMD = true → flag s R.REG_RES 0 = false →
     let i := fld s R.REG_IDX 5 0
     let r := shadowEntry s
     (EntryFits (entryAt s i) → ∃ u, Effect (.regionRead w) s u ∧ shadowEntry u = entryAt s i ∧ u = { s with regs := u.regs } ∧
       RegsKept s u [R.REG_LBASE_LO, R.REG_LBASE_HI, R.REG_LEN_LO, R.REG_LEN_HI, R.REG_PHYS_LO, R.REG_PHYS_HI, R.REG_ATTR, R.REG_ACCESS] []) ∧
     (r.valid = true → entryOk1 s i r = false → ∃ u, Effect (.regionWrite w) s u ∧ regN u R.REG_RES = cPOLICY * 16 ∧ flag u (hdr pgREG oEVT) 1 = true ∧
       RegsKept s u ([R.REG_RES] ++ evtKeys pgREG) [0x80] ∧ u = { s with regs := u.regs, irq := u.irq, sent := u.sent }) ∧
     (∀ c, r.valid = true → entryOk1 s i r = true → overlapWith s i r = some c → c < 64 → ∃ u, Effect (.regionWrite w) s u ∧
       regN u R.REG_RES = cPOLICY * 16 + c * 256 ∧ flag u (hdr pgREG oEVT) 1 = true ∧ u = { s with regs := u.regs, irq := u.irq, sent := u.sent }) ∧
     (r.valid = false ∨ (entryOk1 s i r = true ∧ overlapWith s i r = none) → entryBusy s (entryAt s i) r = true →
       ∃ u, Effect (.regionWrite w) s u ∧ regN u R.REG_RES = cBUSY * 16 ∧ u.regn = s.regn) ∧
     (r.valid = false ∨ (entryOk1 s i r = true ∧ overlapWith s i r = none) → entryBusy s (entryAt s i) r = false →
       ∃ u, Effect (.regionWrite w) s u ∧ regN u R.REG_RES = 1 ∧ RegsKept s u [R.REG_RES] [] ∧
         u = { s with regs := u.regs, regn := { s.regn with change := some (i, r) } })) ∧
   (∀ (w : Win) (v : Word) (s : State), live s = true → mayWrite s w R.REG_OUTER_GATE = true →
     (bitOf v.toNat 0 = true → siteState s ≠ sDIPPED → w = .core → gateMay s = false → Effect (.outerGateWrite w v) s s) ∧
     (bitOf v.toNat 0 = true → siteState s = sDIPPED → ∃ u, Effect (.outerGateWrite w v) s u ∧ flag u (hdr pgSITE oEVT) 4 = true ∧
       RegsKept s u (evtKeys pgSITE) [0x80] ∧ u = { s with regs := u.regs, irq := u.irq, sent := u.sent }) ∧
     (bitOf v.toNat 0 = false ∨ ((w ≠ .core ∨ gateMay s = true) ∧ siteState s ≠ sDIPPED) → ∃ u, Effect (.outerGateWrite w v) s u ∧ flag u R.REG_OUTER_GATE 0 = bitOf v.toNat 0 ∧
       RegsKept s u [R.REG_OUTER_GATE] [] ∧ u = { s with regs := u.regs }))) ∧
  (∀ (i : Fin 16) (s : State), live s = true →
     let pos := mapGet 0 s.store.scrub i.val
     let k := hbmKey (i.val / 2) (physOf i.val (pos * 64))
     let reg := R.HBM_SCRUB_POS + i.val * 0x1000
     (inRun s (0x20 + i.val) = false → Effect (.patrolScrub i) s s) ∧
     (inRun s (0x20 + i.val) = true → eccWords s k 64 = [] → pos + 1 ≠ stackAccesses → pos < stackAccesses → ∃ u, Effect (.patrolScrub i) s u ∧
       mapGet 0 u.store.scrub i.val = pos + 1 ∧ fld u reg 15 0 = (pos + 1) * 65536 / stackAccesses ∧ fld u reg 31 16 = fld s reg 31 16 ∧
       RegsKept s u [reg] [] ∧ u = { s with regs := u.regs, store := { s.store with scrub := u.store.scrub } }) ∧
     (inRun s (0x20 + i.val) = true → eccWords s k 64 = [] → pos + 1 = stackAccesses → ∃ u, Effect (.patrolScrub i) s u ∧
       mapGet 0 u.store.scrub i.val = 0 ∧ fld u reg 31 16 = (fld s reg 31 16 + 1) % 65536 ∧ fld u reg 15 0 = 0 ∧ flag u (hdr (0x20 + i.val) oEVT) 4 = true) ∧
     (∀ w, inRun s (0x20 + i.val) = true → s.store.ecc = [(w, .ce)] → eccWords s k 64 = [(w, .ce)] → inRun s 0x81 = false → ∃ u, Effect (.patrolScrub i) s u ∧
       u.store.ecc = [] ∧ u.mem = s.mem ∧ mapGet 0 u.store.scrub i.val = (if pos + 1 = stackAccesses then 0 else pos + 1)))

/-- The pools' commands in RUN (R171 to R173, R176), in P0 with no error of storage listed. ALLOC of a pool whose segment has a good link word at its head
takes the head: its reference count is the one given, the head is the link's buffer, FREE falls by one. With every segment it may fall back on empty it is
answered BUSY and counted. ADDREF of a buffer in use raises its count, at most to 255. RELEASE lowers it; the last one puts the buffer at the head of its
free list. QUERY shows count and state and writes no storage. Rebuilding a segment (R176). REBUILD shows REBUILDING, and no allocation is served from the
segment till it ends. When a segment of P0's has been rebuilt, FROZEN and REBUILDING clear, every cell that is free in a row in use stands in the list, in
rising order, and FREE counts them. And POOL_CMD out of RUN is answered without effect: BUSY in STARTING, REFUSED_POLICY in OFF and FAULT (R177). -/
def Obligations.Pools : Prop :=
  (∀ (w : Win) (v : Word) (s : State), live s = true → mayWrite s w R.POOL_CMD = true → flag s R.POOL_RES 0 = false → inRun s 0x48 = true →
     s.pwr.state = 0 → s.store.ecc = [] →
     let p := bitsOf v.toNat 10 8
     let sg := bitsOf v.toNat 13 11
     let n := bitsOf v.toNat 21 14
     let g := segHead s p sg
     let h := regN s R.POOL_ARG
     (n = 0 ∨ p = 0 ∨ 4 < p → ∃ u, Effect (.alloc w v) s u ∧ regN u R.POOL_RES = cPOLICY * 16 ∧ RegsKept s u [R.POOL_RES] [] ∧ u = { s with regs := u.regs }) ∧
     (∀ next, n ≠ 0 → p ≠ 0 → p ≤ 4 → g ≠ endHandle → segFrozen s p sg = false → segRebuilding s p sg = false → handleOk s g = true →
       hPool g = p → hSeg g = sg → linkRead s g = (some next, s) → next < 2 ^ 32 → CountWritable s g → ∃ u, Effect (.alloc w v) s u ∧
         regN u R.POOL_RES_HANDLE = g ∧ fld u R.POOL_RES 7 4 = cSERVED ∧ segHead u p sg = next ∧ segFree u p sg = segFree s p sg - 1 ∧
         refCount u g = some n ∧ u = { s with regs := u.regs, mem := u.mem, pool := u.pool }) ∧
     (n ≠ 0 → p ≠ 0 → p ≤ 4 → (∀ k, p ≤ k → k ≤ 4 → segHead s k sg = endHandle) → ∃ u, Effect (.alloc w v) s u ∧ regN u R.POOL_RES = cBUSY * 16 ∧
       regN u R.POOL_EMPTY = min 0xFFFFFFFF (regN s R.POOL_EMPTY + 1) ∧ u.mem = s.mem ∧ u.pool = s.pool) ∧
     (∀ c, handleOk s h = true → refCount s h = some c → n ≠ 0 → c ≠ 0 → CountWritable s h →
       (c + n ≤ 255 → ∃ u, Effect (.addref w v) s u ∧ fld u R.POOL_RES 7 4 = cSERVED ∧ fld u R.POOL_RES 15 8 = c + n ∧ refCount u h = some (c + n)) ∧
       (255 < c + n → ∃ u, Effect (.addref w v) s u ∧ fld u R.POOL_RES 7 4 = cPOLICY ∧ u.pool = s.pool ∧ inFault u 0x48 = true ∧ regN u R.POOL_LAST_BAD = h)) ∧
     (∀ c, handleOk s h = true → segRebuilding s (hPool h) (hSeg h) = false → refCount s h = some c → CountWritable s h →
       (2 ≤ c → c ≤ 255 → ∃ u, Effect (.release w v) s u ∧ fld u R.POOL_RES 7 4 = cSERVED ∧ refCount u h = some (c - 1) ∧
         segHead u (hPool h) (hSeg h) = segHead s (hPool h) (hSeg h)) ∧
       (c = 1 → segFrozen s (hPool h) (hSeg h) = false → rowRetired s h = false → ∃ u, Effect (.release w v) s u ∧ fld u R.POOL_RES 7 4 = cSERVED ∧
         segHead u (hPool h) (hSeg h) = h ∧ segFree u (hPool h) (hSeg h) = (segFree s (hPool h) (hSeg h) + 1) % 2 ^ 26) ∧
       (c = 0 → ∃ u, Effect (.release w v) s u ∧ fld u R.POOL_RES 7 4 = cPOLICY ∧ regN u R.POOL_DFREE = min 0xFFFFFFFF (regN s R.POOL_DFREE + 1) ∧
         inFault u 0x48 = true ∧ u.pool = s.pool)) ∧
     (∀ c, handleOk s h = true → refCount s h = some c → c ≤ 255 → ∃ u, Effect (.query w v) s u ∧
       regN u R.POOL_RES = c * 256 + ofBool (decide (1 ≤ c)) * 65536 ∧ RegsKept s u [R.POOL_RES] [] ∧ u = { s with regs := u.regs }) ∧
     (handleOk s h = false → ∃ u, Effect (.query w v) s u ∧ regN u R.POOL_RES = cPOLICY * 16 ∧ inFault u 0x48 = true ∧ u.pool = s.pool)) ∧
  ((∀ (w : Win) (v : Word) (s : State), live s = true → mayWrite s w R.POOL_CMD = true → flag s R.POOL_RES 0 = false → inRun s 0x48 = true → s.pwr.state = 0 →
     let p := bitsOf v.toNat 10 8
     let sg := bitsOf v.toNat 13 11
     (p ≤ 4 → segCount s p sg ≠ 0 → ∃ u, Effect (.rebuild w v) s u ∧ segRebuilding u p sg = true ∧ regN u R.POOL_RES = cSERVED * 16 ∧
       RegsKept s u [R.POOL_RES, segReg R.POOL_SEG_FREE p sg] [] ∧ u = { s with regs := u.regs }) ∧
     (4 < p ∨ segCount s p sg = 0 → ∃ u, Effect (.rebuild w v) s u ∧ regN u R.POOL_RES = cPOLICY * 16 ∧ RegsKept s u [R.POOL_RES] [] ∧ u = { s with regs := u.regs })) ∧
   (∀ (p : Fin 5) (sg : Fin 8) (s : State), live s = true → segRebuilding s p.val sg.val = false → Effect (.rebuildDone p sg) s s) ∧
   (∀ (sg : Fin 8) (s : State), live s = true → sg.val < 2 → segRebuilding s 0 sg.val = true → s.pool.waiting = [] → ∃ u, Effect (.rebuildDone 0 sg) s u ∧
     segRebuilding u 0 sg.val = false ∧ segFrozen u 0 sg.val = false ∧ flag u (hdr 0x48 oEVT) 4 = true ∧
     segHead u 0 sg.val = p0From s sg.val (p0Kept s sg.val) 0 ∧ segFree u 0 sg.val = segCount s 0 sg.val - (p0Kept s sg.val).length ∧
     u.pool.p0 = s.pool.p0 ∧ u.mem = s.mem) ∧
   (∀ (c : Instr) (w : Win) (v : Word) (s : State), live s = true → mayWrite s w R.POOL_CMD = true → flag s R.POOL_RES 0 = false →
     c = .alloc w v ∨ c = .addref w v ∨ c = .release w v ∨ c = .query w v ∨ c = .rebuild w v →
     blkState s 0x48 = bSTARTING ∨ blkState s 0x48 = bOFF ∨ blkState s 0x48 = bFAULT → ∃ u, Effect c s u ∧
       fld u R.POOL_RES 7 4 = (if blkState s 0x48 = bSTARTING then cBUSY else cPOLICY) ∧ RegsKept s u [R.POOL_RES] [] ∧ u = { s with regs := u.regs }))

/-! ### Optics and steering -/

/-- The Semaphore frames (R306 to R308, R313). A command frame goes out for each of the eight frames of a tick while the OCU runs and a module is there;
frame 0 carries the GO bits that are due, and the sides take their directions with it. A monitor frame that fails is counted, and the fourth in a row takes
the port DOWN with SEM_LOSS; one that passes while the port is DOWN counts towards the 64 that bring it UP; with the port UP it shows its readings. -/
def Obligations.SemaphoreFrames : Prop :=
  ∀ (md : Fin 2) (s : State), live s = true →
    let o := ocuMod s md.val
    let n := s.tick.now
    (inRun s pgOCU = false ∨ ocuState s md.val = ocABSENT ∨ 8 ≤ o.frame → Effect (.commandFrame md) s s) ∧
    (inRun s pgOCU = true → ocuState s md.val ≠ ocABSENT → o.frame < 8 →
      let tx := if o.frame = 0 then goEntry n o.txq else none
      let rx := if o.frame = 0 then goEntry n o.rxq else none
      let txd := match tx with | some e => e.dir | none => o.txDir
      let rxd := match rx with | some e => e.dir | none => o.rxDir
      ∃ u, Effect (.commandFrame md) s u ∧ (ocuMod u md.val).txDir = txd ∧ (ocuMod u md.val).rxDir = rxd ∧
        (ocuMod u md.val).frame = o.frame + 1 ∧ (ocuMod u md.val).cmdSeq = (o.cmdSeq + 1) % 256 ∧
        (tx.isSome = true → (ocuMod u md.val).txWait = true ∧ (ocuMod u md.val).txq = afterGo n o.txq) ∧
        (rx.isSome = true → (ocuMod u md.val).rxWait = true ∧ (ocuMod u md.val).rxq = afterGo n o.rxq ∧ (lineMod u md.val).delin = 0 ∧ (lineMod u md.val).steer = some n) ∧
        u.sent.getLast? = some (.command md.val (commandBytes o.frame ((o.cmdSeq + 1) % 256) n o.light tx.isSome rx.isSome txd rxd o.fine)) ∧
        regN u (keyB R.OCU_STEERS md.val) = min 0xFFFFFFFF (regN s (keyB R.OCU_STEERS md.val) + (ofBool tx.isSome + ofBool rx.isSome))) ∧
    (∀ b : List Byte, b.length = 24 → s.store.ecc = [] →
      let ok := beAt b 22 2 = crcFwd 16 0x1021 0xFFFF (b.take 22) ∧ (o.cmdSeq + 256 - beAt b 15 1) % 256 ≤ 2
      (¬ok → ∃ u, Effect (.monitorFrame md b) s u ∧ (ocuMod u md.val).good = 0 ∧ (ocuMod u md.val).bad = o.bad + 1 ∧
        regN u (keyB R.OCU_SEM_BAD md.val) = min 0xFFFFFFFF (regN s (keyB R.OCU_SEM_BAD md.val) + 1) ∧
        (semUp s md.val = true → o.bad + 1 = 4 → semUp u md.val = false ∧ inFault u pgOCU = true ∧ flag u (hdr pgOCU oEVT) 5 = true) ∧
        (semUp s md.val = false ∨ o.bad + 1 ≠ 4 → semUp u md.val = semUp s md.val ∧ RegsKept s u [keyB R.OCU_SEM_BAD md.val] [])) ∧
      (ok → semUp s md.val = false → ∃ u, Effect (.monitorFrame md b) s u ∧ (semUp u md.val = true ↔ 64 ≤ o.good + 1) ∧
        (o.good + 1 < 64 → u = putOcu s md.val { o with good := o.good + 1, bad := 0 })) ∧
      (ok → semUp s md.val = true → ∃ u, Effect (.monitorFrame md b) s u ∧ (ocuMod u md.val).good = o.good + 1 ∧ (ocuMod u md.val).bad = 0 ∧
        fld u (keyB R.OCU_MON md.val) 15 0 = beAt b 13 2 ∧ regN u (keyB R.OCU_RX md.val) = beAt b 11 2 + ofBool (bitOf (beAt b 2 1) 4) * 65536))

/-- The lock loop (R309), in FINE: over the sums of the last ten samples, the error of the ratio from its set-point scaled by the slope joins the
accumulator, which is held within its bounds; the fine offset stays within 32,767 either way; LOCKED is set once a hundred updates in a row lie within
LOCK_TOL, and falls once ten in a row lie beyond four times it. With fewer samples, and outside FINE, PROBE and LIT, nothing changes. Acquisition (R311,
R312). ACQUIRE begins an attempt from DARK, or from FAILED with a direction left, where the port is UP, a width is set and the direction faced is not failed:
the OCU resets the laser and tunes it to the channel through page 12h, and writes the pilot code through page C0h (R305, R309); a laser that has tuned goes on to FINE. An attempt too long under way has failed: the light goes dark, it is counted and charged, and another follows unless
every direction is failed. DARK puts the light out and stops re-acquisition; CLEAR ends the failures of the directions it names. -/
def Obligations.LockAndAcquisition : Prop :=
  (∀ (md : Fin 2) (s : State), live s = true →
     let o := ocuMod s md.val
     let st := ocuState s md.val
     (o.samples.length < 10 ∨ st < ocFINE ∨ st = ocFAILED → Effect (.lockLoopUpdate md) s s) ∧
     (10 ≤ o.samples.length → st = ocFINE → (o.samples.map (·.2)).sum ≠ 0 →
       let err : Int := (((o.samples.map (·.1)).sum * 65536 / (o.samples.map (·.2)).sum : Nat) - (o.s : Int)) * o.k
       let tol : Int := (fld s R.OCU_LOOP 27 16 : Nat) * 65536
       let was := flag s (ocKey md.val) 5
       let within := if err ≤ tol ∧ -tol ≤ err then o.within + 1 else 0
       let beyond := if 4 * tol < err ∨ err < -(4 * tol) then o.beyond + 1 else 0
       ∃ u, Effect (.lockLoopUpdate md) s u ∧
         (ocuMod u md.val).acc = max (-68719476736) (min 68719476736 (o.acc + err)) ∧
         -32767 ≤ (ocuMod u md.val).fine ∧ (ocuMod u md.val).fine ≤ 32767 ∧
         fld u (keyB R.OCU_FREQ md.val) 31 16 = unsignedOf 16 (ocuMod u md.val).fine ∧
         (ocuMod u md.val).within = within ∧ (ocuMod u md.val).beyond = beyond ∧
         flag u (ocKey md.val) 5 = (if was = true then decide (beyond < 10) else decide (100 ≤ within)) ∧
         u = { s with regs := u.regs, ocu := u.ocu })) ∧
  ((∀ (md : Fin 2) (s : State), live s = true →
     (ocuState s md.val = ocCOARSE → ∃ u, Effect (.tuningComplete md) s u ∧ ocuState u md.val = ocFINE ∧
       RegsKept s u [ocKey md.val] [] ∧ u = { s with regs := u.regs }) ∧
     (ocuState s md.val ≠ ocCOARSE → Effect (.tuningComplete md) s s) ∧
     (let st := ocuState s md.val
      let due := (st = ocCOARSE ∨ st = ocFINE ∨ st = ocPROBE) ∧ ∃ t, (ocuMod s md.val).began = some t ∧ t + fld s R.OCU_ACQ_TMO 23 0 ≤ s.tick.now
      (¬due → Effect (.acquisitionTimeout md) s s) ∧
      (due → s.store.ecc = [] → ∃ u, Effect (.acquisitionTimeout md) s u ∧ (ocuMod u md.val).light = 0 ∧ (ocuMod u md.val).began = none ∧
        regN u (keyB R.OCU_ACQ_FAIL md.val) = min 0xFFFFFFFF (regN s (keyB R.OCU_ACQ_FAIL md.val) + 1) ∧
        (∀ d, d < 4 → st ≠ ocPROBE ∨ d = (ocuMod s md.val).rxDir → nthD 0 (ocuMod u md.val).attempts d = min 3 (nthD 0 (ocuMod s md.val).attempts d + 1)) ∧
        (fld u (ocKey md.val) 19 16 = 15 → ocuState u md.val = ocFAILED) ∧
        (fld u (ocKey md.val) 19 16 ≠ 15 → ocuState u md.val = ocDARK ∧ (ocuMod u md.val).again = true)))) ∧
   (∀ (w : Win) (v : Word) (s : State), live s = true → mayWrite s w R.OCU_CMD = true →
     let md := ocSel s
     let st := ocuState s md
     let may := (st = ocDARK ∨ (st = ocFAILED ∧ fld s (ocKey md) 19 16 ≠ 15)) ∧ mayAttempt s md = true
     (¬may → Effect (.acquire w v) s s) ∧
     (may → ∃ u, Effect (.acquire w v) s u ∧ ocuState u md = ocCOARSE ∧ (ocuMod u md).began = some s.tick.now ∧ (ocuMod u md).stopped = false ∧
       regN u (keyB R.OCU_ACQ md) = min 0xFFFFFFFF (regN s (keyB R.OCU_ACQ md) + 1) ∧
       u.sent = s.sent ++ [.ocuCmis md 0x12 [1, ocChannel s md],
         .ocuCmis md 0xC0 [((fld s (lf R.LFRM_TX_ID md) 7 0 * 256 + fld s (lf R.LFRM_TX_ID md) 15 8 : Nat) : Int)]] ∧
       RegsKept s u [ocKey md, keyB R.OCU_ACQ md] [] ∧ u = { s with regs := u.regs, sent := u.sent, ocu := u.ocu }) ∧
     (∃ u, Effect (.dark w v) s u ∧ (ocuMod u md).stopped = true ∧ (ocuMod u md).again = false ∧
       (ocCOARSE ≤ st → st ≤ ocLIT → ocuState u md = ocDARK ∧ (ocuMod u md).light = 0) ∧
       (st < ocCOARSE ∨ ocLIT < st → ocuState u md = st ∧ (ocuMod u md).light = (ocuMod s md).light) ∧
       (moduleLit s md = true → flag u (hdr pgOCU oEVT) 1 = true) ∧ u = { s with regs := u.regs, irq := u.irq, sent := u.sent, ocu := u.ocu }) ∧
     (∃ u, Effect (.clearFailed w v) s u ∧ (∀ d, d < 4 → dirFailed u md d = (dirFailed s md d && !bitOf v.toNat (4 + d)) ∧
         nthD 0 (ocuMod u md).attempts d = if bitOf v.toNat (4 + d) = true then 0 else nthD 0 (ocuMod s md).attempts d) ∧
       ocuState u md = st ∧ RegsKept s u [ocKey md] [] ∧ u = { s with regs := u.regs, ocu := u.ocu })))

/-- Steering (R313). PUSH of a tick less than 16 ahead, not beyond the queue's last, or towards a failed direction is refused; into a queue of eight it is
answered BUSY; else the entry joins its side's queue. FLUSH empties both. A side that has not reported its direction by 7 µs after the boundary of its steer
raises STEER_MISS, and the attempt of a lit module fails with it; before that nothing happens. CMIS (R304, R305, R311). GO of an access shows PENDING and goes out to the module; a write to page 12h or C0h is
refused; while one is PENDING it is ignored. Its end shows SERVED, the byte read, and whether it failed. A poll shows the bias; a module that is gone is
ABSENT and dark; one found ready has its pages read, and a module that cannot steer raises ACQ_FAIL and goes no further. -/
def Obligations.SteeringAndModules : Prop :=
  ((∀ (w : Win) (v : Word) (s : State), live s = true → mayWrite s w R.OCU_STEER_CMD = true →
     let md := ocSel s
     let o := ocuMod s md
     let rx := bitOf v.toNat 2
     let dir := bitsOf v.toNat 4 3
     let t := reg64 s (keyB R.OCU_STEER_TICK_LO md) (keyB R.OCU_STEER_TICK_HI md)
     let q := if rx = true then o.rxq else o.txq
     let bad := t < s.tick.now + 16 ∨ (∃ e, q.getLast? = some e ∧ t ≤ e.tick) ∨ dirFailed s md dir = true
     let res := keyB R.OCU_STEER_RES md
     (bad → ∃ u, Effect (.push w v) s u ∧ fld u res 7 4 = cPOLICY ∧ RegsKept s u [res] [] ∧ u = { s with regs := u.regs }) ∧
     (¬bad → 8 ≤ q.length → ∃ u, Effect (.push w v) s u ∧ fld u res 7 4 = cBUSY ∧ RegsKept s u [res] [] ∧ u = { s with regs := u.regs }) ∧
     (¬bad → q.length < 8 → ∃ u, Effect (.push w v) s u ∧ fld u res 7 4 = cSERVED ∧
       (if rx = true then (ocuMod u md).rxq else (ocuMod u md).txq) = q ++ [{ tick := t, dir := dir }] ∧
       (if rx = true then (ocuMod u md).txq = o.txq else (ocuMod u md).rxq = o.rxq) ∧ RegsKept s u [res] [] ∧ u = { s with regs := u.regs, ocu := u.ocu }) ∧
     (∃ u, Effect (.flush w v) s u ∧ u = putOcu s md { o with txq := [], rxq := [] })) ∧
   (∀ (md : Fin 2) (side : Bool) (s : State), live s = true → s.store.ecc = [] →
     let o := ocuMod s md.val
     let missed := (if side = true then o.rxWait else o.txWait) = true ∧ (steerTick o side < s.tick.now ∨ 8 ≤ o.frame)
     (¬missed → Effect (.steerMiss md side) s s) ∧
     (missed → ∃ u, Effect (.steerMiss md side) s u ∧ inFault u pgOCU = true ∧
       (if side = true then (ocuMod u md.val).rxWait else (ocuMod u md.val).txWait) = false ∧
       regN u (keyB R.OCU_MISMATCH md.val) = min 0xFFFFFFFF (regN s (keyB R.OCU_MISMATCH md.val) + 1) ∧ flag u (hdr pgOCU oEVT) 2 = true ∧
       (moduleLit s md.val = true → (ocuMod u md.val).light = 0) ∧ (moduleLit s md.val = false → (ocuMod u md.val).light = o.light)))) ∧
  ((∀ (w : Win) (v : Word) (s : State), live s = true → mayWrite s w R.OCU_CMIS_CMD = true → bitOf v.toNat 0 = true →
     let md := ocSel s
     let q := regN s (keyB R.OCU_CMIS_REQ md)
     let res := keyB R.OCU_CMIS_RES md
     let barred := bitOf q 24 = true ∧ (bitsOf q 15 8 = 0x12 ∨ bitsOf q 15 8 = 0xC0)
     (flag s res 0 = true → Effect (.cmisGo w v) s s) ∧
     (flag s res 0 = false → barred → ∃ u, Effect (.cmisGo w v) s u ∧ regN u res = cPOLICY * 16 ∧ RegsKept s u [res] [] ∧ u = { s with regs := u.regs }) ∧
     (flag s res 0 = false → ¬barred → ∃ u, Effect (.cmisGo w v) s u ∧ regN u res = 1 ∧ RegsKept s u [res] [] ∧
       u.sent = s.sent ++ [.cmis md (bitsOf q 27 25) (bitsOf q 15 8) (bitsOf q 7 0) (if bitOf q 24 = true then some (BitVec.ofNat 8 (bitsOf q 23 16)) else none)] ∧
       u = { s with regs := u.regs, sent := u.sent })) ∧
   (∀ (md : Fin 2) (ok : Bool) (x : Byte) (s : State), live s = true →
     let res := keyB R.OCU_CMIS_RES md.val
     (flag s res 0 = false → Effect (.cmisAccessDone md ok x) s s) ∧
     (flag s res 0 = true → ∃ u, Effect (.cmisAccessDone md ok x) s u ∧ flag u res 0 = false ∧ flag u res 1 = !ok ∧ fld u res 7 4 = cSERVED ∧
       fld u res 15 8 = (if ok = true then x.toNat else 0) ∧ RegsKept s u [res] [] ∧ u = { s with regs := u.regs })) ∧
   (∀ (md : Fin 2) (p : CmisPoll) (s : State), live s = true → s.store.ecc = [] → ∃ u, Effect (.cmisPoll md p) s u ∧
     (ocuMod u md.val).preFec = p.preFec ∧ fld u (keyB R.OCU_MON md.val) 31 16 = p.bias.toNat % 65536 ∧
     (p.present = false → ocuState u md.val = ocABSENT) ∧
     (p.present = false → ocuState s md.val ≠ ocABSENT → (ocuMod u md.val).light = 0 ∧ (ocuMod u md.val).pages = none ∧ (ocuMod u md.val).ready = false) ∧
     (p.present = true → p.ready = false → ocuState u md.val = ocuState s md.val ∧ (ocuMod u md.val).pages = (ocuMod s md.val).pages) ∧
     (p.present = true → p.ready = true → ocuState s md.val = ocABSENT ∨ ocuState s md.val = ocINIT → (ocuMod s md.val).pages = none →
       (ocuMod u md.val).pages = some p.steered ∧ (ocuMod u md.val).s = p.setPoint.toNat ∧ (ocuMod u md.val).k = p.slope ∧
       (p.steered = true → ocuState u md.val = if semUp s md.val = true then ocDARK else ocINIT) ∧
       (p.steered = false → ocuState u md.val = ocINIT ∧ inFault u pgOCU = true))))

/-! ### Rounds, sites and agreement -/

/-- A round begins (R17, R18, R26, R29, R233). SNAP_READY of the job held, on the base just committed and pushed, is accepted: member mode holds its
admissions. Of another job it is refused; on a base not there yet, BUSY. With the tiles drained the pull starts: phase 1 of the next round. Member mode is
entered again after the push. A replay takes the aborted round up in phase 1 where that was its phase, else in phase 2, and not while the job holds. Healing
(R333, R334). A site whose attestation names another ARITH_REV is refused (R101). A site that asks to join again is noted; the guidon with the lowest id of the view replies with the committed round. A reply finds nothing to
do unless the site heals; its guidon tells the site's WG9 of it. One that names the site's own last commit ends the heal with nothing missed; one that names a
later round begins the fetch of that round's state, behind an open outer gate, with the carry kept where one round was missed. When all of it has come, and
not before, the site has that round committed and pushes it. -/
def Obligations.RoundsAndHealing : Prop :=
  ((∀ (m : SnapReady) (s : State), live s = true → siteState s ≠ sDIPPED →
     let n := m.round.toNat
     let c := s.job.commit
     let answer (code : Nat) := (jobNotice s .snapAccept 3 n [code]).sent
     (s.job.held = false ∨ m.job.toNat ≠ s.job.id → ∃ u, Effect (.snapReady m) s u ∧ u = { s with sent := answer cPOLICY }) ∧
     (s.job.held = true → m.job.toNat = s.job.id → m.baseRound.toNat + 1 < n → s.job.pushed + 1 < n → ∃ u, Effect (.snapReady m) s u ∧ u = { s with sent := answer cBUSY }) ∧
     (s.job.held = true → m.job.toNat = s.job.id → m.baseRound.toNat + 1 = n → (∃ t, siteTab s = some t ∧ m.steps.toNat = t.h) → n = c + 1 → s.job.pushed = c →
       s.job.phase = 0 → s.job.accepted = false → ∃ u, Effect (.snapReady m) s u ∧
         u = { s with sent := answer cSERVED, job := { s.job with accepted := true, memberHold := true, reenter := false } })) ∧
   (∀ s : State, live s = true →
     let may := s.job.held = true ∧ s.job.accepted = true ∧ s.job.phase = 0 ∧ memberBusy s = false ∧ s.job.pushed = s.job.commit
     (¬may → Effect .snapshotPullStart s s) ∧
     (may → ∃ u, Effect .snapshotPullStart s u ∧ u.job.phase = 1 ∧ u.job.round = s.job.commit + 1 ∧ u.job.accepted = false ∧ u.job.commit = s.job.commit ∧
       u.job.aborts = 0 ∧ u.job.aborted = none ∧ u.hlth.mirOut = [] ∧ u.mem = s.mem) ∧
     (∃ u, Effect .memberModeReenter s u ∧ (s.job.reenter = false → u = s) ∧
       (s.job.reenter = true → u = { s with job := { s.job with reenter := false, memberHold := false } })) ∧
     (∃ u, Effect .roundReplay s u ∧ (s.job.aborted = none ∨ s.job.holding = true ∨ s.job.held = false → u = s) ∧
       (∀ k, s.job.aborted = some k → s.job.holding = false → s.job.held = true → u = { s with job := { s.job with aborted := none, gone := s.job.gone.erase s.job.round, phase := if k = 1 then 1 else 2 } })))) ∧
  ((∀ (h : SiteHdr) (k : BitVec 48) (t : SiteTab) (i : Nat) (s : State), live s = true → SiteActs s t h → siteIdx t h.site.toNat = some i →
     (h.arithRev.toNat ≠ regN s R.ARITH_REV → ∃ u, Effect (.joinReq h k none) s u ∧
       Out.message .joinRefused 4 (siteEnt t i).guidon 1 [ownSite t, s.site.sent, (siteEnt t i).id, cPOLICY] [] ∈ u.sent ∧
       u = { s with site := { seenNow s h with sent := s.site.sent + 1 }, sent := u.sent }) ∧
     (h.arithRev.toNat = regN s R.ARITH_REV → siteState s ≠ sMEMBER ∨ lowestId t (viewMask s) ≠ ownSite t → ∃ u, Effect (.joinReq h k none) s u ∧ u = { s with site := { seenNow s h with asked := insNat s.site.asked i } }) ∧
     (h.arithRev.toNat = regN s R.ARITH_REV → siteState s = sMEMBER → lowestId t (viewMask s) = ownSite t → ∃ u, Effect (.joinReq h k none) s u ∧ u.site.asked = insNat s.site.asked i ∧
       Out.message .healReply 4 (siteEnt t i).guidon 1 [ownSite t, s.site.sent, (siteEnt t i).id, siteCommit s] [] ∈ u.sent ∧ u = { s with site := u.site, sent := u.sent })) ∧
   (∀ (h : SiteHdr) (k : BitVec 48) (t : SiteTab) (s : State), live s = true → SiteActs s t h →
     (siteState s ≠ sHEALING → ∃ u, Effect (.healReply h k none) s u ∧ u = siteTell { s with site := seenNow s h } t .healReply [k.toNat]) ∧
     (siteState s = sHEALING → fld s R.SITE_HEAL 1 0 = 0 → s.site.accepted = none → k.toNat = siteCommit s → flag s R.SITE_POLICY 0 = false → ∃ u, Effect (.healReply h k none) s u ∧
       fld u R.SITE_HEAL 1 0 = 1 ∧ fld u R.SITE_HEAL 15 8 = 0 ∧ u.job = { s.job with holding := false } ∧ siteCommit u = siteCommit s ∧ flag u (hdr pgSITE oEVT) 2 = true) ∧
     (siteState s = sHEALING → fld s R.SITE_HEAL 1 0 = 0 → s.site.accepted = none → siteCommit s < k.toNat → k.toNat < siteCommit s + 256 → s.store.ecc = [] →
       flag s R.SITE_POLICY 0 = false → s.job.phase = 0 → s.job.accepted = false → NoStateBroadcast s → ∃ u, Effect (.healReply h k none) s u ∧
         (let one := k.toNat = siteCommit s + 1
          fld u R.SITE_HEAL 1 0 = (if one then 2 else 3) ∧ fld u R.SITE_HEAL 15 8 = k.toNat - siteCommit s ∧
          u.site.fetch = some { round := k.toNat, carry := decide one }) ∧
         flag u R.REG_OUTER_GATE 0 = true ∧ siteCommit u = siteCommit s ∧ u.job.commit = s.job.commit ∧ u.job.phase = 0)) ∧
   (∀ (f : Fetch) (s : State), s.site.fetch = some f →
     (fetchWhole s f = false → fetchSettle s = s) ∧
     (fetchWhole s f = true → f.round < 2 ^ 48 → let u := fetchSettle s
       siteCommit u = f.round ∧ u.job.commit = f.round ∧ u.job.phase = 8 ∧ u.job.pushedBytes = 0 ∧ u.job.holding = false ∧ u.site.fetch = none ∧
         flag u R.REG_OUTER_GATE 0 = true)))

/-- Site messages and reachability (R320, R323, R331). A WG9 that is not the guidon passes a site message on to its guidon, once. A guidon sends a BEACON to
every other site after 125 ticks. A BEACON makes its site reachable; one whose table differs is counted, and raises SITE_CONFIG the first time. A site
unheard for LOSS_TICKS, from the job's start where it was never heard, is reachable no longer and raises SITE_LOST, and without a quorum left the site dips. -/
def Obligations.SitesReachable : Prop :=
  (∀ (c : Instr) (h : SiteHdr) (kind : MsgKind) (f : List Nat) (t : SiteTab) (s : State), live s = true → siteTab s = some t → isGuidon s = false →
    s.site.seen.contains (h.site.toNat, h.count) = false → ¬(h.port.val < 4 ∧ h.site.toNat = ownSite t) →
    ((∃ e v, c = .propose h e v ∧ kind = .propose ∧ f = [e.toNat, v.toNat]) ∨
      (∃ e k, c = .join h e k none ∧ kind = .join ∧ f = [e.toNat, k.toNat, 0]) ∨
      (∃ n e d, c = .accept h n e d ∧ kind = .accept ∧ f = [n.toNat, e.toNat, d.toNat]) ∨
      (∃ n e d, c = .offer h n e d [] ∧ kind = .offer ∧ f = [n.toNat, e.toNat, d.toNat]) ∨
      (∃ k, c = .joinReq h k none ∧ kind = .joinReq ∧ f = [k.toNat, 0]) ∨
      (∃ k, c = .healReply h k none ∧ kind = .healReply ∧ f = [k.toNat]) ∨
      (∃ e v k, c = .view h e v k none [] ∧ kind = .view ∧ f = [e.toNat, v.toNat, k.toNat, 0])) →
    ∃ u, Effect c s u ∧ u = { s with site := seenNow s h, sent := s.sent ++ [.message kind 7 (guidonNode s t) 1 ([h.site.toNat, h.count, h.dest.toNat] ++ f) []] }) ∧
  (∀ s : State, live s = true →
    let due := isGuidon s = true ∧ ∀ x, s.site.lastBeacon = some x → x + 125 ≤ s.tick.now
    (siteTab s = none ∨ ¬due → Effect .beaconSend s s) ∧
    (∀ t, siteTab s = some t → due → ∃ u, Effect .beaconSend s u ∧ u.site.lastBeacon = some s.tick.now ∧ u.site.sent = s.site.sent + (otherSites t (2 ^ 32 - 1)).length ∧
      (∀ i ∈ otherSites t (2 ^ 32 - 1), ∃ n, Out.message .beacon 4 (siteEnt t i).guidon 1 ([ownSite t, n, (siteEnt t i).id, t.crc, s.site.joined, siteCommit s] ++ s.site.grant.toList) [] ∈ u.sent) ∧
      u = { s with site := u.site, sent := u.sent })) ∧
  (∀ (h : SiteHdr) (crc : DWord) (j : Word) (k : BitVec 48) (t : SiteTab) (i : Nat) (s : State), live s = true → SiteActs s t h → siteIdx t h.site.toNat = some i → i < 32 →
    (crc.toNat = t.crc → siteState s = sHEALING → ∃ u, Effect (.beacon h crc j k none) s u ∧ bitOf (reachMask u) i = true ∧
      (∀ x, x ≠ i → bitOf (reachMask u) x = bitOf (reachMask s) x) ∧ mapFind u.site.crcs h.site.toNat = some crc.toNat ∧ mapFind u.site.heard i = some s.tick.now ∧
      mapFind u.site.committed i = some k.toNat ∧ RegsKept s u [R.SITE_REACH] [] ∧ u = { s with regs := u.regs, site := u.site }) ∧
    (crc.toNat ≠ t.crc → s.store.ecc = [] → ∃ u, Effect (.beacon h crc j k none) s u ∧ bitOf (reachMask u) i = true ∧
      regN u R.SITE_TAB_BAD = min 0xFFFFFFFF (regN s R.SITE_TAB_BAD + 1) ∧ u.site.bad.contains i = true ∧ siteState u = siteState s ∧
      (s.site.bad.contains i = false → inFault u pgSITE = true) ∧ (s.site.bad.contains i = true → u = { s with regs := u.regs, site := u.site }))) ∧
  (∀ (x : Byte) (t : SiteTab) (i : Nat) (s : State), live s = true → siteTab s = some t → siteIdx t x.toNat = some i → i < 32 →
    let due := i ≠ t.self ∧ mapGet s.site.since s.site.heard i + t.loss ≤ s.tick.now
    let left := if bitOf (reachMask s) i = true then reachMask s - 2 ^ i else reachMask s
    (¬due → Effect (.siteUnreachable x) s s) ∧
    (due → s.store.ecc = [] → isGuidon s = false → ∃ u, Effect (.siteUnreachable x) s u ∧ bitOf (reachMask u) i = false ∧
      (bitOf (reachMask s) i = true → inFault u pgSITE = true) ∧
      (s.job.phase = 0 → siteState s ≠ sDIPPED → isQuorum t (left ||| 2 ^ t.self) = false → siteState u = sDIPPED ∧
        regN u R.SITE_DIPS = min 0xFFFFFFFF (regN s R.SITE_DIPS + 1) ∧ flag u (hdr pgSITE oEVT) 1 = true) ∧
      (isQuorum t (left ||| 2 ^ t.self) = true → siteState u = siteState s)))

/-- Views (R101, R320, R322, R324 to R327, R330, R331). A guidon joins only an epoch beyond the highest it joined, of a view that names no site with another
table, and keeps its promise at the alternate first; the acknowledged promise sends the JOIN, or the ACCEPT unless the site stands outside every quorum. The
proposer counts its JOINs of sites with its ARITH_REV, and with a quorum installs the view. Of a VIEW the guidon tells the WG9 of its site. One not beyond
the epoch in force sets CFG_REFUSED; one whose members are no quorum, or that names a site with another table, does nothing more; one that leaves the site
out dips it; any other, between rounds, takes effect: epoch, members, state MEMBER. A proposal overdue is made anew under the next epoch. The PROPOSE of a
view that only adds, which comes during a round's exchange, waits (the model's choice: log entry 157). -/
def Obligations.ViewChanges : Prop :=
  (∀ (h : SiteHdr) (e v : Word) (t : SiteTab) (s : State), live s = true → SiteActs s t h →
    let x := { seenNow s h with count := max s.site.count (e.toNat / 256) }
    let waits := adding s v.toNat = true ∧ exchanging s = true
    (e.toNat ≤ s.site.joined ∨ badView s v.toNat = true → ∃ u, Effect (.propose h e v) s u ∧ u = { s with site := x }) ∧
    (s.site.joined < e.toNat → badView s v.toNat = false → waits → (∀ p, s.site.asking = some p → p.1 < e.toNat) → ∃ u, Effect (.propose h e v) s u ∧
      u = { s with site := { x with asking := some (e.toNat, v.toNat) } }) ∧
    (s.site.joined < e.toNat → badView s v.toNat = false → ¬waits → ownNode s ≠ (siteEnt t t.self).alt → s.hlth.lost.contains (siteEnt t t.self).alt = false → ∃ u, Effect (.propose h e v) s u ∧
      u = { s with site := { x with joined := e.toNat, offerAt := none, asking := none, promises := s.site.promises ++ [(false, e.toNat, 0, 0)] }, sent := s.sent ++ [.message .promiseCopy 7 (siteEnt t t.self).alt 1 [0, e.toNat, 0, 0] []] })) ∧
  (∀ (q : Promise) (t : SiteTab) (s : State), live s = true → siteTab s = some t →
    (∃ u, Effect (.promiseCopy q) s u ∧ u = { s with site := { s.site with kept := promiseOf q :: s.site.kept }, sent := s.sent ++ [.message .promiseAck 7 (siteEnt t t.self).guidon 1 [ofBool q.accept, q.epoch.toNat, q.round.toNat, q.digest.toNat] []] }) ∧
    (s.site.promises.contains (promiseOf q) = false → Effect (.promiseCopyAck q) s s) ∧
    (s.site.promises.contains (promiseOf q) = true → q.epoch.toNat < s.site.joined → ∃ u, Effect (.promiseCopyAck q) s u ∧
      u = { s with site := { s.site with promises := s.site.promises.erase (promiseOf q) } }) ∧
    (∀ i, s.site.promises.contains (promiseOf q) = true → s.site.joined ≤ q.epoch.toNat → q.accept = false → siteIdx t (q.epoch.toNat % 256) = some i → s.site.accepted = none →
      ∃ u, Effect (.promiseCopyAck q) s u ∧ u.site.promises = s.site.promises.erase (promiseOf q) ∧
        Out.message .join 4 (siteEnt t i).guidon 1 [ownSite t, s.site.sent, (siteEnt t i).id, q.epoch.toNat, siteCommit s, 0] [] ∈ u.sent ∧ u = { s with site := u.site, sent := u.sent }) ∧
    (s.site.promises.contains (promiseOf q) = true → s.site.joined ≤ q.epoch.toNat → q.accept = true → outside s t = true → ∃ u, Effect (.promiseCopyAck q) s u ∧
      u = { s with site := { s.site with promises := s.site.promises.erase (promiseOf q) } }) ∧
    (s.site.promises.contains (promiseOf q) = true → s.site.joined ≤ q.epoch.toNat → q.accept = true → outside s t = false → (∃ j, j ≠ t.self ∧ bitOf (viewMask s) j = true ∧ ∀ a ∈ s.site.accepts, a.1 ≠ j) → 0 < t.agree →
      ∃ u, Effect (.promiseCopyAck q) s u ∧ u.site.accepted = some (q.round.toNat, q.epoch.toNat, q.digest.toNat) ∧ u.site.acceptAt = some s.tick.now ∧
        flag u R.SITE_ACCEPT_HI 16 = true ∧ siteCommit u = siteCommit s)) ∧
  (∀ (h : SiteHdr) (e : Word) (k : BitVec 48) (t : SiteTab) (q : Proposal) (i : Nat) (s : State), live s = true → SiteActs s t h → s.site.prop = some q →
    siteIdx t h.site.toNat = some i →
    (e.toNat ≠ q.epoch ∨ h.arithRev.toNat ≠ regN s R.ARITH_REV → ∃ u, Effect (.join h e k none) s u ∧ u = { s with site := seenNow s h }) ∧
    (e.toNat = q.epoch → h.arithRev.toNat = regN s R.ARITH_REV →
      let js := (i, k.toNat, none) :: q.joins.filter (fun j => j.1 != i)
      let mask := js.foldl (fun m j => m ||| 2 ^ j.1) 0 &&& q.view
      (isQuorum t mask = false → ∃ u, Effect (.join h e k none) s u ∧ u = { s with site := { seenNow s h with prop := some { q with joins := js } } }) ∧
      (isQuorum t mask = true → s.site.joined ≤ q.epoch → siteEpoch s < q.epoch → bitOf q.view t.self = true → q.view < 2 ^ 32 → isQuorum t q.view = true → badView s q.view = false → s.job.phase = 0 → s.coll.groups = [] →
        s.site.swaps = [] → (∀ j ∈ js, j.2.2 = none) → ∃ u, Effect (.join h e k none) s u ∧
          siteEpoch u = q.epoch ∧ viewMask u = q.view ∧ siteState u = sMEMBER ∧ u.site.prop = none ∧ regN u R.SITE_VIEWS = min 0xFFFFFFFF (regN s R.SITE_VIEWS + 1)))) ∧
  (∀ (h : SiteHdr) (e v : Word) (k : BitVec 48) (t : SiteTab) (s : State), live s = true → SiteActs s t h → s.job.phase = 0 →
    (e.toNat ≤ siteEpoch s → ∃ u, Effect (.view h e v k none []) s u ∧ flag u (hdr pgSITE oEVT) 4 = true ∧ RegsKept s u (evtKeys pgSITE) [0x80] ∧
      u = { s with regs := u.regs, irq := u.irq, sent := u.sent, site := { seenNow s h with sent := s.site.sent + 1 } }) ∧
    (siteEpoch s < e.toNat → isQuorum t v.toNat = false ∨ badView s v.toNat = true → ∃ u, Effect (.view h e v k none []) s u ∧
      u = siteTell { s with site := seenNow s h } t .view [e.toNat, v.toNat, k.toNat, 0]) ∧
    (siteEpoch s < e.toNat → isQuorum t v.toNat = true → badView s v.toNat = false → bitOf v.toNat t.self = false → s.store.ecc = [] → siteState s ≠ sDIPPED → ∃ u, Effect (.view h e v k none []) s u ∧ siteState u = sDIPPED ∧
      siteEpoch u = siteEpoch s ∧ inFault u pgSITE = true) ∧
    (siteEpoch s < e.toNat → isQuorum t v.toNat = true → badView s v.toNat = false → bitOf v.toNat t.self = true → s.coll.groups = [] → ∃ u, Effect (.view h e v k none []) s u ∧ siteEpoch u = e.toNat ∧ viewMask u = v.toNat ∧
      siteState u = sMEMBER ∧ fld u R.SITE_WEIGHT 15 0 = weightOf t v.toNat % 65536 ∧ u.site.joined = max s.site.joined e.toNat ∧ flag u (hdr pgSITE oEVT) 0 = true ∧ u.job.commit = s.job.commit)) ∧
  (∀ (s : State), live s = true →
    (siteTab s = none → Effect .viewTimeout s s) ∧
    (∀ t, siteTab s = some t →
      let due := viewWanted s t = true ∧ s.site.later = none ∧ ((∃ q, s.site.prop = some q ∧ q.tick + t.view ≤ s.tick.now) ∨ (s.site.prop = none ∧ ∃ x, s.site.wait = some x ∧ x + t.view ≤ s.tick.now))
      let e := (s.site.count + 1) * 256 + ownSite t
      (¬due → Effect .viewTimeout s s) ∧
      (due → isQuorum t (2 ^ t.self &&& wantedView s t) = false → ∃ u, Effect .viewTimeout s u ∧ u.site.joined = e ∧ u.site.count = s.site.count + 1 ∧ u.site.wait = none ∧
        u.site.prop = some { epoch := e, view := wantedView s t, joins := [(t.self, siteCommit s, s.site.accepted)], tick := s.tick.now } ∧ u = { s with site := u.site, sent := u.sent })))

/-- Agreement on a commit (R21, R22, R328, R329). The guidon keeps the READYs of the round next to commit, and with every shard's offers the digest of them
to the view. OFFERs that agree from a quorum bring the promise to accept; OFFERs that differ count as SITE_DIGEST_BAD. ACCEPTs of the round accepted, from
every site of the view or, in time, from a quorum, commit it, unless a higher epoch was joined; so does the guidon's COMMIT at every WG9 of its site in the
epoch in force, once its protection allows. -/
def Obligations.CommitAgreement : Prop :=
  (∀ (n : BitVec 48) (e : Word) (sh : BitVec 16) (d : DWord) (t : SiteTab) (s : State), live s = true → siteTab s = some t →
    (isGuidon s = false ∨ e.toNat ≠ siteEpoch s ∨ n.toNat ≠ siteCommit s + 1 → Effect (.ready n e sh d) s s) ∧
    (isGuidon s = true → e.toNat = siteEpoch s → n.toNat = siteCommit s + 1 →
      let rs := (n.toNat, e.toNat, sh.toNat, d.toNat) :: s.site.readys.filter (fun r => !(r.1 == n.toNat && r.2.1 == e.toNat && r.2.2.1 == sh.toNat))
      let a : State := { s with site := { s.site with readys := rs } }
      (shardDigests a n.toNat e.toNat = none → ∃ u, Effect (.ready n e sh d) s u ∧ u = a) ∧
      (∀ l j, shardDigests a n.toNat e.toNat = some l → j < 32 → j ≠ t.self → bitOf (viewMask s) j = true → (∀ o ∈ s.site.offers, o.1 ≠ j) → 0 < t.agree →
        ∃ u, Effect (.ready n e sh d) s u ∧ u.site.readys = rs ∧ u.site.offerAt = some s.tick.now ∧
          (t.self, n.toNat, e.toNat, crc64 (l.flatMap (bytesLE 8))) ∈ u.site.offers ∧ u = { s with site := u.site, sent := u.sent }))) ∧
  (∀ (h : SiteHdr) (n : BitVec 48) (e : Word) (d : DWord) (t : SiteTab) (i : Nat) (s : State), live s = true → SiteActs s t h → siteIdx t h.site.toNat = some i →
    (e.toNat < s.site.joined → ∃ u, Effect (.offer h n e d []) s u ∧ u = { s with site := seenNow s h }) ∧
    (s.site.joined ≤ e.toNat → s.site.offerAt = none → ∃ u, Effect (.offer h n e d []) s u ∧
      u = { s with site := { seenNow s h with offers := (i, n.toNat, e.toNat, d.toNat) :: s.site.offers.filter (fun o => !(o.1 == i && o.2.1 == n.toNat && o.2.2.1 == e.toNat)) } }) ∧
    (e.toNat < s.site.joined → ∃ u, Effect (.accept h n e d) s u ∧ u = { s with site := seenNow s h }) ∧
    (s.site.joined ≤ e.toNat → s.site.accepted = none → ∃ u, Effect (.accept h n e d) s u ∧
      u = { s with site := { seenNow s h with accepts := (i, n.toNat, e.toNat, d.toNat) :: s.site.accepts.filter (fun o => !(o.1 == i && o.2.1 == n.toNat && o.2.2.1 == e.toNat)) } }) ∧
    (∀ x, s.site.joined ≤ e.toNat → s.site.accepted = some (n.toNat, e.toNat, d.toNat) → s.site.acceptAt = some x → n.toNat = siteCommit s + 1 → s.site.due = none →
      s.job.held = true → isData s = false → NoStateBroadcast s → t.self < 32 → viewMask s = 2 ^ t.self ||| 2 ^ i → (t.self, n.toNat, e.toNat, d.toNat) ∈ s.site.accepts → i ≠ t.self →
      ∃ u, Effect (.accept h n e d) s u ∧ siteCommit u = n.toNat ∧ u.job.commit = n.toNat ∧ u.job.phase = 8 ∧ u.site.accepted = none ∧ flag u (hdr pgSITE oEVT) 3 = true)) ∧
  (∀ (t : SiteTab) (s : State), live s = true → siteTab s = some t → isGuidon s = true → s.site.accepted = none →
    (s.site.offerAt = none ∨ siteEpoch s < s.site.joined → Effect .agreeTimeout s s) ∧
    (∀ x d, s.site.joined ≤ siteEpoch s → s.site.offerAt = some x → x + t.agree ≤ s.tick.now → s.site.offers = [(t.self, siteCommit s + 1, siteEpoch s, d)] → bitOf (viewMask s) t.self = true → isQuorum t (2 ^ t.self) = true →
      ownNode s ≠ (siteEnt t t.self).alt → s.hlth.lost.contains (siteEnt t t.self).alt = false → ∃ u, Effect .agreeTimeout s u ∧
        u = { s with site := { s.site with offerAt := none, promises := s.site.promises ++ [(true, siteEpoch s, siteCommit s + 1, d)] }, sent := s.sent ++ [.message .promiseCopy 7 (siteEnt t t.self).alt 1 [1, siteEpoch s, siteCommit s + 1, d] []] }) ∧
    (∀ x i d f, s.site.joined ≤ siteEpoch s → s.site.offerAt = some x → i ≠ t.self → d ≠ f → i < 32 → t.self < 32 → viewMask s = 2 ^ t.self ||| 2 ^ i →
      s.site.offers = [(t.self, siteCommit s + 1, siteEpoch s, d), (i, siteCommit s + 1, siteEpoch s, f)] → ∃ u, Effect .agreeTimeout s u ∧
        regN u R.SITE_DIGEST_BAD = min 0xFFFFFFFF (regN s R.SITE_DIGEST_BAD + 1) ∧ u.site.offerAt = none ∧ u.site.promises = s.site.promises ∧ siteCommit u = siteCommit s)) ∧
  (∀ (n : BitVec 48) (e : Word) (s : State), live s = true →
    (s.job.held = false ∨ e.toNat ≠ siteEpoch s ∨ n.toNat ≠ siteCommit s + 1 ∨ s.site.due.isSome = true → Effect (.commit n e) s s) ∧
    (s.job.held = true → e.toNat = siteEpoch s → n.toNat = siteCommit s + 1 → s.site.due = none →
      (protBehind s n.toNat = true → ∃ u, Effect (.commit n e) s u ∧ u = { s with site := { s.site with due := some (n.toNat, s.tick.now) } }) ∧
      (protBehind s n.toNat = false → NoStateBroadcast s → ∃ u, Effect (.commit n e) s u ∧ siteCommit u = n.toNat ∧ u.job = { s.job with commit := n.toNat, round := n.toNat, phase := 8, aborts := 0, aborted := none, pushedBytes := 0, abortDue := none } ∧
        flag u (hdr pgSITE oEVT) 3 = true ∧ u.mem = s.mem)))

/-! ### Health and protected state -/

/-- Heartbeats and lost members (R342). Every 125 ticks a heartbeat goes to the guidon and the partner. One that arrives is noted with its tick, and its WG9
counts as lost no longer. A WG9 of the site that was silent for 1,250 ticks, or that is reported, is lost: the guidon raises MEMBER_LOST; any other report
changes nothing. The end of a hoist's steps (R347). The spare that passes its self-test loads next, with the outer gate open for the load (R161); one that fails
shows it and raises HOIST_FAIL. With its load done it is READY, with a notice and HOIST_DONE set, and the gate closes, but for an apply. Another WG9's news changes nothing where no hoist names it. The health score and expulsion (R337,
R339 to R341). Before the evaluation is due nothing happens. An evaluation decays each event input and adds its events, and the score is 1000 less the
penalties; with every weight zero it is 1000, and SOUND stays, ALERT ends. At the guidon, a request with no spare free, or too soon after the last, is
denied; a denied WG9 goes to half-mast. A granted one is EXPELLING. -/
def Obligations.HealthOfTheSite : Prop :=
  ((∀ s : State, live s = true →
     let due := ∀ x, s.hlth.lastBeat = some x → x + 125 ≤ s.tick.now
     (siteTab s = none ∨ ¬due → Effect .heartbeatSend s s) ∧
     (∀ t, siteTab s = some t → due → ∃ u, Effect .heartbeatSend s u ∧ u.hlth = { s.hlth with lastBeat := some s.tick.now } ∧
       (∀ n, (n = guidonNode s t ∨ n = partner s) → n ≠ 0 → n ≠ ownNode s → Out.message .heartbeat 7 n 1 [ownNode s] [] ∈ u.sent) ∧ u = { s with hlth := u.hlth, sent := u.sent })) ∧
   (∀ (n : BitVec 16) (s : State), live s = true → s.hlth.lost.contains n.toNat = false → ∃ u, Effect (.heartbeat n) s u ∧
     mapFind u.hlth.beats n.toNat = some s.tick.now ∧ u.hlth.lost.contains n.toNat = false ∧ u = { s with hlth := u.hlth }) ∧
   (∀ (n : BitVec 16) (r : Bool) (s : State), live s = true →
     (siteTab s = none ∨ n.toNat = ownNode s ∨ s.hlth.lost.contains n.toNat = true ∨ (siteNodes s).contains n.toNat = false ∨ (r = false ∧ s.tick.now < mapGet 0 s.hlth.beats n.toNat + 1250) →
       Effect (.memberLost n r) s s) ∧
     (∀ t, siteTab s = some t → n.toNat ≠ ownNode s → s.hlth.lost.contains n.toNat = false → (siteNodes s).contains n.toNat = true →
       r = true ∨ mapGet 0 s.hlth.beats n.toNat + 1250 ≤ s.tick.now → s.store.ecc = [] → s.job.phase = 0 → isData s = false → ownNode s ≠ (siteEnt t t.self).alt →
       dataPlace s.hlth.groups n.toNat = none → s.hlth.spares = [n.toNat] → ∃ u, Effect (.memberLost n r) s u ∧ u.hlth.lost.contains n.toNat = true ∧
         (isGuidon s = true → inFault u pgHLT = true) ∧ (isGuidon s = false → u = { s with hlth := { s.hlth with lost := insNat s.hlth.lost n.toNat } })))) ∧
  (∀ (n : BitVec 16) (s : State), live s = true → s.hlth.hoists = [] →
     (n.toNat = ownNode s → fld s R.HLT_HOIST 2 0 = 1 → ∃ u, Effect (.hoistSelftestDone n true) s u ∧ regN u R.HLT_HOIST = 2 ∧ flag u R.REG_OUTER_GATE 0 = true ∧
       RegsKept s u [R.HLT_HOIST, R.REG_OUTER_GATE] [] ∧ u = { s with regs := u.regs }) ∧
     (n.toNat = ownNode s → fld s R.HLT_HOIST 2 0 = 1 → s.store.ecc = [] → ∃ u, Effect (.hoistSelftestDone n false) s u ∧ regN u R.HLT_HOIST = 5 ∧ inFault u pgHLT = true) ∧
     (n.toNat ≠ ownNode s → isGuidon s = false → Effect (.hoistSelftestDone n true) s s ∧ Effect (.hoistSelftestDone n false) s s ∧ Effect (.hoistLoadDone n) s s) ∧
     (n.toNat = ownNode s → fld s R.HLT_HOIST 2 0 = 2 → siteTab s = none → ∃ u, Effect (.hoistLoadDone n) s u ∧ fld u R.HLT_HOIST 2 0 = 3 ∧ fld u R.HLT_HOIST 31 16 = 0xFFFF ∧
       flag u (hdr pgHLT oEVT) 3 = true ∧ flag u R.REG_OUTER_GATE 0 = decide (s.job.phase = 8))) ∧
  ((∀ s : State, live s = true →
     (s.tick.now < s.hlth.lastEval + fld s R.HLT_EVAL 23 0 → Effect .healthEval s s) ∧
     (s.hlth.lastEval + fld s R.HLT_EVAL 23 0 ≤ s.tick.now → (∀ i, i < 9 → regN s (keyB R.HLT_WEIGHT i) = 0) → hltState s ≤ 1 → fld s R.HLT_THR 10 0 ≤ 1000 → ∃ u, Effect .healthEval s u ∧
       fld u R.HLT_STAT 10 0 = 1000 ∧ hltState u = 0 ∧ fld u R.HLT_STAT 23 20 = 0 ∧ u.hlth.lastEval = s.tick.now ∧ u.hlth.events = List.replicate 9 0 ∧
       (∀ i, i < 9 → nthD 0 u.hlth.d i = decay (fld s R.HLT_EVAL 28 24) (nthD 0 s.hlth.events i) (nthD 0 s.hlth.d i)) ∧ u = { s with regs := u.regs, hlth := u.hlth })) ∧
   (∀ (n : BitVec 16) (s : State), live s = true →
     (s.job.held = false → ∀ a, Effect (.expulsionRequest n a) s s) ∧
     (s.job.held = true → isGuidon s = false → Effect (.expulsionRequest n none) s s) ∧
     (s.job.held = true → n.toNat = ownNode s → hltState s ≠ 2 → ∃ u, Effect (.expulsionRequest n (some false)) s u ∧ hltState u = 2 ∧
       regN u R.HLT_DENIED = min 0xFFFFFFFF (regN s R.HLT_DENIED + 1) ∧ flag u (hdr pgHLT oEVT) 1 = true) ∧
     (s.job.held = true → n.toNat = ownNode s → ∃ u, Effect (.expulsionRequest n (some true)) s u ∧ hltState u = 3 ∧ RegsKept s u [R.HLT_STAT] [] ∧ u = { s with regs := u.regs }) ∧
     (s.job.held = true → isGuidon s = true → n.toNat ≠ ownNode s → freeSpares s = [] ∨ (∃ g, s.site.grant = some g ∧ s.tick.now < g + regN s R.HLT_EXP_INT) → ∃ u, Effect (.expulsionRequest n none) s u ∧
       u = { s with sent := s.sent ++ [.message .expulsionAnswer 7 n.toNat 1 [0] []] })))

/-- Hot state at the partner and change records at the parity members (R344, R345). Hot state whose check holds is kept and acknowledged, and the mirror of
the round before it stays; with a wrong check nothing happens. The acknowledgement of what was sent and waits removes it, and HLT_PARTNER.MIRROR_OK says
whether anything waits. A parity member adds a change record to its unit, P ⊕= δ or Q ⊕= α^i · δ, and acknowledges it. Each acknowledgement shortens what a
record in flight waits for. -/
def Obligations.MirrorAndParity : Prop :=
  (∀ (n : BitVec 16) (r : BitVec 48) (rs : Bool) (i c : DWord) (h d : List Byte) (s : State), live s = true →
    (crc64 (h ++ d) ≠ c.toNat → Effect (.mirrorReceive n r rs i c h d) s s) ∧
    (crc64 (h ++ d) = c.toNat → ∃ u, Effect (.mirrorReceive n r rs i c h d) s u ∧
      { node := n.toNat, round := r.toNat, resid := rs, index := i.toNat, data := d } ∈ u.hlth.held ∧
      (∀ y ∈ s.hlth.held, y.node ≠ n.toNat ∨ (r.toNat < y.round + 2 ∧ (y.round ≠ r.toNat ∨ y.resid ≠ rs ∨ y.index ≠ i.toNat)) → y ∈ u.hlth.held) ∧
      u = { s with hlth := { s.hlth with held := u.hlth.held }, sent := s.sent ++ [.message .mirrorAck 7 n.toNat 5 [r.toNat, ofBool rs, i.toNat] []] })) ∧
  (∀ (rs : Bool) (i : DWord) (s : State), live s = true →
    (s.hlth.mirOut.contains (rs, i.toNat) = false → Effect (.mirrorAck rs i) s s) ∧
    (s.hlth.mirOut.contains (rs, i.toNat) = true → ∃ u, Effect (.mirrorAck rs i) s u ∧ u.hlth = { s.hlth with mirOut := s.hlth.mirOut.erase (rs, i.toNat) } ∧
      (flag u R.HLT_PARTNER 16 = true ↔ s.hlth.mirOut = [(rs, i.toNat)]) ∧ fld u R.HLT_PARTNER 15 0 = fld s R.HLT_PARTNER 15 0 ∧
      RegsKept s u [R.HLT_PARTNER] [] ∧ u = { s with regs := u.regs, hlth := u.hlth })) ∧
  (∀ (n : BitVec 16) (g : Fin 1024) (q : Bool) (p : Fin 8) (j : DWord) (r : BitVec 48) (d : List Byte) (s : State), live s = true →
    ((∀ x, s.hlth.groups[g.val]? = some x → (if q then x.q else x.p) ≠ ownNode s) → Effect (.changeRecord n g q p j r d) s s) ∧
    (∀ x, s.hlth.groups[g.val]? = some x → (if q then x.q else x.p) = ownNode s → ∃ u, Effect (.changeRecord n g q p j r d) s u ∧
      let own (y : Parity) := y.group == g.val && y.q == q && y.unit == j.toNat
      let δ := if q then d.map (fun b => BitVec.ofNat 8 (rsMul (rsPow p.val) b.toNat)) else d
      (s.hlth.parity.find? own = none → ∃ y, u.hlth.parity.find? own = some y ∧ y.data = δ ∧ nthD 0 y.rounds p.val = r.toNat) ∧
      (∀ o, s.hlth.parity.find? own = some o → ∃ y, u.hlth.parity.find? own = some y ∧ y.data = xorBytes o.data δ ∧ nthD 0 y.rounds p.val = r.toNat ∧
        ∀ k, k ≠ p.val → nthD 0 y.rounds k = nthD 0 o.rounds k) ∧
      u = { s with hlth := { s.hlth with parity := u.hlth.parity }, sent := s.sent ++ [.message .changeAck 7 n.toNat 5 [j.toNat, r.toNat] []] })) ∧
  (∀ (n : BitVec 16) (j : DWord) (r : BitVec 48) (a : Bool) (s : State), live s = true →
    (r.toNat ≠ s.hlth.round → Effect (.changeRecordAck n j r a) s s) ∧
    (∀ x m v, r.toNat = s.hlth.round → s.hlth.out = [x] → x.unit = j.toNat → x.want = [n.toNat, m] → m ≠ n.toNat → jobParts s = some v → ∃ u, Effect (.changeRecordAck n j r a) s u ∧
      u = { s with hlth := { s.hlth with allDone := s.hlth.allDone || a, out := [{ x with want := [m] }] } }) ∧
    (∀ x v, r.toNat = s.hlth.round → s.hlth.out = [x] → x.unit = j.toNat → x.want = [n.toNat] → x.write = none → jobParts s = some v → ∃ u, Effect (.changeRecordAck n j r a) s u ∧
      u.hlth = { s.hlth with allDone := s.hlth.allDone || a, out := [], acked := insNat s.hlth.acked j.toNat } ∧
      RegsKept s u [R.HLT_PROT_LO, R.HLT_PROT_HI] [] ∧ u.mem = s.mem ∧ u = { s with regs := u.regs, hlth := u.hlth }))

/-! ### Numbers -/

/-- R81. Each of the five formats writes its canonical NaN; every code of a NaN decodes as the one NaN, signalling or not; every other code decodes to a
number that encodes as the code it came from, subnormals and the signs of zeros and infinities included, so that nothing is flushed on input or on output;
and an operation on any values, NaN among them, raises no flag: MUL changes no register, event or fault. -/
def Obligations.NanRule : Prop :=
  (∀ mx : Bool, encodeF fp32 mx .nan = 0x7FC00000 ∧ encodeF bf16 mx .nan = 0x7FC0 ∧ encodeF fp16 mx .nan = 0x7E00 ∧ encodeF e4m3 mx .nan = 0x7F ∧ encodeF e5m2 mx .nan = 0x7E) ∧
  (∀ f ∈ [fp32, bf16, fp16, e4m3, e5m2], ∀ code : Nat, code < 2 ^ (1 + f.ebits + f.mbits) →
    let nan := if f = e4m3 then code % 128 = 0x7F else code / 2 ^ f.mbits % 2 ^ f.ebits = 2 ^ f.ebits - 1 ∧ code % 2 ^ f.mbits ≠ 0
    (nan → decodeF f code = .nan) ∧
    (¬nan → decodeF f code ≠ .nan ∧ encodeF f false (decodeF f code) = code) ∧
    (¬nan → code % 2 ^ (f.ebits + f.mbits) ≠ 0 → isZero (decodeF f code) = false)) ∧
  (∀ (w : BitVec 12) (q : BitVec 48) (s : State) (st : Stream) (t : Tile) (x y : List Val), live s = true → t.hop + 1 < st.hops → HopAt s w.toNat q.toNat stVECTOR (· == 0x22) st t →
    hopVals (accessOf st t) t s = (.ok x, s) → operandVals (accessOf st t) st t 0 s = (.ok y, s) →
    ∃ u, Effect (.mulOp w q) s u ∧ u.regs = s.regs ∧ u.irq = s.irq ∧ u.flt = s.flt)

/-- Exact sums and exponent records do not depend on the order of what they gather (R89, R91, R96, R100): a sum of any values is the same whatever their
order, records combine in any grouping and order, and a partial sum that its container holds is the same after any move between containers. -/
def Obligations.SumsInAnyOrder : Prop :=
  (∀ l m : List Val, l.Perm m → exactSum l = exactSum m) ∧
  (∀ a b c : Nat, combineRecords a b = combineRecords b a ∧ combineRecords (combineRecords a b) c = combineRecords a (combineRecords b c)) ∧
  (∀ (w x : Nat) (i : Int), 1 ≤ w → w ≤ x → -(2 ^ (w - 1) : Nat) ≤ i → i < (2 ^ (w - 1) : Nat) → signedOf w (unsignedOf w i) = i ∧ signedOf x (unsignedOf x (signedOf w (unsignedOf w i))) = i)

/-! ### The operations of a hop -/

/-- A hop operation acts on the one tile that stands admitted at a hop of its station with its code; where there is none, nothing happens (R60, R109 to
R111). A tile completes at its route's last hop (R53, R62, R64, R65, R74): the four fields are written back in its descriptor; its record, with the ring's
PHASE, stands at the ring's tail, which moves on; the stream's oldest tile is taken away and its head moves past the descriptor. Where the ring is full
nothing is written, and the tile waits. -/
def Obligations.HopsAndCompletion : Prop :=
  (∀ (w : BitVec 12) (q : BitVec 48) (s : State), live s = true →
     let idle (station : Nat) (op : Nat → Bool) := ∀ st, streamAt s w.toNat = some st → actingTile st q.toNat station op = none
     (idle stMATRIX (· == 1) → Effect (.gemm w q) s s) ∧ (idle stMATRIX (· == 2) → Effect (.projLeft w q) s s) ∧ (idle stMATRIX (· == 3) → Effect (.projRight w q) s s) ∧
     (idle stMATRIX (· == 4) → Effect (.residual w q) s s) ∧ (idle stVECTOR (· == 1) → Effect (.formDelta w q) s s) ∧ (idle stVECTOR (· == 2) → Effect (.exprec w q) s s) ∧
     (idle stVECTOR (· == 3) → Effect (.quant w q) s s) ∧ (idle stVECTOR (· == 4) → Effect (.gramA w q) s s) ∧ (idle stVECTOR (· == 5) → Effect (.chol w q) s s) ∧
     (idle stVECTOR (· == 6) → Effect (.trsolveA w q) s s) ∧ (idle stVECTOR (· == 7) → Effect (.gramB w q) s s) ∧ (idle stVECTOR (· == 8) → Effect (.trsolveB w q) s s) ∧
     (idle stVECTOR (· == 9) → Effect (.applyStep w q) s s) ∧ (idle stVECTOR (· == 0x20) → Effect (.convert w q) s s) ∧ (idle stVECTOR (· == 0x21) → Effect (.addOp w q) s s) ∧
     (idle stVECTOR (· == 0x22) → Effect (.mulOp w q) s s) ∧ (idle stVECTOR (· == 0x23) → Effect (.axpby w q) s s) ∧ (idle stVECTOR (· == 0x24) → Effect (.maxmin w q) s s) ∧
     (idle stPROJECT (· == 1) → Effect (.drawSketch w q) s s) ∧ (idle stPROJECT (· == 2) → Effect (.drawStart w q) s s) ∧ (idle stPROJECT (· == 3) → Effect (.fill w q) s s) ∧
     (idle stCODEC (· == 0) → Effect (.pass w q) s s) ∧ (idle stCODEC (· == 1) → Effect (.encodeCur w q) s s) ∧ (idle stCODEC (fun op => decide (8 ≤ op)) → Effect (.encodeSlot w q) s s) ∧
     (idle stEXPAND (· == 0) → Effect (.decode w q) s s) ∧ (idle stREDUCE (· == 1) → Effect (.collective w q) s s) ∧ (idle stSEAL (· == 1) → Effect (.make w q) s s) ∧
     (idle stSEAL (· == 2) → Effect (.check w q) s s) ∧ (idle stFABRIC (fun _ => true) → Effect (.fabricOut w q) s s) ∧ (idle stLINE (fun _ => true) → Effect (.lineOut w q) s s) ∧
     (idle stHOST (fun _ => true) → Effect (.hostOut w q) s s)) ∧
  (∀ (w : BitVec 12) (q : BitVec 48) (s : State) (st : Stream) (t : Tile) (bs : List Byte) (n : Nat), live s = true → HopAt s w.toNat q.toNat stCODEC (· == 0) st t →
     t.hop + 1 = st.hops → dstStorage st t = false → t.txLeft = 0 → st.tiles = [t] → hopInput (accessOf st t) t s = (.ok bs, s) → (bitOf t.desc.attr 1 && isSealed s st t) = false →
     cringSize s t.desc.ring = some n →
     let tail := fld s (keyB R.CRING_TAIL t.desc.ring) 15 0
     let full := (tail + 1) % n = fld s (keyB R.CRING_HEAD t.desc.ring) 15 0
     let t1 := handOn t bs
     (full → ∃ u, Effect (.pass w q) s u ∧ streamAt u w.toNat = some { st with tiles := [{ t1 with finished := true, withheld := true, doneTick := some s.tick.now }] } ∧
       fld u (keyB R.CRING_TAIL t.desc.ring) 15 0 = tail ∧ flag u (hdr pgSTRM oEVT) 2 = true) ∧
     (∀ d k, ¬full → s.store.ecc = [] → t.landing = none → s.coll.purposes = [] → s.job.held = false → bitOf t.desc.attr 4 = false → t.late = 0 → t.delay = 0 →
       PlacedAt s (st.sqBase + 64 * t.desc.qidx + 0x03) 1 (d + 0x03) → PlacedAt s (st.sqBase + 64 * t.desc.qidx + 0x2A) 1 (d + 0x2A) →
       PlacedAt s (st.sqBase + 64 * t.desc.qidx + 0x34) 12 (d + 0x34) → PlacedAt s (cringBase s t.desc.ring + 32 * tail) 32 k → k + 32 ≤ d ∨ d + 64 ≤ k →
       ∃ u, Effect (.pass w q) s u ∧ streamAt u w.toNat = some { st with tiles := [], head := (t.desc.qidx + 1) % 2 ^ st.sqLog2 } ∧
         rawRead u (d + 0x03) 1 = bytesLE 1 t.hop ∧ rawRead u (d + 0x2A) 1 = bytesLE 1 cSERVED ∧ rawRead u (d + 0x34) 12 = bytesLE 6 t.desc.tickSub ++ bytesLE 6 s.tick.now ∧
         rawRead u k 32 = tileRecord st t1 s.tick.now (mapGet true s.strm.phase t.desc.ring) ∧
         (∀ a, (a < k ∨ k + 32 ≤ a) → (a < d ∨ d + 64 ≤ a) → memByte u.mem a = memByte s.mem a) ∧
         fld u (keyB R.CRING_TAIL t.desc.ring) 15 0 = (tail + 1) % n ∧ RegsKept s u [keyB R.CRING_TAIL t.desc.ring] [] ∧
         u = { s with regs := u.regs, mem := u.mem, strm := u.strm }))

/-- The member operations (R86, R94, R95, R110, R124, R125), on a tile's input at a hop of MATRIX or VECTOR before the last, with the operands that can be
read, integers of a held grid taken on it. Each element of a result is rounded once from its exact expression, and the elements that overflow are counted; MAXMIN
hands on the winners' own bits. The target format of CONVERT, and which of maximum and minimum MAXMIN takes, are free values of the tile's format. -/
def Obligations.MemberOperations : Prop :=
  ∀ (w : BitVec 12) (q : BitVec 48) (s : State) (st : Stream) (t : Tile), live s = true → t.hop + 1 < st.hops →
    let el := tileElem t
    let here (station : Nat) (op : Nat) := HopAt s w.toNat q.toNat station (· == op) st t
    let input (x : List Val) := hopVals (accessOf st t) t s = (.ok x, s)
    let operand (k : Nat) (y : List Val) := operandVals (accessOf st t) st t k s = (.ok y, s)
    let param (n : Nat) (b : List Byte) := hopRead (accessOf st t) (nthD 0 st.operand 2) n s = (.ok b, s)
    let result (a : State) (r : List Byte) := hopDone a w.toNat st { handOn t r with formed := true }
    let each (x : List Val) (f : Nat → Val) := (List.range x.length).map f
    (∀ x, here stVECTOR 0x20 → input x → Effect (.convert w q) s (result s (encodeTensor ((elemOf (Config.convertTarget (choiceKey t) % 15)).getD .raw) x))) ∧
    (∀ (x : List Val) (f : Nat → List Val), here stVECTOR 0x21 → input x → (∀ k, k < 3 → nthD 0 st.operand k ≠ 0 → operand k (f k)) →
      let l := each x (fun i => exactSum (nthD vzero x i :: ((List.range 3).filter (fun k => nthD 0 st.operand k != 0)).map (fun k => nthD vzero (f k) i)))
      Effect (.addOp w q) s (result (bumpBy s R.ARITH_OVF_CNT (sumOverflows el l)) (encodeTensor el l))) ∧
    (∀ x y, here stVECTOR 0x22 → input x → operand 0 y →
      Effect (.mulOp w q) s (result s (encodeTensor el (each x (fun i => mulVal (nthD vzero x i) (nthD vzero y i)))))) ∧
    (∀ x y pr, here stVECTOR 0x23 → input x → operand 0 y → param 8 pr →
      let l := each x (fun i => exactSum [mulVal (decodeF fp32 (leAt pr 0 4)) (nthD vzero x i), mulVal (decodeF fp32 (leAt pr 4 4)) (nthD vzero y i)])
      Effect (.axpby w q) s (result (bumpBy s R.ARITH_OVF_CNT (sumOverflows el l)) (encodeTensor el l))) ∧
    (∀ x y, here stVECTOR 0x24 → hopCells (accessOf st t) t s = (.ok x, s) → operandCells (accessOf st t) st t 0 s = (.ok y, s) →
      Effect (.maxmin w q) s (result s (rawTensor el ((cellWinners el (Config.maxminMax (choiceKey t)) x y).map (fun z => z.2.1))))) ∧
    (∀ bs pb bb ea eb ed, here stMATRIX 1 → hopInput (accessOf st t) t s = (.ok bs, s) → param 16 pb → elemOf (leAt pb 8 1) = some ea → elemOf (leAt pb 9 1) = some eb → elemOf (leAt pb 10 1) = some ed →
      1 ≤ leAt pb 8 1 → leAt pb 8 1 ≤ 12 → 1 ≤ leAt pb 9 1 → leAt pb 9 1 ≤ 12 → 1 ≤ leAt pb 10 1 → leAt pb 10 1 ≤ 3 →
      let k := leAt pb 0 4
      let n := leAt pb 4 4
      let a := decodeTensor ea bs;
      1 ≤ k → k ≤ 2 ^ 24 → 1 ≤ n → n ≤ 2 ^ 16 → (isScaled ea = true ∨ isScaled eb = true → k % 32 = 0) → a.length % k = 0 → tensorBytes ea a.length = bs.length →
      hopRead (accessOf st t) (nthD 0 st.operand 0) (tensorBytes eb (k * n)) s = (.ok bb, s) →
      let d := (pieces k a).flatMap (fun row => (List.range n).map (fun col => exactSum (row.zipIdx.map (fun y => mulVal y.1 (nthD vzero (decodeTensor eb bb) (y.2 * n + col))))))
      Effect (.gemm w q) s (result (bumpBy s R.ARITH_OVF_CNT (sumOverflows ed d)) (encodeTensor ed d)))

/-- Coding and decoding at hops before the last (R56, R129, R130, R141, R143, R145, R147, R151). A sealed tile that asks for coding ends SEALED, and is
counted. PASS hands its tile on as it is, where no staging is named. An encoding hop codes where the tile's source asks and its context has the slot READY: the coded form is taken when
it is shorter, its blocks counted. While the slot loads the tile is withheld; with no table, or no context, it passes plain and is counted. DECODE waits
while a table it needs is fetched into the cache, then hands on the bytes of every block of a coded tile, or ends it CORRUPT. -/
def Obligations.CodecHops : Prop :=
  ∀ (w : BitVec 12) (q : BitVec 48) (s : State) (st : Stream) (t : Tile) (bs : List Byte), live s = true → t.hop + 1 < st.hops → dstStorage st t = false → hopInput (accessOf st t) t s = (.ok bs, s) →
    let lock := bitOf t.desc.attr 1 && isSealed s st t
    let here (station : Nat) (op : Nat → Bool) := HopAt s w.toNat q.toNat station op st t
    let plain (a : State) := hopDone a w.toNat st (handOn t bs)
    (here stCODEC (· == 0) → lock = true → Effect (.pass w q) s (failTile (bump s R.CODEC_SEALED) w.toNat t cSEALED)) ∧
    (here stCODEC (· == 0) → lock = false → Effect (.pass w q) s (plain s)) ∧
    (∀ (c : Instr) (pick : Nat → Nat), (c = .encodeCur w q ∧ here stCODEC (· == 1) ∧ pick = fun k => fld s (ctxCfg k) 19 17) ∨
        (c = .encodeSlot w q ∧ here stCODEC (fun op => decide (8 ≤ op)) ∧ pick = fun _ => nthD 0 st.op t.hop - 8) →
      let wants := inRun s pgCODEC = true ∧ bitOf t.desc.attr 1 = true ∧ ∃ r, refRegion s t.table t.desc.src = some r ∧ r.compress = true
      (lock = true → Effect c s (failTile (bump s R.CODEC_SEALED) w.toNat t cSEALED)) ∧
      (lock = false → ¬wants → Effect c s (plain s)) ∧
      (lock = false → wants → codeContext s st t = (none, false) → Effect c s (plain s)) ∧
      (lock = false → wants → codeContext s st t = (none, true) → Effect c s (plain (bump s R.CODEC_PLAIN_NOCTX))) ∧
      (∀ k b, lock = false → wants → codeContext s st t = (some k, b) →
        let key := cslotKey k 0 (pick k)
        let imgs := tileImages (cslot s key) (pick k) bs
        let coded := imgs.filter (fun i => !imgRaw i)
        ((cslot s key).state = 0 → Effect c s (plain (bump s R.CODEC_PLAIN_NOTBL))) ∧
        ((cslot s key).state = 1 → Effect c s (holdTile s w.toNat t)) ∧
        ((cslot s key).state = 2 → bs.length ≤ imgs.flatten.length → Effect c s (plain s)) ∧
        ((cslot s key).state = 2 → imgs.flatten.length < bs.length →
          let a := countIn (bumpBy (bumpBy (bumpBy s R.CODEC_BLK_CODED coded.length) R.CODEC_BLK_RAW (imgs.length - coded.length)) R.CODEC_GRAN_OUT ((coded.map imgGranules).sum)) [(key, coded.length)]
          Effect c s (hopDone a w.toNat st { handOn t imgs.flatten with coded := true, ctx := k, blocks := [(key, coded.length)] })))) ∧
    (here stEXPAND (· == 0) → t.coded = false → Effect (.decode w q) s (hopDone s w.toNat st { handOn t bs with blocks := [] })) ∧
    (∀ u, here stEXPAND (· == 0) → t.coded = true → fetchTables (hopPlace (hopAt st t.hop)) t.ctx (cutImages (blockLens t.desc.len) bs) s = (.ok true, u) →
      Effect (.decode w q) s u) ∧
    (∀ res a, here stEXPAND (· == 0) → t.coded = true → fetchTables (hopPlace (hopAt st t.hop)) t.ctx (cutImages (blockLens t.desc.len) bs) s = (.ok false, s) →
      decodeAll (hopPlace (hopAt st t.hop)) t.ctx (t.desc.dst % 2 ^ 46) ((cutHeads (blockLens t.desc.len) bs).zip (cutImages (blockLens t.desc.len) bs)) s = (res, a) →
      (res.all Option.isSome = true → Effect (.decode w q) s (hopDone (countOut a t.blocks) w.toNat st { handOn t (res.flatMap (fun r => r.getD [])) with coded := false, blocks := [] })) ∧
      (res.all Option.isSome = false →
        Effect (.decode w q) s (failTile (flagAbort a t.desc.round false) w.toNat { t with endHop := some (5 + 16 * hopPlace (hopAt st t.hop)) } cCORRUPT)))

/-- Projection (R19, R111, R114, R115). A PROJECT hop draws, beside its tile, the rows that the next hop multiplies with, converted once: the sketch, the
starting factor, or the carry. PROJ_LEFT adds each element's product with its row to the sums of its row of LP; PROJ_RIGHT its product with the row of LO to
the sums of its column's row of QP. The sums stay exact while terms are still to come, nothing being written. A direct panel takes no part. The element
operations of a round (R20, R107, R112, R118, R119, R345). FORM_DELTA hands on Δ = θ − s + e, each element rounded once, staged in scratchpad alone. RESIDUAL
writes Δ less the reconstruction at the place of the residual that the round writes. APPLY writes θ′ and u′ in place and hands on θ′ in BF16. An operation
whose round is not in its phase, or whose earlier whole result is not there, is withheld: APPLY until the round is committed, RESIDUAL also while the
protection of the round before is not complete. -/
def Obligations.ProjectionAndElements : Prop :=
  (∀ (w : BitVec 12) (q : BitVec 48) (s : State) (st : Stream) (t : Tile), live s = true → t.hop + 1 < st.hops →
     let c := accessOf st t
     let round := t.desc.round
     let here (station : Nat) (op : Nat) := HopAt s w.toNat q.toNat station (· == op) st t
     let held := holdTile s w.toNat t
     let draws (cmd : Instr) (k : Nat) := (k = 1 ∧ cmd = .drawSketch w q) ∨ (k = 2 ∧ cmd = .drawStart w q) ∨ (k = 3 ∧ cmd = .fill w q)
     (∀ cmd k, draws cmd k → here stPROJECT k →
       (inRound s round = false → applyMay s round = false → Effect cmd s held) ∧
       (∀ (o : Ocr) (ps : List Panel) (e n : Nat), inRound s round = true ∨ applyMay s round = true → hopJob st s = (.ok (o, ps), s) → TileAt o t e n →
         let beside (rows : List (Nat × Nat × List Val)) := hopDone s w.toNat st { t with draw := some k, rows := rows, outLen := t.desc.len }
         let drawn (f : Panel → Nat → List Val) := (panelRuns ps e n).flatMap (fun r => if r.1.rank = 0 then [] else
           (neededRows r.1 r.2.1 r.2.2).map (fun j => (r.1.index, j, convertRow (pfmtElem o) (f r.1 j))))
         (k = 1 → Effect cmd s (beside (drawn (fun p j => omegaRow o p round j)))) ∧ (k = 2 → Effect cmd s (beside (drawn (fun p j => startRow o p j)))) ∧
         (∀ l, k = 3 → HopM.each (drawRun c o round 3) (panelRuns ps e n) s = (.ok l, s) → Effect cmd s (beside l.flatten)))) ∧
     (here stMATRIX 2 → inRound s round = false → Effect (.projLeft w q) s held) ∧ (here stMATRIX 3 → projRightMay s round = false → Effect (.projRight w q) s held) ∧
     (∀ (o : Ocr) (ps : List Panel) (p : Panel) (e n lo : Nat) (bs : List Byte) (v : List Val),
       let a := notePhase s round 3
       s.store.ecc = [] → hopJob st a = (.ok (o, ps), a) → TileAt o t e n → hopInput c t a = (.ok bs, a) → deltaRuns (o, ps) (e, n) bs = [(p, lo, v)] →
       let d := v.zipIdx
       let row (x : Val × Nat) := (rowCol p (lo + x.2)).1
       let col (x : Val × Nat) := (rowCol p (lo + x.2)).2
       (∀ rows, inRound s round = true → here stMATRIX 2 → leftRows c (o, ps) t (e, n) a = (.ok rows, a) →
         (t.draw.isSome = true → rows = t.rows) ∧ (p.rank = 0 → Effect (.projLeft w q) s (hopDone a w.toNat st t)) ∧
         (0 < p.rank → p.rank % 32 = 0 → p.rank ≤ 1024 → p.rows ≤ 2 ^ 24 →
           let y (j : Nat) := (drawnRow rows p j).getD []
           let mine (i : Nat) := d.filter (fun x => row x == i)
           (∀ x ∈ d, (y (col x)).length = p.rank) →
           (∀ i c, c < p.rank → (mapGet [] s.job.acc (accKey 0 p.index (i * p.rank + c))).length + (mine i).length < p.cols) →
           ∃ u, Effect (.projLeft w q) s u ∧ u = { hopDone a w.toNat st t with job := { a.job with acc := u.job.acc } } ∧
             ∀ i c, i < p.rows → c < p.rank → mapGet [] u.job.acc (accKey 0 p.index (i * p.rank + c)) =
               mapGet [] s.job.acc (accKey 0 p.index (i * p.rank + c)) ++ (mine i).map (fun x => mulVal x.1 (nthD vzero (y (col x)) c)))) ∧
       (projRightMay s round = true → here stMATRIX 3 → (p.rank = 0 → Effect (.projRight w q) s (hopDone a w.toNat st t)) ∧
         (∀ l : Nat → List Val, 0 < p.rank → p.rank % 32 = 0 → p.rank ≤ 1024 → p.cols ≤ 2 ^ 24 → (∀ x ∈ d, readRow c o p .lo (row x) a = (.ok (l (row x), false), a)) →
           (∀ i, (l i).length = p.rank) →
           let mine (j : Nat) := d.filter (fun x => col x == j)
           (∀ j c, c < p.rank → (mapGet [] s.job.acc (accKey 1 p.index (j * p.rank + c))).length + (mine j).length < p.rows) →
           ∃ u, Effect (.projRight w q) s u ∧ u = { hopDone a w.toNat st t with job := { a.job with acc := u.job.acc } } ∧
             ∀ j c, j < p.cols → c < p.rank → mapGet [] u.job.acc (accKey 1 p.index (j * p.rank + c)) =
               mapGet [] s.job.acc (accKey 1 p.index (j * p.rank + c)) ++ (mine j).map (fun x => mulVal x.1 (nthD vzero (convertRow (pfmtElem o) (l (row x))) c)))))) ∧
  (∀ (w : BitVec 12) (q : BitVec 48) (s : State) (st : Stream) (t : Tile) (o : Ocr) (ps : List Panel) (e n : Nat), live s = true → t.hop + 1 < st.hops → TileAt o t e n →
     let c := accessOf st t
     let round := t.desc.round
     let here (station : Nat) (op : Nat) := HopAt s w.toNat q.toNat station (· == op) st t
     let held := holdTile s w.toNat t
     (here stVECTOR 1 → inRound s round = false → Effect (.formDelta w q) s held) ∧
     (∀ (th re : Panel × Nat × Nat → List Val) (sb : Panel × Nat × Nat → List Byte),
       let a := notePhase s round 2
       let spans := deltaSpans o ps (e, n)
       here stVECTOR 1 → inRound s round = true → hopJob st a = (.ok (o, ps), a) →
       (∀ r ∈ spans, readF32 c (o.outer + 4 * r.2.1) r.2.2 a = (.ok (th r), a) ∧ hopRead c (o.snap + 2 * r.2.1) (2 * r.2.2) a = (.ok (sb r), a) ∧
         readF32 c (residRead o round + 4 * r.2.1) r.2.2 a = (.ok (re r), a)) →
       let l := spans.map (fun r => (r.1, r.2.1, ((th r).zip ((decodeTensor (.float bf16) (sb r)).zip (re r))).map (fun x => exactSum [x.1, negVal x.2.1, x.2.2])))
       let out := encodeDelta o l
       let b := (countDelta o (e, n) l a).2
       let at' := t.desc.dst % 2 ^ 46
       (t.desc.dst = 0 ∨ 2 ≤ refForm t.desc.dst → Effect (.formDelta w q) s (hopDone b w.toNat st (handOn t out))) ∧
       (t.desc.dst ≠ 0 → refForm t.desc.dst ≤ 1 → refForm t.desc.dst = 1 ∨ at' < directBase → Effect (.formDelta w q) s (failTile b w.toNat t cPOLICY)) ∧
       (∀ k, refForm t.desc.dst = 0 → directBase ≤ at' → Sound s → Reach s c true at' out.length k →
         ∃ d, hopWrite c false at' out b = (.ok (), d) ∧ Effect (.formDelta w q) s (hopDone (noteStaged round at' out.length d) w.toNat st (handOn t out)))) ∧
     (let a := notePhase s round 7;
       here stMATRIX 4 →
       (residualMay s round = false ∨ residMay s round = false → Effect (.residual w q) s held) ∧
       (∀ terms : List (List Val), residualMay s round = true → residMay s round = true → hopJob st a = (.ok (o, ps), a) → deltaTerms c o round e n a = (.ok terms, a) →
         (∀ p, terms ≠ [] → panelOf ps e = some p → reducedSpecial c o p round (rowCol p e).1 (rowCol p e).2 a = (.ok true, a) →
           Effect (.residual w q) s (failTile (flagSpecial (raise a 0 fARITH_SPECIAL 0 round) round) w.toNat t cABORTED)) ∧
         (∀ (g : Nat → List Val) (x : Nat),
           (∀ k, k < terms.length → ∃ p, panelOf ps (e + k) = some p ∧ reducedSpecial c o p round (rowCol p (e + k)).1 (rowCol p (e + k)).2 a = (.ok false, a) ∧
             reconTerms c o p t.rows round (rowCol p (e + k)).1 (rowCol p (e + k)).2 false a = (.ok (g k), a)) →
           let l := terms.zipIdx.map (fun x => exactSum (x.1 ++ (g x.2).map negVal))
           let r := encodeTensor (.float fp32) l
           Sound s → isData s = false → Reach s c true (residWrite o round + 4 * e) r.length x →
           ∃ b, hopWrite c false (residWrite o round + 4 * e) r (bumpBy a R.ARITH_OVF_CNT (sumOverflows (.float fp32) l)) = (.ok (), b) ∧
             let d := if b.job.held ∧ round = b.job.round then { b with job := { b.job with residDone := b.job.residDone + n } } else b
             Effect (.residual w q) s (hopDone d w.toNat st { t with outLen := r.length })))) ∧
     (here stVECTOR 9 → applyMay s round = false → Effect (.applyStep w q) s held) ∧
     (∀ (th us : List Val) (g : Nat → List Val) (x y : Nat), here stVECTOR 9 → applyMay s round = true → hopJob st s = (.ok (o, ps), s) →
       readF32 c (o.outer + 4 * e) n s = (.ok th, s) → readF32 c (o.mom + 4 * e) n s = (.ok us, s) →
       (∀ k, k < (th.zip us).length → ∃ p, panelOf ps (e + k) = some p ∧ reconTerms c o p t.rows round (rowCol p (e + k)).1 (rowCol p (e + k)).2 true s = (.ok (g k), s)) →
       let all := (th.zip us).zipIdx.map (fun z => applyElem (decodeF fp32 o.mu) (decodeF fp32 o.eta) z.1.1 z.1.2 (exactSum (g z.2)) s.job.contributors false false)
       let l := all.map (·.1)
       Sound s → isData s = false → Reach s c true (o.outer + 4 * e) (4 * n) x → Reach s c true (o.mom + 4 * e) (4 * n) y →
       ∃ a b, hopWrite c false (o.outer + 4 * e) (encodeTensor (.float fp32) (l.map (·.1))) (bumpBy s R.ARITH_OVF_CNT (sumOverflows (.float fp32) (all.flatMap (·.2)))) = (.ok (), a) ∧
         hopWrite c false (o.mom + 4 * e) (encodeTensor (.float fp32) (l.map (·.2))) a = (.ok (), b) ∧
         Effect (.applyStep w q) s (hopDone b w.toNat st (handOn t (encodeTensor (.float bf16) (l.map (·.1)))))))

/-- The factor operations of a round (R19, R97, R106, R116, R117, R120), at hops before the last. One whose round is not in progress, or that would come
before the whole result it needs, is withheld. Each of the seven others completes where its tile covers whole rows of its part, what it reads is readable,
and what it writes may be written. EXPREC hands on an exponent record for each block. QUANT writes each block's codes and agreed scale, and hands them on.
GRAM_A and GRAM_B add the products of each of their rows to the sums of GM, and when the last term has come write each sum, rounded once; a special granule
ends the tile ABORTED_ROUND. CHOL writes the 32 columns of LF that begin at its tile's first row. TRSOLVE_A and TRSOLVE_B write the rows of LO that solve
against LF. -/
def Obligations.FactorOperations : Prop :=
  ∀ (w : BitVec 12) (q : BitVec 48) (s : State) (st : Stream) (t : Tile) (o : Ocr) (ps : List Panel), live s = true → t.hop + 1 < st.hops → hopJob st s = (.ok (o, ps), s) →
    let c := accessOf st t
    let round := t.desc.round
    let here (op : Nat) := HopAt s w.toNat q.toNat stVECTOR (· == op) st t
    let held := holdTile s w.toNat t
    let may (l : List (Nat × List Byte)) := Sound s ∧ ∀ x ∈ l, ∃ k, Reach s c true x.1 x.2.length k
    (exprecMay s t = false → here 2 → Effect (.exprec w q) s held) ∧ (quantMay s round (tilePass s t) = false → here 3 → Effect (.quant w q) s held) ∧
    (reduceMay0 s round = false → (here 4 → Effect (.gramA w q) s held) ∧ (here 7 → Effect (.gramB w q) s held) ∧ (here 5 → Effect (.chol w q) s held) ∧
      (here 6 → Effect (.trsolveA w q) s held) ∧ (here 8 → Effect (.trsolveB w q) s held)) ∧
    (∀ l, here 2 → exprecMay s t = true → factorBlocks c o ps t s = (.ok l, s) →
      let out := l.flatMap (fun r => r.2.2.2.flatMap (fun b => bytesLE 2 (exponentRecord b)))
      let at' := t.desc.dst % 2 ^ 46
      (t.desc.dst = 0 ∨ 2 ≤ refForm t.desc.dst → Effect (.exprec w q) s (hopDone s w.toNat st (handOn t out))) ∧
      (t.desc.dst ≠ 0 → refForm t.desc.dst = 0 → may [(at', out)] →
        ∃ b, hopWrite c false at' out s = (.ok (), b) ∧ Effect (.exprec w q) s (hopDone (noteStaged round at' out.length b) w.toNat st (handOn t out))) ∧
      (∀ b, refForm t.desc.dst = 1 → stageOut c t out s = (.ok (), b) → Effect (.exprec w q) s (hopDone b w.toNat st (handOn t out)))) ∧
    (∀ (l : List (Panel × Part × Nat × List (List Val))) (rec : Panel × Part × Nat × List (List Val) → Nat → Nat),
      let a := notePhase s round 5
      here 3 → quantMay s round (tilePass s t) = true → hopJob st a = (.ok (o, ps), a) → factorBlocks c o ps t a = (.ok l, a) →
      (∀ r ∈ l, ∀ i, i < r.2.2.2.length → agreedRecord c (entryBase ps r.1 r.2.1 + r.2.2.1 + i) a = (.ok (rec r i), a)) →
      let code (r : Panel × Part × Nat × List (List Val)) (i : Nat) := quantBlock o (rec r i) (nthD [] r.2.2.2 i)
      let pieces := l.flatMap (fun r => (List.range r.2.2.2.length).flatMap (fun i => blockPieces o r.1 r.2.1 (r.2.2.1 + i) (code r i)))
      may pieces → ∃ b, writeMade c pieces a = (.ok (), b) ∧
        Effect (.quant w q) s (hopDone b w.toNat st (handOn t (layoutBlocks (elemBits (qfmtElem o)) (l.flatMap (fun r => (List.range r.2.2.2.length).map (code r))))))) ∧
    (∀ (cmd : Instr) (want : Part) (p : Panel) (x : Part) (row n : Nat), (cmd = .gramA w q ∧ here 4 ∧ want = .ls) ∨ (cmd = .gramB w q ∧ here 7 ∧ want = .lo) →
      reduceMay0 s round = true → tileRows o ps t s = (.ok (p, x, row, n), s) →
      (x ≠ want → Effect cmd s (failTile s w.toNat t cPOLICY)) ∧
      (∀ v : Nat → List Val × Bool, x = want → Sound s → p.rank ≤ 1024 → (∀ i, i < n → readRow c o p x (row + i) s = (.ok (v i), s) ∧ (v i).1.length = p.rank) →
        let acc (k : Nat) := mapGet [] s.job.acc (accKey 2 p.index k)
        let all (i j : Nat) := acc (i * p.rank + j) ++ (List.range n).map (fun r => mulVal (nthD vzero (v r).1 i) (nthD vzero (v r).1 j))
        ((∃ i, i < n ∧ (v i).2 = true) → Effect cmd s (failTile (flagSpecial (raise s 0 fARITH_SPECIAL 0 round) round) w.toNat t cABORTED)) ∧
        ((∀ i, i < n → (v i).2 = false) → (∀ k, k < p.rank * p.rank → (acc k).length + n < p.rows) →
          ∃ u, Effect cmd s u ∧ u = { hopDone s w.toNat st t with job := { s.job with acc := u.job.acc } } ∧
            ∀ i j, i < p.rank → j < p.rank → mapGet [] u.job.acc (accKey 2 p.index (i * p.rank + j)) = all i j) ∧
        (∀ κ, 0 < n → (∀ i, i < n → (v i).2 = false) → (∀ k, k < p.rank * p.rank → (acc k).length + n = p.rows) →
          (∀ k, k < p.rank * p.rank → Reach s c true (partAddr o p .gm + 4 * k) 4 (κ + 4 * k)) →
          ∃ u, Effect cmd s u ∧ u.strm = (hopDone s w.toNat st t).strm ∧ MemKeptBut s u κ (4 * (p.rank * p.rank)) ∧
            ∀ i j, i < p.rank → j < p.rank → mapGet [] u.job.acc (accKey 2 p.index (i * p.rank + j)) = [] ∧
              rawRead u (κ + 4 * (i * p.rank + j)) 4 = encodeTensor (.float fp32) [round32 (exactSum (all i j))]))) ∧
    (∀ (p : Panel) (x : Part) (row n : Nat), here 5 → reduceMay0 s round = true → tileRows o ps t s = (.ok (p, x, row, n), s) →
      ((x ≠ .gm ∧ x ≠ .lf) ∨ row % 32 ≠ 0 → Effect (.chol w q) s (failTile s w.toNat t cPOLICY)) ∧
      (∀ g l : List (List Val), x = .gm ∨ x = .lf → row % 32 = 0 → readSquare c o p .gm s = (.ok g, s) → readSquare c o p .lf s = (.ok l, s) →
        let cols := (List.range 32).map (row + ·)
        let out := cholCols g p.rank cols l
        let pieces := ((List.range p.rank).filter (row ≤ ·)).map (fun i => (partAddr o p .lf + 4 * (i * p.rank + row), encodeTensor (.float fp32) ((cols.filter (· ≤ i)).map (entry out i))))
        may pieces → ∃ b, hopWriteAll c false pieces s = (.ok (), b) ∧ Effect (.chol w q) s (hopDone b w.toNat st t))) ∧
    (∀ (cmd : Instr) (want : Part) (p : Panel) (x : Part) (row n : Nat), (cmd = .trsolveA w q ∧ here 6 ∧ want = .ls) ∨ (cmd = .trsolveB w q ∧ here 8 ∧ want = .lo) →
      reduceMay0 s round = true → tileRows o ps t s = (.ok (p, x, row, n), s) →
      (x ≠ want → Effect cmd s (failTile s w.toNat t cPOLICY)) ∧
      (∀ (l : List (List Val)) (v : Nat → List Val × Bool), x = want → readSquare c o p .lf s = (.ok l, s) → (∀ i, i < n → readRow c o p x (row + i) s = (.ok (v i), s)) →
        let pieces := (List.range n).map (fun i => (partAddr o p .lo + 4 * (row + i) * p.rank, encodeTensor (.float fp32) (solveRow l (v i).1)))
        may pieces → ∃ b, (if want = .lo then writeMade c pieces else hopWriteAll c false pieces) s = (.ok (), b) ∧ Effect cmd s (hopDone b w.toNat st t)))

/-- The out hops (R61, R177, R184, R189, R191, R192). While SWITCH or SCHED is not in RUN the tile is withheld; a destination that names no endpoint, or one
whose port the place does not serve, ends it REFUSED_POLICY. A unicast tile is cut into frames of at most 8,192 bytes, queued at its port in cells as one
transfer; where the cells do not let it in, or POOL is not in RUN, it is withheld, or in class 7 ends BUSY and is counted. A multicast makes a copy for each
of its targets; of a C7 tile, those that go to a hoist die whose cells are shut are dropped alone. The tile has left when its copies have. At hop 0 the same
command lands the arrived tile. -/
def Obligations.OutHops : Prop :=
  ∀ (c : Instr) (w : BitVec 12) (q : BitVec 48) (station : Nat) (s : State) (st : Stream) (t : Tile), live s = true → HopAt s w.toNat q.toNat station (fun _ => true) st t →
    (c = .fabricOut w q ∧ station = stFABRIC) ∨ (c = .lineOut w q ∧ station = stLINE) ∨ (c = .hostOut w q ∧ station = stHOST) →
    let runs := inRun s pgSW = true ∧ inRun s pgSCHED = true
    let place := hopPlace (hopAt st t.hop)
    let may (mcast : Bool) (l : List Target) := (∀ x ∈ l, portOk station place mcast x.port = true) ∧ nodesOk s station l = true
    let tight (bs : List Byte) (l : List Target) (x : Target) := decide (st.cls = 7) && c7Shut s bs l (portHoist x.port)
    let shut (bs : List Byte) (l : List Target) := l.filter (tight bs l)
    let kept (bs : List Byte) (l : List Target) := l.filter (fun x => !tight bs l x)
    (∀ bs, t.hop = 0 → 1 < st.hops → t.coded = false → t.data = some bs → Effect c s (hopDone s w.toNat st (handOn t bs))) ∧
    (t.hop ≠ 0 → ¬runs → Effect c s (holdTile s w.toNat t)) ∧
    (t.hop ≠ 0 → runs → endpointOf s st t.desc.dst = none → Effect c s (failTile s w.toNat t cPOLICY)) ∧
    (∀ mcast l, t.hop ≠ 0 → runs → endpointOf s st t.desc.dst = some (mcast, l) → ¬may mcast l → Effect c s (failTile s w.toNat t cPOLICY)) ∧
    (∀ mcast l bs k, t.hop ≠ 0 → runs → endpointOf s st t.desc.dst = some (mcast, l) → may mcast l → hopInput (accessOf st t) t s = (.ok bs, s) → (mcast = true → flag s R.SW_STATE 1 = false) →
      cellGate s st.cls bs l = some k →
      (k = cWAIT → Effect c s (holdTile s w.toNat t)) ∧ (k = cBUSY → Effect c s (failTile (dropCopies s w.toNat st t bs mcast l) w.toNat t cBUSY))) ∧
    (∀ mcast l bs outs a, t.hop ≠ 0 → runs → endpointOf s st t.desc.dst = some (mcast, l) → may mcast l → hopInput (accessOf st t) t s = (.ok bs, s) → (mcast = true → flag s R.SW_STATE 1 = false) →
      cellGate s st.cls bs l = none → copiesNormal w.toNat st t bs mcast (kept bs l) (dropCopies s w.toNat st t bs mcast (shut bs l)) = (outs, a) → some cWAIT ∈ outs →
      Effect c s (holdTile (dropTileFrames a w.toNat t.desc.seq) w.toNat t)) ∧
    (∀ x bs a, t.hop ≠ 0 → runs → endpointOf s st t.desc.dst = some (false, [x]) → may false [x] → hopInput (accessOf st t) t s = (.ok bs, s) → cellGate s st.cls bs [x] = none → st.cls ≠ 7 →
      copiesNormal w.toNat st t bs false [x] s = ([none], a) → ∃ u, Effect c s u ∧ u = hopDone a w.toNat st { t with txLeft := 1, txWorst := none, outLen := bs.length, blocks := [] } ∧
        ∃ new, u.sw.frames = s.sw.frames ++ new ∧ new.map (·.payload) = pieces 8192 bs ∧ u.sw.xfer = s.sw.xfer + 1 ∧
          ∀ f ∈ new, f.port = x.port ∧ f.cls = st.cls ∧ f.flow = st.sub ∧ f.xfer = s.sw.xfer ∧ f.tile = some (w.toNat, t.desc.seq) ∧ f.enter = s.tick.now ∧ f.cells.length = cellsOf f.payload.length) ∧
    (∀ l bs outs a, t.hop ≠ 0 → runs → endpointOf s st t.desc.dst = some (true, l) → may true l → hopInput (accessOf st t) t s = (.ok bs, s) → flag s R.SW_STATE 1 = false → cellGate s st.cls bs l = none →
      copiesNormal w.toNat st t bs true (kept bs l) (dropCopies s w.toNat st t bs true (shut bs l)) = (outs, a) → some cWAIT ∉ outs →
      let left := (outs.filter Option.isNone).length
      let worst := ((shut bs l).map (fun _ => some cBUSY) ++ outs).foldl worse none
      (left ≠ 0 → Effect c s (hopDone a w.toNat st { t with txLeft := left, txWorst := worst, outLen := bs.length })) ∧
      (left = 0 → Effect c s (failTile a w.toNat t (worst.getD cBUSY)))) ∧
    (∀ l bs a, t.hop ≠ 0 → runs → endpointOf s st t.desc.dst = some (true, l) → may true l → hopInput (accessOf st t) t s = (.ok bs, s) → flag s R.SW_STATE 1 = true →
      (sharedBuffer s t bs l.length = (none, a) → Effect c s (holdTile a w.toNat t)) ∧
      (∀ h outs b, sharedBuffer s t bs l.length = (some h, a) → copiesService w.toNat st t bs h l a = (outs, b) →
        let left := (outs.filter Option.isNone).length
        let worst := outs.foldl worse none
        (left ≠ 0 → Effect c s (hopDone b w.toNat st { t with txLeft := left, txWorst := worst, outLen := bs.length })) ∧
        (left = 0 → Effect c s (failTile b w.toNat t (worst.getD cBUSY)))))

/-- The keyed checks (R299 to R303). With SEAL not in RUN, or the batch's key gone from its slot, the tile and the rest of its batch end REFUSED_POLICY. A MAKE's first tile takes
the slot's counter into the record's IV. Each tile's bytes are absorbed and handed on. LAST ends the batch: MAKE writes the record with its tag and is
counted; CHECK counts too, and a tag that differs raises SEAL_MISMATCH and ends the tile CORRUPT. A carrier tile's hop at REDUCE (R215, R225). A tile that
carries nothing ends REFUSED_POLICY. An outgoing tile takes its part of the chunk's partial sum, or of the result it gathers; an arriving one adds its part
into the chunk, or lands in the result. One that would bring more sites than the request counts ends CORRUPT. -/
def Obligations.SealAndCarrierHops : Prop :=
  (∀ (c : Instr) (check : Bool) (w : BitVec 12) (q : BitVec 48) (s : State) (st : Stream) (t : Tile), live s = true → t.hop + 1 < st.hops →
     (c = .make w q ∧ check = false ∧ HopAt s w.toNat q.toNat stSEAL (· == 1) st t) ∨ (c = .check w q ∧ check = true ∧ HopAt s w.toNat q.toNat stSEAL (· == 2) st t) →
     let acc := accessOf st t
     let last := bitOf t.desc.attr 2
     let refused (a : State) := failTile (if last then endBatch a w.toNat else putBatch a w.toNat { refusedBatch check with seq := t.desc.seq }) w.toNat t cPOLICY
     let reach (hd : Bool) (ad n k : Nat) := checkAccess s (regionsAt s acc.table) acc.gate acc.station true acc.member hd ad n = .ok k
     (inRun s pgSEAL = false → Effect c s (refused s)) ∧
     (∀ bs rec k x ad hd, inRun s pgSEAL = true → batchOf s w.toNat st t = none → refAddr t.desc.dst s = (.ok (ad, hd), s) → ad % 64 = 0 → reach hd ad 64 k →
       hopRead acc ad 64 s = (.ok rec, s) → sealSlot s (leAt rec 0 1 % 8) = some x → x.key ≠ [] → (check = false → x.ctr ≠ 0xFFFFFFFFFFFFFFFF) → last = false →
       hopInput acc t s = (.ok bs, s) → s.store.ecc = [] →
       let iv := rec.take 8 ++ sliceBytes rec 4 4 ++ bytesBE 8 x.ctr ++ rec.drop 20
       let b : SealBatch := { check := check, addr := ad, record := if check then rec else iv, key := x.key, kslot := leAt rec 0 1 % 8, handle := hd }
       let a := if check then s else takeCounter s (leAt rec 0 1 % 8) x
       Effect c s (hopDone (putBatch a w.toNat { sealAbsorb b bs with seq := t.desc.seq }) w.toNat st (handOn t bs))) ∧
     (∀ b, inRun s pgSEAL = true → batchOf s w.toNat st t = some b →
       (b.key = [] → Effect c s (refused s)) ∧
       (∀ bs, b.key ≠ [] → hopInput acc t s = (.ok bs, s) →
         let b1 := { sealAbsorb b bs with seq := t.desc.seq }
         let tag := sealTag b1
         (last = false → Effect c s (hopDone (putBatch s w.toNat b1) w.toNat st (handOn t bs))) ∧
         (∀ k, last = true → Sound s → reach b1.handle b1.addr (sealRecord b1 tag).length k →
           ∃ a, hopWrite acc b1.handle b1.addr (sealRecord b1 tag) (endBatch s w.toNat) = (.ok (), a) ∧
           (b.check = false → Effect c s (hopDone (bump a R.SEAL_MADE) w.toNat st (handOn t bs))) ∧
           (b.check = true → tag = sliceBytes b1.record 20 16 → Effect c s (hopDone (bump a R.SEAL_CHECKED) w.toNat st (handOn t bs))) ∧
           (b.check = true → tag ≠ sliceBytes b1.record 20 16 →
             Effect c s (failTile (raise (event (bump (bump a R.SEAL_CHECKED) R.SEAL_MISMATCH) pgSEAL 0) pgSEAL fSEAL_MISMATCH 0 b1.addr) w.toNat t cCORRUPT)))))) ∧
  (∀ (w : BitVec 12) (q : BitVec 48) (s : State) (st : Stream) (t : Tile), live s = true → t.hop + 1 < st.hops → HopAt s w.toNat q.toNat stREDUCE (· == 1) st t →
     let mine (p : Purpose) := s.coll.purposes.find? (fun p => p.slot == w.toNat && p.seq == t.desc.seq) = some p
     ((∀ p, ¬mine p) → Effect (.collective w q) s (failTile s w.toNat t cPOLICY)) ∧
     (∀ p r, mine p → reqAt s p.num = some r →
       (∀ b, p.gather = true → p.out = true → r.oper ≠ 6 → r.oper ≠ 7 → hopReadSegs (accessOf st t) (segSlice (resultSegs r p.chunk) p.off p.len) s = (.ok b, s) →
         Effect (.collective w q) s (hopDone s w.toNat st (handOn t b))) ∧
       (∀ b, p.gather = true → p.out = true → r.oper = 6 ∨ r.oper = 7 → hopReadSegs (accessOf st t) (sourceSegs r p.chunk) s = (.ok b, s) →
         Effect (.collective w q) s (hopDone s w.toNat st (handOn t (((sourceBytes r p.chunk b).drop p.off).take p.len)))) ∧
       (∀ d, p.gather = true → p.out = false → t.data = some d → Sound s → (∀ x ∈ segPieces (cutSegs s (resultSegs r p.chunk)) p.off d, ∃ k, Reach s (accessOf st t) true x.1 x.2.length k) →
         ∃ a, hopWriteSegs (accessOf st t) (resultSegs r p.chunk) p.off d s = (.ok (), a) ∧ Effect (.collective w q) s (hopDone a w.toNat st { t with outLen := d.length })) ∧
       (let acts (r1 : CReq) (a : State) := ∀ x, r1.chunks.find? (fun y => y.idx == p.chunk) = some x →
          (p.out = true → Effect (.collective w q) s (hopDone a w.toNat st (handOn t (partialOut r1 x p)))) ∧
          (∀ d, p.out = false → t.data = some d →
            (isSum r1.oper = false ∨ overN r1 x p = false → Effect (.collective w q) s (hopDone (putReq a (putChunk r1 (partialIn r1 x p d))) w.toNat st { t with outLen := d.length })) ∧
            (isSum r1.oper = true → overN r1 x p = true → Effect (.collective w q) s (failTile (windowFail a false r1.group p.level p.chunk r1.round false) w.toNat t cCORRUPT)));
        (p.gather = false → (r.chunks.find? (fun y => y.idx == p.chunk)).isSome = true → acts r s) ∧
        (∀ r1 a, p.gather = false → prepChunk (accessOf st t) r p.level p.chunk s = (.ok r1, a) → acts r1 a))))

/-! ### Streams and station maps -/

/-- Doorbells and fetches (R58, R59, R75). A doorbell reaches an open stream's tail, through BAR0 only a member stream's; a stray one, and one that overruns
the ring, are counted and raise their fault. A fetch takes the descriptor at FETCH: a good one becomes a tile, present at the next boundary; a bad one raises
DESC_INVALID; one that names a ring that is not valid ends REFUSED_POLICY. Opens and closes (R73, R74). STRM_CMD through a window that may not write it, or
while a result pends, is ignored. An open is checked in the order of R73, and the first check that fails gives its code; where all hold, the lowest free slot
takes the stream, with a queue buffer for each hop after the first; for these the open waits, pending, until the POOL block runs. A close of an open stream makes it CLOSING and its result pends; of any other slot it is
refused. When everything submitted has completed, and no request of the engine needs the stream (R237), the slot is free and the result is posted. -/
def Obligations.Streams : Prop :=
  ((∀ (w : Win) (v : Word) (s : State), live s = true →
     let slot := bitsOf v.toNat 11 0
     let tail := bitsOf v.toNat 27 12
     let reaches := w = .bar2 → gateOpen s = true ∧ pageLocked s pgSTRM = false
     let counted (u : State) := regN u R.STRM_DB_STRAY = min 0xFFFFFFFF (regN s R.STRM_DB_STRAY + 1) ∧ flag u (hdr pgSTRM oEVT) 1 = true ∧ inFault u pgSTRM = true ∧ u.strm = s.strm
     (¬reaches ∨ inRun s pgSTRM = false → Effect (.strmDb w v) s s) ∧
     (reaches → inRun s pgSTRM = true → s.store.ecc = [] → (∀ st, streamAt s slot = some st → st.state ≠ 1 ∨ (w = .bar0 ∧ st.member = false)) →
       ∃ u, Effect (.strmDb w v) s u ∧ counted u) ∧
     (∀ st, reaches → inRun s pgSTRM = true → streamAt s slot = some st → st.state = 1 → (w = .bar0 → st.member = true) →
       let size := 2 ^ st.sqLog2
       let past := size ≤ tail ∨ ringFree size st.head st.tail < (tail + size - st.tail) % size
       (¬past → Effect (.strmDb w v) s (putStream s slot { st with tail := tail })) ∧
       (past → s.store.ecc = [] → ∃ u, Effect (.strmDb w v) s u ∧ counted u))) ∧
   (∀ (x : BitVec 12) (s : State), live s = true →
     (streamAt s x.toNat = none → Effect (.descFetch x) s s) ∧
     (∀ st, streamAt s x.toNat = some st →
       (blkState s pgSTRM ≠ bRUN ∨ st.fetch = st.tail → Effect (.descFetch x) s s) ∧
       (∀ b, blkState s pgSTRM = bRUN → st.fetch ≠ st.tail → hwRead s (st.sqBase + 64 * st.fetch) 64 = (some b, s) →
         let d := { parseDesc st.fetch b with tickSub := s.tick.now }
         let next := { st with fetch := (st.fetch + 1) % 2 ^ st.sqLog2, expect := (st.expect + 1) % 2 ^ 48 }
         let paced := isPort (hopStation (hopAt st 0)) = true ∧ (mapGet {} s.sw.subs st.sub).paceIn = true
         (descOk st b = true → (cringSize s d.ring).isSome = true → gemmShort s st d = false →
           let u := putStream (gemmMet s st) x.toNat { next with tiles := st.tiles ++ [{ desc := d, present := s.tick.now + 1 }] }
           Effect (.descFetch x) s (if paced then { u with sw := { s.sw with owed := s.sw.owed ++ [(x.toNat, d.seq)] } } else u)) ∧
         (descOk st b = false → s.store.ecc = [] → ∃ u, Effect (.descFetch x) s u ∧ inFault u pgSTRM = true ∧ flag u (hdr pgSTRM oEVT) 4 = true ∧
           ∃ e, streamAt u x.toNat = some e ∧ e.fetch = next.fetch ∧ e.expect = next.expect ∧ e.tail = st.tail) ∧
         (descOk st b = true → gemmShort s st d = true → Effect (.descFetch x) s (addFailed (gemmMet s st) x.toNat next d cPOLICY)) ∧
         (descOk st b = true → cringSize s d.ring = none → s.store.ecc = [] → st.tiles = [] → s.coll.purposes = [] → bitOf d.attr 4 = false → ∃ u, Effect (.descFetch x) s u ∧
           streamAt u x.toNat = some { next with tiles := [], head := (st.fetch + 1) % 2 ^ st.sqLog2, failed := insNat st.failed d.round, lasts := if bitOf d.attr 2 then insNat st.lasts d.seq else st.lasts } ∧ regN u R.STRM_REFUSED = min 0xFFFFFFFF (regN s R.STRM_REFUSED + 1)))))) ∧
  ((∀ (w : Win) (x : BitVec 12) (s : State), live s = true → (mayWrite s w R.STRM_CMD = false ∨ flag s R.STRM_RES 0 = true) → Effect (.openStream w) s s ∧ Effect (.closeStream w x) s s) ∧
   (∀ (w : Win) (s : State), live s = true → mayWrite s w R.STRM_CMD = true → flag s R.STRM_RES 0 = false → s.strm.opening = none → s.store.ecc = [] →
     let a := regN s R.STRM_OPEN_ADDR_LO + regN s R.STRM_OPEN_ADDR_HI * 0x100000000
     let answered (v : Nat) := ∃ u, Effect (.openStream w) s u ∧ regN u R.STRM_RES = v ∧ flag u (hdr pgSTRM oEVT) 0 = true ∧
       RegsKept s u (R.STRM_RES :: R.STRM_REFUSED :: evtKeys pgSTRM) [0x80] ∧ u = { s with regs := u.regs, irq := u.irq, sent := u.sent }
     let short (o : OpenRec) (k x : Nat) := cCAPACITY * 16 + recInst o k % 16 * 0x100 + recInst o k / 16 % 16 * 0x1000 + recInst o k / 256 * 0x10000 + min 0x7FFF x * 0x20000
     (a % 64 ≠ 0 ∨ (hwRead s a 128).1 = none → answered (cPOLICY * 16)) ∧
     (∀ b, a % 64 = 0 → (hwRead s a 128).1 = some b →
       let o := parseOpen b
       (openOk s o = false → answered (cPOLICY * 16)) ∧
       (openOk s o = true → openSealed s o = true → answered (cSEALED * 16)) ∧
       (openOk s o = true → openSealed s o = false → freeSlot s = none → answered (cBUSY * 16)) ∧
       (∀ i, openOk s o = true → openSealed s o = false → freeSlot s = some i → 1 < o.hops → poolWaits s 1 = true → ∃ u, Effect (.openStream w) s u ∧ regN u R.STRM_RES = 1 ∧
         RegsKept s u [R.STRM_RES] [] ∧ u = { s with regs := u.regs, strm := { s.strm with opening := some a } }) ∧
       (∀ i s1, openOk s o = true → openSealed s o = false → freeSlot s = some i → o.hops ≤ 1 ∨ poolWaits s 1 = false → takeQueues (o.hops - 1) s [] = (none, s1) →
         ∃ u, Effect (.openStream w) s u ∧ regN u R.STRM_RES = cBUSY * 16 ∧ flag u (hdr pgSTRM oEVT) 0 = true ∧ u.strm = s.strm) ∧
       (∀ i l s1, openOk s o = true → openSealed s o = false → freeSlot s = some i → o.hops ≤ 1 ∨ poolWaits s 1 = false → takeQueues (o.hops - 1) s [] = (some l, s1) →
         (∀ k x, firstHop (shortAt s o) (List.range o.hops) = some (k, x) → answered (short o k x)) ∧
         (∀ k x, firstHop (shortAt s o) (List.range o.hops) = none → firstHop (portShort s o) (List.range o.hops) = some (k, x) → answered (short o k x)) ∧
         (firstHop (shortAt s o) (List.range o.hops) = none → firstHop (portShort s o) (List.range o.hops) = none → ∃ u, Effect (.openStream w) s u ∧
           (∃ nodes, streamAt u i = some { newStream o l with nodes := nodes }) ∧ (∀ j, j ≠ i → streamAt u j = streamAt s j) ∧ regN u R.STRM_RES_SLOT = i ∧ regN u R.STRM_RES = cSERVED * 16 ∧ flag u (hdr pgSTRM oEVT) 0 = true ∧
           u.pool = s1.pool)))) ∧
   (∀ (w : Win) (x : BitVec 12) (s : State), live s = true → mayWrite s w R.STRM_CMD = true → flag s R.STRM_RES 0 = false →
     (∀ st, streamAt s x.toNat = some st → st.state = 1 → ∃ u, Effect (.closeStream w x) s u ∧ streamAt u x.toNat = some { st with state := 2 } ∧ u.strm.closing = some x.toNat ∧ regN u R.STRM_RES = 1 ∧
       RegsKept s u [R.STRM_RES] [] ∧ u = { s with regs := u.regs, strm := u.strm }) ∧
     ((∀ st, streamAt s x.toNat = some st → st.state ≠ 1) → ∃ u, Effect (.closeStream w x) s u ∧ regN u R.STRM_RES = cPOLICY * 16 ∧ regN u R.STRM_REFUSED = min 0xFFFFFFFF (regN s R.STRM_REFUSED + 1) ∧
       flag u (hdr pgSTRM oEVT) 0 = true ∧ u = { s with regs := u.regs, irq := u.irq, sent := u.sent })) ∧
   (∀ (x : BitVec 12) (s : State), live s = true →
     ((∀ st, streamAt s x.toNat = some st → closeReady st = false ∨ carrierBusy s x.toNat = true) → Effect (.streamCloseDone x) s s) ∧
     (∀ st, streamAt s x.toNat = some st → closeReady st = true → carrierBusy s x.toNat = false → ∃ u, Effect (.streamCloseDone x) s u ∧ streamAt u x.toNat = none ∧ (∀ j, j ≠ x.toNat → streamAt u j = streamAt s j) ∧
       (s.strm.closing ≠ some x.toNat → st.queues = [] → u = pruneNodes (dropStream s x.toNat)) ∧
       (s.strm.closing = some x.toNat → u.strm.closing = none ∧ regN u R.STRM_RES = cSERVED * 16 ∧ flag u (hdr pgSTRM oEVT) 0 = true))))

/-- Station maps (R70, R71). ARM through a window that may not write it is ignored; with STATION not in RUN or a map that is not valid it is refused; where a
budget is above its ceiling, or below what open streams have declared, it answers CAPACITY with the instance. A good map is armed for its tick. CANCEL
disarms. A cluster takes the role of the map in force once it holds no tile of the map before. Completion rings (R64, R396). A write of CRING_CFG while a
descriptor not yet completed names the ring is ignored and sets CFG_REFUSED; VALID going from 0 to 1 resets HEAD, TAIL and PHASE. A write of CRING_HEAD moves
the head as far as the tail; one beyond it sets CFG_REFUSED; through BAR0 it reaches only a member's ring. -/
def Obligations.MapsAndRings : Prop :=
  ((∀ (w : Win) (s : State), live s = true →
     (mayWrite s w R.STN_ARM_CMD = false → Effect (.arm w) s s ∧ Effect (.cancel w) s s) ∧
     (mayWrite s w R.STN_ARM_CMD = true →
       let held := if s.stn.armed.isSome then 2 else 0
       let refused (v : Nat) := ∃ u, Effect (.arm w) s u ∧ regN u R.STN_ARM_RES = held + v ∧ flag u (hdr pgSTN oEVT) 1 = true ∧ RegsKept s u (R.STN_ARM_RES :: evtKeys pgSTN) [0x80] ∧
         u = { s with regs := u.regs, irq := u.irq, sent := u.sent }
       let short (i x : Nat) := cCAPACITY * 16 + i % 16 * 0x100 + i / 16 % 16 * 0x1000 + i / 256 % 2 * 0x10000 + min 0x7FFF x * 0x20000
       (s.store.ecc = [] → inRun s pgSTN = false ∨ readMap s = none → refused (cPOLICY * 16)) ∧
       (∀ m, s.store.ecc = [] → inRun s pgSTN = true → readMap s = some m →
         (∀ i x, i < 512 → firstShort (mapBudget m) (ceiling s m.bind) (m.budgets.map (·.1)) = some (i, x) → refused (short i x)) ∧
         (∀ i x, i < 512 → firstShort (mapBudget m) (ceiling s m.bind) (m.budgets.map (·.1)) = none →
           firstShort (committed s) (mapBudget m) (m.budgets.map (·.1) ++ usedInsts s) = some (i, x) → refused (short i x)) ∧
         (firstShort (mapBudget m) (ceiling s m.bind) (m.budgets.map (·.1)) = none → firstShort (committed s) (mapBudget m) (m.budgets.map (·.1) ++ usedInsts s) = none →
           ∃ u, Effect (.arm w) s u ∧ u.stn = { s.stn with armed := some (m, reg64 s R.STN_ARM_TICK_LO R.STN_ARM_TICK_HI) } ∧ regN u R.STN_ARM_RES = 2 + cSERVED * 16 ∧
             RegsKept s u [R.STN_ARM_RES] [] ∧ u = { s with regs := u.regs, stn := u.stn })) ∧
       (s.stn.armed = none → Effect (.cancel w) s s) ∧
       (s.stn.armed.isSome = true → ∃ u, Effect (.cancel w) s u ∧ u.stn = { s.stn with armed := none } ∧ fld u R.STN_ARM_RES 1 0 = 0 ∧ fld u R.STN_ARM_RES 31 2 = fld s R.STN_ARM_RES 31 2 ∧
         RegsKept s u [R.STN_ARM_RES] [] ∧ u = { s with regs := u.regs, stn := u.stn }))) ∧
   (∀ (d : Fin 8) (c : Fin 40) (s : State), live s = true →
     let now := bitOf (nthD 0 s.stn.bound d.val) c.val
     let want := bitOf (nthD 0 s.stn.inForce.bind d.val) c.val
     let may := now ≠ want ∧ clusterIn s d.val c.val = true ∧ clusterBusy s d.val c.val = false
     (¬may → Effect (.clusterRebind d c) s s) ∧
     (may → ∃ u, Effect (.clusterRebind d c) s u ∧ bitOf (nthD 0 u.stn.bound d.val) c.val = want ∧
       (∀ i k, (i ≠ d.val ∨ k ≠ c.val) → k < 40 → bitOf (nthD 0 u.stn.bound i) k = bitOf (nthD 0 s.stn.bound i) k) ∧
       (∀ k, pageOf k ≠ pgSTN → getR u k = getR s k) ∧ u = { s with regs := u.regs, stn := { s.stn with bound := u.stn.bound } }))) ∧
  (∀ (w : Win) (v : Word) (s : State), live s = true →
     let ring := fld s R.STRM_IDX 23 16
     let cfg := keyB R.CRING_CFG ring
     let head := keyB R.CRING_HEAD ring
     let tail := keyB R.CRING_TAIL ring
     let refused (c : Instr) := ∃ u, Effect c s u ∧ flag u (hdr pgSTRM oEVT) 3 = true ∧ RegsKept s u (evtKeys pgSTRM) [0x80] ∧ u = { s with regs := u.regs, irq := u.irq, sent := u.sent }
     (mayWrite s w R.CRING_CFG = false → Effect (.cringCfgWrite w v) s s) ∧
     (mayWrite s w R.CRING_CFG = true → ringBusy s ring = true → refused (.cringCfgWrite w v)) ∧
     (mayWrite s w R.CRING_CFG = true → ringBusy s ring = false → ∃ u, Effect (.cringCfgWrite w v) s u ∧ getR u cfg = writeMasked R.CRING_CFG (getR s cfg) v ∧
       (flag s cfg 31 = false → bitOf v.toNat 31 = true → regN u head = 0 ∧ regN u tail = 0 ∧ mapGet true u.strm.phase ring = true ∧ RegsKept s u [cfg, head, tail] [] ∧
         u = { s with regs := u.regs, strm := { s.strm with phase := u.strm.phase } }) ∧
       (flag s cfg 31 = true ∨ bitOf v.toNat 31 = false → RegsKept s u [cfg] [] ∧ u = { s with regs := u.regs })) ∧
     (let may := if w = .bar0 then flag s cfg 30 = true else mayWrite s w R.CRING_HEAD = true
      let x := bitsOf v.toNat 15 0
      (¬may → Effect (.cringHeadWrite w v) s s) ∧
      (may → cringSize s ring = none → x ≠ fld s tail 15 0 → refused (.cringHeadWrite w v)) ∧
      (∀ n, may → cringSize s ring = some n → ¬(x < n ∧ (x + n - fld s head 15 0) % n ≤ (fld s tail 15 0 + n - fld s head 15 0) % n) → refused (.cringHeadWrite w v)) ∧
      (∀ n, may → cringSize s ring = some n → x < n → (x + n - fld s head 15 0) % n ≤ (fld s tail 15 0 + n - fld s head 15 0) % n →
        (∀ e ∈ s.strm.slots, ∀ t ∈ e.2.tiles, t.doneTick = none) → ∃ u, Effect (.cringHeadWrite w v) s u ∧ fld u head 15 0 = x ∧ RegsKept s u [head] [] ∧ u = { s with regs := u.regs })))

/-! ### The switch core -/

/-- Frames arrive (R185 to R189, R200). A pause of a priority from 1 is honoured and counted while SCHED runs. A frame whose address, check or header is bad
is discarded and counted. A good one takes cells; in class 7 it is dropped, and counted, where cells are short; of another class, or while POOL is not in RUN
(R177), it waits at its port (the model's choice, log 236). A frame that is not its transfer's last waits for the rest; a transfer complete with one frame lands in a P2 buffer. A good GRANT is noted. Frames leave (R195, R197 to R200). Nothing is sent while SCHED is
not in RUN, of a line port, or of a port with no frame; the class of age-out with no transfer past its limit changes nothing. A transfer past its limit goes,
each of its frames counted, and its tile's copy ends AGED_OUT. The frame chosen is of the port and ready; while a head of C0 to C2 is ready within its
bucket, none of a lower class goes before it; the frame is sent, taken from its queue, and charged. Gate lists and subscriber records (R190, R203). A list
that is good waits for its tick in the port's scheduler; a bad one changes nothing and is an event. OFF waits for the next boundary. RELOAD reads the record,
which takes effect at the next boundary; a bad one is an event. Through a window that may not write them, each is ignored. -/
def Obligations.SwitchCore : Prop :=
  ((∀ (p : Fin 4) (k : Fin 8) (on : Bool) (s : State), live s = true →
     (k.val = 0 ∨ inRun s pgSCHED = false → Effect (.pauseRx p k on) s s) ∧
     (k.val ≠ 0 → inRun s pgSCHED = true →
       let x := schedOf s p.val
       let was := if on = true then x.pausedWas else setAt false x.pausedWas (7 - k.val) false
       ∃ u, Effect (.pauseRx p k on) s u ∧ nthD false (schedOf u p.val).paused (7 - k.val) = on ∧
         u = bump (putSched s p.val { x with paused := setAt false x.paused (7 - k.val) on, pausedWas := was }) (keyB R.SCHED_PAUSE_RX p.val))) ∧
   (∀ (p : Fin 7) (b : List Byte) (s : State), live s = true →
     (inRun s pgSW = false → Effect (.grant p b) s s) ∧
     (inRun s pgSW = true → xhdrOk b = true → (parseXhdr b).typ = 2 → Effect (.grant p b) s
       { s with sw := { s.sw with grants := s.sw.grants ++ [(p.val, (parseXhdr b).src, (parseXhdr b).stream)] } }) ∧
     (inRun s pgSW = true → inRun s pgMIR = false → xhdrOk b = false ∨ (parseXhdr b).typ ≠ 2 → Effect (.grant p b) s (bump s R.SW_HDR_BAD))) ∧
   (∀ (p : Fin 7) (b : List Byte) (s : State), live s = true →
     let ours (e : RxEth) (own : List Byte) := e.mac = planeMac own p.val ∧ e.ip = planeIp own p.val ∧ e.port = fld s R.SCHED_FAB_UDP 15 0 ∧ e.fcs = true ∧ xhdrOk e.body = true
     let good (x : List Byte) := if p.val = 6 then x = b ∧ xhdrOk b = true else
       p.val < 4 ∧ ptpOf b = none ∧ ∃ e own, parseEth b = some e ∧ nodeEntry s (fld s R.GLB_NODE 15 0) = some own ∧ ours e own ∧ x = e.body
     (p.val = 4 ∨ p.val = 5 → Effect (.fabricFrameRx p b) s s) ∧
     (p.val < 4 ∨ p.val = 6 → ptpOf b = none → inRun s pgSW = false → Effect (.fabricFrameRx p b) s s) ∧
     (p.val < 4 ∨ p.val = 6 → ptpOf b = none → inRun s pgSW = true → inRun s pgMIR = false → (∀ x, ¬good x) → Effect (.fabricFrameRx p b) s (bump s R.SW_HDR_BAD)) ∧
     (∀ x, good x → inRun s pgSW = true → inRun s pgMIR = false → flag s (keyB R.SCHED_POL_CFG (polKey p.val (parseXhdr x).cls)) 0 = false →
       let h := parseXhdr x
       let pl := x.drop 32
       let hoist := portHoist p.val
       let need := cellsOf pl.length + (if h.cls ≤ 3 then 0 else cellRsv s)
       let open' := doorShut s p.val h.cls = false
       (h.typ ≠ 2 → ¬open' → Effect (.fabricFrameRx p b) s (atDoor s p.val 0 h pl b)) ∧
       (open' → h.cls = 7 → underXoff s hoist = true → Effect (.fabricFrameRx p b) s (bump s R.SW_TAIL_DROP)) ∧
       (open' → h.cls ≠ 7 → h.typ ≠ 2 → freeCells s hoist < need → Effect (.fabricFrameRx p b) s (atDoor s p.val 0 h pl b)) ∧
       (∀ cells a, open' → h.cls ≠ 7 → h.typ ≠ 2 → h.frag = 0 → need ≤ freeCells s hoist → takeCells (cellsOf pl.length) s hoist [] = (some cells, a) →
         (s.sw.partials = [] ∧ a.sw.partials = []) →
         let y := { startPartial a p.val h with next := 1, bytes := pl, cells := cells, head := sliceBytes b 0 64, len := 32 + pl.length, byte := classByte h }
         (h.last = false → Effect (.fabricFrameRx p b) s { a with sw := { a.sw with partials := [y] } }) ∧
         (∀ hnd a2, h.last = true → h.typ = 0 → bitOf h.flags 0 = false → h.portLen = pl.length → h.rawLen = pl.length → 0 < pl.length → pl.length ≤ 65536 →
           allocInternal { a with sw := { a.sw with partials := [{ y with done := true }] } } 2 (homeSeg a hoist) = (.got hnd, a2) → ∃ u, Effect (.fabricFrameRx p b) s u ∧ u.sw.partials = [] ∧
             u.strm.landed = a.strm.landed ++ [{ port := p.val, node := h.src, stream := h.stream, data := pl, coded := false, rawLen := pl.length, seq := h.seq, round := h.round, tick := s.tick.now, handle := some hnd, bad := false }]))))) ∧
  ((∀ (p : Fin 7) (s : State), live s = true →
     (inRun s pgSCHED = false ∨ p.val = 4 ∨ p.val = 5 ∨ (∀ f ∈ s.sw.frames, f.port ≠ p.val) → Effect (.frameEgress p) s s) ∧
     (inRun s pgSCHED = true → p.val < 4 ∨ p.val = 6 → (∀ k, k < 8 → agedXfers s p.val k = []) → markHeld s p.val = s →
       (portRate s p.val ≤ (schedOf s p.val).sent ∨ pickFrame s p.val = none → Effect (.frameEgress p) s s) ∧
       (∀ f q, (schedOf s p.val).sent < portRate s p.val → pickFrame s p.val = some (f, q) → ∃ u, Effect (.frameEgress p) s u ∧
         f ∈ s.sw.frames ∧ f.port = p.val ∧ headReady s p.val f = true ∧ Out.frame p.val (frameOut s f) ∈ u.sent ∧
         (f.last = false ∨ f.tile = none → u.sw.frames = s.sw.frames.erase f ∧ (schedOf u p.val).sent = (schedOf s p.val).sent + chargedLen s f) ∧
         (∀ k g, k < 3 → g ∈ headsOf s p.val k → headReady s p.val g = true → chargedLen s g ≤ nthD 0 (schedOf s p.val).bucket k → chargedLen s g ≤ 8448 → f.cls ≤ k)))) ∧
   (∀ (p : Fin 7) (k : Fin 8) (s : State), live s = true →
     (agedXfers s p.val k.val = [] → Effect (.frameAgeOut p k) s s) ∧
     (∀ f, agedXfers s p.val k.val = [f] → inRun s pgMIR = false → ∃ u, Effect (.frameAgeOut p k) s u ∧ flag u (hdr pgSW oEVT) 3 = true ∧
       regN u (keyB R.SW_AGED f.cls) = min 0xFFFFFFFF (regN s (keyB R.SW_AGED f.cls) + (s.sw.frames.filter (fun g => g.xfer == f.xfer)).length) ∧
       (∀ g ∈ u.sw.frames, g.xfer ≠ f.xfer) ∧
       (f.tile = none → u.sw.frames = s.sw.frames.filter (fun g => g.xfer != f.xfer)) ∧
       (∀ i n st t, f.tile = some (i, n) → streamAt s i = some st → st.tiles.find? (fun t => t.desc.seq == n) = some t → t.txLeft = 1 → t.txWorst = none →
         ∃ e, streamAt u i = some e ∧ ∀ x ∈ e.tiles, x.desc.seq = n → x.fail = some cAGED)))) ∧
  (∀ (w : Win) (v : Word) (s : State), live s = true →
     let p := fld s R.SCHED_PORT_IDX 2 0
     (mayWrite s w R.SCHED_GCL_CMD = false → Effect (.gclLoad w v) s s ∧ Effect (.gclOff w v) s s) ∧
     (mayWrite s w R.SCHED_GCL_CMD = true → readGcl s p = none → s.store.ecc = [] → ∃ u, Effect (.gclLoad w v) s u ∧ flag u (hdr pgSCHED oEVT) 1 = true ∧ RegsKept s u (evtKeys pgSCHED) [0x80] ∧
       u = { s with regs := u.regs, irq := u.irq, sent := u.sent }) ∧
     (∀ g, mayWrite s w R.SCHED_GCL_CMD = true → readGcl s p = some g → s.store.ecc = [] → Effect (.gclLoad w v) s (putSched s p { schedOf s p with gclNext := some g })) ∧
     (mayWrite s w R.SCHED_GCL_CMD = true → Effect (.gclOff w v) s (putSched s p { schedOf s p with gclOff := true })) ∧
     (mayWrite s w R.SCHED_SUB_IDX = false → Effect (.subReload w v) s s) ∧
     (mayWrite s w R.SCHED_SUB_IDX = true → s.store.ecc = [] →
       (∀ x, readSub s (bitsOf v.toNat 11 0) = some x → ∃ u, Effect (.subReload w v) s u ∧ u.sw = { s.sw with reload := mapPut s.sw.reload (bitsOf v.toNat 11 0) x } ∧
         fld u R.SCHED_SUB_IDX 11 0 = bitsOf v.toNat 11 0 ∧ RegsKept s u [R.SCHED_SUB_IDX] [] ∧ u = { s with regs := u.regs, sw := u.sw }) ∧
       (readSub s (bitsOf v.toNat 11 0) = none → ∃ u, Effect (.subReload w v) s u ∧ flag u (hdr pgSCHED oEVT) 1 = true ∧ fld u R.SCHED_SUB_IDX 11 0 = bitsOf v.toNat 11 0 ∧
         RegsKept s u (R.SCHED_SUB_IDX :: evtKeys pgSCHED) [0x80] ∧ u = { s with regs := u.regs, irq := u.irq, sent := u.sent })))

/-! ### The codec -/

/-- The table commands (R139, R142). Through a window that may not write them, or while a result pends, they are ignored. A context that is not bound or a
record that is not valid is refused; a slot loading or with blocks counted, or no buffer, answers BUSY; while the POOL block is not in RUN a load waits. A load of context 0 is READY at both ends at once; of
another it is LOADING, the next generation given, and the far end is told. An unload empties context 0's slots at once, and otherwise waits. The table
messages (R142). A peer's load whose record is valid takes its buffer and waits in the inbound slot, and an unload waits too; from a node that no context is bound to, or with a bad
record, it is refused. A load that waits is installed once its slot has no block counted and it has its buffer, and is acknowledged. The acknowledgement of
the pending command makes its slot READY, or EMPTY; a refusal, or none in time, makes it EMPTY; the result is posted. Binding a context (R139). A write of
CODEC_CTX_CFG that would bind anew a context that is busy, name a port that is not there, or choose a current slot that is not READY, is ignored and sets
CFG_REFUSED. Context 0 keeps its binding. A context that is unbound loses its tables. -/
def Obligations.CodecTables : Prop :=
  (∀ (w : Win) (v : Word) (s : State), live s = true →
     let ctx := bitsOf v.toNat 6 0
     let slot := bitsOf v.toNat 10 8
     let k := cslotKey ctx 0 slot
     let ki := cslotKey 0 1 slot
     let gen := ((cslot s k).gen + 1) % 32
     let result (u : State) (code g : Nat) := regN u R.CODEC_LD_RES = code * 16 + ctx * 0x100 + slot * 0x10000 + g * 0x80000 ∧ u.codec.cmd = none ∧
       flag u (hdr pgCODEC oEVT) (if code = cSERVED then 0 else 1) = true
     let kept := fld s R.CODEC_LD_RES 23 19
     let stops (c : Instr) (code : Nat) := ∃ u, Effect c s u ∧ result u code kept ∧ RegsKept s u (R.CODEC_LD_RES :: evtKeys pgCODEC) [0x80] ∧
       u = { s with regs := u.regs, irq := u.irq, sent := u.sent, codec := { s.codec with cmd := none, waiting := none } }
     let can := inRun s pgCODEC = true ∧ ctxBound s ctx = true
     let busy := (cslot s k).count ≠ 0 ∨ (cslot s k).state = 1
     let told (u : State) (kind : MsgKind) (g : Nat) (rec : List Byte) := Out.message kind (fld s (ctxCfg ctx) 22 20) (fld s (ctxCfg ctx) 15 0) 3 [slot, g] rec ∈ u.sent
     let pends (u : State) (unload : Bool) (g : Nat) := regN u R.CODEC_LD_RES = 1 + fld s R.CODEC_LD_RES 7 4 * 0x10 + ctx * 0x100 + slot * 0x10000 + g * 0x80000 ∧
       u.codec.cmd = some (ctx, slot, unload, s.tick.now) ∧ (cslot u k).state = 1
     (loadWrites s w = false → Effect (.load w v) s s ∧ Effect (.unload w v) s s) ∧
     (loadWrites s w = true →
       (¬can ∨ (loadRecord s = none ∧ s.store.ecc = []) → stops (.load w v) cPOLICY) ∧ (¬can → stops (.unload w v) cPOLICY) ∧
       (can → busy → stops (.unload w v) cBUSY) ∧
       (∀ rec, can → loadRecord s = some rec → s.store.ecc = [] → busy → stops (.load w v) cBUSY) ∧
       (∀ rec, can → loadRecord s = some rec → s.store.ecc = [] → ¬busy → poolWaits s 2 = true → ∃ u, Effect (.load w v) s u ∧ flag u R.CODEC_LD_RES 0 = true ∧ fld u R.CODEC_LD_RES 23 19 = kept ∧
         RegsKept s u [R.CODEC_LD_RES] [] ∧ u = { s with regs := u.regs, codec := { s.codec with waiting := some (ctx, slot) } }) ∧
       (∀ rec a, can → loadRecord s = some rec → s.store.ecc = [] → ¬busy → poolWaits s 2 = false → tableBuffer s = (none, a) → ∃ u, Effect (.load w v) s u ∧ result u cBUSY kept ∧ u.codec.slots = s.codec.slots) ∧
       (∀ rec h a, can → loadRecord s = some rec → s.store.ecc = [] → ¬busy → poolWaits s 2 = false → tableBuffer s = (some h, a) →
         (ctx = 0 → ∃ u, Effect (.load w v) s u ∧ result u cSERVED gen ∧ ((cslot u k).state = 2 ∧ (cslot u k).gen = gen ∧ (cslot u k).table = rec) ∧
           ((cslot u ki).state = 2 ∧ (cslot u ki).gen = gen ∧ (cslot u ki).table = rec)) ∧
         (ctx ≠ 0 → ∃ u, Effect (.load w v) s u ∧ pends u false gen ∧ (cslot u k).gen = gen ∧ (cslot u k).table = rec ∧ told u .tableLoad gen rec)) ∧
       (can → ¬busy → ctx = 0 → ∃ u, Effect (.unload w v) s u ∧ result u cSERVED kept ∧ (cslot u k).state = 0 ∧ (cslot u ki).state = 0) ∧
       (can → ¬busy → ctx ≠ 0 → ∃ u, Effect (.unload w v) s u ∧ pends u true kept ∧ told u .tableUnload (cslot s k).gen []))) ∧
  ((∀ (p : Fin 7) (n : BitVec 16) (i : Fin 8) (g : Fin 32) (b : List Byte) (s : State), live s = true →
     let refusal (e : Nat) := { s with sent := s.sent ++ [.message .tableRefusal p.val n.toNat 3 [i.val, e] []] }
     (ctxOfNode s n.toNat = none → Effect (.tableLoadMessage p n i g b) s (refusal g.val) ∧ Effect (.tableUnloadMessage p n i) s (refusal 0)) ∧
     (∀ ctx, ctxOfNode s n.toNat = some ctx →
       let k := cslotKey ctx 1 i.val
       (¬(recOk b = true ∧ b.length = recLen b) → Effect (.tableLoadMessage p n i g b) s (refusal g.val)) ∧
       (recOk b = true → b.length = recLen b →
         let a := putCslot s k { cslot s k with state := 1, wait := some (b, g.val, n.toNat, p.val) }
         ((cslot s k).next.isSome = true → Effect (.tableLoadMessage p n i g b) s a) ∧
         (∀ m, (cslot s k).next = none → tableBuffer a = (none, m) → Effect (.tableLoadMessage p n i g b) s m) ∧
         (∀ h m, (cslot s k).next = none → tableBuffer a = (some h, m) → Effect (.tableLoadMessage p n i g b) s (putCslot m k { cslot m k with next := some h }))) ∧
       ((cslot s k).next = none → Effect (.tableUnloadMessage p n i) s (putCslot s k { cslot s k with state := 1, wait := some ([], (cslot s k).gen, n.toNat, p.val) })) ∧
       (∀ h, (cslot s k).next = some h → ∃ u, Effect (.tableUnloadMessage p n i) s u ∧
         cslot u k = { cslot s k with state := 1, next := none, wait := some ([], (cslot s k).gen, n.toNat, p.val) } ∧ u.pool = (releaseQuiet s h).pool))) ∧
   (∀ (x : Fin 128) (i : Fin 8) (s : State), live s = true →
     let k := cslotKey x.val 1 i.val
     ((cslot s k).wait = none → Effect (.tableInstall x i) s s) ∧
     (∀ rec g n p, (cslot s k).wait = some (rec, g, n, p) →
       let acked (u : State) := Out.message .tableAck p n 3 [i.val, g] [] ∈ u.sent
       (rec = [] → (cslot s k).count ≠ 0 → Effect (.tableInstall x i) s s) ∧
       (rec = [] → (cslot s k).count = 0 → ∃ u, Effect (.tableInstall x i) s u ∧ (cslot u k).state = 0 ∧ (cslot u k).wait = none ∧ acked u) ∧
       (∀ m, rec ≠ [] → (cslot s k).next = none → tableBuffer s = (none, m) → Effect (.tableInstall x i) s m) ∧
       (∀ h m, rec ≠ [] → ((cslot s k).next = some h ∧ m = s) ∨ (∃ a, (cslot s k).next = none ∧ tableBuffer s = (some h, a) ∧ m = putCslot a k { cslot a k with next := some h }) →
         ((cslot s k).count ≠ 0 → Effect (.tableInstall x i) s m) ∧
         ((cslot s k).count = 0 → ∃ u, Effect (.tableInstall x i) s u ∧
           cslot u k = { cslot s k with state := 2, gen := g, table := rec, wait := none, handle := some h, next := none } ∧ acked u ∧ flag u (hdr pgCODEC oEVT) 2 = true)))) ∧
   (∀ (n : BitVec 16) (i : Fin 8) (g : Fin 32) (s : State), live s = true →
     (s.codec.cmd = none → Effect (.tableLoadAck n i g) s s ∧ Effect (.tableLoadRefusal n i g) s s ∧ Effect .loadTimeout s s) ∧
     (∀ ctx slot un t, s.codec.cmd = some (ctx, slot, un, t) →
       let k := cslotKey ctx 0 slot
       let mine := slot = i.val ∧ ctxOfNode s n.toNat = some ctx ∧ (cslot s k).gen = g.val
       let ended (c : Instr) (state code : Nat) := ∃ u, Effect c s u ∧ (cslot u k).state = state ∧ u.codec.cmd = none ∧ flag u R.CODEC_LD_RES 0 = false ∧ fld u R.CODEC_LD_RES 7 4 = code ∧
         flag u (hdr pgCODEC oEVT) (if code = cSERVED then 0 else 1) = true
       (¬mine → Effect (.tableLoadAck n i g) s s) ∧
       (mine → ended (.tableLoadAck n i g) (if un then 0 else 2) cSERVED) ∧
       (¬mine ∨ un = true → Effect (.tableLoadRefusal n i g) s s) ∧
       (mine → un = false → ended (.tableLoadRefusal n i g) 0 cPOLICY) ∧
       (s.tick.now < t + fld s R.CODEC_LD_TMO 15 0 → Effect .loadTimeout s s) ∧
       (t + fld s R.CODEC_LD_TMO 15 0 ≤ s.tick.now → ended .loadTimeout 0 cAGED)))) ∧
  (∀ (w : Win) (v : Word) (s : State), live s = true →
     let ctx := fld s R.CODEC_IDX 6 0
     let k := ctxCfg ctx
     let old := regN s k
     let n := v.toNat
     let cur := bitsOf n 19 17
     let binds := bitsOf n 16 0 ≠ bitsOf old 16 0 ∨ bitsOf n 22 20 ≠ bitsOf old 22 20
     let bad := (ctx ≠ 0 ∧ ((binds ∧ ctxBusy s ctx = true) ∨ bitsOf n 22 20 = 6 ∨ bitsOf n 22 20 = 7)) ∨
       ((cur ≠ bitsOf old 19 17 ∨ ¬binds) ∧ (cslot s (cslotKey ctx 0 cur)).state ≠ 2)
     (mayWrite s w R.CODEC_CTX_CFG = false → Effect (.codecCtxCfgWrite w v) s s) ∧
     (mayWrite s w R.CODEC_CTX_CFG = true → bad → ∃ u, Effect (.codecCtxCfgWrite w v) s u ∧ flag u (hdr pgCODEC oEVT) 3 = true ∧ RegsKept s u (evtKeys pgCODEC) [0x80] ∧
       u = { s with regs := u.regs, irq := u.irq, sent := u.sent }) ∧
     (mayWrite s w R.CODEC_CTX_CFG = true → ¬bad → ∃ u, Effect (.codecCtxCfgWrite w v) s u ∧ fld u k 19 17 = cur ∧
       (ctx = 0 → fld u k 16 0 = fld s k 16 0 ∧ fld u k 22 20 = fld s k 22 20) ∧ (ctx ≠ 0 → regN u k = bitsOf n 22 0) ∧
       (ctx ≠ 0 → bitOf old 16 = true → bitOf n 16 = false → ∀ i, i < 16 → (cslot u (ctx * 16 + i)).state = 0 ∧ (cslot u (ctx * 16 + i)).table = [] ∧ (cslot u (ctx * 16 + i)).handle = none) ∧
       (ctx = 0 ∨ bitOf old 16 = false ∨ bitOf n 16 = true → RegsKept s u [k] [] ∧ u = { s with regs := u.regs })))

/-! ### The collective engine -/

/-- The group commands (R101, R210 to R216). Through a window that may not write GRP_CMD, or while a result pends, they are ignored. A group whose entry or
members are not good, whose members' sites attest another ARITH_REV, whose levels differ, or whose carriers are not there is refused, with the level and the
member; a reload with requests active is BUSY; otherwise the group is held as its table has it. A disable of no group is served; one of a group with requests
active makes it DISABLING, and pends. Requests reach the engine (R217, R219, R220, R222, R327). COLL_DB moves the tail as far as the ring has room; beyond it,
the overrun is counted and raised. The command of an operation fetches nothing while the engine is not in RUN, the ring is empty or 64 requests are active,
nor where the next request is of another operation. A request that fails its checks completes REFUSED_POLICY at once, one of a group of another epoch with
GROUP_EPOCH raised, and at a member that is not PRESENT one ends at once; one that passes is active, and the engine moves on: it waits for the requests before
it in its group, and for what it needs of its round. Requests of a group with one member present (R219, R221, R226, R229). EXCHANGE writes the member's own
area, with its epoch and its count, at DST. The operations that move data place the member's own block at DST; ALL_MAX and ALL_MIN write its values there, and
ALL_REDUCE and REDUCE_SCATTER its sum, rounded once from the agreed grid, with the chunk's check kept. Each then completes, is counted, and frees its ring
slot. -/
def Obligations.CollectiveRequests : Prop :=
  (∀ (w : Win) (s : State), live s = true →
     let g := fld s R.GRP_IDX 11 0
     let may := mayWrite s w R.GRP_CMD = true ∧ flag s R.GRP_RES 0 = false
     let entry := (readGroup s g).1
     let answer (u : State) (code l i : Nat) := regN u R.GRP_RES = (code * 16 + l * 0x100 + i * 0x800) % 2 ^ 32 ∧ flag u (hdr pgGRP oEVT) (if code = cSERVED then 0 else 1) = true ∧
       RegsKept s u (R.GRP_RES :: evtKeys pgGRP) [0x80]
     let refused (c : Instr) (code l i : Nat) := ∃ u, Effect c s u ∧ answer u code l i ∧ u = { s with regs := u.regs, irq := u.irq, sent := u.sent }
     (¬may → Effect (.groupEnable w) s s ∧ Effect (.groupDisable w) s s ∧ Effect (.groupReload w) s s) ∧
     (∀ (c : Instr) (reload : Bool), may → s.store.ecc = [] → (c = .groupEnable w ∧ reload = false) ∨ (c = .groupReload w ∧ reload = true) →
       (inRun s pgCOLL = false ∨ entry = none → refused c cPOLICY 0 0) ∧
       (∀ x, inRun s pgCOLL = true → entry = some x →
         (badRev s x = true → refused c cPOLICY 0 0) ∧
         (∀ l, badRev s x = false → badLevel x = some l → refused c cPOLICY l 0) ∧
         (∀ l i, badRev s x = false → badLevel x = none → badCarrier s x = some (l, i) → refused c cPOLICY l i) ∧
         (badRev s x = false → badLevel x = none → badCarrier s x = none →
           (reload = true → activeOf s g ≠ [] → refused c cBUSY 0 0) ∧
           (reload = false ∨ activeOf s g = [] → ∃ u, Effect c s u ∧ answer u cSERVED 0 0 ∧ groupAt u g = some x ∧
             (∀ j, j ≠ g → groupAt u j = groupAt s j) ∧ u = { s with regs := u.regs, irq := u.irq, sent := u.sent, coll := u.coll, sw := { s.sw with nodes := u.sw.nodes } })))) ∧
     (may → inRun s pgCOLL = false → refused (.groupDisable w) cPOLICY 0 0) ∧
     (may → inRun s pgCOLL = true → groupAt s g = none → refused (.groupDisable w) cSERVED 0 0) ∧
     (∀ x, may → inRun s pgCOLL = true → groupAt s g = some x →
       (activeOf s g = [] → ∃ u, Effect (.groupDisable w) s u ∧ answer u cSERVED 0 0 ∧ groupAt u g = none ∧ ∀ j, j ≠ g → groupAt u j = groupAt s j) ∧
       (activeOf s g ≠ [] → ∃ u, Effect (.groupDisable w) s u ∧ groupAt u g = some { x with state := 2 } ∧ regN u R.GRP_RES = 1 ∧ RegsKept s u [R.GRP_RES] [] ∧
         u = { s with regs := u.regs, coll := { s.coll with groups := u.coll.groups } }))) ∧
  ((∀ (w : Win) (v : Word) (s : State), live s = true →
     let tail := bitsOf v.toNat 11 0
     let n := rqSize s
     let past := n ≤ tail ∨ ringFree n (rqHead s) (rqTail s) < (tail + n - rqTail s) % n
     (mayWrite s w R.COLL_DB = false ∨ blkState s pgCOLL ≠ bRUN → Effect (.collDb w v) s s) ∧
     (mayWrite s w R.COLL_DB = true → blkState s pgCOLL = bRUN → ¬past → ∃ u, Effect (.collDb w v) s u ∧ rqTail u = tail ∧ rqHead u = rqHead s ∧ RegsKept s u [R.COLL_RQ_PTR] [] ∧ u = { s with regs := u.regs }) ∧
     (mayWrite s w R.COLL_DB = true → blkState s pgCOLL = bRUN → past → s.store.ecc = [] → ∃ u, Effect (.collDb w v) s u ∧ regN u R.STRM_DB_STRAY = min 0xFFFFFFFF (regN s R.STRM_DB_STRAY + 1) ∧
       inFault u pgCOLL = true ∧ u.coll = s.coll)) ∧
   (∀ (c : Instr) (k : Nat) (s : State), live s = true →
     (c, k) ∈ [(Instr.exchange, 1), (.allReduce, 2), (.reduceScatter, 3), (.allGather, 4), (.broadcast, 5), (.allToAll, 6), (.allToAllV, 7), (.allMax, 8), (.allMin, 9)] →
     (inRun s pgCOLL = false ∨ s.coll.fetch = rqTail s ∨ 64 ≤ s.coll.active.length → Effect c s s) ∧
     (s.coll.skip = [] → s.store.ecc = [] →
       ((readRequest s s.coll.fetch).1 = none → Effect c s s) ∧
       (∀ b, (readRequest s s.coll.fetch).1 = some b →
         (refusedOper b = false → leAt b 1 1 % 16 ≠ k → Effect c s s) ∧
         (inRun s pgCOLL = true → s.coll.fetch ≠ rqTail s → s.coll.active.length < 64 → leAt b 1 1 % 16 = k →
           let r0 := parseRequest s.coll.seq s.coll.fetch b
           let r := { r0 with grp := (groupAt s r0.group).getD { state := 0 }, phase := 3 }
           let a : State := { s with coll := { s.coll with fetch := (s.coll.fetch + 1) % rqSize s, seq := s.coll.seq + 1, dead := s.coll.dead.filter (· ≠ leAt b 8 6), active := s.coll.active ++ [r] } }
           let passes := reqOk a r (leAt b 0 1) = true
           let takes := (presentOf r.grp).contains r.grp.self = true ∧ (k = 7 ∨ k = 1 ∨ carriersThere a r = true)
           let quiet := s.coll.active = [] ∧ s.coll.doneSlots = [] ∧ rqHead s = s.coll.fetch ∧ 2 ≤ rqSize s ∧ rqSize s ≤ 4096 ∧ cringSize s r.ring = none ∧ ∀ x, groupAt s r.group = some x → x.state ≠ 2
           let ended (u : State) := u.coll.active = [] ∧ u.coll.doneSlots = [] ∧ u.coll.fetch = (s.coll.fetch + 1) % rqSize s ∧ rqHead u = (rqHead s + 1) % rqSize s ∧ rqTail u = rqTail s ∧
             regN u R.COLL_REQ_DONE = min 0xFFFFFFFF (regN s R.COLL_REQ_DONE + 1) ∧ flag u (hdr pgCOLL oEVT) 0 = true
           (passes → epochOk a r = true → takes → Effect c s (collAdvance a)) ∧
           (passes → epochOk a r = true → takes → s.coll.active = [] → s.coll.purposes = [] → mayStart a r = false → Effect c s { a with coll := { a.coll with ended := [] } }) ∧
           (¬passes ∨ (epochOk a r = true ∧ ¬takes) → quiet → ∃ u, Effect c s u ∧ ended u ∧ u.mem = s.mem) ∧
           (passes → epochOk a r = false → quiet → ∃ u, Effect c s u ∧ ended u ∧ inFault u pgCOLL = true)))))) ∧
  (∀ (c : Instr) (k : Nat) (s : State) (b bs : List Byte) (src dst : Nat), live s = true →
     inRun s pgCOLL = true → s.coll.fetch ≠ rqTail s → s.coll.active = [] → s.coll.skip = [] → s.coll.doneSlots = [] → s.coll.purposes = [] → s.coll.results = [] → s.coll.recs = [] →
     rqHead s = s.coll.fetch → 2 ≤ rqSize s → rqSize s ≤ 4096 → Sound s → (readRequest s s.coll.fetch).1 = some b → leAt b 1 1 % 16 = k →
     let r0 := parseRequest s.coll.seq s.coll.fetch b
     let g := (groupAt s r0.group).getD { state := 0 }
     let r := { r0 with grp := g, phase := 3 }
     let a : State := { s with coll := { s.coll with fetch := (s.coll.fetch + 1) % rqSize s, seq := s.coll.seq + 1, dead := s.coll.dead.filter (· ≠ leAt b 8 6), active := [r] } }
     let el := inElem r
     let n := r.elems * (elemBits el / 8)
     reqOk a r (leAt b 0 1) = true → epochOk a r = true → presentOf g = [g.self] → portLevels g = [] → l0Tree g = false → r.round = 0 → cringSize s r.ring = none → g.state = 1 →
     let done (u : State) := u.coll.active = [] ∧ rqHead u = (rqHead s + 1) % rqSize s ∧ regN u R.COLL_REQ_DONE = min 0xFFFFFFFF (regN s R.COLL_REQ_DONE + 1) ∧ flag u (hdr pgCOLL oEVT) 0 = true
     let whole := isScaled el = false ∧ 0 < r.elems ∧ r.elems ≤ chunkElems el ∧ elemBits el % 8 = 0
     let checked (u : State) (chunk : Nat) (out : List Byte) := ∃ x, u.coll.results = [x] ∧ x.chunk = chunk ∧ x.own = true ∧ x.want = [] ∧ x.crc = chunkCheck r.group r.oper r.outFmt 0 chunk out
     let wrote (u : State) (out : List Byte) := rawRead u dst out.length = out ∧ MemKeptBut s u dst out.length
     let may (wr : Bool) (addr len key : Nat) := Reach s (engineAccess s 0 0) wr addr len key
     (c = .exchange → k = 1 → (ownArea a r).1 = some bs → PlacedAt s r.dst bs.length dst → ∃ u, Effect c s u ∧ done u ∧ wrote u bs) ∧
     ((c, k) ∈ [(Instr.allGather, 4), (.broadcast, 5), (.allToAll, 6)] → whole → (k = 5 → r.root = g.self) → may false r.src n src → may true r.dst n dst →
       (src + n ≤ dst ∨ dst + n ≤ src) → ∃ u, Effect c s u ∧ done u ∧ wrote u (rawRead s src n) ∧ checked u 0 (rawRead s src n)) ∧
     (∀ cs, c = .allToAllV → k = 7 → whole → (hwReadRange s r.counts (8 * g.members.length)).1 = some cs → leAt cs (8 * g.self) 8 = r.elems → may false r.src n src → may true r.dst n dst →
       (src + n ≤ dst ∨ dst + n ≤ src) → ∃ u, Effect c s u ∧ done u ∧ wrote u (rawRead s src n) ∧ checked u 0 (rawRead s src n)) ∧
     (∀ hs p, (c, k) ∈ [(Instr.allMax, 8), (.allMin, 9), (.allReduce, 2), (.reduceScatter, 3)] → whole → may false r.src n src →
       let raws := rawsOf el (rawRead s src n)
       let x : CReq := { r with area := if isSum k then bs else [] }
       let sum := finishBytes x { idx := 0, ints := toGrid x 0 (raws.map (rawVal el)), vals := [], count := 1, handles := hs }
       let out := if isSum k then sum.1 else raws.flatMap (fun e => bytesLE (elemBits el / 8) (canonRaw el e).2)
       (isSum k = true → reqPre r = true ∧ reqInt r = false ∧ isScaled (outElem r) = false ∧ (hwReadRange s r.records (32 + 2 * reqGranules r)).1 = some bs ∧ leAt bs 0 1 = reqS r ∧ leAt bs 1 1 = reqG r ∧
         leAt bs 8 8 = reqGranules r ∧ leAt bs 0x10 6 = 0 ∧ leAt bs 0x18 4 = g.epoch ∧ 1 ≤ reqN x ∧ sum.2 = 0 ∧ s.coll.grids = []) →
       takeAccs ((accBytes x 0 + 0x3FFFFF) / 0x400000) s 0 [] = (some hs, p) → may true r.dst out.length dst →
       rawRead p src n = rawRead s src n → Sound p →
       (∀ h ∈ hs, ∀ m, resolve s (segMeta s (hPool h) (hSeg h) + hIdx h) 1 = some m ∨ resolve s (segMeta s (hPool h) (hSeg h) + segCount s (hPool h) (hSeg h) + hIdx h / 8) 1 = some m ∨
           (∃ x, resolve s (bufAddr s h) 8 = some x ∧ x ≤ m ∧ m < x + 8) → m < dst ∨ dst + out.length ≤ m) → ∃ u, Effect c s u ∧ done u ∧ rawRead u dst out.length = out ∧ checked u 0 out))

/-- The engine's messages and the abort (R221, R227, R228, R231, R232, R234). Records that come wait for their exchange. Of a round that was aborted, checks
and acknowledgements change nothing. A check that comes before its chunk is kept; one that agrees marks the chunk acknowledged; one that differs, or one
missing too long, fails it: CHUNK_CORRUPT, its round is to be aborted, and a request without a round that is still active fails. The last acknowledgement
completes a chunk. A recheck in which every chunk that the member holds agrees passes. An announced abort of the round in progress is carried out at the
command's end; ABORT ends the engine's requests and the tiles of the round, which counts as aborted from then on. Each of the seven
completes in every state in which the package runs. -/
def Obligations.ChecksAndAborts : Prop :=
  (∀ (n : BitVec 16) (g : BitVec 12) (b : List Byte) (s : State), live s = true →
    let a := { s with coll := { s.coll with recs := s.coll.recs ++ [(n.toNat, g.toNat, b)] } }
    Effect (.exponentRecordMessage n g b) s (collAdvance a) ∧
    (s.coll.active = [] → Effect (.exponentRecordMessage n g b) s { a with coll := { a.coll with ended := [] } })) ∧
  (∀ (n : BitVec 16) (g : BitVec 12) (r : BitVec 48) (k d : DWord) (s : State), live s = true →
    let hit (x : CResult) := !x.own && !x.acked && x.owner == n.toNat && x.group == g.toNat && x.round == r.toNat && x.chunk == k.toNat
    let without (x : CResult) : State := { s with coll := { s.coll with results := s.coll.results.filter (fun y => y != x) } }
    (s.coll.dead.contains r.toNat = true → Effect (.checkMessage n g r k d) s s ∧ Effect (.checkAck n g r k) s s) ∧
    (s.coll.dead.contains r.toNat = false →
      (s.coll.results.find? hit = none → Effect (.checkMessage n g r k d) s { s with coll := { s.coll with checks := s.coll.checks ++ [(n.toNat, g.toNat, r.toNat, k.toNat, d.toNat)] } }) ∧
      (∀ x, s.coll.results.find? hit = some x → x.crc = d.toNat → ∃ u, Effect (.checkMessage n g r k d) s u ∧
        u.coll = { s.coll with results := s.coll.results.map (fun y => if y = x then { y with acked := true } else y) } ∧ u = { s with coll := u.coll, sent := u.sent }) ∧
      (∀ x, s.coll.results.find? hit = some x → x.crc ≠ d.toNat →
        Effect (.checkMessage n g r k d) s (failActive (chunkFail (without x) x.group (nodeLevel s x.group x.owner) 0 x.chunk x.round) x.num cCORRUPT) ∧
        (s.store.ecc = [] → s.coll.active = [] → ∃ u, Effect (.checkMessage n g r k d) s u ∧ inFault u pgCOLL = true ∧
          u.coll.results = s.coll.results.filter (fun y => y != x) ∧ regN u R.COLL_CHK_FAIL = min 0xFFFFFFFF (regN s R.COLL_CHK_FAIL + 1) ∧
          (r.toNat ≠ 0 → s.job.held = true → s.job.round = r.toNat → 1 ≤ s.job.phase → s.job.phase ≤ 7 → s.job.aborted = none → s.job.abortDue = none → u.job.abortDue = some (r.toNat, false)))) ∧
      (let mine (x : CResult) := x.own && x.group == g.toNat && x.round == r.toNat && x.chunk == k.toNat && x.want.contains n.toNat;
       (s.coll.results.find? mine = none → Effect (.checkAck n g r k) s s) ∧
       (∀ x, s.coll.results.find? mine = some x →
         let y := { x with want := x.want.filter (· ≠ n.toNat), acked := (x.want.filter (· ≠ n.toNat)).isEmpty }
         Effect (.checkAck n g r k) s { s with coll := { s.coll with results := s.coll.results.map (fun z => if z = x then y else z) } })))) ∧
  (∀ s : State, live s = true →
    let late (x : CResult) := !x.acked && !(x.own && x.want.isEmpty) && decide (x.tick + fld s R.COLL_CHK_TMO 23 0 ≤ s.tick.now)
    let without (x : CResult) : State := { s with coll := { s.coll with results := s.coll.results.filter (fun y => y != x) } }
    (s.coll.results.find? late = none → Effect .checkTimeout s s) ∧
    (∀ x, s.coll.results.find? late = some x →
      Effect .checkTimeout s (failActive (chunkFail (without x) x.group (nodeLevel s x.group (if x.own then x.want.headD 0 else x.owner)) 2 x.chunk x.round) x.num cCORRUPT) ∧
      (s.store.ecc = [] → s.coll.active = [] → ∃ u, Effect .checkTimeout s u ∧ inFault u pgCOLL = true ∧ u.coll.results = s.coll.results.filter (fun y => y != x) ∧
        regN u R.COLL_CHK_FAIL = min 0xFFFFFFFF (regN s R.COLL_CHK_FAIL + 1) ∧ flag u (hdr pgCOLL oEVT) 1 = true)) ∧
    let agrees (x : CResult) := ∃ bs, readSegs x.segs s = (some bs, s) ∧ chunkCheck x.group x.oper x.fmt x.round x.chunk bs = x.crc
    ((∀ x ∈ s.coll.results, x.round ≠ s.job.round ∨ x.held = false ∨ agrees x) → ∃ u, Effect .recheck s u ∧ u.job = { s.job with rechecked := true } ∧ u = { s with job := u.job, coll := u.coll }) ∧
    (∀ x bs, s.coll.results = [x] → x.round = s.job.round → x.held = true → readSegs x.segs s = (some bs, s) → chunkCheck x.group x.oper x.fmt x.round x.chunk bs ≠ x.crc → s.store.ecc = [] →
      ∃ u, Effect .recheck s u ∧ u.job.rechecked = s.job.rechecked ∧ inFault u pgCOLL = true ∧ regN u R.COLL_CHK_FAIL = min 0xFFFFFFFF (regN s R.COLL_CHK_FAIL + 1)) ∧
    (let p := recheckList s.job.round s.coll.results s;
     Effect .recheck s (if p.1 then { p.2 with job := { p.2.job with rechecked := true } } else p.2))) ∧
  (∀ (r : BitVec 48) (s : State), live s = true →
    let now := r.toNat ≠ 0 ∧ s.job.held = true ∧ r.toNat = s.job.round ∧ 1 ≤ s.job.phase ∧ s.job.phase ≤ 7 ∧ s.job.aborted = none
    (¬now → Effect (.abortAnnounce r) s s) ∧
    (now → Effect (.abortAnnounce r) s { s with job := { s.job with abortDue := some (r.toNat, match s.job.abortDue with | some (_, h) => h | none => false) } })) ∧
  (∀ (w : Win) (s : State), live s = true →
    let n := reg64 s R.COLL_ABORT_LO R.COLL_ABORT_HI
    (mayWrite s w R.COLL_CMD = false → Effect (.abort w) s s) ∧
    (mayWrite s w R.COLL_CMD = true → Effect (.abort w) s (abortEngine (abortTiles s n) n)) ∧
    (mayWrite s w R.COLL_CMD = true → s.strm.slots = [] → s.coll.active = [] → s.coll.fetch = rqTail s → s.coll.fetch < rqSize s →
      Effect (.abort w) s { s with job := { s.job with gone := insNat s.job.gone n } }) ∧
    (∀ x, mayWrite s w R.COLL_CMD = true → s.strm.slots = [] → s.coll.active = [x] → x.round = n → x.phase ≠ 2 → s.coll.fetch = rqTail s → cringSize s x.ring = none → x.chunks = [] → groupAt s x.group = none → ∃ u, Effect (.abort w) s u ∧
      u.coll.active = [] ∧ (∀ y ∈ u.coll.results, y.round ≠ n) ∧ (∀ y ∈ u.coll.checks, y.2.2.1 ≠ n) ∧ u.coll.dead.contains n = true ∧ (∀ p ∈ u.coll.purposes, p.num ≠ x.num) ∧
      regN u R.COLL_ABORTS = min 0xFFFFFFFF (regN s R.COLL_ABORTS + 1) ∧ flag u (hdr pgCOLL oEVT) 3 = true))
end

