-- ==== Sys2Proof/Laws/Maps.lean ====
section
/-!
SUPPORT. Laws of the sorted association lists and the lists by position: what is read after a write, and that keys stay rising.
-/
namespace Sys2Proof.Machine

variable {α : Type}

@[simp] theorem mapFind_mapPut_self (l : List (Nat × α)) (k : Nat) (v : α) : mapFind (mapPut l k v) k = some v := by
  induction l with
  | nil => simp [mapPut, mapFind]
  | cons p t ih =>
    obtain ⟨a, x⟩ := p
    simp only [mapPut]
    split
    · simp [mapFind]
    · split
      · simp [mapFind]
      · simp_all [mapFind]

theorem mapFind_mapPut_ne (l : List (Nat × α)) {k j : Nat} (v : α) (h : j ≠ k) : mapFind (mapPut l k v) j = mapFind l j := by
  induction l with
  | nil => simp [mapPut, mapFind, Ne.symm h]
  | cons p t ih =>
    obtain ⟨a, x⟩ := p
    simp only [mapPut]
    split
    · rename_i ha; subst ha; simp [mapFind, Ne.symm h]
    · split
      · simp [mapFind, Ne.symm h]
      · simp [mapFind, ih]

@[simp] theorem mapFind_mapDel_self (l : List (Nat × α)) (k : Nat) : mapFind (mapDel l k) k = none := by
  induction l with
  | nil => rfl
  | cons p t ih =>
    obtain ⟨a, x⟩ := p
    simp only [mapDel]
    split
    · exact ih
    · simp_all [mapFind]

theorem mapFind_mapDel_ne (l : List (Nat × α)) {k j : Nat} (h : j ≠ k) : mapFind (mapDel l k) j = mapFind l j := by
  induction l with
  | nil => rfl
  | cons p t ih =>
    obtain ⟨a, x⟩ := p
    simp only [mapDel]
    split
    · rename_i ha; subst ha; simp [mapFind, Ne.symm h, ih]
    · simp [mapFind, ih]

/-- A listed value or the default. -/
theorem mapGet_eq (d : α) (l : List (Nat × α)) (k : Nat) : mapGet d l k = (mapFind l k).getD d := by
  induction l with
  | nil => rfl
  | cons p t ih =>
    obtain ⟨a, x⟩ := p
    simp only [mapGet, mapFind]
    split
    · rfl
    · exact ih

@[simp] theorem mapGet_mapPut_self (d : α) (l : List (Nat × α)) (k : Nat) (v : α) : mapGet d (mapPut l k v) k = v := by
  simp [mapGet_eq]

theorem mapGet_mapPut_ne (d : α) (l : List (Nat × α)) {k j : Nat} (v : α) (h : j ≠ k) : mapGet d (mapPut l k v) j = mapGet d l j := by
  simp [mapGet_eq, mapFind_mapPut_ne l v h]

@[simp] theorem mapGet_mapSet_self [DecidableEq α] (d : α) (l : List (Nat × α)) (k : Nat) (v : α) : mapGet d (mapSet d l k v) k = v := by
  unfold mapSet
  split
  · rename_i h; simp [mapGet_eq, h]
  · simp

theorem mapGet_mapSet_ne [DecidableEq α] (d : α) (l : List (Nat × α)) {k j : Nat} (v : α) (h : j ≠ k) :
    mapGet d (mapSet d l k v) j = mapGet d l j := by
  unfold mapSet
  split
  · simp [mapGet_eq, mapFind_mapDel_ne l h]
  · exact mapGet_mapPut_ne d l v h

/-- Every key of the list is above a bound. -/
def KeysAbove (b : Nat) : List (Nat × α) → Prop
  | [] => True
  | (a, _) :: t => b < a ∧ KeysAbove a t

theorem keysRise_cons (p : Nat × α) (t : List (Nat × α)) : keysRise (p :: t) = true ↔ KeysAbove p.1 t := by
  induction t generalizing p with
  | nil => simp [keysRise, KeysAbove]
  | cons q t ih => obtain ⟨a, x⟩ := p; obtain ⟨b, y⟩ := q; simp [keysRise, KeysAbove, ih]

theorem KeysAbove.mono {b c : Nat} (h : c ≤ b) : ∀ {l : List (Nat × α)}, KeysAbove b l → KeysAbove c l
  | [], _ => trivial
  | (_, _) :: _, ⟨h1, h2⟩ => ⟨by omega, h2⟩

theorem KeysAbove.mapPut {b k : Nat} {v : α} (hk : b < k) : ∀ {l : List (Nat × α)}, KeysAbove b l → KeysAbove b (mapPut l k v)
  | [], _ => ⟨hk, trivial⟩
  | (a, x) :: t, h => by
    obtain ⟨h1, h2⟩ := h
    simp only [Machine.mapPut]
    split
    · rename_i ha; subst ha; exact ⟨hk, h2⟩
    · split
      · exact ⟨hk, by assumption, h2⟩
      · exact ⟨h1, KeysAbove.mapPut (by omega) h2⟩

theorem KeysAbove.mapDel {b k : Nat} : ∀ {l : List (Nat × α)}, KeysAbove b l → KeysAbove b (mapDel l k)
  | [], _ => trivial
  | (a, x) :: t, h => by
    obtain ⟨h1, h2⟩ := h
    simp only [Machine.mapDel]
    split
    · exact KeysAbove.mapDel (h2.mono (by omega))
    · exact ⟨h1, KeysAbove.mapDel h2⟩

/-- Rising keys stay rising under a write. -/
theorem keysRise_mapPut {l : List (Nat × α)} (k : Nat) (v : α) (h : keysRise l = true) : keysRise (mapPut l k v) = true := by
  cases l with
  | nil => rfl
  | cons p t =>
    obtain ⟨a, x⟩ := p
    rw [keysRise_cons] at h
    simp only [mapPut]
    split
    · rename_i ha; subst ha; rw [keysRise_cons]; exact h
    · split
      · rw [keysRise_cons]; exact ⟨by assumption, h⟩
      · rw [keysRise_cons]; exact KeysAbove.mapPut (by simp only; omega) h

theorem keysRise_of_above {b : Nat} {l : List (Nat × α)} (h : KeysAbove b l) : keysRise l = true := by
  cases l with
  | nil => rfl
  | cons p t => rw [keysRise_cons]; exact h.2

/-- Rising keys stay rising when one is taken away. -/
theorem keysRise_mapDel {l : List (Nat × α)} (k : Nat) (h : keysRise l = true) : keysRise (mapDel l k) = true := by
  cases l with
  | nil => rfl
  | cons p t =>
    obtain ⟨a, x⟩ := p
    rw [keysRise_cons] at h
    simp only [mapDel]
    split
    · exact keysRise_of_above (KeysAbove.mapDel h)
    · rw [keysRise_cons]; exact KeysAbove.mapDel h

/-- The canonical form of a list with a default is kept by a write. -/
theorem keysRise_mapSet [DecidableEq α] {l : List (Nat × α)} (d : α) (k : Nat) (v : α) (h : keysRise l = true) :
    keysRise (mapSet d l k v) = true := by
  unfold mapSet
  split
  · exact keysRise_mapDel k h
  · exact keysRise_mapPut k v h

@[simp] theorem nthD_setAt_self (d : α) : ∀ (l : List α) (i : Nat) (v : α), nthD d (setAt d l i v) i = v
  | [], 0, _ => rfl
  | [], i + 1, v => nthD_setAt_self d [] i v
  | _ :: _, 0, _ => rfl
  | _ :: t, i + 1, v => nthD_setAt_self d t i v

theorem nthD_setAt_ne (d : α) : ∀ (l : List α) (i j : Nat) (v : α), j ≠ i → nthD d (setAt d l i v) j = nthD d l j
  | [], 0, 0, _, h => absurd rfl h
  | [], 0, _ + 1, _, _ => rfl
  | [], _ + 1, 0, _, _ => rfl
  | [], i + 1, j + 1, v, h => (nthD_setAt_ne d [] i j v (by omega)).trans rfl
  | _ :: _, 0, 0, _, h => absurd rfl h
  | _ :: _, 0, _ + 1, _, _ => rfl
  | _ :: _, _ + 1, 0, _, _ => rfl
  | _ :: t, i + 1, j + 1, v, h => nthD_setAt_ne d t i j v (by omega)

theorem length_setAt (d : α) : ∀ (l : List α) (i : Nat) (v : α), i < l.length → (setAt d l i v).length = l.length
  | [], _, _, h => absurd h (by simp)
  | _ :: _, 0, _, _ => rfl
  | _ :: t, i + 1, v, h => by simpa [setAt] using length_setAt d t i v (by simpa using h)

end Sys2Proof.Machine
end

