-- ==== Sys2Proof/Laws/Regs.lean ====
section
/-!
SUPPORT. Laws of bit fields and of the register file: what a register or a field reads as after a write.
-/
namespace Sys2Proof.Machine

/-! ### Bit fields -/

/-- A number in three parts: above, in and below a field. -/
theorem split_bits (v hi lo : Nat) (h : lo ≤ hi + 1) :
    v = v / 2 ^ (hi + 1) * 2 ^ (hi + 1) + bitsOf v hi lo * 2 ^ lo + v % 2 ^ lo := by
  have e : 2 ^ (hi + 1) = 2 ^ lo * 2 ^ (hi + 1 - lo) := by rw [← pow_add]; congr 1; omega
  have h1 := Nat.div_add_mod v (2 ^ lo)
  have h2 := Nat.div_add_mod (v / 2 ^ lo) (2 ^ (hi + 1 - lo))
  rw [Nat.div_div_eq_div_mul, ← e] at h2
  unfold bitsOf
  calc v = 2 ^ lo * (v / 2 ^ lo) + v % 2 ^ lo := h1.symm
    _ = 2 ^ lo * (2 ^ (hi + 1 - lo) * (v / 2 ^ (hi + 1)) + v / 2 ^ lo % 2 ^ (hi + 1 - lo)) + v % 2 ^ lo := by rw [h2]
    _ = _ := by rw [e]; ring

/-- Writing a field replaces its part and keeps the others. -/
theorem putBits_parts (v hi lo x : Nat) (h : lo ≤ hi + 1) :
    putBits v hi lo x = v / 2 ^ (hi + 1) * 2 ^ (hi + 1) + x % 2 ^ (hi + 1 - lo) * 2 ^ lo + v % 2 ^ lo := by
  have hs := split_bits v hi lo h
  unfold putBits
  omega

@[simp] theorem bitsOf_putBits_self (v hi lo x : Nat) (h : lo ≤ hi) : bitsOf (putBits v hi lo x) hi lo = x % 2 ^ (hi + 1 - lo) := by
  have e : 2 ^ (hi + 1) = 2 ^ lo * 2 ^ (hi + 1 - lo) := by rw [← pow_add]; congr 1; omega
  rw [putBits_parts v hi lo x (by omega), bitsOf]
  have : v / 2 ^ (hi + 1) * 2 ^ (hi + 1) + x % 2 ^ (hi + 1 - lo) * 2 ^ lo + v % 2 ^ lo
      = v % 2 ^ lo + 2 ^ lo * (v / 2 ^ (hi + 1) * 2 ^ (hi + 1 - lo) + x % 2 ^ (hi + 1 - lo)) := by
    generalize v / 2 ^ (hi + 1) = q
    rw [e]
    ring
  rw [this, Nat.add_mul_div_left _ _ (by positivity), Nat.div_eq_of_lt (Nat.mod_lt _ (by positivity)), Nat.zero_add,
    Nat.mul_add_mod_self_right, Nat.mod_mod]

theorem bitsOf_mod (v hi lo : Nat) (h : lo ≤ hi + 1) : bitsOf v hi lo = v % 2 ^ (hi + 1) / 2 ^ lo := by
  unfold bitsOf
  rw [show 2 ^ (hi + 1) = 2 ^ lo * 2 ^ (hi + 1 - lo) by rw [← pow_add]; congr 1; omega, Nat.mod_mul_right_div_self]

theorem bitsOf_putBits_below (v hi lo x hi' lo' : Nat) (h : lo ≤ hi) (h' : lo' ≤ hi') (hb : hi' < lo) :
    bitsOf (putBits v hi lo x) hi' lo' = bitsOf v hi' lo' := by
  rw [bitsOf_mod _ _ _ (by omega), bitsOf_mod _ _ _ (by omega), putBits_parts v hi lo x (by omega)]
  have key : ∀ n, 2 ^ (hi' + 1) ∣ n → (n + v % 2 ^ lo) % 2 ^ (hi' + 1) = v % 2 ^ (hi' + 1) := by
    intro n hn
    rw [Nat.add_mod, Nat.mod_eq_zero_of_dvd hn, Nat.zero_add, Nat.mod_mod, Nat.mod_mod_of_dvd _ (pow_dvd_pow 2 (by omega))]
  rw [key]
  exact dvd_add (dvd_mul_of_dvd_right (pow_dvd_pow 2 (by omega)) _) (dvd_mul_of_dvd_right (pow_dvd_pow 2 (by omega)) _)

theorem putBits_div_above (v hi lo x : Nat) (h : lo ≤ hi) : putBits v hi lo x / 2 ^ (hi + 1) = v / 2 ^ (hi + 1) := by
  have e : 2 ^ (hi + 1) = 2 ^ (hi + 1 - lo) * 2 ^ lo := by rw [← pow_add]; congr 1; omega
  have h1 : x % 2 ^ (hi + 1 - lo) + 1 ≤ 2 ^ (hi + 1 - lo) := Nat.mod_lt _ (by positivity)
  have h2 : v % 2 ^ lo < 2 ^ lo := Nat.mod_lt _ (by positivity)
  have h3 : (x % 2 ^ (hi + 1 - lo) + 1) * 2 ^ lo ≤ 2 ^ (hi + 1) := by rw [e]; exact Nat.mul_le_mul_right _ h1
  rw [Nat.add_mul, Nat.one_mul] at h3
  rw [putBits_parts v hi lo x (by omega), Nat.add_assoc, Nat.mul_comm (v / _), Nat.mul_add_div (Nat.two_pow_pos _),
    Nat.div_eq_of_lt (Nat.lt_of_lt_of_le (Nat.add_lt_add_left h2 _) h3), Nat.add_zero]

theorem bitsOf_putBits_above (v hi lo x hi' lo' : Nat) (h : lo ≤ hi) (hb : hi < lo') :
    bitsOf (putBits v hi lo x) hi' lo' = bitsOf v hi' lo' := by
  have d : ∀ n, n / 2 ^ lo' = n / 2 ^ (hi + 1) / 2 ^ (lo' - (hi + 1)) := by
    intro n; rw [Nat.div_div_eq_div_mul, ← pow_add]; congr 2; omega
  unfold bitsOf
  rw [d, d v, putBits_div_above v hi lo x h]

theorem bitOf_eq (v k : Nat) : bitOf v k = decide (bitsOf v k k = 1) := by
  unfold bitOf bitsOf; rw [Nat.add_sub_cancel_left, pow_one]

@[simp] theorem ofBool_mod (b : Bool) : ofBool b % 2 = ofBool b := by cases b <;> rfl
@[simp] theorem ofBool_eq_one (b : Bool) : (ofBool b = 1) = (b = true) := by cases b <;> simp [ofBool]

theorem putBits_lt (v hi lo x n : Nat) (h : lo ≤ hi) (hn : hi < n) (hv : v < 2 ^ n) : putBits v hi lo x < 2 ^ n := by
  have hd := putBits_div_above v hi lo x h
  have e : 2 ^ n = 2 ^ (hi + 1) * 2 ^ (n - (hi + 1)) := by rw [← pow_add]; congr 1; omega
  have : putBits v hi lo x / 2 ^ (hi + 1) < 2 ^ (n - (hi + 1)) := by
    rw [hd]; exact Nat.div_lt_of_lt_mul (by rw [← e]; exact hv)
  rw [e]
  exact (Nat.div_lt_iff_lt_mul (by positivity)).1 this |>.trans_eq (Nat.mul_comm _ _)

/-! ### Registers -/

@[simp] theorem getR_setR_self (s : State) (k : Nat) (v : BitVec 32) : getR (setR s k v) k = v := by
  unfold getR setR mapSet
  by_cases h : v = BitVec.ofNat 32 (resetOf k)
  · simp [h]
  · simp [h]

theorem getR_setR_ne (s : State) {k j : Nat} (v : BitVec 32) (h : j ≠ k) : getR (setR s k v) j = getR s j := by
  unfold getR setR mapSet
  by_cases hv : v = BitVec.ofNat 32 (resetOf k)
  · simp [hv, mapFind_mapDel_ne _ h]
  · simp [hv, mapFind_mapPut_ne _ _ h]

/-- A register after a write of one. -/
theorem getR_setR (s : State) (k j : Nat) (v : BitVec 32) : getR (setR s k v) j = if j = k then v else getR s j := by
  split
  · rename_i h; subst h; simp
  · rename_i h; exact getR_setR_ne s v h

theorem regN_lt (s : State) (k : Nat) : regN s k < 2 ^ 32 := (getR s k).isLt

@[simp] theorem regN_setN_self (s : State) (k v : Nat) : regN (setN s k v) k = v % 2 ^ 32 := by simp [regN, setN]

theorem regN_setN_ne (s : State) {k j : Nat} (v : Nat) (h : j ≠ k) : regN (setN s k v) j = regN s j := by
  simp [regN, setN, getR_setR_ne s _ h]

theorem regN_setN (s : State) (k j v : Nat) : regN (setN s k v) j = if j = k then v % 2 ^ 32 else regN s j := by
  split
  · rename_i h; subst h; simp
  · rename_i h; exact regN_setN_ne s v h

theorem fld_setN_ne (s : State) {k j : Nat} (v hi lo : Nat) (h : j ≠ k) : fld (setN s k v) j hi lo = fld s j hi lo := by
  simp [fld, regN_setN_ne s v h]

theorem flag_setN_ne (s : State) {k j : Nat} (v b : Nat) (h : j ≠ k) : flag (setN s k v) j b = flag s j b := by
  simp [flag, regN_setN_ne s v h]

theorem regN_setFld_ne (s : State) {k j : Nat} (hi lo v : Nat) (h : j ≠ k) : regN (setFld s k hi lo v) j = regN s j :=
  regN_setN_ne s _ h

theorem regN_setFld_self (s : State) (k hi lo v : Nat) (h : lo ≤ hi) (h2 : hi < 32) :
    regN (setFld s k hi lo v) k = putBits (regN s k) hi lo v := by
  rw [setFld, regN_setN_self, Nat.mod_eq_of_lt (putBits_lt _ _ _ _ _ h h2 (regN_lt s k))]

theorem fld_setFld_self (s : State) (k hi lo v : Nat) (h : lo ≤ hi) (h2 : hi < 32) :
    fld (setFld s k hi lo v) k hi lo = v % 2 ^ (hi + 1 - lo) := by
  rw [fld, regN_setFld_self s k hi lo v h h2, bitsOf_putBits_self _ _ _ _ h]

theorem fld_setFld_ne (s : State) {k j : Nat} (hi lo v hi' lo' : Nat) (h : j ≠ k) :
    fld (setFld s k hi lo v) j hi' lo' = fld s j hi' lo' := fld_setN_ne s _ _ _ h

theorem flag_setFld_ne (s : State) {k j : Nat} (hi lo v b : Nat) (h : j ≠ k) : flag (setFld s k hi lo v) j b = flag s j b :=
  flag_setN_ne s _ _ h

/-- Another field of the same register keeps its value. -/
theorem fld_setFld_apart (s : State) (k hi lo v hi' lo' : Nat) (h : lo ≤ hi) (h2 : hi < 32) (h' : lo' ≤ hi')
    (ha : hi' < lo ∨ hi < lo') : fld (setFld s k hi lo v) k hi' lo' = fld s k hi' lo' := by
  rw [fld, regN_setFld_self s k hi lo v h h2, fld]
  rcases ha with ha | ha
  · exact bitsOf_putBits_below _ _ _ _ _ _ h h' ha
  · exact bitsOf_putBits_above _ _ _ _ _ _ h ha

theorem flag_setFlag_self (s : State) (k b : Nat) (v : Bool) (h : b < 32) : flag (setFlag s k b v) k b = v := by
  rw [flag, setFlag, regN_setFld_self s k b b _ (Nat.le_refl _) h, bitOf_eq, bitsOf_putBits_self _ _ _ _ (Nat.le_refl _)]
  simp [show b + 1 - b = 1 by omega]

theorem flag_setFlag_ne (s : State) {k j : Nat} (b : Nat) (v : Bool) (c : Nat) (h : j ≠ k) : flag (setFlag s k b v) j c = flag s j c :=
  flag_setFld_ne s _ _ _ _ h

theorem flag_setFlag_bit (s : State) (k b : Nat) (v : Bool) (c : Nat) (h : b < 32) (hc : c ≠ b) :
    flag (setFlag s k b v) k c = flag s k c := by
  rw [flag, flag, setFlag, bitOf_eq, bitOf_eq, ← fld, ← fld, fld_setFld_apart s k b b _ c c (Nat.le_refl _) h (Nat.le_refl _) (by omega)]

/-! ### What the register operations leave alone -/

theorem getR_setN_ne (s : State) {k j : Nat} (v : Nat) (h : j ≠ k) : getR (setN s k v) j = getR s j := getR_setR_ne s _ h
theorem getR_setFld_ne (s : State) {k j : Nat} (hi lo v : Nat) (h : j ≠ k) : getR (setFld s k hi lo v) j = getR s j := getR_setR_ne s _ h
theorem getR_setFlag_ne (s : State) {k j : Nat} (b : Nat) (v : Bool) (h : j ≠ k) : getR (setFlag s k b v) j = getR s j := getR_setR_ne s _ h
theorem getR_bump_ne (s : State) {k j : Nat} (h : j ≠ k) : getR (bump s k) j = getR s j := getR_setR_ne s _ h
theorem getR_bumpBy_ne (s : State) {k j : Nat} (n : Nat) (h : j ≠ k) : getR (bumpBy s k n) j = getR s j := getR_setR_ne s _ h

end Sys2Proof.Machine
end

