-- ==== Sys2Proof/Laws/State.lean ====
section
/-!
SUPPORT. What each update of the state leaves alone, field by field, so that no proof unfolds a record update; and the same for
events, interrupt messages and fault records, which change only what is listed here.
-/
namespace Sys2Proof.Machine

variable (s : State)

@[simp] theorem setR_pending (k : Nat) (v : BitVec 32) : (setR s k v).pending = s.pending := rfl
@[simp] theorem setR_mem (k : Nat) (v : BitVec 32) : (setR s k v).mem = s.mem := rfl
@[simp] theorem setR_store (k : Nat) (v : BitVec 32) : (setR s k v).store = s.store := rfl
@[simp] theorem setR_tick (k : Nat) (v : BitVec 32) : (setR s k v).tick = s.tick := rfl
@[simp] theorem setR_time (k : Nat) (v : BitVec 32) : (setR s k v).time = s.time := rfl
@[simp] theorem setR_flt (k : Nat) (v : BitVec 32) : (setR s k v).flt = s.flt := rfl
@[simp] theorem setR_irq (k : Nat) (v : BitVec 32) : (setR s k v).irq = s.irq := rfl
@[simp] theorem setR_host (k : Nat) (v : BitVec 32) : (setR s k v).host = s.host := rfl
@[simp] theorem setR_regn (k : Nat) (v : BitVec 32) : (setR s k v).regn = s.regn := rfl
@[simp] theorem setR_pool (k : Nat) (v : BitVec 32) : (setR s k v).pool = s.pool := rfl
@[simp] theorem setR_strm (k : Nat) (v : BitVec 32) : (setR s k v).strm = s.strm := rfl
@[simp] theorem setR_stn (k : Nat) (v : BitVec 32) : (setR s k v).stn = s.stn := rfl
@[simp] theorem setR_sw (k : Nat) (v : BitVec 32) : (setR s k v).sw = s.sw := rfl
@[simp] theorem setR_codec (k : Nat) (v : BitVec 32) : (setR s k v).codec = s.codec := rfl
@[simp] theorem setR_coll (k : Nat) (v : BitVec 32) : (setR s k v).coll = s.coll := rfl
@[simp] theorem setR_job (k : Nat) (v : BitVec 32) : (setR s k v).job = s.job := rfl
@[simp] theorem setR_line (k : Nat) (v : BitVec 32) : (setR s k v).line = s.line := rfl
@[simp] theorem setR_ciph (k : Nat) (v : BitVec 32) : (setR s k v).ciph = s.ciph := rfl
@[simp] theorem setR_ocu (k : Nat) (v : BitVec 32) : (setR s k v).ocu = s.ocu := rfl
@[simp] theorem setR_site (k : Nat) (v : BitVec 32) : (setR s k v).site = s.site := rfl
@[simp] theorem setR_hlth (k : Nat) (v : BitVec 32) : (setR s k v).hlth = s.hlth := rfl
@[simp] theorem setR_pwr (k : Nat) (v : BitVec 32) : (setR s k v).pwr = s.pwr := rfl
@[simp] theorem setR_sec (k : Nat) (v : BitVec 32) : (setR s k v).sec = s.sec := rfl
@[simp] theorem setR_faultN (k : Nat) (v : BitVec 32) : (setR s k v).faultN = s.faultN := rfl
@[simp] theorem setR_coreLine (k : Nat) (v : BitVec 32) : (setR s k v).coreLine = s.coreLine := rfl
@[simp] theorem setR_free (k : Nat) (v : BitVec 32) : (setR s k v).free = s.free := rfl
@[simp] theorem setR_lastRead (k : Nat) (v : BitVec 32) : (setR s k v).lastRead = s.lastRead := rfl
@[simp] theorem setR_sent (k : Nat) (v : BitVec 32) : (setR s k v).sent = s.sent := rfl

@[simp] theorem setN_pending (k v : Nat) : (setN s k v).pending = s.pending := rfl
@[simp] theorem setN_mem (k v : Nat) : (setN s k v).mem = s.mem := rfl
@[simp] theorem setN_store (k v : Nat) : (setN s k v).store = s.store := rfl
@[simp] theorem setN_tick (k v : Nat) : (setN s k v).tick = s.tick := rfl
@[simp] theorem setN_time (k v : Nat) : (setN s k v).time = s.time := rfl
@[simp] theorem setN_flt (k v : Nat) : (setN s k v).flt = s.flt := rfl
@[simp] theorem setN_irq (k v : Nat) : (setN s k v).irq = s.irq := rfl
@[simp] theorem setN_host (k v : Nat) : (setN s k v).host = s.host := rfl
@[simp] theorem setN_regn (k v : Nat) : (setN s k v).regn = s.regn := rfl
@[simp] theorem setN_pool (k v : Nat) : (setN s k v).pool = s.pool := rfl
@[simp] theorem setN_strm (k v : Nat) : (setN s k v).strm = s.strm := rfl
@[simp] theorem setN_stn (k v : Nat) : (setN s k v).stn = s.stn := rfl
@[simp] theorem setN_sw (k v : Nat) : (setN s k v).sw = s.sw := rfl
@[simp] theorem setN_codec (k v : Nat) : (setN s k v).codec = s.codec := rfl
@[simp] theorem setN_coll (k v : Nat) : (setN s k v).coll = s.coll := rfl
@[simp] theorem setN_job (k v : Nat) : (setN s k v).job = s.job := rfl
@[simp] theorem setN_line (k v : Nat) : (setN s k v).line = s.line := rfl
@[simp] theorem setN_ciph (k v : Nat) : (setN s k v).ciph = s.ciph := rfl
@[simp] theorem setN_ocu (k v : Nat) : (setN s k v).ocu = s.ocu := rfl
@[simp] theorem setN_site (k v : Nat) : (setN s k v).site = s.site := rfl
@[simp] theorem setN_hlth (k v : Nat) : (setN s k v).hlth = s.hlth := rfl
@[simp] theorem setN_pwr (k v : Nat) : (setN s k v).pwr = s.pwr := rfl
@[simp] theorem setN_sec (k v : Nat) : (setN s k v).sec = s.sec := rfl
@[simp] theorem setN_faultN (k v : Nat) : (setN s k v).faultN = s.faultN := rfl
@[simp] theorem setN_coreLine (k v : Nat) : (setN s k v).coreLine = s.coreLine := rfl
@[simp] theorem setN_free (k v : Nat) : (setN s k v).free = s.free := rfl
@[simp] theorem setN_lastRead (k v : Nat) : (setN s k v).lastRead = s.lastRead := rfl
@[simp] theorem setN_sent (k v : Nat) : (setN s k v).sent = s.sent := rfl

@[simp] theorem setFld_pending (k hi lo v : Nat) : (setFld s k hi lo v).pending = s.pending := rfl
@[simp] theorem setFld_mem (k hi lo v : Nat) : (setFld s k hi lo v).mem = s.mem := rfl
@[simp] theorem setFld_store (k hi lo v : Nat) : (setFld s k hi lo v).store = s.store := rfl
@[simp] theorem setFld_tick (k hi lo v : Nat) : (setFld s k hi lo v).tick = s.tick := rfl
@[simp] theorem setFld_time (k hi lo v : Nat) : (setFld s k hi lo v).time = s.time := rfl
@[simp] theorem setFld_flt (k hi lo v : Nat) : (setFld s k hi lo v).flt = s.flt := rfl
@[simp] theorem setFld_irq (k hi lo v : Nat) : (setFld s k hi lo v).irq = s.irq := rfl
@[simp] theorem setFld_host (k hi lo v : Nat) : (setFld s k hi lo v).host = s.host := rfl
@[simp] theorem setFld_regn (k hi lo v : Nat) : (setFld s k hi lo v).regn = s.regn := rfl
@[simp] theorem setFld_pool (k hi lo v : Nat) : (setFld s k hi lo v).pool = s.pool := rfl
@[simp] theorem setFld_strm (k hi lo v : Nat) : (setFld s k hi lo v).strm = s.strm := rfl
@[simp] theorem setFld_stn (k hi lo v : Nat) : (setFld s k hi lo v).stn = s.stn := rfl
@[simp] theorem setFld_sw (k hi lo v : Nat) : (setFld s k hi lo v).sw = s.sw := rfl
@[simp] theorem setFld_codec (k hi lo v : Nat) : (setFld s k hi lo v).codec = s.codec := rfl
@[simp] theorem setFld_coll (k hi lo v : Nat) : (setFld s k hi lo v).coll = s.coll := rfl
@[simp] theorem setFld_job (k hi lo v : Nat) : (setFld s k hi lo v).job = s.job := rfl
@[simp] theorem setFld_line (k hi lo v : Nat) : (setFld s k hi lo v).line = s.line := rfl
@[simp] theorem setFld_ciph (k hi lo v : Nat) : (setFld s k hi lo v).ciph = s.ciph := rfl
@[simp] theorem setFld_ocu (k hi lo v : Nat) : (setFld s k hi lo v).ocu = s.ocu := rfl
@[simp] theorem setFld_site (k hi lo v : Nat) : (setFld s k hi lo v).site = s.site := rfl
@[simp] theorem setFld_hlth (k hi lo v : Nat) : (setFld s k hi lo v).hlth = s.hlth := rfl
@[simp] theorem setFld_pwr (k hi lo v : Nat) : (setFld s k hi lo v).pwr = s.pwr := rfl
@[simp] theorem setFld_sec (k hi lo v : Nat) : (setFld s k hi lo v).sec = s.sec := rfl
@[simp] theorem setFld_faultN (k hi lo v : Nat) : (setFld s k hi lo v).faultN = s.faultN := rfl
@[simp] theorem setFld_coreLine (k hi lo v : Nat) : (setFld s k hi lo v).coreLine = s.coreLine := rfl
@[simp] theorem setFld_free (k hi lo v : Nat) : (setFld s k hi lo v).free = s.free := rfl
@[simp] theorem setFld_lastRead (k hi lo v : Nat) : (setFld s k hi lo v).lastRead = s.lastRead := rfl
@[simp] theorem setFld_sent (k hi lo v : Nat) : (setFld s k hi lo v).sent = s.sent := rfl

@[simp] theorem setFlag_pending (k b : Nat) (v : Bool) : (setFlag s k b v).pending = s.pending := rfl
@[simp] theorem setFlag_mem (k b : Nat) (v : Bool) : (setFlag s k b v).mem = s.mem := rfl
@[simp] theorem setFlag_store (k b : Nat) (v : Bool) : (setFlag s k b v).store = s.store := rfl
@[simp] theorem setFlag_tick (k b : Nat) (v : Bool) : (setFlag s k b v).tick = s.tick := rfl
@[simp] theorem setFlag_time (k b : Nat) (v : Bool) : (setFlag s k b v).time = s.time := rfl
@[simp] theorem setFlag_flt (k b : Nat) (v : Bool) : (setFlag s k b v).flt = s.flt := rfl
@[simp] theorem setFlag_irq (k b : Nat) (v : Bool) : (setFlag s k b v).irq = s.irq := rfl
@[simp] theorem setFlag_host (k b : Nat) (v : Bool) : (setFlag s k b v).host = s.host := rfl
@[simp] theorem setFlag_regn (k b : Nat) (v : Bool) : (setFlag s k b v).regn = s.regn := rfl
@[simp] theorem setFlag_pool (k b : Nat) (v : Bool) : (setFlag s k b v).pool = s.pool := rfl
@[simp] theorem setFlag_strm (k b : Nat) (v : Bool) : (setFlag s k b v).strm = s.strm := rfl
@[simp] theorem setFlag_stn (k b : Nat) (v : Bool) : (setFlag s k b v).stn = s.stn := rfl
@[simp] theorem setFlag_sw (k b : Nat) (v : Bool) : (setFlag s k b v).sw = s.sw := rfl
@[simp] theorem setFlag_codec (k b : Nat) (v : Bool) : (setFlag s k b v).codec = s.codec := rfl
@[simp] theorem setFlag_coll (k b : Nat) (v : Bool) : (setFlag s k b v).coll = s.coll := rfl
@[simp] theorem setFlag_job (k b : Nat) (v : Bool) : (setFlag s k b v).job = s.job := rfl
@[simp] theorem setFlag_line (k b : Nat) (v : Bool) : (setFlag s k b v).line = s.line := rfl
@[simp] theorem setFlag_ciph (k b : Nat) (v : Bool) : (setFlag s k b v).ciph = s.ciph := rfl
@[simp] theorem setFlag_ocu (k b : Nat) (v : Bool) : (setFlag s k b v).ocu = s.ocu := rfl
@[simp] theorem setFlag_site (k b : Nat) (v : Bool) : (setFlag s k b v).site = s.site := rfl
@[simp] theorem setFlag_hlth (k b : Nat) (v : Bool) : (setFlag s k b v).hlth = s.hlth := rfl
@[simp] theorem setFlag_pwr (k b : Nat) (v : Bool) : (setFlag s k b v).pwr = s.pwr := rfl
@[simp] theorem setFlag_sec (k b : Nat) (v : Bool) : (setFlag s k b v).sec = s.sec := rfl
@[simp] theorem setFlag_faultN (k b : Nat) (v : Bool) : (setFlag s k b v).faultN = s.faultN := rfl
@[simp] theorem setFlag_coreLine (k b : Nat) (v : Bool) : (setFlag s k b v).coreLine = s.coreLine := rfl
@[simp] theorem setFlag_free (k b : Nat) (v : Bool) : (setFlag s k b v).free = s.free := rfl
@[simp] theorem setFlag_lastRead (k b : Nat) (v : Bool) : (setFlag s k b v).lastRead = s.lastRead := rfl
@[simp] theorem setFlag_sent (k b : Nat) (v : Bool) : (setFlag s k b v).sent = s.sent := rfl

@[simp] theorem bumpBy_pending (k n : Nat) : (bumpBy s k n).pending = s.pending := rfl
@[simp] theorem bumpBy_mem (k n : Nat) : (bumpBy s k n).mem = s.mem := rfl
@[simp] theorem bumpBy_store (k n : Nat) : (bumpBy s k n).store = s.store := rfl
@[simp] theorem bumpBy_tick (k n : Nat) : (bumpBy s k n).tick = s.tick := rfl
@[simp] theorem bumpBy_time (k n : Nat) : (bumpBy s k n).time = s.time := rfl
@[simp] theorem bumpBy_flt (k n : Nat) : (bumpBy s k n).flt = s.flt := rfl
@[simp] theorem bumpBy_irq (k n : Nat) : (bumpBy s k n).irq = s.irq := rfl
@[simp] theorem bumpBy_host (k n : Nat) : (bumpBy s k n).host = s.host := rfl
@[simp] theorem bumpBy_regn (k n : Nat) : (bumpBy s k n).regn = s.regn := rfl
@[simp] theorem bumpBy_pool (k n : Nat) : (bumpBy s k n).pool = s.pool := rfl
@[simp] theorem bumpBy_strm (k n : Nat) : (bumpBy s k n).strm = s.strm := rfl
@[simp] theorem bumpBy_stn (k n : Nat) : (bumpBy s k n).stn = s.stn := rfl
@[simp] theorem bumpBy_sw (k n : Nat) : (bumpBy s k n).sw = s.sw := rfl
@[simp] theorem bumpBy_codec (k n : Nat) : (bumpBy s k n).codec = s.codec := rfl
@[simp] theorem bumpBy_coll (k n : Nat) : (bumpBy s k n).coll = s.coll := rfl
@[simp] theorem bumpBy_job (k n : Nat) : (bumpBy s k n).job = s.job := rfl
@[simp] theorem bumpBy_line (k n : Nat) : (bumpBy s k n).line = s.line := rfl
@[simp] theorem bumpBy_ciph (k n : Nat) : (bumpBy s k n).ciph = s.ciph := rfl
@[simp] theorem bumpBy_ocu (k n : Nat) : (bumpBy s k n).ocu = s.ocu := rfl
@[simp] theorem bumpBy_site (k n : Nat) : (bumpBy s k n).site = s.site := rfl
@[simp] theorem bumpBy_hlth (k n : Nat) : (bumpBy s k n).hlth = s.hlth := rfl
@[simp] theorem bumpBy_pwr (k n : Nat) : (bumpBy s k n).pwr = s.pwr := rfl
@[simp] theorem bumpBy_sec (k n : Nat) : (bumpBy s k n).sec = s.sec := rfl
@[simp] theorem bumpBy_faultN (k n : Nat) : (bumpBy s k n).faultN = s.faultN := rfl
@[simp] theorem bumpBy_coreLine (k n : Nat) : (bumpBy s k n).coreLine = s.coreLine := rfl
@[simp] theorem bumpBy_free (k n : Nat) : (bumpBy s k n).free = s.free := rfl
@[simp] theorem bumpBy_lastRead (k n : Nat) : (bumpBy s k n).lastRead = s.lastRead := rfl
@[simp] theorem bumpBy_sent (k n : Nat) : (bumpBy s k n).sent = s.sent := rfl

@[simp] theorem bump_pending (k : Nat) : (bump s k).pending = s.pending := rfl
@[simp] theorem bump_mem (k : Nat) : (bump s k).mem = s.mem := rfl
@[simp] theorem bump_store (k : Nat) : (bump s k).store = s.store := rfl
@[simp] theorem bump_tick (k : Nat) : (bump s k).tick = s.tick := rfl
@[simp] theorem bump_time (k : Nat) : (bump s k).time = s.time := rfl
@[simp] theorem bump_flt (k : Nat) : (bump s k).flt = s.flt := rfl
@[simp] theorem bump_irq (k : Nat) : (bump s k).irq = s.irq := rfl
@[simp] theorem bump_host (k : Nat) : (bump s k).host = s.host := rfl
@[simp] theorem bump_regn (k : Nat) : (bump s k).regn = s.regn := rfl
@[simp] theorem bump_pool (k : Nat) : (bump s k).pool = s.pool := rfl
@[simp] theorem bump_strm (k : Nat) : (bump s k).strm = s.strm := rfl
@[simp] theorem bump_stn (k : Nat) : (bump s k).stn = s.stn := rfl
@[simp] theorem bump_sw (k : Nat) : (bump s k).sw = s.sw := rfl
@[simp] theorem bump_codec (k : Nat) : (bump s k).codec = s.codec := rfl
@[simp] theorem bump_coll (k : Nat) : (bump s k).coll = s.coll := rfl
@[simp] theorem bump_job (k : Nat) : (bump s k).job = s.job := rfl
@[simp] theorem bump_line (k : Nat) : (bump s k).line = s.line := rfl
@[simp] theorem bump_ciph (k : Nat) : (bump s k).ciph = s.ciph := rfl
@[simp] theorem bump_ocu (k : Nat) : (bump s k).ocu = s.ocu := rfl
@[simp] theorem bump_site (k : Nat) : (bump s k).site = s.site := rfl
@[simp] theorem bump_hlth (k : Nat) : (bump s k).hlth = s.hlth := rfl
@[simp] theorem bump_pwr (k : Nat) : (bump s k).pwr = s.pwr := rfl
@[simp] theorem bump_sec (k : Nat) : (bump s k).sec = s.sec := rfl
@[simp] theorem bump_faultN (k : Nat) : (bump s k).faultN = s.faultN := rfl
@[simp] theorem bump_coreLine (k : Nat) : (bump s k).coreLine = s.coreLine := rfl
@[simp] theorem bump_free (k : Nat) : (bump s k).free = s.free := rfl
@[simp] theorem bump_lastRead (k : Nat) : (bump s k).lastRead = s.lastRead := rfl
@[simp] theorem bump_sent (k : Nat) : (bump s k).sent = s.sent := rfl

@[simp] theorem bumpWrap_pending (k : Nat) : (bumpWrap s k).pending = s.pending := rfl
@[simp] theorem bumpWrap_mem (k : Nat) : (bumpWrap s k).mem = s.mem := rfl
@[simp] theorem bumpWrap_store (k : Nat) : (bumpWrap s k).store = s.store := rfl
@[simp] theorem bumpWrap_tick (k : Nat) : (bumpWrap s k).tick = s.tick := rfl
@[simp] theorem bumpWrap_time (k : Nat) : (bumpWrap s k).time = s.time := rfl
@[simp] theorem bumpWrap_flt (k : Nat) : (bumpWrap s k).flt = s.flt := rfl
@[simp] theorem bumpWrap_irq (k : Nat) : (bumpWrap s k).irq = s.irq := rfl
@[simp] theorem bumpWrap_host (k : Nat) : (bumpWrap s k).host = s.host := rfl
@[simp] theorem bumpWrap_regn (k : Nat) : (bumpWrap s k).regn = s.regn := rfl
@[simp] theorem bumpWrap_pool (k : Nat) : (bumpWrap s k).pool = s.pool := rfl
@[simp] theorem bumpWrap_strm (k : Nat) : (bumpWrap s k).strm = s.strm := rfl
@[simp] theorem bumpWrap_stn (k : Nat) : (bumpWrap s k).stn = s.stn := rfl
@[simp] theorem bumpWrap_sw (k : Nat) : (bumpWrap s k).sw = s.sw := rfl
@[simp] theorem bumpWrap_codec (k : Nat) : (bumpWrap s k).codec = s.codec := rfl
@[simp] theorem bumpWrap_coll (k : Nat) : (bumpWrap s k).coll = s.coll := rfl
@[simp] theorem bumpWrap_job (k : Nat) : (bumpWrap s k).job = s.job := rfl
@[simp] theorem bumpWrap_line (k : Nat) : (bumpWrap s k).line = s.line := rfl
@[simp] theorem bumpWrap_ciph (k : Nat) : (bumpWrap s k).ciph = s.ciph := rfl
@[simp] theorem bumpWrap_ocu (k : Nat) : (bumpWrap s k).ocu = s.ocu := rfl
@[simp] theorem bumpWrap_site (k : Nat) : (bumpWrap s k).site = s.site := rfl
@[simp] theorem bumpWrap_hlth (k : Nat) : (bumpWrap s k).hlth = s.hlth := rfl
@[simp] theorem bumpWrap_pwr (k : Nat) : (bumpWrap s k).pwr = s.pwr := rfl
@[simp] theorem bumpWrap_sec (k : Nat) : (bumpWrap s k).sec = s.sec := rfl
@[simp] theorem bumpWrap_faultN (k : Nat) : (bumpWrap s k).faultN = s.faultN := rfl
@[simp] theorem bumpWrap_coreLine (k : Nat) : (bumpWrap s k).coreLine = s.coreLine := rfl
@[simp] theorem bumpWrap_free (k : Nat) : (bumpWrap s k).free = s.free := rfl
@[simp] theorem bumpWrap_lastRead (k : Nat) : (bumpWrap s k).lastRead = s.lastRead := rfl
@[simp] theorem bumpWrap_sent (k : Nat) : (bumpWrap s k).sent = s.sent := rfl

@[simp] theorem set64_pending (lo hi v : Nat) : (set64 s lo hi v).pending = s.pending := rfl
@[simp] theorem set64_mem (lo hi v : Nat) : (set64 s lo hi v).mem = s.mem := rfl
@[simp] theorem set64_store (lo hi v : Nat) : (set64 s lo hi v).store = s.store := rfl
@[simp] theorem set64_tick (lo hi v : Nat) : (set64 s lo hi v).tick = s.tick := rfl
@[simp] theorem set64_time (lo hi v : Nat) : (set64 s lo hi v).time = s.time := rfl
@[simp] theorem set64_flt (lo hi v : Nat) : (set64 s lo hi v).flt = s.flt := rfl
@[simp] theorem set64_irq (lo hi v : Nat) : (set64 s lo hi v).irq = s.irq := rfl
@[simp] theorem set64_host (lo hi v : Nat) : (set64 s lo hi v).host = s.host := rfl
@[simp] theorem set64_regn (lo hi v : Nat) : (set64 s lo hi v).regn = s.regn := rfl
@[simp] theorem set64_pool (lo hi v : Nat) : (set64 s lo hi v).pool = s.pool := rfl
@[simp] theorem set64_strm (lo hi v : Nat) : (set64 s lo hi v).strm = s.strm := rfl
@[simp] theorem set64_stn (lo hi v : Nat) : (set64 s lo hi v).stn = s.stn := rfl
@[simp] theorem set64_sw (lo hi v : Nat) : (set64 s lo hi v).sw = s.sw := rfl
@[simp] theorem set64_codec (lo hi v : Nat) : (set64 s lo hi v).codec = s.codec := rfl
@[simp] theorem set64_coll (lo hi v : Nat) : (set64 s lo hi v).coll = s.coll := rfl
@[simp] theorem set64_job (lo hi v : Nat) : (set64 s lo hi v).job = s.job := rfl
@[simp] theorem set64_line (lo hi v : Nat) : (set64 s lo hi v).line = s.line := rfl
@[simp] theorem set64_ciph (lo hi v : Nat) : (set64 s lo hi v).ciph = s.ciph := rfl
@[simp] theorem set64_ocu (lo hi v : Nat) : (set64 s lo hi v).ocu = s.ocu := rfl
@[simp] theorem set64_site (lo hi v : Nat) : (set64 s lo hi v).site = s.site := rfl
@[simp] theorem set64_hlth (lo hi v : Nat) : (set64 s lo hi v).hlth = s.hlth := rfl
@[simp] theorem set64_pwr (lo hi v : Nat) : (set64 s lo hi v).pwr = s.pwr := rfl
@[simp] theorem set64_sec (lo hi v : Nat) : (set64 s lo hi v).sec = s.sec := rfl
@[simp] theorem set64_faultN (lo hi v : Nat) : (set64 s lo hi v).faultN = s.faultN := rfl
@[simp] theorem set64_coreLine (lo hi v : Nat) : (set64 s lo hi v).coreLine = s.coreLine := rfl
@[simp] theorem set64_free (lo hi v : Nat) : (set64 s lo hi v).free = s.free := rfl
@[simp] theorem set64_lastRead (lo hi v : Nat) : (set64 s lo hi v).lastRead = s.lastRead := rfl
@[simp] theorem set64_sent (lo hi v : Nat) : (set64 s lo hi v).sent = s.sent := rfl

@[simp] theorem result_pending (k c : Nat) : (result s k c).pending = s.pending := rfl
@[simp] theorem result_mem (k c : Nat) : (result s k c).mem = s.mem := rfl
@[simp] theorem result_store (k c : Nat) : (result s k c).store = s.store := rfl
@[simp] theorem result_tick (k c : Nat) : (result s k c).tick = s.tick := rfl
@[simp] theorem result_time (k c : Nat) : (result s k c).time = s.time := rfl
@[simp] theorem result_flt (k c : Nat) : (result s k c).flt = s.flt := rfl
@[simp] theorem result_irq (k c : Nat) : (result s k c).irq = s.irq := rfl
@[simp] theorem result_host (k c : Nat) : (result s k c).host = s.host := rfl
@[simp] theorem result_regn (k c : Nat) : (result s k c).regn = s.regn := rfl
@[simp] theorem result_pool (k c : Nat) : (result s k c).pool = s.pool := rfl
@[simp] theorem result_strm (k c : Nat) : (result s k c).strm = s.strm := rfl
@[simp] theorem result_stn (k c : Nat) : (result s k c).stn = s.stn := rfl
@[simp] theorem result_sw (k c : Nat) : (result s k c).sw = s.sw := rfl
@[simp] theorem result_codec (k c : Nat) : (result s k c).codec = s.codec := rfl
@[simp] theorem result_coll (k c : Nat) : (result s k c).coll = s.coll := rfl
@[simp] theorem result_job (k c : Nat) : (result s k c).job = s.job := rfl
@[simp] theorem result_line (k c : Nat) : (result s k c).line = s.line := rfl
@[simp] theorem result_ciph (k c : Nat) : (result s k c).ciph = s.ciph := rfl
@[simp] theorem result_ocu (k c : Nat) : (result s k c).ocu = s.ocu := rfl
@[simp] theorem result_site (k c : Nat) : (result s k c).site = s.site := rfl
@[simp] theorem result_hlth (k c : Nat) : (result s k c).hlth = s.hlth := rfl
@[simp] theorem result_pwr (k c : Nat) : (result s k c).pwr = s.pwr := rfl
@[simp] theorem result_sec (k c : Nat) : (result s k c).sec = s.sec := rfl
@[simp] theorem result_faultN (k c : Nat) : (result s k c).faultN = s.faultN := rfl
@[simp] theorem result_coreLine (k c : Nat) : (result s k c).coreLine = s.coreLine := rfl
@[simp] theorem result_free (k c : Nat) : (result s k c).free = s.free := rfl
@[simp] theorem result_lastRead (k c : Nat) : (result s k c).lastRead = s.lastRead := rfl
@[simp] theorem result_sent (k c : Nat) : (result s k c).sent = s.sent := rfl

@[simp] theorem setBlk_pending (page st : Nat) : (setBlk s page st).pending = s.pending := rfl
@[simp] theorem setBlk_mem (page st : Nat) : (setBlk s page st).mem = s.mem := rfl
@[simp] theorem setBlk_store (page st : Nat) : (setBlk s page st).store = s.store := rfl
@[simp] theorem setBlk_tick (page st : Nat) : (setBlk s page st).tick = s.tick := rfl
@[simp] theorem setBlk_time (page st : Nat) : (setBlk s page st).time = s.time := rfl
@[simp] theorem setBlk_flt (page st : Nat) : (setBlk s page st).flt = s.flt := rfl
@[simp] theorem setBlk_irq (page st : Nat) : (setBlk s page st).irq = s.irq := rfl
@[simp] theorem setBlk_host (page st : Nat) : (setBlk s page st).host = s.host := rfl
@[simp] theorem setBlk_regn (page st : Nat) : (setBlk s page st).regn = s.regn := rfl
@[simp] theorem setBlk_pool (page st : Nat) : (setBlk s page st).pool = s.pool := rfl
@[simp] theorem setBlk_strm (page st : Nat) : (setBlk s page st).strm = s.strm := rfl
@[simp] theorem setBlk_stn (page st : Nat) : (setBlk s page st).stn = s.stn := rfl
@[simp] theorem setBlk_sw (page st : Nat) : (setBlk s page st).sw = s.sw := rfl
@[simp] theorem setBlk_codec (page st : Nat) : (setBlk s page st).codec = s.codec := rfl
@[simp] theorem setBlk_coll (page st : Nat) : (setBlk s page st).coll = s.coll := rfl
@[simp] theorem setBlk_job (page st : Nat) : (setBlk s page st).job = s.job := rfl
@[simp] theorem setBlk_line (page st : Nat) : (setBlk s page st).line = s.line := rfl
@[simp] theorem setBlk_ciph (page st : Nat) : (setBlk s page st).ciph = s.ciph := rfl
@[simp] theorem setBlk_ocu (page st : Nat) : (setBlk s page st).ocu = s.ocu := rfl
@[simp] theorem setBlk_site (page st : Nat) : (setBlk s page st).site = s.site := rfl
@[simp] theorem setBlk_hlth (page st : Nat) : (setBlk s page st).hlth = s.hlth := rfl
@[simp] theorem setBlk_pwr (page st : Nat) : (setBlk s page st).pwr = s.pwr := rfl
@[simp] theorem setBlk_sec (page st : Nat) : (setBlk s page st).sec = s.sec := rfl
@[simp] theorem setBlk_faultN (page st : Nat) : (setBlk s page st).faultN = s.faultN := rfl
@[simp] theorem setBlk_coreLine (page st : Nat) : (setBlk s page st).coreLine = s.coreLine := rfl
@[simp] theorem setBlk_free (page st : Nat) : (setBlk s page st).free = s.free := rfl
@[simp] theorem setBlk_lastRead (page st : Nat) : (setBlk s page st).lastRead = s.lastRead := rfl
@[simp] theorem setBlk_sent (page st : Nat) : (setBlk s page st).sent = s.sent := rfl

@[simp] theorem emit_pending (o : Out) : (emit s o).pending = s.pending := rfl
@[simp] theorem emit_regs (o : Out) : (emit s o).regs = s.regs := rfl
@[simp] theorem emit_mem (o : Out) : (emit s o).mem = s.mem := rfl
@[simp] theorem emit_store (o : Out) : (emit s o).store = s.store := rfl
@[simp] theorem emit_tick (o : Out) : (emit s o).tick = s.tick := rfl
@[simp] theorem emit_time (o : Out) : (emit s o).time = s.time := rfl
@[simp] theorem emit_flt (o : Out) : (emit s o).flt = s.flt := rfl
@[simp] theorem emit_irq (o : Out) : (emit s o).irq = s.irq := rfl
@[simp] theorem emit_host (o : Out) : (emit s o).host = s.host := rfl
@[simp] theorem emit_regn (o : Out) : (emit s o).regn = s.regn := rfl
@[simp] theorem emit_pool (o : Out) : (emit s o).pool = s.pool := rfl
@[simp] theorem emit_strm (o : Out) : (emit s o).strm = s.strm := rfl
@[simp] theorem emit_stn (o : Out) : (emit s o).stn = s.stn := rfl
@[simp] theorem emit_sw (o : Out) : (emit s o).sw = s.sw := rfl
@[simp] theorem emit_codec (o : Out) : (emit s o).codec = s.codec := rfl
@[simp] theorem emit_coll (o : Out) : (emit s o).coll = s.coll := rfl
@[simp] theorem emit_job (o : Out) : (emit s o).job = s.job := rfl
@[simp] theorem emit_line (o : Out) : (emit s o).line = s.line := rfl
@[simp] theorem emit_ciph (o : Out) : (emit s o).ciph = s.ciph := rfl
@[simp] theorem emit_ocu (o : Out) : (emit s o).ocu = s.ocu := rfl
@[simp] theorem emit_site (o : Out) : (emit s o).site = s.site := rfl
@[simp] theorem emit_hlth (o : Out) : (emit s o).hlth = s.hlth := rfl
@[simp] theorem emit_pwr (o : Out) : (emit s o).pwr = s.pwr := rfl
@[simp] theorem emit_sec (o : Out) : (emit s o).sec = s.sec := rfl
@[simp] theorem emit_faultN (o : Out) : (emit s o).faultN = s.faultN := rfl
@[simp] theorem emit_coreLine (o : Out) : (emit s o).coreLine = s.coreLine := rfl
@[simp] theorem emit_free (o : Out) : (emit s o).free = s.free := rfl
@[simp] theorem emit_lastRead (o : Out) : (emit s o).lastRead = s.lastRead := rfl
@[simp] theorem getR_emit (o : Out) (j : Nat) : getR (emit s o) j = getR s j := rfl
@[simp] theorem regN_emit (o : Out) (j : Nat) : regN (emit s o) j = regN s j := rfl
@[simp] theorem fld_emit (o : Out) (j hi lo : Nat) : fld (emit s o) j hi lo = fld s j hi lo := rfl
@[simp] theorem flag_emit (o : Out) (j c : Nat) : flag (emit s o) j c = flag s j c := rfl

@[simp] theorem rawWrite_pending (k : Nat) (bs : List Byte) : (rawWrite s k bs).pending = s.pending := rfl
@[simp] theorem rawWrite_regs (k : Nat) (bs : List Byte) : (rawWrite s k bs).regs = s.regs := rfl
@[simp] theorem rawWrite_store (k : Nat) (bs : List Byte) : (rawWrite s k bs).store = s.store := rfl
@[simp] theorem rawWrite_tick (k : Nat) (bs : List Byte) : (rawWrite s k bs).tick = s.tick := rfl
@[simp] theorem rawWrite_time (k : Nat) (bs : List Byte) : (rawWrite s k bs).time = s.time := rfl
@[simp] theorem rawWrite_flt (k : Nat) (bs : List Byte) : (rawWrite s k bs).flt = s.flt := rfl
@[simp] theorem rawWrite_irq (k : Nat) (bs : List Byte) : (rawWrite s k bs).irq = s.irq := rfl
@[simp] theorem rawWrite_host (k : Nat) (bs : List Byte) : (rawWrite s k bs).host = s.host := rfl
@[simp] theorem rawWrite_regn (k : Nat) (bs : List Byte) : (rawWrite s k bs).regn = s.regn := rfl
@[simp] theorem rawWrite_pool (k : Nat) (bs : List Byte) : (rawWrite s k bs).pool = s.pool := rfl
@[simp] theorem rawWrite_strm (k : Nat) (bs : List Byte) : (rawWrite s k bs).strm = s.strm := rfl
@[simp] theorem rawWrite_stn (k : Nat) (bs : List Byte) : (rawWrite s k bs).stn = s.stn := rfl
@[simp] theorem rawWrite_sw (k : Nat) (bs : List Byte) : (rawWrite s k bs).sw = s.sw := rfl
@[simp] theorem rawWrite_codec (k : Nat) (bs : List Byte) : (rawWrite s k bs).codec = s.codec := rfl
@[simp] theorem rawWrite_coll (k : Nat) (bs : List Byte) : (rawWrite s k bs).coll = s.coll := rfl
@[simp] theorem rawWrite_job (k : Nat) (bs : List Byte) : (rawWrite s k bs).job = s.job := rfl
@[simp] theorem rawWrite_line (k : Nat) (bs : List Byte) : (rawWrite s k bs).line = s.line := rfl
@[simp] theorem rawWrite_ciph (k : Nat) (bs : List Byte) : (rawWrite s k bs).ciph = s.ciph := rfl
@[simp] theorem rawWrite_ocu (k : Nat) (bs : List Byte) : (rawWrite s k bs).ocu = s.ocu := rfl
@[simp] theorem rawWrite_site (k : Nat) (bs : List Byte) : (rawWrite s k bs).site = s.site := rfl
@[simp] theorem rawWrite_hlth (k : Nat) (bs : List Byte) : (rawWrite s k bs).hlth = s.hlth := rfl
@[simp] theorem rawWrite_pwr (k : Nat) (bs : List Byte) : (rawWrite s k bs).pwr = s.pwr := rfl
@[simp] theorem rawWrite_sec (k : Nat) (bs : List Byte) : (rawWrite s k bs).sec = s.sec := rfl
@[simp] theorem rawWrite_faultN (k : Nat) (bs : List Byte) : (rawWrite s k bs).faultN = s.faultN := rfl
@[simp] theorem rawWrite_coreLine (k : Nat) (bs : List Byte) : (rawWrite s k bs).coreLine = s.coreLine := rfl
@[simp] theorem rawWrite_free (k : Nat) (bs : List Byte) : (rawWrite s k bs).free = s.free := rfl
@[simp] theorem rawWrite_lastRead (k : Nat) (bs : List Byte) : (rawWrite s k bs).lastRead = s.lastRead := rfl
@[simp] theorem rawWrite_sent (k : Nat) (bs : List Byte) : (rawWrite s k bs).sent = s.sent := rfl
@[simp] theorem getR_rawWrite (k : Nat) (bs : List Byte) (j : Nat) : getR (rawWrite s k bs) j = getR s j := rfl
@[simp] theorem regN_rawWrite (k : Nat) (bs : List Byte) (j : Nat) : regN (rawWrite s k bs) j = regN s j := rfl
@[simp] theorem fld_rawWrite (k : Nat) (bs : List Byte) (j hi lo : Nat) : fld (rawWrite s k bs) j hi lo = fld s j hi lo := rfl
@[simp] theorem flag_rawWrite (k : Nat) (bs : List Byte) (j c : Nat) : flag (rawWrite s k bs) j c = flag s j c := rfl

@[simp] theorem eccClear_pending (w : Nat) : (eccClear s w).pending = s.pending := rfl
@[simp] theorem eccClear_regs (w : Nat) : (eccClear s w).regs = s.regs := rfl
@[simp] theorem eccClear_mem (w : Nat) : (eccClear s w).mem = s.mem := rfl
@[simp] theorem eccClear_tick (w : Nat) : (eccClear s w).tick = s.tick := rfl
@[simp] theorem eccClear_time (w : Nat) : (eccClear s w).time = s.time := rfl
@[simp] theorem eccClear_flt (w : Nat) : (eccClear s w).flt = s.flt := rfl
@[simp] theorem eccClear_irq (w : Nat) : (eccClear s w).irq = s.irq := rfl
@[simp] theorem eccClear_host (w : Nat) : (eccClear s w).host = s.host := rfl
@[simp] theorem eccClear_regn (w : Nat) : (eccClear s w).regn = s.regn := rfl
@[simp] theorem eccClear_pool (w : Nat) : (eccClear s w).pool = s.pool := rfl
@[simp] theorem eccClear_strm (w : Nat) : (eccClear s w).strm = s.strm := rfl
@[simp] theorem eccClear_stn (w : Nat) : (eccClear s w).stn = s.stn := rfl
@[simp] theorem eccClear_sw (w : Nat) : (eccClear s w).sw = s.sw := rfl
@[simp] theorem eccClear_codec (w : Nat) : (eccClear s w).codec = s.codec := rfl
@[simp] theorem eccClear_coll (w : Nat) : (eccClear s w).coll = s.coll := rfl
@[simp] theorem eccClear_job (w : Nat) : (eccClear s w).job = s.job := rfl
@[simp] theorem eccClear_line (w : Nat) : (eccClear s w).line = s.line := rfl
@[simp] theorem eccClear_ciph (w : Nat) : (eccClear s w).ciph = s.ciph := rfl
@[simp] theorem eccClear_ocu (w : Nat) : (eccClear s w).ocu = s.ocu := rfl
@[simp] theorem eccClear_site (w : Nat) : (eccClear s w).site = s.site := rfl
@[simp] theorem eccClear_hlth (w : Nat) : (eccClear s w).hlth = s.hlth := rfl
@[simp] theorem eccClear_pwr (w : Nat) : (eccClear s w).pwr = s.pwr := rfl
@[simp] theorem eccClear_sec (w : Nat) : (eccClear s w).sec = s.sec := rfl
@[simp] theorem eccClear_faultN (w : Nat) : (eccClear s w).faultN = s.faultN := rfl
@[simp] theorem eccClear_coreLine (w : Nat) : (eccClear s w).coreLine = s.coreLine := rfl
@[simp] theorem eccClear_free (w : Nat) : (eccClear s w).free = s.free := rfl
@[simp] theorem eccClear_lastRead (w : Nat) : (eccClear s w).lastRead = s.lastRead := rfl
@[simp] theorem eccClear_sent (w : Nat) : (eccClear s w).sent = s.sent := rfl
@[simp] theorem getR_eccClear (w : Nat) (j : Nat) : getR (eccClear s w) j = getR s j := rfl
@[simp] theorem regN_eccClear (w : Nat) (j : Nat) : regN (eccClear s w) j = regN s j := rfl
@[simp] theorem fld_eccClear (w : Nat) (j hi lo : Nat) : fld (eccClear s w) j hi lo = fld s j hi lo := rfl
@[simp] theorem flag_eccClear (w : Nat) (j c : Nat) : flag (eccClear s w) j c = flag s j c := rfl

@[simp] theorem setIrqDyn_pending (src : Nat) (d : IrqDyn) : (setIrqDyn s src d).pending = s.pending := rfl
@[simp] theorem setIrqDyn_regs (src : Nat) (d : IrqDyn) : (setIrqDyn s src d).regs = s.regs := rfl
@[simp] theorem setIrqDyn_mem (src : Nat) (d : IrqDyn) : (setIrqDyn s src d).mem = s.mem := rfl
@[simp] theorem setIrqDyn_store (src : Nat) (d : IrqDyn) : (setIrqDyn s src d).store = s.store := rfl
@[simp] theorem setIrqDyn_tick (src : Nat) (d : IrqDyn) : (setIrqDyn s src d).tick = s.tick := rfl
@[simp] theorem setIrqDyn_time (src : Nat) (d : IrqDyn) : (setIrqDyn s src d).time = s.time := rfl
@[simp] theorem setIrqDyn_flt (src : Nat) (d : IrqDyn) : (setIrqDyn s src d).flt = s.flt := rfl
@[simp] theorem setIrqDyn_host (src : Nat) (d : IrqDyn) : (setIrqDyn s src d).host = s.host := rfl
@[simp] theorem setIrqDyn_regn (src : Nat) (d : IrqDyn) : (setIrqDyn s src d).regn = s.regn := rfl
@[simp] theorem setIrqDyn_pool (src : Nat) (d : IrqDyn) : (setIrqDyn s src d).pool = s.pool := rfl
@[simp] theorem setIrqDyn_strm (src : Nat) (d : IrqDyn) : (setIrqDyn s src d).strm = s.strm := rfl
@[simp] theorem setIrqDyn_stn (src : Nat) (d : IrqDyn) : (setIrqDyn s src d).stn = s.stn := rfl
@[simp] theorem setIrqDyn_sw (src : Nat) (d : IrqDyn) : (setIrqDyn s src d).sw = s.sw := rfl
@[simp] theorem setIrqDyn_codec (src : Nat) (d : IrqDyn) : (setIrqDyn s src d).codec = s.codec := rfl
@[simp] theorem setIrqDyn_coll (src : Nat) (d : IrqDyn) : (setIrqDyn s src d).coll = s.coll := rfl
@[simp] theorem setIrqDyn_job (src : Nat) (d : IrqDyn) : (setIrqDyn s src d).job = s.job := rfl
@[simp] theorem setIrqDyn_line (src : Nat) (d : IrqDyn) : (setIrqDyn s src d).line = s.line := rfl
@[simp] theorem setIrqDyn_ciph (src : Nat) (d : IrqDyn) : (setIrqDyn s src d).ciph = s.ciph := rfl
@[simp] theorem setIrqDyn_ocu (src : Nat) (d : IrqDyn) : (setIrqDyn s src d).ocu = s.ocu := rfl
@[simp] theorem setIrqDyn_site (src : Nat) (d : IrqDyn) : (setIrqDyn s src d).site = s.site := rfl
@[simp] theorem setIrqDyn_hlth (src : Nat) (d : IrqDyn) : (setIrqDyn s src d).hlth = s.hlth := rfl
@[simp] theorem setIrqDyn_pwr (src : Nat) (d : IrqDyn) : (setIrqDyn s src d).pwr = s.pwr := rfl
@[simp] theorem setIrqDyn_sec (src : Nat) (d : IrqDyn) : (setIrqDyn s src d).sec = s.sec := rfl
@[simp] theorem setIrqDyn_faultN (src : Nat) (d : IrqDyn) : (setIrqDyn s src d).faultN = s.faultN := rfl
@[simp] theorem setIrqDyn_coreLine (src : Nat) (d : IrqDyn) : (setIrqDyn s src d).coreLine = s.coreLine := rfl
@[simp] theorem setIrqDyn_free (src : Nat) (d : IrqDyn) : (setIrqDyn s src d).free = s.free := rfl
@[simp] theorem setIrqDyn_lastRead (src : Nat) (d : IrqDyn) : (setIrqDyn s src d).lastRead = s.lastRead := rfl
@[simp] theorem setIrqDyn_sent (src : Nat) (d : IrqDyn) : (setIrqDyn s src d).sent = s.sent := rfl
@[simp] theorem getR_setIrqDyn (src : Nat) (d : IrqDyn) (j : Nat) : getR (setIrqDyn s src d) j = getR s j := rfl
@[simp] theorem regN_setIrqDyn (src : Nat) (d : IrqDyn) (j : Nat) : regN (setIrqDyn s src d) j = regN s j := rfl
@[simp] theorem fld_setIrqDyn (src : Nat) (d : IrqDyn) (j hi lo : Nat) : fld (setIrqDyn s src d) j hi lo = fld s j hi lo := rfl
@[simp] theorem flag_setIrqDyn (src : Nat) (d : IrqDyn) (j c : Nat) : flag (setIrqDyn s src d) j c = flag s j c := rfl

@[simp] theorem clearPend_pending (t src : Nat) : (clearPend s t src).pending = s.pending := rfl
@[simp] theorem clearPend_regs (t src : Nat) : (clearPend s t src).regs = s.regs := rfl
@[simp] theorem clearPend_mem (t src : Nat) : (clearPend s t src).mem = s.mem := rfl
@[simp] theorem clearPend_store (t src : Nat) : (clearPend s t src).store = s.store := rfl
@[simp] theorem clearPend_tick (t src : Nat) : (clearPend s t src).tick = s.tick := rfl
@[simp] theorem clearPend_time (t src : Nat) : (clearPend s t src).time = s.time := rfl
@[simp] theorem clearPend_flt (t src : Nat) : (clearPend s t src).flt = s.flt := rfl
@[simp] theorem clearPend_host (t src : Nat) : (clearPend s t src).host = s.host := rfl
@[simp] theorem clearPend_regn (t src : Nat) : (clearPend s t src).regn = s.regn := rfl
@[simp] theorem clearPend_pool (t src : Nat) : (clearPend s t src).pool = s.pool := rfl
@[simp] theorem clearPend_strm (t src : Nat) : (clearPend s t src).strm = s.strm := rfl
@[simp] theorem clearPend_stn (t src : Nat) : (clearPend s t src).stn = s.stn := rfl
@[simp] theorem clearPend_sw (t src : Nat) : (clearPend s t src).sw = s.sw := rfl
@[simp] theorem clearPend_codec (t src : Nat) : (clearPend s t src).codec = s.codec := rfl
@[simp] theorem clearPend_coll (t src : Nat) : (clearPend s t src).coll = s.coll := rfl
@[simp] theorem clearPend_job (t src : Nat) : (clearPend s t src).job = s.job := rfl
@[simp] theorem clearPend_line (t src : Nat) : (clearPend s t src).line = s.line := rfl
@[simp] theorem clearPend_ciph (t src : Nat) : (clearPend s t src).ciph = s.ciph := rfl
@[simp] theorem clearPend_ocu (t src : Nat) : (clearPend s t src).ocu = s.ocu := rfl
@[simp] theorem clearPend_site (t src : Nat) : (clearPend s t src).site = s.site := rfl
@[simp] theorem clearPend_hlth (t src : Nat) : (clearPend s t src).hlth = s.hlth := rfl
@[simp] theorem clearPend_pwr (t src : Nat) : (clearPend s t src).pwr = s.pwr := rfl
@[simp] theorem clearPend_sec (t src : Nat) : (clearPend s t src).sec = s.sec := rfl
@[simp] theorem clearPend_faultN (t src : Nat) : (clearPend s t src).faultN = s.faultN := rfl
@[simp] theorem clearPend_coreLine (t src : Nat) : (clearPend s t src).coreLine = s.coreLine := rfl
@[simp] theorem clearPend_free (t src : Nat) : (clearPend s t src).free = s.free := rfl
@[simp] theorem clearPend_lastRead (t src : Nat) : (clearPend s t src).lastRead = s.lastRead := rfl
@[simp] theorem clearPend_sent (t src : Nat) : (clearPend s t src).sent = s.sent := rfl
@[simp] theorem getR_clearPend (t src : Nat) (j : Nat) : getR (clearPend s t src) j = getR s j := rfl
@[simp] theorem regN_clearPend (t src : Nat) (j : Nat) : regN (clearPend s t src) j = regN s j := rfl
@[simp] theorem fld_clearPend (t src : Nat) (j hi lo : Nat) : fld (clearPend s t src) j hi lo = fld s j hi lo := rfl
@[simp] theorem flag_clearPend (t src : Nat) (j c : Nat) : flag (clearPend s t src) j c = flag s j c := rfl

@[simp] theorem setFltDyn_pending (src : Nat) (d : FltDyn) : (setFltDyn s src d).pending = s.pending := rfl
@[simp] theorem setFltDyn_regs (src : Nat) (d : FltDyn) : (setFltDyn s src d).regs = s.regs := rfl
@[simp] theorem setFltDyn_mem (src : Nat) (d : FltDyn) : (setFltDyn s src d).mem = s.mem := rfl
@[simp] theorem setFltDyn_store (src : Nat) (d : FltDyn) : (setFltDyn s src d).store = s.store := rfl
@[simp] theorem setFltDyn_tick (src : Nat) (d : FltDyn) : (setFltDyn s src d).tick = s.tick := rfl
@[simp] theorem setFltDyn_time (src : Nat) (d : FltDyn) : (setFltDyn s src d).time = s.time := rfl
@[simp] theorem setFltDyn_irq (src : Nat) (d : FltDyn) : (setFltDyn s src d).irq = s.irq := rfl
@[simp] theorem setFltDyn_host (src : Nat) (d : FltDyn) : (setFltDyn s src d).host = s.host := rfl
@[simp] theorem setFltDyn_regn (src : Nat) (d : FltDyn) : (setFltDyn s src d).regn = s.regn := rfl
@[simp] theorem setFltDyn_pool (src : Nat) (d : FltDyn) : (setFltDyn s src d).pool = s.pool := rfl
@[simp] theorem setFltDyn_strm (src : Nat) (d : FltDyn) : (setFltDyn s src d).strm = s.strm := rfl
@[simp] theorem setFltDyn_stn (src : Nat) (d : FltDyn) : (setFltDyn s src d).stn = s.stn := rfl
@[simp] theorem setFltDyn_sw (src : Nat) (d : FltDyn) : (setFltDyn s src d).sw = s.sw := rfl
@[simp] theorem setFltDyn_codec (src : Nat) (d : FltDyn) : (setFltDyn s src d).codec = s.codec := rfl
@[simp] theorem setFltDyn_coll (src : Nat) (d : FltDyn) : (setFltDyn s src d).coll = s.coll := rfl
@[simp] theorem setFltDyn_job (src : Nat) (d : FltDyn) : (setFltDyn s src d).job = s.job := rfl
@[simp] theorem setFltDyn_line (src : Nat) (d : FltDyn) : (setFltDyn s src d).line = s.line := rfl
@[simp] theorem setFltDyn_ciph (src : Nat) (d : FltDyn) : (setFltDyn s src d).ciph = s.ciph := rfl
@[simp] theorem setFltDyn_ocu (src : Nat) (d : FltDyn) : (setFltDyn s src d).ocu = s.ocu := rfl
@[simp] theorem setFltDyn_site (src : Nat) (d : FltDyn) : (setFltDyn s src d).site = s.site := rfl
@[simp] theorem setFltDyn_hlth (src : Nat) (d : FltDyn) : (setFltDyn s src d).hlth = s.hlth := rfl
@[simp] theorem setFltDyn_pwr (src : Nat) (d : FltDyn) : (setFltDyn s src d).pwr = s.pwr := rfl
@[simp] theorem setFltDyn_sec (src : Nat) (d : FltDyn) : (setFltDyn s src d).sec = s.sec := rfl
@[simp] theorem setFltDyn_faultN (src : Nat) (d : FltDyn) : (setFltDyn s src d).faultN = s.faultN := rfl
@[simp] theorem setFltDyn_coreLine (src : Nat) (d : FltDyn) : (setFltDyn s src d).coreLine = s.coreLine := rfl
@[simp] theorem setFltDyn_free (src : Nat) (d : FltDyn) : (setFltDyn s src d).free = s.free := rfl
@[simp] theorem setFltDyn_lastRead (src : Nat) (d : FltDyn) : (setFltDyn s src d).lastRead = s.lastRead := rfl
@[simp] theorem setFltDyn_sent (src : Nat) (d : FltDyn) : (setFltDyn s src d).sent = s.sent := rfl
@[simp] theorem getR_setFltDyn (src : Nat) (d : FltDyn) (j : Nat) : getR (setFltDyn s src d) j = getR s j := rfl
@[simp] theorem regN_setFltDyn (src : Nat) (d : FltDyn) (j : Nat) : regN (setFltDyn s src d) j = regN s j := rfl
@[simp] theorem fld_setFltDyn (src : Nat) (d : FltDyn) (j hi lo : Nat) : fld (setFltDyn s src d) j hi lo = fld s j hi lo := rfl
@[simp] theorem flag_setFltDyn (src : Nat) (d : FltDyn) (j c : Nat) : flag (setFltDyn s src d) j c = flag s j c := rfl

@[simp] theorem healthEvent_pending (i : Nat) : (healthEvent s i).pending = s.pending := rfl
@[simp] theorem healthEvent_regs (i : Nat) : (healthEvent s i).regs = s.regs := rfl
@[simp] theorem healthEvent_mem (i : Nat) : (healthEvent s i).mem = s.mem := rfl
@[simp] theorem healthEvent_store (i : Nat) : (healthEvent s i).store = s.store := rfl
@[simp] theorem healthEvent_tick (i : Nat) : (healthEvent s i).tick = s.tick := rfl
@[simp] theorem healthEvent_time (i : Nat) : (healthEvent s i).time = s.time := rfl
@[simp] theorem healthEvent_flt (i : Nat) : (healthEvent s i).flt = s.flt := rfl
@[simp] theorem healthEvent_irq (i : Nat) : (healthEvent s i).irq = s.irq := rfl
@[simp] theorem healthEvent_host (i : Nat) : (healthEvent s i).host = s.host := rfl
@[simp] theorem healthEvent_regn (i : Nat) : (healthEvent s i).regn = s.regn := rfl
@[simp] theorem healthEvent_pool (i : Nat) : (healthEvent s i).pool = s.pool := rfl
@[simp] theorem healthEvent_strm (i : Nat) : (healthEvent s i).strm = s.strm := rfl
@[simp] theorem healthEvent_stn (i : Nat) : (healthEvent s i).stn = s.stn := rfl
@[simp] theorem healthEvent_sw (i : Nat) : (healthEvent s i).sw = s.sw := rfl
@[simp] theorem healthEvent_codec (i : Nat) : (healthEvent s i).codec = s.codec := rfl
@[simp] theorem healthEvent_coll (i : Nat) : (healthEvent s i).coll = s.coll := rfl
@[simp] theorem healthEvent_job (i : Nat) : (healthEvent s i).job = s.job := rfl
@[simp] theorem healthEvent_line (i : Nat) : (healthEvent s i).line = s.line := rfl
@[simp] theorem healthEvent_ciph (i : Nat) : (healthEvent s i).ciph = s.ciph := rfl
@[simp] theorem healthEvent_ocu (i : Nat) : (healthEvent s i).ocu = s.ocu := rfl
@[simp] theorem healthEvent_site (i : Nat) : (healthEvent s i).site = s.site := rfl
@[simp] theorem healthEvent_pwr (i : Nat) : (healthEvent s i).pwr = s.pwr := rfl
@[simp] theorem healthEvent_sec (i : Nat) : (healthEvent s i).sec = s.sec := rfl
@[simp] theorem healthEvent_faultN (i : Nat) : (healthEvent s i).faultN = s.faultN := rfl
@[simp] theorem healthEvent_coreLine (i : Nat) : (healthEvent s i).coreLine = s.coreLine := rfl
@[simp] theorem healthEvent_free (i : Nat) : (healthEvent s i).free = s.free := rfl
@[simp] theorem healthEvent_lastRead (i : Nat) : (healthEvent s i).lastRead = s.lastRead := rfl
@[simp] theorem healthEvent_sent (i : Nat) : (healthEvent s i).sent = s.sent := rfl
@[simp] theorem getR_healthEvent (i : Nat) (j : Nat) : getR (healthEvent s i) j = getR s j := rfl
@[simp] theorem regN_healthEvent (i : Nat) (j : Nat) : regN (healthEvent s i) j = regN s j := rfl
@[simp] theorem fld_healthEvent (i : Nat) (j hi lo : Nat) : fld (healthEvent s i) j hi lo = fld s j hi lo := rfl
@[simp] theorem flag_healthEvent (i : Nat) (j c : Nat) : flag (healthEvent s i) j c = flag s j c := rfl

@[simp] theorem putStream_pending (slot : Nat) (st : Stream) : (putStream s slot st).pending = s.pending := rfl
@[simp] theorem putStream_regs (slot : Nat) (st : Stream) : (putStream s slot st).regs = s.regs := rfl
@[simp] theorem putStream_mem (slot : Nat) (st : Stream) : (putStream s slot st).mem = s.mem := rfl
@[simp] theorem putStream_store (slot : Nat) (st : Stream) : (putStream s slot st).store = s.store := rfl
@[simp] theorem putStream_tick (slot : Nat) (st : Stream) : (putStream s slot st).tick = s.tick := rfl
@[simp] theorem putStream_time (slot : Nat) (st : Stream) : (putStream s slot st).time = s.time := rfl
@[simp] theorem putStream_flt (slot : Nat) (st : Stream) : (putStream s slot st).flt = s.flt := rfl
@[simp] theorem putStream_irq (slot : Nat) (st : Stream) : (putStream s slot st).irq = s.irq := rfl
@[simp] theorem putStream_host (slot : Nat) (st : Stream) : (putStream s slot st).host = s.host := rfl
@[simp] theorem putStream_regn (slot : Nat) (st : Stream) : (putStream s slot st).regn = s.regn := rfl
@[simp] theorem putStream_pool (slot : Nat) (st : Stream) : (putStream s slot st).pool = s.pool := rfl
@[simp] theorem putStream_stn (slot : Nat) (st : Stream) : (putStream s slot st).stn = s.stn := rfl
@[simp] theorem putStream_sw (slot : Nat) (st : Stream) : (putStream s slot st).sw = s.sw := rfl
@[simp] theorem putStream_codec (slot : Nat) (st : Stream) : (putStream s slot st).codec = s.codec := rfl
@[simp] theorem putStream_coll (slot : Nat) (st : Stream) : (putStream s slot st).coll = s.coll := rfl
@[simp] theorem putStream_job (slot : Nat) (st : Stream) : (putStream s slot st).job = s.job := rfl
@[simp] theorem putStream_line (slot : Nat) (st : Stream) : (putStream s slot st).line = s.line := rfl
@[simp] theorem putStream_ciph (slot : Nat) (st : Stream) : (putStream s slot st).ciph = s.ciph := rfl
@[simp] theorem putStream_ocu (slot : Nat) (st : Stream) : (putStream s slot st).ocu = s.ocu := rfl
@[simp] theorem putStream_site (slot : Nat) (st : Stream) : (putStream s slot st).site = s.site := rfl
@[simp] theorem putStream_hlth (slot : Nat) (st : Stream) : (putStream s slot st).hlth = s.hlth := rfl
@[simp] theorem putStream_pwr (slot : Nat) (st : Stream) : (putStream s slot st).pwr = s.pwr := rfl
@[simp] theorem putStream_sec (slot : Nat) (st : Stream) : (putStream s slot st).sec = s.sec := rfl
@[simp] theorem putStream_faultN (slot : Nat) (st : Stream) : (putStream s slot st).faultN = s.faultN := rfl
@[simp] theorem putStream_coreLine (slot : Nat) (st : Stream) : (putStream s slot st).coreLine = s.coreLine := rfl
@[simp] theorem putStream_free (slot : Nat) (st : Stream) : (putStream s slot st).free = s.free := rfl
@[simp] theorem putStream_lastRead (slot : Nat) (st : Stream) : (putStream s slot st).lastRead = s.lastRead := rfl
@[simp] theorem putStream_sent (slot : Nat) (st : Stream) : (putStream s slot st).sent = s.sent := rfl
@[simp] theorem getR_putStream (slot : Nat) (st : Stream) (j : Nat) : getR (putStream s slot st) j = getR s j := rfl
@[simp] theorem regN_putStream (slot : Nat) (st : Stream) (j : Nat) : regN (putStream s slot st) j = regN s j := rfl
@[simp] theorem fld_putStream (slot : Nat) (st : Stream) (j hi lo : Nat) : fld (putStream s slot st) j hi lo = fld s j hi lo := rfl
@[simp] theorem flag_putStream (slot : Nat) (st : Stream) (j c : Nat) : flag (putStream s slot st) j c = flag s j c := rfl

@[simp] theorem dropStream_pending (slot : Nat) : (dropStream s slot).pending = s.pending := rfl
@[simp] theorem dropStream_regs (slot : Nat) : (dropStream s slot).regs = s.regs := rfl
@[simp] theorem dropStream_mem (slot : Nat) : (dropStream s slot).mem = s.mem := rfl
@[simp] theorem dropStream_store (slot : Nat) : (dropStream s slot).store = s.store := rfl
@[simp] theorem dropStream_tick (slot : Nat) : (dropStream s slot).tick = s.tick := rfl
@[simp] theorem dropStream_time (slot : Nat) : (dropStream s slot).time = s.time := rfl
@[simp] theorem dropStream_flt (slot : Nat) : (dropStream s slot).flt = s.flt := rfl
@[simp] theorem dropStream_irq (slot : Nat) : (dropStream s slot).irq = s.irq := rfl
@[simp] theorem dropStream_host (slot : Nat) : (dropStream s slot).host = s.host := rfl
@[simp] theorem dropStream_regn (slot : Nat) : (dropStream s slot).regn = s.regn := rfl
@[simp] theorem dropStream_pool (slot : Nat) : (dropStream s slot).pool = s.pool := rfl
@[simp] theorem dropStream_stn (slot : Nat) : (dropStream s slot).stn = s.stn := rfl
@[simp] theorem dropStream_sw (slot : Nat) : (dropStream s slot).sw = s.sw := rfl
@[simp] theorem dropStream_codec (slot : Nat) : (dropStream s slot).codec = s.codec := rfl
@[simp] theorem dropStream_coll (slot : Nat) : (dropStream s slot).coll = s.coll := rfl
@[simp] theorem dropStream_job (slot : Nat) : (dropStream s slot).job = s.job := rfl
@[simp] theorem dropStream_line (slot : Nat) : (dropStream s slot).line = s.line := rfl
@[simp] theorem dropStream_ciph (slot : Nat) : (dropStream s slot).ciph = { s.ciph with batches := mapDel s.ciph.batches slot } := rfl
@[simp] theorem dropStream_ocu (slot : Nat) : (dropStream s slot).ocu = s.ocu := rfl
@[simp] theorem dropStream_site (slot : Nat) : (dropStream s slot).site = s.site := rfl
@[simp] theorem dropStream_hlth (slot : Nat) : (dropStream s slot).hlth = s.hlth := rfl
@[simp] theorem dropStream_pwr (slot : Nat) : (dropStream s slot).pwr = s.pwr := rfl
@[simp] theorem dropStream_sec (slot : Nat) : (dropStream s slot).sec = s.sec := rfl
@[simp] theorem dropStream_faultN (slot : Nat) : (dropStream s slot).faultN = s.faultN := rfl
@[simp] theorem dropStream_coreLine (slot : Nat) : (dropStream s slot).coreLine = s.coreLine := rfl
@[simp] theorem dropStream_free (slot : Nat) : (dropStream s slot).free = s.free := rfl
@[simp] theorem dropStream_lastRead (slot : Nat) : (dropStream s slot).lastRead = s.lastRead := rfl
@[simp] theorem dropStream_sent (slot : Nat) : (dropStream s slot).sent = s.sent := rfl
@[simp] theorem getR_dropStream (slot : Nat) (j : Nat) : getR (dropStream s slot) j = getR s j := rfl
@[simp] theorem regN_dropStream (slot : Nat) (j : Nat) : regN (dropStream s slot) j = regN s j := rfl
@[simp] theorem fld_dropStream (slot : Nat) (j hi lo : Nat) : fld (dropStream s slot) j hi lo = fld s j hi lo := rfl
@[simp] theorem flag_dropStream (slot : Nat) (j c : Nat) : flag (dropStream s slot) j c = flag s j c := rfl

@[simp] theorem putCslot_pending (k : Nat) (c : CSlot) : (putCslot s k c).pending = s.pending := rfl
@[simp] theorem putCslot_regs (k : Nat) (c : CSlot) : (putCslot s k c).regs = s.regs := rfl
@[simp] theorem putCslot_mem (k : Nat) (c : CSlot) : (putCslot s k c).mem = s.mem := rfl
@[simp] theorem putCslot_store (k : Nat) (c : CSlot) : (putCslot s k c).store = s.store := rfl
@[simp] theorem putCslot_tick (k : Nat) (c : CSlot) : (putCslot s k c).tick = s.tick := rfl
@[simp] theorem putCslot_time (k : Nat) (c : CSlot) : (putCslot s k c).time = s.time := rfl
@[simp] theorem putCslot_flt (k : Nat) (c : CSlot) : (putCslot s k c).flt = s.flt := rfl
@[simp] theorem putCslot_irq (k : Nat) (c : CSlot) : (putCslot s k c).irq = s.irq := rfl
@[simp] theorem putCslot_host (k : Nat) (c : CSlot) : (putCslot s k c).host = s.host := rfl
@[simp] theorem putCslot_regn (k : Nat) (c : CSlot) : (putCslot s k c).regn = s.regn := rfl
@[simp] theorem putCslot_pool (k : Nat) (c : CSlot) : (putCslot s k c).pool = s.pool := rfl
@[simp] theorem putCslot_strm (k : Nat) (c : CSlot) : (putCslot s k c).strm = s.strm := rfl
@[simp] theorem putCslot_stn (k : Nat) (c : CSlot) : (putCslot s k c).stn = s.stn := rfl
@[simp] theorem putCslot_sw (k : Nat) (c : CSlot) : (putCslot s k c).sw = s.sw := rfl
@[simp] theorem putCslot_coll (k : Nat) (c : CSlot) : (putCslot s k c).coll = s.coll := rfl
@[simp] theorem putCslot_job (k : Nat) (c : CSlot) : (putCslot s k c).job = s.job := rfl
@[simp] theorem putCslot_line (k : Nat) (c : CSlot) : (putCslot s k c).line = s.line := rfl
@[simp] theorem putCslot_ciph (k : Nat) (c : CSlot) : (putCslot s k c).ciph = s.ciph := rfl
@[simp] theorem putCslot_ocu (k : Nat) (c : CSlot) : (putCslot s k c).ocu = s.ocu := rfl
@[simp] theorem putCslot_site (k : Nat) (c : CSlot) : (putCslot s k c).site = s.site := rfl
@[simp] theorem putCslot_hlth (k : Nat) (c : CSlot) : (putCslot s k c).hlth = s.hlth := rfl
@[simp] theorem putCslot_pwr (k : Nat) (c : CSlot) : (putCslot s k c).pwr = s.pwr := rfl
@[simp] theorem putCslot_sec (k : Nat) (c : CSlot) : (putCslot s k c).sec = s.sec := rfl
@[simp] theorem putCslot_faultN (k : Nat) (c : CSlot) : (putCslot s k c).faultN = s.faultN := rfl
@[simp] theorem putCslot_coreLine (k : Nat) (c : CSlot) : (putCslot s k c).coreLine = s.coreLine := rfl
@[simp] theorem putCslot_free (k : Nat) (c : CSlot) : (putCslot s k c).free = s.free := rfl
@[simp] theorem putCslot_lastRead (k : Nat) (c : CSlot) : (putCslot s k c).lastRead = s.lastRead := rfl
@[simp] theorem putCslot_sent (k : Nat) (c : CSlot) : (putCslot s k c).sent = s.sent := rfl
@[simp] theorem getR_putCslot (k : Nat) (c : CSlot) (j : Nat) : getR (putCslot s k c) j = getR s j := rfl
@[simp] theorem regN_putCslot (k : Nat) (c : CSlot) (j : Nat) : regN (putCslot s k c) j = regN s j := rfl
@[simp] theorem fld_putCslot (k : Nat) (c : CSlot) (j hi lo : Nat) : fld (putCslot s k c) j hi lo = fld s j hi lo := rfl
@[simp] theorem flag_putCslot (k : Nat) (c : CSlot) (j b : Nat) : flag (putCslot s k c) j b = flag s j b := rfl

@[simp] theorem putLine_pending (md : Nat) (m : LineMod) : (putLine s md m).pending = s.pending := rfl
@[simp] theorem putLine_regs (md : Nat) (m : LineMod) : (putLine s md m).regs = s.regs := rfl
@[simp] theorem putLine_mem (md : Nat) (m : LineMod) : (putLine s md m).mem = s.mem := rfl
@[simp] theorem putLine_store (md : Nat) (m : LineMod) : (putLine s md m).store = s.store := rfl
@[simp] theorem putLine_tick (md : Nat) (m : LineMod) : (putLine s md m).tick = s.tick := rfl
@[simp] theorem putLine_time (md : Nat) (m : LineMod) : (putLine s md m).time = s.time := rfl
@[simp] theorem putLine_flt (md : Nat) (m : LineMod) : (putLine s md m).flt = s.flt := rfl
@[simp] theorem putLine_irq (md : Nat) (m : LineMod) : (putLine s md m).irq = s.irq := rfl
@[simp] theorem putLine_host (md : Nat) (m : LineMod) : (putLine s md m).host = s.host := rfl
@[simp] theorem putLine_regn (md : Nat) (m : LineMod) : (putLine s md m).regn = s.regn := rfl
@[simp] theorem putLine_pool (md : Nat) (m : LineMod) : (putLine s md m).pool = s.pool := rfl
@[simp] theorem putLine_strm (md : Nat) (m : LineMod) : (putLine s md m).strm = s.strm := rfl
@[simp] theorem putLine_stn (md : Nat) (m : LineMod) : (putLine s md m).stn = s.stn := rfl
@[simp] theorem putLine_sw (md : Nat) (m : LineMod) : (putLine s md m).sw = s.sw := rfl
@[simp] theorem putLine_codec (md : Nat) (m : LineMod) : (putLine s md m).codec = s.codec := rfl
@[simp] theorem putLine_coll (md : Nat) (m : LineMod) : (putLine s md m).coll = s.coll := rfl
@[simp] theorem putLine_job (md : Nat) (m : LineMod) : (putLine s md m).job = s.job := rfl
@[simp] theorem putLine_ciph (md : Nat) (m : LineMod) : (putLine s md m).ciph = s.ciph := rfl
@[simp] theorem putLine_ocu (md : Nat) (m : LineMod) : (putLine s md m).ocu = s.ocu := rfl
@[simp] theorem putLine_site (md : Nat) (m : LineMod) : (putLine s md m).site = s.site := rfl
@[simp] theorem putLine_hlth (md : Nat) (m : LineMod) : (putLine s md m).hlth = s.hlth := rfl
@[simp] theorem putLine_pwr (md : Nat) (m : LineMod) : (putLine s md m).pwr = s.pwr := rfl
@[simp] theorem putLine_sec (md : Nat) (m : LineMod) : (putLine s md m).sec = s.sec := rfl
@[simp] theorem putLine_faultN (md : Nat) (m : LineMod) : (putLine s md m).faultN = s.faultN := rfl
@[simp] theorem putLine_coreLine (md : Nat) (m : LineMod) : (putLine s md m).coreLine = s.coreLine := rfl
@[simp] theorem putLine_free (md : Nat) (m : LineMod) : (putLine s md m).free = s.free := rfl
@[simp] theorem putLine_lastRead (md : Nat) (m : LineMod) : (putLine s md m).lastRead = s.lastRead := rfl
@[simp] theorem putLine_sent (md : Nat) (m : LineMod) : (putLine s md m).sent = s.sent := rfl
@[simp] theorem getR_putLine (md : Nat) (m : LineMod) (j : Nat) : getR (putLine s md m) j = getR s j := rfl
@[simp] theorem regN_putLine (md : Nat) (m : LineMod) (j : Nat) : regN (putLine s md m) j = regN s j := rfl
@[simp] theorem fld_putLine (md : Nat) (m : LineMod) (j hi lo : Nat) : fld (putLine s md m) j hi lo = fld s j hi lo := rfl
@[simp] theorem flag_putLine (md : Nat) (m : LineMod) (j c : Nat) : flag (putLine s md m) j c = flag s j c := rfl

@[simp] theorem putOcu_pending (md : Nat) (m : OcuMod) : (putOcu s md m).pending = s.pending := rfl
@[simp] theorem putOcu_regs (md : Nat) (m : OcuMod) : (putOcu s md m).regs = s.regs := rfl
@[simp] theorem putOcu_mem (md : Nat) (m : OcuMod) : (putOcu s md m).mem = s.mem := rfl
@[simp] theorem putOcu_store (md : Nat) (m : OcuMod) : (putOcu s md m).store = s.store := rfl
@[simp] theorem putOcu_tick (md : Nat) (m : OcuMod) : (putOcu s md m).tick = s.tick := rfl
@[simp] theorem putOcu_time (md : Nat) (m : OcuMod) : (putOcu s md m).time = s.time := rfl
@[simp] theorem putOcu_flt (md : Nat) (m : OcuMod) : (putOcu s md m).flt = s.flt := rfl
@[simp] theorem putOcu_irq (md : Nat) (m : OcuMod) : (putOcu s md m).irq = s.irq := rfl
@[simp] theorem putOcu_host (md : Nat) (m : OcuMod) : (putOcu s md m).host = s.host := rfl
@[simp] theorem putOcu_regn (md : Nat) (m : OcuMod) : (putOcu s md m).regn = s.regn := rfl
@[simp] theorem putOcu_pool (md : Nat) (m : OcuMod) : (putOcu s md m).pool = s.pool := rfl
@[simp] theorem putOcu_strm (md : Nat) (m : OcuMod) : (putOcu s md m).strm = s.strm := rfl
@[simp] theorem putOcu_stn (md : Nat) (m : OcuMod) : (putOcu s md m).stn = s.stn := rfl
@[simp] theorem putOcu_sw (md : Nat) (m : OcuMod) : (putOcu s md m).sw = s.sw := rfl
@[simp] theorem putOcu_codec (md : Nat) (m : OcuMod) : (putOcu s md m).codec = s.codec := rfl
@[simp] theorem putOcu_coll (md : Nat) (m : OcuMod) : (putOcu s md m).coll = s.coll := rfl
@[simp] theorem putOcu_job (md : Nat) (m : OcuMod) : (putOcu s md m).job = s.job := rfl
@[simp] theorem putOcu_line (md : Nat) (m : OcuMod) : (putOcu s md m).line = s.line := rfl
@[simp] theorem putOcu_ciph (md : Nat) (m : OcuMod) : (putOcu s md m).ciph = s.ciph := rfl
@[simp] theorem putOcu_site (md : Nat) (m : OcuMod) : (putOcu s md m).site = s.site := rfl
@[simp] theorem putOcu_hlth (md : Nat) (m : OcuMod) : (putOcu s md m).hlth = s.hlth := rfl
@[simp] theorem putOcu_pwr (md : Nat) (m : OcuMod) : (putOcu s md m).pwr = s.pwr := rfl
@[simp] theorem putOcu_sec (md : Nat) (m : OcuMod) : (putOcu s md m).sec = s.sec := rfl
@[simp] theorem putOcu_faultN (md : Nat) (m : OcuMod) : (putOcu s md m).faultN = s.faultN := rfl
@[simp] theorem putOcu_coreLine (md : Nat) (m : OcuMod) : (putOcu s md m).coreLine = s.coreLine := rfl
@[simp] theorem putOcu_free (md : Nat) (m : OcuMod) : (putOcu s md m).free = s.free := rfl
@[simp] theorem putOcu_lastRead (md : Nat) (m : OcuMod) : (putOcu s md m).lastRead = s.lastRead := rfl
@[simp] theorem putOcu_sent (md : Nat) (m : OcuMod) : (putOcu s md m).sent = s.sent := rfl
@[simp] theorem getR_putOcu (md : Nat) (m : OcuMod) (j : Nat) : getR (putOcu s md m) j = getR s j := rfl
@[simp] theorem regN_putOcu (md : Nat) (m : OcuMod) (j : Nat) : regN (putOcu s md m) j = regN s j := rfl
@[simp] theorem fld_putOcu (md : Nat) (m : OcuMod) (j hi lo : Nat) : fld (putOcu s md m) j hi lo = fld s j hi lo := rfl
@[simp] theorem flag_putOcu (md : Nat) (m : OcuMod) (j c : Nat) : flag (putOcu s md m) j c = flag s j c := rfl

@[simp] theorem putGroup_pending (g : Nat) (x : Group) : (putGroup s g x).pending = s.pending := rfl
@[simp] theorem putGroup_regs (g : Nat) (x : Group) : (putGroup s g x).regs = s.regs := rfl
@[simp] theorem putGroup_mem (g : Nat) (x : Group) : (putGroup s g x).mem = s.mem := rfl
@[simp] theorem putGroup_store (g : Nat) (x : Group) : (putGroup s g x).store = s.store := rfl
@[simp] theorem putGroup_tick (g : Nat) (x : Group) : (putGroup s g x).tick = s.tick := rfl
@[simp] theorem putGroup_time (g : Nat) (x : Group) : (putGroup s g x).time = s.time := rfl
@[simp] theorem putGroup_flt (g : Nat) (x : Group) : (putGroup s g x).flt = s.flt := rfl
@[simp] theorem putGroup_irq (g : Nat) (x : Group) : (putGroup s g x).irq = s.irq := rfl
@[simp] theorem putGroup_host (g : Nat) (x : Group) : (putGroup s g x).host = s.host := rfl
@[simp] theorem putGroup_regn (g : Nat) (x : Group) : (putGroup s g x).regn = s.regn := rfl
@[simp] theorem putGroup_pool (g : Nat) (x : Group) : (putGroup s g x).pool = s.pool := rfl
@[simp] theorem putGroup_strm (g : Nat) (x : Group) : (putGroup s g x).strm = s.strm := rfl
@[simp] theorem putGroup_stn (g : Nat) (x : Group) : (putGroup s g x).stn = s.stn := rfl
@[simp] theorem putGroup_sw (g : Nat) (x : Group) : (putGroup s g x).sw = s.sw := rfl
@[simp] theorem putGroup_codec (g : Nat) (x : Group) : (putGroup s g x).codec = s.codec := rfl
@[simp] theorem putGroup_job (g : Nat) (x : Group) : (putGroup s g x).job = s.job := rfl
@[simp] theorem putGroup_line (g : Nat) (x : Group) : (putGroup s g x).line = s.line := rfl
@[simp] theorem putGroup_ciph (g : Nat) (x : Group) : (putGroup s g x).ciph = s.ciph := rfl
@[simp] theorem putGroup_ocu (g : Nat) (x : Group) : (putGroup s g x).ocu = s.ocu := rfl
@[simp] theorem putGroup_site (g : Nat) (x : Group) : (putGroup s g x).site = s.site := rfl
@[simp] theorem putGroup_hlth (g : Nat) (x : Group) : (putGroup s g x).hlth = s.hlth := rfl
@[simp] theorem putGroup_pwr (g : Nat) (x : Group) : (putGroup s g x).pwr = s.pwr := rfl
@[simp] theorem putGroup_sec (g : Nat) (x : Group) : (putGroup s g x).sec = s.sec := rfl
@[simp] theorem putGroup_faultN (g : Nat) (x : Group) : (putGroup s g x).faultN = s.faultN := rfl
@[simp] theorem putGroup_coreLine (g : Nat) (x : Group) : (putGroup s g x).coreLine = s.coreLine := rfl
@[simp] theorem putGroup_free (g : Nat) (x : Group) : (putGroup s g x).free = s.free := rfl
@[simp] theorem putGroup_lastRead (g : Nat) (x : Group) : (putGroup s g x).lastRead = s.lastRead := rfl
@[simp] theorem putGroup_sent (g : Nat) (x : Group) : (putGroup s g x).sent = s.sent := rfl
@[simp] theorem getR_putGroup (g : Nat) (x : Group) (j : Nat) : getR (putGroup s g x) j = getR s j := rfl
@[simp] theorem regN_putGroup (g : Nat) (x : Group) (j : Nat) : regN (putGroup s g x) j = regN s j := rfl
@[simp] theorem fld_putGroup (g : Nat) (x : Group) (j hi lo : Nat) : fld (putGroup s g x) j hi lo = fld s j hi lo := rfl
@[simp] theorem flag_putGroup (g : Nat) (x : Group) (j c : Nat) : flag (putGroup s g x) j c = flag s j c := rfl

@[simp] theorem putReq_pending (r : CReq) : (putReq s r).pending = s.pending := rfl
@[simp] theorem putReq_regs (r : CReq) : (putReq s r).regs = s.regs := rfl
@[simp] theorem putReq_mem (r : CReq) : (putReq s r).mem = s.mem := rfl
@[simp] theorem putReq_store (r : CReq) : (putReq s r).store = s.store := rfl
@[simp] theorem putReq_tick (r : CReq) : (putReq s r).tick = s.tick := rfl
@[simp] theorem putReq_time (r : CReq) : (putReq s r).time = s.time := rfl
@[simp] theorem putReq_flt (r : CReq) : (putReq s r).flt = s.flt := rfl
@[simp] theorem putReq_irq (r : CReq) : (putReq s r).irq = s.irq := rfl
@[simp] theorem putReq_host (r : CReq) : (putReq s r).host = s.host := rfl
@[simp] theorem putReq_regn (r : CReq) : (putReq s r).regn = s.regn := rfl
@[simp] theorem putReq_pool (r : CReq) : (putReq s r).pool = s.pool := rfl
@[simp] theorem putReq_strm (r : CReq) : (putReq s r).strm = s.strm := rfl
@[simp] theorem putReq_stn (r : CReq) : (putReq s r).stn = s.stn := rfl
@[simp] theorem putReq_sw (r : CReq) : (putReq s r).sw = s.sw := rfl
@[simp] theorem putReq_codec (r : CReq) : (putReq s r).codec = s.codec := rfl
@[simp] theorem putReq_job (r : CReq) : (putReq s r).job = s.job := rfl
@[simp] theorem putReq_line (r : CReq) : (putReq s r).line = s.line := rfl
@[simp] theorem putReq_ciph (r : CReq) : (putReq s r).ciph = s.ciph := rfl
@[simp] theorem putReq_ocu (r : CReq) : (putReq s r).ocu = s.ocu := rfl
@[simp] theorem putReq_site (r : CReq) : (putReq s r).site = s.site := rfl
@[simp] theorem putReq_hlth (r : CReq) : (putReq s r).hlth = s.hlth := rfl
@[simp] theorem putReq_pwr (r : CReq) : (putReq s r).pwr = s.pwr := rfl
@[simp] theorem putReq_sec (r : CReq) : (putReq s r).sec = s.sec := rfl
@[simp] theorem putReq_faultN (r : CReq) : (putReq s r).faultN = s.faultN := rfl
@[simp] theorem putReq_coreLine (r : CReq) : (putReq s r).coreLine = s.coreLine := rfl
@[simp] theorem putReq_free (r : CReq) : (putReq s r).free = s.free := rfl
@[simp] theorem putReq_lastRead (r : CReq) : (putReq s r).lastRead = s.lastRead := rfl
@[simp] theorem putReq_sent (r : CReq) : (putReq s r).sent = s.sent := rfl
@[simp] theorem getR_putReq (r : CReq) (j : Nat) : getR (putReq s r) j = getR s j := rfl
@[simp] theorem regN_putReq (r : CReq) (j : Nat) : regN (putReq s r) j = regN s j := rfl
@[simp] theorem fld_putReq (r : CReq) (j hi lo : Nat) : fld (putReq s r) j hi lo = fld s j hi lo := rfl
@[simp] theorem flag_putReq (r : CReq) (j c : Nat) : flag (putReq s r) j c = flag s j c := rfl

@[simp] theorem putSeal_pending (k : Nat) (x : SealSlot) : (putSeal s k x).pending = s.pending := rfl
@[simp] theorem putSeal_regs (k : Nat) (x : SealSlot) : (putSeal s k x).regs = s.regs := rfl
@[simp] theorem putSeal_mem (k : Nat) (x : SealSlot) : (putSeal s k x).mem = s.mem := rfl
@[simp] theorem putSeal_store (k : Nat) (x : SealSlot) : (putSeal s k x).store = s.store := rfl
@[simp] theorem putSeal_tick (k : Nat) (x : SealSlot) : (putSeal s k x).tick = s.tick := rfl
@[simp] theorem putSeal_time (k : Nat) (x : SealSlot) : (putSeal s k x).time = s.time := rfl
@[simp] theorem putSeal_flt (k : Nat) (x : SealSlot) : (putSeal s k x).flt = s.flt := rfl
@[simp] theorem putSeal_irq (k : Nat) (x : SealSlot) : (putSeal s k x).irq = s.irq := rfl
@[simp] theorem putSeal_host (k : Nat) (x : SealSlot) : (putSeal s k x).host = s.host := rfl
@[simp] theorem putSeal_regn (k : Nat) (x : SealSlot) : (putSeal s k x).regn = s.regn := rfl
@[simp] theorem putSeal_pool (k : Nat) (x : SealSlot) : (putSeal s k x).pool = s.pool := rfl
@[simp] theorem putSeal_strm (k : Nat) (x : SealSlot) : (putSeal s k x).strm = s.strm := rfl
@[simp] theorem putSeal_stn (k : Nat) (x : SealSlot) : (putSeal s k x).stn = s.stn := rfl
@[simp] theorem putSeal_sw (k : Nat) (x : SealSlot) : (putSeal s k x).sw = s.sw := rfl
@[simp] theorem putSeal_codec (k : Nat) (x : SealSlot) : (putSeal s k x).codec = s.codec := rfl
@[simp] theorem putSeal_coll (k : Nat) (x : SealSlot) : (putSeal s k x).coll = s.coll := rfl
@[simp] theorem putSeal_job (k : Nat) (x : SealSlot) : (putSeal s k x).job = s.job := rfl
@[simp] theorem putSeal_line (k : Nat) (x : SealSlot) : (putSeal s k x).line = s.line := rfl
@[simp] theorem putSeal_ocu (k : Nat) (x : SealSlot) : (putSeal s k x).ocu = s.ocu := rfl
@[simp] theorem putSeal_site (k : Nat) (x : SealSlot) : (putSeal s k x).site = s.site := rfl
@[simp] theorem putSeal_hlth (k : Nat) (x : SealSlot) : (putSeal s k x).hlth = s.hlth := rfl
@[simp] theorem putSeal_pwr (k : Nat) (x : SealSlot) : (putSeal s k x).pwr = s.pwr := rfl
@[simp] theorem putSeal_sec (k : Nat) (x : SealSlot) : (putSeal s k x).sec = s.sec := rfl
@[simp] theorem putSeal_faultN (k : Nat) (x : SealSlot) : (putSeal s k x).faultN = s.faultN := rfl
@[simp] theorem putSeal_coreLine (k : Nat) (x : SealSlot) : (putSeal s k x).coreLine = s.coreLine := rfl
@[simp] theorem putSeal_free (k : Nat) (x : SealSlot) : (putSeal s k x).free = s.free := rfl
@[simp] theorem putSeal_lastRead (k : Nat) (x : SealSlot) : (putSeal s k x).lastRead = s.lastRead := rfl
@[simp] theorem putSeal_sent (k : Nat) (x : SealSlot) : (putSeal s k x).sent = s.sent := rfl
@[simp] theorem getR_putSeal (k : Nat) (x : SealSlot) (j : Nat) : getR (putSeal s k x) j = getR s j := rfl
@[simp] theorem regN_putSeal (k : Nat) (x : SealSlot) (j : Nat) : regN (putSeal s k x) j = regN s j := rfl
@[simp] theorem fld_putSeal (k : Nat) (x : SealSlot) (j hi lo : Nat) : fld (putSeal s k x) j hi lo = fld s j hi lo := rfl
@[simp] theorem flag_putSeal (k : Nat) (x : SealSlot) (j c : Nat) : flag (putSeal s k x) j c = flag s j c := rfl

@[simp] theorem putMark_pending (k : Nat) (m : List Byte × Nat) : (putMark s k m).pending = s.pending := rfl
@[simp] theorem putMark_regs (k : Nat) (m : List Byte × Nat) : (putMark s k m).regs = s.regs := rfl
@[simp] theorem putMark_mem (k : Nat) (m : List Byte × Nat) : (putMark s k m).mem = s.mem := rfl
@[simp] theorem putMark_store (k : Nat) (m : List Byte × Nat) : (putMark s k m).store = s.store := rfl
@[simp] theorem putMark_tick (k : Nat) (m : List Byte × Nat) : (putMark s k m).tick = s.tick := rfl
@[simp] theorem putMark_time (k : Nat) (m : List Byte × Nat) : (putMark s k m).time = s.time := rfl
@[simp] theorem putMark_flt (k : Nat) (m : List Byte × Nat) : (putMark s k m).flt = s.flt := rfl
@[simp] theorem putMark_irq (k : Nat) (m : List Byte × Nat) : (putMark s k m).irq = s.irq := rfl
@[simp] theorem putMark_host (k : Nat) (m : List Byte × Nat) : (putMark s k m).host = s.host := rfl
@[simp] theorem putMark_regn (k : Nat) (m : List Byte × Nat) : (putMark s k m).regn = s.regn := rfl
@[simp] theorem putMark_pool (k : Nat) (m : List Byte × Nat) : (putMark s k m).pool = s.pool := rfl
@[simp] theorem putMark_strm (k : Nat) (m : List Byte × Nat) : (putMark s k m).strm = s.strm := rfl
@[simp] theorem putMark_stn (k : Nat) (m : List Byte × Nat) : (putMark s k m).stn = s.stn := rfl
@[simp] theorem putMark_sw (k : Nat) (m : List Byte × Nat) : (putMark s k m).sw = s.sw := rfl
@[simp] theorem putMark_codec (k : Nat) (m : List Byte × Nat) : (putMark s k m).codec = s.codec := rfl
@[simp] theorem putMark_coll (k : Nat) (m : List Byte × Nat) : (putMark s k m).coll = s.coll := rfl
@[simp] theorem putMark_job (k : Nat) (m : List Byte × Nat) : (putMark s k m).job = s.job := rfl
@[simp] theorem putMark_line (k : Nat) (m : List Byte × Nat) : (putMark s k m).line = s.line := rfl
@[simp] theorem putMark_ocu (k : Nat) (m : List Byte × Nat) : (putMark s k m).ocu = s.ocu := rfl
@[simp] theorem putMark_site (k : Nat) (m : List Byte × Nat) : (putMark s k m).site = s.site := rfl
@[simp] theorem putMark_hlth (k : Nat) (m : List Byte × Nat) : (putMark s k m).hlth = s.hlth := rfl
@[simp] theorem putMark_pwr (k : Nat) (m : List Byte × Nat) : (putMark s k m).pwr = s.pwr := rfl
@[simp] theorem putMark_sec (k : Nat) (m : List Byte × Nat) : (putMark s k m).sec = s.sec := rfl
@[simp] theorem putMark_faultN (k : Nat) (m : List Byte × Nat) : (putMark s k m).faultN = s.faultN := rfl
@[simp] theorem putMark_coreLine (k : Nat) (m : List Byte × Nat) : (putMark s k m).coreLine = s.coreLine := rfl
@[simp] theorem putMark_free (k : Nat) (m : List Byte × Nat) : (putMark s k m).free = s.free := rfl
@[simp] theorem putMark_lastRead (k : Nat) (m : List Byte × Nat) : (putMark s k m).lastRead = s.lastRead := rfl
@[simp] theorem putMark_sent (k : Nat) (m : List Byte × Nat) : (putMark s k m).sent = s.sent := rfl
@[simp] theorem getR_putMark (k : Nat) (m : List Byte × Nat) (j : Nat) : getR (putMark s k m) j = getR s j := rfl
@[simp] theorem regN_putMark (k : Nat) (m : List Byte × Nat) (j : Nat) : regN (putMark s k m) j = regN s j := rfl
@[simp] theorem fld_putMark (k : Nat) (m : List Byte × Nat) (j hi lo : Nat) : fld (putMark s k m) j hi lo = fld s j hi lo := rfl
@[simp] theorem flag_putMark (k : Nat) (m : List Byte × Nat) (j c : Nat) : flag (putMark s k m) j c = flag s j c := rfl

@[simp] theorem putBatch_pending (slot : Nat) (b : SealBatch) : (putBatch s slot b).pending = s.pending := rfl
@[simp] theorem putBatch_regs (slot : Nat) (b : SealBatch) : (putBatch s slot b).regs = s.regs := rfl
@[simp] theorem putBatch_mem (slot : Nat) (b : SealBatch) : (putBatch s slot b).mem = s.mem := rfl
@[simp] theorem putBatch_store (slot : Nat) (b : SealBatch) : (putBatch s slot b).store = s.store := rfl
@[simp] theorem putBatch_tick (slot : Nat) (b : SealBatch) : (putBatch s slot b).tick = s.tick := rfl
@[simp] theorem putBatch_time (slot : Nat) (b : SealBatch) : (putBatch s slot b).time = s.time := rfl
@[simp] theorem putBatch_flt (slot : Nat) (b : SealBatch) : (putBatch s slot b).flt = s.flt := rfl
@[simp] theorem putBatch_irq (slot : Nat) (b : SealBatch) : (putBatch s slot b).irq = s.irq := rfl
@[simp] theorem putBatch_host (slot : Nat) (b : SealBatch) : (putBatch s slot b).host = s.host := rfl
@[simp] theorem putBatch_regn (slot : Nat) (b : SealBatch) : (putBatch s slot b).regn = s.regn := rfl
@[simp] theorem putBatch_pool (slot : Nat) (b : SealBatch) : (putBatch s slot b).pool = s.pool := rfl
@[simp] theorem putBatch_strm (slot : Nat) (b : SealBatch) : (putBatch s slot b).strm = s.strm := rfl
@[simp] theorem putBatch_stn (slot : Nat) (b : SealBatch) : (putBatch s slot b).stn = s.stn := rfl
@[simp] theorem putBatch_sw (slot : Nat) (b : SealBatch) : (putBatch s slot b).sw = s.sw := rfl
@[simp] theorem putBatch_codec (slot : Nat) (b : SealBatch) : (putBatch s slot b).codec = s.codec := rfl
@[simp] theorem putBatch_coll (slot : Nat) (b : SealBatch) : (putBatch s slot b).coll = s.coll := rfl
@[simp] theorem putBatch_job (slot : Nat) (b : SealBatch) : (putBatch s slot b).job = s.job := rfl
@[simp] theorem putBatch_line (slot : Nat) (b : SealBatch) : (putBatch s slot b).line = s.line := rfl
@[simp] theorem putBatch_ocu (slot : Nat) (b : SealBatch) : (putBatch s slot b).ocu = s.ocu := rfl
@[simp] theorem putBatch_site (slot : Nat) (b : SealBatch) : (putBatch s slot b).site = s.site := rfl
@[simp] theorem putBatch_hlth (slot : Nat) (b : SealBatch) : (putBatch s slot b).hlth = s.hlth := rfl
@[simp] theorem putBatch_pwr (slot : Nat) (b : SealBatch) : (putBatch s slot b).pwr = s.pwr := rfl
@[simp] theorem putBatch_sec (slot : Nat) (b : SealBatch) : (putBatch s slot b).sec = s.sec := rfl
@[simp] theorem putBatch_faultN (slot : Nat) (b : SealBatch) : (putBatch s slot b).faultN = s.faultN := rfl
@[simp] theorem putBatch_coreLine (slot : Nat) (b : SealBatch) : (putBatch s slot b).coreLine = s.coreLine := rfl
@[simp] theorem putBatch_free (slot : Nat) (b : SealBatch) : (putBatch s slot b).free = s.free := rfl
@[simp] theorem putBatch_lastRead (slot : Nat) (b : SealBatch) : (putBatch s slot b).lastRead = s.lastRead := rfl
@[simp] theorem putBatch_sent (slot : Nat) (b : SealBatch) : (putBatch s slot b).sent = s.sent := rfl
@[simp] theorem getR_putBatch (slot : Nat) (b : SealBatch) (j : Nat) : getR (putBatch s slot b) j = getR s j := rfl
@[simp] theorem regN_putBatch (slot : Nat) (b : SealBatch) (j : Nat) : regN (putBatch s slot b) j = regN s j := rfl
@[simp] theorem fld_putBatch (slot : Nat) (b : SealBatch) (j hi lo : Nat) : fld (putBatch s slot b) j hi lo = fld s j hi lo := rfl
@[simp] theorem flag_putBatch (slot : Nat) (b : SealBatch) (j c : Nat) : flag (putBatch s slot b) j c = flag s j c := rfl

@[simp] theorem putKey_pending (md side dir slot : Nat) (k : KeySlot) : (putKey s md side dir slot k).pending = s.pending := rfl
@[simp] theorem putKey_regs (md side dir slot : Nat) (k : KeySlot) : (putKey s md side dir slot k).regs = s.regs := rfl
@[simp] theorem putKey_mem (md side dir slot : Nat) (k : KeySlot) : (putKey s md side dir slot k).mem = s.mem := rfl
@[simp] theorem putKey_store (md side dir slot : Nat) (k : KeySlot) : (putKey s md side dir slot k).store = s.store := rfl
@[simp] theorem putKey_tick (md side dir slot : Nat) (k : KeySlot) : (putKey s md side dir slot k).tick = s.tick := rfl
@[simp] theorem putKey_time (md side dir slot : Nat) (k : KeySlot) : (putKey s md side dir slot k).time = s.time := rfl
@[simp] theorem putKey_flt (md side dir slot : Nat) (k : KeySlot) : (putKey s md side dir slot k).flt = s.flt := rfl
@[simp] theorem putKey_irq (md side dir slot : Nat) (k : KeySlot) : (putKey s md side dir slot k).irq = s.irq := rfl
@[simp] theorem putKey_host (md side dir slot : Nat) (k : KeySlot) : (putKey s md side dir slot k).host = s.host := rfl
@[simp] theorem putKey_regn (md side dir slot : Nat) (k : KeySlot) : (putKey s md side dir slot k).regn = s.regn := rfl
@[simp] theorem putKey_pool (md side dir slot : Nat) (k : KeySlot) : (putKey s md side dir slot k).pool = s.pool := rfl
@[simp] theorem putKey_strm (md side dir slot : Nat) (k : KeySlot) : (putKey s md side dir slot k).strm = s.strm := rfl
@[simp] theorem putKey_stn (md side dir slot : Nat) (k : KeySlot) : (putKey s md side dir slot k).stn = s.stn := rfl
@[simp] theorem putKey_sw (md side dir slot : Nat) (k : KeySlot) : (putKey s md side dir slot k).sw = s.sw := rfl
@[simp] theorem putKey_codec (md side dir slot : Nat) (k : KeySlot) : (putKey s md side dir slot k).codec = s.codec := rfl
@[simp] theorem putKey_coll (md side dir slot : Nat) (k : KeySlot) : (putKey s md side dir slot k).coll = s.coll := rfl
@[simp] theorem putKey_job (md side dir slot : Nat) (k : KeySlot) : (putKey s md side dir slot k).job = s.job := rfl
@[simp] theorem putKey_line (md side dir slot : Nat) (k : KeySlot) : (putKey s md side dir slot k).line = s.line := rfl
@[simp] theorem putKey_ocu (md side dir slot : Nat) (k : KeySlot) : (putKey s md side dir slot k).ocu = s.ocu := rfl
@[simp] theorem putKey_site (md side dir slot : Nat) (k : KeySlot) : (putKey s md side dir slot k).site = s.site := rfl
@[simp] theorem putKey_hlth (md side dir slot : Nat) (k : KeySlot) : (putKey s md side dir slot k).hlth = s.hlth := rfl
@[simp] theorem putKey_pwr (md side dir slot : Nat) (k : KeySlot) : (putKey s md side dir slot k).pwr = s.pwr := rfl
@[simp] theorem putKey_sec (md side dir slot : Nat) (k : KeySlot) : (putKey s md side dir slot k).sec = s.sec := rfl
@[simp] theorem putKey_faultN (md side dir slot : Nat) (k : KeySlot) : (putKey s md side dir slot k).faultN = s.faultN := rfl
@[simp] theorem putKey_coreLine (md side dir slot : Nat) (k : KeySlot) : (putKey s md side dir slot k).coreLine = s.coreLine := rfl
@[simp] theorem putKey_free (md side dir slot : Nat) (k : KeySlot) : (putKey s md side dir slot k).free = s.free := rfl
@[simp] theorem putKey_lastRead (md side dir slot : Nat) (k : KeySlot) : (putKey s md side dir slot k).lastRead = s.lastRead := rfl
@[simp] theorem putKey_sent (md side dir slot : Nat) (k : KeySlot) : (putKey s md side dir slot k).sent = s.sent := rfl
@[simp] theorem getR_putKey (md side dir slot : Nat) (k : KeySlot) (j : Nat) : getR (putKey s md side dir slot k) j = getR s j := rfl
@[simp] theorem regN_putKey (md side dir slot : Nat) (k : KeySlot) (j : Nat) : regN (putKey s md side dir slot k) j = regN s j := rfl
@[simp] theorem fld_putKey (md side dir slot : Nat) (k : KeySlot) (j hi lo : Nat) : fld (putKey s md side dir slot k) j hi lo = fld s j hi lo := rfl
@[simp] theorem flag_putKey (md side dir slot : Nat) (k : KeySlot) (j c : Nat) : flag (putKey s md side dir slot k) j c = flag s j c := rfl

@[simp] theorem putSched_pending (p : Nat) (q : PortSched) : (putSched s p q).pending = s.pending := rfl
@[simp] theorem putSched_regs (p : Nat) (q : PortSched) : (putSched s p q).regs = s.regs := rfl
@[simp] theorem putSched_mem (p : Nat) (q : PortSched) : (putSched s p q).mem = s.mem := rfl
@[simp] theorem putSched_store (p : Nat) (q : PortSched) : (putSched s p q).store = s.store := rfl
@[simp] theorem putSched_tick (p : Nat) (q : PortSched) : (putSched s p q).tick = s.tick := rfl
@[simp] theorem putSched_time (p : Nat) (q : PortSched) : (putSched s p q).time = s.time := rfl
@[simp] theorem putSched_flt (p : Nat) (q : PortSched) : (putSched s p q).flt = s.flt := rfl
@[simp] theorem putSched_irq (p : Nat) (q : PortSched) : (putSched s p q).irq = s.irq := rfl
@[simp] theorem putSched_host (p : Nat) (q : PortSched) : (putSched s p q).host = s.host := rfl
@[simp] theorem putSched_regn (p : Nat) (q : PortSched) : (putSched s p q).regn = s.regn := rfl
@[simp] theorem putSched_pool (p : Nat) (q : PortSched) : (putSched s p q).pool = s.pool := rfl
@[simp] theorem putSched_strm (p : Nat) (q : PortSched) : (putSched s p q).strm = s.strm := rfl
@[simp] theorem putSched_stn (p : Nat) (q : PortSched) : (putSched s p q).stn = s.stn := rfl
@[simp] theorem putSched_codec (p : Nat) (q : PortSched) : (putSched s p q).codec = s.codec := rfl
@[simp] theorem putSched_coll (p : Nat) (q : PortSched) : (putSched s p q).coll = s.coll := rfl
@[simp] theorem putSched_job (p : Nat) (q : PortSched) : (putSched s p q).job = s.job := rfl
@[simp] theorem putSched_line (p : Nat) (q : PortSched) : (putSched s p q).line = s.line := rfl
@[simp] theorem putSched_ciph (p : Nat) (q : PortSched) : (putSched s p q).ciph = s.ciph := rfl
@[simp] theorem putSched_ocu (p : Nat) (q : PortSched) : (putSched s p q).ocu = s.ocu := rfl
@[simp] theorem putSched_site (p : Nat) (q : PortSched) : (putSched s p q).site = s.site := rfl
@[simp] theorem putSched_hlth (p : Nat) (q : PortSched) : (putSched s p q).hlth = s.hlth := rfl
@[simp] theorem putSched_pwr (p : Nat) (q : PortSched) : (putSched s p q).pwr = s.pwr := rfl
@[simp] theorem putSched_sec (p : Nat) (q : PortSched) : (putSched s p q).sec = s.sec := rfl
@[simp] theorem putSched_faultN (p : Nat) (q : PortSched) : (putSched s p q).faultN = s.faultN := rfl
@[simp] theorem putSched_coreLine (p : Nat) (q : PortSched) : (putSched s p q).coreLine = s.coreLine := rfl
@[simp] theorem putSched_free (p : Nat) (q : PortSched) : (putSched s p q).free = s.free := rfl
@[simp] theorem putSched_lastRead (p : Nat) (q : PortSched) : (putSched s p q).lastRead = s.lastRead := rfl
@[simp] theorem putSched_sent (p : Nat) (q : PortSched) : (putSched s p q).sent = s.sent := rfl
@[simp] theorem getR_putSched (p : Nat) (q : PortSched) (j : Nat) : getR (putSched s p q) j = getR s j := rfl
@[simp] theorem regN_putSched (p : Nat) (q : PortSched) (j : Nat) : regN (putSched s p q) j = regN s j := rfl
@[simp] theorem fld_putSched (p : Nat) (q : PortSched) (j hi lo : Nat) : fld (putSched s p q) j hi lo = fld s j hi lo := rfl
@[simp] theorem flag_putSched (p : Nat) (q : PortSched) (j c : Nat) : flag (putSched s p q) j c = flag s j c := rfl

@[simp] theorem putPtp_pending (p : Nat) (x : PtpPort) : (putPtp s p x).pending = s.pending := rfl
@[simp] theorem putPtp_regs (p : Nat) (x : PtpPort) : (putPtp s p x).regs = s.regs := rfl
@[simp] theorem putPtp_mem (p : Nat) (x : PtpPort) : (putPtp s p x).mem = s.mem := rfl
@[simp] theorem putPtp_store (p : Nat) (x : PtpPort) : (putPtp s p x).store = s.store := rfl
@[simp] theorem putPtp_tick (p : Nat) (x : PtpPort) : (putPtp s p x).tick = s.tick := rfl
@[simp] theorem putPtp_flt (p : Nat) (x : PtpPort) : (putPtp s p x).flt = s.flt := rfl
@[simp] theorem putPtp_irq (p : Nat) (x : PtpPort) : (putPtp s p x).irq = s.irq := rfl
@[simp] theorem putPtp_host (p : Nat) (x : PtpPort) : (putPtp s p x).host = s.host := rfl
@[simp] theorem putPtp_regn (p : Nat) (x : PtpPort) : (putPtp s p x).regn = s.regn := rfl
@[simp] theorem putPtp_pool (p : Nat) (x : PtpPort) : (putPtp s p x).pool = s.pool := rfl
@[simp] theorem putPtp_strm (p : Nat) (x : PtpPort) : (putPtp s p x).strm = s.strm := rfl
@[simp] theorem putPtp_stn (p : Nat) (x : PtpPort) : (putPtp s p x).stn = s.stn := rfl
@[simp] theorem putPtp_sw (p : Nat) (x : PtpPort) : (putPtp s p x).sw = s.sw := rfl
@[simp] theorem putPtp_codec (p : Nat) (x : PtpPort) : (putPtp s p x).codec = s.codec := rfl
@[simp] theorem putPtp_coll (p : Nat) (x : PtpPort) : (putPtp s p x).coll = s.coll := rfl
@[simp] theorem putPtp_job (p : Nat) (x : PtpPort) : (putPtp s p x).job = s.job := rfl
@[simp] theorem putPtp_line (p : Nat) (x : PtpPort) : (putPtp s p x).line = s.line := rfl
@[simp] theorem putPtp_ciph (p : Nat) (x : PtpPort) : (putPtp s p x).ciph = s.ciph := rfl
@[simp] theorem putPtp_ocu (p : Nat) (x : PtpPort) : (putPtp s p x).ocu = s.ocu := rfl
@[simp] theorem putPtp_site (p : Nat) (x : PtpPort) : (putPtp s p x).site = s.site := rfl
@[simp] theorem putPtp_hlth (p : Nat) (x : PtpPort) : (putPtp s p x).hlth = s.hlth := rfl
@[simp] theorem putPtp_pwr (p : Nat) (x : PtpPort) : (putPtp s p x).pwr = s.pwr := rfl
@[simp] theorem putPtp_sec (p : Nat) (x : PtpPort) : (putPtp s p x).sec = s.sec := rfl
@[simp] theorem putPtp_faultN (p : Nat) (x : PtpPort) : (putPtp s p x).faultN = s.faultN := rfl
@[simp] theorem putPtp_coreLine (p : Nat) (x : PtpPort) : (putPtp s p x).coreLine = s.coreLine := rfl
@[simp] theorem putPtp_free (p : Nat) (x : PtpPort) : (putPtp s p x).free = s.free := rfl
@[simp] theorem putPtp_lastRead (p : Nat) (x : PtpPort) : (putPtp s p x).lastRead = s.lastRead := rfl
@[simp] theorem putPtp_sent (p : Nat) (x : PtpPort) : (putPtp s p x).sent = s.sent := rfl
@[simp] theorem getR_putPtp (p : Nat) (x : PtpPort) (j : Nat) : getR (putPtp s p x) j = getR s j := rfl
@[simp] theorem regN_putPtp (p : Nat) (x : PtpPort) (j : Nat) : regN (putPtp s p x) j = regN s j := rfl
@[simp] theorem fld_putPtp (p : Nat) (x : PtpPort) (j hi lo : Nat) : fld (putPtp s p x) j hi lo = fld s j hi lo := rfl
@[simp] theorem flag_putPtp (p : Nat) (x : PtpPort) (j c : Nat) : flag (putPtp s p x) j c = flag s j c := rfl

@[simp] theorem modSite_pending (f : SiteSt → SiteSt) : (modSite s f).pending = s.pending := rfl
@[simp] theorem modSite_regs (f : SiteSt → SiteSt) : (modSite s f).regs = s.regs := rfl
@[simp] theorem modSite_mem (f : SiteSt → SiteSt) : (modSite s f).mem = s.mem := rfl
@[simp] theorem modSite_store (f : SiteSt → SiteSt) : (modSite s f).store = s.store := rfl
@[simp] theorem modSite_tick (f : SiteSt → SiteSt) : (modSite s f).tick = s.tick := rfl
@[simp] theorem modSite_time (f : SiteSt → SiteSt) : (modSite s f).time = s.time := rfl
@[simp] theorem modSite_flt (f : SiteSt → SiteSt) : (modSite s f).flt = s.flt := rfl
@[simp] theorem modSite_irq (f : SiteSt → SiteSt) : (modSite s f).irq = s.irq := rfl
@[simp] theorem modSite_host (f : SiteSt → SiteSt) : (modSite s f).host = s.host := rfl
@[simp] theorem modSite_regn (f : SiteSt → SiteSt) : (modSite s f).regn = s.regn := rfl
@[simp] theorem modSite_pool (f : SiteSt → SiteSt) : (modSite s f).pool = s.pool := rfl
@[simp] theorem modSite_strm (f : SiteSt → SiteSt) : (modSite s f).strm = s.strm := rfl
@[simp] theorem modSite_stn (f : SiteSt → SiteSt) : (modSite s f).stn = s.stn := rfl
@[simp] theorem modSite_sw (f : SiteSt → SiteSt) : (modSite s f).sw = s.sw := rfl
@[simp] theorem modSite_codec (f : SiteSt → SiteSt) : (modSite s f).codec = s.codec := rfl
@[simp] theorem modSite_coll (f : SiteSt → SiteSt) : (modSite s f).coll = s.coll := rfl
@[simp] theorem modSite_job (f : SiteSt → SiteSt) : (modSite s f).job = s.job := rfl
@[simp] theorem modSite_line (f : SiteSt → SiteSt) : (modSite s f).line = s.line := rfl
@[simp] theorem modSite_ciph (f : SiteSt → SiteSt) : (modSite s f).ciph = s.ciph := rfl
@[simp] theorem modSite_ocu (f : SiteSt → SiteSt) : (modSite s f).ocu = s.ocu := rfl
@[simp] theorem modSite_hlth (f : SiteSt → SiteSt) : (modSite s f).hlth = s.hlth := rfl
@[simp] theorem modSite_pwr (f : SiteSt → SiteSt) : (modSite s f).pwr = s.pwr := rfl
@[simp] theorem modSite_sec (f : SiteSt → SiteSt) : (modSite s f).sec = s.sec := rfl
@[simp] theorem modSite_faultN (f : SiteSt → SiteSt) : (modSite s f).faultN = s.faultN := rfl
@[simp] theorem modSite_coreLine (f : SiteSt → SiteSt) : (modSite s f).coreLine = s.coreLine := rfl
@[simp] theorem modSite_free (f : SiteSt → SiteSt) : (modSite s f).free = s.free := rfl
@[simp] theorem modSite_lastRead (f : SiteSt → SiteSt) : (modSite s f).lastRead = s.lastRead := rfl
@[simp] theorem modSite_sent (f : SiteSt → SiteSt) : (modSite s f).sent = s.sent := rfl
@[simp] theorem getR_modSite (f : SiteSt → SiteSt) (j : Nat) : getR (modSite s f) j = getR s j := rfl
@[simp] theorem regN_modSite (f : SiteSt → SiteSt) (j : Nat) : regN (modSite s f) j = regN s j := rfl
@[simp] theorem fld_modSite (f : SiteSt → SiteSt) (j hi lo : Nat) : fld (modSite s f) j hi lo = fld s j hi lo := rfl
@[simp] theorem flag_modSite (f : SiteSt → SiteSt) (j c : Nat) : flag (modSite s f) j c = flag s j c := rfl

@[simp] theorem modPwr_pending (f : PwrSt → PwrSt) : (modPwr s f).pending = s.pending := rfl
@[simp] theorem modPwr_regs (f : PwrSt → PwrSt) : (modPwr s f).regs = s.regs := rfl
@[simp] theorem modPwr_mem (f : PwrSt → PwrSt) : (modPwr s f).mem = s.mem := rfl
@[simp] theorem modPwr_store (f : PwrSt → PwrSt) : (modPwr s f).store = s.store := rfl
@[simp] theorem modPwr_tick (f : PwrSt → PwrSt) : (modPwr s f).tick = s.tick := rfl
@[simp] theorem modPwr_time (f : PwrSt → PwrSt) : (modPwr s f).time = s.time := rfl
@[simp] theorem modPwr_flt (f : PwrSt → PwrSt) : (modPwr s f).flt = s.flt := rfl
@[simp] theorem modPwr_irq (f : PwrSt → PwrSt) : (modPwr s f).irq = s.irq := rfl
@[simp] theorem modPwr_host (f : PwrSt → PwrSt) : (modPwr s f).host = s.host := rfl
@[simp] theorem modPwr_regn (f : PwrSt → PwrSt) : (modPwr s f).regn = s.regn := rfl
@[simp] theorem modPwr_pool (f : PwrSt → PwrSt) : (modPwr s f).pool = s.pool := rfl
@[simp] theorem modPwr_strm (f : PwrSt → PwrSt) : (modPwr s f).strm = s.strm := rfl
@[simp] theorem modPwr_stn (f : PwrSt → PwrSt) : (modPwr s f).stn = s.stn := rfl
@[simp] theorem modPwr_sw (f : PwrSt → PwrSt) : (modPwr s f).sw = s.sw := rfl
@[simp] theorem modPwr_codec (f : PwrSt → PwrSt) : (modPwr s f).codec = s.codec := rfl
@[simp] theorem modPwr_coll (f : PwrSt → PwrSt) : (modPwr s f).coll = s.coll := rfl
@[simp] theorem modPwr_job (f : PwrSt → PwrSt) : (modPwr s f).job = s.job := rfl
@[simp] theorem modPwr_line (f : PwrSt → PwrSt) : (modPwr s f).line = s.line := rfl
@[simp] theorem modPwr_ciph (f : PwrSt → PwrSt) : (modPwr s f).ciph = s.ciph := rfl
@[simp] theorem modPwr_ocu (f : PwrSt → PwrSt) : (modPwr s f).ocu = s.ocu := rfl
@[simp] theorem modPwr_site (f : PwrSt → PwrSt) : (modPwr s f).site = s.site := rfl
@[simp] theorem modPwr_hlth (f : PwrSt → PwrSt) : (modPwr s f).hlth = s.hlth := rfl
@[simp] theorem modPwr_sec (f : PwrSt → PwrSt) : (modPwr s f).sec = s.sec := rfl
@[simp] theorem modPwr_faultN (f : PwrSt → PwrSt) : (modPwr s f).faultN = s.faultN := rfl
@[simp] theorem modPwr_coreLine (f : PwrSt → PwrSt) : (modPwr s f).coreLine = s.coreLine := rfl
@[simp] theorem modPwr_free (f : PwrSt → PwrSt) : (modPwr s f).free = s.free := rfl
@[simp] theorem modPwr_lastRead (f : PwrSt → PwrSt) : (modPwr s f).lastRead = s.lastRead := rfl
@[simp] theorem modPwr_sent (f : PwrSt → PwrSt) : (modPwr s f).sent = s.sent := rfl
@[simp] theorem getR_modPwr (f : PwrSt → PwrSt) (j : Nat) : getR (modPwr s f) j = getR s j := rfl
@[simp] theorem regN_modPwr (f : PwrSt → PwrSt) (j : Nat) : regN (modPwr s f) j = regN s j := rfl
@[simp] theorem fld_modPwr (f : PwrSt → PwrSt) (j hi lo : Nat) : fld (modPwr s f) j hi lo = fld s j hi lo := rfl
@[simp] theorem flag_modPwr (f : PwrSt → PwrSt) (j c : Nat) : flag (modPwr s f) j c = flag s j c := rfl

@[simp] theorem modSec_pending (f : SecSt → SecSt) : (modSec s f).pending = s.pending := rfl
@[simp] theorem modSec_regs (f : SecSt → SecSt) : (modSec s f).regs = s.regs := rfl
@[simp] theorem modSec_mem (f : SecSt → SecSt) : (modSec s f).mem = s.mem := rfl
@[simp] theorem modSec_store (f : SecSt → SecSt) : (modSec s f).store = s.store := rfl
@[simp] theorem modSec_tick (f : SecSt → SecSt) : (modSec s f).tick = s.tick := rfl
@[simp] theorem modSec_time (f : SecSt → SecSt) : (modSec s f).time = s.time := rfl
@[simp] theorem modSec_flt (f : SecSt → SecSt) : (modSec s f).flt = s.flt := rfl
@[simp] theorem modSec_irq (f : SecSt → SecSt) : (modSec s f).irq = s.irq := rfl
@[simp] theorem modSec_host (f : SecSt → SecSt) : (modSec s f).host = s.host := rfl
@[simp] theorem modSec_regn (f : SecSt → SecSt) : (modSec s f).regn = s.regn := rfl
@[simp] theorem modSec_pool (f : SecSt → SecSt) : (modSec s f).pool = s.pool := rfl
@[simp] theorem modSec_strm (f : SecSt → SecSt) : (modSec s f).strm = s.strm := rfl
@[simp] theorem modSec_stn (f : SecSt → SecSt) : (modSec s f).stn = s.stn := rfl
@[simp] theorem modSec_sw (f : SecSt → SecSt) : (modSec s f).sw = s.sw := rfl
@[simp] theorem modSec_codec (f : SecSt → SecSt) : (modSec s f).codec = s.codec := rfl
@[simp] theorem modSec_coll (f : SecSt → SecSt) : (modSec s f).coll = s.coll := rfl
@[simp] theorem modSec_job (f : SecSt → SecSt) : (modSec s f).job = s.job := rfl
@[simp] theorem modSec_line (f : SecSt → SecSt) : (modSec s f).line = s.line := rfl
@[simp] theorem modSec_ciph (f : SecSt → SecSt) : (modSec s f).ciph = s.ciph := rfl
@[simp] theorem modSec_ocu (f : SecSt → SecSt) : (modSec s f).ocu = s.ocu := rfl
@[simp] theorem modSec_site (f : SecSt → SecSt) : (modSec s f).site = s.site := rfl
@[simp] theorem modSec_hlth (f : SecSt → SecSt) : (modSec s f).hlth = s.hlth := rfl
@[simp] theorem modSec_pwr (f : SecSt → SecSt) : (modSec s f).pwr = s.pwr := rfl
@[simp] theorem modSec_faultN (f : SecSt → SecSt) : (modSec s f).faultN = s.faultN := rfl
@[simp] theorem modSec_coreLine (f : SecSt → SecSt) : (modSec s f).coreLine = s.coreLine := rfl
@[simp] theorem modSec_free (f : SecSt → SecSt) : (modSec s f).free = s.free := rfl
@[simp] theorem modSec_lastRead (f : SecSt → SecSt) : (modSec s f).lastRead = s.lastRead := rfl
@[simp] theorem modSec_sent (f : SecSt → SecSt) : (modSec s f).sent = s.sent := rfl
@[simp] theorem getR_modSec (f : SecSt → SecSt) (j : Nat) : getR (modSec s f) j = getR s j := rfl
@[simp] theorem regN_modSec (f : SecSt → SecSt) (j : Nat) : regN (modSec s f) j = regN s j := rfl
@[simp] theorem fld_modSec (f : SecSt → SecSt) (j hi lo : Nat) : fld (modSec s f) j hi lo = fld s j hi lo := rfl
@[simp] theorem flag_modSec (f : SecSt → SecSt) (j c : Nat) : flag (modSec s f) j c = flag s j c := rfl

/-! ### Interrupt messages and events: registers, the interrupt controller and the outputs sent -/

/-- Only registers, the interrupt controller and the outputs sent may differ. -/
structure KeptIrq (s u : State) : Prop where
  pending : u.pending = s.pending
  mem : u.mem = s.mem
  store : u.store = s.store
  tick : u.tick = s.tick
  time : u.time = s.time
  flt : u.flt = s.flt
  host : u.host = s.host
  regn : u.regn = s.regn
  pool : u.pool = s.pool
  strm : u.strm = s.strm
  stn : u.stn = s.stn
  sw : u.sw = s.sw
  codec : u.codec = s.codec
  coll : u.coll = s.coll
  job : u.job = s.job
  line : u.line = s.line
  ciph : u.ciph = s.ciph
  ocu : u.ocu = s.ocu
  site : u.site = s.site
  hlth : u.hlth = s.hlth
  pwr : u.pwr = s.pwr
  sec : u.sec = s.sec
  faultN : u.faultN = s.faultN
  coreLine : u.coreLine = s.coreLine
  free : u.free = s.free
  lastRead : u.lastRead = s.lastRead

theorem KeptIrq.refl : KeptIrq s s := by constructor <;> rfl
theorem KeptIrq.trans {s u v : State} (h : KeptIrq s u) (g : KeptIrq u v) : KeptIrq s v :=
  ⟨g.pending.trans h.pending, g.mem.trans h.mem, g.store.trans h.store, g.tick.trans h.tick, g.time.trans h.time, g.flt.trans h.flt, g.host.trans h.host, g.regn.trans h.regn, g.pool.trans h.pool, g.strm.trans h.strm, g.stn.trans h.stn, g.sw.trans h.sw, g.codec.trans h.codec, g.coll.trans h.coll, g.job.trans h.job, g.line.trans h.line, g.ciph.trans h.ciph, g.ocu.trans h.ocu, g.site.trans h.site, g.hlth.trans h.hlth, g.pwr.trans h.pwr, g.sec.trans h.sec, g.faultN.trans h.faultN, g.coreLine.trans h.coreLine, g.free.trans h.free, g.lastRead.trans h.lastRead⟩

theorem KeptIrq.msiIf (src : Nat) : KeptIrq s (msiIf s src) := by
  unfold Machine.msiIf; split <;> constructor <;> rfl

theorem KeptIrq.setPend (src : Nat) : KeptIrq s (setPend s src) := by
  unfold Machine.setPend; dsimp only; split
  · constructor <;> rfl
  · exact KeptIrq.trans (by constructor <;> rfl) (KeptIrq.msiIf _ _)

theorem KeptIrq.irqMessage (src : Nat) : KeptIrq s (irqMessage s src) := by
  unfold Machine.irqMessage; dsimp only; split
  · exact KeptIrq.refl s
  · split
    · constructor <;> rfl
    · split
      · exact KeptIrq.trans (by constructor <;> rfl) (KeptIrq.setPend _ _)
      · constructor <;> rfl

theorem KeptIrq.event (page k : Nat) : KeptIrq s (event s page k) := by
  unfold Machine.event; dsimp only; split
  · exact KeptIrq.trans (by constructor <;> rfl) (KeptIrq.irqMessage _ _)
  · constructor <;> rfl

theorem KeptIrq.eventIf (b : Bool) (page k : Nat) : KeptIrq s (eventIf s b page k) := by
  unfold Machine.eventIf; split
  · exact KeptIrq.event s page k
  · exact KeptIrq.refl s

@[simp] theorem irqMessage_pending (src : Nat) : (irqMessage s src).pending = s.pending := (KeptIrq.irqMessage s src).pending
@[simp] theorem irqMessage_mem (src : Nat) : (irqMessage s src).mem = s.mem := (KeptIrq.irqMessage s src).mem
@[simp] theorem irqMessage_store (src : Nat) : (irqMessage s src).store = s.store := (KeptIrq.irqMessage s src).store
@[simp] theorem irqMessage_tick (src : Nat) : (irqMessage s src).tick = s.tick := (KeptIrq.irqMessage s src).tick
@[simp] theorem irqMessage_time (src : Nat) : (irqMessage s src).time = s.time := (KeptIrq.irqMessage s src).time
@[simp] theorem irqMessage_flt (src : Nat) : (irqMessage s src).flt = s.flt := (KeptIrq.irqMessage s src).flt
@[simp] theorem irqMessage_host (src : Nat) : (irqMessage s src).host = s.host := (KeptIrq.irqMessage s src).host
@[simp] theorem irqMessage_regn (src : Nat) : (irqMessage s src).regn = s.regn := (KeptIrq.irqMessage s src).regn
@[simp] theorem irqMessage_pool (src : Nat) : (irqMessage s src).pool = s.pool := (KeptIrq.irqMessage s src).pool
@[simp] theorem irqMessage_strm (src : Nat) : (irqMessage s src).strm = s.strm := (KeptIrq.irqMessage s src).strm
@[simp] theorem irqMessage_stn (src : Nat) : (irqMessage s src).stn = s.stn := (KeptIrq.irqMessage s src).stn
@[simp] theorem irqMessage_sw (src : Nat) : (irqMessage s src).sw = s.sw := (KeptIrq.irqMessage s src).sw
@[simp] theorem irqMessage_codec (src : Nat) : (irqMessage s src).codec = s.codec := (KeptIrq.irqMessage s src).codec
@[simp] theorem irqMessage_coll (src : Nat) : (irqMessage s src).coll = s.coll := (KeptIrq.irqMessage s src).coll
@[simp] theorem irqMessage_job (src : Nat) : (irqMessage s src).job = s.job := (KeptIrq.irqMessage s src).job
@[simp] theorem irqMessage_line (src : Nat) : (irqMessage s src).line = s.line := (KeptIrq.irqMessage s src).line
@[simp] theorem irqMessage_ciph (src : Nat) : (irqMessage s src).ciph = s.ciph := (KeptIrq.irqMessage s src).ciph
@[simp] theorem irqMessage_ocu (src : Nat) : (irqMessage s src).ocu = s.ocu := (KeptIrq.irqMessage s src).ocu
@[simp] theorem irqMessage_site (src : Nat) : (irqMessage s src).site = s.site := (KeptIrq.irqMessage s src).site
@[simp] theorem irqMessage_hlth (src : Nat) : (irqMessage s src).hlth = s.hlth := (KeptIrq.irqMessage s src).hlth
@[simp] theorem irqMessage_pwr (src : Nat) : (irqMessage s src).pwr = s.pwr := (KeptIrq.irqMessage s src).pwr
@[simp] theorem irqMessage_sec (src : Nat) : (irqMessage s src).sec = s.sec := (KeptIrq.irqMessage s src).sec
@[simp] theorem irqMessage_faultN (src : Nat) : (irqMessage s src).faultN = s.faultN := (KeptIrq.irqMessage s src).faultN
@[simp] theorem irqMessage_coreLine (src : Nat) : (irqMessage s src).coreLine = s.coreLine := (KeptIrq.irqMessage s src).coreLine
@[simp] theorem irqMessage_free (src : Nat) : (irqMessage s src).free = s.free := (KeptIrq.irqMessage s src).free
@[simp] theorem irqMessage_lastRead (src : Nat) : (irqMessage s src).lastRead = s.lastRead := (KeptIrq.irqMessage s src).lastRead
@[simp] theorem event_pending (page k : Nat) : (event s page k).pending = s.pending := (KeptIrq.event s page k).pending
@[simp] theorem event_mem (page k : Nat) : (event s page k).mem = s.mem := (KeptIrq.event s page k).mem
@[simp] theorem event_store (page k : Nat) : (event s page k).store = s.store := (KeptIrq.event s page k).store
@[simp] theorem event_tick (page k : Nat) : (event s page k).tick = s.tick := (KeptIrq.event s page k).tick
@[simp] theorem event_time (page k : Nat) : (event s page k).time = s.time := (KeptIrq.event s page k).time
@[simp] theorem event_flt (page k : Nat) : (event s page k).flt = s.flt := (KeptIrq.event s page k).flt
@[simp] theorem event_host (page k : Nat) : (event s page k).host = s.host := (KeptIrq.event s page k).host
@[simp] theorem event_regn (page k : Nat) : (event s page k).regn = s.regn := (KeptIrq.event s page k).regn
@[simp] theorem event_pool (page k : Nat) : (event s page k).pool = s.pool := (KeptIrq.event s page k).pool
@[simp] theorem event_strm (page k : Nat) : (event s page k).strm = s.strm := (KeptIrq.event s page k).strm
@[simp] theorem event_stn (page k : Nat) : (event s page k).stn = s.stn := (KeptIrq.event s page k).stn
@[simp] theorem event_sw (page k : Nat) : (event s page k).sw = s.sw := (KeptIrq.event s page k).sw
@[simp] theorem event_codec (page k : Nat) : (event s page k).codec = s.codec := (KeptIrq.event s page k).codec
@[simp] theorem event_coll (page k : Nat) : (event s page k).coll = s.coll := (KeptIrq.event s page k).coll
@[simp] theorem event_job (page k : Nat) : (event s page k).job = s.job := (KeptIrq.event s page k).job
@[simp] theorem event_line (page k : Nat) : (event s page k).line = s.line := (KeptIrq.event s page k).line
@[simp] theorem event_ciph (page k : Nat) : (event s page k).ciph = s.ciph := (KeptIrq.event s page k).ciph
@[simp] theorem event_ocu (page k : Nat) : (event s page k).ocu = s.ocu := (KeptIrq.event s page k).ocu
@[simp] theorem event_site (page k : Nat) : (event s page k).site = s.site := (KeptIrq.event s page k).site
@[simp] theorem event_hlth (page k : Nat) : (event s page k).hlth = s.hlth := (KeptIrq.event s page k).hlth
@[simp] theorem event_pwr (page k : Nat) : (event s page k).pwr = s.pwr := (KeptIrq.event s page k).pwr
@[simp] theorem event_sec (page k : Nat) : (event s page k).sec = s.sec := (KeptIrq.event s page k).sec
@[simp] theorem event_faultN (page k : Nat) : (event s page k).faultN = s.faultN := (KeptIrq.event s page k).faultN
@[simp] theorem event_coreLine (page k : Nat) : (event s page k).coreLine = s.coreLine := (KeptIrq.event s page k).coreLine
@[simp] theorem event_free (page k : Nat) : (event s page k).free = s.free := (KeptIrq.event s page k).free
@[simp] theorem event_lastRead (page k : Nat) : (event s page k).lastRead = s.lastRead := (KeptIrq.event s page k).lastRead
@[simp] theorem eventIf_pending (b : Bool) (page k : Nat) : (eventIf s b page k).pending = s.pending := (KeptIrq.eventIf s b page k).pending
@[simp] theorem eventIf_mem (b : Bool) (page k : Nat) : (eventIf s b page k).mem = s.mem := (KeptIrq.eventIf s b page k).mem
@[simp] theorem eventIf_store (b : Bool) (page k : Nat) : (eventIf s b page k).store = s.store := (KeptIrq.eventIf s b page k).store
@[simp] theorem eventIf_tick (b : Bool) (page k : Nat) : (eventIf s b page k).tick = s.tick := (KeptIrq.eventIf s b page k).tick
@[simp] theorem eventIf_time (b : Bool) (page k : Nat) : (eventIf s b page k).time = s.time := (KeptIrq.eventIf s b page k).time
@[simp] theorem eventIf_flt (b : Bool) (page k : Nat) : (eventIf s b page k).flt = s.flt := (KeptIrq.eventIf s b page k).flt
@[simp] theorem eventIf_host (b : Bool) (page k : Nat) : (eventIf s b page k).host = s.host := (KeptIrq.eventIf s b page k).host
@[simp] theorem eventIf_regn (b : Bool) (page k : Nat) : (eventIf s b page k).regn = s.regn := (KeptIrq.eventIf s b page k).regn
@[simp] theorem eventIf_pool (b : Bool) (page k : Nat) : (eventIf s b page k).pool = s.pool := (KeptIrq.eventIf s b page k).pool
@[simp] theorem eventIf_strm (b : Bool) (page k : Nat) : (eventIf s b page k).strm = s.strm := (KeptIrq.eventIf s b page k).strm
@[simp] theorem eventIf_stn (b : Bool) (page k : Nat) : (eventIf s b page k).stn = s.stn := (KeptIrq.eventIf s b page k).stn
@[simp] theorem eventIf_sw (b : Bool) (page k : Nat) : (eventIf s b page k).sw = s.sw := (KeptIrq.eventIf s b page k).sw
@[simp] theorem eventIf_codec (b : Bool) (page k : Nat) : (eventIf s b page k).codec = s.codec := (KeptIrq.eventIf s b page k).codec
@[simp] theorem eventIf_coll (b : Bool) (page k : Nat) : (eventIf s b page k).coll = s.coll := (KeptIrq.eventIf s b page k).coll
@[simp] theorem eventIf_job (b : Bool) (page k : Nat) : (eventIf s b page k).job = s.job := (KeptIrq.eventIf s b page k).job
@[simp] theorem eventIf_line (b : Bool) (page k : Nat) : (eventIf s b page k).line = s.line := (KeptIrq.eventIf s b page k).line
@[simp] theorem eventIf_ciph (b : Bool) (page k : Nat) : (eventIf s b page k).ciph = s.ciph := (KeptIrq.eventIf s b page k).ciph
@[simp] theorem eventIf_ocu (b : Bool) (page k : Nat) : (eventIf s b page k).ocu = s.ocu := (KeptIrq.eventIf s b page k).ocu
@[simp] theorem eventIf_site (b : Bool) (page k : Nat) : (eventIf s b page k).site = s.site := (KeptIrq.eventIf s b page k).site
@[simp] theorem eventIf_hlth (b : Bool) (page k : Nat) : (eventIf s b page k).hlth = s.hlth := (KeptIrq.eventIf s b page k).hlth
@[simp] theorem eventIf_pwr (b : Bool) (page k : Nat) : (eventIf s b page k).pwr = s.pwr := (KeptIrq.eventIf s b page k).pwr
@[simp] theorem eventIf_sec (b : Bool) (page k : Nat) : (eventIf s b page k).sec = s.sec := (KeptIrq.eventIf s b page k).sec
@[simp] theorem eventIf_faultN (b : Bool) (page k : Nat) : (eventIf s b page k).faultN = s.faultN := (KeptIrq.eventIf s b page k).faultN
@[simp] theorem eventIf_coreLine (b : Bool) (page k : Nat) : (eventIf s b page k).coreLine = s.coreLine := (KeptIrq.eventIf s b page k).coreLine
@[simp] theorem eventIf_free (b : Bool) (page k : Nat) : (eventIf s b page k).free = s.free := (KeptIrq.eventIf s b page k).free
@[simp] theorem eventIf_lastRead (b : Bool) (page k : Nat) : (eventIf s b page k).lastRead = s.lastRead := (KeptIrq.eventIf s b page k).lastRead

/-! ### Fault records -/

/-- What a fault record cannot change: all but registers, interrupts, outputs sent, the collector, storage and the health counts. -/
structure KeptFlt (s u : State) : Prop where
  pending : u.pending = s.pending
  tick : u.tick = s.tick
  time : u.time = s.time
  host : u.host = s.host
  regn : u.regn = s.regn
  pool : u.pool = s.pool
  strm : u.strm = s.strm
  stn : u.stn = s.stn
  sw : u.sw = s.sw
  codec : u.codec = s.codec
  coll : u.coll = s.coll
  job : u.job = s.job
  line : u.line = s.line
  ciph : u.ciph = s.ciph
  ocu : u.ocu = s.ocu
  site : u.site = s.site
  pwr : u.pwr = s.pwr
  sec : u.sec = s.sec
  faultN : u.faultN = s.faultN
  coreLine : u.coreLine = s.coreLine
  free : u.free = s.free
  lastRead : u.lastRead = s.lastRead

theorem KeptFlt.refl : KeptFlt s s := by constructor <;> rfl
theorem KeptFlt.trans {s u v : State} (h : KeptFlt s u) (g : KeptFlt u v) : KeptFlt s v :=
  ⟨g.pending.trans h.pending, g.tick.trans h.tick, g.time.trans h.time, g.host.trans h.host, g.regn.trans h.regn, g.pool.trans h.pool, g.strm.trans h.strm, g.stn.trans h.stn, g.sw.trans h.sw, g.codec.trans h.codec, g.coll.trans h.coll, g.job.trans h.job, g.line.trans h.line, g.ciph.trans h.ciph, g.ocu.trans h.ocu, g.site.trans h.site, g.pwr.trans h.pwr, g.sec.trans h.sec, g.faultN.trans h.faultN, g.coreLine.trans h.coreLine, g.free.trans h.free, g.lastRead.trans h.lastRead⟩

theorem KeptFlt.ofIrq {s u : State} (h : KeptIrq s u) : KeptFlt s u := ⟨h.pending, h.tick, h.time, h.host, h.regn, h.pool, h.strm, h.stn, h.sw, h.codec, h.coll, h.job, h.line, h.ciph, h.ocu, h.site, h.pwr, h.sec, h.faultN, h.coreLine, h.free, h.lastRead⟩

theorem KeptFlt.noteEcc (k : Nat) (ue scrub : Bool) : KeptFlt s (noteEcc s k ue scrub) := by
  unfold Machine.noteEcc; dsimp only; split
  · exact KeptFlt.trans (by constructor <;> rfl) (KeptFlt.ofIrq (KeptIrq.event _ _ _))
  · exact KeptFlt.refl s

theorem KeptFlt.takeReactions (src kind : Nat) : KeptFlt s (takeReactions s src kind) := by
  unfold Machine.takeReactions; dsimp only; (repeat' split) <;> constructor <;> rfl

theorem KeptFlt.orderTest (src kind ctx addr : Nat) : KeptFlt s (orderTest s src kind ctx addr) := by
  unfold Machine.orderTest; dsimp only; split <;> constructor <;> rfl

theorem KeptFlt.logRecord (src kind : Nat) (b : List Byte) : KeptFlt s (logRecord s src kind b).2 := by
  unfold Machine.logRecord; dsimp only
  (repeat' split) <;> first
    | exact KeptFlt.trans (by constructor <;> rfl) (KeptFlt.ofIrq (KeptIrq.event _ _ _))
    | (constructor <;> rfl)

theorem KeptFlt.recordTail (s4 : State) (b c : Bool) (src m kind ctx addr : Nat) :
    KeptFlt s4 (let s6 := Machine.orderTest (if b then Machine.irqMessage s4 m else s4) src kind ctx addr
      if c then Machine.takeReactions s6 src kind else s6) := by
  have h : KeptFlt s4 (if b then Machine.irqMessage s4 m else s4) := by
    split
    · exact KeptFlt.ofIrq (KeptIrq.irqMessage _ _)
    · exact KeptFlt.refl _
  dsimp only
  split
  · exact (h.trans (KeptFlt.orderTest _ _ _ _ _)).trans (KeptFlt.takeReactions _ _ _)
  · exact h.trans (KeptFlt.orderTest _ _ _ _ _)

theorem KeptFlt.recordHead (src a b : Nat) (d : FltDyn) (k : Nat) :
    KeptFlt s (Machine.event (setFltDyn (setN (bump s a) b k) src d) 0x81 0) :=
  KeptFlt.trans (by constructor <;> rfl) (KeptFlt.ofIrq (KeptIrq.event _ _ _))

theorem KeptFlt.noteRecord (src sev kind ctx addr : Nat) : KeptFlt s (noteRecord s src sev kind ctx addr) := by
  have h0 : KeptFlt s (match healthInput kind with | some i => healthEvent s i | none => s) := by
    split
    · constructor <;> rfl
    · exact KeptFlt.refl s
  unfold Machine.noteRecord
  exact (h0.trans (KeptFlt.recordHead _ src _ _ _ _)).trans (KeptFlt.recordTail _ _ _ src _ kind ctx addr)

theorem KeptFlt.raiseN (n src sev kind ctx addr : Nat) : KeptFlt s (raiseN n s src sev kind ctx addr) := by
  induction n generalizing s src sev kind ctx addr with
  | zero => exact KeptFlt.refl s
  | succ n ih =>
    unfold Machine.raiseN; dsimp only
    have h := (KeptFlt.logRecord s src kind (recordBytes src sev kind ctx s.tick.now addr)).trans
      (KeptFlt.noteRecord _ src sev kind ctx addr)
    split
    · exact KeptFlt.refl s
    · split
      · exact (h.trans (KeptFlt.noteEcc _ _ _ _)).trans (ih _ _ _ _ _ _)
      · exact (h.trans (KeptFlt.noteEcc _ _ _ _)).trans (ih _ _ _ _ _ _)
      · exact h

theorem KeptFlt.raise (src kind ctx addr : Nat) : KeptFlt s (raise s src kind ctx addr) := KeptFlt.raiseN s 4 _ _ _ _ _

@[simp] theorem raise_pending (src kind ctx addr : Nat) : (raise s src kind ctx addr).pending = s.pending := (KeptFlt.raise s src kind ctx addr).pending
@[simp] theorem raise_tick (src kind ctx addr : Nat) : (raise s src kind ctx addr).tick = s.tick := (KeptFlt.raise s src kind ctx addr).tick
@[simp] theorem raise_time (src kind ctx addr : Nat) : (raise s src kind ctx addr).time = s.time := (KeptFlt.raise s src kind ctx addr).time
@[simp] theorem raise_host (src kind ctx addr : Nat) : (raise s src kind ctx addr).host = s.host := (KeptFlt.raise s src kind ctx addr).host
@[simp] theorem raise_regn (src kind ctx addr : Nat) : (raise s src kind ctx addr).regn = s.regn := (KeptFlt.raise s src kind ctx addr).regn
@[simp] theorem raise_pool (src kind ctx addr : Nat) : (raise s src kind ctx addr).pool = s.pool := (KeptFlt.raise s src kind ctx addr).pool
@[simp] theorem raise_strm (src kind ctx addr : Nat) : (raise s src kind ctx addr).strm = s.strm := (KeptFlt.raise s src kind ctx addr).strm
@[simp] theorem raise_stn (src kind ctx addr : Nat) : (raise s src kind ctx addr).stn = s.stn := (KeptFlt.raise s src kind ctx addr).stn
@[simp] theorem raise_sw (src kind ctx addr : Nat) : (raise s src kind ctx addr).sw = s.sw := (KeptFlt.raise s src kind ctx addr).sw
@[simp] theorem raise_codec (src kind ctx addr : Nat) : (raise s src kind ctx addr).codec = s.codec := (KeptFlt.raise s src kind ctx addr).codec
@[simp] theorem raise_coll (src kind ctx addr : Nat) : (raise s src kind ctx addr).coll = s.coll := (KeptFlt.raise s src kind ctx addr).coll
@[simp] theorem raise_job (src kind ctx addr : Nat) : (raise s src kind ctx addr).job = s.job := (KeptFlt.raise s src kind ctx addr).job
@[simp] theorem raise_line (src kind ctx addr : Nat) : (raise s src kind ctx addr).line = s.line := (KeptFlt.raise s src kind ctx addr).line
@[simp] theorem raise_ciph (src kind ctx addr : Nat) : (raise s src kind ctx addr).ciph = s.ciph := (KeptFlt.raise s src kind ctx addr).ciph
@[simp] theorem raise_ocu (src kind ctx addr : Nat) : (raise s src kind ctx addr).ocu = s.ocu := (KeptFlt.raise s src kind ctx addr).ocu
@[simp] theorem raise_site (src kind ctx addr : Nat) : (raise s src kind ctx addr).site = s.site := (KeptFlt.raise s src kind ctx addr).site
@[simp] theorem raise_pwr (src kind ctx addr : Nat) : (raise s src kind ctx addr).pwr = s.pwr := (KeptFlt.raise s src kind ctx addr).pwr
@[simp] theorem raise_sec (src kind ctx addr : Nat) : (raise s src kind ctx addr).sec = s.sec := (KeptFlt.raise s src kind ctx addr).sec
@[simp] theorem raise_faultN (src kind ctx addr : Nat) : (raise s src kind ctx addr).faultN = s.faultN := (KeptFlt.raise s src kind ctx addr).faultN
@[simp] theorem raise_coreLine (src kind ctx addr : Nat) : (raise s src kind ctx addr).coreLine = s.coreLine := (KeptFlt.raise s src kind ctx addr).coreLine
@[simp] theorem raise_free (src kind ctx addr : Nat) : (raise s src kind ctx addr).free = s.free := (KeptFlt.raise s src kind ctx addr).free
@[simp] theorem raise_lastRead (src kind ctx addr : Nat) : (raise s src kind ctx addr).lastRead = s.lastRead := (KeptFlt.raise s src kind ctx addr).lastRead
@[simp] theorem noteEcc_pending (k : Nat) (ue scrub : Bool) : (noteEcc s k ue scrub).pending = s.pending := (KeptFlt.noteEcc s k ue scrub).pending
@[simp] theorem noteEcc_tick (k : Nat) (ue scrub : Bool) : (noteEcc s k ue scrub).tick = s.tick := (KeptFlt.noteEcc s k ue scrub).tick
@[simp] theorem noteEcc_time (k : Nat) (ue scrub : Bool) : (noteEcc s k ue scrub).time = s.time := (KeptFlt.noteEcc s k ue scrub).time
@[simp] theorem noteEcc_host (k : Nat) (ue scrub : Bool) : (noteEcc s k ue scrub).host = s.host := (KeptFlt.noteEcc s k ue scrub).host
@[simp] theorem noteEcc_regn (k : Nat) (ue scrub : Bool) : (noteEcc s k ue scrub).regn = s.regn := (KeptFlt.noteEcc s k ue scrub).regn
@[simp] theorem noteEcc_pool (k : Nat) (ue scrub : Bool) : (noteEcc s k ue scrub).pool = s.pool := (KeptFlt.noteEcc s k ue scrub).pool
@[simp] theorem noteEcc_strm (k : Nat) (ue scrub : Bool) : (noteEcc s k ue scrub).strm = s.strm := (KeptFlt.noteEcc s k ue scrub).strm
@[simp] theorem noteEcc_stn (k : Nat) (ue scrub : Bool) : (noteEcc s k ue scrub).stn = s.stn := (KeptFlt.noteEcc s k ue scrub).stn
@[simp] theorem noteEcc_sw (k : Nat) (ue scrub : Bool) : (noteEcc s k ue scrub).sw = s.sw := (KeptFlt.noteEcc s k ue scrub).sw
@[simp] theorem noteEcc_codec (k : Nat) (ue scrub : Bool) : (noteEcc s k ue scrub).codec = s.codec := (KeptFlt.noteEcc s k ue scrub).codec
@[simp] theorem noteEcc_coll (k : Nat) (ue scrub : Bool) : (noteEcc s k ue scrub).coll = s.coll := (KeptFlt.noteEcc s k ue scrub).coll
@[simp] theorem noteEcc_job (k : Nat) (ue scrub : Bool) : (noteEcc s k ue scrub).job = s.job := (KeptFlt.noteEcc s k ue scrub).job
@[simp] theorem noteEcc_line (k : Nat) (ue scrub : Bool) : (noteEcc s k ue scrub).line = s.line := (KeptFlt.noteEcc s k ue scrub).line
@[simp] theorem noteEcc_ciph (k : Nat) (ue scrub : Bool) : (noteEcc s k ue scrub).ciph = s.ciph := (KeptFlt.noteEcc s k ue scrub).ciph
@[simp] theorem noteEcc_ocu (k : Nat) (ue scrub : Bool) : (noteEcc s k ue scrub).ocu = s.ocu := (KeptFlt.noteEcc s k ue scrub).ocu
@[simp] theorem noteEcc_site (k : Nat) (ue scrub : Bool) : (noteEcc s k ue scrub).site = s.site := (KeptFlt.noteEcc s k ue scrub).site
@[simp] theorem noteEcc_pwr (k : Nat) (ue scrub : Bool) : (noteEcc s k ue scrub).pwr = s.pwr := (KeptFlt.noteEcc s k ue scrub).pwr
@[simp] theorem noteEcc_sec (k : Nat) (ue scrub : Bool) : (noteEcc s k ue scrub).sec = s.sec := (KeptFlt.noteEcc s k ue scrub).sec
@[simp] theorem noteEcc_faultN (k : Nat) (ue scrub : Bool) : (noteEcc s k ue scrub).faultN = s.faultN := (KeptFlt.noteEcc s k ue scrub).faultN
@[simp] theorem noteEcc_coreLine (k : Nat) (ue scrub : Bool) : (noteEcc s k ue scrub).coreLine = s.coreLine := (KeptFlt.noteEcc s k ue scrub).coreLine
@[simp] theorem noteEcc_free (k : Nat) (ue scrub : Bool) : (noteEcc s k ue scrub).free = s.free := (KeptFlt.noteEcc s k ue scrub).free
@[simp] theorem noteEcc_lastRead (k : Nat) (ue scrub : Bool) : (noteEcc s k ue scrub).lastRead = s.lastRead := (KeptFlt.noteEcc s k ue scrub).lastRead

end Sys2Proof.Machine
end

