-- ==== Sys2Proof/Laws/Events.lean ====
section
/-!
SUPPORT. What interrupt messages, events and fault records do to the register file: the registers they count in, and every other
register kept.
-/
namespace Sys2Proof.Machine

variable (s : State)

/-- A message counts in two registers of the IRQ page and changes no other. -/
theorem getR_msiIf (src j : Nat) : getR (msiIf s src) j = getR s j := by
  unfold msiIf; split <;> rfl

theorem getR_setPend (src j : Nat) : getR (setPend s src) j = getR s j := by
  unfold setPend; dsimp only; split
  · rfl
  · exact getR_msiIf _ _ _

theorem getR_irqMessage (src : Nat) {j : Nat} (h1 : j ≠ R.IRQ_STUCK_CNT) (h2 : j ≠ keyB R.IRQ_SRC_CNT src) :
    getR (irqMessage s src) j = getR s j := by
  unfold irqMessage; dsimp only; split
  · rfl
  · split
    · exact getR_bump_ne _ h1
    · split
      · rw [getR_setPend]; exact getR_setN_ne _ _ h2
      · exact getR_setN_ne _ _ h2

/-- The page of a bank's register is its register's page. -/
theorem pageOf_keyB (k b : Nat) : pageOf (keyB k b) = pageOf k := by
  unfold pageOf keyB bankBase; omega

theorem getR_irqMessage_page (src : Nat) {j : Nat} (h : pageOf j ≠ 0x80) : getR (irqMessage s src) j = getR s j := by
  refine getR_irqMessage s src ?_ ?_
  · rintro rfl; exact h (by decide)
  · rintro rfl; rw [pageOf_keyB] at h; exact h (by decide)

/-- An event changes BLK_EVT and BLK_EVT_CNT of its page, and what its interrupt message counts. -/
theorem getR_event (page k : Nat) {j : Nat} (h1 : j ≠ hdr page oEVT) (h2 : j ≠ hdr page oEVTCNT) (h3 : pageOf j ≠ 0x80) :
    getR (event s page k) j = getR s j := by
  unfold event; dsimp only; split
  · rw [getR_irqMessage_page _ _ h3, getR_bump_ne _ h2, getR_setFlag_ne _ _ _ h1]
  · rw [getR_bump_ne _ h2, getR_setFlag_ne _ _ _ h1]

theorem getR_eventIf (b : Bool) (page k : Nat) {j : Nat} (h1 : j ≠ hdr page oEVT) (h2 : j ≠ hdr page oEVTCNT) (h3 : pageOf j ≠ 0x80) :
    getR (eventIf s b page k) j = getR s j := by
  unfold eventIf; split
  · exact getR_event s page k h1 h2 h3
  · rfl

theorem hdr_mod (page off : Nat) (h : off < 0x1000) : hdr page off % 0x1000 = off := by unfold hdr; omega

theorem hdr_inj {page p q : Nat} (hp : p < 0x1000) (hq : q < 0x1000) (h : hdr page p = hdr page q) : p = q := by
  have := congrArg (· % 0x1000) h; simpa [hdr_mod _ _ hp, hdr_mod _ _ hq] using this

theorem keyB_mod (k b : Nat) (_h : k < bankBase) : keyB k b % 0x1000 = k % 0x1000 := by unfold keyB; unfold bankBase at *; omega

/-- The event's bit is set. -/
theorem flag_event_self (page k : Nat) (hk : k < 32) : flag (event s page k) (hdr page oEVT) k = true := by
  have hne : hdr page oEVT ≠ hdr page oEVTCNT := fun h => absurd (hdr_inj (by decide) (by decide) h) (by decide)
  have hb : flag (bump (setFlag s (hdr page oEVT) k true) (hdr page oEVTCNT)) (hdr page oEVT) k = true := by
    unfold bump bumpBy; rw [flag_setN_ne _ _ _ hne, flag_setFlag_self _ _ _ _ hk]
  unfold event; dsimp only; split
  · have h1 : hdr page oEVT ≠ R.IRQ_STUCK_CNT := by
      intro h; have := congrArg (· % 0x1000) h; simp only [hdr_mod page oEVT (by decide)] at this; exact absurd this (by decide)
    have h2 : hdr page oEVT ≠ keyB R.IRQ_SRC_CNT (0x200 + page) := by
      intro h; have := congrArg (· % 0x1000) h
      simp only [hdr_mod page oEVT (by decide), keyB_mod R.IRQ_SRC_CNT _ (by decide)] at this; exact absurd this (by decide)
    have := getR_irqMessage (bump (setFlag s (hdr page oEVT) k true) (hdr page oEVTCNT)) (0x200 + page) h1 h2
    simp only [flag, regN, this]; exact hb
  · exact hb

theorem regN_event (page k : Nat) {j : Nat} (h1 : j ≠ hdr page oEVT) (h2 : j ≠ hdr page oEVTCNT) (h3 : pageOf j ≠ 0x80) :
    regN (event s page k) j = regN s j := by simp only [regN, getR_event s page k h1 h2 h3]

/-! ### Fault records: the IRQ and FAULT pages' registers -/

/-- With no error in storage a record is logged without raising another. -/
theorem logRecord_clean (h : s.store.ecc = []) (src kind : Nat) (b : List Byte) (w : Nat) :
    (logRecord s src kind b).1 ≠ .ue w ∧ (logRecord s src kind b).1 ≠ .ce w := by
  unfold logRecord; dsimp only
  split
  · simp
  · split
    · simp
    · split
      · simp
      · have hn : ∀ x, eccOf (setN { s with flt := { s.flt with met := (src, kind) :: s.flt.met } } R.FLT_LOG_TAIL x) = eccOf s := fun _ => rfl
        have he : ∀ q, eccOf s q = none := fun q => by simp [eccOf, h, mapFind]
        have e2 : ∀ q, eccOf { s with flt := { s.flt with met := (src, kind) :: s.flt.met } } q = none := he
        simp only [e2, ite_self]
        simp

/-- With no error in storage: the record is stored, then noted. -/
theorem raiseN_clean (h : s.store.ecc = []) (n src sev kind ctx addr : Nat) : raiseN (n + 1) s src sev kind ctx addr =
    if srcExists src then noteRecord (logRecord s src kind (recordBytes src sev kind ctx s.tick.now addr)).2 src sev kind ctx addr else s := by
  have hc := logRecord_clean s h src kind (recordBytes src sev kind ctx s.tick.now addr)
  unfold raiseN; dsimp only
  cases hs : srcExists src
  · simp
  · simp only [Bool.not_true, Bool.false_eq_true, if_false, if_true]
    split
    · rename_i w hw; exact absurd hw (hc w).1
    · rename_i w hw; exact absurd hw (hc w).2
    · rfl

theorem pageOf_fault {j : Nat} (h : pageOf j ≠ 0x81) (k b : Nat) (hk : pageOf k = 0x81) : j ≠ keyB k b := by
  rintro rfl; rw [pageOf_keyB] at h; exact h hk

theorem getR_logRecord (src kind : Nat) (b : List Byte) {j : Nat} (h1 : pageOf j ≠ 0x80) (h2 : pageOf j ≠ 0x81) :
    getR (logRecord s src kind b).2 j = getR s j := by
  have hp : ∀ k, pageOf k = 0x81 → j ≠ k := by rintro k hk rfl; exact h2 hk
  have e1 : j ≠ hdr 0x81 oEVT := hp _ (by decide)
  have e2 : j ≠ hdr 0x81 oEVTCNT := hp _ (by decide)
  have e3 : j ≠ R.FLT_MERGED := hp _ (by decide)
  have e4 : j ≠ R.FLT_LOG_LOST := hp _ (by decide)
  have e5 : j ≠ R.FLT_LOG_TAIL := hp _ (by decide)
  have hm : getR { s with flt := { s.flt with met := (src, kind) :: s.flt.met } } j = getR s j := rfl
  unfold logRecord; dsimp only
  split
  · exact getR_bump_ne _ e3
  · split
    · rw [getR_event _ _ _ e1 e2 h1, getR_bump_ne _ e4, hm]
    · split
      · rw [getR_bump_ne _ e4, hm]
      · split
        · rw [getR_bump_ne _ e4, getR_setN_ne _ _ e5, hm]
        · rw [getR_rawWrite, getR_eccClear, getR_setN_ne _ _ e5, hm]
        · rw [getR_rawWrite, getR_eccClear, getR_setN_ne _ _ e5, hm]

theorem getR_takeReactions (src kind j : Nat) : getR (takeReactions s src kind) j = getR s j := by
  unfold takeReactions; dsimp only; (repeat' split) <;> rfl

theorem getR_orderTest (src kind ctx addr : Nat) {j : Nat} (h2 : pageOf j ≠ 0x81) : getR (orderTest s src kind ctx addr) j = getR s j := by
  have e : j ≠ R.FLT_TEST := by rintro rfl; exact h2 (by decide)
  have e2 : j ≠ fltSum src := pageOf_fault h2 _ _ (by decide)
  unfold orderTest; dsimp only; split
  · rw [getR_setN_ne _ _ e, getR_setFlag_ne _ _ _ e2, getR_setFltDyn]
  · rfl

theorem getR_noteRecord (src sev kind ctx addr : Nat) {j : Nat} (h1 : pageOf j ≠ 0x80) (h2 : pageOf j ≠ 0x81) :
    getR (noteRecord s src sev kind ctx addr) j = getR s j := by
  have e1 : j ≠ hdr 0x81 oEVT := by rintro rfl; exact h2 (by decide)
  have e2 : j ≠ hdr 0x81 oEVTCNT := by rintro rfl; exact h2 (by decide)
  have e3 : j ≠ keyB R.FLT_COUNT src := pageOf_fault h2 _ _ (by decide)
  have e4 : j ≠ fltSum src := pageOf_fault h2 _ _ (by decide)
  have ht : ∀ (a : State) (b c : Bool) (m : Nat), getR (let s6 := orderTest (if b then irqMessage a m else a) src kind ctx addr
      if c then takeReactions s6 src kind else s6) j = getR a j := by
    intro a b c m
    have h5 : getR (if b then irqMessage a m else a) j = getR a j := by
      split
      · exact getR_irqMessage_page _ _ h1
      · rfl
    dsimp only
    split
    · rw [getR_takeReactions, getR_orderTest _ _ _ _ _ h2, h5]
    · rw [getR_orderTest _ _ _ _ _ h2, h5]
  unfold noteRecord
  refine (ht _ _ _ _).trans ?_
  rw [getR_event _ _ _ e1 e2 h1, getR_setFltDyn, getR_setN_ne _ _ e4, getR_bump_ne _ e3]
  split <;> rfl

theorem keyB_ne_of_low {k j b c : Nat} (h : k % bankBase ≠ j % bankBase) : keyB k b ≠ keyB j c := by
  intro e; unfold keyB at e; unfold bankBase at *; omega

/-- A record leaves its source in the fault state. -/
theorem inFault_noteRecord (src sev kind ctx addr : Nat) : inFault (noteRecord s src sev kind ctx addr) src = true := by
  have e80 : pageOf (fltSum src) ≠ 0x80 := by unfold fltSum; rw [pageOf_keyB]; decide
  have low : fltSum src % 0x1000 = R.FLT_SUM % 0x1000 := keyB_mod _ _ (by decide)
  have e1 : fltSum src ≠ hdr 0x81 oEVT := by intro h; rw [h] at low; exact absurd low (by decide)
  have e2 : fltSum src ≠ hdr 0x81 oEVTCNT := by intro h; rw [h] at low; exact absurd low (by decide)
  have e3 : fltSum src ≠ R.FLT_TEST := by intro h; rw [h] at low; exact absurd low (by decide)
  have ht : ∀ (a : State) (b c : Bool) (m : Nat), flag a (fltSum src) 0 = true →
      flag (let s6 := orderTest (if b then irqMessage a m else a) src kind ctx addr
        if c then takeReactions s6 src kind else s6) (fltSum src) 0 = true := by
    intro a b c m ha
    have h5 : flag (if b then irqMessage a m else a) (fltSum src) 0 = true := by
      split
      · simp only [flag, regN, getR_irqMessage_page _ _ e80]; exact ha
      · exact ha
    have h6 : flag (orderTest (if b then irqMessage a m else a) src kind ctx addr) (fltSum src) 0 = true := by
      generalize (if b then irqMessage a m else a) = a1 at h5 ⊢
      unfold orderTest; dsimp only; split
      · rw [flag_setN_ne _ _ _ e3, flag_setFlag_bit _ _ _ _ _ (by decide) (by decide), flag_setFltDyn]; exact h5
      · exact h5
    dsimp only
    split
    · simp only [flag, regN, getR_takeReactions] at h6 ⊢; exact h6
    · exact h6
  unfold inFault noteRecord
  refine ht _ _ _ _ ?_
  have h3 : ∀ (a : State) (v : Nat) (d : FltDyn), bitOf v 0 = true → v < 2 ^ 32 →
      flag (event (setFltDyn (setN a (fltSum src) v) src d) 0x81 0) (fltSum src) 0 = true := by
    intro a v d hv hl
    simp only [flag, regN_event _ _ _ e1 e2 e80, regN_setFltDyn, regN_setN_self, Nat.mod_eq_of_lt hl]; exact hv
  have b32 : ∀ x, x < 2 ^ 32 → putBits (putBits (putBits x 0 0 1) 11 4 kind) 15 12 sev < 2 ^ 32 := fun x hx =>
    putBits_lt _ _ _ _ _ (by decide) (by decide) (putBits_lt _ _ _ _ _ (by decide) (by decide) (putBits_lt _ _ _ _ _ (by decide) (by decide) hx))
  refine h3 _ _ _ ?_ (b32 _ (regN_lt _ _))
  rw [bitOf_eq, bitsOf_putBits_below _ _ _ _ _ _ (by decide) (by decide) (by decide),
    bitsOf_putBits_below _ _ _ _ _ _ (by decide) (by decide) (by decide), bitsOf_putBits_self _ _ _ _ (by decide)]
  rfl

/-- With no error in storage, a raised record leaves its source in the fault state. -/
theorem inFault_raise (h : s.store.ecc = []) (src kind ctx addr : Nat) (hs : srcExists src = true) :
    inFault (raise s src kind ctx addr) src = true := by
  unfold raise
  rw [raiseN_clean s h, if_pos hs]
  exact inFault_noteRecord _ _ _ _ _ _

/-- With no error in storage, a fault record changes registers of the IRQ and FAULT pages only. -/
theorem getR_raise (h : s.store.ecc = []) (src kind ctx addr : Nat) {j : Nat} (h1 : pageOf j ≠ 0x80) (h2 : pageOf j ≠ 0x81) :
    getR (raise s src kind ctx addr) j = getR s j := by
  unfold raise
  rw [raiseN_clean s h]
  split
  · rw [getR_noteRecord _ _ _ _ _ _ h1 h2, getR_logRecord _ _ _ _ h1 h2]
  · rfl

end Sys2Proof.Machine
end

