-- ==== Sys2Proof/Laws/Exec.lean ====
section
/-!
SUPPORT. Every command is its effect, taken under one condition: while the package is live, for most.
-/
namespace Sys2Proof.Machine

/-- When a command is taken (R411, R431). -/
def takenWhen (c : Instr) (s : State) : Bool :=
  match c with
  | .tickBoundary _ => ticking s
  | .perstN => true
  | .perstNRelease => true
  | .powerOn => true
  | .powerOff => true
  | .wireAssert _ _ => decide (s.pwr.state ≤ 1)
  | .startupStepEnd _ _ _ _ => decide (s.pwr.state ≤ 1)
  | .wakeInput _ _ => decide (s.pwr.state ≤ 2)
  | _ => live s

variable (s : State)

theorem exec_tickBoundary (env : TickEnv) : exec (.tickBoundary env) s = execTickBoundary env s := rfl
theorem taken_tickBoundary (env : TickEnv) : ∃ f, exec (.tickBoundary env) s = actIf (ticking s) s f := by
  show ∃ f, execTickBoundary env s = _
  unfold execTickBoundary; exact ⟨_, rfl⟩
theorem exec_tickNowLoRead (w : Win) : exec (.tickNowLoRead w) s = execTickNowLoRead w s := rfl
theorem taken_tickNowLoRead (w : Win) : ∃ f, exec (.tickNowLoRead w) s = actIf (live s) s f := by
  show ∃ f, execTickNowLoRead w s = _
  unfold execTickNowLoRead act; exact ⟨_, rfl⟩
theorem exec_timeNowNsRead (w : Win) (elapsed : Nat) : exec (.timeNowNsRead w elapsed) s = execTimeNowNsRead w elapsed s := rfl
theorem taken_timeNowNsRead (w : Win) (elapsed : Nat) : ∃ f, exec (.timeNowNsRead w elapsed) s = actIf (live s) s f := by
  show ∃ f, execTimeNowNsRead w elapsed s = _
  unfold execTimeNowNsRead act; exact ⟨_, rfl⟩
theorem exec_lfrmSeqLoRead (w : Win) (md : Fin 2) (rx : Bool) : exec (.lfrmSeqLoRead w md rx) s = execLfrmSeqLoRead w md rx s := rfl
theorem taken_lfrmSeqLoRead (w : Win) (md : Fin 2) (rx : Bool) : ∃ f, exec (.lfrmSeqLoRead w md rx) s = actIf (live s) s f := by
  show ∃ f, execLfrmSeqLoRead w md rx s = _
  unfold execLfrmSeqLoRead act; exact ⟨_, rfl⟩
theorem exec_readClear (w : Win) (page : BitVec 12) (off : BitVec 12) : exec (.readClear w page off) s = execReadClear w page off s := rfl
theorem taken_readClear (w : Win) (page : BitVec 12) (off : BitVec 12) : ∃ f, exec (.readClear w page off) s = actIf (live s) s f := by
  show ∃ f, execReadClear w page off s = _
  unfold execReadClear act; exact ⟨_, rfl⟩
theorem exec_registerWrite (w : Win) (page : BitVec 12) (off : BitVec 12) (size : Nat) (v : DWord) : exec (.registerWrite w page off size v) s = execRegisterWrite w page off size v s := rfl
theorem taken_registerWrite (w : Win) (page : BitVec 12) (off : BitVec 12) (size : Nat) (v : DWord) : ∃ f, exec (.registerWrite w page off size v) s = actIf (live s) s f := by
  show ∃ f, execRegisterWrite w page off size v s = _
  unfold execRegisterWrite act; exact ⟨_, rfl⟩
theorem exec_d2dLinkDegrade (die : Fin 8) (link : Fin 3) : exec (.d2dLinkDegrade die link) s = execD2dLinkDegrade die link s := rfl
theorem taken_d2dLinkDegrade (die : Fin 8) (link : Fin 3) : ∃ f, exec (.d2dLinkDegrade die link) s = actIf (live s) s f := by
  show ∃ f, execD2dLinkDegrade die link s = _
  unfold execD2dLinkDegrade act; exact ⟨_, rfl⟩
theorem exec_snapReady (msg : SnapReady) : exec (.snapReady msg) s = execSnapReady msg s := rfl
theorem taken_snapReady (msg : SnapReady) : ∃ f, exec (.snapReady msg) s = actIf (live s) s f := by
  show ∃ f, execSnapReady msg s = _
  unfold execSnapReady act; exact ⟨_, rfl⟩
theorem exec_snapshotPullStart : exec .snapshotPullStart s = execSnapshotPullStart s := rfl
theorem taken_snapshotPullStart : ∃ f, exec .snapshotPullStart s = actIf (live s) s f := by
  show ∃ f, execSnapshotPullStart s = _
  unfold execSnapshotPullStart act; exact ⟨_, rfl⟩
theorem exec_memberModeReenter : exec .memberModeReenter s = execMemberModeReenter s := rfl
theorem taken_memberModeReenter : ∃ f, exec .memberModeReenter s = actIf (live s) s f := by
  show ∃ f, execMemberModeReenter s = _
  unfold execMemberModeReenter act; exact ⟨_, rfl⟩
theorem exec_strmDb (w : Win) (v : Word) : exec (.strmDb w v) s = execStrmDb w v s := rfl
theorem taken_strmDb (w : Win) (v : Word) : ∃ f, exec (.strmDb w v) s = actIf (live s) s f := by
  show ∃ f, execStrmDb w v s = _
  unfold execStrmDb act; exact ⟨_, rfl⟩
theorem exec_descFetch (slot : BitVec 12) : exec (.descFetch slot) s = execDescFetch slot s := rfl
theorem taken_descFetch (slot : BitVec 12) : ∃ f, exec (.descFetch slot) s = actIf (live s) s f := by
  show ∃ f, execDescFetch slot s = _
  unfold execDescFetch act; exact ⟨_, rfl⟩
theorem exec_openStream (w : Win) : exec (.openStream w) s = execOpenStream w s := rfl
theorem taken_openStream (w : Win) : ∃ f, exec (.openStream w) s = actIf (live s) s f := by
  show ∃ f, execOpenStream w s = _
  unfold execOpenStream act; exact ⟨_, rfl⟩
theorem exec_closeStream (w : Win) (slot : BitVec 12) : exec (.closeStream w slot) s = execCloseStream w slot s := rfl
theorem taken_closeStream (w : Win) (slot : BitVec 12) : ∃ f, exec (.closeStream w slot) s = actIf (live s) s f := by
  show ∃ f, execCloseStream w slot s = _
  unfold execCloseStream act; exact ⟨_, rfl⟩
theorem exec_streamCloseDone (slot : BitVec 12) : exec (.streamCloseDone slot) s = execStreamCloseDone slot s := rfl
theorem taken_streamCloseDone (slot : BitVec 12) : ∃ f, exec (.streamCloseDone slot) s = actIf (live s) s f := by
  show ∃ f, execStreamCloseDone slot s = _
  unfold execStreamCloseDone act; exact ⟨_, rfl⟩
theorem exec_arm (w : Win) : exec (.arm w) s = execArm w s := rfl
theorem taken_arm (w : Win) : ∃ f, exec (.arm w) s = actIf (live s) s f := by
  show ∃ f, execArm w s = _
  unfold execArm act; exact ⟨_, rfl⟩
theorem exec_cancel (w : Win) : exec (.cancel w) s = execCancel w s := rfl
theorem taken_cancel (w : Win) : ∃ f, exec (.cancel w) s = actIf (live s) s f := by
  show ∃ f, execCancel w s = _
  unfold execCancel act; exact ⟨_, rfl⟩
theorem exec_clusterRebind (die : Fin 8) (cluster : Fin 40) : exec (.clusterRebind die cluster) s = execClusterRebind die cluster s := rfl
theorem taken_clusterRebind (die : Fin 8) (cluster : Fin 40) : ∃ f, exec (.clusterRebind die cluster) s = actIf (live s) s f := by
  show ∃ f, execClusterRebind die cluster s = _
  unfold execClusterRebind act; exact ⟨_, rfl⟩
theorem exec_cringCfgWrite (w : Win) (v : Word) : exec (.cringCfgWrite w v) s = execCringCfgWrite w v s := rfl
theorem taken_cringCfgWrite (w : Win) (v : Word) : ∃ f, exec (.cringCfgWrite w v) s = actIf (live s) s f := by
  show ∃ f, execCringCfgWrite w v s = _
  unfold execCringCfgWrite act; exact ⟨_, rfl⟩
theorem exec_cringHeadWrite (w : Win) (v : Word) : exec (.cringHeadWrite w v) s = execCringHeadWrite w v s := rfl
theorem taken_cringHeadWrite (w : Win) (v : Word) : ∃ f, exec (.cringHeadWrite w v) s = actIf (live s) s f := by
  show ∃ f, execCringHeadWrite w v s = _
  unfold execCringHeadWrite act; exact ⟨_, rfl⟩
theorem exec_gemm (slot : BitVec 12) (seq : BitVec 48) : exec (.gemm slot seq) s = execGemm slot seq s := rfl
theorem taken_gemm (slot : BitVec 12) (seq : BitVec 48) : ∃ f, exec (.gemm slot seq) s = actIf (live s) s f := by
  show ∃ f, execGemm slot seq s = _
  unfold execGemm act; exact ⟨_, rfl⟩
theorem exec_projLeft (slot : BitVec 12) (seq : BitVec 48) : exec (.projLeft slot seq) s = execProjLeft slot seq s := rfl
theorem taken_projLeft (slot : BitVec 12) (seq : BitVec 48) : ∃ f, exec (.projLeft slot seq) s = actIf (live s) s f := by
  show ∃ f, execProjLeft slot seq s = _
  unfold execProjLeft act; exact ⟨_, rfl⟩
theorem exec_projRight (slot : BitVec 12) (seq : BitVec 48) : exec (.projRight slot seq) s = execProjRight slot seq s := rfl
theorem taken_projRight (slot : BitVec 12) (seq : BitVec 48) : ∃ f, exec (.projRight slot seq) s = actIf (live s) s f := by
  show ∃ f, execProjRight slot seq s = _
  unfold execProjRight act; exact ⟨_, rfl⟩
theorem exec_residual (slot : BitVec 12) (seq : BitVec 48) : exec (.residual slot seq) s = execResidual slot seq s := rfl
theorem taken_residual (slot : BitVec 12) (seq : BitVec 48) : ∃ f, exec (.residual slot seq) s = actIf (live s) s f := by
  show ∃ f, execResidual slot seq s = _
  unfold execResidual act; exact ⟨_, rfl⟩
theorem exec_formDelta (slot : BitVec 12) (seq : BitVec 48) : exec (.formDelta slot seq) s = execFormDelta slot seq s := rfl
theorem taken_formDelta (slot : BitVec 12) (seq : BitVec 48) : ∃ f, exec (.formDelta slot seq) s = actIf (live s) s f := by
  show ∃ f, execFormDelta slot seq s = _
  unfold execFormDelta act; exact ⟨_, rfl⟩
theorem exec_exprec (slot : BitVec 12) (seq : BitVec 48) : exec (.exprec slot seq) s = execExprec slot seq s := rfl
theorem taken_exprec (slot : BitVec 12) (seq : BitVec 48) : ∃ f, exec (.exprec slot seq) s = actIf (live s) s f := by
  show ∃ f, execExprec slot seq s = _
  unfold execExprec act; exact ⟨_, rfl⟩
theorem exec_quant (slot : BitVec 12) (seq : BitVec 48) : exec (.quant slot seq) s = execQuant slot seq s := rfl
theorem taken_quant (slot : BitVec 12) (seq : BitVec 48) : ∃ f, exec (.quant slot seq) s = actIf (live s) s f := by
  show ∃ f, execQuant slot seq s = _
  unfold execQuant act; exact ⟨_, rfl⟩
theorem exec_gramA (slot : BitVec 12) (seq : BitVec 48) : exec (.gramA slot seq) s = execGramA slot seq s := rfl
theorem taken_gramA (slot : BitVec 12) (seq : BitVec 48) : ∃ f, exec (.gramA slot seq) s = actIf (live s) s f := by
  show ∃ f, execGramA slot seq s = _
  unfold execGramA act; exact ⟨_, rfl⟩
theorem exec_chol (slot : BitVec 12) (seq : BitVec 48) : exec (.chol slot seq) s = execChol slot seq s := rfl
theorem taken_chol (slot : BitVec 12) (seq : BitVec 48) : ∃ f, exec (.chol slot seq) s = actIf (live s) s f := by
  show ∃ f, execChol slot seq s = _
  unfold execChol act; exact ⟨_, rfl⟩
theorem exec_trsolveA (slot : BitVec 12) (seq : BitVec 48) : exec (.trsolveA slot seq) s = execTrsolveA slot seq s := rfl
theorem taken_trsolveA (slot : BitVec 12) (seq : BitVec 48) : ∃ f, exec (.trsolveA slot seq) s = actIf (live s) s f := by
  show ∃ f, execTrsolveA slot seq s = _
  unfold execTrsolveA act; exact ⟨_, rfl⟩
theorem exec_gramB (slot : BitVec 12) (seq : BitVec 48) : exec (.gramB slot seq) s = execGramB slot seq s := rfl
theorem taken_gramB (slot : BitVec 12) (seq : BitVec 48) : ∃ f, exec (.gramB slot seq) s = actIf (live s) s f := by
  show ∃ f, execGramB slot seq s = _
  unfold execGramB act; exact ⟨_, rfl⟩
theorem exec_trsolveB (slot : BitVec 12) (seq : BitVec 48) : exec (.trsolveB slot seq) s = execTrsolveB slot seq s := rfl
theorem taken_trsolveB (slot : BitVec 12) (seq : BitVec 48) : ∃ f, exec (.trsolveB slot seq) s = actIf (live s) s f := by
  show ∃ f, execTrsolveB slot seq s = _
  unfold execTrsolveB act; exact ⟨_, rfl⟩
theorem exec_applyStep (slot : BitVec 12) (seq : BitVec 48) : exec (.applyStep slot seq) s = execApplyStep slot seq s := rfl
theorem taken_applyStep (slot : BitVec 12) (seq : BitVec 48) : ∃ f, exec (.applyStep slot seq) s = actIf (live s) s f := by
  show ∃ f, execApplyStep slot seq s = _
  unfold execApplyStep act; exact ⟨_, rfl⟩
theorem exec_convert (slot : BitVec 12) (seq : BitVec 48) : exec (.convert slot seq) s = execConvert slot seq s := rfl
theorem taken_convert (slot : BitVec 12) (seq : BitVec 48) : ∃ f, exec (.convert slot seq) s = actIf (live s) s f := by
  show ∃ f, execConvert slot seq s = _
  unfold execConvert act; exact ⟨_, rfl⟩
theorem exec_addOp (slot : BitVec 12) (seq : BitVec 48) : exec (.addOp slot seq) s = execAddOp slot seq s := rfl
theorem taken_addOp (slot : BitVec 12) (seq : BitVec 48) : ∃ f, exec (.addOp slot seq) s = actIf (live s) s f := by
  show ∃ f, execAddOp slot seq s = _
  unfold execAddOp act; exact ⟨_, rfl⟩
theorem exec_mulOp (slot : BitVec 12) (seq : BitVec 48) : exec (.mulOp slot seq) s = execMulOp slot seq s := rfl
theorem taken_mulOp (slot : BitVec 12) (seq : BitVec 48) : ∃ f, exec (.mulOp slot seq) s = actIf (live s) s f := by
  show ∃ f, execMulOp slot seq s = _
  unfold execMulOp act; exact ⟨_, rfl⟩
theorem exec_axpby (slot : BitVec 12) (seq : BitVec 48) : exec (.axpby slot seq) s = execAxpby slot seq s := rfl
theorem taken_axpby (slot : BitVec 12) (seq : BitVec 48) : ∃ f, exec (.axpby slot seq) s = actIf (live s) s f := by
  show ∃ f, execAxpby slot seq s = _
  unfold execAxpby act; exact ⟨_, rfl⟩
theorem exec_maxmin (slot : BitVec 12) (seq : BitVec 48) : exec (.maxmin slot seq) s = execMaxmin slot seq s := rfl
theorem taken_maxmin (slot : BitVec 12) (seq : BitVec 48) : ∃ f, exec (.maxmin slot seq) s = actIf (live s) s f := by
  show ∃ f, execMaxmin slot seq s = _
  unfold execMaxmin act; exact ⟨_, rfl⟩
theorem exec_drawSketch (slot : BitVec 12) (seq : BitVec 48) : exec (.drawSketch slot seq) s = execDrawSketch slot seq s := rfl
theorem taken_drawSketch (slot : BitVec 12) (seq : BitVec 48) : ∃ f, exec (.drawSketch slot seq) s = actIf (live s) s f := by
  show ∃ f, execDrawSketch slot seq s = _
  unfold execDrawSketch act; exact ⟨_, rfl⟩
theorem exec_drawStart (slot : BitVec 12) (seq : BitVec 48) : exec (.drawStart slot seq) s = execDrawStart slot seq s := rfl
theorem taken_drawStart (slot : BitVec 12) (seq : BitVec 48) : ∃ f, exec (.drawStart slot seq) s = actIf (live s) s f := by
  show ∃ f, execDrawStart slot seq s = _
  unfold execDrawStart act; exact ⟨_, rfl⟩
theorem exec_fill (slot : BitVec 12) (seq : BitVec 48) : exec (.fill slot seq) s = execFill slot seq s := rfl
theorem taken_fill (slot : BitVec 12) (seq : BitVec 48) : ∃ f, exec (.fill slot seq) s = actIf (live s) s f := by
  show ∃ f, execFill slot seq s = _
  unfold execFill act; exact ⟨_, rfl⟩
theorem exec_pass (slot : BitVec 12) (seq : BitVec 48) : exec (.pass slot seq) s = execPass slot seq s := rfl
theorem taken_pass (slot : BitVec 12) (seq : BitVec 48) : ∃ f, exec (.pass slot seq) s = actIf (live s) s f := by
  show ∃ f, execPass slot seq s = _
  unfold execPass act; exact ⟨_, rfl⟩
theorem exec_encodeCur (slot : BitVec 12) (seq : BitVec 48) : exec (.encodeCur slot seq) s = execEncodeCur slot seq s := rfl
theorem taken_encodeCur (slot : BitVec 12) (seq : BitVec 48) : ∃ f, exec (.encodeCur slot seq) s = actIf (live s) s f := by
  show ∃ f, execEncodeCur slot seq s = _
  unfold execEncodeCur act; exact ⟨_, rfl⟩
theorem exec_encodeSlot (slot : BitVec 12) (seq : BitVec 48) : exec (.encodeSlot slot seq) s = execEncodeSlot slot seq s := rfl
theorem taken_encodeSlot (slot : BitVec 12) (seq : BitVec 48) : ∃ f, exec (.encodeSlot slot seq) s = actIf (live s) s f := by
  show ∃ f, execEncodeSlot slot seq s = _
  unfold execEncodeSlot act; exact ⟨_, rfl⟩
theorem exec_decode (slot : BitVec 12) (seq : BitVec 48) : exec (.decode slot seq) s = execDecode slot seq s := rfl
theorem taken_decode (slot : BitVec 12) (seq : BitVec 48) : ∃ f, exec (.decode slot seq) s = actIf (live s) s f := by
  show ∃ f, execDecode slot seq s = _
  unfold execDecode act; exact ⟨_, rfl⟩
theorem exec_collective (slot : BitVec 12) (seq : BitVec 48) : exec (.collective slot seq) s = execCollective slot seq s := rfl
theorem taken_collective (slot : BitVec 12) (seq : BitVec 48) : ∃ f, exec (.collective slot seq) s = actIf (live s) s f := by
  show ∃ f, execCollective slot seq s = _
  unfold execCollective act; exact ⟨_, rfl⟩
theorem exec_make (slot : BitVec 12) (seq : BitVec 48) : exec (.make slot seq) s = execMake slot seq s := rfl
theorem taken_make (slot : BitVec 12) (seq : BitVec 48) : ∃ f, exec (.make slot seq) s = actIf (live s) s f := by
  show ∃ f, execMake slot seq s = _
  unfold execMake act; exact ⟨_, rfl⟩
theorem exec_check (slot : BitVec 12) (seq : BitVec 48) : exec (.check slot seq) s = execCheck slot seq s := rfl
theorem taken_check (slot : BitVec 12) (seq : BitVec 48) : ∃ f, exec (.check slot seq) s = actIf (live s) s f := by
  show ∃ f, execCheck slot seq s = _
  unfold execCheck act; exact ⟨_, rfl⟩
theorem exec_fabricOut (slot : BitVec 12) (seq : BitVec 48) : exec (.fabricOut slot seq) s = execFabricOut slot seq s := rfl
theorem taken_fabricOut (slot : BitVec 12) (seq : BitVec 48) : ∃ f, exec (.fabricOut slot seq) s = actIf (live s) s f := by
  show ∃ f, execFabricOut slot seq s = _
  unfold execFabricOut act; exact ⟨_, rfl⟩
theorem exec_lineOut (slot : BitVec 12) (seq : BitVec 48) : exec (.lineOut slot seq) s = execLineOut slot seq s := rfl
theorem taken_lineOut (slot : BitVec 12) (seq : BitVec 48) : ∃ f, exec (.lineOut slot seq) s = actIf (live s) s f := by
  show ∃ f, execLineOut slot seq s = _
  unfold execLineOut act; exact ⟨_, rfl⟩
theorem exec_hostOut (slot : BitVec 12) (seq : BitVec 48) : exec (.hostOut slot seq) s = execHostOut slot seq s := rfl
theorem taken_hostOut (slot : BitVec 12) (seq : BitVec 48) : ∃ f, exec (.hostOut slot seq) s = actIf (live s) s f := by
  show ∃ f, execHostOut slot seq s = _
  unfold execHostOut act; exact ⟨_, rfl⟩
theorem exec_load (w : Win) (v : Word) : exec (.load w v) s = execLoad w v s := rfl
theorem taken_load (w : Win) (v : Word) : ∃ f, exec (.load w v) s = actIf (live s) s f := by
  show ∃ f, execLoad w v s = _
  unfold execLoad act; exact ⟨_, rfl⟩
theorem exec_unload (w : Win) (v : Word) : exec (.unload w v) s = execUnload w v s := rfl
theorem taken_unload (w : Win) (v : Word) : ∃ f, exec (.unload w v) s = actIf (live s) s f := by
  show ∃ f, execUnload w v s = _
  unfold execUnload act; exact ⟨_, rfl⟩
theorem exec_tableLoadMessage (port : Fin 7) (node : BitVec 16) (slot : Fin 8) (gen : Fin 32) (bytes : List Byte) : exec (.tableLoadMessage port node slot gen bytes) s = execTableLoadMessage port node slot gen bytes s := rfl
theorem taken_tableLoadMessage (port : Fin 7) (node : BitVec 16) (slot : Fin 8) (gen : Fin 32) (bytes : List Byte) : ∃ f, exec (.tableLoadMessage port node slot gen bytes) s = actIf (live s) s f := by
  show ∃ f, execTableLoadMessage port node slot gen bytes s = _
  unfold execTableLoadMessage act; exact ⟨_, rfl⟩
theorem exec_tableInstall (ctx : Fin 128) (slot : Fin 8) : exec (.tableInstall ctx slot) s = execTableInstall ctx slot s := rfl
theorem taken_tableInstall (ctx : Fin 128) (slot : Fin 8) : ∃ f, exec (.tableInstall ctx slot) s = actIf (live s) s f := by
  show ∃ f, execTableInstall ctx slot s = _
  unfold execTableInstall act; exact ⟨_, rfl⟩
theorem exec_tableLoadAck (node : BitVec 16) (slot : Fin 8) (gen : Fin 32) : exec (.tableLoadAck node slot gen) s = execTableLoadAck node slot gen s := rfl
theorem taken_tableLoadAck (node : BitVec 16) (slot : Fin 8) (gen : Fin 32) : ∃ f, exec (.tableLoadAck node slot gen) s = actIf (live s) s f := by
  show ∃ f, execTableLoadAck node slot gen s = _
  unfold execTableLoadAck act; exact ⟨_, rfl⟩
theorem exec_tableLoadRefusal (node : BitVec 16) (slot : Fin 8) (gen : Fin 32) : exec (.tableLoadRefusal node slot gen) s = execTableLoadRefusal node slot gen s := rfl
theorem taken_tableLoadRefusal (node : BitVec 16) (slot : Fin 8) (gen : Fin 32) : ∃ f, exec (.tableLoadRefusal node slot gen) s = actIf (live s) s f := by
  show ∃ f, execTableLoadRefusal node slot gen s = _
  unfold execTableLoadRefusal act; exact ⟨_, rfl⟩
theorem exec_loadTimeout : exec .loadTimeout s = execLoadTimeout s := rfl
theorem taken_loadTimeout : ∃ f, exec .loadTimeout s = actIf (live s) s f := by
  show ∃ f, execLoadTimeout s = _
  unfold execLoadTimeout act; exact ⟨_, rfl⟩
theorem exec_codecCtxCfgWrite (w : Win) (v : Word) : exec (.codecCtxCfgWrite w v) s = execCodecCtxCfgWrite w v s := rfl
theorem taken_codecCtxCfgWrite (w : Win) (v : Word) : ∃ f, exec (.codecCtxCfgWrite w v) s = actIf (live s) s f := by
  show ∃ f, execCodecCtxCfgWrite w v s = _
  unfold execCodecCtxCfgWrite act; exact ⟨_, rfl⟩
theorem exec_regionWrite (w : Win) : exec (.regionWrite w) s = execRegionWrite w s := rfl
theorem taken_regionWrite (w : Win) : ∃ f, exec (.regionWrite w) s = actIf (live s) s f := by
  show ∃ f, execRegionWrite w s = _
  unfold execRegionWrite act; exact ⟨_, rfl⟩
theorem exec_regionRead (w : Win) : exec (.regionRead w) s = execRegionRead w s := rfl
theorem taken_regionRead (w : Win) : ∃ f, exec (.regionRead w) s = actIf (live s) s f := by
  show ∃ f, execRegionRead w s = _
  unfold execRegionRead act; exact ⟨_, rfl⟩
theorem exec_outerGateWrite (w : Win) (v : Word) : exec (.outerGateWrite w v) s = execOuterGateWrite w v s := rfl
theorem taken_outerGateWrite (w : Win) (v : Word) : ∃ f, exec (.outerGateWrite w v) s = actIf (live s) s f := by
  show ∃ f, execOuterGateWrite w v s = _
  unfold execOuterGateWrite act; exact ⟨_, rfl⟩
theorem exec_patrolScrub (stack : Fin 16) : exec (.patrolScrub stack) s = execPatrolScrub stack s := rfl
theorem taken_patrolScrub (stack : Fin 16) : ∃ f, exec (.patrolScrub stack) s = actIf (live s) s f := by
  show ∃ f, execPatrolScrub stack s = _
  unfold execPatrolScrub act; exact ⟨_, rfl⟩
theorem exec_alloc (w : Win) (v : Word) : exec (.alloc w v) s = execAlloc w v s := rfl
theorem taken_alloc (w : Win) (v : Word) : ∃ f, exec (.alloc w v) s = actIf (live s) s f := by
  show ∃ f, execAlloc w v s = _
  unfold execAlloc act; exact ⟨_, rfl⟩
theorem exec_addref (w : Win) (v : Word) : exec (.addref w v) s = execAddref w v s := rfl
theorem taken_addref (w : Win) (v : Word) : ∃ f, exec (.addref w v) s = actIf (live s) s f := by
  show ∃ f, execAddref w v s = _
  unfold execAddref act; exact ⟨_, rfl⟩
theorem exec_release (w : Win) (v : Word) : exec (.release w v) s = execRelease w v s := rfl
theorem taken_release (w : Win) (v : Word) : ∃ f, exec (.release w v) s = actIf (live s) s f := by
  show ∃ f, execRelease w v s = _
  unfold execRelease act; exact ⟨_, rfl⟩
theorem exec_query (w : Win) (v : Word) : exec (.query w v) s = execQuery w v s := rfl
theorem taken_query (w : Win) (v : Word) : ∃ f, exec (.query w v) s = actIf (live s) s f := by
  show ∃ f, execQuery w v s = _
  unfold execQuery act; exact ⟨_, rfl⟩
theorem exec_rebuild (w : Win) (v : Word) : exec (.rebuild w v) s = execRebuild w v s := rfl
theorem taken_rebuild (w : Win) (v : Word) : ∃ f, exec (.rebuild w v) s = actIf (live s) s f := by
  show ∃ f, execRebuild w v s = _
  unfold execRebuild act; exact ⟨_, rfl⟩
theorem exec_rebuildDone (pool : Fin 5) (seg : Fin 8) : exec (.rebuildDone pool seg) s = execRebuildDone pool seg s := rfl
theorem taken_rebuildDone (pool : Fin 5) (seg : Fin 8) : ∃ f, exec (.rebuildDone pool seg) s = actIf (live s) s f := by
  show ∃ f, execRebuildDone pool seg s = _
  unfold execRebuildDone act; exact ⟨_, rfl⟩
theorem exec_fabricFrameRx (port : Fin 7) (bytes : List Byte) : exec (.fabricFrameRx port bytes) s = execFabricFrameRx port bytes s := rfl
theorem taken_fabricFrameRx (port : Fin 7) (bytes : List Byte) : ∃ f, exec (.fabricFrameRx port bytes) s = actIf (live s) s f := by
  show ∃ f, execFabricFrameRx port bytes s = _
  unfold execFabricFrameRx act; exact ⟨_, rfl⟩
theorem exec_pauseRx (port : Fin 4) (prio : Fin 8) (on : Bool) : exec (.pauseRx port prio on) s = execPauseRx port prio on s := rfl
theorem taken_pauseRx (port : Fin 4) (prio : Fin 8) (on : Bool) : ∃ f, exec (.pauseRx port prio on) s = actIf (live s) s f := by
  show ∃ f, execPauseRx port prio on s = _
  unfold execPauseRx act; exact ⟨_, rfl⟩
theorem exec_frameEgress (port : Fin 7) : exec (.frameEgress port) s = execFrameEgress port s := rfl
theorem taken_frameEgress (port : Fin 7) : ∃ f, exec (.frameEgress port) s = actIf (live s) s f := by
  show ∃ f, execFrameEgress port s = _
  unfold execFrameEgress act; exact ⟨_, rfl⟩
theorem exec_frameAgeOut (port : Fin 7) (cls : Fin 8) : exec (.frameAgeOut port cls) s = execFrameAgeOut port cls s := rfl
theorem taken_frameAgeOut (port : Fin 7) (cls : Fin 8) : ∃ f, exec (.frameAgeOut port cls) s = actIf (live s) s f := by
  show ∃ f, execFrameAgeOut port cls s = _
  unfold execFrameAgeOut act; exact ⟨_, rfl⟩
theorem exec_grant (port : Fin 7) (bytes : List Byte) : exec (.grant port bytes) s = execGrant port bytes s := rfl
theorem taken_grant (port : Fin 7) (bytes : List Byte) : ∃ f, exec (.grant port bytes) s = actIf (live s) s f := by
  show ∃ f, execGrant port bytes s = _
  unfold execGrant act; exact ⟨_, rfl⟩
theorem exec_gclLoad (w : Win) (v : Word) : exec (.gclLoad w v) s = execGclLoad w v s := rfl
theorem taken_gclLoad (w : Win) (v : Word) : ∃ f, exec (.gclLoad w v) s = actIf (live s) s f := by
  show ∃ f, execGclLoad w v s = _
  unfold execGclLoad act; exact ⟨_, rfl⟩
theorem exec_gclOff (w : Win) (v : Word) : exec (.gclOff w v) s = execGclOff w v s := rfl
theorem taken_gclOff (w : Win) (v : Word) : ∃ f, exec (.gclOff w v) s = actIf (live s) s f := by
  show ∃ f, execGclOff w v s = _
  unfold execGclOff act; exact ⟨_, rfl⟩
theorem exec_subReload (w : Win) (v : Word) : exec (.subReload w v) s = execSubReload w v s := rfl
theorem taken_subReload (w : Win) (v : Word) : ∃ f, exec (.subReload w v) s = actIf (live s) s f := by
  show ∃ f, execSubReload w v s = _
  unfold execSubReload act; exact ⟨_, rfl⟩
theorem exec_groupEnable (w : Win) : exec (.groupEnable w) s = execGroupEnable w s := rfl
theorem taken_groupEnable (w : Win) : ∃ f, exec (.groupEnable w) s = actIf (live s) s f := by
  show ∃ f, execGroupEnable w s = _
  unfold execGroupEnable act; exact ⟨_, rfl⟩
theorem exec_groupDisable (w : Win) : exec (.groupDisable w) s = execGroupDisable w s := rfl
theorem taken_groupDisable (w : Win) : ∃ f, exec (.groupDisable w) s = actIf (live s) s f := by
  show ∃ f, execGroupDisable w s = _
  unfold execGroupDisable act; exact ⟨_, rfl⟩
theorem exec_groupReload (w : Win) : exec (.groupReload w) s = execGroupReload w s := rfl
theorem taken_groupReload (w : Win) : ∃ f, exec (.groupReload w) s = actIf (live s) s f := by
  show ∃ f, execGroupReload w s = _
  unfold execGroupReload act; exact ⟨_, rfl⟩
theorem exec_collDb (w : Win) (v : Word) : exec (.collDb w v) s = execCollDb w v s := rfl
theorem taken_collDb (w : Win) (v : Word) : ∃ f, exec (.collDb w v) s = actIf (live s) s f := by
  show ∃ f, execCollDb w v s = _
  unfold execCollDb act; exact ⟨_, rfl⟩
theorem exec_exchange : exec .exchange s = execExchange s := rfl
theorem taken_exchange : ∃ f, exec .exchange s = actIf (live s) s f := by
  show ∃ f, execExchange s = _
  unfold execExchange act; exact ⟨_, rfl⟩
theorem exec_allReduce : exec .allReduce s = execAllReduce s := rfl
theorem taken_allReduce : ∃ f, exec .allReduce s = actIf (live s) s f := by
  show ∃ f, execAllReduce s = _
  unfold execAllReduce act; exact ⟨_, rfl⟩
theorem exec_reduceScatter : exec .reduceScatter s = execReduceScatter s := rfl
theorem taken_reduceScatter : ∃ f, exec .reduceScatter s = actIf (live s) s f := by
  show ∃ f, execReduceScatter s = _
  unfold execReduceScatter act; exact ⟨_, rfl⟩
theorem exec_allGather : exec .allGather s = execAllGather s := rfl
theorem taken_allGather : ∃ f, exec .allGather s = actIf (live s) s f := by
  show ∃ f, execAllGather s = _
  unfold execAllGather act; exact ⟨_, rfl⟩
theorem exec_broadcast : exec .broadcast s = execBroadcast s := rfl
theorem taken_broadcast : ∃ f, exec .broadcast s = actIf (live s) s f := by
  show ∃ f, execBroadcast s = _
  unfold execBroadcast act; exact ⟨_, rfl⟩
theorem exec_allToAll : exec .allToAll s = execAllToAll s := rfl
theorem taken_allToAll : ∃ f, exec .allToAll s = actIf (live s) s f := by
  show ∃ f, execAllToAll s = _
  unfold execAllToAll act; exact ⟨_, rfl⟩
theorem exec_allToAllV : exec .allToAllV s = execAllToAllV s := rfl
theorem taken_allToAllV : ∃ f, exec .allToAllV s = actIf (live s) s f := by
  show ∃ f, execAllToAllV s = _
  unfold execAllToAllV act; exact ⟨_, rfl⟩
theorem exec_allMax : exec .allMax s = execAllMax s := rfl
theorem taken_allMax : ∃ f, exec .allMax s = actIf (live s) s f := by
  show ∃ f, execAllMax s = _
  unfold execAllMax act; exact ⟨_, rfl⟩
theorem exec_allMin : exec .allMin s = execAllMin s := rfl
theorem taken_allMin : ∃ f, exec .allMin s = actIf (live s) s f := by
  show ∃ f, execAllMin s = _
  unfold execAllMin act; exact ⟨_, rfl⟩
theorem exec_exponentRecordMessage (node : BitVec 16) (group : BitVec 12) (bytes : List Byte) : exec (.exponentRecordMessage node group bytes) s = execExponentRecordMessage node group bytes s := rfl
theorem taken_exponentRecordMessage (node : BitVec 16) (group : BitVec 12) (bytes : List Byte) : ∃ f, exec (.exponentRecordMessage node group bytes) s = actIf (live s) s f := by
  show ∃ f, execExponentRecordMessage node group bytes s = _
  unfold execExponentRecordMessage act; exact ⟨_, rfl⟩
theorem exec_checkMessage (node : BitVec 16) (group : BitVec 12) (round : BitVec 48) (chunk : DWord) (crc : DWord) : exec (.checkMessage node group round chunk crc) s = execCheckMessage node group round chunk crc s := rfl
theorem taken_checkMessage (node : BitVec 16) (group : BitVec 12) (round : BitVec 48) (chunk : DWord) (crc : DWord) : ∃ f, exec (.checkMessage node group round chunk crc) s = actIf (live s) s f := by
  show ∃ f, execCheckMessage node group round chunk crc s = _
  unfold execCheckMessage act; exact ⟨_, rfl⟩
theorem exec_checkAck (node : BitVec 16) (group : BitVec 12) (round : BitVec 48) (chunk : DWord) : exec (.checkAck node group round chunk) s = execCheckAck node group round chunk s := rfl
theorem taken_checkAck (node : BitVec 16) (group : BitVec 12) (round : BitVec 48) (chunk : DWord) : ∃ f, exec (.checkAck node group round chunk) s = actIf (live s) s f := by
  show ∃ f, execCheckAck node group round chunk s = _
  unfold execCheckAck act; exact ⟨_, rfl⟩
theorem exec_checkTimeout : exec .checkTimeout s = execCheckTimeout s := rfl
theorem taken_checkTimeout : ∃ f, exec .checkTimeout s = actIf (live s) s f := by
  show ∃ f, execCheckTimeout s = _
  unfold execCheckTimeout act; exact ⟨_, rfl⟩
theorem exec_recheck : exec .recheck s = execRecheck s := rfl
theorem taken_recheck : ∃ f, exec .recheck s = actIf (live s) s f := by
  show ∃ f, execRecheck s = _
  unfold execRecheck act; exact ⟨_, rfl⟩
theorem exec_abort (w : Win) : exec (.abort w) s = execAbort w s := rfl
theorem taken_abort (w : Win) : ∃ f, exec (.abort w) s = actIf (live s) s f := by
  show ∃ f, execAbort w s = _
  unfold execAbort act; exact ⟨_, rfl⟩
theorem exec_abortAnnounce (round : BitVec 48) : exec (.abortAnnounce round) s = execAbortAnnounce round s := rfl
theorem taken_abortAnnounce (round : BitVec 48) : ∃ f, exec (.abortAnnounce round) s = actIf (live s) s f := by
  show ∃ f, execAbortAnnounce round s = _
  unfold execAbortAnnounce act; exact ⟨_, rfl⟩
theorem exec_roundReplay : exec .roundReplay s = execRoundReplay s := rfl
theorem taken_roundReplay : ∃ f, exec .roundReplay s = actIf (live s) s f := by
  show ∃ f, execRoundReplay s = _
  unfold execRoundReplay act; exact ⟨_, rfl⟩
theorem exec_lineFrameTx (md : Fin 2) (sc : Byte) : exec (.lineFrameTx md sc) s = execLineFrameTx md sc s := rfl
theorem taken_lineFrameTx (md : Fin 2) (sc : Byte) : ∃ f, exec (.lineFrameTx md sc) s = actIf (live s) s f := by
  show ∃ f, execLineFrameTx md sc s = _
  unfold execLineFrameTx act; exact ⟨_, rfl⟩
theorem exec_lineFrameRx (md : Fin 2) (bytes : List Byte) : exec (.lineFrameRx md bytes) s = execLineFrameRx md bytes s := rfl
theorem taken_lineFrameRx (md : Fin 2) (bytes : List Byte) : ∃ f, exec (.lineFrameRx md bytes) s = actIf (live s) s f := by
  show ∃ f, execLineFrameRx md bytes s = _
  unfold execLineFrameRx act; exact ⟨_, rfl⟩
theorem exec_reacquireTimeout (md : Fin 2) : exec (.reacquireTimeout md) s = execReacquireTimeout md s := rfl
theorem taken_reacquireTimeout (md : Fin 2) : ∃ f, exec (.reacquireTimeout md) s = actIf (live s) s f := by
  show ∃ f, execReacquireTimeout md s = _
  unfold execReacquireTimeout act; exact ⟨_, rfl⟩
theorem exec_secondClassify (md : Fin 2) : exec (.secondClassify md) s = execSecondClassify md s := rfl
theorem taken_secondClassify (md : Fin 2) : ∃ f, exec (.secondClassify md) s = actIf (live s) s f := by
  show ∃ f, execSecondClassify md s = _
  unfold execSecondClassify act; exact ⟨_, rfl⟩
theorem exec_clearCur (w : Win) (md : Fin 2) : exec (.clearCur w md) s = execClearCur w md s := rfl
theorem taken_clearCur (w : Win) (md : Fin 2) : ∃ f, exec (.clearCur w md) s = actIf (live s) s f := by
  show ∃ f, execClearCur w md s = _
  unfold execClearCur act; exact ⟨_, rfl⟩
theorem exec_rtoExpire (md : Fin 2) (dir : Fin 4) : exec (.rtoExpire md dir) s = execRtoExpire md dir s := rfl
theorem taken_rtoExpire (md : Fin 2) (dir : Fin 4) : ∃ f, exec (.rtoExpire md dir) s = actIf (live s) s f := by
  show ∃ f, execRtoExpire md dir s = _
  unfold execRtoExpire act; exact ⟨_, rfl⟩
theorem exec_loadAbandon (md : Fin 2) (dir : Fin 4) : exec (.loadAbandon md dir) s = execLoadAbandon md dir s := rfl
theorem taken_loadAbandon (md : Fin 2) (dir : Fin 4) : ∃ f, exec (.loadAbandon md dir) s = actIf (live s) s f := by
  show ∃ f, execLoadAbandon md dir s = _
  unfold execLoadAbandon act; exact ⟨_, rfl⟩
theorem exec_heldLoadRelease (md : Fin 2) (dir : Fin 4) : exec (.heldLoadRelease md dir) s = execHeldLoadRelease md dir s := rfl
theorem taken_heldLoadRelease (md : Fin 2) (dir : Fin 4) : ∃ f, exec (.heldLoadRelease md dir) s = actIf (live s) s f := by
  show ∃ f, execHeldLoadRelease md dir s = _
  unfold execHeldLoadRelease act; exact ⟨_, rfl⟩
theorem exec_laneLockLoss (port : Fin 6) (lane : Fin 4) (rx : Bool) : exec (.laneLockLoss port lane rx) s = execLaneLockLoss port lane rx s := rfl
theorem taken_laneLockLoss (port : Fin 6) (lane : Fin 4) (rx : Bool) : ∃ f, exec (.laneLockLoss port lane rx) s = actIf (live s) s f := by
  show ∃ f, execLaneLockLoss port lane rx s = _
  unfold execLaneLockLoss act; exact ⟨_, rfl⟩
theorem exec_laneHoldExpire (port : Fin 6) (lane : Fin 4) (rx : Bool) : exec (.laneHoldExpire port lane rx) s = execLaneHoldExpire port lane rx s := rfl
theorem taken_laneHoldExpire (port : Fin 6) (lane : Fin 4) (rx : Bool) : ∃ f, exec (.laneHoldExpire port lane rx) s = actIf (live s) s f := by
  show ∃ f, execLaneHoldExpire port lane rx s = _
  unfold execLaneHoldExpire act; exact ⟨_, rfl⟩
theorem exec_laneMessage (md : Fin 2) (lanes : Fin 5) (tick : DWord) : exec (.laneMessage md lanes tick) s = execLaneMessage md lanes tick s := rfl
theorem taken_laneMessage (md : Fin 2) (lanes : Fin 5) (tick : DWord) : ∃ f, exec (.laneMessage md lanes tick) s = actIf (live s) s f := by
  show ∃ f, execLaneMessage md lanes tick s = _
  unfold execLaneMessage act; exact ⟨_, rfl⟩
theorem exec_ldlvLaneCmdWrite (w : Win) (v : Word) : exec (.ldlvLaneCmdWrite w v) s = execLdlvLaneCmdWrite w v s := rfl
theorem taken_ldlvLaneCmdWrite (w : Win) (v : Word) : ∃ f, exec (.ldlvLaneCmdWrite w v) s = actIf (live s) s f := by
  show ∃ f, execLdlvLaneCmdWrite w v s = _
  unfold execLdlvLaneCmdWrite act; exact ⟨_, rfl⟩
theorem exec_install (w : Win) (v : Word) : exec (.install w v) s = execInstall w v s := rfl
theorem taken_install (w : Win) (v : Word) : ∃ f, exec (.install w v) s = actIf (live s) s f := by
  show ∃ f, execInstall w v s = _
  unfold execInstall act; exact ⟨_, rfl⟩
theorem exec_switchKey (w : Win) (v : Word) : exec (.switchKey w v) s = execSwitchKey w v s := rfl
theorem taken_switchKey (w : Win) (v : Word) : ∃ f, exec (.switchKey w v) s = actIf (live s) s f := by
  show ∃ f, execSwitchKey w v s = _
  unfold execSwitchKey act; exact ⟨_, rfl⟩
theorem exec_retire (w : Win) (v : Word) : exec (.retire w v) s = execRetire w v s := rfl
theorem taken_retire (w : Win) (v : Word) : ∃ f, exec (.retire w v) s = actIf (live s) s f := by
  show ∃ f, execRetire w v s = _
  unfold execRetire act; exact ⟨_, rfl⟩
theorem exec_erase (w : Win) (v : Word) : exec (.erase w v) s = execErase w v s := rfl
theorem taken_erase (w : Win) (v : Word) : ∃ f, exec (.erase w v) s = actIf (live s) s f := by
  show ∃ f, execErase w v s = _
  unfold execErase act; exact ⟨_, rfl⟩
theorem exec_keyRetirement (md : Fin 2) (dir : Fin 4) : exec (.keyRetirement md dir) s = execKeyRetirement md dir s := rfl
theorem taken_keyRetirement (md : Fin 2) (dir : Fin 4) : ∃ f, exec (.keyRetirement md dir) s = actIf (live s) s f := by
  show ∃ f, execKeyRetirement md dir s = _
  unfold execKeyRetirement act; exact ⟨_, rfl⟩
theorem exec_keyRetire (md : Fin 2) (dir : Fin 4) (slot : Fin 2) (epoch : Word) : exec (.keyRetire md dir slot epoch) s = execKeyRetire md dir slot epoch s := rfl
theorem taken_keyRetire (md : Fin 2) (dir : Fin 4) (slot : Fin 2) (epoch : Word) : ∃ f, exec (.keyRetire md dir slot epoch) s = actIf (live s) s f := by
  show ∃ f, execKeyRetire md dir slot epoch s = _
  unfold execKeyRetire act; exact ⟨_, rfl⟩
theorem exec_sealInstall (w : Win) (v : Word) : exec (.sealInstall w v) s = execSealInstall w v s := rfl
theorem taken_sealInstall (w : Win) (v : Word) : ∃ f, exec (.sealInstall w v) s = actIf (live s) s f := by
  show ∃ f, execSealInstall w v s = _
  unfold execSealInstall act; exact ⟨_, rfl⟩
theorem exec_sealErase (w : Win) (v : Word) : exec (.sealErase w v) s = execSealErase w v s := rfl
theorem taken_sealErase (w : Win) (v : Word) : ∃ f, exec (.sealErase w v) s = actIf (live s) s f := by
  show ∃ f, execSealErase w v s = _
  unfold execSealErase act; exact ⟨_, rfl⟩
theorem exec_commandFrame (md : Fin 2) : exec (.commandFrame md) s = execCommandFrame md s := rfl
theorem taken_commandFrame (md : Fin 2) : ∃ f, exec (.commandFrame md) s = actIf (live s) s f := by
  show ∃ f, execCommandFrame md s = _
  unfold execCommandFrame act; exact ⟨_, rfl⟩
theorem exec_monitorFrame (md : Fin 2) (bytes : List Byte) : exec (.monitorFrame md bytes) s = execMonitorFrame md bytes s := rfl
theorem taken_monitorFrame (md : Fin 2) (bytes : List Byte) : ∃ f, exec (.monitorFrame md bytes) s = actIf (live s) s f := by
  show ∃ f, execMonitorFrame md bytes s = _
  unfold execMonitorFrame act; exact ⟨_, rfl⟩
theorem exec_lockLoopUpdate (md : Fin 2) : exec (.lockLoopUpdate md) s = execLockLoopUpdate md s := rfl
theorem taken_lockLoopUpdate (md : Fin 2) : ∃ f, exec (.lockLoopUpdate md) s = actIf (live s) s f := by
  show ∃ f, execLockLoopUpdate md s = _
  unfold execLockLoopUpdate act; exact ⟨_, rfl⟩
theorem exec_tuningComplete (md : Fin 2) : exec (.tuningComplete md) s = execTuningComplete md s := rfl
theorem taken_tuningComplete (md : Fin 2) : ∃ f, exec (.tuningComplete md) s = actIf (live s) s f := by
  show ∃ f, execTuningComplete md s = _
  unfold execTuningComplete act; exact ⟨_, rfl⟩
theorem exec_acquisitionTimeout (md : Fin 2) : exec (.acquisitionTimeout md) s = execAcquisitionTimeout md s := rfl
theorem taken_acquisitionTimeout (md : Fin 2) : ∃ f, exec (.acquisitionTimeout md) s = actIf (live s) s f := by
  show ∃ f, execAcquisitionTimeout md s = _
  unfold execAcquisitionTimeout act; exact ⟨_, rfl⟩
theorem exec_acquire (w : Win) (v : Word) : exec (.acquire w v) s = execAcquire w v s := rfl
theorem taken_acquire (w : Win) (v : Word) : ∃ f, exec (.acquire w v) s = actIf (live s) s f := by
  show ∃ f, execAcquire w v s = _
  unfold execAcquire act; exact ⟨_, rfl⟩
theorem exec_dark (w : Win) (v : Word) : exec (.dark w v) s = execDark w v s := rfl
theorem taken_dark (w : Win) (v : Word) : ∃ f, exec (.dark w v) s = actIf (live s) s f := by
  show ∃ f, execDark w v s = _
  unfold execDark act; exact ⟨_, rfl⟩
theorem exec_clearFailed (w : Win) (v : Word) : exec (.clearFailed w v) s = execClearFailed w v s := rfl
theorem taken_clearFailed (w : Win) (v : Word) : ∃ f, exec (.clearFailed w v) s = actIf (live s) s f := by
  show ∃ f, execClearFailed w v s = _
  unfold execClearFailed act; exact ⟨_, rfl⟩
theorem exec_push (w : Win) (v : Word) : exec (.push w v) s = execPush w v s := rfl
theorem taken_push (w : Win) (v : Word) : ∃ f, exec (.push w v) s = actIf (live s) s f := by
  show ∃ f, execPush w v s = _
  unfold execPush act; exact ⟨_, rfl⟩
theorem exec_flush (w : Win) (v : Word) : exec (.flush w v) s = execFlush w v s := rfl
theorem taken_flush (w : Win) (v : Word) : ∃ f, exec (.flush w v) s = actIf (live s) s f := by
  show ∃ f, execFlush w v s = _
  unfold execFlush act; exact ⟨_, rfl⟩
theorem exec_steerMiss (md : Fin 2) (side : Bool) : exec (.steerMiss md side) s = execSteerMiss md side s := rfl
theorem taken_steerMiss (md : Fin 2) (side : Bool) : ∃ f, exec (.steerMiss md side) s = actIf (live s) s f := by
  show ∃ f, execSteerMiss md side s = _
  unfold execSteerMiss act; exact ⟨_, rfl⟩
theorem exec_cmisGo (w : Win) (v : Word) : exec (.cmisGo w v) s = execCmisGo w v s := rfl
theorem taken_cmisGo (w : Win) (v : Word) : ∃ f, exec (.cmisGo w v) s = actIf (live s) s f := by
  show ∃ f, execCmisGo w v s = _
  unfold execCmisGo act; exact ⟨_, rfl⟩
theorem exec_cmisAccessDone (md : Fin 2) (ok : Bool) (data : Byte) : exec (.cmisAccessDone md ok data) s = execCmisAccessDone md ok data s := rfl
theorem taken_cmisAccessDone (md : Fin 2) (ok : Bool) (data : Byte) : ∃ f, exec (.cmisAccessDone md ok data) s = actIf (live s) s f := by
  show ∃ f, execCmisAccessDone md ok data s = _
  unfold execCmisAccessDone act; exact ⟨_, rfl⟩
theorem exec_cmisPoll (md : Fin 2) (poll : CmisPoll) : exec (.cmisPoll md poll) s = execCmisPoll md poll s := rfl
theorem taken_cmisPoll (md : Fin 2) (poll : CmisPoll) : ∃ f, exec (.cmisPoll md poll) s = actIf (live s) s f := by
  show ∃ f, execCmisPoll md poll s = _
  unfold execCmisPoll act; exact ⟨_, rfl⟩
theorem exec_beaconSend : exec .beaconSend s = execBeaconSend s := rfl
theorem taken_beaconSend : ∃ f, exec .beaconSend s = actIf (live s) s f := by
  show ∃ f, execBeaconSend s = _
  unfold execBeaconSend act; exact ⟨_, rfl⟩
theorem exec_beacon (h : SiteHdr) (crc : DWord) (joined : Word) (committed : BitVec 48) (grant : Option DWord) : exec (.beacon h crc joined committed grant) s = execBeacon h crc joined committed grant s := rfl
theorem taken_beacon (h : SiteHdr) (crc : DWord) (joined : Word) (committed : BitVec 48) (grant : Option DWord) : ∃ f, exec (.beacon h crc joined committed grant) s = actIf (live s) s f := by
  show ∃ f, execBeacon h crc joined committed grant s = _
  unfold execBeacon act; exact ⟨_, rfl⟩
theorem exec_siteUnreachable (site : BitVec 8) : exec (.siteUnreachable site) s = execSiteUnreachable site s := rfl
theorem taken_siteUnreachable (site : BitVec 8) : ∃ f, exec (.siteUnreachable site) s = actIf (live s) s f := by
  show ∃ f, execSiteUnreachable site s = _
  unfold execSiteUnreachable act; exact ⟨_, rfl⟩
theorem exec_propose (h : SiteHdr) (epoch : Word) (view : Word) : exec (.propose h epoch view) s = execPropose h epoch view s := rfl
theorem taken_propose (h : SiteHdr) (epoch : Word) (view : Word) : ∃ f, exec (.propose h epoch view) s = actIf (live s) s f := by
  show ∃ f, execPropose h epoch view s = _
  unfold execPropose act; exact ⟨_, rfl⟩
theorem exec_join (h : SiteHdr) (epoch : Word) (committed : BitVec 48) (acc : Option Accepted) : exec (.join h epoch committed acc) s = execJoin h epoch committed acc s := rfl
theorem taken_join (h : SiteHdr) (epoch : Word) (committed : BitVec 48) (acc : Option Accepted) : ∃ f, exec (.join h epoch committed acc) s = actIf (live s) s f := by
  show ∃ f, execJoin h epoch committed acc s = _
  unfold execJoin act; exact ⟨_, rfl⟩
theorem exec_viewTimeout : exec .viewTimeout s = execViewTimeout s := rfl
theorem taken_viewTimeout : ∃ f, exec .viewTimeout s = actIf (live s) s f := by
  show ∃ f, execViewTimeout s = _
  unfold execViewTimeout act; exact ⟨_, rfl⟩
theorem exec_view (h : SiteHdr) (epoch : Word) (members : Word) (committed : BitVec 48) (decided : Option (BitVec 48 × DWord)) (swaps : List (BitVec 16 × BitVec 16)) : exec (.view h epoch members committed decided swaps) s = execView h epoch members committed decided swaps s := rfl
theorem taken_view (h : SiteHdr) (epoch : Word) (members : Word) (committed : BitVec 48) (decided : Option (BitVec 48 × DWord)) (swaps : List (BitVec 16 × BitVec 16)) : ∃ f, exec (.view h epoch members committed decided swaps) s = actIf (live s) s f := by
  show ∃ f, execView h epoch members committed decided swaps s = _
  unfold execView act; exact ⟨_, rfl⟩
theorem exec_promiseCopyAck (p : Promise) : exec (.promiseCopyAck p) s = execPromiseCopyAck p s := rfl
theorem taken_promiseCopyAck (p : Promise) : ∃ f, exec (.promiseCopyAck p) s = actIf (live s) s f := by
  show ∃ f, execPromiseCopyAck p s = _
  unfold execPromiseCopyAck act; exact ⟨_, rfl⟩
theorem exec_joinReq (h : SiteHdr) (committed : BitVec 48) (acc : Option (BitVec 48)) : exec (.joinReq h committed acc) s = execJoinReq h committed acc s := rfl
theorem taken_joinReq (h : SiteHdr) (committed : BitVec 48) (acc : Option (BitVec 48)) : ∃ f, exec (.joinReq h committed acc) s = actIf (live s) s f := by
  show ∃ f, execJoinReq h committed acc s = _
  unfold execJoinReq act; exact ⟨_, rfl⟩
theorem exec_healReply (h : SiteHdr) (committed : BitVec 48) (digest : Option DWord) : exec (.healReply h committed digest) s = execHealReply h committed digest s := rfl
theorem taken_healReply (h : SiteHdr) (committed : BitVec 48) (digest : Option DWord) : ∃ f, exec (.healReply h committed digest) s = actIf (live s) s f := by
  show ∃ f, execHealReply h committed digest s = _
  unfold execHealReply act; exact ⟨_, rfl⟩
theorem exec_ready (round : BitVec 48) (epoch : Word) (shard : BitVec 16) (digest : DWord) : exec (.ready round epoch shard digest) s = execReady round epoch shard digest s := rfl
theorem taken_ready (round : BitVec 48) (epoch : Word) (shard : BitVec 16) (digest : DWord) : ∃ f, exec (.ready round epoch shard digest) s = actIf (live s) s f := by
  show ∃ f, execReady round epoch shard digest s = _
  unfold execReady act; exact ⟨_, rfl⟩
theorem exec_offer (h : SiteHdr) (round : BitVec 48) (epoch : Word) (digest : DWord) (shards : List DWord) : exec (.offer h round epoch digest shards) s = execOffer h round epoch digest shards s := rfl
theorem taken_offer (h : SiteHdr) (round : BitVec 48) (epoch : Word) (digest : DWord) (shards : List DWord) : ∃ f, exec (.offer h round epoch digest shards) s = actIf (live s) s f := by
  show ∃ f, execOffer h round epoch digest shards s = _
  unfold execOffer act; exact ⟨_, rfl⟩
theorem exec_accept (h : SiteHdr) (round : BitVec 48) (epoch : Word) (digest : DWord) : exec (.accept h round epoch digest) s = execAccept h round epoch digest s := rfl
theorem taken_accept (h : SiteHdr) (round : BitVec 48) (epoch : Word) (digest : DWord) : ∃ f, exec (.accept h round epoch digest) s = actIf (live s) s f := by
  show ∃ f, execAccept h round epoch digest s = _
  unfold execAccept act; exact ⟨_, rfl⟩
theorem exec_agreeTimeout : exec .agreeTimeout s = execAgreeTimeout s := rfl
theorem taken_agreeTimeout : ∃ f, exec .agreeTimeout s = actIf (live s) s f := by
  show ∃ f, execAgreeTimeout s = _
  unfold execAgreeTimeout act; exact ⟨_, rfl⟩
theorem exec_commit (round : BitVec 48) (epoch : Word) : exec (.commit round epoch) s = execCommit round epoch s := rfl
theorem taken_commit (round : BitVec 48) (epoch : Word) : ∃ f, exec (.commit round epoch) s = actIf (live s) s f := by
  show ∃ f, execCommit round epoch s = _
  unfold execCommit act; exact ⟨_, rfl⟩
theorem exec_heartbeatSend : exec .heartbeatSend s = execHeartbeatSend s := rfl
theorem taken_heartbeatSend : ∃ f, exec .heartbeatSend s = actIf (live s) s f := by
  show ∃ f, execHeartbeatSend s = _
  unfold execHeartbeatSend act; exact ⟨_, rfl⟩
theorem exec_heartbeat (node : BitVec 16) : exec (.heartbeat node) s = execHeartbeat node s := rfl
theorem taken_heartbeat (node : BitVec 16) : ∃ f, exec (.heartbeat node) s = actIf (live s) s f := by
  show ∃ f, execHeartbeat node s = _
  unfold execHeartbeat act; exact ⟨_, rfl⟩
theorem exec_memberLost (node : BitVec 16) (reported : Bool) : exec (.memberLost node reported) s = execMemberLost node reported s := rfl
theorem taken_memberLost (node : BitVec 16) (reported : Bool) : ∃ f, exec (.memberLost node reported) s = actIf (live s) s f := by
  show ∃ f, execMemberLost node reported s = _
  unfold execMemberLost act; exact ⟨_, rfl⟩
theorem exec_healthEval : exec .healthEval s = execHealthEval s := rfl
theorem taken_healthEval : ∃ f, exec .healthEval s = actIf (live s) s f := by
  show ∃ f, execHealthEval s = _
  unfold execHealthEval act; exact ⟨_, rfl⟩
theorem exec_expulsionRequest (node : BitVec 16) (answer : Option Bool) : exec (.expulsionRequest node answer) s = execExpulsionRequest node answer s := rfl
theorem taken_expulsionRequest (node : BitVec 16) (answer : Option Bool) : ∃ f, exec (.expulsionRequest node answer) s = actIf (live s) s f := by
  show ∃ f, execExpulsionRequest node answer s = _
  unfold execExpulsionRequest act; exact ⟨_, rfl⟩
theorem exec_mirrorReceive (node : BitVec 16) (round : BitVec 48) (resid : Bool) (index : DWord) (crc : DWord) (hdr : List Byte) (data : List Byte) : exec (.mirrorReceive node round resid index crc hdr data) s = execMirrorReceive node round resid index crc hdr data s := rfl
theorem taken_mirrorReceive (node : BitVec 16) (round : BitVec 48) (resid : Bool) (index : DWord) (crc : DWord) (hdr : List Byte) (data : List Byte) : ∃ f, exec (.mirrorReceive node round resid index crc hdr data) s = actIf (live s) s f := by
  show ∃ f, execMirrorReceive node round resid index crc hdr data s = _
  unfold execMirrorReceive act; exact ⟨_, rfl⟩
theorem exec_mirrorAck (resid : Bool) (index : DWord) : exec (.mirrorAck resid index) s = execMirrorAck resid index s := rfl
theorem taken_mirrorAck (resid : Bool) (index : DWord) : ∃ f, exec (.mirrorAck resid index) s = actIf (live s) s f := by
  show ∃ f, execMirrorAck resid index s = _
  unfold execMirrorAck act; exact ⟨_, rfl⟩
theorem exec_changeRecord (node : BitVec 16) (group : Fin 1024) (q : Bool) (position : Fin 8) (unit : DWord) (round : BitVec 48) (delta : List Byte) : exec (.changeRecord node group q position unit round delta) s = execChangeRecord node group q position unit round delta s := rfl
theorem taken_changeRecord (node : BitVec 16) (group : Fin 1024) (q : Bool) (position : Fin 8) (unit : DWord) (round : BitVec 48) (delta : List Byte) : ∃ f, exec (.changeRecord node group q position unit round delta) s = actIf (live s) s f := by
  show ∃ f, execChangeRecord node group q position unit round delta s = _
  unfold execChangeRecord act; exact ⟨_, rfl⟩
theorem exec_changeRecordAck (node : BitVec 16) (unit : DWord) (round : BitVec 48) (all : Bool) : exec (.changeRecordAck node unit round all) s = execChangeRecordAck node unit round all s := rfl
theorem taken_changeRecordAck (node : BitVec 16) (unit : DWord) (round : BitVec 48) (all : Bool) : ∃ f, exec (.changeRecordAck node unit round all) s = actIf (live s) s f := by
  show ∃ f, execChangeRecordAck node unit round all s = _
  unfold execChangeRecordAck act; exact ⟨_, rfl⟩
theorem exec_hoistSelftestDone (node : BitVec 16) (pass : Bool) : exec (.hoistSelftestDone node pass) s = execHoistSelftestDone node pass s := rfl
theorem taken_hoistSelftestDone (node : BitVec 16) (pass : Bool) : ∃ f, exec (.hoistSelftestDone node pass) s = actIf (live s) s f := by
  show ∃ f, execHoistSelftestDone node pass s = _
  unfold execHoistSelftestDone act; exact ⟨_, rfl⟩
theorem exec_hoistLoadDone (node : BitVec 16) : exec (.hoistLoadDone node) s = execHoistLoadDone node s := rfl
theorem taken_hoistLoadDone (node : BitVec 16) : ∃ f, exec (.hoistLoadDone node) s = actIf (live s) s f := by
  show ∃ f, execHoistLoadDone node s = _
  unfold execHoistLoadDone act; exact ⟨_, rfl⟩
theorem exec_timeIncrNsWrite (w : Win) (v : Word) : exec (.timeIncrNsWrite w v) s = execTimeIncrNsWrite w v s := rfl
theorem taken_timeIncrNsWrite (w : Win) (v : Word) : ∃ f, exec (.timeIncrNsWrite w v) s = actIf (live s) s f := by
  show ∃ f, execTimeIncrNsWrite w v s = _
  unfold execTimeIncrNsWrite act; exact ⟨_, rfl⟩
theorem exec_setTime (w : Win) (elapsed : Nat) : exec (.setTime w elapsed) s = execSetTime w elapsed s := rfl
theorem taken_setTime (w : Win) (elapsed : Nat) : ∃ f, exec (.setTime w elapsed) s = actIf (live s) s f := by
  show ∃ f, execSetTime w elapsed s = _
  unfold execSetTime act; exact ⟨_, rfl⟩
theorem exec_timeAdd (w : Win) (elapsed : Nat) : exec (.timeAdd w elapsed) s = execTimeAdd w elapsed s := rfl
theorem taken_timeAdd (w : Win) (elapsed : Nat) : ∃ f, exec (.timeAdd w elapsed) s = actIf (live s) s f := by
  show ∃ f, execTimeAdd w elapsed s = _
  unfold execTimeAdd act; exact ⟨_, rfl⟩
theorem exec_ptpMessage (port : Fin 12) (bytes : List Byte) (stamped : Bool) : exec (.ptpMessage port bytes stamped) s = execPtpMessage port bytes stamped s := rfl
theorem taken_ptpMessage (port : Fin 12) (bytes : List Byte) (stamped : Bool) : ∃ f, exec (.ptpMessage port bytes stamped) s = actIf (live s) s f := by
  show ∃ f, execPtpMessage port bytes stamped s = _
  unfold execPtpMessage act; exact ⟨_, rfl⟩
theorem exec_announceTimeout : exec .announceTimeout s = execAnnounceTimeout s := rfl
theorem taken_announceTimeout : ∃ f, exec .announceTimeout s = actIf (live s) s f := by
  show ∃ f, execAnnounceTimeout s = _
  unfold execAnnounceTimeout act; exact ⟨_, rfl⟩
theorem exec_holdoverEnd : exec .holdoverEnd s = execHoldoverEnd s := rfl
theorem taken_holdoverEnd : ∃ f, exec .holdoverEnd s = actIf (live s) s f := by
  show ∃ f, execHoldoverEnd s = _
  unfold execHoldoverEnd act; exact ⟨_, rfl⟩
theorem exec_holdMaxExpire : exec .holdMaxExpire s = execHoldMaxExpire s := rfl
theorem taken_holdMaxExpire : ∃ f, exec .holdMaxExpire s = actIf (live s) s f := by
  show ∃ f, execHoldMaxExpire s = _
  unfold execHoldMaxExpire act; exact ⟨_, rfl⟩
theorem exec_pulseEdge (pulse : Fin 4) : exec (.pulseEdge pulse) s = execPulseEdge pulse s := rfl
theorem taken_pulseEdge (pulse : Fin 4) : ∃ f, exec (.pulseEdge pulse) s = actIf (live s) s f := by
  show ∃ f, execPulseEdge pulse s = _
  unfold execPulseEdge act; exact ⟨_, rfl⟩
theorem exec_timePCfgWrite (w : Win) (v : Word) : exec (.timePCfgWrite w v) s = execTimePCfgWrite w v s := rfl
theorem taken_timePCfgWrite (w : Win) (v : Word) : ∃ f, exec (.timePCfgWrite w v) s = actIf (live s) s f := by
  show ∃ f, execTimePCfgWrite w v s = _
  unfold execTimePCfgWrite act; exact ⟨_, rfl⟩
theorem exec_faultRecord (src : BitVec 12) (kind : Byte) (ctx : Byte) (addr : BitVec 48) : exec (.faultRecord src kind ctx addr) s = execFaultRecord src kind ctx addr s := rfl
theorem taken_faultRecord (src : BitVec 12) (kind : Byte) (ctx : Byte) (addr : BitVec 48) : ∃ f, exec (.faultRecord src kind ctx addr) s = actIf (live s) s f := by
  show ∃ f, execFaultRecord src kind ctx addr s = _
  unfold execFaultRecord act; exact ⟨_, rfl⟩
theorem exec_wireAssert (wire : Fin 21) (ctx : Byte) : exec (.wireAssert wire ctx) s = execWireAssert wire ctx s := rfl
theorem taken_wireAssert (wire : Fin 21) (ctx : Byte) : ∃ f, exec (.wireAssert wire ctx) s = actIf (decide (s.pwr.state ≤ 1)) s f := by
  show ∃ f, execWireAssert wire ctx s = _
  unfold execWireAssert; exact ⟨_, rfl⟩
theorem exec_fltWireWrite (w : Win) (v : Word) : exec (.fltWireWrite w v) s = execFltWireWrite w v s := rfl
theorem taken_fltWireWrite (w : Win) (v : Word) : ∃ f, exec (.fltWireWrite w v) s = actIf (live s) s f := by
  show ∃ f, execFltWireWrite w v s = _
  unfold execFltWireWrite act; exact ⟨_, rfl⟩
theorem exec_fltRaise3Write (w : Win) (v : Word) : exec (.fltRaise3Write w v) s = execFltRaise3Write w v s := rfl
theorem taken_fltRaise3Write (w : Win) (v : Word) : ∃ f, exec (.fltRaise3Write w v) s = actIf (live s) s f := by
  show ∃ f, execFltRaise3Write w v s = _
  unfold execFltRaise3Write act; exact ⟨_, rfl⟩
theorem exec_testDone (src : BitVec 12) (pass : Bool) : exec (.testDone src pass) s = execTestDone src pass s := rfl
theorem taken_testDone (src : BitVec 12) (pass : Bool) : ∃ f, exec (.testDone src pass) s = actIf (live s) s f := by
  show ∃ f, execTestDone src pass s = _
  unfold execTestDone act; exact ⟨_, rfl⟩
theorem exec_quietPeriodEnd (src : BitVec 12) : exec (.quietPeriodEnd src) s = execQuietPeriodEnd src s := rfl
theorem taken_quietPeriodEnd (src : BitVec 12) : ∃ f, exec (.quietPeriodEnd src) s = actIf (live s) s f := by
  show ∃ f, execQuietPeriodEnd src s = _
  unfold execQuietPeriodEnd act; exact ⟨_, rfl⟩
theorem exec_irqDb (w : Win) (v : Word) : exec (.irqDb w v) s = execIrqDb w v s := rfl
theorem taken_irqDb (w : Win) (v : Word) : ∃ f, exec (.irqDb w v) s = actIf (live s) s f := by
  show ∃ f, execIrqDb w v s = _
  unfold execIrqDb act; exact ⟨_, rfl⟩
theorem exec_serveBegin (w : Win) (v : Word) : exec (.serveBegin w v) s = execServeBegin w v s := rfl
theorem taken_serveBegin (w : Win) (v : Word) : ∃ f, exec (.serveBegin w v) s = actIf (live s) s f := by
  show ∃ f, execServeBegin w v s = _
  unfold execServeBegin act; exact ⟨_, rfl⟩
theorem exec_serveEnd (w : Win) (v : Word) : exec (.serveEnd w v) s = execServeEnd w v s := rfl
theorem taken_serveEnd (w : Win) (v : Word) : ∃ f, exec (.serveEnd w v) s = actIf (live s) s f := by
  show ∃ f, execServeEnd w v s = _
  unfold execServeEnd act; exact ⟨_, rfl⟩
theorem exec_spacingEnd (src : BitVec 10) : exec (.spacingEnd src) s = execSpacingEnd src s := rfl
theorem taken_spacingEnd (src : BitVec 10) : ∃ f, exec (.spacingEnd src) s = actIf (live s) s f := by
  show ∃ f, execSpacingEnd src s = _
  unfold execSpacingEnd act; exact ⟨_, rfl⟩
theorem exec_stuckSource (src : BitVec 10) : exec (.stuckSource src) s = execStuckSource src s := rfl
theorem taken_stuckSource (src : BitVec 10) : ∃ f, exec (.stuckSource src) s = actIf (live s) s f := by
  show ∃ f, execStuckSource src s = _
  unfold execStuckSource act; exact ⟨_, rfl⟩
theorem exec_unmask (w : Win) (v : Word) : exec (.unmask w v) s = execUnmask w v s := rfl
theorem taken_unmask (w : Win) (v : Word) : ∃ f, exec (.unmask w v) s = actIf (live s) s f := by
  show ∃ f, execUnmask w v s = _
  unfold execUnmask act; exact ⟨_, rfl⟩
theorem exec_wakeInput (latch : Fin 22) (active : Bool) : exec (.wakeInput latch active) s = execWakeInput latch active s := rfl
theorem taken_wakeInput (latch : Fin 22) (active : Bool) : ∃ f, exec (.wakeInput latch active) s = actIf (decide (s.pwr.state ≤ 2)) s f := by
  show ∃ f, execWakeInput latch active s = _
  unfold execWakeInput; exact ⟨_, rfl⟩
theorem exec_irqWakeWrite (w : Win) (v : Word) : exec (.irqWakeWrite w v) s = execIrqWakeWrite w v s := rfl
theorem taken_irqWakeWrite (w : Win) (v : Word) : ∃ f, exec (.irqWakeWrite w v) s = actIf (live s) s f := by
  show ∃ f, execIrqWakeWrite w v s = _
  unfold execIrqWakeWrite act; exact ⟨_, rfl⟩
theorem exec_enable (w : Win) (page : BitVec 12) : exec (.enable w page) s = execEnable w page s := rfl
theorem taken_enable (w : Win) (page : BitVec 12) : ∃ f, exec (.enable w page) s = actIf (live s) s f := by
  show ∃ f, execEnable w page s = _
  unfold execEnable act; exact ⟨_, rfl⟩
theorem exec_drain (w : Win) (page : BitVec 12) : exec (.drain w page) s = execDrain w page s := rfl
theorem taken_drain (w : Win) (page : BitVec 12) : ∃ f, exec (.drain w page) s = actIf (live s) s f := by
  show ∃ f, execDrain w page s = _
  unfold execDrain act; exact ⟨_, rfl⟩
theorem exec_blockReset (w : Win) (page : BitVec 12) : exec (.blockReset w page) s = execBlockReset w page s := rfl
theorem taken_blockReset (w : Win) (page : BitVec 12) : ∃ f, exec (.blockReset w page) s = actIf (live s) s f := by
  show ∃ f, execBlockReset w page s = _
  unfold execBlockReset act; exact ⟨_, rfl⟩
theorem exec_selftest (w : Win) (page : BitVec 12) : exec (.selftest w page) s = execSelftest w page s := rfl
theorem taken_selftest (w : Win) (page : BitVec 12) : ∃ f, exec (.selftest w page) s = actIf (live s) s f := by
  show ∃ f, execSelftest w page s = _
  unfold execSelftest act; exact ⟨_, rfl⟩
theorem exec_selftestDone (page : BitVec 12) (failing : List Nat) : exec (.selftestDone page failing) s = execSelftestDone page failing s := rfl
theorem taken_selftestDone (page : BitVec 12) (failing : List Nat) : ∃ f, exec (.selftestDone page failing) s = actIf (live s) s f := by
  show ∃ f, execSelftestDone page failing s = _
  unfold execSelftestDone act; exact ⟨_, rfl⟩
theorem exec_blockStartDone (page : BitVec 12) : exec (.blockStartDone page) s = execBlockStartDone page s := rfl
theorem taken_blockStartDone (page : BitVec 12) : ∃ f, exec (.blockStartDone page) s = actIf (live s) s f := by
  show ∃ f, execBlockStartDone page s = _
  unfold execBlockStartDone act; exact ⟨_, rfl⟩
theorem exec_drainDone (page : BitVec 12) : exec (.drainDone page) s = execDrainDone page s := rfl
theorem taken_drainDone (page : BitVec 12) : ∃ f, exec (.drainDone page) s = actIf (live s) s f := by
  show ∃ f, execDrainDone page s = _
  unfold execDrainDone act; exact ⟨_, rfl⟩
theorem exec_blkLockWrite (w : Win) (page : BitVec 12) (v : Word) : exec (.blkLockWrite w page v) s = execBlkLockWrite w page v s := rfl
theorem taken_blkLockWrite (w : Win) (page : BitVec 12) (v : Word) : ∃ f, exec (.blkLockWrite w page v) s = actIf (live s) s f := by
  show ∃ f, execBlkLockWrite w page v s = _
  unfold execBlkLockWrite act; exact ⟨_, rfl⟩
theorem exec_fullReset (w : Win) (v : Word) : exec (.fullReset w v) s = execFullReset w v s := rfl
theorem taken_fullReset (w : Win) (v : Word) : ∃ f, exec (.fullReset w v) s = actIf (live s) s f := by
  show ∃ f, execFullReset w v s = _
  unfold execFullReset act; exact ⟨_, rfl⟩
theorem exec_perstN : exec .perstN s = execPerstN s := rfl
theorem taken_perstN : ∃ f, exec .perstN s = actIf (true) s f := by
  show ∃ f, execPerstN s = _
  unfold execPerstN; exact ⟨_, rfl⟩
theorem exec_cxlHotReset : exec .cxlHotReset s = execCxlHotReset s := rfl
theorem taken_cxlHotReset : ∃ f, exec .cxlHotReset s = actIf (live s) s f := by
  show ∃ f, execCxlHotReset s = _
  unfold execCxlHotReset act; exact ⟨_, rfl⟩
theorem exec_glbWdogWrite (w : Win) (v : Word) : exec (.glbWdogWrite w v) s = execGlbWdogWrite w v s := rfl
theorem taken_glbWdogWrite (w : Win) (v : Word) : ∃ f, exec (.glbWdogWrite w v) s = actIf (live s) s f := by
  show ∃ f, execGlbWdogWrite w v s = _
  unfold execGlbWdogWrite act; exact ⟨_, rfl⟩
theorem exec_watchdogExpire (core : Fin 8) : exec (.watchdogExpire core) s = execWatchdogExpire core s := rfl
theorem taken_watchdogExpire (core : Fin 8) : ∃ f, exec (.watchdogExpire core) s = actIf (live s) s f := by
  show ∃ f, execWatchdogExpire core s = _
  unfold execWatchdogExpire act; exact ⟨_, rfl⟩
theorem exec_cxlLinkUp (width : Fin 4) (rate : Fin 4) : exec (.cxlLinkUp width rate) s = execCxlLinkUp width rate s := rfl
theorem taken_cxlLinkUp (width : Fin 4) (rate : Fin 4) : ∃ f, exec (.cxlLinkUp width rate) s = actIf (live s) s f := by
  show ∃ f, execCxlLinkUp width rate s = _
  unfold execCxlLinkUp act; exact ⟨_, rfl⟩
theorem exec_cxlLinkDown : exec .cxlLinkDown s = execCxlLinkDown s := rfl
theorem taken_cxlLinkDown : ∃ f, exec .cxlLinkDown s = actIf (live s) s f := by
  show ∃ f, execCxlLinkDown s = _
  unfold execCxlLinkDown act; exact ⟨_, rfl⟩
theorem exec_hdmDecoderCommit : exec .hdmDecoderCommit s = execHdmDecoderCommit s := rfl
theorem taken_hdmDecoderCommit : ∃ f, exec .hdmDecoderCommit s = actIf (live s) s f := by
  show ∃ f, execHdmDecoderCommit s = _
  unfold execHdmDecoderCommit act; exact ⟨_, rfl⟩
theorem exec_cxlMemRead (off : DWord) (n : Fin 65) : exec (.cxlMemRead off n) s = execCxlMemRead off n s := rfl
theorem taken_cxlMemRead (off : DWord) (n : Fin 65) : ∃ f, exec (.cxlMemRead off n) s = actIf (live s) s f := by
  show ∃ f, execCxlMemRead off n s = _
  unfold execCxlMemRead act; exact ⟨_, rfl⟩
theorem exec_cxlMemWrite (off : DWord) (bytes : List Byte) : exec (.cxlMemWrite off bytes) s = execCxlMemWrite off bytes s := rfl
theorem taken_cxlMemWrite (off : DWord) (bytes : List Byte) : ∃ f, exec (.cxlMemWrite off bytes) s = actIf (live s) s f := by
  show ∃ f, execCxlMemWrite off bytes s = _
  unfold execCxlMemWrite act; exact ⟨_, rfl⟩
theorem exec_ideStop (mem : Bool) (failed : Bool) : exec (.ideStop mem failed) s = execIdeStop mem failed s := rfl
theorem taken_ideStop (mem : Bool) (failed : Bool) : ∃ f, exec (.ideStop mem failed) s = actIf (live s) s f := by
  show ∃ f, execIdeStop mem failed s = _
  unfold execIdeStop act; exact ⟨_, rfl⟩
theorem exec_privGateClose (w : Win) (v : Word) : exec (.privGateClose w v) s = execPrivGateClose w v s := rfl
theorem taken_privGateClose (w : Win) (v : Word) : ∃ f, exec (.privGateClose w v) s = actIf (live s) s f := by
  show ∃ f, execPrivGateClose w v s = _
  unfold execPrivGateClose act; exact ⟨_, rfl⟩
theorem exec_getInfo (len : BitVec 12) : exec (.getInfo len) s = execGetInfo len s := rfl
theorem taken_getInfo (len : BitVec 12) : ∃ f, exec (.getInfo len) s = actIf (live s) s f := by
  show ∃ f, execGetInfo len s = _
  unfold execGetInfo act; exact ⟨_, rfl⟩
theorem exec_authChallenge (len : BitVec 12) : exec (.authChallenge len) s = execAuthChallenge len s := rfl
theorem taken_authChallenge (len : BitVec 12) : ∃ f, exec (.authChallenge len) s = actIf (live s) s f := by
  show ∃ f, execAuthChallenge len s = _
  unfold execAuthChallenge act; exact ⟨_, rfl⟩
theorem exec_authResponse (len : BitVec 12) : exec (.authResponse len) s = execAuthResponse len s := rfl
theorem taken_authResponse (len : BitVec 12) : ∃ f, exec (.authResponse len) s = actIf (live s) s f := by
  show ∃ f, execAuthResponse len s = _
  unfold execAuthResponse act; exact ⟨_, rfl⟩
theorem exec_jobCreate (len : BitVec 12) : exec (.jobCreate len) s = execJobCreate len s := rfl
theorem taken_jobCreate (len : BitVec 12) : ∃ f, exec (.jobCreate len) s = actIf (live s) s f := by
  show ∃ f, execJobCreate len s = _
  unfold execJobCreate act; exact ⟨_, rfl⟩
theorem exec_jobEnd (len : BitVec 12) : exec (.jobEnd len) s = execJobEnd len s := rfl
theorem taken_jobEnd (len : BitVec 12) : ∃ f, exec (.jobEnd len) s = actIf (live s) s f := by
  show ∃ f, execJobEnd len s = _
  unfold execJobEnd act; exact ⟨_, rfl⟩
theorem exec_jobStatus (len : BitVec 12) : exec (.jobStatus len) s = execJobStatus len s := rfl
theorem taken_jobStatus (len : BitVec 12) : ∃ f, exec (.jobStatus len) s = actIf (live s) s f := by
  show ∃ f, execJobStatus len s = _
  unfold execJobStatus act; exact ⟨_, rfl⟩
theorem exec_timeStep (len : BitVec 12) : exec (.timeStep len) s = execTimeStep len s := rfl
theorem taken_timeStep (len : BitVec 12) : ∃ f, exec (.timeStep len) s = actIf (live s) s f := by
  show ∃ f, execTimeStep len s = _
  unfold execTimeStep act; exact ⟨_, rfl⟩
theorem exec_fwStage (len : BitVec 12) : exec (.fwStage len) s = execFwStage len s := rfl
theorem taken_fwStage (len : BitVec 12) : ∃ f, exec (.fwStage len) s = actIf (live s) s f := by
  show ∃ f, execFwStage len s = _
  unfold execFwStage act; exact ⟨_, rfl⟩
theorem exec_attestationRequest (nonce : List Byte) : exec (.attestationRequest nonce) s = execAttestationRequest nonce s := rfl
theorem taken_attestationRequest (nonce : List Byte) : ∃ f, exec (.attestationRequest nonce) s = actIf (live s) s f := by
  show ∃ f, execAttestationRequest nonce s = _
  unfold execAttestationRequest act; exact ⟨_, rfl⟩
theorem exec_kexCert (md : Fin 2) (dir : Fin 4) (msg : KexCert) : exec (.kexCert md dir msg) s = execKexCert md dir msg s := rfl
theorem taken_kexCert (md : Fin 2) (dir : Fin 4) (msg : KexCert) : ∃ f, exec (.kexCert md dir msg) s = actIf (live s) s f := by
  show ∃ f, execKexCert md dir msg s = _
  unfold execKexCert act; exact ⟨_, rfl⟩
theorem exec_kexInit (md : Fin 2) (dir : Fin 4) (msg : KexInit) : exec (.kexInit md dir msg) s = execKexInit md dir msg s := rfl
theorem taken_kexInit (md : Fin 2) (dir : Fin 4) (msg : KexInit) : ∃ f, exec (.kexInit md dir msg) s = actIf (live s) s f := by
  show ∃ f, execKexInit md dir msg s = _
  unfold execKexInit act; exact ⟨_, rfl⟩
theorem exec_kexReply (md : Fin 2) (dir : Fin 4) (msg : KexReply) : exec (.kexReply md dir msg) s = execKexReply md dir msg s := rfl
theorem taken_kexReply (md : Fin 2) (dir : Fin 4) (msg : KexReply) : ∃ f, exec (.kexReply md dir msg) s = actIf (live s) s f := by
  show ∃ f, execKexReply md dir msg s = _
  unfold execKexReply act; exact ⟨_, rfl⟩
theorem exec_kexFail (md : Fin 2) (dir : Fin 4) (epoch : Word) (reason : Byte) : exec (.kexFail md dir epoch reason) s = execKexFail md dir epoch reason s := rfl
theorem taken_kexFail (md : Fin 2) (dir : Fin 4) (epoch : Word) (reason : Byte) : ∃ f, exec (.kexFail md dir epoch reason) s = actIf (live s) s f := by
  show ∃ f, execKexFail md dir epoch reason s = _
  unfold execKexFail act; exact ⟨_, rfl⟩
theorem exec_kexRetry (md : Fin 2) (dir : Fin 4) : exec (.kexRetry md dir) s = execKexRetry md dir s := rfl
theorem taken_kexRetry (md : Fin 2) (dir : Fin 4) : ∃ f, exec (.kexRetry md dir) s = actIf (live s) s f := by
  show ∃ f, execKexRetry md dir s = _
  unfold execKexRetry act; exact ⟨_, rfl⟩
theorem exec_rekeyInterval (md : Fin 2) (dir : Fin 4) : exec (.rekeyInterval md dir) s = execRekeyInterval md dir s := rfl
theorem taken_rekeyInterval (md : Fin 2) (dir : Fin 4) : ∃ f, exec (.rekeyInterval md dir) s = actIf (live s) s f := by
  show ∃ f, execRekeyInterval md dir s = _
  unfold execRekeyInterval act; exact ⟨_, rfl⟩
theorem exec_sealMasterExchange (master : List Byte) : exec (.sealMasterExchange master) s = execSealMasterExchange master s := rfl
theorem taken_sealMasterExchange (master : List Byte) : ∃ f, exec (.sealMasterExchange master) s = actIf (live s) s f := by
  show ∃ f, execSealMasterExchange master s = _
  unfold execSealMasterExchange act; exact ⟨_, rfl⟩
theorem exec_imageProven : exec .imageProven s = execImageProven s := rfl
theorem taken_imageProven : ∃ f, exec .imageProven s = actIf (live s) s f := by
  show ∃ f, execImageProven s = _
  unfold execImageProven act; exact ⟨_, rfl⟩
theorem exec_startupStepEnd (micros : BitVec 32) (ok : Bool) (clusters : List Nat) (rows : List Nat) : exec (.startupStepEnd micros ok clusters rows) s = execStartupStepEnd micros ok clusters rows s := rfl
theorem taken_startupStepEnd (micros : BitVec 32) (ok : Bool) (clusters : List Nat) (rows : List Nat) : ∃ f, exec (.startupStepEnd micros ok clusters rows) s = actIf (decide (s.pwr.state ≤ 1)) s f := by
  show ∃ f, execStartupStepEnd micros ok clusters rows s = _
  unfold execStartupStepEnd; exact ⟨_, rfl⟩
theorem exec_pwrToP0 (w : Win) : exec (.pwrToP0 w) s = execPwrToP0 w s := rfl
theorem taken_pwrToP0 (w : Win) : ∃ f, exec (.pwrToP0 w) s = actIf (live s) s f := by
  show ∃ f, execPwrToP0 w s = _
  unfold execPwrToP0 act; exact ⟨_, rfl⟩
theorem exec_pwrToP1 (w : Win) : exec (.pwrToP1 w) s = execPwrToP1 w s := rfl
theorem taken_pwrToP1 (w : Win) : ∃ f, exec (.pwrToP1 w) s = actIf (live s) s f := by
  show ∃ f, execPwrToP1 w s = _
  unfold execPwrToP1 act; exact ⟨_, rfl⟩
theorem exec_pwrToP2 (w : Win) : exec (.pwrToP2 w) s = execPwrToP2 w s := rfl
theorem taken_pwrToP2 (w : Win) : ∃ f, exec (.pwrToP2 w) s = actIf (live s) s f := by
  show ∃ f, execPwrToP2 w s = _
  unfold execPwrToP2 act; exact ⟨_, rfl⟩
theorem exec_powerMoveDone : exec .powerMoveDone s = execPowerMoveDone s := rfl
theorem taken_powerMoveDone : ∃ f, exec .powerMoveDone s = actIf (live s) s f := by
  show ∃ f, execPowerMoveDone s = _
  unfold execPowerMoveDone act; exact ⟨_, rfl⟩
theorem exec_thermalSample (die : Fin 8) (temps : List Nat) : exec (.thermalSample die temps) s = execThermalSample die temps s := rfl
theorem taken_thermalSample (die : Fin 8) (temps : List Nat) : ∃ f, exec (.thermalSample die temps) s = actIf (live s) s f := by
  show ∃ f, execThermalSample die temps s = _
  unfold execThermalSample act; exact ⟨_, rfl⟩
theorem exec_currentSample (milliamps : Nat) : exec (.currentSample milliamps) s = execCurrentSample milliamps s := rfl
theorem taken_currentSample (milliamps : Nat) : ∃ f, exec (.currentSample milliamps) s = actIf (live s) s f := by
  show ∃ f, execCurrentSample milliamps s = _
  unfold execCurrentSample act; exact ⟨_, rfl⟩
theorem exec_powerWindowEnd (milliwatts : Nat) : exec (.powerWindowEnd milliwatts) s = execPowerWindowEnd milliwatts s := rfl
theorem taken_powerWindowEnd (milliwatts : Nat) : ∃ f, exec (.powerWindowEnd milliwatts) s = actIf (live s) s f := by
  show ∃ f, execPowerWindowEnd milliwatts s = _
  unfold execPowerWindowEnd act; exact ⟨_, rfl⟩
theorem exec_promiseCopy (p : Promise) : exec (.promiseCopy p) s = execPromiseCopy p s := rfl
theorem taken_promiseCopy (p : Promise) : ∃ f, exec (.promiseCopy p) s = actIf (live s) s f := by
  show ∃ f, execPromiseCopy p s = _
  unfold execPromiseCopy act; exact ⟨_, rfl⟩
theorem exec_perstNRelease : exec .perstNRelease s = execPerstNRelease s := rfl
theorem taken_perstNRelease : ∃ f, exec .perstNRelease s = actIf (true) s f := by
  show ∃ f, execPerstNRelease s = _
  unfold execPerstNRelease; exact ⟨_, rfl⟩
theorem exec_powerOn : exec .powerOn s = execPowerOn s := rfl
theorem taken_powerOn : ∃ f, exec .powerOn s = actIf (true) s f := by
  show ∃ f, execPowerOn s = _
  unfold execPowerOn; exact ⟨_, rfl⟩
theorem exec_powerOff : exec .powerOff s = execPowerOff s := rfl
theorem taken_powerOff : ∃ f, exec .powerOff s = actIf (true) s f := by
  show ∃ f, execPowerOff s = _
  unfold execPowerOff; exact ⟨_, rfl⟩
theorem exec_ideEstablished (mem : Bool) : exec (.ideEstablished mem) s = execIdeEstablished mem s := rfl
theorem taken_ideEstablished (mem : Bool) : ∃ f, exec (.ideEstablished mem) s = actIf (live s) s f := by
  show ∃ f, execIdeEstablished mem s = _
  unfold execIdeEstablished act; exact ⟨_, rfl⟩
theorem exec_syncInterval (port : Fin 12) (kind : Fin 3) : exec (.syncInterval port kind) s = execSyncInterval port kind s := rfl
theorem taken_syncInterval (port : Fin 12) (kind : Fin 3) : ∃ f, exec (.syncInterval port kind) s = actIf (live s) s f := by
  show ∃ f, execSyncInterval port kind s = _
  unfold execSyncInterval act; exact ⟨_, rfl⟩
theorem exec_tableUnloadMessage (port : Fin 7) (node : BitVec 16) (slot : Fin 8) : exec (.tableUnloadMessage port node slot) s = execTableUnloadMessage port node slot s := rfl
theorem taken_tableUnloadMessage (port : Fin 7) (node : BitVec 16) (slot : Fin 8) : ∃ f, exec (.tableUnloadMessage port node slot) s = actIf (live s) s f := by
  show ∃ f, execTableUnloadMessage port node slot s = _
  unfold execTableUnloadMessage act; exact ⟨_, rfl⟩
theorem exec_keyRetireAck (md : Fin 2) (dir : Fin 4) (slot : Fin 2) (epoch : Word) : exec (.keyRetireAck md dir slot epoch) s = execKeyRetireAck md dir slot epoch s := rfl
theorem taken_keyRetireAck (md : Fin 2) (dir : Fin 4) (slot : Fin 2) (epoch : Word) : ∃ f, exec (.keyRetireAck md dir slot epoch) s = actIf (live s) s f := by
  show ∃ f, execKeyRetireAck md dir slot epoch s = _
  unfold execKeyRetireAck act; exact ⟨_, rfl⟩
theorem exec_laneLockRegain (port : Fin 6) (lane : Fin 4) (rx : Bool) : exec (.laneLockRegain port lane rx) s = execLaneLockRegain port lane rx s := rfl
theorem taken_laneLockRegain (port : Fin 6) (lane : Fin 4) (rx : Bool) : ∃ f, exec (.laneLockRegain port lane rx) s = actIf (live s) s f := by
  show ∃ f, execLaneLockRegain port lane rx s = _
  unfold execLaneLockRegain act; exact ⟨_, rfl⟩

/-- Every command is its effect, taken under its condition. -/
theorem exec_taken (c : Instr) : ∃ f, exec c s = actIf (takenWhen c s) s f := by
  cases c with
  | tickBoundary x0 => exact taken_tickBoundary s x0
  | tickNowLoRead x0 => exact taken_tickNowLoRead s x0
  | timeNowNsRead x0 x1 => exact taken_timeNowNsRead s x0 x1
  | lfrmSeqLoRead x0 x1 x2 => exact taken_lfrmSeqLoRead s x0 x1 x2
  | readClear x0 x1 x2 => exact taken_readClear s x0 x1 x2
  | registerWrite x0 x1 x2 x3 x4 => exact taken_registerWrite s x0 x1 x2 x3 x4
  | d2dLinkDegrade x0 x1 => exact taken_d2dLinkDegrade s x0 x1
  | snapReady x0 => exact taken_snapReady s x0
  | snapshotPullStart => exact taken_snapshotPullStart s
  | memberModeReenter => exact taken_memberModeReenter s
  | strmDb x0 x1 => exact taken_strmDb s x0 x1
  | descFetch x0 => exact taken_descFetch s x0
  | openStream x0 => exact taken_openStream s x0
  | closeStream x0 x1 => exact taken_closeStream s x0 x1
  | streamCloseDone x0 => exact taken_streamCloseDone s x0
  | arm x0 => exact taken_arm s x0
  | cancel x0 => exact taken_cancel s x0
  | clusterRebind x0 x1 => exact taken_clusterRebind s x0 x1
  | cringCfgWrite x0 x1 => exact taken_cringCfgWrite s x0 x1
  | cringHeadWrite x0 x1 => exact taken_cringHeadWrite s x0 x1
  | gemm x0 x1 => exact taken_gemm s x0 x1
  | projLeft x0 x1 => exact taken_projLeft s x0 x1
  | projRight x0 x1 => exact taken_projRight s x0 x1
  | residual x0 x1 => exact taken_residual s x0 x1
  | formDelta x0 x1 => exact taken_formDelta s x0 x1
  | exprec x0 x1 => exact taken_exprec s x0 x1
  | quant x0 x1 => exact taken_quant s x0 x1
  | gramA x0 x1 => exact taken_gramA s x0 x1
  | chol x0 x1 => exact taken_chol s x0 x1
  | trsolveA x0 x1 => exact taken_trsolveA s x0 x1
  | gramB x0 x1 => exact taken_gramB s x0 x1
  | trsolveB x0 x1 => exact taken_trsolveB s x0 x1
  | applyStep x0 x1 => exact taken_applyStep s x0 x1
  | convert x0 x1 => exact taken_convert s x0 x1
  | addOp x0 x1 => exact taken_addOp s x0 x1
  | mulOp x0 x1 => exact taken_mulOp s x0 x1
  | axpby x0 x1 => exact taken_axpby s x0 x1
  | maxmin x0 x1 => exact taken_maxmin s x0 x1
  | drawSketch x0 x1 => exact taken_drawSketch s x0 x1
  | drawStart x0 x1 => exact taken_drawStart s x0 x1
  | fill x0 x1 => exact taken_fill s x0 x1
  | pass x0 x1 => exact taken_pass s x0 x1
  | encodeCur x0 x1 => exact taken_encodeCur s x0 x1
  | encodeSlot x0 x1 => exact taken_encodeSlot s x0 x1
  | decode x0 x1 => exact taken_decode s x0 x1
  | collective x0 x1 => exact taken_collective s x0 x1
  | make x0 x1 => exact taken_make s x0 x1
  | check x0 x1 => exact taken_check s x0 x1
  | fabricOut x0 x1 => exact taken_fabricOut s x0 x1
  | lineOut x0 x1 => exact taken_lineOut s x0 x1
  | hostOut x0 x1 => exact taken_hostOut s x0 x1
  | load x0 x1 => exact taken_load s x0 x1
  | unload x0 x1 => exact taken_unload s x0 x1
  | tableLoadMessage x0 x1 x2 x3 x4 => exact taken_tableLoadMessage s x0 x1 x2 x3 x4
  | tableInstall x0 x1 => exact taken_tableInstall s x0 x1
  | tableLoadAck x0 x1 x2 => exact taken_tableLoadAck s x0 x1 x2
  | tableLoadRefusal x0 x1 x2 => exact taken_tableLoadRefusal s x0 x1 x2
  | loadTimeout => exact taken_loadTimeout s
  | codecCtxCfgWrite x0 x1 => exact taken_codecCtxCfgWrite s x0 x1
  | regionWrite x0 => exact taken_regionWrite s x0
  | regionRead x0 => exact taken_regionRead s x0
  | outerGateWrite x0 x1 => exact taken_outerGateWrite s x0 x1
  | patrolScrub x0 => exact taken_patrolScrub s x0
  | alloc x0 x1 => exact taken_alloc s x0 x1
  | addref x0 x1 => exact taken_addref s x0 x1
  | release x0 x1 => exact taken_release s x0 x1
  | query x0 x1 => exact taken_query s x0 x1
  | rebuild x0 x1 => exact taken_rebuild s x0 x1
  | rebuildDone x0 x1 => exact taken_rebuildDone s x0 x1
  | fabricFrameRx x0 x1 => exact taken_fabricFrameRx s x0 x1
  | pauseRx x0 x1 x2 => exact taken_pauseRx s x0 x1 x2
  | frameEgress x0 => exact taken_frameEgress s x0
  | frameAgeOut x0 x1 => exact taken_frameAgeOut s x0 x1
  | grant x0 x1 => exact taken_grant s x0 x1
  | gclLoad x0 x1 => exact taken_gclLoad s x0 x1
  | gclOff x0 x1 => exact taken_gclOff s x0 x1
  | subReload x0 x1 => exact taken_subReload s x0 x1
  | groupEnable x0 => exact taken_groupEnable s x0
  | groupDisable x0 => exact taken_groupDisable s x0
  | groupReload x0 => exact taken_groupReload s x0
  | collDb x0 x1 => exact taken_collDb s x0 x1
  | exchange => exact taken_exchange s
  | allReduce => exact taken_allReduce s
  | reduceScatter => exact taken_reduceScatter s
  | allGather => exact taken_allGather s
  | broadcast => exact taken_broadcast s
  | allToAll => exact taken_allToAll s
  | allToAllV => exact taken_allToAllV s
  | allMax => exact taken_allMax s
  | allMin => exact taken_allMin s
  | exponentRecordMessage x0 x1 x2 => exact taken_exponentRecordMessage s x0 x1 x2
  | checkMessage x0 x1 x2 x3 x4 => exact taken_checkMessage s x0 x1 x2 x3 x4
  | checkAck x0 x1 x2 x3 => exact taken_checkAck s x0 x1 x2 x3
  | checkTimeout => exact taken_checkTimeout s
  | recheck => exact taken_recheck s
  | abort x0 => exact taken_abort s x0
  | abortAnnounce x0 => exact taken_abortAnnounce s x0
  | roundReplay => exact taken_roundReplay s
  | lineFrameTx x0 x1 => exact taken_lineFrameTx s x0 x1
  | lineFrameRx x0 x1 => exact taken_lineFrameRx s x0 x1
  | reacquireTimeout x0 => exact taken_reacquireTimeout s x0
  | secondClassify x0 => exact taken_secondClassify s x0
  | clearCur x0 x1 => exact taken_clearCur s x0 x1
  | rtoExpire x0 x1 => exact taken_rtoExpire s x0 x1
  | loadAbandon x0 x1 => exact taken_loadAbandon s x0 x1
  | heldLoadRelease x0 x1 => exact taken_heldLoadRelease s x0 x1
  | laneLockLoss x0 x1 x2 => exact taken_laneLockLoss s x0 x1 x2
  | laneHoldExpire x0 x1 x2 => exact taken_laneHoldExpire s x0 x1 x2
  | laneMessage x0 x1 x2 => exact taken_laneMessage s x0 x1 x2
  | ldlvLaneCmdWrite x0 x1 => exact taken_ldlvLaneCmdWrite s x0 x1
  | install x0 x1 => exact taken_install s x0 x1
  | switchKey x0 x1 => exact taken_switchKey s x0 x1
  | retire x0 x1 => exact taken_retire s x0 x1
  | erase x0 x1 => exact taken_erase s x0 x1
  | keyRetirement x0 x1 => exact taken_keyRetirement s x0 x1
  | keyRetire x0 x1 x2 x3 => exact taken_keyRetire s x0 x1 x2 x3
  | sealInstall x0 x1 => exact taken_sealInstall s x0 x1
  | sealErase x0 x1 => exact taken_sealErase s x0 x1
  | commandFrame x0 => exact taken_commandFrame s x0
  | monitorFrame x0 x1 => exact taken_monitorFrame s x0 x1
  | lockLoopUpdate x0 => exact taken_lockLoopUpdate s x0
  | tuningComplete x0 => exact taken_tuningComplete s x0
  | acquisitionTimeout x0 => exact taken_acquisitionTimeout s x0
  | acquire x0 x1 => exact taken_acquire s x0 x1
  | dark x0 x1 => exact taken_dark s x0 x1
  | clearFailed x0 x1 => exact taken_clearFailed s x0 x1
  | push x0 x1 => exact taken_push s x0 x1
  | flush x0 x1 => exact taken_flush s x0 x1
  | steerMiss x0 x1 => exact taken_steerMiss s x0 x1
  | cmisGo x0 x1 => exact taken_cmisGo s x0 x1
  | cmisAccessDone x0 x1 x2 => exact taken_cmisAccessDone s x0 x1 x2
  | cmisPoll x0 x1 => exact taken_cmisPoll s x0 x1
  | beaconSend => exact taken_beaconSend s
  | beacon x0 x1 x2 x3 x4 => exact taken_beacon s x0 x1 x2 x3 x4
  | siteUnreachable x0 => exact taken_siteUnreachable s x0
  | propose x0 x1 x2 => exact taken_propose s x0 x1 x2
  | join x0 x1 x2 x3 => exact taken_join s x0 x1 x2 x3
  | viewTimeout => exact taken_viewTimeout s
  | view x0 x1 x2 x3 x4 x5 => exact taken_view s x0 x1 x2 x3 x4 x5
  | promiseCopyAck x0 => exact taken_promiseCopyAck s x0
  | joinReq x0 x1 x2 => exact taken_joinReq s x0 x1 x2
  | healReply x0 x1 x2 => exact taken_healReply s x0 x1 x2
  | ready x0 x1 x2 x3 => exact taken_ready s x0 x1 x2 x3
  | offer x0 x1 x2 x3 x4 => exact taken_offer s x0 x1 x2 x3 x4
  | accept x0 x1 x2 x3 => exact taken_accept s x0 x1 x2 x3
  | agreeTimeout => exact taken_agreeTimeout s
  | commit x0 x1 => exact taken_commit s x0 x1
  | heartbeatSend => exact taken_heartbeatSend s
  | heartbeat x0 => exact taken_heartbeat s x0
  | memberLost x0 x1 => exact taken_memberLost s x0 x1
  | healthEval => exact taken_healthEval s
  | expulsionRequest x0 x1 => exact taken_expulsionRequest s x0 x1
  | mirrorReceive x0 x1 x2 x3 x4 x5 x6 => exact taken_mirrorReceive s x0 x1 x2 x3 x4 x5 x6
  | mirrorAck x0 x1 => exact taken_mirrorAck s x0 x1
  | changeRecord x0 x1 x2 x3 x4 x5 x6 => exact taken_changeRecord s x0 x1 x2 x3 x4 x5 x6
  | changeRecordAck x0 x1 x2 x3 => exact taken_changeRecordAck s x0 x1 x2 x3
  | hoistSelftestDone x0 x1 => exact taken_hoistSelftestDone s x0 x1
  | hoistLoadDone x0 => exact taken_hoistLoadDone s x0
  | timeIncrNsWrite x0 x1 => exact taken_timeIncrNsWrite s x0 x1
  | setTime x0 x1 => exact taken_setTime s x0 x1
  | timeAdd x0 x1 => exact taken_timeAdd s x0 x1
  | ptpMessage x0 x1 x2 => exact taken_ptpMessage s x0 x1 x2
  | announceTimeout => exact taken_announceTimeout s
  | holdoverEnd => exact taken_holdoverEnd s
  | holdMaxExpire => exact taken_holdMaxExpire s
  | pulseEdge x0 => exact taken_pulseEdge s x0
  | timePCfgWrite x0 x1 => exact taken_timePCfgWrite s x0 x1
  | faultRecord x0 x1 x2 x3 => exact taken_faultRecord s x0 x1 x2 x3
  | wireAssert x0 x1 => exact taken_wireAssert s x0 x1
  | fltWireWrite x0 x1 => exact taken_fltWireWrite s x0 x1
  | fltRaise3Write x0 x1 => exact taken_fltRaise3Write s x0 x1
  | testDone x0 x1 => exact taken_testDone s x0 x1
  | quietPeriodEnd x0 => exact taken_quietPeriodEnd s x0
  | irqDb x0 x1 => exact taken_irqDb s x0 x1
  | serveBegin x0 x1 => exact taken_serveBegin s x0 x1
  | serveEnd x0 x1 => exact taken_serveEnd s x0 x1
  | spacingEnd x0 => exact taken_spacingEnd s x0
  | stuckSource x0 => exact taken_stuckSource s x0
  | unmask x0 x1 => exact taken_unmask s x0 x1
  | wakeInput x0 x1 => exact taken_wakeInput s x0 x1
  | irqWakeWrite x0 x1 => exact taken_irqWakeWrite s x0 x1
  | enable x0 x1 => exact taken_enable s x0 x1
  | drain x0 x1 => exact taken_drain s x0 x1
  | blockReset x0 x1 => exact taken_blockReset s x0 x1
  | selftest x0 x1 => exact taken_selftest s x0 x1
  | selftestDone x0 x1 => exact taken_selftestDone s x0 x1
  | blockStartDone x0 => exact taken_blockStartDone s x0
  | drainDone x0 => exact taken_drainDone s x0
  | blkLockWrite x0 x1 x2 => exact taken_blkLockWrite s x0 x1 x2
  | fullReset x0 x1 => exact taken_fullReset s x0 x1
  | perstN => exact taken_perstN s
  | cxlHotReset => exact taken_cxlHotReset s
  | glbWdogWrite x0 x1 => exact taken_glbWdogWrite s x0 x1
  | watchdogExpire x0 => exact taken_watchdogExpire s x0
  | cxlLinkUp x0 x1 => exact taken_cxlLinkUp s x0 x1
  | cxlLinkDown => exact taken_cxlLinkDown s
  | hdmDecoderCommit => exact taken_hdmDecoderCommit s
  | cxlMemRead x0 x1 => exact taken_cxlMemRead s x0 x1
  | cxlMemWrite x0 x1 => exact taken_cxlMemWrite s x0 x1
  | ideStop x0 x1 => exact taken_ideStop s x0 x1
  | privGateClose x0 x1 => exact taken_privGateClose s x0 x1
  | getInfo x0 => exact taken_getInfo s x0
  | authChallenge x0 => exact taken_authChallenge s x0
  | authResponse x0 => exact taken_authResponse s x0
  | jobCreate x0 => exact taken_jobCreate s x0
  | jobEnd x0 => exact taken_jobEnd s x0
  | jobStatus x0 => exact taken_jobStatus s x0
  | timeStep x0 => exact taken_timeStep s x0
  | fwStage x0 => exact taken_fwStage s x0
  | attestationRequest x0 => exact taken_attestationRequest s x0
  | kexCert x0 x1 x2 => exact taken_kexCert s x0 x1 x2
  | kexInit x0 x1 x2 => exact taken_kexInit s x0 x1 x2
  | kexReply x0 x1 x2 => exact taken_kexReply s x0 x1 x2
  | kexFail x0 x1 x2 x3 => exact taken_kexFail s x0 x1 x2 x3
  | kexRetry x0 x1 => exact taken_kexRetry s x0 x1
  | rekeyInterval x0 x1 => exact taken_rekeyInterval s x0 x1
  | sealMasterExchange x0 => exact taken_sealMasterExchange s x0
  | imageProven => exact taken_imageProven s
  | startupStepEnd x0 x1 x2 x3 => exact taken_startupStepEnd s x0 x1 x2 x3
  | pwrToP0 x0 => exact taken_pwrToP0 s x0
  | pwrToP1 x0 => exact taken_pwrToP1 s x0
  | pwrToP2 x0 => exact taken_pwrToP2 s x0
  | powerMoveDone => exact taken_powerMoveDone s
  | thermalSample x0 x1 => exact taken_thermalSample s x0 x1
  | currentSample x0 => exact taken_currentSample s x0
  | powerWindowEnd x0 => exact taken_powerWindowEnd s x0
  | promiseCopy x0 => exact taken_promiseCopy s x0
  | perstNRelease => exact taken_perstNRelease s
  | powerOn => exact taken_powerOn s
  | powerOff => exact taken_powerOff s
  | ideEstablished x0 => exact taken_ideEstablished s x0
  | syncInterval x0 x1 => exact taken_syncInterval s x0 x1
  | tableUnloadMessage x0 x1 x2 => exact taken_tableUnloadMessage s x0 x1 x2
  | keyRetireAck x0 x1 x2 x3 => exact taken_keyRetireAck s x0 x1 x2 x3
  | laneLockRegain x0 x1 x2 => exact taken_laneLockRegain s x0 x1 x2

end Sys2Proof.Machine
end

