-- ==== Sys2Proof/Laws/Memory.lean ====
section
/-!
SUPPORT. Laws of storage: a byte read after a write of a run of bytes, and that every memory operation keeps the canonical form.
-/
namespace Sys2Proof.Machine

variable {α : Type}

theorem mapFind_append (l m : List (Nat × α)) (a : Nat) : mapFind (l ++ m) a = (mapFind l a).or (mapFind m a) := by
  induction l with
  | nil => rfl
  | cons p t ih => obtain ⟨b, x⟩ := p; simp only [List.cons_append, mapFind]; split <;> simp [ih]

theorem mapFind_of_above {b a : Nat} : ∀ {l : List (Nat × α)}, KeysAbove b l → a ≤ b → mapFind l a = none
  | [], _, _ => rfl
  | (c, x) :: t, h, ha => by
    have h1 : ¬ c = a := by have := h.1; omega
    simp only [mapFind, h1, if_false]
    exact mapFind_of_above (h.2.mono (by have := h.1; omega)) ha

theorem mapFind_takeWhile (k a : Nat) : ∀ {l : List (Nat × α)}, keysRise l = true →
    mapFind (l.takeWhile (fun c => decide (c.1 < k))) a = if a < k then mapFind l a else none
  | [], _ => by simp [mapFind]
  | (b, x) :: t, h => by
    rw [keysRise_cons] at h
    have ih := mapFind_takeWhile k a (keysRise_of_above h)
    by_cases hb : b < k
    · simp only [List.takeWhile_cons, decide_eq_true hb, if_true, mapFind, ih]
      by_cases hab : b = a
      · subst hab; simp [hb]
      · simp [hab]
    · simp only [List.takeWhile_cons, decide_eq_false hb, mapFind]
      by_cases hak : a < k
      · have : ¬ b = a := by omega
        simp only [hak, if_true, this, if_false]
        exact (mapFind_of_above h (by simp only; omega)).symm
      · simp [hak, mapFind]

theorem mapFind_dropWhile (k a : Nat) : ∀ {l : List (Nat × α)}, keysRise l = true →
    mapFind (l.dropWhile (fun c => decide (c.1 < k))) a = if a < k then none else mapFind l a
  | [], _ => by simp [mapFind]
  | (b, x) :: t, h => by
    have hr := h
    rw [keysRise_cons] at h
    have ih := mapFind_dropWhile k a (keysRise_of_above h)
    by_cases hb : b < k
    · simp only [List.dropWhile_cons, decide_eq_true hb, if_true, mapFind, ih]
      by_cases hak : a < k
      · simp [hak]
      · have : ¬ b = a := by omega
        simp [hak, this]
    · simp only [List.dropWhile_cons, decide_eq_false hb]
      by_cases hak : a < k
      · have hba : ¬ b = a := by omega
        simp only [hak, if_true, mapFind, hba, if_false, Bool.false_eq_true]
        exact mapFind_of_above h (by simp only; omega)
      · simp [hak]

theorem keysRise_takeWhile (k : Nat) : ∀ {l : List (Nat × α)} {b : Nat}, KeysAbove b l →
    KeysAbove b (l.takeWhile (fun c => decide (c.1 < k)))
  | [], _, _ => trivial
  | (c, x) :: t, b, h => by
    simp only [List.takeWhile_cons]
    split
    · exact ⟨h.1, keysRise_takeWhile k h.2⟩
    · trivial

/-- A run of bytes' cells lie from k on. -/
theorem keysAbove_runCells : ∀ (bs : List Byte) (k b : Nat), b < k → KeysAbove b (runCells k bs)
  | [], _, _, _ => trivial
  | x :: t, k, b, h => by
    simp only [runCells]
    split
    · exact keysAbove_runCells t (k + 1) b (by omega)
    · exact ⟨h, keysAbove_runCells t (k + 1) k (by omega)⟩

theorem mapFind_runCells (a : Nat) : ∀ (bs : List Byte) (k : Nat),
    (mapFind (runCells k bs) a).getD memDefault = if k ≤ a ∧ a < k + bs.length then nthD memDefault bs (a - k) else memDefault
  | [], k => by
    have : ¬ (k ≤ a ∧ a < k) := by omega
    simp [runCells, mapFind, this]
  | x :: t, k => by
    have ih := mapFind_runCells a t (k + 1)
    simp only [runCells, List.length_cons]
    by_cases hka : k = a
    · subst hka
      have h1 : mapFind (runCells (k + 1) t) k = none := mapFind_of_above (keysAbove_runCells t (k + 1) k (by omega)) (by omega)
      split
      · rename_i hx; simp [h1, nthD, hx]
      · simp [mapFind, nthD]
    · have e : (if k ≤ a ∧ a < k + (t.length + 1) then nthD memDefault (x :: t) (a - k) else memDefault)
          = (if k + 1 ≤ a ∧ a < k + 1 + t.length then nthD memDefault t (a - (k + 1)) else memDefault) := by
        by_cases h : k + 1 ≤ a ∧ a < k + 1 + t.length
        · have h2 : k ≤ a ∧ a < k + (t.length + 1) := by omega
          rw [if_pos h, if_pos h2, show a - k = (a - (k + 1)) + 1 by omega]; rfl
        · have h2 : ¬ (k ≤ a ∧ a < k + (t.length + 1)) := by omega
          rw [if_neg h, if_neg h2]
      rw [e]
      split
      · exact ih
      · simp only [mapFind, hka, if_false]; exact ih

theorem mapFind_runCells_out (a k : Nat) (bs : List Byte) (h : ¬ (k ≤ a ∧ a < k + bs.length)) : mapFind (runCells k bs) a = none := by
  induction bs generalizing k with
  | nil => rfl
  | cons x t ih =>
    simp only [List.length_cons] at h
    simp only [runCells]
    split
    · exact ih (k + 1) (by omega)
    · have : ¬ k = a := by omega
      simp only [mapFind, this, if_false]
      exact ih (k + 1) (by omega)

/-- The canonical form gives rising keys. -/
theorem wf_rise {m : List Host.Cell} (h : Memory.wf m = true) : keysRise m = true := by
  simp only [Memory.wf, Bool.and_eq_true] at h; exact h.1

/-- A byte after a write of a run: the run's byte inside it, the old byte outside. -/
theorem memByte_memWrite {m : List Host.Cell} (h : Memory.wf m = true) (k : Nat) (bs : List Byte) (a : Nat) :
    memByte (memWrite m k bs) a = if k ≤ a ∧ a < k + bs.length then nthD memDefault bs (a - k) else memByte m a := by
  have hr := wf_rise h
  have r := mapFind_runCells a bs k
  simp only [memByte, mapGet_eq, memWrite, mapFind_append, mapFind_takeWhile k a hr, mapFind_dropWhile _ a hr]
  by_cases h1 : k ≤ a ∧ a < k + bs.length
  · rw [if_pos h1] at r ⊢
    have h2 : ¬ a < k := by omega
    simp only [h2, if_false, h1.2, if_true, Option.none_or, Option.or_none]
    exact r
  · rw [if_neg h1]
    rw [mapFind_runCells_out a k bs h1]
    by_cases h2 : a < k
    · have h3 : a < k + bs.length := by omega
      simp [h2, h3]
    · have h3 : ¬ a < k + bs.length := by omega
      simp [h2, h3]

/-- A byte outside the run written is as it was. -/
theorem memByte_memWrite_out {m : List Host.Cell} (h : Memory.wf m = true) (k : Nat) (bs : List Byte) (a : Nat)
    (ha : a < k ∨ k + bs.length ≤ a) : memByte (memWrite m k bs) a = memByte m a := by
  rw [memByte_memWrite h, if_neg (by omega)]

theorem keysRise_append {l m : List (Nat × α)} (k : Nat) (hl : keysRise l = true) (hlk : ∀ p ∈ l, p.1 < k)
    (hm : keysRise m = true) (hmk : ∀ p ∈ m, k ≤ p.1) : keysRise (l ++ m) = true := by
  have above : ∀ (l : List (Nat × α)) (b : Nat), (∀ p ∈ l, b < p.1) → keysRise l = true → KeysAbove b l := by
    intro l b hb hr
    cases l with
    | nil => trivial
    | cons p t => obtain ⟨c, x⟩ := p; rw [keysRise_cons] at hr; exact ⟨hb _ List.mem_cons_self, hr⟩
  have mem_above : ∀ {l : List (Nat × α)} {b : Nat}, KeysAbove b l → ∀ p ∈ l, b < p.1 := by
    intro l
    induction l with
    | nil => intro b _ p hp; simp at hp
    | cons q t ih =>
      intro b hb p hp
      obtain ⟨c, x⟩ := q
      rcases List.mem_cons.1 hp with rfl | hp
      · exact hb.1
      · exact lt_trans hb.1 (ih hb.2 p hp)
  induction l with
  | nil => exact hm
  | cons q t ih =>
    rw [keysRise_cons] at hl
    rw [List.cons_append, keysRise_cons]
    have ht := ih (keysRise_of_above hl) (fun p hp => hlk p (List.mem_cons_of_mem _ hp))
    refine above _ _ (fun p hp => ?_) ht
    rcases List.mem_append.1 hp with hp | hp
    · exact mem_above hl p hp
    · exact lt_of_lt_of_le (hlk q List.mem_cons_self) (hmk p hp)

theorem keysAbove_mem {l : List (Nat × α)} {b : Nat} (h : KeysAbove b l) : ∀ p ∈ l, b < p.1 := by
  induction l generalizing b with
  | nil => intro p hp; simp at hp
  | cons q t ih =>
    intro p hp
    obtain ⟨c, x⟩ := q
    rcases List.mem_cons.1 hp with rfl | hp
    · exact h.1
    · exact lt_trans h.1 (ih h.2 p hp)

theorem dropWhile_ge {l : List (Nat × α)} (e : Nat) (h : keysRise l = true) : ∀ p ∈ l.dropWhile (fun c => decide (c.1 < e)), e ≤ p.1 := by
  induction l with
  | nil => intro p hp; simp at hp
  | cons q t ih =>
    rw [keysRise_cons] at h
    simp only [List.dropWhile_cons]
    split
    · exact ih (keysRise_of_above h)
    · rename_i hq
      intro p hp
      have hq' : e ≤ q.1 := by simpa using hq
      rcases List.mem_cons.1 hp with rfl | hp
      · exact hq'
      · exact le_trans hq' (le_of_lt (keysAbove_mem h p hp))

theorem keysRise_dropWhile {l : List (Nat × α)} (e : Nat) (h : keysRise l = true) :
    keysRise (l.dropWhile (fun c => decide (c.1 < e))) = true := by
  induction l with
  | nil => rfl
  | cons q t ih =>
    simp only [List.dropWhile_cons]
    split
    · rw [keysRise_cons] at h; exact ih (keysRise_of_above h)
    · exact h

theorem keysRise_takeWhile' {l : List (Nat × α)} (k : Nat) (h : keysRise l = true) :
    keysRise (l.takeWhile (fun c => decide (c.1 < k))) = true := by
  cases l with
  | nil => rfl
  | cons q t =>
    obtain ⟨a, x⟩ := q
    rw [keysRise_cons] at h
    simp only [List.takeWhile_cons]
    split
    · rw [keysRise_cons]; exact keysRise_takeWhile k h
    · rfl

theorem runCells_lt : ∀ (bs : List Byte) (k : Nat), ∀ p ∈ runCells k bs, p.1 < k + bs.length ∧ p.2 ≠ memDefault
  | [], _, p, hp => by simp [runCells] at hp
  | x :: t, k, p, hp => by
    simp only [runCells] at hp
    have ih := runCells_lt t (k + 1)
    simp only [List.length_cons]
    split at hp
    · have := ih p hp; exact ⟨by omega, this.2⟩
    · rename_i hx
      rcases List.mem_cons.1 hp with rfl | hp
      · exact ⟨by simp only; omega, hx⟩
      · have := ih p hp; exact ⟨by omega, this.2⟩

theorem takeWhile_lt {l : List (Nat × α)} (k : Nat) : ∀ p ∈ l.takeWhile (fun c => decide (c.1 < k)), p.1 < k := by
  induction l with
  | nil => intro p hp; simp at hp
  | cons q t ih =>
    intro p hp
    simp only [List.takeWhile_cons] at hp
    split at hp
    · rename_i hq
      rcases List.mem_cons.1 hp with rfl | hp
      · simpa using hq
      · exact ih p hp
    · simp at hp

/-- The canonical form is kept by a write. -/
theorem memWrite_wf {m : List Host.Cell} (h : Memory.wf m = true) (k : Nat) (bs : List Byte) : Memory.wf (memWrite m k bs) = true := by
  have hr := wf_rise h
  have hall : ∀ p ∈ m, p.2 ≠ memDefault := by
    simp only [Memory.wf, Bool.and_eq_true, List.all_eq_true, decide_eq_true_eq] at h; exact fun p hp => h.2 p hp
  have ht := takeWhile_lt (l := m) k
  simp only [Memory.wf, Bool.and_eq_true, List.all_eq_true, decide_eq_true_eq]
  constructor
  · unfold memWrite
    refine keysRise_append k (keysRise_takeWhile' k hr) ht ?_ ?_
    · refine keysRise_append (k + bs.length) ?_ (fun p hp => (runCells_lt bs k p hp).1) (keysRise_dropWhile _ hr) (dropWhile_ge _ hr)
      cases k with
      | zero =>
        cases bs with
        | nil => rfl
        | cons x t =>
          simp only [runCells]
          split
          · exact keysRise_of_above (keysAbove_runCells t 1 0 (by omega))
          · rw [keysRise_cons]; exact keysAbove_runCells t 1 0 (by omega)
      | succ n => exact keysRise_of_above (keysAbove_runCells bs (n + 1) n (by omega))
    · intro p hp
      rcases List.mem_append.1 hp with hp | hp
      · cases k with
        | zero => omega
        | succ n => exact keysAbove_mem (keysAbove_runCells bs (n + 1) n (by omega)) p hp
      · have := dropWhile_ge _ hr p hp; omega
  · intro p hp
    unfold memWrite at hp
    rcases List.mem_append.1 hp with hp | hp
    · exact hall p ((List.takeWhile_prefix _).subset hp)
    · rcases List.mem_append.1 hp with hp | hp
      · exact (runCells_lt bs k p hp).2
      · exact hall p ((List.dropWhile_suffix _).subset hp)

@[simp] theorem nil_wf : Memory.wf [] = true := rfl

/-- A raw write of storage keeps the canonical form. -/
theorem rawWrite_wf {s : State} (h : Memory.wf s.mem = true) (k : Nat) (bs : List Byte) : Memory.wf (rawWrite s k bs).mem = true :=
  memWrite_wf h k bs

/-- The bytes read from a run are its bytes one by one. -/
theorem readRun_length : ∀ (n k : Nat) (m : List Host.Cell), (readRun n k m).length = n
  | 0, _, _ => rfl
  | n + 1, k, [] => by simp [readRun, readRun_length n (k + 1) []]
  | n + 1, k, (a, b) :: t => by
    simp only [readRun]
    split <;> simp [readRun_length n (k + 1)]

@[simp] theorem memRead_length (m : List Host.Cell) (k n : Nat) : (memRead m k n).length = n := readRun_length _ _ _

theorem readRun_nth : ∀ (n k : Nat) (m : List Host.Cell) (i : Nat), keysRise m = true → (∀ p ∈ m, k ≤ p.1) → i < n →
    nthD memDefault (readRun n k m) i = memByte m (k + i)
  | 0, _, _, _, _, _, h => absurd h (by omega)
  | n + 1, k, [], i, _, _, h => by
    cases i with
    | zero => rfl
    | succ i =>
      have := readRun_nth n (k + 1) [] i rfl (by simp) (by omega)
      simp only [readRun, nthD, this]; rfl
  | n + 1, k, (a, b) :: t, i, hr, hk, h => by
    have hka : k ≤ a := hk (a, b) List.mem_cons_self
    have habove := hr
    rw [keysRise_cons] at habove
    simp only [readRun]
    split
    · rename_i e; subst e
      cases i with
      | zero => simp [nthD, memByte, mapGet]
      | succ i =>
        have ih := readRun_nth n (a + 1) t i (keysRise_of_above habove) (fun p hp => keysAbove_mem habove p hp) (by omega)
        simp only [nthD, ih, memByte, mapGet, show ¬ a = a + (i + 1) by omega, if_false]
        congr 1; omega
    · rename_i hne
      cases i with
      | zero =>
        have hn : ¬ a = k := hne
        simp only [nthD, memByte, mapGet, Nat.add_zero, hn, if_false, mapGet_eq]
        rw [mapFind_of_above habove (by simp only; omega)]; rfl
      | succ i =>
        have ih := readRun_nth n (k + 1) ((a, b) :: t) i hr (fun p hp => by
          rcases List.mem_cons.1 hp with rfl | hp
          · simp only; omega
          · have := keysAbove_mem habove p hp; simp only at this; omega) (by omega)
        simp only [nthD, ih]; congr 1; omega

/-- Byte i of a read is the byte there. -/
theorem memRead_nth {m : List Host.Cell} (h : Memory.wf m = true) (k n i : Nat) (hi : i < n) :
    nthD memDefault (memRead m k n) i = memByte m (k + i) := by
  have hr := wf_rise h
  unfold memRead
  rw [readRun_nth n k _ i (keysRise_dropWhile k hr) (dropWhile_ge k hr) hi]
  simp only [memByte, mapGet_eq, mapFind_dropWhile k _ hr, show ¬ k + i < k by omega, if_false]

end Sys2Proof.Machine
end

