-- ==== Sys2Proof/Laws/PerInstr.lean ====
section
/-!
SUPPORT. The per-instruction family Window: of the commands that come through a register window, only the two general register
accesses can be ill-formed.
-/
namespace Sys2Proof.Laws.Window

/-- A command through a window is well-formed whatever its operands, READ_CLEAR and REGISTER_WRITE apart. -/
def Statement (i : Instr) : Prop :=
  ∀ w, i.window = some w → i.wf = true ∨ (∃ p o, i = .readClear w p o) ∨ (∃ p o n v, i = .registerWrite w p o n v)

theorem tickBoundary (env : TickEnv) : Statement (.tickBoundary env) := by intro _ h; cases h
theorem tickNowLoRead (w : Win) : Statement (.tickNowLoRead w) := fun _ _ => .inl rfl
theorem timeNowNsRead (w : Win) (elapsed : Nat) : Statement (.timeNowNsRead w elapsed) := fun _ _ => .inl rfl
theorem lfrmSeqLoRead (w : Win) (md : Fin 2) (rx : Bool) : Statement (.lfrmSeqLoRead w md rx) := fun _ _ => .inl rfl
theorem readClear (w : Win) (page : BitVec 12) (off : BitVec 12) : Statement (.readClear w page off) := by
  intro w' h; cases h; exact .inr (.inl ⟨_, _, rfl⟩)
theorem registerWrite (w : Win) (page : BitVec 12) (off : BitVec 12) (size : Nat) (v : DWord) : Statement (.registerWrite w page off size v) := by
  intro w' h; cases h; exact .inr (.inr ⟨_, _, _, _, rfl⟩)
theorem d2dLinkDegrade (die : Fin 8) (link : Fin 3) : Statement (.d2dLinkDegrade die link) := by intro _ h; cases h
theorem snapReady (msg : SnapReady) : Statement (.snapReady msg) := by intro _ h; cases h
theorem snapshotPullStart : Statement .snapshotPullStart := by intro _ h; cases h
theorem memberModeReenter : Statement .memberModeReenter := by intro _ h; cases h
theorem strmDb (w : Win) (v : Word) : Statement (.strmDb w v) := fun _ _ => .inl rfl
theorem descFetch (slot : BitVec 12) : Statement (.descFetch slot) := by intro _ h; cases h
theorem openStream (w : Win) : Statement (.openStream w) := fun _ _ => .inl rfl
theorem closeStream (w : Win) (slot : BitVec 12) : Statement (.closeStream w slot) := fun _ _ => .inl rfl
theorem streamCloseDone (slot : BitVec 12) : Statement (.streamCloseDone slot) := by intro _ h; cases h
theorem arm (w : Win) : Statement (.arm w) := fun _ _ => .inl rfl
theorem cancel (w : Win) : Statement (.cancel w) := fun _ _ => .inl rfl
theorem clusterRebind (die : Fin 8) (cluster : Fin 40) : Statement (.clusterRebind die cluster) := by intro _ h; cases h
theorem cringCfgWrite (w : Win) (v : Word) : Statement (.cringCfgWrite w v) := fun _ _ => .inl rfl
theorem cringHeadWrite (w : Win) (v : Word) : Statement (.cringHeadWrite w v) := fun _ _ => .inl rfl
theorem gemm (slot : BitVec 12) (seq : BitVec 48) : Statement (.gemm slot seq) := by intro _ h; cases h
theorem projLeft (slot : BitVec 12) (seq : BitVec 48) : Statement (.projLeft slot seq) := by intro _ h; cases h
theorem projRight (slot : BitVec 12) (seq : BitVec 48) : Statement (.projRight slot seq) := by intro _ h; cases h
theorem residual (slot : BitVec 12) (seq : BitVec 48) : Statement (.residual slot seq) := by intro _ h; cases h
theorem formDelta (slot : BitVec 12) (seq : BitVec 48) : Statement (.formDelta slot seq) := by intro _ h; cases h
theorem exprec (slot : BitVec 12) (seq : BitVec 48) : Statement (.exprec slot seq) := by intro _ h; cases h
theorem quant (slot : BitVec 12) (seq : BitVec 48) : Statement (.quant slot seq) := by intro _ h; cases h
theorem gramA (slot : BitVec 12) (seq : BitVec 48) : Statement (.gramA slot seq) := by intro _ h; cases h
theorem chol (slot : BitVec 12) (seq : BitVec 48) : Statement (.chol slot seq) := by intro _ h; cases h
theorem trsolveA (slot : BitVec 12) (seq : BitVec 48) : Statement (.trsolveA slot seq) := by intro _ h; cases h
theorem gramB (slot : BitVec 12) (seq : BitVec 48) : Statement (.gramB slot seq) := by intro _ h; cases h
theorem trsolveB (slot : BitVec 12) (seq : BitVec 48) : Statement (.trsolveB slot seq) := by intro _ h; cases h
theorem applyStep (slot : BitVec 12) (seq : BitVec 48) : Statement (.applyStep slot seq) := by intro _ h; cases h
theorem convert (slot : BitVec 12) (seq : BitVec 48) : Statement (.convert slot seq) := by intro _ h; cases h
theorem addOp (slot : BitVec 12) (seq : BitVec 48) : Statement (.addOp slot seq) := by intro _ h; cases h
theorem mulOp (slot : BitVec 12) (seq : BitVec 48) : Statement (.mulOp slot seq) := by intro _ h; cases h
theorem axpby (slot : BitVec 12) (seq : BitVec 48) : Statement (.axpby slot seq) := by intro _ h; cases h
theorem maxmin (slot : BitVec 12) (seq : BitVec 48) : Statement (.maxmin slot seq) := by intro _ h; cases h
theorem drawSketch (slot : BitVec 12) (seq : BitVec 48) : Statement (.drawSketch slot seq) := by intro _ h; cases h
theorem drawStart (slot : BitVec 12) (seq : BitVec 48) : Statement (.drawStart slot seq) := by intro _ h; cases h
theorem fill (slot : BitVec 12) (seq : BitVec 48) : Statement (.fill slot seq) := by intro _ h; cases h
theorem pass (slot : BitVec 12) (seq : BitVec 48) : Statement (.pass slot seq) := by intro _ h; cases h
theorem encodeCur (slot : BitVec 12) (seq : BitVec 48) : Statement (.encodeCur slot seq) := by intro _ h; cases h
theorem encodeSlot (slot : BitVec 12) (seq : BitVec 48) : Statement (.encodeSlot slot seq) := by intro _ h; cases h
theorem decode (slot : BitVec 12) (seq : BitVec 48) : Statement (.decode slot seq) := by intro _ h; cases h
theorem collective (slot : BitVec 12) (seq : BitVec 48) : Statement (.collective slot seq) := by intro _ h; cases h
theorem make (slot : BitVec 12) (seq : BitVec 48) : Statement (.make slot seq) := by intro _ h; cases h
theorem check (slot : BitVec 12) (seq : BitVec 48) : Statement (.check slot seq) := by intro _ h; cases h
theorem fabricOut (slot : BitVec 12) (seq : BitVec 48) : Statement (.fabricOut slot seq) := by intro _ h; cases h
theorem lineOut (slot : BitVec 12) (seq : BitVec 48) : Statement (.lineOut slot seq) := by intro _ h; cases h
theorem hostOut (slot : BitVec 12) (seq : BitVec 48) : Statement (.hostOut slot seq) := by intro _ h; cases h
theorem load (w : Win) (v : Word) : Statement (.load w v) := fun _ _ => .inl rfl
theorem unload (w : Win) (v : Word) : Statement (.unload w v) := fun _ _ => .inl rfl
theorem tableLoadMessage (port : Fin 7) (node : BitVec 16) (slot : Fin 8) (gen : Fin 32) (bytes : List Byte) : Statement (.tableLoadMessage port node slot gen bytes) := by intro _ h; cases h
theorem tableInstall (ctx : Fin 128) (slot : Fin 8) : Statement (.tableInstall ctx slot) := by intro _ h; cases h
theorem tableLoadAck (node : BitVec 16) (slot : Fin 8) (gen : Fin 32) : Statement (.tableLoadAck node slot gen) := by intro _ h; cases h
theorem tableLoadRefusal (node : BitVec 16) (slot : Fin 8) (gen : Fin 32) : Statement (.tableLoadRefusal node slot gen) := by intro _ h; cases h
theorem loadTimeout : Statement .loadTimeout := by intro _ h; cases h
theorem codecCtxCfgWrite (w : Win) (v : Word) : Statement (.codecCtxCfgWrite w v) := fun _ _ => .inl rfl
theorem regionWrite (w : Win) : Statement (.regionWrite w) := fun _ _ => .inl rfl
theorem regionRead (w : Win) : Statement (.regionRead w) := fun _ _ => .inl rfl
theorem outerGateWrite (w : Win) (v : Word) : Statement (.outerGateWrite w v) := fun _ _ => .inl rfl
theorem patrolScrub (stack : Fin 16) : Statement (.patrolScrub stack) := by intro _ h; cases h
theorem alloc (w : Win) (v : Word) : Statement (.alloc w v) := fun _ _ => .inl rfl
theorem addref (w : Win) (v : Word) : Statement (.addref w v) := fun _ _ => .inl rfl
theorem release (w : Win) (v : Word) : Statement (.release w v) := fun _ _ => .inl rfl
theorem query (w : Win) (v : Word) : Statement (.query w v) := fun _ _ => .inl rfl
theorem rebuild (w : Win) (v : Word) : Statement (.rebuild w v) := fun _ _ => .inl rfl
theorem rebuildDone (pool : Fin 5) (seg : Fin 8) : Statement (.rebuildDone pool seg) := by intro _ h; cases h
theorem fabricFrameRx (port : Fin 7) (bytes : List Byte) : Statement (.fabricFrameRx port bytes) := by intro _ h; cases h
theorem pauseRx (port : Fin 4) (prio : Fin 8) (on : Bool) : Statement (.pauseRx port prio on) := by intro _ h; cases h
theorem frameEgress (port : Fin 7) : Statement (.frameEgress port) := by intro _ h; cases h
theorem frameAgeOut (port : Fin 7) (cls : Fin 8) : Statement (.frameAgeOut port cls) := by intro _ h; cases h
theorem grant (port : Fin 7) (bytes : List Byte) : Statement (.grant port bytes) := by intro _ h; cases h
theorem gclLoad (w : Win) (v : Word) : Statement (.gclLoad w v) := fun _ _ => .inl rfl
theorem gclOff (w : Win) (v : Word) : Statement (.gclOff w v) := fun _ _ => .inl rfl
theorem subReload (w : Win) (v : Word) : Statement (.subReload w v) := fun _ _ => .inl rfl
theorem groupEnable (w : Win) : Statement (.groupEnable w) := fun _ _ => .inl rfl
theorem groupDisable (w : Win) : Statement (.groupDisable w) := fun _ _ => .inl rfl
theorem groupReload (w : Win) : Statement (.groupReload w) := fun _ _ => .inl rfl
theorem collDb (w : Win) (v : Word) : Statement (.collDb w v) := fun _ _ => .inl rfl
theorem exchange : Statement .exchange := by intro _ h; cases h
theorem allReduce : Statement .allReduce := by intro _ h; cases h
theorem reduceScatter : Statement .reduceScatter := by intro _ h; cases h
theorem allGather : Statement .allGather := by intro _ h; cases h
theorem broadcast : Statement .broadcast := by intro _ h; cases h
theorem allToAll : Statement .allToAll := by intro _ h; cases h
theorem allToAllV : Statement .allToAllV := by intro _ h; cases h
theorem allMax : Statement .allMax := by intro _ h; cases h
theorem allMin : Statement .allMin := by intro _ h; cases h
theorem exponentRecordMessage (node : BitVec 16) (group : BitVec 12) (bytes : List Byte) : Statement (.exponentRecordMessage node group bytes) := by intro _ h; cases h
theorem checkMessage (node : BitVec 16) (group : BitVec 12) (round : BitVec 48) (chunk : DWord) (crc : DWord) : Statement (.checkMessage node group round chunk crc) := by intro _ h; cases h
theorem checkAck (node : BitVec 16) (group : BitVec 12) (round : BitVec 48) (chunk : DWord) : Statement (.checkAck node group round chunk) := by intro _ h; cases h
theorem checkTimeout : Statement .checkTimeout := by intro _ h; cases h
theorem recheck : Statement .recheck := by intro _ h; cases h
theorem abort (w : Win) : Statement (.abort w) := fun _ _ => .inl rfl
theorem abortAnnounce (round : BitVec 48) : Statement (.abortAnnounce round) := by intro _ h; cases h
theorem roundReplay : Statement .roundReplay := by intro _ h; cases h
theorem lineFrameTx (md : Fin 2) (sc : Byte) : Statement (.lineFrameTx md sc) := by intro _ h; cases h
theorem lineFrameRx (md : Fin 2) (bytes : List Byte) : Statement (.lineFrameRx md bytes) := by intro _ h; cases h
theorem reacquireTimeout (md : Fin 2) : Statement (.reacquireTimeout md) := by intro _ h; cases h
theorem secondClassify (md : Fin 2) : Statement (.secondClassify md) := by intro _ h; cases h
theorem clearCur (w : Win) (md : Fin 2) : Statement (.clearCur w md) := fun _ _ => .inl rfl
theorem rtoExpire (md : Fin 2) (dir : Fin 4) : Statement (.rtoExpire md dir) := by intro _ h; cases h
theorem loadAbandon (md : Fin 2) (dir : Fin 4) : Statement (.loadAbandon md dir) := by intro _ h; cases h
theorem heldLoadRelease (md : Fin 2) (dir : Fin 4) : Statement (.heldLoadRelease md dir) := by intro _ h; cases h
theorem laneLockLoss (port : Fin 6) (lane : Fin 4) (rx : Bool) : Statement (.laneLockLoss port lane rx) := by intro _ h; cases h
theorem laneHoldExpire (port : Fin 6) (lane : Fin 4) (rx : Bool) : Statement (.laneHoldExpire port lane rx) := by intro _ h; cases h
theorem laneMessage (md : Fin 2) (lanes : Fin 5) (tick : DWord) : Statement (.laneMessage md lanes tick) := by intro _ h; cases h
theorem ldlvLaneCmdWrite (w : Win) (v : Word) : Statement (.ldlvLaneCmdWrite w v) := fun _ _ => .inl rfl
theorem install (w : Win) (v : Word) : Statement (.install w v) := fun _ _ => .inl rfl
theorem switchKey (w : Win) (v : Word) : Statement (.switchKey w v) := fun _ _ => .inl rfl
theorem retire (w : Win) (v : Word) : Statement (.retire w v) := fun _ _ => .inl rfl
theorem erase (w : Win) (v : Word) : Statement (.erase w v) := fun _ _ => .inl rfl
theorem keyRetirement (md : Fin 2) (dir : Fin 4) : Statement (.keyRetirement md dir) := by intro _ h; cases h
theorem keyRetire (md : Fin 2) (dir : Fin 4) (slot : Fin 2) (epoch : Word) : Statement (.keyRetire md dir slot epoch) := by intro _ h; cases h
theorem sealInstall (w : Win) (v : Word) : Statement (.sealInstall w v) := fun _ _ => .inl rfl
theorem sealErase (w : Win) (v : Word) : Statement (.sealErase w v) := fun _ _ => .inl rfl
theorem commandFrame (md : Fin 2) : Statement (.commandFrame md) := by intro _ h; cases h
theorem monitorFrame (md : Fin 2) (bytes : List Byte) : Statement (.monitorFrame md bytes) := by intro _ h; cases h
theorem lockLoopUpdate (md : Fin 2) : Statement (.lockLoopUpdate md) := by intro _ h; cases h
theorem tuningComplete (md : Fin 2) : Statement (.tuningComplete md) := by intro _ h; cases h
theorem acquisitionTimeout (md : Fin 2) : Statement (.acquisitionTimeout md) := by intro _ h; cases h
theorem acquire (w : Win) (v : Word) : Statement (.acquire w v) := fun _ _ => .inl rfl
theorem dark (w : Win) (v : Word) : Statement (.dark w v) := fun _ _ => .inl rfl
theorem clearFailed (w : Win) (v : Word) : Statement (.clearFailed w v) := fun _ _ => .inl rfl
theorem push (w : Win) (v : Word) : Statement (.push w v) := fun _ _ => .inl rfl
theorem flush (w : Win) (v : Word) : Statement (.flush w v) := fun _ _ => .inl rfl
theorem steerMiss (md : Fin 2) (side : Bool) : Statement (.steerMiss md side) := by intro _ h; cases h
theorem cmisGo (w : Win) (v : Word) : Statement (.cmisGo w v) := fun _ _ => .inl rfl
theorem cmisAccessDone (md : Fin 2) (ok : Bool) (data : Byte) : Statement (.cmisAccessDone md ok data) := by intro _ h; cases h
theorem cmisPoll (md : Fin 2) (poll : CmisPoll) : Statement (.cmisPoll md poll) := by intro _ h; cases h
theorem beaconSend : Statement .beaconSend := by intro _ h; cases h
theorem beacon (h : SiteHdr) (crc : DWord) (joined : Word) (committed : BitVec 48) (grant : Option DWord) : Statement (.beacon h crc joined committed grant) := by intro _ h; cases h
theorem siteUnreachable (site : BitVec 8) : Statement (.siteUnreachable site) := by intro _ h; cases h
theorem propose (h : SiteHdr) (epoch : Word) (view : Word) : Statement (.propose h epoch view) := by intro _ h; cases h
theorem join (h : SiteHdr) (epoch : Word) (committed : BitVec 48) (acc : Option Accepted) : Statement (.join h epoch committed acc) := by intro _ h; cases h
theorem viewTimeout : Statement .viewTimeout := by intro _ h; cases h
theorem view (h : SiteHdr) (epoch : Word) (members : Word) (committed : BitVec 48) (decided : Option (BitVec 48 × DWord)) (swaps : List (BitVec 16 × BitVec 16)) : Statement (.view h epoch members committed decided swaps) := by intro _ h; cases h
theorem promiseCopyAck (p : Promise) : Statement (.promiseCopyAck p) := by intro _ h; cases h
theorem joinReq (h : SiteHdr) (committed : BitVec 48) (acc : Option (BitVec 48)) : Statement (.joinReq h committed acc) := by intro _ h; cases h
theorem healReply (h : SiteHdr) (committed : BitVec 48) (digest : Option DWord) : Statement (.healReply h committed digest) := by intro _ h; cases h
theorem ready (round : BitVec 48) (epoch : Word) (shard : BitVec 16) (digest : DWord) : Statement (.ready round epoch shard digest) := by intro _ h; cases h
theorem offer (h : SiteHdr) (round : BitVec 48) (epoch : Word) (digest : DWord) (shards : List DWord) : Statement (.offer h round epoch digest shards) := by intro _ h; cases h
theorem accept (h : SiteHdr) (round : BitVec 48) (epoch : Word) (digest : DWord) : Statement (.accept h round epoch digest) := by intro _ h; cases h
theorem agreeTimeout : Statement .agreeTimeout := by intro _ h; cases h
theorem commit (round : BitVec 48) (epoch : Word) : Statement (.commit round epoch) := by intro _ h; cases h
theorem heartbeatSend : Statement .heartbeatSend := by intro _ h; cases h
theorem heartbeat (node : BitVec 16) : Statement (.heartbeat node) := by intro _ h; cases h
theorem memberLost (node : BitVec 16) (reported : Bool) : Statement (.memberLost node reported) := by intro _ h; cases h
theorem healthEval : Statement .healthEval := by intro _ h; cases h
theorem expulsionRequest (node : BitVec 16) (answer : Option Bool) : Statement (.expulsionRequest node answer) := by intro _ h; cases h
theorem mirrorReceive (node : BitVec 16) (round : BitVec 48) (resid : Bool) (index : DWord) (crc : DWord) (hdr : List Byte) (data : List Byte) : Statement (.mirrorReceive node round resid index crc hdr data) := by intro _ h; cases h
theorem mirrorAck (resid : Bool) (index : DWord) : Statement (.mirrorAck resid index) := by intro _ h; cases h
theorem changeRecord (node : BitVec 16) (group : Fin 1024) (q : Bool) (position : Fin 8) (unit : DWord) (round : BitVec 48) (delta : List Byte) : Statement (.changeRecord node group q position unit round delta) := by intro _ h; cases h
theorem changeRecordAck (node : BitVec 16) (unit : DWord) (round : BitVec 48) (all : Bool) : Statement (.changeRecordAck node unit round all) := by intro _ h; cases h
theorem hoistSelftestDone (node : BitVec 16) (pass : Bool) : Statement (.hoistSelftestDone node pass) := by intro _ h; cases h
theorem hoistLoadDone (node : BitVec 16) : Statement (.hoistLoadDone node) := by intro _ h; cases h
theorem timeIncrNsWrite (w : Win) (v : Word) : Statement (.timeIncrNsWrite w v) := fun _ _ => .inl rfl
theorem setTime (w : Win) (elapsed : Nat) : Statement (.setTime w elapsed) := fun _ _ => .inl rfl
theorem timeAdd (w : Win) (elapsed : Nat) : Statement (.timeAdd w elapsed) := fun _ _ => .inl rfl
theorem ptpMessage (port : Fin 12) (bytes : List Byte) (stamped : Bool) : Statement (.ptpMessage port bytes stamped) := by intro _ h; cases h
theorem announceTimeout : Statement .announceTimeout := by intro _ h; cases h
theorem holdoverEnd : Statement .holdoverEnd := by intro _ h; cases h
theorem holdMaxExpire : Statement .holdMaxExpire := by intro _ h; cases h
theorem pulseEdge (pulse : Fin 4) : Statement (.pulseEdge pulse) := by intro _ h; cases h
theorem timePCfgWrite (w : Win) (v : Word) : Statement (.timePCfgWrite w v) := fun _ _ => .inl rfl
theorem faultRecord (src : BitVec 12) (kind : Byte) (ctx : Byte) (addr : BitVec 48) : Statement (.faultRecord src kind ctx addr) := by intro _ h; cases h
theorem wireAssert (wire : Fin 21) (ctx : Byte) : Statement (.wireAssert wire ctx) := by intro _ h; cases h
theorem fltWireWrite (w : Win) (v : Word) : Statement (.fltWireWrite w v) := fun _ _ => .inl rfl
theorem fltRaise3Write (w : Win) (v : Word) : Statement (.fltRaise3Write w v) := fun _ _ => .inl rfl
theorem testDone (src : BitVec 12) (pass : Bool) : Statement (.testDone src pass) := by intro _ h; cases h
theorem quietPeriodEnd (src : BitVec 12) : Statement (.quietPeriodEnd src) := by intro _ h; cases h
theorem irqDb (w : Win) (v : Word) : Statement (.irqDb w v) := fun _ _ => .inl rfl
theorem serveBegin (w : Win) (v : Word) : Statement (.serveBegin w v) := fun _ _ => .inl rfl
theorem serveEnd (w : Win) (v : Word) : Statement (.serveEnd w v) := fun _ _ => .inl rfl
theorem spacingEnd (src : BitVec 10) : Statement (.spacingEnd src) := by intro _ h; cases h
theorem stuckSource (src : BitVec 10) : Statement (.stuckSource src) := by intro _ h; cases h
theorem unmask (w : Win) (v : Word) : Statement (.unmask w v) := fun _ _ => .inl rfl
theorem wakeInput (latch : Fin 22) (active : Bool) : Statement (.wakeInput latch active) := by intro _ h; cases h
theorem irqWakeWrite (w : Win) (v : Word) : Statement (.irqWakeWrite w v) := fun _ _ => .inl rfl
theorem enable (w : Win) (page : BitVec 12) : Statement (.enable w page) := fun _ _ => .inl rfl
theorem drain (w : Win) (page : BitVec 12) : Statement (.drain w page) := fun _ _ => .inl rfl
theorem blockReset (w : Win) (page : BitVec 12) : Statement (.blockReset w page) := fun _ _ => .inl rfl
theorem selftest (w : Win) (page : BitVec 12) : Statement (.selftest w page) := fun _ _ => .inl rfl
theorem selftestDone (page : BitVec 12) (failing : List Nat) : Statement (.selftestDone page failing) := by intro _ h; cases h
theorem blockStartDone (page : BitVec 12) : Statement (.blockStartDone page) := by intro _ h; cases h
theorem drainDone (page : BitVec 12) : Statement (.drainDone page) := by intro _ h; cases h
theorem blkLockWrite (w : Win) (page : BitVec 12) (v : Word) : Statement (.blkLockWrite w page v) := fun _ _ => .inl rfl
theorem fullReset (w : Win) (v : Word) : Statement (.fullReset w v) := fun _ _ => .inl rfl
theorem perstN : Statement .perstN := by intro _ h; cases h
theorem cxlHotReset : Statement .cxlHotReset := by intro _ h; cases h
theorem glbWdogWrite (w : Win) (v : Word) : Statement (.glbWdogWrite w v) := fun _ _ => .inl rfl
theorem watchdogExpire (core : Fin 8) : Statement (.watchdogExpire core) := by intro _ h; cases h
theorem cxlLinkUp (width : Fin 4) (rate : Fin 4) : Statement (.cxlLinkUp width rate) := by intro _ h; cases h
theorem cxlLinkDown : Statement .cxlLinkDown := by intro _ h; cases h
theorem hdmDecoderCommit : Statement .hdmDecoderCommit := by intro _ h; cases h
theorem cxlMemRead (off : DWord) (n : Fin 65) : Statement (.cxlMemRead off n) := by intro _ h; cases h
theorem cxlMemWrite (off : DWord) (bytes : List Byte) : Statement (.cxlMemWrite off bytes) := by intro _ h; cases h
theorem ideStop (mem : Bool) (failed : Bool) : Statement (.ideStop mem failed) := by intro _ h; cases h
theorem privGateClose (w : Win) (v : Word) : Statement (.privGateClose w v) := fun _ _ => .inl rfl
theorem getInfo (len : BitVec 12) : Statement (.getInfo len) := by intro _ h; cases h
theorem authChallenge (len : BitVec 12) : Statement (.authChallenge len) := by intro _ h; cases h
theorem authResponse (len : BitVec 12) : Statement (.authResponse len) := by intro _ h; cases h
theorem jobCreate (len : BitVec 12) : Statement (.jobCreate len) := by intro _ h; cases h
theorem jobEnd (len : BitVec 12) : Statement (.jobEnd len) := by intro _ h; cases h
theorem jobStatus (len : BitVec 12) : Statement (.jobStatus len) := by intro _ h; cases h
theorem timeStep (len : BitVec 12) : Statement (.timeStep len) := by intro _ h; cases h
theorem fwStage (len : BitVec 12) : Statement (.fwStage len) := by intro _ h; cases h
theorem attestationRequest (nonce : List Byte) : Statement (.attestationRequest nonce) := by intro _ h; cases h
theorem kexCert (md : Fin 2) (dir : Fin 4) (msg : KexCert) : Statement (.kexCert md dir msg) := by intro _ h; cases h
theorem kexInit (md : Fin 2) (dir : Fin 4) (msg : KexInit) : Statement (.kexInit md dir msg) := by intro _ h; cases h
theorem kexReply (md : Fin 2) (dir : Fin 4) (msg : KexReply) : Statement (.kexReply md dir msg) := by intro _ h; cases h
theorem kexFail (md : Fin 2) (dir : Fin 4) (epoch : Word) (reason : Byte) : Statement (.kexFail md dir epoch reason) := by intro _ h; cases h
theorem kexRetry (md : Fin 2) (dir : Fin 4) : Statement (.kexRetry md dir) := by intro _ h; cases h
theorem rekeyInterval (md : Fin 2) (dir : Fin 4) : Statement (.rekeyInterval md dir) := by intro _ h; cases h
theorem sealMasterExchange (master : List Byte) : Statement (.sealMasterExchange master) := by intro _ h; cases h
theorem imageProven : Statement .imageProven := by intro _ h; cases h
theorem startupStepEnd (micros : BitVec 32) (ok : Bool) (clusters : List Nat) (rows : List Nat) : Statement (.startupStepEnd micros ok clusters rows) := by intro _ h; cases h
theorem pwrToP0 (w : Win) : Statement (.pwrToP0 w) := fun _ _ => .inl rfl
theorem pwrToP1 (w : Win) : Statement (.pwrToP1 w) := fun _ _ => .inl rfl
theorem pwrToP2 (w : Win) : Statement (.pwrToP2 w) := fun _ _ => .inl rfl
theorem powerMoveDone : Statement .powerMoveDone := by intro _ h; cases h
theorem thermalSample (die : Fin 8) (temps : List Nat) : Statement (.thermalSample die temps) := by intro _ h; cases h
theorem currentSample (milliamps : Nat) : Statement (.currentSample milliamps) := by intro _ h; cases h
theorem powerWindowEnd (milliwatts : Nat) : Statement (.powerWindowEnd milliwatts) := by intro _ h; cases h
theorem promiseCopy (p : Promise) : Statement (.promiseCopy p) := by intro _ h; cases h
theorem perstNRelease : Statement .perstNRelease := by intro _ h; cases h
theorem powerOn : Statement .powerOn := by intro _ h; cases h
theorem powerOff : Statement .powerOff := by intro _ h; cases h
theorem ideEstablished (mem : Bool) : Statement (.ideEstablished mem) := by intro _ h; cases h
theorem syncInterval (port : Fin 12) (kind : Fin 3) : Statement (.syncInterval port kind) := by intro _ h; cases h
theorem tableUnloadMessage (port : Fin 7) (node : BitVec 16) (slot : Fin 8) : Statement (.tableUnloadMessage port node slot) := by intro _ h; cases h
theorem keyRetireAck (md : Fin 2) (dir : Fin 4) (slot : Fin 2) (epoch : Word) : Statement (.keyRetireAck md dir slot epoch) := by intro _ h; cases h
theorem laneLockRegain (port : Fin 6) (lane : Fin 4) (rx : Bool) : Statement (.laneLockRegain port lane rx) := by intro _ h; cases h

end Sys2Proof.Laws.Window
end

