-- ==== Sys2Proof/Laws/Settle.lean ====
section
/-!
SUPPORT. What surrounds every command: a live package takes its effect, a dead one leaves the state; a calm state is settled; the
outputs are the last word of every command.
-/
namespace Sys2Proof.Machine

/-- A taken command answers its effect. -/
theorem actIf_true {b : Bool} (h : b = true) (s : State) (f : State → State) : actIf b s f = .next (finish s.pending (f s)) := by
  simp [actIf, h]

/-- A command not taken leaves the state. -/
theorem actIf_false {b : Bool} (h : b = false) (s : State) (f : State → State) : actIf b s f = .next s := by
  simp [actIf, h]

theorem act_live {s : State} (h : live s = true) (f : State → State) : act s f = .next (finish s.pending (f s)) := actIf_true h s f

theorem act_dead {s : State} (h : live s = false) (f : State → State) : act s f = .next s := actIf_false h s f

/-- Nothing follows in a calm state. -/
theorem settle_calm {s : State} (h : calm s = true) : settle s = s := by simp [settle, h]

theorem finish_calm {s : State} (h : calm s = true) (q : List Instr) :
    finish q s = { s with faultN := faultNOf s, coreLine := coreLinesOf s, pending := q } := by
  simp [finish, settle_calm h, outputs]

@[simp] theorem finish_pending (q : List Instr) (s : State) : (finish q s).pending = q := rfl

/-- After every command the outputs show the state. -/
theorem finish_outputs (q : List Instr) (s : State) : Safety.OutputsAgree (finish q s) := ⟨rfl, rfl⟩

end Sys2Proof.Machine
end

