-- ==== Sys2Proof/Laws/Storage.lean ====
section
/-!
SUPPORT. Every operation on storage keeps its canonical form: the log of a fault record, an error met, a read, a write.
-/
namespace Sys2Proof.Machine

/-- A fault record's log entry keeps the canonical form. -/
theorem logRecord_wf {s : State} (h : Memory.wf s.mem = true) (src kind : Nat) (b : List Byte) :
    Memory.wf (logRecord s src kind b).2.mem = true := by
  unfold logRecord; dsimp only
  (repeat' split) <;> first
    | exact h
    | exact memWrite_wf h _ _
    | (simp only [event_mem, bump_mem]; exact h)

theorem takeReactions_mem (s : State) (src kind : Nat) : (takeReactions s src kind).mem = s.mem := by
  unfold takeReactions; dsimp only; (repeat' split) <;> rfl

theorem orderTest_mem (s : State) (src kind ctx addr : Nat) : (orderTest s src kind ctx addr).mem = s.mem := by
  unfold orderTest; dsimp only; split <;> rfl

theorem noteRecord_mem (s : State) (src sev kind ctx addr : Nat) : (noteRecord s src sev kind ctx addr).mem = s.mem := by
  have h0 : (match healthInput kind with | some i => healthEvent s i | none => s).mem = s.mem := by split <;> rfl
  have h1 : ∀ (a : State) (b c : Bool) (m : Nat), (let s6 := orderTest (if b then irqMessage a m else a) src kind ctx addr
      if c then takeReactions s6 src kind else s6).mem = a.mem := by
    intro a b c m
    dsimp only
    split <;> split <;> simp [takeReactions_mem, orderTest_mem]
  unfold noteRecord
  refine (h1 _ _ _ _).trans ?_
  rw [event_mem]
  exact h0

theorem noteEcc_mem (s : State) (k : Nat) (ue scrub : Bool) : (noteEcc s k ue scrub).mem = s.mem := by
  unfold noteEcc; dsimp only; split
  · rw [event_mem]; rfl
  · rfl

/-- A fault record keeps the canonical form. -/
theorem raiseN_wf (n : Nat) {s : State} (h : Memory.wf s.mem = true) (src sev kind ctx addr : Nat) :
    Memory.wf (raiseN n s src sev kind ctx addr).mem = true := by
  induction n generalizing s src sev kind ctx addr with
  | zero => exact h
  | succ n ih =>
    have h1 := logRecord_wf h src kind (recordBytes src sev kind ctx s.tick.now addr)
    have h2 : Memory.wf (noteRecord (logRecord s src kind (recordBytes src sev kind ctx s.tick.now addr)).2 src sev kind ctx addr).mem = true := by
      rw [noteRecord_mem]; exact h1
    unfold raiseN; dsimp only
    split
    · exact h
    · split
      · refine ih ?_ _ _ _ _ _; rw [noteEcc_mem]; exact h2
      · refine ih ?_ _ _ _ _ _; rw [noteEcc_mem]; exact h2
      · exact h2

theorem raise_wf {s : State} (h : Memory.wf s.mem = true) (src kind ctx addr : Nat) : Memory.wf (raise s src kind ctx addr).mem = true :=
  raiseN_wf 4 h _ _ _ _ _

@[simp] theorem flagAbort_mem (s : State) (n : Nat) (holds : Bool) : (flagAbort s n holds).mem = s.mem := by
  unfold flagAbort; (repeat' split) <;> rfl

theorem ueConsequence_mem (s : State) (k : Nat) : (ueConsequence s k).mem = s.mem := by
  unfold ueConsequence; (repeat' split) <;> first | rfl | rw [flagAbort_mem]

theorem eccRaise_wf {s : State} (h : Memory.wf s.mem = true) (k : Nat) (ue scrub : Bool) : Memory.wf (eccRaise s k ue scrub).mem = true := by
  have h1 : Memory.wf (raise (noteEcc s k ue scrub) (eccFault k ue).1 (eccFault k ue).2.1 0 (eccFault k ue).2.2).mem = true :=
    raise_wf (by rw [noteEcc_mem]; exact h) _ _ _ _
  unfold eccRaise; dsimp only
  split
  · rw [ueConsequence_mem]; exact h1
  · exact h1

theorem meetErrors_wf : ∀ (l : List (Nat × EccKind)) {s : State}, Memory.wf s.mem = true → Memory.wf (meetErrors l s).mem = true
  | [], _, h => h
  | (_, .ce) :: t, _, h => meetErrors_wf t (eccRaise_wf (by exact h) _ _ _)
  | (_, .ue) :: t, _, h => meetErrors_wf t (eccRaise_wf h _ _ _)

/-- A read of storage keeps the canonical form. -/
theorem storeRead_wf {s : State} (h : Memory.wf s.mem = true) (k n : Nat) : Memory.wf (storeRead s k n).2.mem = true := by
  unfold storeRead; dsimp only
  split <;> exact meetErrors_wf _ h

theorem foldl_wf {β : Type} (f : State → β → State) (hf : ∀ a b, Memory.wf a.mem = true → Memory.wf (f a b).mem = true) :
    ∀ (l : List β) (s : State), Memory.wf s.mem = true → Memory.wf (l.foldl f s).mem = true
  | [], _, h => h
  | b :: t, s, h => foldl_wf f hf t (f s b) (hf s b h)

/-- A write of storage keeps the canonical form. -/
theorem storeWrite_wf {s : State} (h : Memory.wf s.mem = true) (k : Nat) (bs : List Byte) : Memory.wf (storeWrite s k bs).2.mem = true := by
  unfold storeWrite; dsimp only
  refine foldl_wf _ (fun a b ha => rawWrite_wf ha _ _) _ _ (rawWrite_wf ?_ _ _)
  exact foldl_wf _ (fun a b ha => by exact ha) _ _ (meetErrors_wf _ h)

/-- Mirder's reads and writes, and the hardware's own, keep it. -/
theorem coreWrite_wf {s : State} (h : Memory.wf s.mem = true) (a : Nat) (bs : List Byte) : Memory.wf (coreWrite s a bs).mem = true := by
  unfold coreWrite; split
  · exact storeWrite_wf h _ _
  · exact h

theorem coreRead_wf {s : State} (h : Memory.wf s.mem = true) (a n : Nat) : Memory.wf (coreRead s a n).2.mem = true := by
  unfold coreRead; split
  · exact storeRead_wf h _ _
  · exact h

theorem hwWriteAs_wf {s : State} (h : Memory.wf s.mem = true) (kind a : Nat) (bs : List Byte) : Memory.wf (hwWriteAs kind s a bs).mem = true := by
  unfold hwWriteAs; split
  · exact storeWrite_wf h _ _
  · exact h

theorem hwWrite_wf {s : State} (h : Memory.wf s.mem = true) (a : Nat) (bs : List Byte) : Memory.wf (hwWrite s a bs).mem = true := hwWriteAs_wf h 0 a bs

theorem hwRead_wf {s : State} (h : Memory.wf s.mem = true) (a n : Nat) : Memory.wf (hwRead s a n).2.mem = true := by
  unfold hwRead; split
  · exact storeRead_wf h _ _
  · exact h

theorem refuseAccess_wf {s : State} (h : Memory.wf s.mem = true) (d : Deny) (st pl : Nat) (wr : Bool) (a : Nat) :
    Memory.wf (refuseAccess s d st pl wr a).mem = true := by
  unfold refuseAccess
  exact raise_wf (by rw [event_mem, setN_mem, setN_mem, bump_mem]; exact h) _ _ _ _

/-! ### With no error in storage -/

/-- A read of words without an error: the bytes there, the state as it was. -/
theorem storeRead_clean {s : State} {k n : Nat} (h : eccWords s k n = []) : storeRead s k n = (some (rawRead s k n), s) := by
  unfold storeRead
  simp only [h, meetErrors, List.any_nil, Bool.false_eq_true, if_false]

/-- A write of words without an error: the bytes there, nothing lost. -/
theorem storeWrite_clean {s : State} {k : Nat} {bs : List Byte} (h : eccWords s k bs.length = []) : storeWrite s k bs = (false, rawWrite s k bs) := by
  unfold storeWrite
  simp only [h, meetErrors, List.filter_nil, List.foldl_nil, List.isEmpty_nil, Bool.not_true]

theorem coreRead_clean {s : State} {a k n : Nat} (hk : resolveCore s a n = some k) (h : eccWords s k n = []) :
    coreRead s a n = (some (rawRead s k n), s) := by
  simp only [coreRead, hk, storeRead_clean h]

theorem coreWrite_clean {s : State} {a k : Nat} {bs : List Byte} (hk : resolveCore s a bs.length = some k) (h : eccWords s k bs.length = []) :
    coreWrite s a bs = rawWrite s k bs := by
  simp only [coreWrite, hk, storeWrite_clean h]

theorem hwRead_clean {s : State} {a k n : Nat} (hk : resolve s a n = some k) (h : eccWords s k n = []) :
    hwRead s a n = (some (rawRead s k n), s) := by
  simp only [hwRead, hk, storeRead_clean h]

/-- A write into a region of a kind that another unit alone may write leaves everything. -/
theorem hwWriteAs_shut {s : State} {kind a : Nat} (ho : kindOpen s kind a = false) (bs : List Byte) : hwWriteAs kind s a bs = s := by
  simp [hwWriteAs, ho]

theorem hwWriteAs_clean {s : State} {kind a k : Nat} {bs : List Byte} (ho : kindOpen s kind a = true) (hk : resolve s a bs.length = some k)
    (h : eccWords s k bs.length = []) : hwWriteAs kind s a bs = rawWrite s k bs := by
  simp only [hwWriteAs, ho, if_true, hk, storeWrite_clean h]

theorem hwWrite_clean {s : State} {a k : Nat} {bs : List Byte} (ho : kindOpen s 0 a = true) (hk : resolve s a bs.length = some k)
    (h : eccWords s k bs.length = []) : hwWrite s a bs = rawWrite s k bs := hwWriteAs_clean ho hk h

end Sys2Proof.Machine
end

