-- ==== Sys2Proof/Tests/Slice0.lean ====
section
/-!
SUPPORT. The model's own tests: commands an agent cannot form are ill formed, worked values of the spec, single steps, and for the statements in
Certificates/Slice0/Obligations.lean concrete states and operands that meet their hypotheses together (witness_<statement>).
-/
namespace Sys2Proof.Tests

open Sys2Proof.Machine Sys2Proof.Safety

-- One theorem at a time: each is a kernel evaluation, and many at once need many stacks.
set_option Elab.async false

/-! ### Small states -/

/-- The machine right after reset. -/
abbrev s0 : State := State.reset

/-- The blocks of the pages listed run. -/
def running (l : List Nat) (s : State) : State := l.foldl (fun s p => setBlk s p bRUN) s

/-- The state after a command. -/
def after (c : Instr) (s : State) : State := match exec c s with | .next t => t | _ => s

/-- PRIV_GATE is open. -/
def gated : State := setFlag s0 R.PRIV_GATE 0 true

/-- The mailbox runs. -/
def mailed : State := running [pgMBX] s0

/-- The clock shows tick n, at its boundary. -/
def atTick (n : Nat) (s : State) : State := { s with tick := { s.tick with now := n, counter := n * 34359738368000, follower := n * 34359738368000 } }

/-- Two regions of HBM on die 0, which every station may read and write: 64 KiB of a kind at local address 0, 1 MiB of kind 0 behind it. -/
def mapped (kind : Nat) (s : State) : State :=
  { s with regn := { s.regn with tables := [[(0, { valid := true, len := 0x10000, mode := 1, kind := kind, read := 0xFFFF, write := 0xFFFF }),
      (1, { valid := true, lbase := 0x10000, len := 0x100000, phys := 0x10000, mode := 1, read := 0xFFFF, write := 0xFFFF })]] } }

/-- Bytes at a place of HBM. -/
def holding (a : Nat) (bs : List Byte) (s : State) : State := { s with mem := memWrite s.mem a bs }

/-- An operation of a hop answers x and leaves the state as it is. -/
def answers {α : Type} [DecidableEq α] (r : Except Nat α × State) (x : α) (s : State) : Bool :=
  match r with
  | (.ok y, t) => decide (y = x) && decide (t = s)
  | _ => false

theorem eq_of_answers {α : Type} [DecidableEq α] {r : Except Nat α × State} {x : α} {s : State} (h : answers r x s = true) : r = (.ok x, s) := by
  obtain ⟨e | y, t⟩ := r
  · cases h
  · simp only [answers, Bool.and_eq_true, decide_eq_true_eq] at h; rw [h.1, h.2]

/-! ### Commands an agent cannot form are ill formed -/

theorem test_wf_tick : (Instr.tickBoundary { upsets := [(4, .ce)] }).wf = false ∧ (Instr.tickBoundary { stackTemps := [(16, 1)] }).wf = false ∧
    (Instr.tickBoundary { clocks := [1, 1, 1, 1, 1, 1, 1, 1, 1] }).wf = false ∧ (Instr.tickBoundary {}).wf = true := by decide
theorem test_wf_readClear : (Instr.readClear .core 1 2).wf = false ∧ (Instr.readClear .core 1 4).wf = true := by decide
theorem test_wf_registerWrite : (Instr.registerWrite .core 1 4 3 0).wf = false ∧ (Instr.registerWrite .core 1 4 4 0).wf = true := by decide
theorem test_wf_tableLoadMessage : (Instr.tableLoadMessage 0 1 0 0 []).wf = false ∧ (Instr.tableLoadMessage 0 1 0 0 [1]).wf = true := by decide
theorem test_wf_frames : (Instr.fabricFrameRx 0 []).wf = false ∧ (Instr.grant 0 []).wf = false ∧ (Instr.lineFrameRx 0 []).wf = false ∧
    (Instr.ptpMessage 0 [] true).wf = false ∧ (Instr.fabricFrameRx 0 [1]).wf = true := by decide
theorem test_wf_monitorFrame : (Instr.monitorFrame 0 [1]).wf = false ∧ (Instr.monitorFrame 0 (List.replicate 24 0)).wf = true := by decide
theorem test_wf_cxlMemRead : (Instr.cxlMemRead 0 0).wf = false ∧ (Instr.cxlMemRead 60 8).wf = false ∧ (Instr.cxlMemRead 60 4).wf = true := by decide
theorem test_wf_cxlMemWrite : (Instr.cxlMemWrite 0 []).wf = false ∧ (Instr.cxlMemWrite 63 [1, 2]).wf = false ∧ (Instr.cxlMemWrite 63 [1]).wf = true := by decide
theorem test_wf_attestationRequest : (Instr.attestationRequest [1]).wf = false ∧ (Instr.attestationRequest (List.replicate 32 1)).wf = true := by decide
theorem test_wf_sealMasterExchange : (Instr.sealMasterExchange [1]).wf = false ∧ (Instr.sealMasterExchange (List.replicate 32 1)).wf = true := by decide
theorem test_wf_thermalSample : (Instr.thermalSample 0 [40000]).wf = false ∧ (Instr.thermalSample 0 (List.replicate 64 40000)).wf = true := by decide
theorem test_wf_startupStepEnd : (Instr.startupStepEnd 0 true [320] []).wf = false ∧ (Instr.startupStepEnd 0 true [319] []).wf = true := by decide
theorem test_wf_mirrorReceive : (Instr.mirrorReceive 1 1 false 0 0 [] []).wf = false ∧ (Instr.mirrorReceive 1 1 false 0 0 [] [1]).wf = true := by decide
theorem test_wf_changeRecord : (Instr.changeRecord 1 0 false 0 0 1 []).wf = false ∧ (Instr.changeRecord 1 0 false 0 0 1 [1]).wf = true := by decide
theorem test_wf_kexCert : (Instr.kexCert 0 0 ⟨[1], [1], [], 0, [], 0⟩).wf = false ∧
    (Instr.kexCert 0 0 ⟨List.replicate 56 1, List.replicate 56 2, [], 0, [], 0⟩).wf = true := by decide
/-- No row of the table gives bits, so no word spells a command. -/
theorem test_decode_none : decodeTableWord 32 0 = none ∧ s0.withFetchWord 32 0 = s0 := by decide

/-! ### Worked values of the spec -/

/-- R240's check value. -/
theorem test_crc32c : crc32c [0x31, 0x32, 0x33, 0x34, 0x35, 0x36, 0x37, 0x38, 0x39] = 0xE3069283 := by decide +kernel
/-- The check value of CRC-64/ECMA-182, whose generator R19 and R320 use. -/
theorem test_crc64 : crc64 [0x31, 0x32, 0x33, 0x34, 0x35, 0x36, 0x37, 0x38, 0x39] = 0x6C40DF5F0B497347 := by decide +kernel
/-- FIPS 180-4's digest of no bytes. -/
theorem test_sha256 : sha256 [] = [0xE3, 0xB0, 0xC4, 0x42, 0x98, 0xFC, 0x1C, 0x14, 0x9A, 0xFB, 0xF4, 0xC8, 0x99, 0x6F, 0xB9, 0x24,
    0x27, 0xAE, 0x41, 0xE4, 0x64, 0x9B, 0x93, 0x4C, 0xA4, 0x95, 0x99, 0x1B, 0x78, 0x52, 0xB8, 0x55] := by decide +kernel
/-- One and a half in BF16, and a rounding to even on the way to it. -/
theorem test_bf16 : encodeF bf16 false (decodeF fp32 0x3FC00000) = 0x3FC0 ∧ encodeF bf16 false (decodeF fp32 0x3F808000) = 0x3F80 := by decide +kernel
/-- 2^30 + 1 − 2^30 is 1 where sums are exact. -/
theorem test_exactSum : encodeF fp32 false (exactSum [decodeF fp32 0x4E800000, decodeF fp32 0x3F800000, decodeF fp32 0xCE800000]) = 0x3F800000 := by
  decide +kernel

/-! ### One step -/

theorem test_tick_counts : let s := { s0 with pwr := { s0.pwr with state := 2 }, tick := { s0.tick with counter := 34359738367999, follower := 34359738367999 } }
    (after (.tickBoundary {}) s).tick.now = 1 ∧ (after (.tickBoundary {}) s).tick.counter = 34359738367999 + 6135667566 := by decide +kernel
theorem test_time_passes : (after (.timeNowNsRead .core 3) s0).tick.counter = 3 * 6135667566 := by decide +kernel
theorem test_read_latches : (after (.tickNowLoRead .bar2) (atTick 0x100000002 s0)).lastRead = 2 ∧
    regN (after (.tickNowLoRead .bar2) (atTick 0x100000002 s0)) (keyB R.TICK_NOW_HI (winBank .bar2)) = 1 := by decide +kernel
theorem test_narrow_write_counted : regN (after (.registerWrite .bar0 0x10 0x008 2 5) s0) R.CXL_NARROW = 1 := by decide +kernel
theorem test_event_w1c : regN (after (.registerWrite .core 0x78 0x010 4 2) (setN s0 (hdr 0x78 oEVT) 3)) (hdr 0x78 oEVT) = 1 := by decide +kernel
theorem test_enable_starts : blkState (after (.enable .core 0x20) s0) 0x20 = bSTARTING := by decide +kernel
theorem test_enable_gate_closed : after (.enable .bar2 0x20) s0 = s0 := by decide +kernel
theorem test_power_off : (after .powerOff s0).pwr.state = 3 := by decide +kernel
theorem test_limiter : (after (.currentSample 1800000) s0).pwr.kP = 4 ∧ (after (.currentSample 1700000) s0).pwr.kP = 0 := by decide +kernel
theorem test_incr_refused : (after (.timeIncrNsWrite .core 2) s0).tick.incr = 6135667566 := by decide +kernel
theorem test_step_runs_front : (match step { s0 with pending := [.tickNowLoRead .core, .powerOff] } with | .next t => t.pending | _ => []) = [.powerOff] := by
  decide +kernel
theorem test_reset_step_idles : step s0 = .next s0 := by rfl
theorem test_job_status_answers : fld (after (.jobStatus 0) mailed) R.MBX_STAT 7 4 = cSERVED := by decide +kernel
theorem test_job_end_gate_closed : fld (after (.jobEnd 0) mailed) R.MBX_STAT 7 4 = cPOLICY := by decide +kernel
theorem test_set_time : (after (.setTime .core 0) (setN (atTick 5 s0) R.TIME_ADJ_NS 7)).tick.counter = 7 * 4294967296 := by decide +kernel

/-! ### Witnesses: states and operands that meet the hypotheses of the statements together -/

theorem witness_StepRunsTheFront : s0.pending = [] := by decide
theorem witness_CommandsNeverStop : calm s0 = true := by decide
theorem witness_OutputsStayTrue : OutputsAgree s0 ∧ step s0 = .next s0 := ⟨⟨by decide, by decide⟩, rfl⟩
theorem witness_HeldOrUnpowered : (after .powerOff s0).pwr.state = 3 ∧ Instr.exchange ≠ .powerOn ∧ Instr.exchange ≠ .powerOff ∧ Instr.exchange ≠ .perstN ∧
    Instr.exchange ≠ .perstNRelease ∧ (after .perstN s0).host.perst = true := by decide +kernel
theorem witness_Bar0WritesNothingElse : (Instr.arm .bar0).window = some .bar0 ∧ calm s0 = true ∧ OutputsAgree s0 := ⟨by decide, by decide, by decide, by decide⟩
theorem witness_GateRule_closed : (Instr.arm .bar2).window = some .bar2 ∧ gateOpen s0 = false ∧ calm s0 = true ∧ OutputsAgree s0 ∧ R.STN_ARM_CMD < bankBase :=
  ⟨by decide, by decide, by decide, ⟨by decide, by decide⟩, by decide⟩
theorem witness_GateRule_serve : let s := setFld s0 (irqCfg 5) 3 0 8; let t := { s with irq := { s.irq with serving := [(8, [(5, 0)])] } }
    live s = true ∧ gateOpen s = false ∧ pageLocked s 0x80 = false ∧ bitsOf (0x8005 : Word).toNat 15 12 = 8 ∧ (irqStack s 8).length < 16 ∧
    irqTarget s 5 = 8 ∧ irqStack t 8 = (5, 0) :: [] := by decide +kernel
theorem witness_GateRule_mailbox : live mailed = true ∧ mbxOpen mailed = true ∧ gateOpen mailed = false := by decide +kernel
theorem witness_RegisterReads : live s0 = true ∧ (8 : BitVec 12).toNat % 4 = 0 ∧ pageExists 0x10 = true ∧ seenBy .bar2 (hdr 0x10 8) = true ∧
    hdr 0x10 8 ≠ R.TICK_NOW_LO ∧ hdr 0x10 8 ≠ R.TIME_NOW_NS ∧ hdr 0x10 8 ≠ R.POOL_SEG_LOW := by decide +kernel
theorem witness_RegisterWrites : live s0 = true ∧ pageExists 0x78 = true ∧ mayWrite s0 .core (hdr 0x78 oEVT) = true ∧ mayWrite s0 .bar2 (hdr 0x78 oEVT) = false := by
  decide +kernel
theorem witness_BlockStates : live s0 = true ∧ mayWrite s0 .core (hdr 0x20 oCTRL) = true ∧ neverLeavesRun 0x20 = false ∧ blkState s0 0x20 = bOFF ∧
    blkState (running [pgSTRM] s0) pgSTRM = bRUN ∧ blkState (setBlk s0 0x20 bSTARTING) 0x20 = bSTARTING ∧
    blkState (setBlk s0 0x40 bDRAINING) 0x40 = bDRAINING ∧ drainComplete (setBlk s0 0x40 bDRAINING) 0x40 = true ∧ pageExists 0x40 = true := by decide +kernel
theorem witness_TestsAndBlockResets : live s0 = true ∧ mayWrite s0 .core (hdr 0x41 oCTRL) = true ∧ blkState s0 0x41 = bOFF ∧ resetAllowed s0 0x48 = true ∧
    countersOnly 0x48 = false ∧ resetAllowed s0 0x78 = true ∧ countersOnly 0x78 = true ∧ resetAllowed (running [0x41] s0) 0x41 = false ∧
    fld (setFld s0 (hdr 0x41 oSTAT) 6 5 1) (hdr 0x41 oSTAT) 6 5 = 1 ∧ standing R.POOL_RETIRED = true ∧ pageOf R.POOL_RETIRED = 0x48 ∧ clearable (R.POOL_RETIRED % 0x1000) = true ∧
    standing (hdr 0x48 0x40) = false ∧ clearable (hdr 0x48 0x40 % 0x1000) = true ∧ clearable oEVTEN = true ∧ clearable oCTRL = false := by decide +kernel
theorem witness_TimeCounter_increment : let x := (1 : Word).toNat * 2 ^ 32 + regN s0 R.TIME_INCR_FRAC
    live s0 = true ∧ x * 1000000 ≤ 6135667566 * 1000200 ∧ 6135667566 * 999800 ≤ x * 1000000 := by decide +kernel
theorem witness_TimeCounter_step : let s := setN (atTick 5 s0) R.TIME_ADJ_NS 7
    live s = true ∧ regN (elapse s 0) R.TIME_ADJ_NS ≤ 999999999 ∧ (7 * 4294967296) / 34359738368000 ≤ (elapse s 0).tick.now := by decide +kernel
theorem witness_TimeCounter_boundary : ticking s0 = true ∧ inRun s0 0x01 = true ∧ 0 < s0.tick.incr ∧ s0.tick.counter < (s0.tick.now + 1) * 34359738368000 ∧
    (s0.tick.now + 1) * 34359738368000 + s0.tick.incr ≤ timeSpan := by decide +kernel
theorem witness_PtpMessages : let b : List Byte := [0, 2, 0, 0, 0, 0, 2] ++ List.replicate 27 0; let d : List Byte := [1, 2] ++ List.replicate 32 0
    let s := setPtp s0 0 6
    live s = true ∧ 34 ≤ b.length ∧ ptpFaces s 0 true = true ∧ ptpFaces s 0 false = true ∧ stampLost s 0 = false ∧ beAt b 1 1 % 16 = 2 ∧
    beAt b 4 1 = fld s R.TIME_PTP_CFG 6 0 ∧ beAt b 0 1 % 16 = 0 ∧ bitOf (beAt b 6 1) 1 = true ∧ 34 ≤ d.length ∧ beAt d 1 1 % 16 = 2 ∧
    beAt d 4 1 = fld s R.TIME_PTP_CFG 6 0 ∧ beAt d 0 1 % 16 = 1 ∧ ptpState s 0 = 6 ∧ beAt ([0, 3] : List Byte) 1 1 % 16 ≠ 2 := by decide +kernel
theorem witness_HoldoverAndPulses_holdover : let s := setFld s0 R.TIME_STAT 11 8 0; let f := { atTick 9 s0 with time := { s0.time with freezeTo := some 9 } }
    let h := setFlag { atTick 8000000 s0 with time := { s0.time with holdFrom := some 1 } } R.TIME_STAT 0 true
    live s = true ∧ slavePort s ≠ 15 ∧ announceLives s (slavePort s) = false ∧ f.time.freezeTo = some 9 ∧ 9 ≤ f.tick.now ∧
    live h = true ∧ h.store.ecc = [] ∧ h.time.holdFrom = some 1 ∧ flag h R.TIME_STAT 0 = true ∧ 1 + fld h R.TIME_HOLD_MAX 7 0 * 125000 < h.tick.now := by decide +kernel
theorem witness_HoldoverAndPulses_pulse : let s := setN s0 (keyB R.TIME_P_WIDTH 0) 10
    let e := { s0 with time := { s0.time with pulses := [{ next := some 100 }, {}, {}, {}] } }
    live s = true ∧ mayWrite s .core R.TIME_P_CFG = true ∧ fld s R.TIME_PIDX 1 0 = 0 ∧ flag s (keyB R.TIME_P_CFG 0) 0 = false ∧
    10 ≤ regN s (keyB R.TIME_P_WIDTH 0) ∧ regN s (keyB R.TIME_P_PERIOD 0) = 0 ∧ bitOf (1 : Word).toNat 0 = true ∧
    live e = true ∧ inRun e 0x01 = true ∧ 0 < e.tick.incr ∧ e.tick.held = false ∧ (nthD {} e.time.pulses 0).next = some 100 ∧
    max 1 (cyclesTo e.tick.counter 100 e.tick.incr) < cyclesToBoundary e ∧ e.tick.counter + max 1 (cyclesTo e.tick.counter 100 e.tick.incr) * e.tick.incr < timeSpan := by
  decide +kernel
theorem witness_FaultRecords : live s0 = true ∧ s0.store.ecc = [] ∧ srcExists 0x20 = true ∧ kindSev 0x01 ≠ 0 ∧ s0.flt.met.contains (0x20, 1) = false ∧
    inRun (running [0x81] s0) 0x81 = true ∧ (logRing (set64 (mapped 6 s0) R.FLT_LOG_BASE_LO R.FLT_LOG_BASE_HI 0)).isSome = false ∧
    (logRing (setFld (mapped 6 s0) R.FLT_LOG_CFG 4 0 8)).isSome = true := by decide +kernel
theorem witness_FaultRecords_mirder : let s := setN s0 R.FLT_RAISE0 (0xA0 + 2 * 0x1000 + 0x40 * 0x10000)
    srcExists (fld s R.FLT_RAISE0 11 0) = true ∧ 1 ≤ fld s R.FLT_RAISE0 15 12 ∧ fld s R.FLT_RAISE0 15 12 ≤ 4 ∧ fld s R.FLT_RAISE0 23 16 = 0x40 := by decide +kernel
theorem witness_WiresAndRecovery : let s := setFltDyn s0 0x41 { test := some (4, 0, 0) }; let f := setFlag (atTick 12500 s0) (fltSum 0x41) 0 true
    s0.pwr.state ≤ 1 ∧ s0.store.ecc = [] ∧ s0.host.perst = false ∧ flag s0 R.FLT_WIRE 3 = false ∧ live s = true ∧ (fltDyn s 0x41).test = some (4, 0, 0) ∧
    0x41 ≠ pgLDLV ∧ inFault f 0x41 = true ∧ (fltDyn f 0x41).test = none ∧ (fltDyn f 0x41).last + 12500 ≤ f.tick.now ∧ regN f (keyB R.FLT_QUIET 0x41) = 12500 := by
  decide +kernel
theorem witness_DoorbellAndServing : let s := setFlag s0 (irqCfg 0x120) 16 true
    live s = true ∧ irqEn s 0x120 = true ∧ irqMasked s 0x120 = false ∧ spacingPassed s 0x120 = true ∧ bitsOf (0x120 : Word).toNat 9 0 = 0x120 ∧
    pageLocked s 0x80 = false ∧ irqTarget s 0x120 = 0 ∧ (irqStack s 0).length < 16 := by decide +kernel
theorem witness_StuckSourcesAndWake : let s := setIrqDyn (setFlag s0 (irqCfg 0x120) 16 true) 0x120 { latched := true, run := 12500 }
    live s = true ∧ (irqDyn s 0x120).latched = true ∧ spacingPassed s 0x120 = true ∧ irqEn s 0x120 = true ∧ irqMasked s 0x120 = false ∧ s.store.ecc = [] ∧
    regN s (keyB R.IRQ_SRC_STUCK 0x120) ≠ 0 ∧ regN s (keyB R.IRQ_SRC_STUCK 0x120) ≤ (irqDyn s 0x120).run ∧ mayWrite s .core R.IRQ_SRC_CFG = true ∧
    mayWrite s .core R.IRQ_WAKE = true ∧ s.pwr.state ≤ 1 ∧ s.host.perst = false := by decide +kernel
theorem witness_Spacing : let s := setN (setIrqDyn (setFlag (atTick 7 s0) (irqCfg 0x120) 16 true) 0x120 { latched := true, lastSet := some 4 }) (keyB R.IRQ_SRC_SPACE 0x120) 4
    live s = true ∧ dbAccepted s .core 0x120 = true ∧ irqEn s 0x120 = true ∧ irqMasked s 0x120 = false ∧ regN s (keyB R.IRQ_SRC_SPACE 0x120) = 4 ∧
    (irqDyn s 0x120).lastSet = some 4 ∧ s.tick.now < 4 + 4 ∧ 4 + 4 ≤ (atTick 8 s).tick.now := by decide +kernel
theorem witness_FullResets : let p := after .perstN s0; let u := running [pgSEC] { atTick 1250 s0 with sec := { s0.sec with started := some 0 } }
    let l := setFlag s0 R.CXL_LINK 12 true; let h : State := setStep { s0 with host := { s0.host with perst := true }, pwr := { s0.pwr with locked := false } } 2
    regN s0 R.FLT_WIRE_RAW = 0 ∧ s0.host.perst = false ∧ s0.pwr.state ≤ 1 ∧ mayWrite s0 .core R.GLB_CTRL = true ∧ bitsOf (0xA501 : Word).toNat 15 8 = 0xA5 ∧
    bitOf (0xA501 : Word).toNat 0 = true ∧ s0.pwr.halted = false ∧ stepNow s0 ≠ 1 ∧ linkUp l = true ∧ secRuns u = true ∧ u.sec.started.isSome = true ∧
    nthD 0 u.host.wdog 0 + 1250 ≤ u.tick.now ∧ p.host.perst = true ∧ stepNow p = 2 ∧ p.pwr.locked = true ∧ p.pwr.halted = false ∧ p.pwr.resume = false ∧
    regN p R.FLT_WIRE_RAW = 0 ∧ h.host.perst = true ∧ stepNow h = 2 ∧ h.pwr.locked = false ∧ mayWrite s0 .core R.GLB_WDOG = true := by decide +kernel
theorem witness_ResetStartsAtStep3 : fld s0 R.FLT_WIRE_RAW 10 0 = 0 ∧ s0.pwr.halted = false ∧ live s0 = true ∧ mayWrite s0 .core R.GLB_CTRL = true ∧
    linkUp (setFlag s0 R.CXL_LINK 12 true) = true ∧ stepNow s0 ≠ 1 ∧ s0.host.perst = false ∧ (after .perstN s0).host.perst = true ∧
    stepNow (after .perstN s0) = 2 := by decide +kernel
/-- The link is up at the start-up's last step, and the decoder committed over 64 KiB of the host's window. -/
def linked : State := setFlag (setFlag (setFld (mapped 8 s0) R.PWR_STATE 7 4 15) R.CXL_LINK 12 true) R.CXL_LINK 13 true
theorem witness_CxlLink : live linked = true ∧ 9 ≤ fld linked R.PWR_STATE 7 4 ∧ fld s0 R.PWR_STATE 7 4 < 9 ∧ linkUp linked = true ∧
    windowKey linked 64 8 = some 64 ∧ eccWords linked 64 8 = [] ∧ linked.store.ecc = [] ∧ windowKey linked 0x10000 1 = none ∧
    flag (setFlag linked R.CXL_IDE 1 true) R.CXL_IDE (ofBool true) = true ∧ mayWrite gated .bar2 R.PRIV_GATE = true ∧ bitOf (2 : Word).toNat 1 = true := by
  decide +kernel
theorem witness_MailboxAndAuthentication : let s := { mailed with host := { mailed.host with nonce := some [1] } }
    live s = true ∧ mbxOpen s = true ∧ (0 : BitVec 12).toNat ≤ 2048 ∧ authLocked s = false ∧ s.host.nonce = some [1] := by decide +kernel
theorem witness_GatedCommands_end : let s := { setFlag mailed R.PRIV_GATE 0 true with job := { s0.job with held := true, commit := 3, pushed := 3 } }
    live s = true ∧ mbxOpen s = true ∧ gateOpen s = true ∧ s.job.held = true ∧ s.job.commit ≤ s.job.pushed ∧ s.job.phase = 0 := by decide +kernel
theorem witness_GatedCommands_step : let s := setN (setFlag (atTick 2 mailed) R.PRIV_GATE 0 true) mbxData 1
    let a := setN s R.MBX_CMD (0x20 + 16 * 65536); let b := mbxPayload a 16; let x := (leAt b 8 8 * 1000000000 + leAt b 4 4) * 4294967296
    live s = true ∧ mbxOpen s = true ∧ gateOpen s = true ∧ leAt b 0 1 = 1 ∧ leAt b 4 4 ≤ 999999999 ∧ x / 34359738368000 ≤ s.tick.now ∧ midRound s = false ∧
    midRound { s with job := { s.job with held := true, phase := 2 } } = true := by decide +kernel
/-- The tables of a job: the outer configuration record at 0x100, its panel at 0x200, the site table at 0x400, the protection table at 0x600. -/
def tabled (s : State) : State :=
  let s := holding 0x100 (bytesLE 4 1 ++ bytesLE 1 1 ++ bytesLE 1 0 ++ bytesLE 1 1 ++ bytesLE 1 0 ++ bytesLE 4 32 ++ bytesLE 4 0x3F000000 ++ bytesLE 4 0x3F800000 ++ bytesLE 4 1
    ++ bytesLE 8 0 ++ bytesLE 8 0x200 ++ bytesLE 8 0x10000 ++ bytesLE 8 0x12000 ++ bytesLE 8 0x14000 ++ bytesLE 8 0x16000 ++ bytesLE 8 0x18000 ++ bytesLE 8 0x20000 ++ bytesLE 8 1024
    ++ bytesLE 4 16 ++ bytesLE 1 1) (mapped 9 s)
  let s := holding 0x200 (bytesLE 8 0 ++ bytesLE 8 0 ++ bytesLE 4 32 ++ bytesLE 4 32 ++ bytesLE 2 32) s
  let s := holding 0x400 (bytesLE 4 1 ++ bytesLE 2 7 ++ bytesLE 1 2 ++ bytesLE 1 0 ++ bytesLE 1 0 ++ bytesLE 1 1 ++ bytesLE 2 0 ++ bytesLE 4 16 ++ bytesLE 4 1250 ++ bytesLE 4 125 ++ bytesLE 4 130
    ++ List.replicate 36 0 ++ (bytesLE 1 1 ++ bytesLE 1 2 ++ bytesLE 2 1 ++ bytesLE 2 2 ++ List.replicate 10 0)
    ++ (bytesLE 1 2 ++ bytesLE 1 1 ++ bytesLE 2 11 ++ bytesLE 2 12 ++ List.replicate 10 0)) s
  holding 0x600 (bytesLE 4 1 ++ bytesLE 2 7 ++ bytesLE 2 1 ++ bytesLE 1 0 ++ List.replicate 55 0 ++ (List.range 8).flatMap (fun i => bytesLE 2 (21 + i)) ++ bytesLE 2 31 ++ bytesLE 2 32
    ++ (List.range 8).flatMap (fun i => bytesLE 2 (41 + i)) ++ List.replicate 12 0) s
theorem witness_GatedCommands_create : let s := setN (setN (setN (setN (setN (setFlag (tabled mailed) R.PRIV_GATE 0 true) mbxData 7) (mbxData + 8) 0x100) (mbxData + 16) 0x400) (mbxData + 24) 0x600) (mbxData + 32) 21
    let a := setN s R.MBX_CMD (0x10 + 36 * 65536); let b := mbxPayload a 36
    live s = true ∧ mbxOpen s = true ∧ gateOpen s = true ∧ (36 : BitVec 12).toNat ≤ 2048 ∧ s.job.held = false ∧ leAt b 8 8 % 64 = 0 ∧
    (jobOcr a (leAt b 8 8)).any (fun o => ocrOk o && (readPanels a o).any (fun ps => panelsOk o 0 ps && (readSites a (leAt b 16 8) (leAt b 0 2)).any (fun t =>
      (readProt a (leAt b 24 8) (leAt b 0 2)).isSome && t.lag == o.lag && t.h == o.h && crcsAgree a t))) = true := by decide +kernel
theorem witness_PowerMoves : let a := { s0 with pwr := { s0.pwr with move := some 1, parked := true } }; let b := running fldPages { s0 with pwr := { s0.pwr with state := 1, move := some 0 } }
    let c := { s0 with pwr := { s0.pwr with state := 1, move := some 2 } }
    live s0 = true ∧ mayWrite s0 .core R.PWR_REQ = true ∧ s0.pwr.move = none ∧ s0.pwr.state = 0 ∧ midRound s0 = false ∧
    midRound { s0 with job := { s0.job with held := true, phase := 2 } } = true ∧ live a = true ∧ a.pwr.state = 0 ∧ allParked a = true ∧
    live b = true ∧ allUnparked b = true ∧ live c = true ∧ c.store.ecc = [] ∧ wakeDue c = false ∧
    wakeDue (setN (setN c R.IRQ_WAKE 1) R.IRQ_WAKE_EN 1) = true := by decide +kernel
theorem witness_PowerCycleAndStartup : s0.pwr.state ≠ 3 ∧ (after .powerOff s0).pwr.state = 3 ∧ regN (after .powerOff s0) R.FLT_WIRE_RAW = 0 ∧ regN s0 R.FLT_WIRE_RAW = 0 ∧
    s0.pwr.halted = false ∧ stepNow s0 = 3 ∧ (∀ k ∈ [1, 2, 4, 5, 6, 7, 8, 10], stepNow (setStep s0 k) = k ∧ (setStep s0 k).pwr.state ≤ 1 ∧ regN (setStep s0 k) R.FLT_WIRE_RAW = 0) ∧
    s0.host.perst = false ∧ s0.irq.owed = [] ∧ s0.store.retired = [] ∧ s0.sec.cfg.settings.all settingOk = true ∧ slotBoots s0.sec true = some (0, false) ∧
    slotBoots s0.sec false = some (1, true) ∧ slotBoots { s0.sec with floor := 1 } true = none ∧ [((0, 0, 0, 0) : Nat × Nat × Nat × Nat)].all settingOk = false ∧
    linkUp s0 = false ∧ linkUp linked = true := by decide +kernel
theorem witness_ThrottleAndLimiter : let temps := List.replicate 64 40000; let s := atTick 125 s0
    live s0 = true ∧ temps ≠ [] ∧ s0.store.ecc = [] ∧ flag s0 R.FLT_WIRE_RAW 11 = false ∧ (∀ x ∈ temps, x < bitsOf (regN s0 R.PWR_THM_CFG) 23 16 * 1000) ∧
    (∀ x ∈ s0.pwr.dies, x.trip = false) ∧ (nthD {} s0.pwr.dies 0).temps.length < 10 ∧ (nthD {} s0.pwr.dies 0).kT ≤ 15 ∧ s0.pwr.kP ≤ 15 ∧
    live s = true ∧ s.tick.now % 125 = 0 ∧ s.pwr.lastWin < s.tick.now := by decide +kernel
theorem witness_LineKeys : let k : KeySlot := { state := 3, epoch := 5 }; let s := putKey (atTick 125 s0) 0 0 1 0 k; let r := putKey s0 0 1 1 0 { state := 1, epoch := 5 }
    live s0 = true ∧ mayWrite s0 .core R.LCIPH_CMD = true ∧ flag s0 R.LCIPH_RES 0 = false ∧ flag (setFlag s0 R.LCIPH_RES 0 true) R.LCIPH_RES 0 = true ∧
    (keySlot s0 0 0 0 0).state = 0 ∧ mapFind s0.ciph.epochs 0 = none ∧ (keySlot (putKey s0 0 0 0 0 { state := 1 }) 0 0 0 0).state = 1 ∧
    live s = true ∧ mayRetire s 0 1 0 = true ∧ mayRetire s0 0 1 0 = false ∧ mayRetire s0 0 1 1 = false ∧
    live r = true ∧ (keySlot r 0 1 1 0).state ≠ 0 ∧ (keySlot r 0 1 1 0).epoch = (5 : Word).toNat ∧ flag r R.LCIPH_RES 0 = false := by decide +kernel
theorem witness_SealKeysAndReports : let r := running [pgSEC] { s0 with sec := { s0.sec with attLeft := 9 } }
    let p := { atTick 7500000 s0 with sec := { s0.sec with proving := true, started := some 0 } }
    live s0 = true ∧ mayWrite s0 .core R.SEAL_CMD = true ∧ flag s0 R.SEAL_RES 0 = false ∧ sealSlot s0 0 = none ∧ (List.replicate 32 (7 : Byte)).length = 32 ∧
    (sealMark s0 0).1 ≠ sha256 (keyBytes s0 R.SEAL_KEY0) ∧ secRuns s0 = false ∧ live r = true ∧ secRuns r = true ∧ r.sec.reports.length < 4 ∧ r.sec.attLeft ≠ 0 ∧
    r.sec.attLeft ≠ 65 ∧ live p = true ∧ p.sec.proving = true ∧ p.sec.started = some 0 ∧ 0 + 7500000 ≤ p.tick.now := by decide +kernel
theorem witness_KeyAgreements : let r := running [pgSEC, pgLDLV] { s0 with sec := { s0.sec with attLeft := 9, runs := [(0, ⟨5, [], [], []⟩)] } }
    let d := setFlag (running [pgSEC, pgLDLV] { atTick 125000 s0 with sec := { s0.sec with attLeft := 9, failed := [(0, 0)] } }) (lf R.LFRM_EXP_A 0) 16 true
    let i := { d with sec := { d.sec with failed := [] } }
    live r = true ∧ secRuns r = true ∧ secRuns s0 = false ∧ mapFind r.sec.runs 0 = some ⟨5, [], [], []⟩ ∧ mapFind s0.sec.runs 0 = none ∧ emptyKey r 0 1 0 = some 0 ∧
    emptyKey r 0 0 0 = some 0 ∧ flag r R.LCIPH_RES 0 = false ∧ r.sec.attLeft ≠ 0 ∧ r.sec.attLeft ≠ 65 ∧ live d = true ∧ kexMay d 0 0 = true ∧
    mapFind d.sec.failed 0 = some 0 ∧ 0 + 125000 ≤ d.tick.now ∧ d.sec.attLeft ≠ 0 ∧ d.sec.attLeft ≠ 65 ∧ mapGet 0 d.ciph.epochs 0 < 0xFFFFFFFF ∧
    kexMay i 0 0 = true ∧ mapFind i.sec.failed 0 = none ∧ mapFind i.sec.began 0 = none := by decide +kernel
/-- Line module 0 is lit with four lanes. -/
def lit : State := running [pgLFRM 0, pgOCU] (setOcState s0 0 ocLIT)
theorem witness_LineTransmits : mayTransmit s0 0 = false ∧ live (putOcu lit 0 { ocuMod s0 0 with light := 2 }) = true ∧ mayTransmit (putOcu lit 0 { ocuMod s0 0 with light := 2 }) 0 = true ∧
    lit.ciph.switching = none ∧ blockVoid lit 0 = true ∧ (lineMod lit 0).seq % 8 = 0 ∧ ctxFrozen lit 0 0 = true ∧ currentKey lit 0 0 = none ∧
    currentKey (putKey lit 0 0 0 0 { state := 2 }) 0 0 = some 0 := by decide +kernel
theorem witness_LineReceives : let p := pennantBytes true 1 0 0 false 8 0; let m := { lineMod s0 0 with delin := 2, expect := 8, rblock := { base := 8 } }
    let s := putLine lit 0 m
    live lit = true ∧ inRun s0 (pgLFRM 0) = false ∧ inRun lit (pgLFRM 0) = true ∧ (lineMod lit 0).los = false ∧ (lineMod lit 0).delin = 0 ∧ huntFrom [1, 2] 0 = none ∧
    huntFrom p 0 = some 0 ∧ p.length < 0 + 10016 ∧ pennantOk p = true ∧ pennantSeq p = 8 ∧ (lineMod s 0).rblock.void = true ∧ (lineMod s 0).expect % 8 < 7 ∧
    (lineMod s 0).rblock.base = (lineMod s 0).expect - (lineMod s 0).expect % 8 ∧ (lineMod s 0).rblock.frames.length = (lineMod s 0).expect % 8 ∧
    scChannel 9 = none ∧ keylessRx s 0 0 = true ∧ flag s R.LCIPH_CLEAR_OK 0 = true ∧ flag s (lf R.LFRM_EXP_A 0) 16 = false ∧ s.store.ecc = [] := by decide +kernel
theorem witness_LineTimersAndLanes : let r := putLine (atTick 9 s0) 0 { lineMod s0 0 with lof := false, steer := some 1 }
    let q := putLine { s0 with tick := { s0.tick with counter := 12 * 4294967296 * 1000000000 } } 0 { lineMod s0 0 with pm := { (lineMod s0 0).pm with next := 1, quarter := some { start := 0 } } }
    let h := setFld s0 (keyB R.LDLV_LANE 0) 31 0 0xFFFFFFFF
    live r = true ∧ (lineMod r 0).steer = some 1 ∧ 1 + 6 ≤ r.tick.now ∧ (lineMod r 0).lof = false ∧ (lineMod r 0).los = false ∧ r.store.ecc = [] ∧
    live q = true ∧ (lineMod q 0).pm.next + 11 ≤ secOf q.tick.counter ∧ ((lineMod q 0).pm.next + 1) % 900 ≠ 0 ∧ (lineMod q 0).pm.unavail = false ∧
    mayWrite s0 .core (lf R.LFRM_PM_CMD 0) = true ∧ ctxFrozen s0 0 0 = true ∧ live h = true ∧ laneState h 0 0 true = 3 ∧ laneState s0 0 0 true ≠ 3 ∧
    mayWrite s0 .core R.LDLV_LANE_CMD = true := by decide +kernel
theorem witness_LineChecks : (List.replicate 16 (0 : Byte)).length = 16 ∧ (List.replicate 40 (0 : Byte)).length = 40 := by decide
theorem witness_RegionsAndScrub : let v := setN s0 R.REG_ATTR 3; let g := setN (setN s0 R.REG_ATTR 3) R.REG_LEN_LO 0x1000; let d := setFld s0 R.SITE_STATE 2 0 sDIPPED
    let c := running [0x20] { s0 with store := { s0.store with ecc := [(0, .ce)] } }; let e := running [0x20] { s0 with store := { s0.store with scrub := [(0, stackAccesses - 1)] } }
    live s0 = true ∧ mayWrite s0 .core R.REG_CMD = true ∧ flag s0 R.REG_RES 0 = false ∧ (shadowEntry v).valid = true ∧ entryOk1 v 0 (shadowEntry v) = false ∧
    (shadowEntry g).valid = true ∧ entryOk1 g 0 (shadowEntry g) = true ∧ overlapWith g 0 (shadowEntry g) = none ∧ entryBusy g (entryAt g 0) (shadowEntry g) = false ∧
    (overlapWith (mapped 0 g) 1 (shadowEntry g)).isSome = true ∧ mayWrite s0 .core R.REG_OUTER_GATE = true ∧ siteState d = sDIPPED ∧ siteState s0 ≠ sDIPPED ∧ gateMay s0 = false ∧
    (let a : State := { s0 with job := { s0.job with held := true, phase := 8 } }; gateMay a = true ∧ siteState a ≠ sDIPPED) ∧
    inRun s0 0x20 = false ∧ inRun c 0x20 = true ∧ eccWords c (hbmKey 0 (physOf 0 0)) 64 = [(0, .ce)] ∧ inRun c 0x81 = false ∧
    inRun e 0x20 = true ∧ mapGet 0 e.store.scrub 0 + 1 = stackAccesses ∧ 0 + 1 ≠ stackAccesses := by decide +kernel
theorem witness_RegionsAndScrub_fits : EntryFits (entryAt s0 0) := by unfold EntryFits; decide
/-- Pool P1's segment 0 holds eight buffers at local address 0x10000, its metadata at 0x8000; the free list begins with buffer 1, whose link names the list's end. -/
def pooled : State :=
  let s := running [0x48] (mapped 2 s0)
  let s := setN (setN (setN (setN (setN s (segReg R.POOL_SEG_BASE_LO 1 0) 0x10000) (segReg R.POOL_SEG_META_LO 1 0) 0x8000) (segReg R.POOL_SEG_COUNT 1 0) 8)
    (segReg R.POOL_SEG_HEAD 1 0) (mkHandle 1 0 1)) (segReg R.POOL_SEG_FREE 1 0) 1
  setN { s with mem := memWrite (memWrite s.mem 0x8000 [3]) 0x11000 (linkBytes endHandle) } R.POOL_ARG (mkHandle 1 0 0)
theorem witness_Pools : live pooled = true ∧ mayWrite pooled .core R.POOL_CMD = true ∧ flag pooled R.POOL_RES 0 = false ∧ inRun pooled 0x48 = true ∧ pooled.pwr.state = 0 ∧
    pooled.store.ecc = [] ∧ bitsOf (0x4100 : Word).toNat 10 8 = 1 ∧ bitsOf (0x4100 : Word).toNat 13 11 = 0 ∧ bitsOf (0x4100 : Word).toNat 21 14 = 1 ∧
    segHead pooled 1 0 ≠ endHandle ∧ segFrozen pooled 1 0 = false ∧ segRebuilding pooled 1 0 = false ∧ handleOk pooled (segHead pooled 1 0) = true ∧
    hPool (segHead pooled 1 0) = 1 ∧ hSeg (segHead pooled 1 0) = 0 ∧ (linkRead pooled (segHead pooled 1 0)).1 = some endHandle ∧ endHandle < 2 ^ 32 ∧
    refCount pooled (regN pooled R.POOL_ARG) = some 3 ∧ handleOk pooled (regN pooled R.POOL_ARG) = true ∧ handleOk pooled 0xF0000000 = false ∧ segCount pooled 1 0 ≠ 0 ∧
    segCount pooled 1 7 = 0 ∧ blkState s0 0x48 = bOFF ∧ segRebuilding (setFlag pooled (segReg R.POOL_SEG_FREE 0 1) 27 true) 0 1 = true ∧ pooled.pool.waiting = [] := by decide +kernel
theorem witness_Pools_writable : CountWritable pooled (segHead pooled 1 0) := .inr ⟨0x8001, 0x8008, by decide +kernel, by decide +kernel, by decide +kernel, by decide +kernel, by decide⟩
theorem witness_SemaphoreFrames : let b : List Byte := (0x11 :: List.replicate 21 0); let ok := b ++ bytesBE 2 (crcFwd 16 0x1021 0xFFFF b); let u := setFlag lit (ocKey 0) 14 true
    live lit = true ∧ inRun s0 pgOCU = false ∧ inRun lit pgOCU = true ∧ ocuState lit 0 ≠ ocABSENT ∧ (ocuMod lit 0).frame < 8 ∧ ok.length = 24 ∧ lit.store.ecc = [] ∧
    beAt ok 22 2 = crcFwd 16 0x1021 0xFFFF (ok.take 22) ∧ ((ocuMod lit 0).cmdSeq + 256 - beAt ok 15 1) % 256 ≤ 2 ∧ semUp lit 0 = false ∧ semUp u 0 = true ∧
    (goEntry 25 [{ tick := 25, dir := 1 }]).isSome = true ∧ goEntry 24 [{ tick := 25, dir := 1 }] = none ∧ (lit.tick.now = 0) := by
  decide +kernel
theorem witness_LockAndAcquisition : let f := putOcu (setOcState s0 0 ocFINE) 0 { ocuMod s0 0 with samples := List.replicate 10 (1, 2), began := some 0 }
    let d := setFld (setFlag (running [pgOCU] (setOcState s0 0 ocDARK)) (ocKey 0) 14 true) (keyB R.OCU_GRID 0) 21 16 4
    live f = true ∧ 10 ≤ (ocuMod f 0).samples.length ∧ ocuState f 0 = ocFINE ∧ ((ocuMod f 0).samples.map (·.2)).sum ≠ 0 ∧ ocuState (setOcState s0 0 ocCOARSE) 0 = ocCOARSE ∧
    ocuState s0 0 ≠ ocCOARSE ∧ 0 + fld f R.OCU_ACQ_TMO 23 0 ≤ (atTick 0xFFFFFF f).tick.now ∧ f.store.ecc = [] ∧ live d = true ∧ mayWrite d .core R.OCU_CMD = true ∧
    ocuState d 0 = ocDARK ∧ ocSel d = 0 ∧ mayAttempt d 0 = true ∧ mayAttempt s0 0 = false := by decide +kernel
theorem witness_SteeringAndModules : let s := set64 (atTick 9 s0) (keyB R.OCU_STEER_TICK_LO 0) (keyB R.OCU_STEER_TICK_HI 0) 25; let w := putOcu s0 0 { ocuMod s0 0 with txWait := true }
    live s = true ∧ mayWrite s .core R.OCU_STEER_CMD = true ∧ s.tick.now + 16 ≤ reg64 s (keyB R.OCU_STEER_TICK_LO 0) (keyB R.OCU_STEER_TICK_HI 0) ∧
    (ocuMod s 0).txq.getLast? = none ∧ dirFailed s 0 0 = false ∧ (ocuMod s 0).txq.length < 8 ∧ s.store.ecc = [] ∧ (ocuMod w 0).txWait = true ∧
    mayWrite s0 .core R.OCU_CMIS_CMD = true ∧ bitOf (1 : Word).toNat 0 = true ∧ flag s0 (keyB R.OCU_CMIS_RES 0) 0 = false ∧ bitOf (regN s0 (keyB R.OCU_CMIS_REQ 0)) 24 = false ∧
    flag (setFlag s0 (keyB R.OCU_CMIS_RES 0) 0 true) (keyB R.OCU_CMIS_RES 0) 0 = true ∧ ocuState s0 0 = ocABSENT ∧ (ocuMod s0 0).pages = none := by decide +kernel
/-- Two sites; this one, of id 1, has index 0 and the weight of a quorum. -/
def siteOf (self : Nat) : SiteTab :=
  { job := 7, self := self, ensign := 0, lag := 1, h := 16, loss := 1250, agree := 125, view := 130, crc := 9,
    ents := [{ id := 1, weight := 2, guidon := 1, alt := 2 }, { id := 2, weight := 1, guidon := 11, alt := 12 }] }
/-- WG9 of node 1 holds the job and is its site's guidon, a member of a view of both sites in epoch 5. -/
def sited (self : Nat) : State :=
  setN (setN (setN (setN { s0 with job := { s0.job with held := true, id := 7 }, site := { s0.site with tab := some (siteOf self), joined := 5 } } R.GLB_NODE 1)
    R.SITE_STATE (2 ^ 21 + sMEMBER)) R.SITE_VIEW 3) R.SITE_EPOCH 5
/-- A site message of the other site. -/
def fromOther (self : Nat) : SiteHdr := { site := if self = 0 then 2 else 1, count := 1, dest := if self = 0 then 1 else 2, port := 4 }
theorem witness_SiteActs : SiteActs (sited 0) (siteOf 0) (fromOther 0) := by
  unfold SiteActs; exact ⟨by decide +kernel, by decide +kernel, by decide +kernel, by decide +kernel⟩
theorem witness_RoundsAndHealing : let s := sited 0; let a := { s with job := { s.job with accepted := true } }; let h := setFld s R.SITE_STATE 2 0 sHEALING
    live s = true ∧ siteState s ≠ sDIPPED ∧ s.job.held = true ∧ siteTab s = some (siteOf 0) ∧ s.job.pushed = s.job.commit ∧ s.job.phase = 0 ∧ s.job.accepted = false ∧
    a.job.accepted = true ∧ memberBusy a = false ∧ siteIdx (siteOf 0) 2 = some 1 ∧ siteState s = sMEMBER ∧ lowestId (siteOf 0) (viewMask s) = ownSite (siteOf 0) ∧
    siteState h = sHEALING ∧ fld h R.SITE_HEAL 1 0 = 0 ∧ h.site.accepted = none ∧ siteCommit h = 0 ∧ (fromOther 0).arithRev.toNat = regN s R.ARITH_REV ∧
    SiteHdr.arithRev { fromOther 0 with arithRev := 7 } ≠ (fromOther 0).arithRev ∧ flag h R.SITE_POLICY 0 = false ∧ h.store.ecc = [] := by decide +kernel
theorem witness_SitesReachable : let s := sited 0; let n := setFlag s R.SITE_STATE 21 false; let r := setN (atTick 1250 n) R.SITE_REACH 2
    live s = true ∧ siteTab s = some (siteOf 0) ∧ isGuidon s = true ∧ s.site.lastBeacon = none ∧ isGuidon n = false ∧ n.site.seen.contains (2, 1) = false ∧
    siteIdx (siteOf 0) 2 = some 1 ∧ live r = true ∧ 1 ≠ (siteOf 0).self ∧ bitOf (reachMask r) 1 = true ∧ mapGet 0 r.site.heard 1 + (siteOf 0).loss ≤ r.tick.now ∧ r.store.ecc = [] ∧
    isGuidon r = false ∧ isQuorum (siteOf 0) ((reachMask r - 2 ^ 1) ||| 2 ^ 0) = true ∧ isQuorum (siteOf 1) 2 = false := by decide +kernel
theorem witness_ViewChanges : let s := sited 0; let p : Promise := ⟨false, 0x602, 0, 0⟩; let q : Promise := ⟨true, 0x602, 1, 0⟩
    let k := { s with site := { s.site with promises := [promiseOf p, promiseOf q], joined := 0x602 } }
    let j := { s with site := { s.site with prop := some { epoch := 0x602, view := 3, joins := [(0, 0, none)], tick := 0 }, joined := 0x602 } }
    live s = true ∧ s.site.joined < 0x602 ∧ ownNode s ≠ (siteEnt (siteOf 0) 0).alt ∧ s.hlth.lost.contains 2 = false ∧ k.site.promises.contains (promiseOf p) = true ∧
    k.site.promises.contains (promiseOf q) = true ∧ k.site.joined ≤ p.epoch.toNat ∧ siteIdx (siteOf 0) (p.epoch.toNat % 256) = some 1 ∧ k.site.accepted = none ∧
    bitOf (viewMask k) 1 = true ∧ k.site.accepts = [] ∧ 0 < (siteOf 0).agree ∧ j.site.prop = some { epoch := 0x602, view := 3, joins := [(0, 0, none)], tick := 0 } ∧
    isQuorum (siteOf 0) 3 = true ∧ j.site.joined ≤ 0x602 ∧ siteEpoch j < 0x602 ∧ bitOf 3 0 = true ∧ j.job.phase = 0 ∧ j.coll.groups = [] ∧ j.site.swaps = [] ∧
    siteState s ≠ sDIPPED ∧ s.store.ecc = [] := by decide +kernel
/-- The other site, reachable and healed, would be admitted: the guidon waits for the proposer, and its own site is no quorum. -/
theorem witness_ViewChanges_timeout : let s := setN (setN (sited 1) R.SITE_VIEW 2) R.SITE_REACH 1
    let d := { atTick 130 s with site := { s.site with wait := some 0, asked := [0], revs := [(1, regN s R.ARITH_REV)] } }; let p : Proposal := { epoch := 0x602, view := 3, joins := [], tick := 0 }
    live d = true ∧ siteTab d = some (siteOf 1) ∧ viewWanted d (siteOf 1) = true ∧ d.site.later = none ∧ d.site.prop = none ∧ d.site.wait = some 0 ∧ 0 + (siteOf 1).view ≤ d.tick.now ∧
    isQuorum (siteOf 1) (2 ^ 1 &&& wantedView d (siteOf 1)) = false ∧ viewWanted { d with site := { d.site with prop := some p } } (siteOf 1) = true ∧
    viewWanted { d with site := { d.site with revs := [(1, 7)] } } (siteOf 1) = false ∧ viewWanted { d with job := { d.job with held := true, phase := 5 } } (siteOf 1) = false := by decide +kernel
theorem witness_CommitAgreement : let s := sited 0; let a := { s with site := { s.site with accepted := some (1, 5, 9), acceptAt := some 0, accepts := [(0, 1, 5, 9)] } }
    let o := setN { atTick 125 s with site := { s.site with offerAt := some 0, offers := [(0, 1, 5, 9)] } } R.SITE_VIEW 1
    let f := { s with site := { s.site with offerAt := some 0, offers := [(0, 1, 5, 9), (1, 1, 5, 8)] } }
    live s = true ∧ isGuidon s = true ∧ siteEpoch s = 5 ∧ siteCommit s = 0 ∧ siteIdx (siteOf 0) 2 = some 1 ∧ s.site.joined ≤ 5 ∧ s.site.offerAt = none ∧ s.site.accepted = none ∧
    a.site.accepted = some (1, 5, 9) ∧ a.site.acceptAt = some 0 ∧ a.site.due = none ∧ isData a = false ∧ viewMask a = 2 ^ 0 ||| 2 ^ 1 ∧
    o.site.offerAt = some 0 ∧ 0 + (siteOf 0).agree ≤ o.tick.now ∧ bitOf (viewMask o) 0 = true ∧ isQuorum (siteOf 0) (2 ^ 0) = true ∧ ownNode o ≠ (siteEnt (siteOf 0) 0).alt ∧
    o.hlth.lost.contains 2 = false ∧ o.site.accepted = none ∧ f.site.offerAt = some 0 ∧ viewMask f = 2 ^ 0 ||| 2 ^ 1 ∧ protBehind s 1 = false ∧ s.site.due = none := by decide +kernel
theorem witness_HealthOfTheSite : let s := sited 0; let l := { atTick 1250 s with hlth := { s.hlth with spares := [3] } }; let o := setFld s R.HLT_HOIST 2 0 1
    let e := (List.range 9).foldl (fun a i => setN a (keyB R.HLT_WEIGHT i) 0) (atTick 0xFFFFFF s0)
    live s = true ∧ siteTab s = some (siteOf 0) ∧ s.hlth.lastBeat = none ∧ s.hlth.lost.contains 3 = false ∧ 3 ≠ ownNode l ∧ (siteNodes l).contains 3 = true ∧
    mapGet 0 l.hlth.beats 3 + 1250 ≤ l.tick.now ∧ l.store.ecc = [] ∧ isData l = false ∧ ownNode l ≠ (siteEnt (siteOf 0) 0).alt ∧ dataPlace l.hlth.groups 3 = none ∧
    o.hlth.hoists = [] ∧ ownNode o = 1 ∧ fld o R.HLT_HOIST 2 0 = 1 ∧ fld (setFld o R.HLT_HOIST 2 0 2) R.HLT_HOIST 2 0 = 2 ∧
    live e = true ∧ e.hlth.lastEval + fld e R.HLT_EVAL 23 0 ≤ e.tick.now ∧ (∀ i, i < 9 → regN e (keyB R.HLT_WEIGHT i) = 0) ∧ hltState e ≤ 1 ∧ fld e R.HLT_THR 10 0 ≤ 1000 ∧
    s.job.held = true ∧ hltState s ≠ 2 ∧ isGuidon s = true ∧ freeSpares s = [] := by decide +kernel
theorem witness_MirrorAndParity : let m := { s0 with hlth := { s0.hlth with mirOut := [(false, 3)] } }; let g := setN { s0 with hlth := { s0.hlth with groups := [{ data := [2], p := 1, q := 4, partner := [] }] } } R.GLB_NODE 1
    let a := { s0 with hlth := { s0.hlth with out := [{ unit := 3, want := [2, 4], write := none }] } }
    live s0 = true ∧ crc64 ([] ++ [7]) ≠ 0 ∧ m.hlth.mirOut.contains (false, 3) = true ∧ s0.hlth.mirOut.contains (false, 3) = false ∧
    g.hlth.groups[0]? = some { data := [2], p := 1, q := 4, partner := [] } ∧ ownNode g = 1 ∧ g.hlth.parity = [] ∧ s0.hlth.round = 0 ∧
    a.hlth.out = [{ unit := 3, want := [2, 4], write := none }] := by decide +kernel
theorem witness_SumsInAnyOrder : [decodeF fp32 1, vzero].Perm [vzero, decodeF fp32 1] ∧ 1 ≤ 16 ∧ 16 ≤ 24 ∧ (-(2 ^ (16 - 1) : Nat) : Int) ≤ 5 ∧ (5 : Int) < (2 ^ (16 - 1) : Nat) :=
  ⟨List.Perm.swap _ _ _, by decide⟩
/-- A tile of 64 bytes of BF16 at 0x18000, admitted at its hop, with a hop's bytes. -/
def tileOf (len : Nat) (bs : Option (List Byte)) : Tile := { desc := { fmt := 2, src := 0x18000, len := len }, admitted := some 0, data := bs }
/-- A stream whose every hop is at a station's first place, with an operation. -/
def strmOf (station op hops : Nat) (operand : List Nat) (t : Tile) : Stream :=
  { id := 1, cls := 3, member := false, hops := hops, route := List.replicate hops station, rate := List.replicate hops 1, op := List.replicate hops op, sub := 0,
    sqBase := 0x8000, sqLog2 := 6, operand := operand, credit := List.replicate hops 0, tiles := [t] }
/-- Slot 0 holds it. -/
def tiled (st : Stream) (s : State) : State := { s with strm := { s.strm with slots := [(0, st)] } }
/-- The job's tables lie in memory, and the hops' operands name the configuration record and places of the second region. -/
def worked (station op : Nat) (t : Tile) : Stream × State := let st := strmOf station op 2 [0x100, 0x1C000, 0x1D000] t; (st, tiled st (tabled s0))
theorem test_elem_bf16 : elemOf 2 = some (.float bf16) := by decide +kernel
theorem witness_NanRule : let t := tileOf 4 (some [0, 0x40, 0x80, 0x3F]); let x := worked stVECTOR 0x22 t
    live x.2 = true ∧ t.hop + 1 < x.1.hops ∧ HopAt x.2 0 0 stVECTOR (· == 0x22) x.1 t ∧ hopVals (accessOf x.1 t) t x.2 = (.ok (decodeTensor (.float bf16) [0, 0x40, 0x80, 0x3F]), x.2) ∧
    operandVals (accessOf x.1 t) x.1 t 0 x.2 = (.ok (decodeTensor (.float bf16) [1, 0, 0, 0]), x.2) :=
  ⟨by decide +kernel, by decide, ⟨by decide +kernel, by decide +kernel, by decide⟩, eq_of_answers (by decide +kernel), eq_of_answers (by decide +kernel)⟩
theorem witness_HopsAndCompletion : let t : Tile := { tileOf 4 (some [1, 2, 3, 4]) with desc := { fmt := 2, src := 0x18000, dst := 2 ^ 47, len := 4 } }; let st := strmOf stCODEC 0 1 [] t
    let s := setN (setFlag (setFld (tiled st (mapped 9 s0)) (keyB R.CRING_CFG 0) 4 0 6) (keyB R.CRING_CFG 0) 31 true) (keyB R.CRING_BASE_LO 0) 0x9000
    HopAt s 0 0 stCODEC (· == 0) st t ∧ live s = true ∧ t.hop + 1 = st.hops ∧ dstStorage st t = false ∧ t.txLeft = 0 ∧ st.tiles = [t] ∧ hopInput (accessOf st t) t s = (.ok [1, 2, 3, 4], s) ∧
    (bitOf t.desc.attr 1 && isSealed s st t) = false ∧ cringSize s t.desc.ring = some 64 ∧ (0 + 1) % 64 ≠ fld s (keyB R.CRING_HEAD 0) 15 0 ∧ s.store.ecc = [] ∧ t.landing = none ∧
    s.coll.purposes = [] ∧ s.job.held = false ∧ bitOf t.desc.attr 4 = false ∧ t.late = 0 ∧ t.delay = 0 ∧
    PlacedAt s (st.sqBase + 64 * t.desc.qidx + 0x03) 1 (0x8000 + 0x03) ∧ PlacedAt s (st.sqBase + 64 * t.desc.qidx + 0x2A) 1 (0x8000 + 0x2A) ∧
    PlacedAt s (st.sqBase + 64 * t.desc.qidx + 0x34) 12 (0x8000 + 0x34) ∧ PlacedAt s (cringBase s t.desc.ring + 32 * fld s (keyB R.CRING_TAIL t.desc.ring) 15 0) 32 0x9000 :=
  ⟨⟨by decide +kernel, by decide +kernel, by decide⟩, by decide +kernel, by decide, by decide, by decide, rfl, rfl, by decide +kernel, by decide +kernel, by decide +kernel, by decide +kernel,
    rfl, by decide, by decide, by decide, rfl, rfl, ⟨by decide +kernel, by decide +kernel⟩, ⟨by decide +kernel, by decide +kernel⟩, ⟨by decide +kernel, by decide +kernel⟩, ⟨by decide +kernel, by decide +kernel⟩⟩
/-- The ring's tail stands one behind its head: it is full. -/
theorem witness_HopsAndCompletion_full : let s := setFld (setFld (setFlag (setFld s0 (keyB R.CRING_CFG 0) 4 0 6) (keyB R.CRING_CFG 0) 31 true) (keyB R.CRING_HEAD 0) 15 0 5) (keyB R.CRING_TAIL 0) 15 0 4
    cringSize s 0 = some 64 ∧ (fld s (keyB R.CRING_TAIL 0) 15 0 + 1) % 64 = fld s (keyB R.CRING_HEAD 0) 15 0 := by decide +kernel
theorem witness_HopsAndCompletion_idle : ∀ st, streamAt s0 0 = some st → actingTile st 0 stMATRIX (· == 1) = none := by
  intro st h; cases h
theorem witness_MemberOperations : let t := tileOf 4 (some [0, 0x40, 0x80, 0x3F]); let x := worked stVECTOR 0x23 t
    t.hop + 1 < x.1.hops ∧ HopAt x.2 0 0 stVECTOR (· == 0x23) x.1 t ∧ hopVals (accessOf x.1 t) t x.2 = (.ok (decodeTensor (.float bf16) [0, 0x40, 0x80, 0x3F]), x.2) ∧
    operandVals (accessOf x.1 t) x.1 t 0 x.2 = (.ok (decodeTensor (.float bf16) [1, 0, 0, 0]), x.2) ∧ hopRead (accessOf x.1 t) (nthD 0 x.1.operand 2) 8 x.2 = (.ok (List.replicate 8 0), x.2) :=
  ⟨by decide, ⟨by decide +kernel, by decide +kernel, by decide⟩, eq_of_answers (by decide +kernel), eq_of_answers (by decide +kernel), eq_of_answers (by decide +kernel)⟩
theorem witness_MemberOperations_gemm : let pb := bytesLE 4 1 ++ bytesLE 4 1 ++ [1, 1, 1, 0, 0, 0, 0, 0]; let t := tileOf 4 (some [0, 0, 0x80, 0x3F])
    let st := strmOf stMATRIX 1 2 [0x1C000, 0, 0x1D000] t; let s := holding 0x1D000 pb (tiled st (mapped 4 s0))
    HopAt s 0 0 stMATRIX (· == 1) st t ∧ hopRead (accessOf st t) (nthD 0 st.operand 2) 16 s = (.ok pb, s) ∧ (elemOf 1).any (fun e => !isScaled e && tensorBytes e 1 == 4
      && (decodeTensor e [0, 0, 0x80, 0x3F]).length == 1 && answers (hopRead (accessOf st t) (nthD 0 st.operand 0) (tensorBytes e (1 * 1)) s) [0, 0, 0, 0] s) = true :=
  ⟨⟨by decide +kernel, by decide +kernel, by decide⟩, eq_of_answers (by decide +kernel), by decide +kernel⟩
theorem witness_CodecHops : let t : Tile := { tileOf 4 (some [1, 2, 3, 4]) with desc := { fmt := 2, attr := 2, src := 0x18000, dst := 2 ^ 47, len := 4 } }; let st : Stream := { strmOf stCODEC 1 2 [] t with route := [stCODEC, stEXPAND] }
    let s := running [pgCODEC] (tiled st (mapped 4 s0)); let s := { s with regn := { s.regn with tables := s.regn.tables.map (·.map (fun e => (e.1, { e.2 with compress := true }))) } }
    HopAt s 0 0 stCODEC (· == 1) st t ∧ dstStorage st t = false ∧ inRun s pgCODEC = true ∧ bitOf t.desc.attr 1 = true ∧ (refRegion s t.table t.desc.src).any (·.compress) = true ∧ (bitOf t.desc.attr 1 && isSealed s st t) = false ∧
    codeContext s st t = (some 0, false) ∧ (cslot s (cslotKey 0 0 0)).state = 0 ∧ (cslot (putCslot s (cslotKey 0 0 0) { state := 1 }) (cslotKey 0 0 0)).state = 1 :=
  ⟨⟨by decide +kernel, by decide +kernel, by decide⟩, by decide +kernel, by decide +kernel, by decide, by decide +kernel, by decide +kernel, by decide +kernel, by decide +kernel, by decide +kernel⟩
/-- A coded tile at EXPAND: its image names a table that the cache lacks, it is RAW, or it is no image. -/
theorem witness_CodecHops_decode : let coded : List Byte := [0, 1] ++ bytesLE 2 4 ++ bytesLE 12 (((List.range 8).map (fun k => 2 * (k + 1) * 4096 ^ k)).sum) ++ List.replicate 64 0
    let raw : List Byte := [0, 0x81] ++ bytesLE 2 4 ++ List.replicate 12 0 ++ [1, 2, 3, 4] ++ List.replicate 60 0; let s := putCslot s0 (cslotKey 0 1 0) { state := 2, table := [1] }
    let ans (b : List Byte) (more good : Bool) := (match fetchTables 0 0 (cutImages (blockLens 4) b) s with | (.ok x, u) => x == more && decide (u = s) == !more | _ => false)
      && ((decodeAll 0 0 0 ((cutHeads (blockLens 4) b).zip (cutImages (blockLens 4) b)) s).1.all Option.isSome == good)
    ans coded true true = true ∧ ans raw false true = true ∧ ans [1, 2, 3, 4] false false = true := by decide +kernel
theorem witness_CodecHops_expand : let t : Tile := { tileOf 4 (some [1, 2, 3, 4]) with desc := { fmt := 2, src := 0x18000, dst := 2 ^ 47, len := 4 }, coded := true }; let d := strmOf stEXPAND 0 2 [] t; let s := tiled d (mapped 4 s0)
    HopAt s 0 0 stEXPAND (· == 0) d t ∧ t.hop + 1 < d.hops ∧ dstStorage d t = false ∧ hopInput (accessOf d t) t s = (.ok [1, 2, 3, 4], s) :=
  ⟨⟨by decide +kernel, by decide +kernel, by decide⟩, by decide, by decide +kernel, rfl⟩
/-- An operation of a hop completes and leaves the state as it is. -/
def going {α : Type} (r : Except Nat α × State) (s : State) : Bool := match r with | (.ok _, u) => decide (u = s) | _ => false
/-- An operation of a hop completes. -/
def completes {α : Type} (r : Except Nat α × State) : Bool := match r with | (.ok _, _) => true | _ => false
/-- The job's round 0 is in a phase; its exchanges have ended, and its factors are whole. -/
def phased (k : Nat) (s : State) : State := { s with job := { s.job with held := true, ocr := 0x100, phase := k, exchanged := 2, made := [(0, 2 ^ 40)] } }
/-- The same, with nothing made. -/
def bare (k : Nat) (s : State) : State := { phased k s with job := { (phased k s).job with exchanged := 0, made := [] } }
/-- A hop may access n bytes at a local address. -/
def reaches (s : State) (c : Access) (wr : Bool) (a n : Nat) : Bool := match checkAccess s (regionsAt s c.table) c.gate c.station wr c.member false a n with | .ok _ => true | _ => false
/-- One property of the job's record and panels. -/
def jobAll (s : State) (f : Ocr → List Panel → Bool) : Bool := (jobOcr s 0x100).any (fun o => (readPanels s o).any (f o))
/-- The first element's tile. -/
def oneElem : Tile := tileOf 2 (some (List.replicate 64 0))
theorem witness_ProjectionAndElements_held : let x := worked stPROJECT 1 oneElem
    live x.2 = true ∧ HopAt x.2 0 0 stPROJECT (· == 1) x.1 oneElem ∧ inRound x.2 0 = false ∧ applyMay x.2 0 = false ∧ reduceMay0 x.2 0 = false :=
  ⟨by decide +kernel, ⟨by decide +kernel, by decide +kernel, by decide⟩, by decide +kernel, by decide +kernel, by decide +kernel⟩
theorem witness_ProjectionAndElements_draw : let x := worked stPROJECT 3 oneElem; let s := phased 3 x.2
    HopAt s 0 0 stPROJECT (· == 3) x.1 oneElem ∧ inRound s 0 = true ∧ jobAll s (fun o ps => answers (hopJob x.1 s) (o, ps) s && decide (refForm oneElem.desc.src = 0 ∧ oneElem.desc.src = o.snap + 2 * 0 ∧ oneElem.desc.len = 2 * 1 ∧ 0 + 1 ≤ o.elems)
      && going (HopM.each (drawRun (accessOf x.1 oneElem) o 0 3) (panelRuns ps 0 1) s) s) = true :=
  ⟨⟨by decide +kernel, by decide +kernel, by decide⟩, by decide +kernel, by decide +kernel⟩
theorem witness_ProjectionAndElements_left : let t : Tile := { oneElem with draw := some 1, rows := [(0, 0, List.replicate 32 vzero)] }; let x := worked stMATRIX 2 t; let s := phased 3 x.2
    HopAt s 0 0 stMATRIX (· == 2) x.1 t ∧ inRound s 0 = true ∧ reduceMay0 s 0 = true ∧ s.store.ecc = [] ∧ s.job.acc = [] ∧ hopInput (accessOf x.1 t) t s = (.ok (List.replicate 64 0), s) ∧
    notePhase s 0 3 = s ∧ jobAll s (fun o ps => (deltaRuns (o, ps) (0, 1) (List.replicate 64 0)).all (fun r => r.2.1 == 0 && r.2.2.length == 1 && decide (0 < r.1.rank) && r.1.rank % 32 == 0
        && decide (r.1.rank ≤ 1024 ∧ r.1.rows ≤ 2 ^ 24 ∧ 1 < r.1.cols ∧ 1 < r.1.rows) && ((drawnRow t.rows r.1 0).getD []).length == r.1.rank && going (readRow (accessOf x.1 t) o r.1 .lo 0 s) s)
      && (deltaRuns (o, ps) (0, 1) (List.replicate 64 0)).length == 1 && answers (leftRows (accessOf x.1 t) (o, ps) t (0, 1) s) t.rows s) = true :=
  ⟨⟨by decide +kernel, by decide +kernel, by decide⟩, by decide +kernel, by decide +kernel, by decide, by decide, rfl, by decide +kernel, by decide +kernel⟩
theorem witness_ProjectionAndElements : let t := { oneElem with data := none }; let x := worked stVECTOR 1 t; let c := accessOf x.1 t; let a := phased 2 x.2; let r := phased 7 (worked stMATRIX 4 t).2; let z := phased 8 (worked stVECTOR 9 t).2
    HopAt a 0 0 stVECTOR (· == 1) x.1 t ∧ notePhase a 0 2 = a ∧ Sound a ∧ jobAll a (fun o ps => decide (refForm t.desc.src = 0 ∧ t.desc.src = o.snap + 2 * 0 ∧ t.desc.len = 2 * 1 ∧ 0 + 1 ≤ o.elems) && (deltaSpans o ps (0, 1)).all (fun y =>
        going (readF32 c (o.outer + 4 * y.2.1) y.2.2 a) a && going (hopRead c (o.snap + 2 * y.2.1) (2 * y.2.2) a) a && going (readF32 c (residRead o 0 + 4 * y.2.1) y.2.2 a) a)) = true ∧
    HopAt r 0 0 stMATRIX (· == 4) (worked stMATRIX 4 t).1 t ∧ residualMay r 0 = true ∧ residMay r 0 = true ∧ isData r = false ∧ notePhase r 0 7 = r ∧ Sound r ∧ jobAll r (fun o ps => going (deltaTerms c o 0 0 1 r) r
      && ps.all (fun p => answers (reducedSpecial c o p 0 0 0 r) false r && going (reconTerms c o p [] 0 0 0 false r) r) && (panelOf ps 0).isSome && reaches r c true (residWrite o 0) 4) = true ∧
    HopAt z 0 0 stVECTOR (· == 9) (worked stVECTOR 9 t).1 t ∧ applyMay z 0 = true ∧ isData z = false ∧ Sound z ∧ jobAll z (fun o ps => going (readF32 c (o.outer + 4 * 0) 1 z) z && going (readF32 c (o.mom + 4 * 0) 1 z) z
      && ps.all (fun p => going (reconTerms c o p [] 0 0 0 true z) z) && reaches z c true o.outer 4 && reaches z c true o.mom 4) = true :=
  ⟨⟨by decide +kernel, by decide +kernel, by decide⟩, by decide +kernel, ⟨rfl, rfl⟩, by decide +kernel, ⟨by decide +kernel, by decide +kernel, by decide⟩, by decide +kernel, by decide +kernel, by decide +kernel, by decide +kernel,
    ⟨rfl, rfl⟩, by decide +kernel, ⟨by decide +kernel, by decide +kernel, by decide⟩, by decide +kernel, by decide +kernel, ⟨rfl, rfl⟩, by decide +kernel⟩
/-- A granule of the reduced factors is special; a result that is not whole withholds what needs it. -/
theorem witness_ProjectionAndElements_special : let t := { oneElem with data := none }; let x := worked stMATRIX 4 t; let s := phased 7 x.2; let b := bare 3 x.2
    jobAll s (fun o ps => ps.all (fun p => let y := if isPower o then qsOf 0 else .ls; let z := holding (partAddr o p y + 4 * partElems p y) [0xFF] s; answers (reducedSpecial (accessOf x.1 t) o p 0 0 0 z) true z)) = true ∧
    inRound b 0 = true ∧ projRightMay b 0 = false ∧ residualMay b 0 = false ∧ projRightMay s 0 = true := by decide +kernel
theorem witness_FactorOperations_held : let t := tileOf 64 (some (List.replicate 64 0)); let x := worked stVECTOR 2 t
    exprecMay x.2 t = false ∧ quantMay x.2 0 (tilePass x.2 t) = false ∧ reduceMay0 x.2 0 = false ∧ exprecMay (phased 4 x.2) t = true ∧ quantMay (phased 5 x.2) 0 (tilePass (phased 5 x.2) t) = true ∧
    quantMay (bare 5 x.2) 0 1 = false ∧ reduceMay0 (phased 6 x.2) 0 = true ∧ reduceMay0 (bare 6 x.2) 0 = false := by decide +kernel
/-- A projection that is not whole withholds EXPREC of its rows. -/
theorem witness_FactorOperations_whole : let b := bare 4 (worked stVECTOR 2 (tileOf 64 none)).2
    jobAll b (fun o ps => ps.all (fun p => !exprecMay b { tileOf 128 none with desc := { src := partAddr o p .lp, len := 128 } }) && !ps.isEmpty) = true := by decide +kernel
theorem witness_FactorOperations : let t := tileOf 64 (some (List.replicate 64 0)); let x := worked stVECTOR 2 t; let s := phased 4 x.2
    jobAll s (fun o ps => answers (hopJob x.1 s) (o, ps) s && going (factorBlocks (accessOf x.1 t) o ps t s) s) = true ∧ HopAt s 0 0 stVECTOR (· == 2) x.1 t ∧ reaches s (accessOf x.1 t) true 0x1C000 64 = true ∧ Sound s :=
  ⟨by decide +kernel, ⟨by decide +kernel, by decide +kernel, by decide⟩, by decide +kernel, rfl, rfl⟩
/-- A tile of one row of LP: its block, the record agreed for it, and the places of its codes. -/
theorem witness_FactorOperations_quant : let x := worked stVECTOR 3 (tileOf 64 none); let s := phased 5 x.2; let c := accessOf x.1 (tileOf 64 none)
    notePhase s 0 5 = s ∧ jobAll s (fun o ps => ps.all (fun p => let t : Tile := { tileOf (4 * 32) none with desc := { src := partAddr o p .lp, len := 4 * 32 } }
      quantMay s 0 (tilePass s t) && (match factorBlocks c o ps t s with | (.ok [(q, y, 0, [_])], u) => decide (q = p) && y == Part.lq && decide (u = s) | _ => false)
        && going (agreedRecord c (entryBase ps p .lq + 0) s) s && (blockPieces o p .lq 0 (0x7F, List.replicate 32 0)).all (fun y => reaches s c true y.1 y.2.length)
        && completes (writeMade c (blockPieces o p .lq 0 (0x7F, List.replicate 32 0)) s)) && !ps.isEmpty) = true := by decide +kernel
theorem witness_FactorOperations_rows : let x := worked stVECTOR 5 (tileOf 64 none); let s := phased 6 x.2; let c := accessOf x.1 (tileOf 64 none)
    jobAll s (fun o ps => ps.all (fun p =>
      let g := [Part.ls, .lo, .gm, .lf].all (fun part => let t : Tile := { tileOf (4 * 32) none with desc := { src := partAddr o p part, len := 4 * 32 } }
        answers (tileRows o ps t s) (p, part, 0, 1) s)
      g && going (readSquare c o p .gm s) s && going (readSquare c o p .lf s) s && (match readRow c o p .ls 0 s with | (.ok v, u) => v.1.length == p.rank && !v.2 && decide (u = s) | _ => false)
        && going (hopKey c true false (partAddr o p .gm) 4 s) s && decide (p.rank ≤ 1024 ∧ 1 < p.rows) && completes (hopWrite c false (partAddr o p .lo) [0, 0, 0, 0] s)) && !ps.isEmpty) = true := by decide +kernel
/-- A tile at the HOST hop of a stream that names one endpoint at port 6, and the machine with P0's first cells free. -/
def outTile : Tile := { tileOf 4 (some [1, 2, 3, 4]) with hop := 1, desc := { fmt := 2, src := 0x18000, dst := 2 ^ 47, len := 4 } }
def outStream : Stream := { strmOf stHOST 0 2 [] outTile with route := [stVECTOR, stHOST + 16 * 8] }
def outTarget : Target := { port := 6, node := 9, stream := 5 }
def outState (p0 : Bool) : State :=
  let s := running [pgSW, pgSCHED, 0x48] (holding 0x18100 [0x60, 0, 9, 0, 5, 0] (tiled outStream (mapped 4 s0)))
  let s := setN { s with sw := { s.sw with subs := [(0, { valid := true, epCount := 1, epBase := 0x18100 })] } } (segReg R.POOL_SEG_FREE 0 0) 163840
  if p0 then setN s (segReg R.POOL_SEG_HEAD 0 0) (mkHandle 0 0 0) else s
theorem witness_OutHops : let t := outTile; let st := outStream; let s := outState true; let x := outTarget
    HopAt s 0 0 stHOST (fun _ => true) st t ∧ inRun s pgSW = true ∧ inRun s pgSCHED = true ∧ endpointOf s st t.desc.dst = some (false, [x]) ∧
    portOk stHOST (hopPlace (hopAt st t.hop)) false 6 = true ∧ nodesOk s stHOST [x] = true ∧
    cellGate s st.cls [1, 2, 3, 4] [x] = none ∧ (copiesNormal 0 st t [1, 2, 3, 4] false [x] s).1 = [none] ∧ st.cls ≠ 7 ∧ flag s R.SW_STATE 1 = false :=
  ⟨⟨by decide +kernel, by decide +kernel, by decide⟩, by decide +kernel, by decide +kernel, by decide +kernel, by decide +kernel, by decide +kernel, by decide +kernel, by decide +kernel, by decide, by decide +kernel⟩
/-- Cells run out at the gate, by the tile's class, or while its frames are queued; and no buffer is had to share. -/
theorem witness_OutHops_short : cellGate s0 4 [1, 2, 3, 4] [outTarget] = some cWAIT ∧ cellGate s0 7 [1, 2, 3, 4] [outTarget] = some cWAIT ∧
    cellGate (running [0x48] s0) 4 [1, 2, 3, 4] [outTarget] = some cWAIT ∧ cellGate (running [0x48] s0) 7 [1, 2, 3, 4] [outTarget] = some cBUSY ∧
    c7Shut (outState true) [1, 2, 3, 4] [outTarget] (portHoist 6) = false ∧ cellGate (outState true) 7 [1, 2, 3, 4] [outTarget] = none ∧
    c7Shut (running [0x48] s0) [1, 2, 3, 4] [outTarget] (portHoist 6) = true ∧
    (copiesNormal 0 outStream outTile [1, 2, 3, 4] false [outTarget] (outState false)).1 = [some cWAIT] ∧ (copiesNormal 0 outStream outTile [1, 2, 3, 4] true [outTarget] (outState true)).1 = [none] ∧
    (copiesNormal 0 { outStream with cls := 7 } outTile [1, 2, 3, 4] true [outTarget] (outState false)).1 = [some cBUSY] ∧
    (sharedBuffer (outState true) outTile [1, 2, 3, 4] 1).1 = none ∧ (sharedBuffer (setN pooled (segReg R.POOL_SEG_FREE 1 0) 0) outTile [1, 2, 3, 4] 1).1 = none ∧
    flag (setFlag s0 R.SW_STATE 1 true) R.SW_STATE 1 = true ∧ endpointOf s0 outStream (2 ^ 47) = none ∧ portOk stLINE 0 false 6 = false := by decide +kernel
/-- A pool of eight P2 buffers, one of them free, and the first of P0's cells. -/
def stocked : State :=
  let s := setN (setN (setN (setN (setN (holding 0x20000 (linkBytes endHandle) pooled) (segReg R.POOL_SEG_BASE_LO 2 0) 0x10000) (segReg R.POOL_SEG_META_LO 2 0) 0x8000) (segReg R.POOL_SEG_COUNT 2 0) 8)
    (segReg R.POOL_SEG_HEAD 2 0) (mkHandle 2 0 1)) (segReg R.POOL_SEG_FREE 2 0) 1
  setN (setN s (segReg R.POOL_SEG_FREE 0 0) 163840) (segReg R.POOL_SEG_HEAD 0 0) (mkHandle 0 0 0)
theorem witness_OutHops_service : (sharedBuffer stocked outTile [1, 2, 3, 4] 1).1.isSome = true := by decide +kernel
theorem witness_SealAndCarrierHops : let t : Tile := { tileOf 4 (some [1, 2, 3, 4]) with desc := { fmt := 2, src := 0x18000, dst := 0x19000, len := 4 } }; let st := strmOf stSEAL 1 2 [] t
    let s := running [pgSEAL] (tiled st (mapped 4 s0)); let s := { s with ciph := { s.ciph with seals := [(0, { key := List.replicate 32 1, ctr := 1 })] } }
    let p : Purpose := { slot := 0, seq := 0, num := 1, out := false, gather := true, level := 1, chunk := 0, off := 0, len := 4, count := 1 }
    let c := { tiled (strmOf stREDUCE 1 2 [] t) s with coll := { s.coll with purposes := [p] } }
    HopAt s 0 0 stSEAL (· == 1) st t ∧ inRun s pgSEAL = true ∧ batchOf s 0 st t = none ∧ refAddr t.desc.dst s = (.ok (0x19000, false), s) ∧
    reaches s (accessOf st t) true 0x19000 64 = true ∧ hopRead (accessOf st t) 0x19000 64 s = (.ok (List.replicate 64 0), s) ∧ sealSlot s 0 = some { key := List.replicate 32 1, ctr := 1 } ∧ bitOf t.desc.attr 2 = false ∧ s.store.ecc = [] ∧
    HopAt c 0 0 stREDUCE (· == 1) (strmOf stREDUCE 1 2 [] t) t ∧ c.coll.purposes.find? (fun p => p.slot == 0 && p.seq == t.desc.seq) = some p :=
  ⟨⟨by decide +kernel, by decide +kernel, by decide⟩, by decide +kernel, by decide +kernel, eq_of_answers (by decide +kernel), by decide +kernel, eq_of_answers (by decide +kernel),
    by decide +kernel, by decide, by decide +kernel, ⟨by decide +kernel, by decide +kernel, by decide⟩, by decide +kernel⟩
/-- A P4 buffer to accumulate in is free, its link at 0x10000. -/
def accumulator (s : State) : State :=
  let s := holding 0x10000 (linkBytes endHandle) (running [0x48] s)
  setN (setN (setN (setN (setN s (segReg R.POOL_SEG_BASE_LO 4 0) 0x10000) (segReg R.POOL_SEG_META_LO 4 0) 0x8000) (segReg R.POOL_SEG_COUNT 4 0) 8) (segReg R.POOL_SEG_HEAD 4 0) (mkHandle 4 0 0)) (segReg R.POOL_SEG_FREE 4 0) 1
/-- A request that adds one chunk, of which one of two contributors is in. -/
def addingReq (n : Nat) : CReq :=
  { num := 1, rslot := 0, oper := 2, group := 0, inFmt := 2, outFmt := 2, window := 0, ring := 0, notify := false, round := 0, src := 0x18000, dst := 0x1A000, elems := 2
    records := 0, counts := 0, root := 0, tag := 0, area := [0, 0, 0, 0] ++ bytesLE 4 n ++ List.replicate 40 0, chunks := [{ idx := 0, ints := [0, 0], vals := [], count := 1, handles := [] }] }
theorem witness_SealAndCarrierHops_chunk : let p : Purpose := { slot := 0, seq := 0, num := 1, out := false, gather := false, level := 1, chunk := 0, off := 0, len := 2, count := 1 }; let r := addingReq 2
    let c : State := { s0 with coll := { s0.coll with purposes := [p], active := [r] } }
    c.coll.purposes.find? (fun p => p.slot == 0 && p.seq == 0) = some p ∧ reqAt c p.num = some r ∧ (r.chunks.find? (fun y => y.idx == p.chunk)).isSome = true ∧ isSum r.oper = true ∧
    r.chunks.all (fun x => !overN r x p) = true ∧ r.chunks.all (fun x => overN (addingReq 1) x p) = true := by decide +kernel
/-- The chunk's accumulator is had where there is none: the own contribution is read into a buffer; without a buffer the tile waits. -/
theorem witness_SealAndCarrierHops_prep : let t := tileOf 4 (some [1, 2, 3, 4]); let st := strmOf stREDUCE 1 2 [] t; let r := { addingReq 2 with chunks := [] }; let s := accumulator (tiled st (mapped 5 s0))
    (match prepChunk (accessOf st t) r 1 0 s with | (.ok y, _) => (y.chunks.find? (fun z => z.idx == 0)).any (fun z => z.count == 1 && z.handles == [mkHandle 4 0 0]) | _ => false) = true ∧
    completes (prepChunk (accessOf st t) r 1 0 (tiled st (mapped 5 s0))) = false := by decide +kernel
theorem witness_SealAndCarrierHops_gather : let t := tileOf 4 (some [1, 2, 3, 4]); let st := strmOf stREDUCE 1 2 [] t; let s := tiled st (mapped 4 s0); let r := addingReq 2
    going (hopReadSegs (accessOf st t) (segSlice (resultSegs r 0) 0 4) s) s = true ∧ going (hopReadSegs (accessOf st t) (sourceSegs { r with oper := 6 } 0) s) s = true ∧
    (segPieces (cutSegs s (resultSegs r 0)) 0 [1, 2, 3, 4]).all (fun y => reaches s (accessOf st t) true y.1 y.2.length) = true ∧ Sound s ∧
    completes (hopWriteSegs (accessOf st t) (resultSegs r 0) 0 [1, 2, 3, 4] s) = true := ⟨by decide +kernel, by decide +kernel, by decide +kernel, ⟨rfl, rfl⟩, by decide +kernel⟩
theorem witness_SealAndCarrierHops_batch : let t : Tile := { tileOf 4 (some [1, 2, 3, 4]) with desc := { fmt := 2, attr := 4, src := 0x18000, dst := 0x19000, len := 4 } }; let st := strmOf stSEAL 2 2 [] t
    let b : SealBatch := { check := true, addr := 0x19000, record := List.replicate 64 0, key := List.replicate 32 1 }; let s := running [pgSEAL] (tiled st (mapped 4 s0))
    let s := { s with ciph := { s.ciph with seals := [(0, { key := List.replicate 32 1, ctr := 1 })], batches := [(0, b)] } }
    batchOf s 0 st t = some b ∧ b.key ≠ [] ∧ (refusedBatch true).key = [] ∧ bitOf t.desc.attr 2 = true ∧ s.store.ecc = [] ∧ s.flt.srcs = [] ∧
    reaches s (accessOf st t) true b.addr (sealRecord b []).length = true ∧
    batchOf s 0 { st with lasts := [1] } { t with desc := { t.desc with seq := 2 } } = none := by decide +kernel
theorem witness_Streams : let st : Stream := { strmOf stVECTOR 0x22 1 [] (tileOf 4 none) with tiles := [] }; let s := running [pgSTRM] (tiled st (mapped 5 s0))
    let f := tiled { st with tail := 1 } s; let c := { tiled { st with state := 2 } s with strm := { slots := [(0, { st with state := 2 })], closing := some 0 } }
    live s = true ∧ inRun s pgSTRM = true ∧ s.store.ecc = [] ∧ streamAt s 5 = none ∧ streamAt s 0 = some st ∧ st.state = 1 ∧ (1 + 64 - st.tail) % 64 ≤ ringFree 64 st.head st.tail ∧
    blkState f pgSTRM = bRUN ∧ (hwRead f (st.sqBase + 64 * 0) 64).1 = some (List.replicate 64 0) ∧ descOk st (List.replicate 64 0) = false ∧
    mayWrite s .core R.STRM_CMD = true ∧ flag s R.STRM_RES 0 = false ∧ flag (setFlag s R.STRM_RES 0 true) R.STRM_RES 0 = true ∧ mayWrite s .bar0 R.STRM_CMD = false ∧
    (hwRead s 0 128).1 = some (List.replicate 128 0) ∧ openOk s (parseOpen (List.replicate 128 0)) = false ∧ closeReady { st with state := 2 } = true ∧ c.strm.closing = some 0 := by decide +kernel
theorem witness_Streams_descriptor : let b := bytesLE 2 1 ++ [1, 0] ++ [2, 0, 0, 0, 0, 0, 0, 0] ++ bytesLE 6 0 ++ [1, 4] ++ bytesLE 8 0x18000 ++ bytesLE 8 0 ++ bytesLE 4 4 ++ List.replicate 24 0
    b.length = 64 ∧ descOk (strmOf stVECTOR 0x22 1 [] (tileOf 4 none)) b = true ∧ cringSize s0 (parseDesc 0 b).ring = none ∧ bitOf (parseDesc 0 b).attr 4 = false := by decide +kernel
/-- An open record of a stream of one or two hops at VECTOR, at 0x18000, beside a valid subscriber record at 0x19000. -/
def openRec (hops : Nat) : List Byte := bytesLE 2 1 ++ [3, BitVec.ofNat 8 hops] ++ [2, if hops = 2 then 2 else 0, 0, 0, 0, 0, 0, 0] ++ bytesLE 2 1 ++ bytesLE 2 (hops - 1) ++ List.replicate 12 0
  ++ [0x22, if hops = 2 then 0x22 else 0] ++ List.replicate 10 0 ++ bytesLE 8 0x8000 ++ [6, 0] ++ bytesLE 6 0 ++ bytesLE 8 0x1C000 ++ List.replicate 64 0
def opening (hops : Nat) (s : State) : State := setN (running [pgSTRM] (holding 0x19000 (bytesLE 4 1 ++ bytesLE 4 0x10000 ++ bytesLE 8 0x18100 ++ List.replicate 16 0 ++ bytesLE 4 8448 ++ List.replicate 28 0)
  (holding 0x18000 (openRec hops) (mapped 5 s)))) R.SCHED_SUB_BASE_LO 0x19000
theorem witness_Streams_open : let s := opening 1 s0; let o := parseOpen (openRec 1); let m := { s with stn := { s.stn with inForce := { s.stn.inForce with budgets := [(stVECTOR, 100)] } } }
    (openRec 1).length = 128 ∧ (hwRead s 0x18000 128).1 = some (openRec 1) ∧ s.strm.opening = none ∧ openOk s o = true ∧ openSealed s o = false ∧ freeSlot s = some 0 ∧ (takeQueues (o.hops - 1) s []).1 = some [] ∧ o.hops ≤ 1 ∧
    (firstHop (shortAt s o) (List.range o.hops)).isSome = true ∧ openOk m o = true ∧ freeSlot m = some 0 ∧ firstHop (shortAt m o) (List.range o.hops) = none ∧ firstHop (portShort m o) (List.range o.hops) = none := by decide +kernel
/-- A stream of two hops: its queue's buffer waits for the POOL block, or there is none. -/
theorem witness_Streams_open_queues : let s := opening 2 s0; let r := running [0x48] s; let o := parseOpen (openRec 2)
    openOk s o = true ∧ openSealed s o = false ∧ freeSlot s = some 0 ∧ 1 < o.hops ∧ poolWaits s 1 = true ∧ openOk r o = true ∧ openSealed r o = false ∧ freeSlot r = some 0 ∧ poolWaits r 1 = false ∧
    (takeQueues (o.hops - 1) r []).1 = none := by decide +kernel
theorem witness_MapsAndRings : let b := bytesLE 4 1 ++ bytesLE 4 0 ++ bytesLE 2 1 ++ List.replicate 54 0 ++ List.replicate 64 0 ++ bytesLE 2 stPROJECT ++ bytesLE 2 10 ++ List.replicate 4 0
    let s := running [pgSTN] (holding 0x18000 b (setN (mapped 4 s0) R.STN_MAP_ADDR_LO 0x18000)); let a := { s with stn := { s.stn with armed := some (s.stn.inForce, 9) } }
    let r := { s0 with stn := { s0.stn with bound := [0] } }; let q := setFld (setFlag (setFld s0 (keyB R.CRING_CFG 0) 4 0 6) (keyB R.CRING_CFG 0) 31 true) (keyB R.CRING_TAIL 0) 15 0 2
    live s = true ∧ mayWrite s .core R.STN_ARM_CMD = true ∧ mayWrite s .bar0 R.STN_ARM_CMD = false ∧ inRun s0 pgSTN = false ∧ inRun s pgSTN = true ∧ (readMap s).isSome = true ∧ s.stn.armed = none ∧
    a.stn.armed.isSome = true ∧ bitOf (nthD 0 r.stn.bound 0) 3 ≠ bitOf (nthD 0 r.stn.inForce.bind 0) 3 ∧ clusterIn r 0 3 = true ∧ clusterBusy r 0 3 = false ∧
    mayWrite s0 .core R.CRING_CFG = true ∧ ringBusy s0 0 = false ∧ ringBusy (tiled (strmOf stVECTOR 0 1 [] (tileOf 4 none)) s0) 0 = true ∧ flag s0 (keyB R.CRING_CFG 0) 31 = false ∧
    bitOf (0x80000006 : Word).toNat 31 = true ∧ mayWrite q .core R.CRING_HEAD = true ∧ cringSize q 0 = some 64 ∧ (2 + 64 - fld q (keyB R.CRING_HEAD 0) 15 0) % 64 ≤ (fld q (keyB R.CRING_TAIL 0) 15 0 + 64 - 0) % 64 ∧
    (63 + 64 - fld q (keyB R.CRING_HEAD 0) 15 0) % 64 > (fld q (keyB R.CRING_TAIL 0) 15 0 + 64 - 0) % 64 := by decide +kernel
theorem witness_SwitchCore : let x := bytesBE 1 1 ++ [0, 3, 8] ++ bytesBE 2 9 ++ bytesBE 2 0 ++ bytesBE 2 5 ++ bytesBE 3 4 ++ bytesBE 3 4 ++ bytesBE 6 0 ++ bytesBE 6 0; let b := x ++ bytesBE 4 (crc32c x) ++ [1, 2, 3, 4]
    let s := setN (running [pgSW, 0x48] s0) (segReg R.POOL_SEG_FREE 0 0) 163840; let f : Frame := { port := 6, cls := 4, flow := 4096, xfer := 1, hdr := x, payload := [1, 2, 3, 4], last := true, enter := 0 }
    let e := setFld (setFld (running [pgSCHED] { (setFlag s0 R.CXL_LINK 12 true) with sw := { s0.sw with frames := [f] } }) R.CXL_LINK 3 0 8) R.CXL_LINK 11 4 64; let a := atTick 0x7FFFFFFF { s0 with sw := { s0.sw with frames := [f] } }
    xhdrOk b = true ∧ live s = true ∧ inRun s pgSW = true ∧ inRun s pgMIR = false ∧ inRun s0 pgSW = false ∧ ptpOf b = none ∧ flag s (keyB R.SCHED_POL_CFG (polKey 6 3)) 0 = false ∧ (parseXhdr b).cls = 3 ∧
    (parseXhdr b).typ = 0 ∧ (parseXhdr b).frag = 0 ∧ (parseXhdr b).last = true ∧ cellsOf 4 ≤ freeCells s (portHoist 6) ∧ freeCells s0 (portHoist 6) < cellsOf 4 ∧ s.sw.partials = [] ∧
    inRun e pgSCHED = true ∧ (∀ k, k < 8 → agedXfers e 6 k = []) ∧ (schedOf e 6).sent < portRate e 6 ∧ (pickFrame e 6).isSome = true ∧ agedXfers a 6 4 = [f] ∧ inRun a pgMIR = false ∧
    mayWrite s0 .core R.SCHED_GCL_CMD = true ∧ readGcl s0 0 = none ∧ mayWrite s0 .bar0 R.SCHED_GCL_CMD = false ∧ mayWrite s0 .core R.SCHED_SUB_IDX = true := by decide +kernel
/-- A frame that is whole lands in a P2 buffer; a grant's header, and one that is none. -/
theorem witness_SwitchCore_lands : let s := running [pgSW] stocked; let h (typ n : Nat) : List Byte := bytesBE 1 (typ * 16 + 1) ++ [0, 3, 8] ++ bytesBE 2 9 ++ bytesBE 2 0 ++ bytesBE 2 5 ++ bytesBE 3 n ++ bytesBE 3 n ++ bytesBE 6 0 ++ bytesBE 6 0
    let b := h 0 4 ++ bytesBE 4 (crc32c (h 0 4)) ++ [1, 2, 3, 4]; let g := h 2 1 ++ bytesBE 4 (crc32c (h 2 1)) ++ [0]; let y := parseXhdr b
    live s = true ∧ inRun s pgSW = true ∧ inRun s pgMIR = false ∧ cellsOf 4 ≤ freeCells s (portHoist 6) ∧ (takeCells (cellsOf 4) s (portHoist 6) []).1.isSome = true ∧ y.portLen = 4 ∧ y.rawLen = 4 ∧
    bitOf y.flags 0 = false ∧ (match (allocInternal (takeCells (cellsOf 4) s (portHoist 6) []).2 2 (homeSeg s (portHoist 6))).1 with | .got _ => true | _ => false) = true ∧
    xhdrOk g = true ∧ (parseXhdr g).typ = 2 ∧ xhdrOk b = true ∧ (parseXhdr b).typ ≠ 2 ∧ xhdrOk [1] = false := by decide +kernel
theorem witness_SwitchCore_reload : mayWrite (opening 1 s0) .core R.SCHED_SUB_IDX = true ∧ (readSub (opening 1 s0) 0).isSome = true ∧ readSub s0 0 = none := by decide +kernel
theorem witness_SwitchCore_held : let f : Frame := { port := 6, cls := 4, flow := 4096, xfer := 1, hdr := [], payload := [1], last := true, enter := 0 }
    let e : State := { s0 with sw := { s0.sw with frames := [f] } }; markHeld e 6 = e := by decide +kernel
theorem witness_SwitchCore_gates : let s := setN (setN (holding 0x1000 [1, 0, 7, 0] (mapped 9 s0)) (keyB R.SCHED_GCL_BASE_LO 0) 0x1000) (keyB R.SCHED_GCL_LEN 0) 1; readGcl s 0 = some ⟨0, [(1, 7)]⟩ := by decide +kernel
theorem witness_CodecTables : let r := [1, 9, 1] ++ List.replicate 13 (0 : Byte); let s := running [pgCODEC] s0; let b := setFld (setFlag s (ctxCfg 1) 16 true) (ctxCfg 1) 15 0 9
    let p := { putCslot b (cslotKey 1 0 2) { state := 1, gen := 3 } with codec := { (putCslot b (cslotKey 1 0 2) { state := 1, gen := 3 }).codec with cmd := some (1, 2, false, 0) } }
    let w := putCslot s (cslotKey 1 1 2) { state := 1, wait := some ([], 3, 9, 0) }
    live s = true ∧ loadWrites s .core = true ∧ loadWrites s .bar0 = false ∧ ctxBound s 0 = true ∧ ctxBound s 1 = false ∧ r.length = 16 ∧ loadRecord s = none ∧ (cslot s (cslotKey 0 0 0)).count = 0 ∧
    (cslot s (cslotKey 0 0 0)).state ≠ 1 ∧ ctxBound b 1 = true ∧ ctxOfNode s 9 = none ∧ ctxOfNode b 9 = some 1 ∧ (cslot w (cslotKey 1 1 2)).wait = some ([], 3, 9, 0) ∧
    (cslot w (cslotKey 1 1 2)).count = 0 ∧ p.codec.cmd = some (1, 2, false, 0) ∧ (cslot p (cslotKey 1 0 2)).gen = 3 ∧ ctxOfNode p 9 = some 1 ∧
    0 + fld p R.CODEC_LD_TMO 15 0 ≤ (atTick 2500 p).tick.now ∧ s.codec.cmd = none ∧ mayWrite s .core R.CODEC_CTX_CFG = true ∧ ctxBusy s 1 = false := by decide +kernel
theorem witness_CodecTables_record : let r := [1, 9, 1] ++ List.replicate 13 (0 : Byte) ++ bytesLE 2 512 ++ List.replicate 510 0; recOk r = true ∧ r.length = recLen r := by decide +kernel
/-- A valid record, at 0x1C000. -/
def tableRec : List Byte := [1, 9, 1] ++ List.replicate 13 (0 : Byte) ++ bytesLE 2 512 ++ List.replicate 510 0
def withRec (s : State) : State := setN (running [pgCODEC] (holding 0x1C000 tableRec s)) R.CODEC_LD_ADDR_LO 0x1C000
/-- Its load waits for the POOL block, finds no buffer, or has one. -/
theorem witness_CodecTables_load : loadWrites (withRec (mapped 4 s0)) .core = true ∧ loadRecord (withRec (mapped 4 s0)) = some tableRec ∧ poolWaits (withRec (mapped 4 s0)) 2 = true := by decide +kernel
theorem witness_CodecTables_none : let n := running [0x48] (withRec (mapped 4 s0)); loadRecord n = some tableRec ∧ poolWaits n 2 = false ∧ (tableBuffer n).1 = none := by decide +kernel
theorem witness_CodecTables_some : let y := withRec stocked
    loadRecord y = some tableRec ∧ poolWaits y 2 = false ∧ (tableBuffer y).1.isSome = true ∧ (cslot y (cslotKey 0 0 0)).count = 0 ∧ (cslot y (cslotKey 0 0 0)).state ≠ 1 ∧
    ctxBound y 0 = true ∧ inRun y pgCODEC = true := by decide +kernel
theorem witness_CodecTables_install : let w := putCslot stocked (cslotKey 1 1 2) { state := 1, wait := some ([1], 3, 9, 0) }; let n := putCslot s0 (cslotKey 1 1 2) { state := 1, wait := some ([1], 3, 9, 0) }
    let h := putCslot s0 (cslotKey 1 1 2) { state := 1, wait := some ([1], 3, 9, 0), next := some 7 }
    (cslot w (cslotKey 1 1 2)).wait = some ([1], 3, 9, 0) ∧ (cslot w (cslotKey 1 1 2)).next = none ∧ (tableBuffer w).1.isSome = true ∧ (tableBuffer n).1 = none ∧ (cslot h (cslotKey 1 1 2)).next = some 7 ∧
    (cslot h (cslotKey 1 1 2)).count = 0 := by decide +kernel
theorem witness_CollectiveRequests_groups : let b := [1, 0] ++ bytesLE 2 7 ++ bytesLE 4 0 ++ bytesLE 4 1 ++ bytesLE 4 0 ++ bytesLE 8 0x2000 ++ List.replicate 40 0; let m := bytesLE 2 1 ++ [1, 1] ++ List.replicate 12 (0 : Byte)
    let s := setN (setN (running [pgCOLL] (holding 0x2000 m (holding 0x1000 b (mapped 9 s0)))) R.GRP_BASE_LO 0x1000) R.GLB_NODE 1
    live s = true ∧ mayWrite s .core R.GRP_CMD = true ∧ flag s R.GRP_RES 0 = false ∧ inRun s pgCOLL = true ∧ inRun s0 pgCOLL = false ∧ fld s R.GRP_IDX 11 0 = 0 ∧ groupAt s 0 = none ∧ activeOf s 0 = [] ∧
    (readGroup s 0).1.any (fun x => !badRev s x && (badLevel x).isNone && (badCarrier s x).isNone) = true ∧
    (readGroup (setN s R.GRP_BASE_LO 0x1040) 0).1 = none ∧ (groupAt { s with coll := { s.coll with groups := [(0, {})] } } 0).isSome = true := by decide +kernel
/-- A request of an operation at the ring's first slot, of a group in which this WG9 alone is present; the ring lies at 0x1000. -/
def asked (oper fmt : Nat) (elems : Nat) : State :=
  let b := [1, BitVec.ofNat 8 oper] ++ bytesLE 2 0 ++ [BitVec.ofNat 8 fmt, BitVec.ofNat 8 fmt, 0, 0] ++ bytesLE 6 0 ++ bytesLE 2 0 ++ bytesLE 8 0x18000 ++ bytesLE 8 0x1A000 ++ bytesLE 8 elems ++ bytesLE 8 0x1C000 ++ bytesLE 8 0x1D000
    ++ bytesLE 4 0 ++ bytesLE 4 0 ++ List.replicate 64 0
  let s := setFld (setN (running [pgCOLL] (holding 0x1000 b (mapped 4 s0))) R.COLL_RQ_BASE_LO 0x1000) R.COLL_RQ_PTR 27 16 1
  { s with coll := { s.coll with groups := [(0, { state := 1, members := [{ node := 1, site := 1, present := true, hall := 0, rack := 0, tray := 0, ep := 0 }] })] } }
theorem witness_CollectiveRequests : ∀ x ∈ [(1, 0, 0), (4, 2, 32), (5, 2, 32), (6, 2, 32), (8, 2, 32), (9, 2, 32)], let s := asked x.1 x.2.1 x.2.2
    live s = true ∧ inRun s pgCOLL = true ∧ s.coll.fetch ≠ rqTail s ∧ s.coll.active = [] ∧ s.coll.skip = [] ∧ s.coll.doneSlots = [] ∧ s.coll.purposes = [] ∧ s.coll.results = [] ∧ s.coll.recs = [] ∧
    rqHead s = s.coll.fetch ∧ 2 ≤ rqSize s ∧ rqSize s ≤ 4096 ∧ s.store.ecc = [] ∧ s.flt.srcs = [] ∧ (readRequest s s.coll.fetch).1.any (fun b => leAt b 1 1 % 16 == x.1 && (
      let r0 := parseRequest s.coll.seq s.coll.fetch b
      let g := (groupAt s r0.group).getD { state := 0 }
      let r := { r0 with grp := g, phase := 3 }
      let a : State := { s with coll := { s.coll with fetch := (s.coll.fetch + 1) % rqSize s, seq := s.coll.seq + 1, dead := s.coll.dead.filter (· ≠ leAt b 8 6), active := [r] } }
      let n := r.elems * (elemBits (inElem r) / 8)
      reqOk a r (leAt b 0 1) && epochOk a r && presentOf g == [g.self] && (portLevels g).isEmpty && !l0Tree g && r.round == 0 && (cringSize s r.ring).isNone && g.state == 1 && !isScaled (inElem r)
        && decide (r.elems ≤ chunkElems (inElem r)) && elemBits (inElem r) % 8 == 0 && reaches s (engineAccess s 0 0) false r.src n && reaches s (engineAccess s 0 0) true r.dst n
        && (resolve s r.dst 64).isSome && kindOpen s 0 r.dst && (ownArea a r).1.isSome)) = true := by decide +kernel
theorem witness_CollectiveRequests_doorbell : let s := asked 1 0 0
    mayWrite s .core R.COLL_DB = true ∧ blkState s pgCOLL = bRUN ∧ 2 < rqSize s ∧ (2 + rqSize s - rqTail s) % rqSize s ≤ ringFree (rqSize s) (rqHead s) (rqTail s) ∧ rqSize s ≤ (0xFFF : Nat) := by decide +kernel
/-- A comparison and a sum under an agreed window of 32 BF16 elements, the area at 0x1C000. -/
theorem witness_CollectiveRequests_sum : ∀ x ∈ [(8, 0), (2, 0x10)], let s := accumulator (holding 0x1006 [BitVec.ofNat 8 x.2] (holding 0x1C000 ([0, 0, 0, 0] ++ bytesLE 4 1 ++ bytesLE 8 1 ++ List.replicate 18 0) (asked x.1 2 32)))
    (readRequest s s.coll.fetch).1.any (fun b =>
      let r0 := parseRequest s.coll.seq s.coll.fetch b
      let r := { r0 with grp := (groupAt s r0.group).getD { state := 0 }, phase := 3 }
      let bs := ((hwReadRange s r.records (32 + 2 * reqGranules r)).1).getD []
      let y : CReq := { r with area := if isSum x.1 then bs else [] }
      let el := inElem r
      let raws := rawsOf el (rawRead s r.src 64)
      let sum := finishBytes y { idx := 0, ints := toGrid y 0 (raws.map (rawVal el)), vals := [], count := 1, handles := [] }
      reqOk s r (leAt b 0 1) && epochOk s r && reaches s (engineAccess s 0 0) false r.src 64 && (takeAccs ((accBytes y 0 + 0x3FFFFF) / 0x400000) s 0 []).1 == some [mkHandle 4 0 0]
        && reaches s (engineAccess s 0 0) true r.dst 64 && (!(isSum x.1) || (reqPre r && !reqInt r && !isScaled (outElem r) && (hwReadRange s r.records (32 + 2 * reqGranules r)).1.isSome
        && decide (leAt bs 0 1 = reqS r ∧ leAt bs 1 1 = reqG r ∧ leAt bs 8 8 = reqGranules r ∧ leAt bs 0x10 6 = 0 ∧ leAt bs 0x18 4 = r.grp.epoch ∧ 1 ≤ reqN y ∧ sum.2 = 0) && s.coll.grids.isEmpty))) = true := by decide +kernel
/-- ALL_TO_ALL_V's count of its own, at 0x1D000. -/
theorem witness_CollectiveRequests_counts : let s := holding 0x1D000 (bytesLE 8 32) (asked 7 2 32)
    (readRequest s s.coll.fetch).1.any (fun b =>
      let r0 := parseRequest s.coll.seq s.coll.fetch b
      let r := { r0 with grp := (groupAt s r0.group).getD { state := 0 }, phase := 3 }
      reqOk s r (leAt b 0 1) && ((hwReadRange s r.counts (8 * r.grp.members.length)).1.any (fun cs => leAt cs (8 * r.grp.self) 8 == r.elems))) = true := by decide +kernel
/-- A request of a round that is not in progress is active and waits; one of a group of another epoch, and one that names no group, are refused; one of another operation stays; a
member that is not present takes no part. -/
theorem witness_CollectiveRequests_waits : let s := asked 5 2 32; let g (e : Nat) := s.coll.groups.map (fun x => (x.1, { x.2 with flags := 2, epoch := e })); let n : State := { s with coll := { s.coll with groups := [] } }
    let w (e : Nat) : State := holding 0x1008 [3] { s with coll := { s.coll with groups := g e } }
    let r (s : State) (b : List Byte) : CReq := { parseRequest s.coll.seq s.coll.fetch b with grp := (groupAt s (parseRequest s.coll.seq s.coll.fetch b).group).getD { state := 0 }, phase := 3 }
    (readRequest (w 0) 0).1.any (fun b => reqOk (w 0) (r (w 0) b) 1 && epochOk (w 0) (r (w 0) b) && carriersThere (w 0) (r (w 0) b) && !mayStart (w 0) (r (w 0) b)) = true ∧
    (readRequest (w 7) 0).1.any (fun b => reqOk (w 7) (r (w 7) b) 1 && !epochOk (w 7) (r (w 7) b)) = true ∧ (readRequest s 0).1.any (fun b => mayStart s (r s b) && !refusedOper b) = true ∧
    (readRequest n 0).1.any (fun b => !reqOk n (r n b) (leAt b 0 1)) = true ∧ (readRequest s0 0).1 = none ∧ (∀ x, groupAt n 0 = some x → x.state ≠ 2) ∧
    (presentOf { members := [{ node := 1, site := 1, present := false, hall := 0, rack := 0, tray := 0, ep := 0 }] : Group }).contains 0 = false ∧
    badRev { s0 with site := { s0.site with revs := [(9, 7)] } } { members := [{ node := 1, site := 9, present := true, hall := 0, rack := 0, tray := 0, ep := 0 }] : Group } = true := by decide +kernel
/-- A chunk of round 3 that another WG9 owns waits for its check. -/
def awaited (own : Bool) (want : List Nat) : State :=
  { s0 with job := { s0.job with held := true, round := 3, phase := 6 }, coll := { s0.coll with results := [{ num := 1, group := 2, round := 3, oper := 2, fmt := 1, chunk := 0, segs := [], crc := 8, own := own, owner := 9, want := want, tick := 0, acked := false }] } }
theorem witness_ChecksAndAborts : let s := awaited false []; let o := awaited true [9]; let hit (x : CResult) := !x.own && !x.acked && x.owner == 9 && x.group == 2 && x.round == 3 && x.chunk == 0
    let late (x : CResult) := !x.acked && !(x.own && x.want.isEmpty) && decide (x.tick + fld s R.COLL_CHK_TMO 23 0 ≤ (atTick 12500 s).tick.now)
    live s = true ∧ s.coll.active = [] ∧ s.coll.dead.contains 3 = false ∧ (s.coll.results.find? hit).any (fun x => x.crc == 8) = true ∧ s.coll.results.find? (fun x => hit x && x.chunk == 1) = none ∧
    (o.coll.results.find? (fun x => x.own && x.group == 2 && x.round == 3 && x.chunk == 0 && x.want.contains 9)).isSome = true ∧ s.store.ecc = [] ∧ (s.coll.results.find? late).isSome = true ∧
    (∀ x ∈ s.coll.results, x.round = s.job.round ∧ x.held = true ∧ chunkCheck x.group x.oper x.fmt x.round x.chunk [] ≠ x.crc) ∧ (readSegs [] s).1 = some [] ∧ (readSegs [] s).2 = s ∧
    { s with coll := { s.coll with dead := [3] } : State }.coll.dead.contains 3 = true ∧ s.job.held = true ∧ s.job.round = 3 ∧ 1 ≤ s.job.phase ∧ s.job.phase ≤ 7 ∧ s.job.aborted = none ∧ s.job.abortDue = none ∧
    mayWrite s .core R.COLL_CMD = true ∧ mayWrite s .bar0 R.COLL_CMD = false ∧ s.strm.slots = [] ∧ s.coll.fetch = rqTail s ∧ s.coll.fetch < rqSize s := by decide +kernel
theorem witness_ChecksAndAborts_abort : let x : CReq := { addingReq 2 with round := 3, chunks := [] }; let s := setN { s0 with coll := { s0.coll with active := [x] } } R.COLL_ABORT_LO 3
    reg64 s R.COLL_ABORT_LO R.COLL_ABORT_HI = 3 ∧ s.coll.active = [x] ∧ x.round = 3 ∧ x.phase ≠ 2 ∧ s.coll.fetch = rqTail s ∧ cringSize s x.ring = none ∧ x.chunks = [] ∧ groupAt s x.group = none ∧
    mayWrite s .core R.COLL_CMD = true ∧ s.strm.slots = [] := by decide +kernel
theorem witness_Streams_gemm : let st := strmOf stMATRIX 1 2 [0x1C000, 0, 0x1D000] (tileOf 4 none); let s := holding 0x1D000 (bytesLE 4 32 ++ bytesLE 4 1 ++ [1, 1, 1, 0, 0, 0, 0, 0]) (mapped 4 s0)
    gemmShort s st { fmt := 2, len := 4 } = true ∧ gemmShort s st { fmt := 2, len := 128 } = false := by decide +kernel

/-! ### Witnesses of single clauses -/

theorem witness_WiresAndRecovery_again : let s := setFlag (setFlag s0 R.FLT_WIRE 17 true) R.FLT_WIRE_RAW 17 true
    mayWrite s .core R.FLT_WIRE = true ∧ bitOf (0x20000 : Word).toNat 17 = true ∧ flag s R.FLT_WIRE 17 = true ∧ flag s R.FLT_WIRE_RAW 17 = true ∧ flag s0 R.FLT_WIRE 17 = false := by decide +kernel
/-- A direct region covers the scratchpad of field die 0. -/
theorem witness_ProjectionAndElements_stage : let s : State := { s0 with regn := { s0.regn with tables := [[(0, { valid := true, lbase := directBase, len := 0x100000, read := 0xFFFF, write := 0xFFFF })]] } }
    let t := oneElem; reaches s (accessOf (strmOf stVECTOR 1 2 [] t) t) true directBase 64 = true ∧ refForm directBase = 0 ∧ Sound s := ⟨by decide +kernel, by decide +kernel, rfl, rfl⟩
/-- A side waits for its direction's report, in the tick of its steer and after it; the module is lit, or dark. -/
theorem witness_SteeringAndModules_miss : let o := { ocuMod lit 0 with rxWait := true, rxAt := some 3, frame := 2 }
    o.rxWait = true ∧ steerTick o true < (atTick 4 lit).tick.now ∧ ¬(steerTick o true < (atTick 3 lit).tick.now ∨ 8 ≤ o.frame) ∧ 8 ≤ { o with frame := 8 : OcuMod }.frame ∧ moduleLit lit 0 = true ∧
    moduleLit s0 0 = false ∧ lit.store.ecc = [] := by decide +kernel
/-- What a fetch of a round's state has brought is whole, or is not. -/
theorem witness_RoundsAndHealing_fetch : let s := (worked stVECTOR 2 (tileOf 64 none)).2; let s := { s with job := { s.job with held := true, ocr := 0x100 } }; let f : Fetch := { round := 3, carry := true, got := [(0, 2 ^ 40)] }
    fetchWhole s f = true ∧ fetchWhole s { f with got := [] } = false ∧ f.round < 2 ^ 48 := by decide +kernel
theorem witness_RoundsAndHealing_replay : let s : State := { s0 with job := { s0.job with held := true, aborted := some 1 } }; s.job.aborted = some 1 ∧ s.job.holding = false ∧ s.job.held = true := by decide +kernel
theorem witness_RoundsAndHealing_beginFetch : let h := setFld (sited 0) R.SITE_STATE 2 0 sHEALING
    siteState h = sHEALING ∧ fld h R.SITE_HEAL 1 0 = 0 ∧ h.site.accepted = none ∧ siteCommit h < 2 ∧ 2 < siteCommit h + 256 ∧ h.store.ecc = [] ∧ flag h R.SITE_POLICY 0 = false ∧ h.job.phase = 0 ∧
    h.job.accepted = false ∧ (∀ r ∈ h.coll.active, r.oper = 5 → bitOf r.grp.flags 2 = false) := by decide +kernel
/-- A view that only adds while a round is exchanged; one that names a site of another table, or is no quorum; a site that reaches no quorum. -/
theorem witness_ViewChanges_waits : let s := setN (sited 0) R.SITE_VIEW 1; let x := { s with job := { s.job with phase := 5 } }; let b := { s with site := { s.site with bad := [1] } }
    adding x 3 = true ∧ exchanging x = true ∧ x.site.asking = none ∧ x.site.joined < 0x602 ∧ badView x 3 = false ∧ adding x 2 = false ∧ badView b 3 = true ∧ isQuorum (siteOf 0) 2 = false ∧
    outside (setN (sited 1) R.SITE_REACH 0) (siteOf 1) = true ∧ outside s (siteOf 0) = false := by decide +kernel
theorem witness_GatedCommands_record : inHbm (tabled mailed) 0x100 128 = true ∧ mailed.site = {} ∧ inHbm (mapped 9 s0) 0x200000 128 = false := by decide +kernel
/-- A frame waits at its port while POOL is not in RUN, or behind another of its class. -/
theorem witness_SwitchCore_door : let s := running [pgSW, 0x48] s0; let d := atDoor s 6 0 (parseXhdr ([0x01, 0, 3, 8] ++ List.replicate 28 0)) [1] [1]
    doorShut s 6 3 = false ∧ doorShut s0 6 3 = true ∧ d.sw.door.length = 1 ∧ doorShut d 6 3 = true ∧ doorShut d 5 3 = false := by decide +kernel
/-- A request under way keeps the carrier of its group's stage word, and none keeps another stream. -/
theorem witness_Streams_carrier : let r : CReq := { addingReq 2 with grp := { stages := [0x500] } }; let s : State := { s0 with coll := { s0.coll with active := [r] } }
    carrierBusy s 5 = true ∧ carrierBusy s 6 = false ∧ carrierBusy s0 5 = false := by decide +kernel
/-- The winners' own elements, of a tile and of its operand. -/
theorem witness_MemberOperations_cells : let t := tileOf 4 (some [0, 0x40, 0x80, 0x3F]); let x := worked stVECTOR 0x24 t
    going (hopCells (accessOf x.1 t) t x.2) x.2 = true ∧ going (operandCells (accessOf x.1 t) x.1 t 0 x.2) x.2 = true ∧ HopAt x.2 0 0 stVECTOR (· == 0x24) x.1 t :=
  ⟨by decide +kernel, by decide +kernel, by decide +kernel, by decide +kernel, by decide⟩
/-- A tile of a sealed source is locked, also where DST is local address 0; a tile of no port and no EXPAND hop goes to no context, one of a bound node to its own. -/
theorem witness_CodecHops_sealed : let t : Tile := { tileOf 4 (some [1, 2, 3, 4]) with desc := { fmt := 2, attr := 2, src := 0x18000, dst := 0, len := 4 } }; let st := strmOf stCODEC 1 1 [] t; let s := tiled st (mapped 4 s0)
    let z : State := { s with regn := { s.regn with tables := s.regn.tables.map (·.map (fun e => (e.1, { e.2 with sealed := e.1 == 0 }))) } }; let b := setFld (setFlag s0 (ctxCfg 1) 16 true) (ctxCfg 1) 15 0 9
    isSealed z st t = true ∧ isSealed s st t = false ∧ codeContext s st t = (none, false) ∧ codeContext (outState true) outStream { outTile with hop := 0 } = (none, true) ∧ ctxOfNode b 9 = some 1 := by decide +kernel

end Sys2Proof.Tests
end

/-!
The scope family's statements (spec/00_scope.md): which writes reach a register and what header registers take, the reads that latch
or clear, SELFTEST and BLOCK_RESET, and the state after reset. The laws of header keys, register rows and whole-page clears come
before the statement that first needs them.
-/
namespace Sys2Proof.Proofs
open Sys2Proof.Machine Sys2Proof.Safety

/-! ### States that differ in registers only -/

/-- The two states differ in their registers at most. -/
def OnlyRegs (s u : State) : Prop := u = { s with regs := u.regs }

theorem OnlyRegs.trans {s u v : State} (h : OnlyRegs s u) (g : OnlyRegs u v) : OnlyRegs s v := by
  unfold OnlyRegs at h g ⊢; rw [g, h]

theorem onlyRegs_setR (s : State) (k : Nat) (v : BitVec 32) : OnlyRegs s (setR s k v) := rfl

/-- A write of one register keeps every other. -/
theorem regsKept_setR (s : State) (k : Nat) (v : BitVec 32) : RegsKept s (setR s k v) [k] [] :=
  fun _ hj _ => getR_setR_ne s v (List.ne_of_not_mem_cons hj)

theorem regsKept_refl (s : State) (l pages : List Nat) : RegsKept s s l pages := fun _ _ _ => rfl

/-! ### Keys of header registers -/

theorem pageExists_lt {page : Nat} (h : pageExists page = true) : page < 256 := by
  simp only [pageExists, Bool.or_eq_true, Bool.and_eq_true, beq_iff_eq, decide_eq_true_eq] at h
  omega

theorem hdr_lt_bankBase {page off : Nat} (hp : page < 256) (ho : off < 0x1000) : hdr page off < bankBase := by
  unfold hdr bankBase; omega

theorem hdr_mod_bankBase {page off : Nat} (hp : page < 256) (ho : off < 0x1000) : hdr page off % bankBase = hdr page off :=
  Nat.mod_eq_of_lt (hdr_lt_bankBase hp ho)

theorem hdr_div (page : Nat) {off : Nat} (ho : off < 0x1000) : hdr page off / 0x1000 = page := by unfold hdr; omega

theorem pageOf_hdr {page off : Nat} (hp : page < 256) (ho : off < 0x1000) : pageOf (hdr page off) = page := by
  rw [pageOf, hdr_mod_bankBase hp ho, hdr_div page ho]

theorem keyB_zero {k : Nat} (h : k < bankBase) : keyB k 0 = k := by simp [keyB, Nat.mod_eq_of_lt h]

theorem keyB_mod_bankBase (k b : Nat) : keyB k b % bankBase = k % bankBase := by simp [keyB]

/-- The row of a register is the row of its bank 0 register. -/
theorem regRow_mod_bankBase (k : Nat) : regRow (k % bankBase) = regRow k := by simp only [regRow, Nat.mod_mod]

theorem regRow_keyB (k b : Nat) : regRow (keyB k b) = regRow k := by
  rw [← regRow_mod_bankBase, keyB_mod_bankBase, regRow_mod_bankBase]

theorem rcMask_of_row {k : Nat} {r : RegRow} (h : regRow k = some r) : rcMask k = r.rc := by
  unfold rcMask
  rw [h]

theorem rcMask_of_noRow {k : Nat} (h : regRow k = none) : rcMask k = 0 := by
  unfold rcMask
  rw [h]

theorem regRow_hdr {page off : Nat} (h : pageExists page = true) (ho : off < 0x40) : regRow (hdr page off) = headerRow page off := by
  have h1 : off < 0x1000 := by omega
  unfold regRow; dsimp only
  rw [hdr_mod_bankBase (pageExists_lt h) h1, hdr_div page h1, if_pos h, hdr_mod page off h1, if_pos ho]

/-- No header register is banked. -/
theorem bankSel_header (s : State) (w : Win) {k : Nat} (h : k % bankBase % 0x1000 < 0x40) : bankSel s w k = 0 := by
  unfold bankSel
  generalize k % bankBase = m at h
  have hle : ∀ n, 0x40 ≤ n → (n ≤ m % 0x1000) = False := fun n hn => by simp; omega
  have hne : ∀ n, 0x40 ≤ n → (m % 0x1000 = n) = False := fun n hn => by simp; omega
  simp [hle, hne]

theorem bankSel_hdr (s : State) (w : Win) {page off : Nat} (hp : page < 256) (ho : off < 0x40) : bankSel s w (hdr page off) = 0 :=
  bankSel_header s w (by rw [hdr_mod_bankBase hp (by omega), hdr_mod page off (by omega)]; exact ho)

/-! ### Which writes reach a register (R396, R397, R400, R408) -/

theorem mayWrite_core {s : State} {k : Nat} (h : k < bankBase) : mayWrite s .core k = true ↔ ∃ r, regRow k = some r := by
  simp only [mayWrite, if_pos h]
  cases regRow k <;> simp

theorem mayWrite_bar0 (s : State) (k : Nat) : mayWrite s .bar0 k = false := by
  unfold mayWrite; dsimp only
  split <;> rfl

theorem mayWrite_bar2 {s : State} {k : Nat} (h : k < bankBase) :
    mayWrite s .bar2 k = true ↔ ∃ r, regRow k = some r ∧ r.win ≠ .core ∧ (gateOpen s = true ∨ pageOf k = 0x89) ∧
      (pageLocked s (pageOf k) = false ∨ k % 0x1000 = oCTRL ∨ k % 0x1000 = oEVT ∨ k % 0x1000 = oEVTEN) := by
  simp only [mayWrite, if_pos h]
  cases regRow k <;> simp [and_assoc, or_assoc]

/-- A register that a window writes has a row, in bank 0. -/
theorem mayWrite_row {s : State} {w : Win} {k : Nat} (h : mayWrite s w k = true) : k < bankBase ∧ (regRow k).isSome = true := by
  unfold mayWrite at h
  split at h
  · cases h
  · next r hr =>
    split at hr
    · next hk => exact ⟨hk, by simp [hr]⟩
    · cases hr

theorem page_lt_of_mayWrite {s : State} {w : Win} {page off : Nat} (h : mayWrite s w (hdr page off) = true) : page < 256 := by
  have := (mayWrite_row h).1
  unfold hdr bankBase at this; omega

/-! ### Writes of header registers (R400) -/

/-- None of the registers with window rules of their own is in a header. -/
theorem ownRule_hdr (page : Nat) {off : Nat} (ho : off < 0x40) : ownRule (hdr page off) = false := by
  simp only [ownRule, Bool.or_eq_false_iff, beq_eq_false_iff_ne, hdr, R.STRM_DB, R.CRING_HEAD, R.IRQ_DB, R.SERVE_BEGIN, R.SERVE_END]
  omega

theorem writePage_hdr (s : State) (w : Win) {page off : Nat} (v : Nat) (hp : page < 256) (ho : off < 0x40) :
    writePage s w (hdr page off) v = headerWrite s page off v := by
  have h1 : off < 0x1000 := by omega
  unfold writePage; dsimp only
  rw [hdr_mod page off h1, if_pos ho, pageOf_hdr hp h1]

theorem writeReg_hdr (s : State) (w : Win) {page off : Nat} (v : Nat) (hp : page < 256) (ho : off < 0x40) :
    writeReg s w page off v = if mayWrite s w (hdr page off) = true then headerWrite s page off v else s := by
  have e : page * 0x1000 + off = hdr page off := rfl
  unfold writeReg; dsimp only
  rw [e, ownRule_hdr page ho, bankSel_hdr s w hp ho, keyB_zero (hdr_lt_bankBase hp (by omega)), Bool.false_or, writePage_hdr s w v hp ho]
  by_cases hw : mayWrite s w (hdr page off) = true
  · simp [hw, (mayWrite_row hw).2]
  · simp [hw]

theorem headerRow_evt (page : Nat) : headerRow page oEVT = some ⟨hdr page oEVT, 0, 0, 0xFFFFFFFF, 0, 0, 0, .both⟩ := by
  unfold headerRow; simp

theorem headerRow_evtEn (page : Nat) : headerRow page oEVTEN = some ⟨hdr page oEVTEN, 0, 0xFFFFFFFF, 0, 0, 0, 0, .both⟩ := by
  unfold headerRow; simp

/-- What a write leaves, by the register's row (R14): the bits it may write take the value, its W1C bits written 1 clear. -/
theorem writeMasked_of_row {k : Nat} {r : RegRow} (h : regRow k = some r) (old v : BitVec 32) :
    writeMasked k old v = ((old &&& ~~~BitVec.ofNat 32 (r.rw ||| r.rwp ||| r.wo)) ||| (v &&& BitVec.ofNat 32 (r.rw ||| r.rwp ||| r.wo)))
      &&& ~~~(v &&& BitVec.ofNat 32 r.w1c) := by
  unfold writeMasked
  rw [h]

theorem and_ones (x : BitVec 32) : x &&& 4294967295#32 = x := BitVec.and_allOnes

/-- BLK_EVT under a write: a 1 clears its bit (W1C). -/
theorem writeMasked_evt {page : Nat} (h : pageExists page = true) (old v : BitVec 32) :
    writeMasked (hdr page oEVT) old v = old &&& ~~~v := by
  rw [writeMasked_of_row ((regRow_hdr h (by decide)).trans (headerRow_evt page))]
  simp [and_ones]

/-- BLK_EVT_EN under a write: the value. -/
theorem writeMasked_evtEn {page : Nat} (h : pageExists page = true) (old v : BitVec 32) : writeMasked (hdr page oEVTEN) old v = v := by
  rw [writeMasked_of_row ((regRow_hdr h (by decide)).trans (headerRow_evtEn page))]
  simp [and_ones]

/-- A 32-bit write of a header register that takes its value as it comes, BLK_EVT or BLK_EVT_EN: it leaves what the access codes say. -/
theorem sizedWrite_header (s : State) (w : Win) {page off : Nat} (v : Nat) (hp : page < 256) (ho : off < 0x40) (h4 : off % 4 = 0)
    (hc : off ≠ oCTRL) (hl : off ≠ oLOCK) :
    sizedWrite s w page off 4 v = if mayWrite s w (hdr page off) = true then
      setR s (hdr page off) (writeMasked (hdr page off) (getR s (hdr page off)) (BitVec.ofNat 32 v)) else s := by
  have hv : BitVec.ofNat 32 (v % 2 ^ 32) = BitVec.ofNat 32 v := by
    apply BitVec.eq_of_toNat_eq; simp
  rw [sizedWrite, if_neg (by omega), if_pos rfl, writeReg_hdr s w _ hp ho, headerWrite, if_neg hc, if_neg hl, plainWrite, hv]

/-- A write that may be stopped leaves the register written or as it was, and every other register and the rest of the state alone. -/
theorem effect_maySetR {c : Instr} {s : State} {b : Bool} {k : Nat} {v : BitVec 32} (h : Effect c s (if b = true then setR s k v else s)) :
    ∃ u, Effect c s u ∧ getR u k = (if b = true then v else getR s k) ∧ RegsKept s u [k] [] ∧ u = { s with regs := u.regs } := by
  refine ⟨_, h, ?_⟩
  cases b with
  | false => exact ⟨rfl, regsKept_refl _ _ _, rfl⟩
  | true => exact ⟨getR_setR_self s k v, regsKept_setR s k v, onlyRegs_setR s k v⟩

theorem effect_registerWrite {s : State} (hl : live s = true) (w : Win) (page off : BitVec 12) (n : Nat) (v : DWord) :
    Effect (.registerWrite w page off n v) s (sizedWrite s w page.toNat off.toNat n v.toNat) := by
  rw [Effect, exec_registerWrite, execRegisterWrite, act_live hl]

/-- The effect of a 32-bit write of BLK_EVT or BLK_EVT_EN. -/
theorem effect_headerWrite {s : State} (hl : live s = true) (w : Win) {page : BitVec 12} (hp : page.toNat < 256) {off : Nat} (v : DWord)
    (ho : off < 0x40) (h4 : off % 4 = 0) (hc : off ≠ oCTRL) (hk : off ≠ oLOCK) :
    let k := hdr page.toNat off
    ∃ u, Effect (.registerWrite w page (BitVec.ofNat 12 off) 4 v) s u ∧
      getR u k = (if mayWrite s w k = true then writeMasked k (getR s k) (BitVec.ofNat 32 v.toNat) else getR s k) ∧
      RegsKept s u [k] [] ∧ u = { s with regs := u.regs } := by
  have h := effect_registerWrite hl w page (BitVec.ofNat 12 off) 4 v
  rw [BitVec.toNat_ofNat, Nat.mod_eq_of_lt (by omega), sizedWrite_header s w _ hp ho h4 hc hk] at h
  exact effect_maySetR h

theorem regN_bump_self (s : State) (k : Nat) : regN (bump s k) k = min 0xFFFFFFFF (regN s k + 1) := by
  rw [bump, bumpBy, regN_setN_self]; omega

/-- Settles O9: header writes go through `writeReg_hdr` to their access codes, and the windows' rule is `mayWrite` row by row. -/
theorem registerWrites : Obligations.RegisterWrites := by
  refine ⟨fun w page off v s hl hp => ⟨?_, ?_, ?_, ?_⟩, fun s k hk => ⟨mayWrite_core hk, mayWrite_bar0 s k, mayWrite_bar2 hk⟩⟩
  · have h := effect_headerWrite hl w (pageExists_lt hp) (off := oEVT) v (by decide) (by decide) (by decide) (by decide)
    simpa only [writeMasked_evt hp] using h
  · have h := effect_headerWrite hl w (pageExists_lt hp) (off := oEVTEN) v (by decide) (by decide) (by decide) (by decide)
    simpa only [writeMasked_evtEn hp] using h
  · intro h4
    have h := effect_registerWrite hl w page off 4 v
    rwa [sizedWrite, if_pos h4] at h
  · intro n hn hw h4
    have h := effect_registerWrite hl w page off n v
    have hs : sizedWrite s w page.toNat off.toNat n v.toNat = bump s R.CXL_NARROW := by
      rcases hn with rfl | rfl <;> simp [sizedWrite, h4, hw]
    rw [hs] at h
    exact ⟨_, h, regN_bump_self s _, regsKept_setR s _ _, onlyRegs_setR s _ _⟩

/-! ### The reads that latch (R43, R241, R352) -/

theorem effect_tickNowLoRead {s : State} (hl : live s = true) (w : Win) : Effect (.tickNowLoRead w) s (tickReadOp s w) := by
  rw [Effect, exec_tickNowLoRead, execTickNowLoRead, act_live hl]

theorem effect_timeNowNsRead {s : State} (hl : live s = true) (w : Win) (e : Nat) : Effect (.timeNowNsRead w e) s (timeReadOp s w e) := by
  rw [Effect, exec_timeNowNsRead, execTimeNowNsRead, act_live hl]

theorem effect_lfrmSeqLoRead {s : State} (hl : live s = true) (w : Win) (md : Fin 2) (rx : Bool) :
    Effect (.lfrmSeqLoRead w md rx) s (seqReadOp s w md.val rx) := by
  rw [Effect, exec_lfrmSeqLoRead, execLfrmSeqLoRead, act_live hl]

theorem effect_readClear {s : State} (hl : live s = true) (w : Win) (page off : BitVec 12) :
    Effect (.readClear w page off) s (readClearOp s w page.toNat off.toNat) := by
  rw [Effect, exec_readClear, execReadClear, act_live hl]

@[simp] theorem getR_lastRead (s : State) (x : BitVec 32) (k : Nat) : getR { s with lastRead := x } k = getR s k := rfl

/-- A latching read of one register into one latch, whatever the value. -/
theorem regsKept_setN_lastRead (s : State) (k v : Nat) (x : BitVec 32) :
    RegsKept s { setN s k v with lastRead := x } [k] [] := regsKept_setR s k _

theorem tickRead_latches {s : State} (hl : live s = true) (w : Win) :
    ∃ u, Effect (.tickNowLoRead w) s u ∧
     u.lastRead = BitVec.ofNat 32 s.tick.now ∧ regN u (keyB R.TICK_NOW_HI (winBank w)) = s.tick.now / 2 ^ 32 % 2 ^ 32 ∧
     RegsKept s u [keyB R.TICK_NOW_HI (winBank w)] [] ∧ u = { s with regs := u.regs, lastRead := u.lastRead } :=
  ⟨_, effect_tickNowLoRead hl w, rfl, regN_setN_self s _ _, regsKept_setN_lastRead s _ _ _, rfl⟩

/-- The three latches of the time are three registers. -/
theorem timeLatches_ne (b : Nat) : keyB R.TIME_NOW_SUB b ≠ keyB R.TIME_NOW_SEC_LO b ∧ keyB R.TIME_NOW_SUB b ≠ keyB R.TIME_NOW_SEC_HI b ∧
    keyB R.TIME_NOW_SEC_LO b ≠ keyB R.TIME_NOW_SEC_HI b :=
  ⟨keyB_ne_of_low (by decide), keyB_ne_of_low (by decide), keyB_ne_of_low (by decide)⟩

theorem timeRead_latches {s : State} (hl : live s = true) (w : Win) (e : Nat) : ∃ u a, a = elapse s e ∧ Effect (.timeNowNsRead w e) s u ∧
     u.lastRead = BitVec.ofNat 32 (nsOf a.tick.counter) ∧
     regN u (keyB R.TIME_NOW_SUB (winBank w)) = subOf a.tick.counter % 2 ^ 32 ∧
     regN u (keyB R.TIME_NOW_SEC_LO (winBank w)) = secOf a.tick.counter % 2 ^ 32 ∧
     regN u (keyB R.TIME_NOW_SEC_HI (winBank w)) = secOf a.tick.counter / 2 ^ 32 % 2 ^ 32 ∧
     RegsKept a u [keyB R.TIME_NOW_SUB (winBank w), keyB R.TIME_NOW_SEC_LO (winBank w), keyB R.TIME_NOW_SEC_HI (winBank w)] [] ∧
     u = { a with regs := u.regs, lastRead := u.lastRead } := by
  obtain ⟨h12, h13, h23⟩ := timeLatches_ne (winBank w)
  refine ⟨_, _, rfl, effect_timeNowNsRead hl w e, rfl, ?_, ?_, regN_setN_self _ _ _, ?_, rfl⟩
  · exact (regN_setN_ne _ _ h13).trans ((regN_setN_ne _ _ h12).trans (regN_setN_self _ _ _))
  · exact (regN_setN_ne _ _ h23).trans (regN_setN_self _ _ _)
  · intro j hj _
    simp only [List.mem_cons, List.not_mem_nil, or_false, not_or] at hj
    obtain ⟨h1, h2, h3⟩ := hj
    exact (getR_setN_ne _ _ h3).trans ((getR_setN_ne _ _ h2).trans (getR_setN_ne _ _ h1))

theorem seqRead_latches {s : State} (hl : live s = true) (w : Win) (md : Fin 2) (rx : Bool) :
     let q := if rx then (lineMod s md.val).rxSeq else (lineMod s md.val).seq
     let k := keyB (lf (if rx then R.LFRM_SEQ_RX_HI else R.LFRM_SEQ_TX_HI) md.val) (winBank w)
     ∃ u, Effect (.lfrmSeqLoRead w md rx) s u ∧ u.lastRead = BitVec.ofNat 32 q ∧ regN u k = q / 2 ^ 32 % 2 ^ 16 ∧
       RegsKept s u [k] [] ∧ u = { s with regs := u.regs, lastRead := u.lastRead } := by
  refine ⟨_, effect_lfrmSeqLoRead hl w md rx, rfl, ?_, regsKept_setN_lastRead s _ _ _, rfl⟩
  exact (regN_setN_self s _ _).trans (by omega)

/-! ### Read and clear (R14) -/

/-- What a read through BAR2 does to a register's counters, where a register that has none is left alone. -/
theorem clearCounters_eq (s : State) {key : Nat} (h : key % bankBase ≠ R.POOL_SEG_LOW) :
    let u := if rcMask key = 0 then s else clearRead s key
    getR u key = getR s key &&& ~~~BitVec.ofNat 32 (rcMask key) ∧ RegsKept s u [key] [] ∧ OnlyRegs s u := by
  dsimp only
  by_cases h0 : rcMask key = 0
  · rw [if_pos h0, h0]
    exact ⟨(and_ones _).symm, regsKept_refl _ _ _, rfl⟩
  · rw [if_neg h0, clearRead, if_neg h]
    exact ⟨getR_setR_self _ _ _, regsKept_setR _ _ _, rfl⟩

/-- What a read that latches nothing leaves: the value that the window sees and, through BAR2, cleared counters. -/
def afterRead (s : State) (w : Win) (key : Nat) : State :=
  let s1 : State := { s with lastRead := readAt s w key }
  if w = .bar2 ∧ seenBy w key = true then (if rcMask key = 0 then s1 else clearRead s1 key) else s1

/-- A read is `afterRead` where the register is none that latches. -/
theorem readClearOp_eq {s : State} {w : Win} {page off : Nat} (h4 : off % 4 = 0) (hp : pageExists page = true)
    (ht : page * 0x1000 + off ≠ R.TICK_NOW_LO) (hn : page * 0x1000 + off ≠ R.TIME_NOW_NS)
    (hs : ∀ md, page * 0x1000 + off ≠ lf R.LFRM_SEQ_TX_LO md ∧ page * 0x1000 + off ≠ lf R.LFRM_SEQ_RX_LO md) :
    readClearOp s w page off = afterRead s w (keyB (page * 0x1000 + off) (bankSel s w (page * 0x1000 + off))) := by
  have e : off / 4 * 4 = off := by omega
  unfold readClearOp afterRead; dsimp only
  rw [e, if_neg ht, if_neg hn, if_neg (hs _).1, if_neg (hs _).2]
  simp only [hp, if_true, true_and]

theorem afterRead_spec (s : State) (w : Win) {key : Nat} (h : key % bankBase ≠ R.POOL_SEG_LOW) :
    (afterRead s w key).lastRead = (if seenBy w key then showReg s key else 0) ∧
    getR (afterRead s w key) key = (if w = .bar2 ∧ seenBy w key = true then getR s key &&& ~~~BitVec.ofNat 32 (rcMask key) else getR s key) ∧
    RegsKept s (afterRead s w key) [key] [] ∧
    afterRead s w key = { s with regs := (afterRead s w key).regs, lastRead := (afterRead s w key).lastRead } := by
  change _ = readAt s w key ∧ _
  unfold afterRead; dsimp only
  by_cases hw : w = .bar2 ∧ seenBy w key = true
  · rw [if_pos hw, if_pos hw]
    obtain ⟨hg, hr, ho⟩ := clearCounters_eq { s with lastRead := readAt s w key } h
    generalize (if rcMask key = 0 then { s with lastRead := readAt s w key } else clearRead { s with lastRead := readAt s w key } key : State) = u
      at hg hr ho ⊢
    have hx : u.lastRead = readAt s w key := congrArg State.lastRead ho
    exact ⟨hx, hg, hr, hx ▸ ho⟩
  · rw [if_neg hw, if_neg hw]
    exact ⟨rfl, getR_lastRead _ _ _, fun j _ _ => getR_lastRead _ _ _, rfl⟩

theorem readClear_reads {s : State} (hl : live s = true) (w : Win) (page off : BitVec 12) (h4 : off.toNat % 4 = 0) (hp : pageExists page.toNat = true) :
     let k := page.toNat * 0x1000 + off.toNat
     let key := keyB k (bankSel s w k)
     k ≠ R.TICK_NOW_LO → k ≠ R.TIME_NOW_NS → k ≠ R.POOL_SEG_LOW →
     (∀ md, k ≠ lf R.LFRM_SEQ_TX_LO md ∧ k ≠ lf R.LFRM_SEQ_RX_LO md) →
     ∃ u, Effect (.readClear w page off) s u ∧ u.lastRead = (if seenBy w key then showReg s key else 0) ∧
       getR u key = (if w = .bar2 ∧ seenBy w key = true then getR s key &&& ~~~BitVec.ofNat 32 (rcMask key) else getR s key) ∧
       RegsKept s u [key] [] ∧ u = { s with regs := u.regs, lastRead := u.lastRead } := by
  intro k key ht hn hpool hs
  have hk : key % bankBase ≠ R.POOL_SEG_LOW := by
    have hlt : k < bankBase := hdr_lt_bankBase (pageExists_lt hp) off.isLt
    rwa [keyB_mod_bankBase, Nat.mod_eq_of_lt hlt]
  have h := effect_readClear hl w page off
  rw [readClearOp_eq h4 hp ht hn hs] at h
  exact ⟨_, h, afterRead_spec s w hk⟩

/-- Settles O8: each latching read is one write of its latches, and a plain read clears what `clearRead` clears. -/
theorem registerReads : Obligations.RegisterReads :=
  ⟨⟨fun w _ hl => tickRead_latches hl w, fun w e _ hl => timeRead_latches hl w e, fun w md rx _ hl => seqRead_latches hl w md rx⟩,
    fun w page off _ hl h4 hp => readClear_reads hl w page off h4 hp⟩

/-! ### SELFTEST (R402) -/

theorem effect_selftest {s : State} (hl : live s = true) (w : Win) {page : BitVec 12} (hw : mayWrite s w (hdr page.toNat oCTRL) = true) :
    Effect (.selftest w page) s (selftestOp s page.toNat) := by
  rw [Effect, exec_selftest, execSelftest, act_live hl, if_pos hw]

theorem effect_selftestDone {s : State} (hl : live s = true) (page : BitVec 12) (failing : List Nat) :
    Effect (.selftestDone page failing) s (selftestDoneOp s page.toNat failing) := by
  rw [Effect, exec_selftestDone, execSelftestDone, act_live hl]

/-- A write of a field above BLK_STAT.STATE keeps the block's state. -/
theorem blkState_setFld_test (s : State) (page v : Nat) : blkState (setFld s (hdr page oSTAT) 6 5 v) page = blkState s page :=
  fld_setFld_apart s _ 6 5 v 2 0 (by decide) (by decide) (by decide) (.inl (by decide))

theorem selftest_shows {s : State} (hl : live s = true) (w : Win) {page : BitVec 12} (hw : mayWrite s w (hdr page.toNat oCTRL) = true) :
     let k := hdr page.toNat oSTAT
     let ok := blkState s page.toNat = bOFF ∨ blkState s page.toNat = bDRAINED
     ∃ u, Effect (.selftest w page) s u ∧ (ok → fld u k 6 5 = if hasKat page.toNat = true then 1 else 2) ∧
       (¬ok → u = s) ∧ blkState u page.toNat = blkState s page.toNat ∧ RegsKept s u [k] [] ∧ u = { s with regs := u.regs } := by
  intro k ok
  have h := effect_selftest hl w hw
  by_cases hok : ok
  · rw [selftestOp, if_pos hok] at h
    refine ⟨_, h, fun _ => ?_, fun hn => absurd hok hn, blkState_setFld_test s _ _, regsKept_setR s _ _, rfl⟩
    rw [fld_setFld_self s k 6 5 _ (by decide) (by decide)]
    split <;> rfl
  · rw [selftestOp, if_neg hok] at h
    exact ⟨_, h, fun h1 => absurd h1 hok, fun _ => rfl, rfl, regsKept_refl _ _ _, rfl⟩

theorem selftestDone_passes {s : State} (hl : live s = true) {page : BitVec 12} (hr : fld s (hdr page.toNat oSTAT) 6 5 = 1) :
     ∃ u, Effect (.selftestDone page []) s u ∧ fld u (hdr page.toNat oSTAT) 6 5 = 2 ∧
       RegsKept s u [hdr page.toNat oSTAT] [] ∧ u = { s with regs := u.regs } := by
  have hs : selftestDoneOp s page.toNat [] = setFld s (hdr page.toNat oSTAT) 6 5 2 := by
    simp [selftestDoneOp, hr]
  have h := effect_selftestDone hl page []
  rw [hs] at h
  exact ⟨_, h, fld_setFld_self s _ 6 5 2 (by decide) (by decide), regsKept_setR s _ _, rfl⟩

/-! ### Clearing a page's counters in every bank -/

theorem mapFind_eq_none {α : Type} {l : List (Nat × α)} {k : Nat} (h : k ∉ l.map Prod.fst) : mapFind l k = none := by
  induction l with
  | nil => rfl
  | cons p t ih =>
    obtain ⟨a, x⟩ := p
    simp only [List.map_cons, List.mem_cons, not_or] at h
    rw [mapFind, if_neg (Ne.symm h.1), ih h.2]

/-- A register not listed reads its reset value. -/
theorem getR_of_not_listed {s : State} {k : Nat} (h : k ∉ s.regs.map Prod.fst) : getR s k = BitVec.ofNat 32 (resetOf k) := by
  rw [getR, mapFind_eq_none h]

/-- Writes of the listed registers of some kind, each with a value that its key gives: the listed registers hold theirs, every other is kept. -/
theorem getR_foldl_setR (p : Nat → Prop) [DecidablePred p] (v : Nat → BitVec 32) (l : List (Nat × BitVec 32)) (a : State) (k : Nat) :
    getR (l.foldl (fun b e => if p e.1 then setR b e.1 (v e.1) else b) a) k = if p k ∧ k ∈ l.map Prod.fst then v k else getR a k := by
  induction l generalizing a with
  | nil => simp
  | cons e t ih =>
    rw [List.foldl_cons, ih]
    simp only [List.map_cons, List.mem_cons]
    by_cases hk : k = e.1
    · subst hk
      by_cases hp : p e.1 <;> simp [hp]
    · have hne : getR (if p e.1 then setR a e.1 (v e.1) else a) k = getR a k := by
        split
        · exact getR_setR_ne a _ hk
        · rfl
      simp only [hne, hk, false_or]

theorem onlyRegs_foldl_setR (p : Nat → Prop) [DecidablePred p] (v : Nat → BitVec 32) (l : List (Nat × BitVec 32)) (a : State) :
    OnlyRegs a (l.foldl (fun b e => if p e.1 then setR b e.1 (v e.1) else b) a) := by
  induction l generalizing a with
  | nil => rfl
  | cons e t ih =>
    refine OnlyRegs.trans ?_ (ih _)
    dsimp only
    split
    · exact onlyRegs_setR _ _ _
    · rfl

/-! ### Counters reset to 0 -/

/-- No bit of a row is both a counter's and 1 at reset. -/
theorem pageRows_countFromZero (p : Nat) : ∀ r ∈ pageRows p, r.reset &&& r.rc = 0 := by
  unfold pageRows
  split <;> decide +kernel

theorem headerRow_countsFromZero {page off : Nat} {r : RegRow} (h : headerRow page off = some r) : r.reset &&& r.rc = 0 := by
  unfold headerRow at h
  split_ifs at h <;> cases h <;> simp

theorem regRow_countsFromZero {k : Nat} {r : RegRow} (h : regRow k = some r) : r.reset &&& r.rc = 0 := by
  unfold regRow at h; dsimp only at h
  split at h
  · split at h
    · exact headerRow_countsFromZero h
    · split at h
      · cases h; exact Nat.and_zero _
      · split at h
        · cases h; exact Nat.and_zero _
        · exact pageRows_countFromZero _ r (List.mem_of_find?_eq_some h)
  · cases h

/-- The registers whose reset value depends on the bank. -/
def bankedReset : List Nat :=
  [R.SW_AGE_LIMIT, R.SW_RED_MIN, R.SW_RED_MAX, R.SW_RED_PROB, R.SCHED_PORT_OVH, R.SCHED_PORT_RSV, R.HLT_WEIGHT, R.FLT_REACT]

/-- Every other register resets to what its row says. -/
theorem resetOf_of_row {k : Nat} {r : RegRow} (h : regRow k = some r) (hb : k % bankBase ∉ bankedReset) : resetOf k = r.reset := by
  simp only [bankedReset, List.mem_cons, List.not_mem_nil, or_false, not_or] at hb
  obtain ⟨h1, h2, h3, h4, h5, h6, h7, h8⟩ := hb
  unfold resetOf; dsimp only
  rw [if_neg h1, if_neg h2, if_neg h3, if_neg h4, if_neg h5, if_neg h6, if_neg h7, if_neg h8, h]

/-- They are no counters. -/
theorem bankedReset_noCounter {k : Nat} (hb : k % bankBase ∈ bankedReset) {r : RegRow} (h : regRow k = some r) : r.rc = 0 := by
  have hall : ∀ x ∈ bankedReset, (regRow x).all (fun r => r.rc == 0) = true := by decide +kernel
  have := hall _ hb
  rw [regRow_mod_bankBase, h] at this
  simpa using this

theorem rcMask_and_resetOf (k : Nat) : resetOf k &&& rcMask k = 0 := by
  cases h : regRow k with
  | none => rw [rcMask_of_noRow h, Nat.and_zero]
  | some r =>
    rw [rcMask_of_row h]
    by_cases hb : k % bankBase ∈ bankedReset
    · rw [bankedReset_noCounter hb h, Nat.and_zero]
    · rw [resetOf_of_row h hb]
      exact regRow_countsFromZero h

theorem and_not_of_and_eq_zero {n : Nat} {a b : BitVec n} (h : a &&& b = 0#n) : a &&& ~~~b = a := by
  ext i hi
  have hb : (a &&& b)[i] = (0#n)[i] := by rw [h]
  rw [BitVec.getElem_and, BitVec.getElem_zero] at hb
  rw [BitVec.getElem_and, BitVec.getElem_not]
  cases ha : a[i] with
  | false => rfl
  | true => simpa [ha] using hb

/-- A register at its reset value keeps it when its counters are cleared. -/
theorem reset_cleared (k : Nat) :
    BitVec.ofNat 32 (resetOf k) &&& ~~~BitVec.ofNat 32 (rcMask k) = BitVec.ofNat 32 (resetOf k) :=
  and_not_of_and_eq_zero (by rw [← BitVec.ofNat_and, rcMask_and_resetOf])

/-! ### A page's events and counters cleared -/

theorem onlyRegs_clearCounts (s : State) (page : Nat) : OnlyRegs s (clearCounts s page) :=
  (onlyRegs_foldl_setR (fun k => pageOf k = page) (fun k => getR s k &&& ~~~BitVec.ofNat 32 (rcMask k)) s.regs s).trans (onlyRegs_setR _ _ _)

theorem getR_clearCounts_evt (s : State) (page : Nat) : getR (clearCounts s page) (hdr page oEVT) = 0 := getR_setR_self _ _ _

/-- Every register of the page but BLK_EVT, whatever its bank, has its counters cleared. -/
theorem getR_clearCounts_page (s : State) {page k : Nat} (hk : pageOf k = page) (he : k ≠ hdr page oEVT) :
    getR (clearCounts s page) k = getR s k &&& ~~~BitVec.ofNat 32 (rcMask k) := by
  unfold clearCounts; dsimp only
  rw [getR_setN_ne _ _ he, getR_foldl_setR (fun k => pageOf k = page) (fun k => getR s k &&& ~~~BitVec.ofNat 32 (rcMask k))]
  by_cases hl : k ∈ s.regs.map Prod.fst
  · rw [if_pos ⟨hk, hl⟩]
  · rw [if_neg (fun h => hl h.2), getR_of_not_listed hl, reset_cleared]

theorem getR_clearCounts_other (s : State) {page k : Nat} (hp : page < 256) (hk : pageOf k ≠ page) :
    getR (clearCounts s page) k = getR s k := by
  have he : k ≠ hdr page oEVT := by
    rintro rfl
    exact hk (pageOf_hdr hp (by decide))
  unfold clearCounts; dsimp only
  rw [getR_setN_ne _ _ he, getR_foldl_setR (fun k => pageOf k = page) (fun k => getR s k &&& ~~~BitVec.ofNat 32 (rcMask k)),
    if_neg (fun h => hk h.1)]

/-! ### A page's registers returned to their reset values -/

theorem mapFind_filter {α : Type} (p : Nat → Bool) (l : List (Nat × α)) (k : Nat) :
    mapFind (l.filter (fun e => p e.1)) k = if p k = true then mapFind l k else none := by
  induction l with
  | nil => simp [mapFind]
  | cons e t ih =>
    obtain ⟨a, x⟩ := e
    by_cases ha : a = k
    · subst ha
      cases hp : p a <;> simp_all [mapFind]
    · cases hp : p a <;> simp_all [mapFind]

/-- A register whose entry is dropped reads its reset value; the others are kept. -/
theorem getR_filter (s : State) (p : Nat → Bool) (k : Nat) :
    getR { s with regs := s.regs.filter (fun e => p e.1) } k = if p k = true then getR s k else BitVec.ofNat 32 (resetOf k) := by
  unfold getR; dsimp only
  rw [mapFind_filter]
  cases p k <;> rfl

/-- The registers that `clearRegsOf` leaves. -/
def leftByClear (page k : Nat) : Bool := !(pageOf k == page && clearable (k % 0x1000)) || standing k

theorem getR_clearRegsOf_cleared (s : State) {page k : Nat} (hk : leftByClear page k = false) :
    getR (clearRegsOf s page) k = BitVec.ofNat 32 (resetOf k) := by
  refine (getR_filter _ (leftByClear page) k).trans ?_
  rw [hk]; rfl

theorem getR_clearRegsOf_left (s : State) {page k : Nat} (hd : ¬(0x10 ≤ page ∧ page ≤ 0x17)) (hk : leftByClear page k = true) :
    getR (clearRegsOf s page) k = getR s k := by
  unfold clearRegsOf; dsimp only
  rw [if_neg hd]
  refine (getR_filter s (leftByClear page) k).trans ?_
  rw [if_pos hk]

/-! ### BLOCK_RESET (R402) -/

theorem effect_blockReset {s : State} (hl : live s = true) (w : Win) {page : BitVec 12} (hw : mayWrite s w (hdr page.toNat oCTRL) = true) :
    Effect (.blockReset w page) s (blockResetOp s page.toNat) := by
  rw [Effect, exec_blockReset, execBlockReset, act_live hl, if_pos hw]

theorem blockResetOp_refused {s : State} {page : Nat} (h : resetAllowed s page = false) : blockResetOp s page = s := by
  simp [blockResetOp, h]

theorem blockResetOp_counters {s : State} {page : Nat} (h : resetAllowed s page = true) (hc : countersOnly page = true) :
    blockResetOp s page = clearCounts s page := by
  simp [blockResetOp, blockResetEffect, h, hc]

/-- The block state OFF with nothing pending and ENABLE = 0, past BLOCK_RESET's effect on the unit. -/
def switchedOff (s : State) (page : Nat) : State :=
  setEnable (setBlk (setPendDis (setPendEn s page false) page false) page bOFF) page false

theorem blockResetOp_whole {s : State} {page : Nat} (h : resetAllowed s page = true) (hc : countersOnly page = false) :
    blockResetOp s page = switchedOff (blockResetEffect s page) page := by
  simp [blockResetOp, switchedOff, h, hc]

theorem stat_ne_ctrl (page : Nat) : hdr page oSTAT ≠ hdr page oCTRL := fun h => absurd (hdr_inj (by decide) (by decide) h) (by decide)

theorem blkState_switchedOff (s : State) (page : Nat) : blkState (switchedOff s page) page = bOFF := by
  unfold switchedOff setEnable blkState
  rw [setFlag, fld_setFld_ne _ _ _ _ _ _ (stat_ne_ctrl page), setBlk, fld_setFld_self _ _ _ _ _ (by decide) (by decide)]
  rfl

theorem enable_switchedOff (s : State) (page : Nat) : flag (switchedOff s page) (hdr page oCTRL) 0 = false :=
  flag_setFlag_self _ _ _ _ (by decide)

/-- Registers beyond BLK_CTRL and BLK_STAT are kept. -/
theorem getR_switchedOff (s : State) {page k : Nat} (hs : k ≠ hdr page oSTAT) (hc : k ≠ hdr page oCTRL) :
    getR (switchedOff s page) k = getR s k := by
  unfold switchedOff setEnable setBlk setPendDis setPendEn
  rw [getR_setFlag_ne _ _ _ hc, getR_setFld_ne _ _ _ _ hs, getR_setFlag_ne _ _ _ hs, getR_setFlag_ne _ _ _ hs]

/-- What a BLOCK_RESET clears is neither BLK_CTRL, BLK_STAT nor BLK_EVT. -/
theorem clearable_ne_hdr {k : Nat} (h : clearable (k % 0x1000) = true) (page : Nat) {off : Nat} (ho : off < 0x1000) (hn : clearable off = false) :
    k ≠ hdr page off := by
  rintro rfl
  rw [hdr_mod page off ho, hn] at h
  cases h

theorem getR_blockReset_cleared (s : State) {page k : Nat} (hc : countersOnly page = false) (hp : page ≠ pgCOLL) (hk : pageOf k = page)
    (hcl : clearable (k % 0x1000) = true) (hst : standing k = false) : getR (blockResetEffect s page) k = BitVec.ofNat 32 (resetOf k) := by
  rw [blockResetEffect, if_neg (by simp [hc]), if_neg hp]
  exact getR_clearRegsOf_cleared _ (by simp [leftByClear, hk, hcl, hst])

/-- The count of the pages retired since the last full reset stands. -/
theorem getR_blockReset_standing (s : State) {page k : Nat} (hk : pageOf k = page) (hst : standing k = true) :
    getR (blockResetEffect s page) k = getR s k &&& ~~~BitVec.ofNat 32 (rcMask k) := by
  obtain rfl : k = R.POOL_RETIRED := by simpa [standing] using hst
  subst hk
  have h48 : pageOf R.POOL_RETIRED = 0x48 := by decide
  rw [h48]
  show getR (clearRegsOf (clearCounts { s with pool := {} } 0x48) 0x48) R.POOL_RETIRED = _
  rw [getR_clearRegsOf_left _ (by decide) (by simp [leftByClear, hst]), getR_clearCounts_page _ h48 (by decide)]
  rfl

theorem blockReset_resets {s : State} (hl : live s = true) (w : Win) {page : BitVec 12} (hw : mayWrite s w (hdr page.toNat oCTRL) = true)
    (ha : resetAllowed s page.toNat = true) : ∃ u, Effect (.blockReset w page) s u ∧
       (countersOnly page.toNat = true →
         (∀ k, pageOf k = page.toNat → k ≠ hdr page.toNat oEVT → getR u k = getR s k &&& ~~~BitVec.ofNat 32 (rcMask k)) ∧
         getR u (hdr page.toNat oEVT) = 0 ∧ RegsKept s u [] [page.toNat] ∧ u = { s with regs := u.regs }) ∧
       (countersOnly page.toNat = false → blkState u page.toNat = bOFF ∧ flag u (hdr page.toNat oCTRL) 0 = false ∧
         (page.toNat ≠ pgCOLL → ∀ k, pageOf k = page.toNat → clearable (k % 0x1000) = true →
           (standing k = false → regN u k = resetOf k % 2 ^ 32) ∧ (standing k = true → getR u k = getR s k &&& ~~~BitVec.ofNat 32 (rcMask k)))) := by
  have h := effect_blockReset hl w hw
  have hp := page_lt_of_mayWrite hw
  cases hc : countersOnly page.toNat with
  | true =>
    rw [blockResetOp_counters ha hc] at h
    refine ⟨_, h, fun _ => ⟨fun k hk he => getR_clearCounts_page s hk he, getR_clearCounts_evt s _, fun k _ hk => ?_, onlyRegs_clearCounts s _⟩, nofun⟩
    exact getR_clearCounts_other s hp (List.ne_of_not_mem_cons hk)
  | false =>
    rw [blockResetOp_whole ha hc] at h
    refine ⟨_, h, nofun, fun _ => ⟨blkState_switchedOff _ _, enable_switchedOff _ _, fun hcoll k hk hcl => ?_⟩⟩
    have hsw : getR (switchedOff (blockResetEffect s page.toNat) page.toNat) k = getR (blockResetEffect s page.toNat) k :=
      getR_switchedOff _ (clearable_ne_hdr hcl _ (by decide) (by decide)) (clearable_ne_hdr hcl _ (by decide) (by decide))
    refine ⟨fun hst => ?_, fun hst => ?_⟩
    · rw [regN, hsw, getR_blockReset_cleared s hc hcoll hk hcl hst, BitVec.toNat_ofNat]
    · rw [hsw, getR_blockReset_standing s hk hst]

/-- Settles O11: a BLOCK_RESET is `clearCounts` where the page's chapter says so, else `switchedOff` past `clearRegsOf`. -/
theorem testsAndBlockResets : Obligations.TestsAndBlockResets := by
  refine ⟨⟨fun w _ _ hl hw => selftest_shows hl w hw, fun _ _ hl hr => selftestDone_passes hl hr⟩, fun w page s hl hw => ⟨fun ha => ?_, ?_⟩⟩
  · have h := effect_blockReset hl w hw
    rwa [blockResetOp_refused ha] at h
  · exact blockReset_resets hl w hw

/-! ### The state after reset -/

/-- Right after reset every register of every bank reads its reset value. -/
theorem regN_reset (k : Nat) : regN State.reset k = resetOf k % 2 ^ 32 := BitVec.toNat_ofNat _ _

/-- A register whose reset value no bank changes reads its row's value in every bank. -/
theorem regN_reset_keyB {k : Nat} {r : RegRow} (h : regRow k = some r) (hb : k % bankBase ∉ bankedReset) (b : Nat) :
    regN State.reset (keyB k b) = r.reset % 2 ^ 32 := by
  rw [regN_reset, resetOf_of_row ((regRow_keyB k b).trans h) (by rwa [keyB_mod_bankBase])]

/-- A property of the reset values of the registers listed, as a check that runs. -/
theorem regN_reset_of_check {l : List (Nat × Nat)} (h : l.all (fun p => resetOf p.1 % 2 ^ 32 == p.2) = true) :
    ∀ p ∈ l, regN State.reset p.1 = p.2 := by
  intro p hp
  rw [regN_reset]
  exact beq_iff_eq.1 (List.all_eq_true.1 h p hp)

/-- Settles O4: no register is listed right after reset, so each reads its reset value, and the rest is the empty state's. -/
theorem resetState : Obligations.ResetState := by
  refine ⟨⟨?_, ?_, ?_, ?_, ?_⟩, by decide +kernel, by decide +kernel⟩
  · exact regN_reset_of_check (by decide +kernel)
  · exact regN_reset_of_check (by decide +kernel)
  · intro i _
    exact regN_reset_keyB (r := ⟨R.FLT_QUIET, 0, 0x1FFFF, 0, 0, 0, 12500, .both⟩) (by decide +kernel) (by decide) i
  · intro i _
    exact regN_reset_keyB (r := ⟨R.IRQ_SRC_STUCK, 0, 0xFFFFFF, 0, 0, 0, 12500, .both⟩) (by decide +kernel) (by decide) i
  · exact ⟨rfl, by decide +kernel, rfl, rfl, by decide +kernel, by decide +kernel, rfl, fun _ => rfl, rfl, by decide +kernel,
      by decide +kernel, rfl, rfl, rfl⟩

end Sys2Proof.Proofs

/-!
What events, notices and the mailbox's answers change: frames that the statements of the outer round (spec/01_outer_round.md) share.
-/
namespace Sys2Proof.Proofs
open Sys2Proof.Machine Sys2Proof.Safety

/-! ### Frames of registers and events -/

/-- A state that differs in registers, interrupts and outputs alone, as one record. -/
theorem keptIrq_eq {s u : State} (h : KeptIrq s u) : u = { s with regs := u.regs, irq := u.irq, sent := u.sent } := by
  obtain ⟨⟩ := h
  cases u; cases s; simp_all

theorem regsKept_trans {s u v : State} {l pages : List Nat} (h : RegsKept s u l pages) (g : RegsKept u v l pages) : RegsKept s v l pages :=
  fun k hl hp => (g k hl hp).trans (h k hl hp)

theorem regsKept_mono {s u : State} {l m pages qs : List Nat} (h : RegsKept s u l pages) (hl : ∀ k ∈ l, k ∈ m ∨ pageOf k ∈ qs) (hp : ∀ p ∈ pages, p ∈ qs) :
    RegsKept s u m qs :=
  fun k hm hq => h k (fun hk => (hl k hk).elim hm hq) (fun hk => hq (hp _ hk))

/-- A state with the registers of another shows the same registers. -/
theorem regsKept_of_regs {s u : State} (h : u.regs = s.regs) (l pages : List Nat) : RegsKept s u l pages := fun k _ _ => by
  simp only [getR, h]

theorem regN_of_kept {s u : State} {l pages : List Nat} (h : RegsKept s u l pages) {k : Nat} (hl : k ∉ l) (hp : pageOf k ∉ pages) : regN u k = regN s k := by
  rw [regN, regN, h k hl hp]

theorem regsKept_setN (s : State) (k v : Nat) : RegsKept s (setN s k v) [k] [] := regsKept_setR s k _

theorem regsKept_setFlag (s : State) (k b : Nat) (v : Bool) : RegsKept s (setFlag s k b v) [k] [] := regsKept_setR s k _

theorem regsKept_event (s : State) (page k : Nat) : RegsKept s (event s page k) (evtKeys page) [0x80] := fun j hj hp => by
  simp only [evtKeys, List.mem_cons, List.not_mem_nil, or_false, not_or] at hj hp
  exact getR_event s page k hj.1 hj.2 hp

theorem regsKept_irqMessage (s : State) (src : Nat) : RegsKept s (irqMessage s src) [] [0x80] := fun _ _ hp =>
  getR_irqMessage_page s src (by simpa using hp)

theorem pageOf_evtKeys {page k : Nat} (hp : page < 256) (hk : k ∈ evtKeys page) : pageOf k = page := by
  simp only [evtKeys, List.mem_cons, List.not_mem_nil, or_false] at hk
  obtain rfl | rfl := hk <;> exact pageOf_hdr hp (by decide)

/-- An event's registers lie on its page. -/
theorem regsKept_event_page (s : State) {page : Nat} (k : Nat) (hp : page < 256) : RegsKept s (event s page k) [] [0x80, page] :=
  regsKept_mono (regsKept_event s page k) (fun _ hk => .inr (by simp [pageOf_evtKeys hp hk])) (by simp)

/-! ### The mailbox: what answers and notices change (R404) -/

theorem pageOf_mbx {off : Nat} (h : off < 0x1000) : pageOf (0x89000 + off) = 0x89 := by unfold pageOf bankBase; omega

theorem regsKept_mbxPut (ws : List Nat) : ∀ (off : Nat) (s : State), off + 4 * ws.length ≤ 0x1000 → RegsKept s (mbxPut off ws s) [] [0x89] := by
  induction ws with
  | nil => exact fun _ s _ => regsKept_refl s _ _
  | cons w t ih =>
    intro off s h
    rw [List.length_cons] at h
    refine regsKept_trans (regsKept_mono (regsKept_setR s (0x89000 + off) _) ?_ (by simp)) (ih (off + 4) _ (by omega))
    simp [pageOf_mbx (show off < 0x1000 by omega)]

theorem onlyRegs_mbxPut (ws : List Nat) : ∀ (off : Nat) (s : State), OnlyRegs s (mbxPut off ws s) := by
  induction ws with
  | nil => exact fun _ _ => rfl
  | cons w t ih => exact fun off s => (onlyRegs_setR s _ _).trans (ih _ _)

theorem keptIrq_of_onlyRegs {s u : State} (h : OnlyRegs s u) : KeptIrq s u := by
  rw [h]
  constructor <;> rfl

@[simp] theorem words32_length (bs : List Byte) : (words32 bs).length = (bs.length + 3) / 4 := by simp [words32]

theorem regsKept_set {s : State} {k v p : Nat} (h : pageOf k = p) : RegsKept s (setN s k v) [] [p] :=
  regsKept_mono (regsKept_setR s k _) (by simp [h]) (by simp)

theorem regsKept_mbxDone (s : State) (code : Nat) {resp : List Byte} (h : resp.length ≤ 2048) : RegsKept s (mbxDone s code resp) [] [0x80, 0x89] := by
  have h1 := regsKept_mbxPut (words32 resp) 0x800 s (by rw [words32_length]; omega)
  have h2 : RegsKept (mbxPut 0x800 (words32 resp) s) (setN _ R.MBX_STAT (code * 16 + resp.length * 0x10000)) [] [0x89] := regsKept_set (by decide)
  have h3 : RegsKept (setN (mbxPut 0x800 (words32 resp) s) R.MBX_STAT (code * 16 + resp.length * 0x10000)) (bumpWrap _ R.MBX_DONE) [] [0x89] := regsKept_set (by decide)
  refine regsKept_trans (regsKept_mono (regsKept_trans h1 (regsKept_trans h2 h3)) (by simp) (by simp)) ?_
  exact regsKept_trans (regsKept_event_page _ 0 (by decide)) (regsKept_mono (regsKept_irqMessage _ _) (by simp) (by simp))

theorem keptIrq_mbxDone (s : State) (code : Nat) (resp : List Byte) : KeptIrq s (mbxDone s code resp) :=
  (keptIrq_of_onlyRegs ((onlyRegs_mbxPut (words32 resp) 0x800 s).trans ((onlyRegs_setR _ _ _).trans (onlyRegs_setR _ _ _)))).trans
    ((KeptIrq.event _ _ _).trans (KeptIrq.irqMessage _ _))

/-- A register of MAILBOX past its event registers keeps what the answer leaves before its event. -/
theorem regN_doneEvent (s : State) {k : Nat} (h1 : k ∉ evtKeys pgMBX) (h2 : pageOf k ≠ 0x80) : regN (irqMessage (event s pgMBX 0) 0x3DF) k = regN s k :=
  (regN_of_kept (regsKept_irqMessage _ _) (by simp) (by simpa using h2)).trans (regN_of_kept (regsKept_event s pgMBX 0) h1 (by simpa using h2))

/-- An answer with no response. -/
theorem mbxAnswered_done (s : State) {code : Nat} (h : code < 2 ^ 28) : MbxAnswered s (mbxDone s code []) code [] := by
  have e1 : regN (mbxDone s code []) R.MBX_STAT = code * 16 := by
    refine (regN_doneEvent _ (by decide) (by decide)).trans ?_
    rw [bumpWrap, regN_setN_ne _ _ (by decide), regN_setN_self]
    simp only [List.length_nil]
    omega
  refine ⟨by simpa using e1, rfl, ?_, ?_⟩
  · refine (regN_doneEvent _ (by decide) (by decide)).trans ?_
    rw [bumpWrap, regN_setN_self, regN_setN_ne _ _ (by decide)]
    rfl
  · rw [flag, mbxDone, regN_of_kept (regsKept_irqMessage _ _) (by simp) (by decide)]
    exact flag_event_self _ _ _ (by decide)

theorem regsKept_postNotice (s : State) (code round : Nat) : RegsKept s (postNotice s code round) [] [0x80, 0x89] := by
  have h32 : fld s R.MBX_NOTE_TAIL 5 0 < 64 := Nat.mod_lt _ (by decide)
  unfold postNotice
  dsimp only
  split
  · refine regsKept_trans (regsKept_mono (regsKept_set (p := 0x89) (by decide)) (by simp) (by simp)) (regsKept_event_page _ 2 (by decide))
  · refine regsKept_trans ?_ (regsKept_trans (regsKept_event_page _ 1 (by decide)) (regsKept_mono (regsKept_irqMessage _ _) (by simp) (by simp)))
    refine regsKept_mono (regsKept_trans (regsKept_mbxPut _ _ s ?_) (regsKept_set (by decide))) (by simp) (by simp)
    rw [words32_length]
    simp [bytesLE]
    omega

theorem keptIrq_postNotice (s : State) (code round : Nat) : KeptIrq s (postNotice s code round) := by
  unfold postNotice
  dsimp only
  split
  · exact (keptIrq_of_onlyRegs (u := bump s R.MBX_NOTE_LOST) rfl).trans (KeptIrq.event _ _ _)
  · exact (keptIrq_of_onlyRegs ((onlyRegs_mbxPut _ _ s).trans (onlyRegs_setR _ _ _))).trans ((KeptIrq.event _ _ _).trans (KeptIrq.irqMessage _ _))

end Sys2Proof.Proofs

/-!
Site messages and the judgement of OFFERs and ACCEPTs (R322 to R329).
-/
namespace Sys2Proof.Proofs
open Sys2Proof.Machine Sys2Proof.Safety

/-! ### Site messages (R322, R323) -/

/-- The two states differ in the messages sent and their count at most. -/
def OnlySent (s u : State) : Prop := u = { s with site := { s.site with sent := u.site.sent }, sent := u.sent }

theorem OnlySent.trans {s u v : State} (h : OnlySent s u) (g : OnlySent u v) : OnlySent s v := by
  unfold OnlySent at h g ⊢; rw [g, h]

/-- What every step of a fold keeps, the fold keeps. -/
theorem foldl_related {α : Type} {r : State → State → Prop} (hr : ∀ s, r s s) (ht : ∀ s u v, r s u → r u v → r s v) {f : State → α → State}
    (hf : ∀ s x, r s (f s x)) (l : List α) (s : State) : r s (l.foldl f s) := by
  induction l generalizing s with
  | nil => exact hr s
  | cons x t ih => exact ht _ _ _ (hf s x) (ih (f s x))

theorem OnlySent.foldl {α : Type} {f : State → α → State} (hf : ∀ s x, OnlySent s (f s x)) (l : List α) (s : State) : OnlySent s (l.foldl f s) :=
  foldl_related (r := OnlySent) (fun _ => rfl) (fun _ _ _ h g => h.trans g) hf l s

theorem onlySent_emit (s : State) (o : Out) : OnlySent s (emit s o) := rfl

theorem onlySent_siteTell (s : State) (t : SiteTab) (kind : MsgKind) (fields : List Nat) : OnlySent s (siteTell s t kind fields) :=
  OnlySent.trans (u := modSite s (fun x => { x with sent := x.sent + 1 })) rfl (OnlySent.foldl (fun _ _ => onlySent_emit _ _) _ _)

theorem onlySent_siteSend (s : State) (t : SiteTab) (kind : MsgKind) (fields : List Nat) (dest : Nat) : OnlySent s (siteSend s t kind fields dest) :=
  OnlySent.trans (u := modSite s (fun x => { x with sent := x.sent + 1 })) rfl
    ((OnlySent.foldl (fun _ _ => onlySent_emit _ _) _ _).trans (OnlySent.foldl (fun _ _ => onlySent_emit _ _) _ _))

/-- Messages to every site of a list. -/
theorem onlySent_sendAll (l : List Nat) (s : State) (t : SiteTab) (kind : MsgKind) (fields : List Nat) :
    OnlySent s (l.foldl (fun a i => siteSend a t kind fields i) s) :=
  OnlySent.foldl (fun a i => onlySent_siteSend a t kind fields i) l s

/-- The index of a site's entry names the site. -/
theorem siteEnt_of_siteIdx {t : SiteTab} {id i : Nat} (h : siteIdx t id = some i) : (siteEnt t i).id = id := by
  simp only [siteIdx, Option.map_eq_some_iff] at h
  obtain ⟨⟨e, j⟩, hf, rfl⟩ := h
  have hm := List.mem_zipIdx_iff_getElem?.1 (List.mem_of_find?_eq_some hf)
  have hp := List.find?_some hf
  simpa [siteEnt, hm] using hp

theorem siteIdx_ne_self {t : SiteTab} {id i : Nat} (h : siteIdx t id = some i) (hne : id ≠ ownSite t) : i ≠ t.self := by
  rintro rfl
  exact hne (siteEnt_of_siteIdx h).symm

/-- The state with a site message noted. -/
def seenBy (s : State) (h : SiteHdr) : State := { s with site := seenNow s h }

/-- A message that its guidon acts on is noted as seen, and acted on (R323). -/
theorem siteRx_acts {s : State} {t : SiteTab} {h : SiteHdr} (ha : SiteActs s t h) (kind : MsgKind) (fields : List Nat) (f : State → SiteTab → State) :
    siteRx s h kind fields f = f (seenBy s h) t := by
  obtain ⟨ht, hg, hs, ho⟩ := ha
  have hg' : isGuidon (noteRev s h) = true := hg
  have hs' : (noteRev s h).site.seen.contains (h.site.toNat, h.count) = false := hs
  have ho' : (h.site.toNat != ownSite t) = true := by simpa using ho
  simp only [siteRx, ht, siteIn, hs', hg', ho', if_true, Bool.false_eq_true, if_false]
  rfl

/-! ### Sets of sites as masks -/

theorem bitOf_eq_testBit (v k : Nat) : bitOf v k = v.testBit k := (Nat.testBit_eq_decide_div_mod_eq).symm

/-- The mask of the sites that the elements of a list name. -/
theorem bitOf_foldl_mask {α : Type} (f : α → Nat) (l : List α) (m j : Nat) :
    bitOf (l.foldl (fun m x => m ||| 2 ^ f x) m) j = (bitOf m j || l.any (fun x => f x == j)) := by
  induction l generalizing m with
  | nil => simp
  | cons x t ih =>
    have hx : Nat.testBit (2 ^ f x) j = (f x == j) := by rw [Nat.testBit_two_pow]; rfl
    rw [List.foldl_cons, ih, List.any_cons, bitOf_eq_testBit, bitOf_eq_testBit, Nat.testBit_or, hx, Bool.or_assoc]

/-- A member of the view that no element of the list names. -/
theorem foldl_mask_ne {α : Type} {f : α → Nat} {l : List α} {v j : Nat} (hv : bitOf v j = true) (hl : ∀ x ∈ l, f x ≠ j) :
    l.foldl (fun m x => m ||| 2 ^ f x) 0 ≠ v := by
  rintro rfl
  rw [bitOf_foldl_mask] at hv
  simp only [bitOf_eq_testBit, Nat.zero_testBit, Bool.false_or, List.any_eq_true, beq_iff_eq] at hv
  obtain ⟨x, hx, he⟩ := hv
  exact hl x hx he

/-- Elements that name the two members of a view, and no others, make its mask. -/
theorem foldl_mask_pair {α : Type} {f : α → Nat} {l : List α} {i j : Nat} (hi : ∃ x ∈ l, f x = i) (hj : ∃ x ∈ l, f x = j)
    (hl : ∀ x ∈ l, f x = i ∨ f x = j) : l.foldl (fun m x => m ||| 2 ^ f x) 0 = 2 ^ i ||| 2 ^ j := by
  refine Nat.eq_of_testBit_eq fun k => ?_
  rw [← bitOf_eq_testBit, bitOf_foldl_mask, Nat.testBit_or, Nat.testBit_two_pow, Nat.testBit_two_pow, bitOf_eq_testBit, Nat.zero_testBit, Bool.false_or,
    Bool.eq_iff_iff]
  simp only [List.any_eq_true, beq_iff_eq, Bool.or_eq_true, decide_eq_true_eq]
  constructor
  · rintro ⟨x, hx, rfl⟩
    exact (hl x hx).imp Eq.symm Eq.symm
  · rintro (rfl | rfl) <;> assumption

theorem bitOf_pair {i j k : Nat} : bitOf (2 ^ i ||| 2 ^ j) k = true ↔ i = k ∨ j = k := by
  rw [bitOf_eq_testBit, Nat.testBit_or, Nat.testBit_two_pow, Nat.testBit_two_pow]
  simp

/-! ### The judgement of OFFERs and ACCEPTs (R329) -/

theorem judgeOffers_joined {s : State} (t : SiteTab) (h : siteEpoch s < s.site.joined) : judgeOffers s t = s := by
  simp only [judgeOffers, h, if_true]

theorem judgeOffers_noOffer {s : State} (t : SiteTab) (h : s.site.offerAt = none) : judgeOffers s t = s := by
  simp only [judgeOffers, h, ite_self]

theorem judgeAccepts_noAccepted {s : State} (t : SiteTab) (h : s.site.accepted = none) : judgeAccepts s t = s := by
  simp only [judgeAccepts, h]

/-- The OFFERs of the round next to commit in the epoch in force, from the sites of the view. -/
def offersNow (s : State) : List (Nat × Nat × Nat × Nat) :=
  s.site.offers.filter (fun x => x.2.1 == siteCommit s + 1 && x.2.2.1 == siteEpoch s && bitOf (viewMask s) x.1)

/-- The judgement of OFFERs, once the own OFFER has gone and no higher epoch was joined. -/
theorem judgeOffers_own {s : State} {t : SiteTab} {x : Nat} {own : Nat × Nat × Nat × Nat} (hj : s.site.joined ≤ siteEpoch s) (hx : s.site.offerAt = some x)
    (ho : s.site.offers.find? (fun y => y.1 == t.self && y.2.1 == siteCommit s + 1 && y.2.2.1 == siteEpoch s) = some own) :
    judgeOffers s t =
      if (offersNow s).foldl (fun m y => m ||| 2 ^ y.1) 0 ≠ viewMask s ∧ s.tick.now < x + t.agree then s
      else if (offersNow s).any (fun y => y.2.2.2 != own.2.2.2) then offersDiffer s t (siteCommit s + 1) (siteEpoch s) own.2.2.2
      else if isQuorum t ((offersNow s).foldl (fun m y => m ||| 2 ^ y.1) 0) then
        makePromise (modSite s (fun y => { y with offerAt := none })) t (true, siteEpoch s, siteCommit s + 1, own.2.2.2)
      else s := by
  simp only [judgeOffers, hx, ho, if_neg (Nat.not_lt.2 hj), offersNow]
  rfl

/-- While a site of the view has not offered, the judgement waits. -/
theorem judgeOffers_waits {s : State} {t : SiteTab} {j : Nat} {own : Nat × Nat × Nat × Nat} (hx : s.site.offerAt = some s.tick.now) (ha : 0 < t.agree)
    (ho : s.site.offers.find? (fun y => y.1 == t.self && y.2.1 == siteCommit s + 1 && y.2.2.1 == siteEpoch s) = some own)
    (hb : bitOf (viewMask s) j = true) (hj : ∀ o ∈ s.site.offers, o.1 ≠ j) : judgeOffers s t = s := by
  by_cases he : siteEpoch s < s.site.joined
  · exact judgeOffers_joined t he
  · rw [judgeOffers_own (Nat.not_lt.1 he) hx ho, if_pos ⟨foldl_mask_ne hb (fun o hm => hj o (List.mem_of_mem_filter hm)), by omega⟩]

/-- So it does past messages sent. -/
theorem judgeOffers_waits_sent {s u : State} (hu : OnlySent s u) {t : SiteTab} {j : Nat} {own : Nat × Nat × Nat × Nat} (hx : s.site.offerAt = some s.tick.now)
    (ha : 0 < t.agree) (ho : s.site.offers.find? (fun y => y.1 == t.self && y.2.1 == siteCommit s + 1 && y.2.2.1 == siteEpoch s) = some own)
    (hb : bitOf (viewMask s) j = true) (hj : ∀ o ∈ s.site.offers, o.1 ≠ j) : judgeOffers u t = u := by
  rw [hu]
  exact judgeOffers_waits hx ha ho hb hj

end Sys2Proof.Proofs

/-!
The commit of a round at this WG9 (R21, R22): what it writes, and what it leaves.
-/
namespace Sys2Proof.Proofs
open Sys2Proof.Machine Sys2Proof.Safety

/-! ### The commit of a round (R21, R22) -/

theorem siteCommit_of_kept {s u : State} {l pages : List Nat} (h : RegsKept s u l pages) (h1 : R.SITE_COMMIT_LO ∉ l) (h2 : R.SITE_COMMIT_HI ∉ l)
    (hp : pageOf R.SITE_COMMIT_LO ∉ pages) : siteCommit u = siteCommit s := by
  rw [siteCommit, siteCommit, reg64, reg64, regN_of_kept h h1 hp, regN_of_kept h h2 hp]

theorem siteCommit_set64 (s : State) {n : Nat} (h : n < 2 ^ 64) : siteCommit (set64 s R.SITE_COMMIT_LO R.SITE_COMMIT_HI n) = n := by
  rw [siteCommit, reg64, set64, regN_setN_self, regN_setN_ne _ _ (by decide), regN_setN_self]
  omega

/-- With no STATE group's BROADCAST under way no fetch ends. -/
theorem endFetches_none {s : State} (h : NoStateBroadcast s) (mine : CReq → Bool) : endFetches s mine = s := by
  have hf : s.coll.active.filter (fun r => r.oper == 5 && r.round == 0 && bitOf r.grp.flags 2 && r.phase != 2 && mine r) = [] := by
    refine List.filter_eq_nil_iff.2 fun r hr hc => ?_
    simp only [Bool.and_eq_true, beq_iff_eq] at hc
    obtain ⟨⟨⟨⟨h5, -⟩, hb⟩, -⟩, -⟩ := hc
    simp [h r hr h5] at hb
  rw [endFetches, hf, List.foldl_nil]

/-- The protection of a round begins in the health unit alone. -/
theorem protStart_eq (s : State) (n : Nat) : protStart s n = { s with hlth := (protStart s n).hlth } := by
  unfold protStart
  (repeat' split) <;> rfl

/-- The registers that a commit writes beside its events, its notice and the commit itself. -/
def commitKeys : List Nat := [R.SITE_COMMIT_LO, R.SITE_COMMIT_HI, R.SITE_ACCEPT_HI, R.REG_OUTER_GATE]

/-- What a commit leaves in the registers: the commit, ROUND_COMMITTED and the acceptance shown (R21, R329). -/
def committed (s : State) (n : Nat) : State := event (set64 s R.SITE_COMMIT_LO R.SITE_COMMIT_HI n) pgSITE 3

/-- The agreement's state past a commit. -/
def siteCommitted (x : SiteSt) (n : Nat) : SiteSt :=
  let keep := match x.accepted with | some (r, _, d) => if r = n then (n, d) :: x.digests else x.digests | none => x.digests
  { x with digests := keep, due := none, offerAt := none, acceptAt := none,
           accepted := if x.accepted.any (fun a => decide (a.1 ≤ n)) then none else x.accepted,
           readys := x.readys.filter (fun r => decide (n < r.1)), offers := x.offers.filter (fun r => decide (n < r.2.1)),
           accepts := x.accepts.filter (fun r => decide (n < r.2.1)) }

/-- A commit up to its notices: its registers and the agreement's state. -/
def commitShown (s : State) (n : Nat) : State :=
  let s2 : State := { committed s n with site := siteCommitted (committed s n).site n }
  if s2.site.accepted.isNone then setFlag s2 R.SITE_ACCEPT_HI 16 false else s2

/-- The outer gate opens for the apply, and the commit is told. -/
def commitTold (a : State) (n delay : Nat) : State :=
  postNotice (jobNotice (outerGate a true) .roundCommitted 1 n [if delay = 0 then cSERVED else cDELAYED, delay]) 1 n

/-- The job past a commit: phase 8 of its round. -/
def jobCommitted (j : JobSt) (n : Nat) : JobSt :=
  { j with commit := n, round := n, phase := 8, aborts := 0, aborted := none, pushedBytes := 0, abortDue := none }

/-- The round at this WG9 enters phase 8, and results of the rounds before it go. -/
def commitEntered (a : State) (n : Nat) : State :=
  { a with job := jobCommitted a.job n, coll := { a.coll with results := a.coll.results.filter (fun x => x.round = 0 || decide (n ≤ x.round)) } }

theorem commitRound_steps (s : State) (n delay : Nat) :
    commitRound s n delay = protStart (commitEntered (commitTold (stopServing (commitShown s n)) n delay) n) n := rfl

theorem keptIrq_committed (s : State) (n : Nat) : KeptIrq s (committed s n) :=
  KeptIrq.trans (keptIrq_of_onlyRegs ((onlyRegs_setR _ _ _).trans (onlyRegs_setR _ _ _))) (KeptIrq.event _ _ _)

theorem commitShown_eq (s : State) (n : Nat) :
    commitShown s n = { committed s n with regs := (commitShown s n).regs, site := siteCommitted s.site n } := by
  have h := (keptIrq_committed s n).site
  unfold commitShown
  dsimp only
  split
  · rw [h]
    rfl
  · rw [h]

theorem regsKept_committed (s : State) (n : Nat) : RegsKept s (committed s n) (commitKeys ++ evtKeys pgSITE) [0x80, 0x89] := by
  refine regsKept_trans (u := set64 s R.SITE_COMMIT_LO R.SITE_COMMIT_HI n) ?_ (regsKept_mono (regsKept_event _ _ _) (by decide) (by decide))
  refine regsKept_trans (u := setN s R.SITE_COMMIT_LO n) (regsKept_mono (regsKept_setR s _ _) (by decide) (by decide)) ?_
  exact regsKept_mono (regsKept_setR _ _ _) (by decide) (by decide)

theorem regsKept_commitShown (s : State) (n : Nat) : RegsKept (committed s n) (commitShown s n) [R.SITE_ACCEPT_HI] [] := by
  unfold commitShown
  dsimp only
  split
  · exact regsKept_setR { committed s n with site := _ } _ _
  · exact regsKept_of_regs rfl _ _

theorem keptIrq_commitTold (a : State) (n delay : Nat) : KeptIrq a (commitTold a n delay) := by
  refine KeptIrq.trans ?_ (keptIrq_postNotice _ _ _)
  constructor <;> rfl

theorem regsKept_commitTold (a : State) (n delay : Nat) : RegsKept a (commitTold a n delay) [R.REG_OUTER_GATE] [0x80, 0x89] := by
  have h : RegsKept a (jobNotice (outerGate a true) .roundCommitted 1 n [if delay = 0 then cSERVED else cDELAYED, delay]) [R.REG_OUTER_GATE] [] :=
    regsKept_setR a _ _
  exact regsKept_trans (regsKept_mono h (by decide) (by decide)) (regsKept_mono (regsKept_postNotice _ _ _) (by decide) (by decide))

/-- A commit without BROADCASTs to end: its registers, its notices, the round at this WG9, and the protection's start. -/
theorem commitRound_eq {s : State} (h : NoStateBroadcast s) (n delay : Nat) :
    commitRound s n delay = protStart (commitEntered (commitTold (commitShown s n) n delay) n) n := by
  have hc : (commitShown s n).coll = s.coll := by
    rw [commitShown_eq]
    exact (keptIrq_committed s n).coll
  rw [commitRound_steps, stopServing, endFetches_none (by rw [NoStateBroadcast, hc]; exact h)]

/-- A commit's outcome: the registers it writes, the round it leaves the job in, and the agreement past it; storage stays. -/
theorem commitRound_commits {s : State} (h : NoStateBroadcast s) {n : Nat} (hn : n < 2 ^ 64) (delay : Nat) :
    let u := commitRound s n delay
    siteCommit u = n ∧ u.job = jobCommitted s.job n ∧ u.site = siteCommitted s.site n ∧ u.mem = s.mem ∧ flag u (hdr pgSITE oEVT) 3 = true ∧
      RegsKept s u (commitKeys ++ evtKeys pgSITE) [0x80, 0x89] := by
  have hs := commitShown_eq s n
  have hk := keptIrq_committed s n
  have ht := keptIrq_commitTold (commitShown s n) n delay
  have hr : RegsKept (committed s n) (commitRound s n delay) [R.SITE_ACCEPT_HI, R.REG_OUTER_GATE] [0x80, 0x89] := by
    refine regsKept_trans (regsKept_mono (regsKept_commitShown s n) (by decide) (by decide)) ?_
    rw [commitRound_eq h, protStart_eq]
    exact regsKept_mono (regsKept_commitTold (commitShown s n) n delay) (by decide) (by decide)
  refine ⟨?_, ?_, ?_, ?_, ?_, ?_⟩
  · refine (siteCommit_of_kept hr (by decide) (by decide) (by decide)).trans ?_
    exact (siteCommit_of_kept (regsKept_event _ _ _) (by decide) (by decide) (by decide)).trans (siteCommit_set64 s hn)
  · rw [commitRound_eq h, protStart_eq]
    exact congrArg (jobCommitted · n) (ht.job.trans (by rw [hs]; exact hk.job))
  · rw [commitRound_eq h, protStart_eq]
    exact ht.site.trans (by rw [hs])
  · rw [commitRound_eq h, protStart_eq]
    exact ht.mem.trans (by rw [hs]; exact hk.mem)
  · rw [flag, regN_of_kept hr (by decide) (by decide)]
    exact flag_event_self _ _ _ (by decide)
  · exact regsKept_trans (regsKept_committed s n) (regsKept_mono hr (by decide) (by decide))

end Sys2Proof.Proofs

/-!
Agreement on a commit (R21, R22, R328, R329), case by case, and O43.
-/
namespace Sys2Proof.Proofs
open Sys2Proof.Machine Sys2Proof.Safety

/-- A round number of 48 bits fits the commit's registers. -/
theorem round_lt (n : BitVec 48) : n.toNat < 2 ^ 64 := n.isLt.trans (by decide)

theorem effect_ready {s : State} (hl : live s = true) (n : BitVec 48) (e : Word) (sh : BitVec 16) (d : DWord) :
    Effect (.ready n e sh d) s (readyOp s n.toNat e.toNat sh.toNat d.toNat) := by
  rw [Effect, exec_ready, execReady, act_live hl]

theorem effect_offer {s : State} (hl : live s = true) {t : SiteTab} {h : SiteHdr} (ha : SiteActs s t h) (n : BitVec 48) (e : Word) (d : DWord) :
    Effect (.offer h n e d []) s (offerOp (seenBy s h) t h.site.toNat n.toNat e.toNat d.toNat []) := by
  rw [Effect, exec_offer, execOffer, act_live hl, siteRx_acts ha]
  rfl

theorem effect_accept {s : State} (hl : live s = true) {t : SiteTab} {h : SiteHdr} (ha : SiteActs s t h) (n : BitVec 48) (e : Word) (d : DWord) :
    Effect (.accept h n e d) s (acceptOp (seenBy s h) t h.site.toNat n.toNat e.toNat d.toNat) := by
  rw [Effect, exec_accept, execAccept, act_live hl, siteRx_acts ha]

theorem effect_agreeTimeout {s : State} (hl : live s = true) : Effect .agreeTimeout s (agreeTimeoutOp s) := by
  rw [Effect, exec_agreeTimeout, execAgreeTimeout, act_live hl]

theorem effect_commit {s : State} (hl : live s = true) (n : BitVec 48) (e : Word) : Effect (.commit n e) s (commitOp s n.toNat e.toNat) := by
  rw [Effect, exec_commit, execCommit, act_live hl]

/-! ### READY (R328) -/

theorem readyOp_dropped {s : State} {t : SiteTab} (ht : siteTab s = some t) {n e : Nat} (h : isGuidon s = false ∨ e ≠ siteEpoch s ∨ n ≠ siteCommit s + 1)
    (sh d : Nat) : readyOp s n e sh d = s := by
  have hc : !isGuidon s ∨ e ≠ siteEpoch s ∨ n ≠ siteCommit s + 1 := by simpa using h
  simp only [readyOp, ht]
  exact if_pos hc

/-- The READYs held, with one of a shard added. -/
def readied (s : State) (n e sh d : Nat) : State :=
  modSite s (fun x => { x with readys := (n, e, sh, d) :: x.readys.filter (fun r => !(r.1 == n && r.2.1 == e && r.2.2.1 == sh)) })

/-- The own OFFER kept, from the moment it goes. -/
def offered (s : State) (t : SiteTab) (n e dig : Nat) : State :=
  modSite s (fun x => { x with offerAt := some s.tick.now, offers := (t.self, n, e, dig) :: x.offers.filter (fun o => !(o.1 == t.self && o.2.1 == n)) })

theorem readyOp_kept {s : State} {t : SiteTab} (ht : siteTab s = some t) (hg : isGuidon s = true) {n e : Nat} (he : e = siteEpoch s) (hn : n = siteCommit s + 1)
    (sh d : Nat) : readyOp s n e sh d = match shardDigests (readied s n e sh d) n e with
      | none => readied s n e sh d
      | some l =>
        let s2 := offered (readied s n e sh d) t n e (crc64 (l.flatMap (bytesLE 8)))
        judgeOffers ((otherSites t (viewMask s2)).foldl (fun a i => siteSend a t .offer [n, e, crc64 (l.flatMap (bytesLE 8))] i) s2) t := by
  have hc : ¬(!isGuidon s ∨ e ≠ siteEpoch s ∨ n ≠ siteCommit s + 1) := by simp [hg, he, hn]
  simp only [readyOp, ht]
  exact if_neg hc

/-- With every shard's READY the OFFER goes to the view, and waits for a site that has not offered. -/
theorem readyOp_offers {s : State} {t : SiteTab} (ht : siteTab s = some t) (hg : isGuidon s = true) {n e : Nat} (he : e = siteEpoch s) (hn : n = siteCommit s + 1)
    {sh d : Nat} {l : List Nat} (hs : shardDigests (readied s n e sh d) n e = some l) {j : Nat} (hj : j ≠ t.self) (hv : bitOf (viewMask s) j = true)
    (ho : ∀ o ∈ s.site.offers, o.1 ≠ j) (ha : 0 < t.agree) :
    OnlySent (offered (readied s n e sh d) t n e (crc64 (l.flatMap (bytesLE 8)))) (readyOp s n e sh d) := by
  subst he hn
  rw [readyOp_kept ht hg rfl rfl, hs]
  dsimp only
  have hsent := onlySent_sendAll (otherSites t (viewMask s)) (offered (readied s (siteCommit s + 1) (siteEpoch s) sh d) t (siteCommit s + 1) (siteEpoch s)
    (crc64 (l.flatMap (bytesLE 8)))) t .offer [siteCommit s + 1, siteEpoch s, crc64 (l.flatMap (bytesLE 8))]
  have hown : (t.self == t.self && siteCommit s + 1 == siteCommit s + 1 && siteEpoch s == siteEpoch s) = true := by simp
  have hw := judgeOffers_waits_sent hsent (j := j) rfl ha (List.find?_cons_of_pos hown) hv fun o hm => by
    obtain rfl | hm := List.mem_cons.1 hm
    · exact Ne.symm hj
    · exact ho o (List.mem_of_mem_filter hm)
  exact hw.symm ▸ hsent

/-! ### OFFER and ACCEPT (R329) -/

theorem offerOp_joined {s : State} {t : SiteTab} {site i : Nat} (hi : siteIdx t site = some i) {e : Nat} (he : e < s.site.joined) (n d : Nat) (l : List Nat) :
    offerOp s t site n e d l = s := by
  simp only [offerOp, hi, if_pos he]

theorem offerOp_kept {s : State} {t : SiteTab} {site i : Nat} (hi : siteIdx t site = some i) (hg : isGuidon s = true) {e : Nat} (he : s.site.joined ≤ e)
    (ho : s.site.offerAt = none) (n d : Nat) : offerOp s t site n e d [] =
      modSite s (fun x => { x with offers := (i, n, e, d) :: x.offers.filter (fun o => !(o.1 == i && o.2.1 == n && o.2.2.1 == e)) }) := by
  have hj := judgeOffers_noOffer (s := modSite s (fun x => { x with offers := (i, n, e, d) :: x.offers.filter (fun o => !(o.1 == i && o.2.1 == n && o.2.2.1 == e)) })) t ho
  simp only [offerOp, hi, if_neg (Nat.not_lt.2 he), hg, Bool.not_true, Bool.false_eq_true, if_false, List.isEmpty_nil]
  exact hj

/-- The ACCEPTs held, with one of a site added. -/
def accepting (s : State) (i n e d : Nat) : State :=
  modSite s (fun x => { x with accepts := (i, n, e, d) :: x.accepts.filter (fun o => !(o.1 == i && o.2.1 == n && o.2.2.1 == e)) })

theorem acceptOp_joined {s : State} {t : SiteTab} {site i : Nat} (hi : siteIdx t site = some i) {e : Nat} (he : e < s.site.joined) (n d : Nat) :
    acceptOp s t site n e d = s := by
  simp only [acceptOp, hi, if_pos he]

theorem acceptOp_judged {s : State} {t : SiteTab} {site i : Nat} (hi : siteIdx t site = some i) (hs : i ≠ t.self) {e : Nat} (he : s.site.joined ≤ e) (n d : Nat) :
    acceptOp s t site n e d = judgeAccepts (accepting s i n e d) t := by
  simp only [acceptOp, hi, if_neg (Nat.not_lt.2 he), if_neg hs]
  rfl

theorem commitTry_commits {s : State} {n : Nat} (hn : n = siteCommit s + 1) (hd : s.site.due = none) (hp : protBehind s n = false) (delay : Nat) :
    commitTry s n delay = commitRound s n delay := by
  have hc : ¬(n ≠ siteCommit s + 1 ∨ s.site.due.isSome = true) := by simp [hn, hd]
  rw [commitTry, if_neg hc, if_neg (by simp [hp])]

theorem protBehind_noData {s : State} (h : isData s = false) (n : Nat) : protBehind s n = false := by simp [protBehind, h]

/-- ACCEPTs of the round accepted from every site of the view commit it. -/
theorem judgeAccepts_commits {s : State} {t : SiteTab} {n e d x : Nat} (ha : s.site.accepted = some (n, e, d)) (hx : s.site.acceptAt = some x)
    (he : s.site.joined ≤ e)
    (hm : (s.site.accepts.filter (fun y => y.2 == (n, e, d) && bitOf (viewMask s) y.1)).foldl (fun m y => m ||| 2 ^ y.1) 0 = viewMask s) :
    judgeAccepts s t = guidonCommit s t n 0 := by
  simp only [judgeAccepts, ha, hx, if_neg (Nat.not_lt.2 he), hm, if_true]

/-- A guidon's commit where nothing waits: the WG9 of its site are told, and the round commits. -/
theorem guidonCommit_commits {s : State} {n : Nat} (hn : n = siteCommit s + 1) (hd : s.site.due = none) (hp : isData s = false) (t : SiteTab) (delay : Nat) :
    guidonCommit s t n delay = commitRound (siteTell s t .commit [n, siteEpoch s]) n delay := by
  have h := onlySent_siteTell s t .commit [n, siteEpoch s]
  rw [guidonCommit]
  refine commitTry_commits ?_ ?_ (protBehind_noData ?_ n) delay
  · rw [h]; exact hn
  · rw [h]; exact hd
  · rw [h]; exact hp

/-- In a view of two sites, the second ACCEPT of the round accepted commits it. -/
theorem acceptOp_commits {s : State} {t : SiteTab} {site i n e d x : Nat} (hi : siteIdx t site = some i) (hs : i ≠ t.self) (he : s.site.joined ≤ e)
    (ha : s.site.accepted = some (n, e, d)) (hx : s.site.acceptAt = some x) (hn : n = siteCommit s + 1) (hd : s.site.due = none) (hp : isData s = false)
    (hv : viewMask s = 2 ^ t.self ||| 2 ^ i) (ho : (t.self, n, e, d) ∈ s.site.accepts) :
    ∃ a, OnlySent (accepting s i n e d) a ∧ acceptOp s t site n e d = commitRound a n 0 := by
  have hw : viewMask (accepting s i n e d) = 2 ^ t.self ||| 2 ^ i := hv
  refine ⟨_, onlySent_siteTell (accepting s i n e d) t .commit [n, siteEpoch (accepting s i n e d)], ?_⟩
  rw [acceptOp_judged hi hs he, judgeAccepts_commits (s := accepting s i n e d) ha hx he, guidonCommit_commits (s := accepting s i n e d) hn hd hp]
  rw [hw]
  have hbit : ∀ k, k = t.self ∨ k = i → bitOf (2 ^ t.self ||| 2 ^ i) k = true := fun k hk => bitOf_pair.2 (hk.imp Eq.symm Eq.symm)
  have hmem : (t.self, n, e, d) ∈ s.site.accepts.filter (fun o => !(o.1 == i && o.2.1 == n && o.2.2.1 == e)) :=
    List.mem_filter.2 ⟨ho, by simp [Ne.symm hs]⟩
  refine foldl_mask_pair ⟨_, List.mem_filter.2 ⟨List.mem_cons_of_mem _ hmem, ?_⟩, rfl⟩ ⟨_, List.mem_filter.2 ⟨List.mem_cons_self, ?_⟩, rfl⟩ fun y hy => ?_
  · simp [hbit]
  · simp [hbit]
  · have := (List.mem_filter.1 hy).2
    simp only [Bool.and_eq_true] at this
    exact (bitOf_pair.1 this.2).imp Eq.symm Eq.symm

/-! ### AGREE_TIMEOUT and COMMIT (R329) -/

theorem agreeTimeoutOp_judged {s : State} {t : SiteTab} (ht : siteTab s = some t) (hg : isGuidon s = true) :
    agreeTimeoutOp s = judgeAccepts (judgeOffers s t) t := by
  simp only [agreeTimeoutOp, ht, hg, if_true]

/-- A promise goes to the alternate that is there, and waits for its acknowledgement (R322). -/
theorem makePromise_copied {s : State} {t : SiteTab} (h1 : ownNode s ≠ (siteEnt t t.self).alt) (h2 : s.hlth.lost.contains (siteEnt t t.self).alt = false)
    (p : Bool × Nat × Nat × Nat) : makePromise s t p = { s with
      site := { s.site with promises := s.site.promises ++ [p] },
      sent := s.sent ++ [.message .promiseCopy 7 (siteEnt t t.self).alt 1 [ofBool p.1, p.2.1, p.2.2.1, p.2.2.2] []] } := by
  have hc : ¬(ownNode s = (siteEnt t t.self).alt ∨ s.hlth.lost.contains (siteEnt t t.self).alt = true) := by rw [h2]; simpa using h1
  rw [makePromise]
  exact if_neg hc

/-- The own OFFER alone, from a site that is a quorum, brings the promise to accept. -/
theorem judgeOffers_promises {s : State} {t : SiteTab} {x d : Nat} (hj : s.site.joined ≤ siteEpoch s) (hx : s.site.offerAt = some x) (ht : x + t.agree ≤ s.tick.now)
    (ho : s.site.offers = [(t.self, siteCommit s + 1, siteEpoch s, d)]) (hv : bitOf (viewMask s) t.self = true) (hq : isQuorum t (2 ^ t.self) = true) :
    judgeOffers s t = makePromise (modSite s (fun y => { y with offerAt := none })) t (true, siteEpoch s, siteCommit s + 1, d) := by
  have hown : (t.self == t.self && siteCommit s + 1 == siteCommit s + 1 && siteEpoch s == siteEpoch s) = true := by simp
  have hnow : offersNow s = [(t.self, siteCommit s + 1, siteEpoch s, d)] := by simp [offersNow, ho, hv]
  rw [judgeOffers_own hj hx (by rw [ho]; exact List.find?_cons_of_pos hown), hnow, if_neg (by omega)]
  simp [hq]

/-- OFFERs that differ from every site of a view of two are a chunk failure of the round. -/
theorem judgeOffers_differ {s : State} {t : SiteTab} {x i d f : Nat} (hj : s.site.joined ≤ siteEpoch s) (hx : s.site.offerAt = some x) (hd : d ≠ f)
    (hv : viewMask s = 2 ^ t.self ||| 2 ^ i)
    (ho : s.site.offers = [(t.self, siteCommit s + 1, siteEpoch s, d), (i, siteCommit s + 1, siteEpoch s, f)]) :
    judgeOffers s t = offersDiffer s t (siteCommit s + 1) (siteEpoch s) d := by
  have hown : (t.self == t.self && siteCommit s + 1 == siteCommit s + 1 && siteEpoch s == siteEpoch s) = true := by simp
  have hb : ∀ k, k = t.self ∨ k = i → bitOf (2 ^ t.self ||| 2 ^ i) k = true := fun k hk => bitOf_pair.2 (hk.imp Eq.symm Eq.symm)
  have hnow : offersNow s = [(t.self, siteCommit s + 1, siteEpoch s, d), (i, siteCommit s + 1, siteEpoch s, f)] := by simp [offersNow, ho, hv, hb]
  rw [judgeOffers_own hj hx (by rw [ho]; exact List.find?_cons_of_pos hown), hnow, hv]
  simp [Ne.symm hd]

theorem offersDiffer_counts (s : State) (t : SiteTab) (n e d : Nat) :
    OnlySent (modSite (bump s R.SITE_DIGEST_BAD) (fun x => { x with offerAt := none })) (offersDiffer s t n e d) :=
  onlySent_sendAll _ _ _ _ _

theorem commitOp_dropped {s : State} {n e : Nat} (h : s.job.held = false ∨ e ≠ siteEpoch s ∨ n ≠ siteCommit s + 1 ∨ s.site.due.isSome = true) :
    commitOp s n e = s := by
  unfold commitOp commitTry
  split
  · next hc => rw [if_pos (by rcases h with h | h | h <;> simp_all)]
  · rfl

theorem commitOp_tried {s : State} {n e : Nat} (hh : s.job.held = true) (he : e = siteEpoch s) (hn : n = siteCommit s + 1) (hd : s.site.due = none) :
    commitOp s n e = if protBehind s n = true then modSite s (fun x => { x with due := some (n, s.tick.now) }) else commitRound s n 0 := by
  have hc : ¬(n ≠ siteCommit s + 1 ∨ s.site.due.isSome = true) := by simp [hn, hd]
  rw [commitOp, if_pos ⟨hh, he⟩, commitTry, if_neg hc]
  rfl

/-- Settles O43: READY, OFFER and ACCEPT up to their judgement, and a commit through `commitRound_commits`. -/
theorem commitAgreement : Obligations.CommitAgreement := by
  refine ⟨fun n e sh d t s hl ht => ?ready, fun h n e d t i s hl ha hi => ?site, fun t s hl ht hg ha => ?timeout, fun n e s hl => ?commit⟩
  case ready =>
    have h := effect_ready hl n e sh d
    refine ⟨fun hc => ?_, fun hg he hn => ⟨fun hs => ?_, fun l j hs _ hj hv ho ha => ?_⟩⟩
    · rwa [readyOp_dropped ht hc] at h
    · have hs' : shardDigests (readied s n.toNat e.toNat sh.toNat d.toNat) n.toNat e.toNat = none := hs
      rw [readyOp_kept ht hg he hn, hs'] at h
      exact ⟨_, h, rfl⟩
    · refine ⟨_, h, ?_⟩
      rw [readyOp_offers ht hg he hn hs hj hv ho ha]
      exact ⟨rfl, rfl, List.mem_cons_self, rfl⟩
  case site =>
    have ho := effect_offer hl ha n e d
    have hp := effect_accept hl ha n e d
    have hg : isGuidon (seenBy s h) = true := ha.2.1
    have hs : i ≠ t.self := siteIdx_ne_self hi ha.2.2.2
    refine ⟨fun he => ?_, fun he hn => ?_, fun he => ?_, fun he hn => ?_, fun x he hac hx hn hd _ hdata hb _ hv hown _ => ?_⟩
    · rw [offerOp_joined hi (s := seenBy s h) he] at ho
      exact ⟨_, ho, rfl⟩
    · rw [offerOp_kept hi hg he hn] at ho
      exact ⟨_, ho, rfl⟩
    · rw [acceptOp_joined hi (s := seenBy s h) he] at hp
      exact ⟨_, hp, rfl⟩
    · rw [acceptOp_judged hi hs (s := seenBy s h) he, judgeAccepts_noAccepted t (by exact hn)] at hp
      exact ⟨_, hp, rfl⟩
    · obtain ⟨a, hsent, hc⟩ := acceptOp_commits (s := seenBy s h) hi hs he hac hx hn hd hdata hv hown
      rw [hc] at hp
      obtain ⟨h1, h2, h3, -, h5, -⟩ := commitRound_commits (s := a) (by rw [hsent]; exact hb) (round_lt n) 0
      have hacc : a.site.accepted = some (n.toNat, e.toNat, d.toNat) := by rw [hsent]; exact hac
      exact ⟨_, hp, h1, by rw [h2]; rfl, by rw [h2]; rfl, by rw [h3]; simp [siteCommitted, hacc], h5⟩
  case timeout =>
    have h := effect_agreeTimeout hl
    rw [agreeTimeoutOp_judged ht hg] at h
    refine ⟨fun hc => ?_, fun x d hj hx hx' ho hv hq h1 h2 => ?_, fun x i d f hj hx _ hd _ _ hv ho => ?_⟩
    · rwa [hc.elim (judgeOffers_noOffer t) (judgeOffers_joined t), judgeAccepts_noAccepted t ha] at h
    · rw [judgeOffers_promises hj hx hx' ho hv hq, makePromise_copied (s := modSite s _) h1 h2, judgeAccepts_noAccepted t (by exact ha)] at h
      exact ⟨_, h, rfl⟩
    · have hs := offersDiffer_counts s t (siteCommit s + 1) (siteEpoch s) d
      rw [judgeOffers_differ hj hx hd hv ho, judgeAccepts_noAccepted t (by rw [hs]; exact ha)] at h
      refine ⟨_, h, ?_⟩
      rw [hs]
      refine ⟨regN_bump_self s _, rfl, rfl, ?_⟩
      exact siteCommit_of_kept (regsKept_setR s R.SITE_DIGEST_BAD _) (by decide) (by decide) (by decide)
  case commit =>
    have h := effect_commit hl n e
    refine ⟨fun hc => ?_, fun hh he hn hd => ⟨fun hp => ?_, fun hp hb => ?_⟩⟩
    · rwa [commitOp_dropped hc] at h
    · rw [commitOp_tried hh he hn hd, if_pos hp] at h
      exact ⟨_, h, rfl⟩
    · rw [commitOp_tried hh he hn hd, if_neg (by simp [hp])] at h
      obtain ⟨h1, h2, -, h4, h5, -⟩ := commitRound_commits hb (round_lt n) 0
      exact ⟨_, h, h1, h2, h5, h4⟩

end Sys2Proof.Proofs

/-!
The round at this WG9 and the requests of a healing site (R18, R26, R29, R233, R333).
-/
namespace Sys2Proof.Proofs
open Sys2Proof.Machine Sys2Proof.Safety

/-! ### The round at this WG9 (R18, R26, R29, R233) -/

theorem effect_snapReady {s : State} (hl : live s = true) (m : SnapReady) : Effect (.snapReady m) s (snapReadyOp s m) := by
  rw [Effect, exec_snapReady, execSnapReady, act_live hl]

theorem effect_snapshotPullStart {s : State} (hl : live s = true) : Effect .snapshotPullStart s (pullStartOp s) := by
  rw [Effect, exec_snapshotPullStart, execSnapshotPullStart, act_live hl]

theorem effect_memberModeReenter {s : State} (hl : live s = true) : Effect .memberModeReenter s (reenterOp s) := by
  rw [Effect, exec_memberModeReenter, execMemberModeReenter, act_live hl]

theorem effect_roundReplay {s : State} (hl : live s = true) : Effect .roundReplay s (replayOp s) := by
  rw [Effect, exec_roundReplay, execRoundReplay, act_live hl]

theorem snapReadyOp_otherJob {s : State} {m : SnapReady} (h : s.job.held = false ∨ m.job.toNat ≠ s.job.id) :
    snapReadyOp s m = jobNotice s .snapAccept 3 m.round.toNat [cPOLICY] := by
  have hc : !s.job.held ∨ m.job.toNat ≠ s.job.id := by simpa using h
  exact if_pos hc

/-- A SNAP_READY of the job held at a site that has not dipped: how its base and its round are judged. -/
theorem snapReadyOp_ownJob {s : State} {m : SnapReady} (hd : siteState s ≠ sDIPPED) (hh : s.job.held = true) (hj : m.job.toNat = s.job.id) :
    snapReadyOp s m =
      if m.baseRound.toNat + 1 < m.round.toNat ∧ s.job.pushed + 1 < m.round.toNat then jobNotice s .snapAccept 3 m.round.toNat [cBUSY]
      else if m.baseRound.toNat + 1 = m.round.toNat ∧ (siteTab s).any (fun t => m.steps.toNat == t.h) then
        if m.round.toNat ≠ nextRound s ∨ s.job.pushed ≠ s.job.commit then jobNotice s .snapAccept 3 m.round.toNat [cPOLICY]
        else if s.job.phase ≠ 0 ∨ s.job.accepted then jobNotice s .snapAccept 3 m.round.toNat [cSERVED]
        else jobNotice { s with job := { s.job with accepted := true, memberHold := true, reenter := false } } .snapAccept 3 m.round.toNat [cSERVED]
      else jobNotice s .snapAccept 3 m.round.toNat [cPOLICY] := by
  have hc : ¬(!s.job.held ∨ m.job.toNat ≠ s.job.id) := by simp [hh, hj]
  have hs : ¬(siteState s = sDIPPED ∧ m.round.toNat = siteCommit s + fld s R.SITE_LAG 1 0 + 1) := fun h => hd h.1
  unfold snapReadyOp
  dsimp only
  rw [if_neg hc, if_neg hs]

/-- The notice for the next round on the base just pushed is accepted: member mode holds its admissions. -/
theorem snapReadyOp_accepts {s : State} {m : SnapReady} {t : SiteTab} (hd : siteState s ≠ sDIPPED) (hh : s.job.held = true) (hj : m.job.toNat = s.job.id)
    (hb : m.baseRound.toNat + 1 = m.round.toNat) (ht : siteTab s = some t) (hs : m.steps.toNat = t.h) (hn : m.round.toNat = s.job.commit + 1)
    (hp : s.job.pushed = s.job.commit) (h0 : s.job.phase = 0) (ha : s.job.accepted = false) : snapReadyOp s m =
      jobNotice { s with job := { s.job with accepted := true, memberHold := true, reenter := false } } .snapAccept 3 m.round.toNat [cSERVED] := by
  rw [snapReadyOp_ownJob hd hh hj, if_neg (by omega), if_pos ⟨hb, by simp [ht, hs]⟩, if_neg (by simp [nextRound, hn, hp]), if_neg (by simp [h0, ha])]

/-- The two states differ in the stations and in registers at most. -/
def OnlyStations (s u : State) : Prop := ∃ r x, u = { s with regs := r, stn := x }

theorem OnlyStations.trans {s u v : State} (h : OnlyStations s u) (g : OnlyStations u v) : OnlyStations s v := by
  obtain ⟨r, x, rfl⟩ := h
  obtain ⟨r', x', rfl⟩ := g
  exact ⟨r', x', rfl⟩

theorem onlyStations_setN (s : State) (k v : Nat) : OnlyStations s (setN s k v) := ⟨_, s.stn, rfl⟩

/-- A cluster's binding shows in the stations and in registers alone. -/
theorem onlyStations_rebindCluster (s : State) (die c : Nat) : OnlyStations s (rebindCluster s die c) := by
  unfold rebindCluster
  dsimp only
  split
  · exact ⟨_, _, rfl⟩
  · exact OnlyStations.trans ⟨s.regs, _, rfl⟩ (foldl_related (r := OnlyStations) (fun _ => ⟨_, _, rfl⟩) (fun _ _ _ h g => h.trans g) (fun _ _ => onlyStations_setN _ _ _) _ _)

theorem onlyStations_rebindAll (s : State) : OnlyStations s (rebindAll s) :=
  foldl_related (r := OnlyStations) (fun _ => ⟨_, _, rfl⟩) (fun _ _ _ h g => h.trans g) (fun _ _ => onlyStations_rebindCluster _ _ _) _ _

/-- The job in phase 1 of its next round. -/
def roundBegun (j : JobSt) : JobSt :=
  { j with accepted := false, phase := 1, round := j.commit + 1, readySent := false, rechecked := false, exchanged := 0, made := [], staged := [],
           residDone := 0, aborts := 0, aborted := none, gone := j.gone.erase (j.commit + 1), contributors := 1 }

theorem pullStartOp_stays {s : State} (h : ¬(s.job.held = true ∧ s.job.accepted = true ∧ s.job.phase = 0 ∧ memberBusy s = false ∧ s.job.pushed = s.job.commit)) :
    pullStartOp s = s := by
  rw [pullStartOp, if_neg (by simpa using h)]

/-- The wide guards ended and the mirrors dropped, past the clusters' new binding. -/
theorem pullStart_ends {s a : State} {r : List (Nat × BitVec 32)} {x : StnSt} (h : a = { s with job := roundBegun s.job, regs := r, stn := x }) :
    let u := mirrorFlag { a with hlth := { a.hlth with mirOut := [], mirChunks := [] } }
    u.job = roundBegun s.job ∧ u.hlth = { s.hlth with mirOut := [], mirChunks := [] } ∧ u.mem = s.mem := by
  simp only [mirrorFlag, setFlag_job, setFlag_hlth, setFlag_mem, h, and_self]

/-- The pull starts: the next round's phase 1, clusters bound anew, and no mirror outstanding. -/
theorem pullStartOp_begins {s : State} (h : s.job.held = true ∧ s.job.accepted = true ∧ s.job.phase = 0 ∧ memberBusy s = false ∧ s.job.pushed = s.job.commit) :
    (pullStartOp s).job = roundBegun s.job ∧ (pullStartOp s).hlth = { s.hlth with mirOut := [], mirChunks := [] } ∧ (pullStartOp s).mem = s.mem := by
  rw [pullStartOp, if_pos (by simpa using h)]
  have hb := onlyStations_rebindAll { s with job := roundBegun s.job }
  have hw : ∀ a : State, OnlyStations a (if flag a R.TIME_STAT 0 then (List.range 2).foldl (fun b md => setFlag b (keyB R.OCU_STEER_CFG md) 0 false) a else a) := by
    intro a
    split
    · exact foldl_related (r := OnlyStations) (fun _ => ⟨_, _, rfl⟩) (fun _ _ _ h g => h.trans g) (fun _ _ => onlyStations_setN _ _ _) _ _
    · exact ⟨_, _, rfl⟩
  obtain ⟨r, x, hu⟩ := hb.trans (hw _)
  exact pullStart_ends hu

theorem reenterOp_stays {s : State} (h : s.job.reenter = false) : reenterOp s = s := by
  rw [reenterOp, if_neg (by simp [h])]

theorem reenterOp_enters {s : State} (h : s.job.reenter = true) : reenterOp s = { s with job := { s.job with reenter := false, memberHold := false } } := by
  rw [reenterOp, if_pos h]

theorem replayOp_stays {s : State} (h : s.job.aborted = none ∨ s.job.holding = true ∨ s.job.held = false) : replayOp s = s := by
  unfold replayOp
  split
  · next k hk => rw [if_pos (by simpa [hk] using h)]
  · rfl

theorem replayOp_begins {s : State} {k : Nat} (hk : s.job.aborted = some k) (hh : s.job.holding = false) (hj : s.job.held = true) :
    replayOp s = { s with job := { s.job with aborted := none, gone := s.job.gone.erase s.job.round, phase := if k = 1 then 1 else 2 } } := by
  simp only [replayOp, hk, hh, hj, Bool.not_true, Bool.false_eq_true, or_self, if_false]

/-! ### Healing (R333, R334) -/

theorem effect_joinReq {s : State} (hl : live s = true) {t : SiteTab} {h : SiteHdr} (ha : SiteActs s t h) (k : BitVec 48) :
    Effect (.joinReq h k none) s (joinReqOp (seenBy s h) t h.site.toNat none h.arithRev.toNat) := by
  rw [Effect, exec_joinReq, execJoinReq, act_live hl, siteRx_acts ha]
  rfl

theorem effect_healReply {s : State} (hl : live s = true) {t : SiteTab} {h : SiteHdr} (ha : SiteActs s t h) (k : BitVec 48) :
    Effect (.healReply h k none) s (healReplyOp (siteTell (seenBy s h) t .healReply [k.toNat]) k.toNat none) := by
  have hg : isGuidon (seenBy s h) = true := ha.2.1
  rw [Effect, exec_healReply, execHealReply, act_live hl, siteRx_acts ha, siteTold, if_pos hg]
  rfl

theorem foldl_emit {α : Type} (f : α → Out) (l : List α) (s : State) : l.foldl (fun a x => emit a (f x)) s = { s with sent := s.sent ++ l.map f } := by
  induction l generalizing s with
  | nil => simp
  | cons x t ih => rw [List.foldl_cons, ih]; simp [emit]

/-- A message to another site: on the line ports 4 and 5, and to every WG9 of the own site (R323). -/
theorem siteSend_eq (s : State) (t : SiteTab) (kind : MsgKind) (fields : List Nat) (dest : Nat) :
    let f := [ownSite t, s.site.sent, (siteEnt t dest).id] ++ fields
    siteSend s t kind fields dest = { s with
      site := { s.site with sent := s.site.sent + 1 },
      sent := s.sent ++ [4, 5].map (fun p => Out.message kind p (siteEnt t dest).guidon 1 f []) ++
        ((siteNodes s).filter (· ≠ ownNode s)).map (fun n => Out.message kind 7 n 1 f []) } := by
  unfold siteSend localMsg
  dsimp only
  rw [foldl_emit, foldl_emit]
  rfl

theorem siteSend_sends (s : State) (t : SiteTab) (kind : MsgKind) (fields : List Nat) (dest : Nat) :
    Out.message kind 4 (siteEnt t dest).guidon 1 ([ownSite t, s.site.sent, (siteEnt t dest).id] ++ fields) [] ∈ (siteSend s t kind fields dest).sent := by
  rw [siteSend_eq]
  simp

theorem joinReqOp_refused {s : State} {t : SiteTab} {site i : Nat} (hi : siteIdx t site = some i) (hs : i ≠ t.self) {rev : Nat} (hr : rev ≠ regN s R.ARITH_REV)
    (acc : Option Nat) : joinReqOp s t site acc rev = siteSend s t .joinRefused [cPOLICY] i := by
  simp only [joinReqOp, hi, if_neg hs, if_pos hr]

/-- The sites that ask to join, with one more. -/
def asking (s : State) (i : Nat) : State := modSite s (fun x => { x with asked := insNat x.asked i })

theorem joinReqOp_noted {s : State} {t : SiteTab} {site i : Nat} (hi : siteIdx t site = some i) (hs : i ≠ t.self) {rev : Nat} (hr : rev = regN s R.ARITH_REV)
    (hn : siteState s ≠ sMEMBER ∨ lowestId t (viewMask s) ≠ ownSite t) (acc : Option Nat) : joinReqOp s t site acc rev = asking s i := by
  have hc : ¬(siteState s = sMEMBER ∧ lowestId t (viewMask s) = ownSite t) := by tauto
  simp only [joinReqOp, hi, if_neg hs, if_neg (not_not.2 hr), if_neg hc, asking]

theorem joinReqOp_replied {s : State} {t : SiteTab} {site i : Nat} (hi : siteIdx t site = some i) (hs : i ≠ t.self) {rev : Nat} (hr : rev = regN s R.ARITH_REV)
    (hm : siteState s = sMEMBER) (hg : lowestId t (viewMask s) = ownSite t) :
    joinReqOp s t site none rev = siteSend (asking s i) t .healReply [siteCommit s] i := by
  simp only [joinReqOp, hi, if_neg hs, if_neg (not_not.2 hr), if_pos (And.intro hm hg), asking]
  rfl

end Sys2Proof.Proofs

/-!
A heal's outcome, the fetch that it begins and its end (R333, R334), and O40.
-/
namespace Sys2Proof.Proofs
open Sys2Proof.Machine Sys2Proof.Safety

/-! ### Reads and writes of Mirder's where storage holds no error -/

theorem eccWords_none {s : State} (h : s.store.ecc = []) (k n : Nat) : eccWords s k n = [] := by simp [eccWords, h]

/-- The two states differ in the contents of storage at most. -/
def OnlyMem (s u : State) : Prop := u = { s with mem := u.mem }

theorem OnlyMem.trans {s u v : State} (h : OnlyMem s u) (g : OnlyMem u v) : OnlyMem s v := by
  unfold OnlyMem at h g ⊢; rw [g, h]

theorem OnlyMem.ecc {s u : State} (h : OnlyMem s u) : u.store.ecc = s.store.ecc := by rw [h]

theorem coreRead_sound {s : State} (h : s.store.ecc = []) (a n : Nat) : (coreRead s a n).2 = s := by
  cases hk : resolveCore s a n with
  | none => simp only [coreRead, hk]
  | some k => rw [coreRead_clean hk (eccWords_none h k n)]

theorem onlyMem_coreWrite {s : State} (h : s.store.ecc = []) (a : Nat) (bs : List Byte) : OnlyMem s (coreWrite s a bs) := by
  cases hk : resolveCore s a bs.length with
  | none => simp only [coreWrite, hk]; rfl
  | some k => rw [coreWrite_clean hk (eccWords_none h k _)]; rfl

theorem onlyMem_writeParts0 : ∀ (l : List (Nat × Nat)) (bs : List Byte) {s : State}, s.store.ecc = [] → OnlyMem s (writeParts0 l bs s)
  | [], _, _, _ => rfl
  | (a, n) :: t, bs, s, h => by
    have h1 := onlyMem_coreWrite h a (bs.take n)
    exact h1.trans (onlyMem_writeParts0 t (bs.drop n) (h1.ecc.trans h))

theorem readParts0_sound : ∀ (l : List (Nat × Nat)) {s : State}, s.store.ecc = [] → (readParts0 l s).2 = s
  | [], _, _ => rfl
  | (a, n) :: t, s, h => by
    simp only [readParts0, coreRead_sound h a n]
    exact readParts0_sound t h

theorem onlyMem_zeroResidual {s : State} (h : s.store.ecc = []) (n : Nat) : OnlyMem s (zeroResidual s n) := by
  unfold zeroResidual
  split
  · exact onlyMem_writeParts0 _ _ h
  · rfl

theorem onlyMem_copyResidual {s : State} (h : s.store.ecc = []) (n m : Nat) : OnlyMem s (copyResidual s n m) := by
  unfold copyResidual
  split
  · split
    · rfl
    · dsimp only [readSegs0]
      rw [readParts0_sound _ h]
      exact onlyMem_writeParts0 _ _ h
  · rfl

/-! ### The outcome of a heal (R333, R334) -/

/-- A fetch of a round begins where no BROADCAST is under way: the outer gate open, the residual written, the round left. -/
theorem startFetch_begins {s : State} (he : s.store.ecc = []) (hb : NoStateBroadcast s) (c : Nat) (carry : Bool) :
    ∃ m, startFetch s c carry = { outerGate s true with
      mem := m, job := { s.job with phase := 0, accepted := false }, site := { s.site with fetch := some { round := c, carry := carry } } } := by
  have hn : endFetches (outerGate s true) (fun r => r.root != r.grp.self) = outerGate s true := endFetches_none (s := outerGate s true) hb _
  have hm : ∃ m, (if carry then copyResidual (outerGate s true) (siteCommit (outerGate s true) + 1) (c + 1) else zeroResidual (outerGate s true) (c + 1)) =
      { outerGate s true with mem := m } := by
    split
    · exact ⟨_, onlyMem_copyResidual (s := outerGate s true) he _ _⟩
    · exact ⟨_, onlyMem_zeroResidual (s := outerGate s true) he _⟩
  obtain ⟨m, hm⟩ := hm
  refine ⟨m, ?_⟩
  unfold startFetch
  dsimp only
  rw [hn, hm]
  rfl

/-- The outcome of a heal as the site shows it: SITE_HEAL, no rounds of lag, HEAL_DONE and the notice. -/
def healShown (s : State) (out missed c : Nat) : State :=
  postNotice (event (setFlag (setN s R.SITE_HEAL (out + min missed 255 * 256)) R.SITE_LAG 2 false) pgSITE 2) 6 c

theorem keptIrq_healShown (s : State) (out missed c : Nat) : KeptIrq s (healShown s out missed c) :=
  (keptIrq_of_onlyRegs ((onlyRegs_setR s _ _).trans (onlyRegs_setR _ _ _))).trans ((KeptIrq.event _ _ _).trans (keptIrq_postNotice _ _ _))

/-- The registers that the end of a heal writes beside its notice. -/
def healKeys : List Nat := [R.SITE_HEAL, R.SITE_LAG] ++ evtKeys pgSITE

theorem regsKept_healEvent (s : State) (c : Nat) : RegsKept s (postNotice (event s pgSITE 2) 6 c) (evtKeys pgSITE) [0x80, 0x89] :=
  regsKept_trans (regsKept_mono (regsKept_event s pgSITE 2) (by decide) (by decide)) (regsKept_mono (regsKept_postNotice _ _ _) (by decide) (by decide))

theorem regsKept_healShown (s : State) (out missed c : Nat) : RegsKept s (healShown s out missed c) healKeys [0x80, 0x89] := by
  have h1 : RegsKept s (setN s R.SITE_HEAL (out + min missed 255 * 256)) healKeys [0x80, 0x89] := regsKept_mono (regsKept_setN s _ _) (by decide) (by decide)
  refine regsKept_trans (regsKept_trans h1 (regsKept_mono (regsKept_setFlag _ R.SITE_LAG 2 false) (by decide) (by decide))) ?_
  exact regsKept_mono (regsKept_healEvent _ c) (by decide) (by decide)

theorem regN_healShown (s : State) {out : Nat} (ho : out < 4) (missed c : Nat) : regN (healShown s out missed c) R.SITE_HEAL = out + min missed 255 * 256 := by
  rw [healShown, regN_of_kept (regsKept_healEvent _ c) (by decide) (by decide), setFlag, regN_setFld_ne _ _ _ _ (by decide), regN_setN_self]
  omega

/-- SITE_HEAL shows the outcome and the rounds missed. -/
theorem fld_healShown (s : State) {out missed : Nat} (ho : out < 4) (hm : missed < 256) (c : Nat) :
    fld (healShown s out missed c) R.SITE_HEAL 1 0 = out ∧ fld (healShown s out missed c) R.SITE_HEAL 15 8 = missed := by
  rw [fld, fld, regN_healShown s ho]
  constructor <;> simp only [bitsOf] <;> omega

theorem flag_healShown (s : State) (out missed c : Nat) : flag (healShown s out missed c) (hdr pgSITE oEVT) 2 = true := by
  rw [flag, healShown, regN_of_kept (regsKept_postNotice _ _ _) (by decide) (by decide)]
  exact flag_event_self _ _ _ (by decide)

theorem healReplyOp_healthy {s : State} (h : siteState s ≠ sHEALING) (c : Nat) (dig : Option Nat) : healReplyOp s c dig = s := if_pos h

/-- A healing site that holds nothing accepted: the rounds missed decide what it shows and does next. -/
theorem healReplyOp_outcome {s : State} (h : siteState s = sHEALING) (h0 : fld s R.SITE_HEAL 1 0 = 0) (ha : s.site.accepted = none)
    (hf : flag s R.SITE_POLICY 0 = false) (c : Nat) (dig : Option Nat) :
    healReplyOp s c dig =
      let m := c - siteCommit s
      let out := if 2 ≤ m then 3 else if m = 1 then 2 else 1
      let s2 := healShown s out m c
      if out = 1 then { s2 with job := { s2.job with holding := false } }
      else if out = 2 then startFetch s2 c true
      else
        let s3 := if s2.job.accepted ∨ (1 ≤ s2.job.phase ∧ s2.job.phase ≤ 7) then
          postNotice (jobNotice s2 .roundAborted 1 (siteCommit s + 1) [cABORTED]) 2 (siteCommit s + 1) else s2
        if m = 0 then takeRound (zeroResidual s3 (c + 1)) c else startFetch s3 c false := by
  unfold healReplyOp
  rw [if_neg (not_not.2 h), if_neg (not_not.2 h0)]
  simp only [ha, hf, Bool.false_eq_true, or_false]
  rfl

/-- With nothing missed the heal ends: the job holds no longer. -/
theorem healReplyOp_current {s : State} (h : siteState s = sHEALING) (h0 : fld s R.SITE_HEAL 1 0 = 0) (ha : s.site.accepted = none)
    (hf : flag s R.SITE_POLICY 0 = false) {c : Nat} (hc : c = siteCommit s) (dig : Option Nat) :
    healReplyOp s c dig = { healShown s 1 0 c with job := { s.job with holding := false } } := by
  have hj := (keptIrq_healShown s 1 0 c).job
  rw [healReplyOp_outcome h h0 ha hf, show c - siteCommit s = 0 by omega]
  simp [hj]

/-- With rounds missed, and none in progress here, a fetch of the committed round begins; with one missed it keeps the carry. -/
theorem healReplyOp_behind {s : State} (h : siteState s = sHEALING) (h0 : fld s R.SITE_HEAL 1 0 = 0) (ha : s.site.accepted = none)
    (hf : flag s R.SITE_POLICY 0 = false) (hp : s.job.phase = 0) (hj : s.job.accepted = false) {c : Nat} (hc : siteCommit s < c) (dig : Option Nat) :
    healReplyOp s c dig =
      startFetch (healShown s (if c = siteCommit s + 1 then 2 else 3) (c - siteCommit s) c) c (decide (c = siteCommit s + 1)) := by
  have hk (out : Nat) : (healShown s out (c - siteCommit s) c).job = s.job := (keptIrq_healShown s out _ c).job
  rw [healReplyOp_outcome h h0 ha hf]
  by_cases h1 : c = siteCommit s + 1
  · simp [h1]
  · have h2 : 2 ≤ c - siteCommit s := by omega
    have h3 : c - siteCommit s ≠ 0 := by omega
    simp [h1, h2, h3, hk, hp, hj]

/-- What a site shows that begins a fetch: its outcome and the rounds missed, an open outer gate, and its own last commit. -/
theorem healFetch_shows {s : State} (he : s.store.ecc = []) (hb : NoStateBroadcast s) {out missed : Nat} (ho : out < 4) (hm : missed < 256) (c : Nat) (carry : Bool) :
    let u := startFetch (healShown s out missed c) c carry
    fld u R.SITE_HEAL 1 0 = out ∧ fld u R.SITE_HEAL 15 8 = missed ∧ u.site.fetch = some { round := c, carry := carry } ∧ flag u R.REG_OUTER_GATE 0 = true ∧
      siteCommit u = siteCommit s ∧ u.job = { s.job with phase := 0, accepted := false } := by
  have hk := keptIrq_healShown s out missed c
  obtain ⟨m, hu⟩ := startFetch_begins (s := healShown s out missed c) (by rw [hk.store]; exact he) (by rw [NoStateBroadcast, hk.coll]; exact hb) c carry
  obtain ⟨h1, h2⟩ := fld_healShown s ho hm c
  have hg := regsKept_setFlag (healShown s out missed c) R.REG_OUTER_GATE 0 true
  have hr : RegsKept (outerGate (healShown s out missed c) true) (startFetch (healShown s out missed c) c carry) [] [] := regsKept_of_regs (by rw [hu]) _ _
  have hs : RegsKept (healShown s out missed c) (startFetch (healShown s out missed c) c carry) [R.REG_OUTER_GATE] [] :=
    regsKept_trans hg (regsKept_mono hr (by decide) (by decide))
  refine ⟨?_, ?_, by rw [hu], ?_, ?_, by rw [hu, hk.job]⟩
  · rw [fld, regN_of_kept hs (by decide) (by decide)]
    exact h1
  · rw [fld, regN_of_kept hs (by decide) (by decide)]
    exact h2
  · rw [flag, regN_of_kept hr (by decide) (by decide)]
    exact flag_setFlag_self _ _ _ _ (by decide)
  · rw [siteCommit_of_kept hs (by decide) (by decide) (by decide),
      siteCommit_of_kept (regsKept_healShown s out missed c) (by decide) (by decide) (by decide)]

/-- The state past a message noted and told on: the count of messages and those sent are beside it. -/
def toldOf (s : State) (h : SiteHdr) (x : Nat) (o : List Out) : State := { s with site := { seenNow s h with sent := x }, sent := o }

theorem siteTell_told (s : State) (h : SiteHdr) (t : SiteTab) (kind : MsgKind) (fields : List Nat) :
    ∃ x o, siteTell (seenBy s h) t kind fields = toldOf s h x o := ⟨_, _, onlySent_siteTell (seenBy s h) t kind fields⟩

/-! ### The end of a fetch (R333) -/

theorem fetchSettle_waits {s : State} {f : Fetch} (hf : s.site.fetch = some f) (hw : fetchWhole s f = false) : fetchSettle s = s := by
  simp only [fetchSettle, hf, hw, Bool.false_eq_true, if_false]

theorem fetchSettle_takes {s : State} {f : Fetch} (hf : s.site.fetch = some f) (hw : fetchWhole s f = true) : fetchSettle s = takeRound s f.round := by
  simp only [fetchSettle, hf, hw, if_true]

/-- A round taken is committed, and its push begins behind an open outer gate. -/
theorem takeRound_pushes (s : State) {c : Nat} (hc : c < 2 ^ 64) : let u := takeRound s c
    siteCommit u = c ∧ u.job.commit = c ∧ u.job.phase = 8 ∧ u.job.pushedBytes = 0 ∧ u.job.holding = false ∧ u.site.fetch = none ∧ flag u R.REG_OUTER_GATE 0 = true := by
  have hr : (takeRound s c).regs = (outerGate (set64 s R.SITE_COMMIT_LO R.SITE_COMMIT_HI c) true).regs := rfl
  have hk : RegsKept (outerGate (set64 s R.SITE_COMMIT_LO R.SITE_COMMIT_HI c) true) (takeRound s c) [] [] := regsKept_of_regs hr _ _
  refine ⟨?_, rfl, rfl, rfl, rfl, rfl, ?_⟩
  · rw [siteCommit_of_kept hk (by decide) (by decide) (by decide), outerGate,
      siteCommit_of_kept (regsKept_setFlag _ R.REG_OUTER_GATE 0 true) (by decide) (by decide) (by decide), siteCommit_set64 s hc]
  · rw [flag, regN_of_kept hk (by decide) (by decide)]
    exact flag_setFlag_self _ _ _ _ (by decide)

/-- Settles O40: each operation of a round and of a heal, by the lemma that says what it leaves. -/
theorem roundsAndHealing : Obligations.RoundsAndHealing := by
  refine ⟨⟨fun m s hl hd => ?ready, fun s hl => ?round⟩, fun h k t i s hl ha hi => ?joinReq, fun h k t s hl ha => ?healReply, fun f s hf => ?fetch⟩
  case ready =>
    have h := effect_snapReady hl m
    refine ⟨fun hj => ?_, fun hh hj hb hp => ?_, fun hh hj hb ht hn hp h0 hc => ?_⟩
    · rw [snapReadyOp_otherJob hj] at h
      exact ⟨_, h, rfl⟩
    · rw [snapReadyOp_ownJob hd hh hj, if_pos ⟨hb, hp⟩] at h
      exact ⟨_, h, rfl⟩
    · obtain ⟨t, ht, hs⟩ := ht
      rw [snapReadyOp_accepts hd hh hj hb ht hs hn hp h0 hc] at h
      exact ⟨_, h, rfl⟩
  case round =>
    have hr := effect_snapshotPullStart hl
    refine ⟨fun hm => ?_, fun hm => ?_, ⟨_, effect_memberModeReenter hl, reenterOp_stays, reenterOp_enters⟩,
      ⟨_, effect_roundReplay hl, replayOp_stays, fun k hk hh hj => replayOp_begins hk hh hj⟩⟩
    · rwa [pullStartOp_stays hm] at hr
    · obtain ⟨hj, hh, hmem⟩ := pullStartOp_begins hm
      exact ⟨_, hr, by rw [hj]; rfl, by rw [hj]; rfl, by rw [hj]; rfl, by rw [hj]; rfl, by rw [hj]; rfl, by rw [hj]; rfl, by rw [hh], hmem⟩
  case joinReq =>
    have he := effect_joinReq hl ha k
    have hs : i ≠ t.self := siteIdx_ne_self hi ha.2.2.2
    refine ⟨fun hr => ?_, fun hr hn => ?_, fun hr hm hg => ?_⟩
    · rw [joinReqOp_refused (s := seenBy s h) hi hs hr] at he
      exact ⟨_, he, siteSend_sends _ _ _ _ _, by rw [siteSend_eq]; rfl⟩
    · rw [joinReqOp_noted (s := seenBy s h) hi hs hr hn] at he
      exact ⟨_, he, rfl⟩
    · rw [joinReqOp_replied (s := seenBy s h) hi hs hr hm hg] at he
      exact ⟨_, he, by rw [siteSend_eq]; rfl, siteSend_sends _ _ _ _ _, by rw [siteSend_eq]; rfl⟩
  case healReply =>
    have he := effect_healReply hl ha k
    obtain ⟨x, o, hu⟩ := siteTell_told s h t .healReply [k.toNat]
    refine ⟨fun hn => ?_, fun hs h0 hac hc hf => ?_, fun hs h0 hac hc hc' hecc hf hp hj hb => ?_⟩
    · rw [healReplyOp_healthy (by rw [hu]; exact hn)] at he
      exact ⟨_, he, rfl⟩
    · rw [hu, healReplyOp_current (s := toldOf s h x o) hs h0 hac hf hc] at he
      obtain ⟨h1, h2⟩ := fld_healShown (toldOf s h x o) (show 1 < 4 by decide) (show 0 < 256 by decide) k.toNat
      refine ⟨_, he, h1, h2, rfl, ?_, flag_healShown _ _ _ _⟩
      exact siteCommit_of_kept (regsKept_healShown (toldOf s h x o) 1 0 k.toNat) (by decide) (by decide) (by decide)
    · rw [hu, healReplyOp_behind (s := toldOf s h x o) hs h0 hac hf hp hj hc] at he
      obtain ⟨h1, h2, h3, h4, h5, h6⟩ := healFetch_shows (s := toldOf s h x o) hecc hb
        (show (if k.toNat = siteCommit s + 1 then 2 else 3) < 4 by split <;> decide) (show k.toNat - siteCommit s < 256 by omega) k.toNat (decide (k.toNat = siteCommit s + 1))
      exact ⟨_, he, ⟨h1, h2, h3⟩, h4, h5, (congrArg JobSt.commit h6 :), (congrArg JobSt.phase h6 :)⟩
  case fetch =>
    refine ⟨fetchSettle_waits hf, fun hw hr => ?_⟩
    rw [fetchSettle_takes hf hw]
    exact takeRound_pushes s (hr.trans (by decide))

end Sys2Proof.Proofs

/-!
The gated mailbox commands (R405), and what JOB_END leaves (R406).
-/
namespace Sys2Proof.Proofs
open Sys2Proof.Machine Sys2Proof.Safety

/-! ### Gated commands (R405) -/

/-- The command of the mailbox, as MBX_CMD shows it. -/
def mbxGiven (s : State) (op len : Nat) : State := setN s R.MBX_CMD (op + len * 0x10000)

theorem regsKept_mbxGiven (s : State) (op len : Nat) : RegsKept s (mbxGiven s op len) [] [0x89] := regsKept_set (by decide)

theorem mbxCommand_given {s : State} (h : mbxOpen s = true) (op len : Nat) (gated : Bool) (f : List Byte → State → Nat × List Byte × State) :
    mbxCommand s op len gated f = mbxRun (mbxGiven s op len) len gated f := if_pos h

theorem gateOpen_mbxGiven (s : State) (op len : Nat) : gateOpen (mbxGiven s op len) = gateOpen s := flag_setN_ne _ _ _ (by decide)

/-- With the gate closed a gated command is refused, whatever its work. -/
theorem mbxCommand_gateClosed {s : State} (h : mbxOpen s = true) (hg : gateOpen s = false) (op len : Nat) (f : List Byte → State → Nat × List Byte × State) :
    mbxCommand s op len true f = mbxDone (mbxGiven s op len) cPOLICY [] := by
  rw [mbxCommand_given h, mbxRun, if_pos (by simp [gateOpen_mbxGiven, hg])]

/-- With the gate open its work answers. -/
theorem mbxCommand_gateOpen {s : State} (h : mbxOpen s = true) (hg : gateOpen s = true) (op : Nat) {len : Nat} (hl : len ≤ 2048)
    (f : List Byte → State → Nat × List Byte × State) : mbxCommand s op len true f =
      let r := f (mbxPayload (mbxGiven s op len) len) (mbxGiven s op len)
      mbxDone r.2.2 r.1 r.2.1 := by
  rw [mbxCommand_given h, mbxRun, if_neg (by simp [gateOpen_mbxGiven, hg]; omega)]

/-- An answer counts from MBX_DONE as it was before the work. -/
theorem mbxAnswered_from {s a u : State} {code : Nat} {resp : List Byte} (h : regN a R.MBX_DONE = regN s R.MBX_DONE) (ha : MbxAnswered a u code resp) :
    MbxAnswered s u code resp := by
  obtain ⟨h1, h2, h3, h4⟩ := ha
  exact ⟨h1, h2, h ▸ h3, h4⟩

/-- What a refused command leaves (R405): the answer, and nothing else changed. -/
theorem mbxRefused_leaves (s : State) (op len : Nat) : let u := mbxDone (mbxGiven s op len) cPOLICY []
    MbxAnswered s u cPOLICY [] ∧ RegsKept s u [] [0x80, 0x89] ∧ u = { s with regs := u.regs, irq := u.irq, sent := u.sent } := by
  refine ⟨mbxAnswered_from (regN_setN_ne s _ (by decide)) (mbxAnswered_done _ (by decide)), ?_, keptIrq_eq ?_⟩
  · exact regsKept_trans (regsKept_mono (regsKept_mbxGiven s op len) (by simp) (by simp)) (regsKept_mbxDone _ _ (by simp))
  · exact (keptIrq_of_onlyRegs (onlyRegs_setR s _ _)).trans (keptIrq_mbxDone _ _ _)

theorem effect_jobCreate {s : State} (hl : live s = true) (len : BitVec 12) :
    Effect (.jobCreate len) s (mbxCommand s 0x0010 len.toNat true createWork) := by
  rw [Effect, exec_jobCreate, execJobCreate, act_live hl]

theorem effect_jobEnd {s : State} (hl : live s = true) (len : BitVec 12) : Effect (.jobEnd len) s (mbxCommand s 0x0011 len.toNat true endWork) := by
  rw [Effect, exec_jobEnd, execJobEnd, act_live hl]

theorem effect_timeStep {s : State} (hl : live s = true) (len : BitVec 12) :
    Effect (.timeStep len) s (mbxCommand s 0x0020 len.toNat true timeStepWork) := by
  rw [Effect, exec_timeStep, execTimeStep, act_live hl]

theorem effect_fwStage {s : State} (hl : live s = true) (len : BitVec 12) : Effect (.fwStage len) s (mbxCommand s 0x0030 len.toNat true stageWork) := by
  rw [Effect, exec_fwStage, execFwStage, act_live hl]

/-- A gated command is a command of the mailbox. -/
theorem effect_gated {c : Instr} {s : State} {len : BitVec 12} (hl : live s = true) (hc : c = .jobCreate len ∨ c = .jobEnd len ∨ c = .timeStep len ∨ c = .fwStage len) :
    ∃ op f, Effect c s (mbxCommand s op len.toNat true f) := by
  obtain rfl | rfl | rfl | rfl := hc
  · exact ⟨_, _, effect_jobCreate hl len⟩
  · exact ⟨_, _, effect_jobEnd hl len⟩
  · exact ⟨_, _, effect_timeStep hl len⟩
  · exact ⟨_, _, effect_fwStage hl len⟩

/-! ### JOB_END (R406) -/

theorem regN_foldl_reset (l : List Nat) (s : State) (k : Nat) :
    regN (l.foldl (fun a k => setN a k (resetOf k)) s) k = if k ∈ l then resetOf k % 2 ^ 32 else regN s k := by
  induction l generalizing s with
  | nil => simp
  | cons j t ih =>
    rw [List.foldl_cons, ih, regN_setN]
    by_cases hk : k ∈ t
    · simp [hk]
    · by_cases hj : k = j <;> simp [hk, hj]

theorem onlyRegs_foldl_reset (l : List Nat) (s : State) : OnlyRegs s (l.foldl (fun a k => setN a k (resetOf k)) s) :=
  foldl_related (r := OnlyRegs) (fun _ => rfl) (fun _ _ _ h g => h.trans g) (fun _ _ => onlyRegs_setR _ _ _) l s

/-- The state without its job. -/
def jobless (s : State) : State := { s with job := {}, site := {}, hlth := scoreKept s.hlth }

theorem endJob_leaves (s : State) : OnlyRegs (jobless s) (endJob s) ∧ regN (endJob s) R.GLB_NODE = 0 := by
  refine ⟨onlyRegs_foldl_reset _ _, ?_⟩
  unfold endJob
  dsimp only
  rw [regN_foldl_reset, if_pos (by decide)]
  decide +kernel

theorem endWork_ends {s : State} (hh : s.job.held = true) (hp : s.job.commit ≤ s.job.pushed) (h0 : s.job.phase = 0) (b : List Byte) :
    endWork b s = (cSERVED, [], endJob s) := by
  have h1 : ¬(s.job.pushed < s.job.commit ∧ s.job.phase = 8) := by omega
  have h2 : ¬(1 ≤ s.job.phase ∧ s.job.phase ≤ 7) := by omega
  simp only [endWork, hh, Bool.not_true, Bool.false_eq_true, if_false, if_neg h1, if_neg h2]

end Sys2Proof.Proofs

/-!
TIME_STEP's step of the counter (R354, R355) and FW_STAGE of a configuration (R424).
-/
namespace Sys2Proof.Proofs
open Sys2Proof.Machine Sys2Proof.Safety

/-! ### TIME_STEP (R354, R355) -/

/-- A step of the bins of one module: the tick stays, and of the registers its page's event registers at most change. -/
def BinsStepped (md : Nat) (s u : State) : Prop := u.tick = s.tick ∧ RegsKept s u [] [0x80, pgLFRM md]

theorem BinsStepped.trans {md : Nat} {s u v : State} (h : BinsStepped md s u) (g : BinsStepped md u v) : BinsStepped md s v :=
  ⟨g.1.trans h.1, regsKept_trans h.2 g.2⟩

theorem binsStepped_putLine (md : Nat) (s : State) (i : Nat) (m : LineMod) : BinsStepped md s (putLine s i m) := ⟨rfl, regsKept_of_regs rfl _ _⟩

theorem binsStepped_eventIf {md : Nat} (h : md < 2) (s : State) (b : Bool) (k : Nat) : BinsStepped md s (eventIf s b (pgLFRM md) k) := by
  refine ⟨eventIf_tick s b _ k, ?_⟩
  unfold eventIf
  split
  · exact regsKept_event_page s k (by unfold pgLFRM; omega)
  · exact regsKept_refl _ _ _

theorem binsStepped_classifySec {md : Nat} (h : md < 2) (s : State) : BinsStepped md s (classifySec s md) :=
  (binsStepped_putLine md s _ _).trans ((binsStepped_eventIf h _ _ _).trans (binsStepped_eventIf h _ _ _))

theorem binsStepped_pmStep {md : Nat} (h : md < 2) (now : Nat) (s : State) : BinsStepped md s (pmStep now s md) := by
  have h1 := foldl_related (r := BinsStepped md) (fun s => ⟨rfl, regsKept_refl s _ _⟩) (fun _ _ _ h g => h.trans g)
    (f := fun a x => classifySec (putLine a md { lineMod a md with pm := { (lineMod a md).pm with next := x.sec } }) md)
    (fun a _ => (binsStepped_putLine md a _ _).trans (binsStepped_classifySec h _)) (lineMod s md).pm.secs s
  exact h1.trans ((binsStepped_putLine md _ _ _).trans ((binsStepped_eventIf h _ _ _).trans (binsStepped_eventIf h _ _ _)))

/-- The counter and its follower at a step's target, the pulses under way ending as much later (R354, R366). -/
def counterTaken (s : State) (x : Nat) : State :=
  let shift (q : Pulse) : Pulse := { q with fall := q.fall.bind (fun t => if s.tick.counter < t then some (x + (t - s.tick.counter)) else none) }
  { s with tick := { s.tick with counter := x, follower := x }, time := { s.time with pulses := s.time.pulses.map shift } }

/-- The tick is held until the counter has caught up (R42). -/
def tickHeld (s : State) : State := { s with tick := { s.tick with held := true } }

/-- A step within the tick reaches no boundary; a step back holds the tick (R42). -/
theorem stepCounter_within {s : State} {x : Nat} (h : x / tickUnit ≤ s.tick.now) : stepCounter s x =
    let s1 := event (bump (counterTaken s x) R.TIME_STEPS) 0x78 1
    (none, if x < s.tick.counter ∧ s.tick.held = false then event (tickHeld s1) 0x01 2 else s1) := by
  unfold stepCounter
  dsimp only
  rw [if_neg (Nat.not_lt.2 h)]
  split <;> rfl

theorem regsKept_counted (s : State) (x : Nat) :
    RegsKept (bump s R.TIME_STEPS) (event (bump (counterTaken s x) R.TIME_STEPS) 0x78 1) (evtKeys 0x78) [0x80, 0x01] := by
  have h : (bump (counterTaken s x) R.TIME_STEPS).regs = (bump s R.TIME_STEPS).regs := rfl
  exact regsKept_trans (regsKept_of_regs h _ _) (regsKept_mono (regsKept_event _ _ _) (by decide) (by decide))

/-- What a step within the tick leaves of the tick and of the registers. -/
theorem stepCounter_leaves {s : State} {x : Nat} (h : x / tickUnit ≤ s.tick.now) : let a := (stepCounter s x).2
    (stepCounter s x).1 = none ∧ a.tick.counter = x ∧ a.tick.follower = x ∧ a.tick.now = s.tick.now ∧
      RegsKept (bump s R.TIME_STEPS) a (evtKeys 0x78) [0x80, 0x01] := by
  have ht : (event (bump (counterTaken s x) R.TIME_STEPS) 0x78 1).tick = (counterTaken s x).tick := event_tick _ _ _
  have hk := regsKept_counted s x
  rw [stepCounter_within h]
  generalize event (bump (counterTaken s x) R.TIME_STEPS) 0x78 1 = s1 at ht hk
  dsimp only
  split
  · have h1 : RegsKept s1 (tickHeld s1) [] [] := regsKept_of_regs rfl _ _
    have h2 : RegsKept (tickHeld s1) (event (tickHeld s1) 0x01 2) [] [0x80, 0x01] := regsKept_event_page _ 2 (by decide)
    have h3 : (tickHeld s1).tick = { s1.tick with held := true } := rfl
    rw [event_tick, h3, ht]
    exact ⟨rfl, rfl, rfl, rfl, regsKept_trans hk (regsKept_mono (regsKept_trans (regsKept_mono h1 (by simp) (by simp)) h2) (by simp) (by simp))⟩
  · rw [ht]
    exact ⟨rfl, rfl, rfl, rfl, hk⟩

/-- A step that reaches no boundary steps the bins of both modules. -/
theorem stepTo_stays {s a : State} {x : Nat} (h : stepCounter s x = (none, a)) : stepTo s x = pmStep (secOf x) (pmStep (secOf x) a 0) 1 := by
  have hr : List.range 2 = [0, 1] := rfl
  simp only [stepTo, h, hr, List.foldl_cons, List.foldl_nil]

/-- A step that stays within the tick, as the counter and the registers show it. -/
theorem stepTo_within {s : State} {x : Nat} (h : x / tickUnit ≤ s.tick.now) : let u := stepTo s x
    u.tick.counter = x ∧ u.tick.follower = x ∧ u.tick.now = s.tick.now ∧ RegsKept (bump s R.TIME_STEPS) u (evtKeys 0x78) [0x80, 0x01, 0x60, 0x61] := by
  obtain ⟨hb, hc, hf, hn, hk⟩ := stepCounter_leaves h
  rw [stepTo_stays (a := (stepCounter s x).2) (by rw [← hb])]
  generalize (stepCounter s x).2 = a at hc hf hn hk
  obtain ⟨t0, k0⟩ := binsStepped_pmStep (show 0 < 2 by decide) (secOf x) a
  obtain ⟨t1, k1⟩ := binsStepped_pmStep (show 1 < 2 by decide) (secOf x) (pmStep (secOf x) a 0)
  have ht : (pmStep (secOf x) (pmStep (secOf x) a 0) 1).tick = a.tick := t1.trans t0
  refine ⟨by rw [ht, hc], by rw [ht, hf], by rw [ht, hn], regsKept_trans (regsKept_mono hk (by decide) (by decide)) ?_⟩
  exact regsKept_trans (regsKept_mono k0 (by decide) (by decide)) (regsKept_mono k1 (by decide) (by decide))

/-- With no cycles passed, a SET is a step to TIME_ADJ. -/
theorem setTimeOp_now (s : State) : setTimeOp s .core 0 = setStepTo s (adjSec s) (adjNs s) := by
  have he : elapse s 0 = s := by simp [elapse, passCycles]
  have hw : mayWrite s .core R.TIME_ADJ_CMD = true := (mayWrite_core (by decide)).2 (Option.isSome_iff_exists.1 (by decide +kernel))
  simp only [setTimeOp, he, hw, if_true]

theorem setStepTo_now (s : State) (sec : Nat) {ns : Nat} (h : ns ≤ 999999999) : setStepTo s sec ns = stepTo s ((sec * 1000000000 + ns) * nsUnit) :=
  if_neg (Nat.not_lt.2 h)

/-- TIME_ADJ given seconds and nanoseconds. -/
def timeAdjusted (s : State) (sec ns : Nat) : State := set64 (setN s R.TIME_ADJ_NS ns) R.TIME_ADJ_SEC_LO R.TIME_ADJ_SEC_HI sec

theorem adj_timeAdjusted (s : State) {sec ns : Nat} (h : sec < 2 ^ 64) (hn : ns < 2 ^ 32) :
    adjSec (timeAdjusted s sec ns) = sec ∧ adjNs (timeAdjusted s sec ns) = ns := by
  unfold adjSec adjNs timeAdjusted reg64 set64
  rw [regN_setN_self, regN_setN_ne _ _ (by decide), regN_setN_self, regN_setN_ne _ _ (by decide), regN_setN_ne _ _ (by decide), regN_setN_self]
  omega

theorem regsKept_timeAdjusted (s : State) (sec ns : Nat) : RegsKept s (timeAdjusted s sec ns) [R.TIME_ADJ_NS, R.TIME_ADJ_SEC_LO, R.TIME_ADJ_SEC_HI] [] := by
  refine regsKept_trans (u := setN s R.TIME_ADJ_NS ns) (regsKept_mono (regsKept_setN s _ _) (by decide) (by decide)) ?_
  refine regsKept_trans (u := setN (setN s R.TIME_ADJ_NS ns) R.TIME_ADJ_SEC_LO sec) (regsKept_mono (regsKept_setN _ _ _) (by decide) (by decide)) ?_
  exact regsKept_mono (regsKept_setN _ _ _) (by decide) (by decide)

/-- A SET between rounds is a step to its seconds and nanoseconds. -/
theorem timeStepWork_set {s : State} {b : List Byte} (hm : midRound s = false) (hc : leAt b 0 1 = 1) (hn : leAt b 4 4 ≤ 999999999) (hs : leAt b 8 8 < 2 ^ 64) {x : Nat}
    (hx : (leAt b 8 8 * 1000000000 + leAt b 4 4) * nsUnit = x) : timeStepWork b s = (cSERVED, [], stepTo (timeAdjusted s (leAt b 8 8) (leAt b 4 4)) x) := by
  obtain ⟨h1, h2⟩ := adj_timeAdjusted s hs (show leAt b 4 4 < 2 ^ 32 by omega)
  have hw : timeStepWork b s = (cSERVED, [], setTimeOp (timeAdjusted s (leAt b 8 8) (leAt b 4 4)) .core 0) := by
    unfold timeStepWork
    dsimp only
    rw [hm, hc, if_neg (by decide), if_pos rfl, timeAdjusted]
  rw [hw, setTimeOp_now, h1, h2, setStepTo_now _ _ hn, hx]

/-- What a step past a new TIME_ADJ leaves where it stays within the tick. -/
theorem stepTo_adjusted (s : State) (sec ns : Nat) {x : Nat} (hx : x / tickUnit ≤ s.tick.now) : let u := stepTo (timeAdjusted s sec ns) x
    u.tick.counter = x ∧ u.tick.follower = x ∧ u.tick.now = s.tick.now ∧ regN u R.TIME_STEPS = min 0xFFFFFFFF (regN s R.TIME_STEPS + 1) ∧
      regN u R.MBX_DONE = regN s R.MBX_DONE := by
  have hk := regsKept_timeAdjusted s sec ns
  obtain ⟨hcnt, hf, hnow, hr⟩ := stepTo_within (s := timeAdjusted s sec ns) hx
  refine ⟨hcnt, hf, hnow, ?_, ?_⟩
  · rw [regN_of_kept hr (by decide) (by decide), regN_bump_self, regN_of_kept hk (by decide) (by decide)]
  · rw [regN_of_kept hr (by decide) (by decide), bump, bumpBy, regN_setN_ne _ _ (by decide), regN_of_kept hk (by decide) (by decide)]

theorem timeStepWork_midRound {s : State} (hm : midRound s = true) (b : List Byte) : timeStepWork b s = (cPOLICY, [], s) := by
  simp [timeStepWork, hm]

/-! ### FW_STAGE (R424) -/

/-- The configuration waits as the spare, and counts from then on. -/
def cfgStaged (s : State) (g : SignedCfg) : State := modSec s (fun c => { c with spare := some g, cfgCount := g.seq })

theorem stageImage_cfg {s : State} {b : List Byte} {g : SignedCfg} (hh : headerOk b s.sec.floor = true) (hk : leAt b 4 1 = 3)
    (hv : hssVerify (ownerKey s) (b.take (64 + leAt b 16 4)) (b.drop (64 + leAt b 16 4)) = true)
    (hp : parseCfg ((b.take (64 + leAt b 16 4)).drop 64) = some g) (hs : s.sec.cfgCount < g.seq) : stageImage s b 1 = some (cfgStaged s g) := by
  simp only [stageImage, hh, Bool.not_true, Bool.false_eq_true, if_false, Nat.one_ne_zero, hk, hv, and_self, if_true, hp, if_pos hs]
  rfl

/-- An owner's configuration read whole and verified is staged, and SEC_STAGE and BLK_EVT.STAGED show it. -/
theorem stageOp_stages {s : State} {p : List Byte} {k : Nat} {g : SignedCfg} (he : s.store.ecc = []) (h1 : leAt p 12 1 = 1) (hn : 64 ≤ leAt p 8 4)
    (hw : (cxlWin s).any (fun r => decide (r.lbase ≤ leAt p 0 8) && decide (leAt p 0 8 + leAt p 8 4 ≤ r.lbase + r.len)) = true)
    (hk : resolveCore s (leAt p 0 8) (leAt p 8 4) = some k) (hi : stageImage s (rawRead s k (leAt p 8 4)) 1 = some (cfgStaged s g)) :
    stageOp s p = (cSERVED, event (setN (cfgStaged s g) R.SEC_STAGE 6) pgSEC 3) := by
  have hr := coreRead_clean hk (eccWords_none he k (leAt p 8 4))
  have hc : ¬((!(cxlWin s).any (fun r => decide (r.lbase ≤ leAt p 0 8) && decide (leAt p 0 8 + leAt p 8 4 ≤ r.lbase + r.len))) = true ∨ leAt p 8 4 < 64) := by
    rw [hw]; simp; omega
  unfold stageOp
  dsimp only
  rw [if_neg hc, hr, h1]
  dsimp only
  rw [hi]
  rfl

theorem staged_shows (s : State) (g : SignedCfg) : let u := event (setN (cfgStaged s g) R.SEC_STAGE 6) pgSEC 3
    fld u R.SEC_STAGE 1 0 = 2 ∧ flag u (hdr pgSEC oEVT) 3 = true ∧ regN u R.MBX_DONE = regN s R.MBX_DONE := by
  have hk := regsKept_event (setN (cfgStaged s g) R.SEC_STAGE 6) pgSEC 3
  refine ⟨?_, flag_event_self _ _ _ (by decide), ?_⟩
  · rw [fld, regN_of_kept hk (by decide) (by decide), regN_setN_self]
    decide
  · rw [regN_of_kept hk (by decide) (by decide), regN_setN_ne _ _ (by decide)]
    rfl

end Sys2Proof.Proofs

/-!
What a job's start leaves alone: storage, the SEAL master, the groups (R210, R406, R428).
-/
namespace Sys2Proof.Proofs
open Sys2Proof.Machine Sys2Proof.Safety

/-! ### What a job's start leaves of the tick, the regions and the streams (R406) -/

/-- The regions, the streams and the tick are kept, and the job where no round is in progress. -/
structure RunKept (s u : State) : Prop where
  regn : u.regn = s.regn
  strm : u.strm = s.strm
  tick : u.tick = s.tick
  job : s.job.phase = 0 → u.job = s.job

theorem RunKept.refl (s : State) : RunKept s s := ⟨rfl, rfl, rfl, fun _ => rfl⟩

theorem RunKept.trans {s u v : State} (h : RunKept s u) (g : RunKept u v) : RunKept s v :=
  ⟨g.regn.trans h.regn, g.strm.trans h.strm, g.tick.trans h.tick, fun hp => (g.job (by rw [h.job hp, hp])).trans (h.job hp)⟩

/-- Between rounds: they are kept while no round is in progress and the job does not hold, and the groups' unit where it has no group. -/
def IdleKept (s u : State) : Prop :=
  s.job.phase = 0 → s.job.holding = false → RunKept s u ∧ (s.coll.groups = [] → u.coll = s.coll)

theorem IdleKept.trans {s u v : State} (h : IdleKept s u) (g : IdleKept u v) : IdleKept s v := by
  intro hp hh
  obtain ⟨h1, h2⟩ := h hp hh
  obtain ⟨g1, g2⟩ := g (by rw [h1.job hp, hp]) (by rw [h1.job hp, hh])
  exact ⟨h1.trans g1, fun he => (g2 (by rw [h2 he, he])).trans (h2 he)⟩

theorem IdleKept.of_fields {s u : State} (hj : u.job = s.job) (hr : u.regn = s.regn) (hs : u.strm = s.strm) (ht : u.tick = s.tick) (hc : u.coll = s.coll) :
    IdleKept s u := fun _ _ => ⟨⟨hr, hs, ht, fun _ => hj⟩, fun _ => hc⟩

theorem IdleKept.refl (s : State) : IdleKept s s := .of_fields rfl rfl rfl rfl rfl

theorem idleKept_of_flt {s u : State} (h : KeptFlt s u) : IdleKept s u := .of_fields h.job h.regn h.strm h.tick h.coll

theorem idleKept_of_irq {s u : State} (h : KeptIrq s u) : IdleKept s u := idleKept_of_flt (.ofIrq h)

theorem OnlyRegs.idle {s u : State} (h : OnlyRegs s u) : IdleKept s u := idleKept_of_irq (keptIrq_of_onlyRegs h)

theorem OnlySent.idle {s u : State} (h : OnlySent s u) : IdleKept s u := by
  rw [h]
  exact .of_fields rfl rfl rfl rfl rfl

/-! ### Reads and writes of storage between rounds -/

/-- What a storage error met, or its repair, leaves: also the groups' unit and the site's state. -/
structure StoreKept (s u : State) : Prop extends RunKept s u where
  coll : u.coll = s.coll
  site : u.site = s.site

theorem StoreKept.of_fields {s u : State} (hj : u.job = s.job) (hr : u.regn = s.regn) (hs : u.strm = s.strm) (ht : u.tick = s.tick) (hc : u.coll = s.coll)
    (hx : u.site = s.site) : StoreKept s u := ⟨⟨hr, hs, ht, fun _ => hj⟩, hc, hx⟩

theorem StoreKept.refl (s : State) : StoreKept s s := .of_fields rfl rfl rfl rfl rfl rfl

theorem StoreKept.trans {s u v : State} (h : StoreKept s u) (g : StoreKept u v) : StoreKept s v :=
  ⟨h.toRunKept.trans g.toRunKept, g.coll.trans h.coll, g.site.trans h.site⟩

theorem StoreKept.idle {s u : State} (h : StoreKept s u) : IdleKept s u := fun _ _ => ⟨h.toRunKept, fun _ => h.coll⟩

theorem storeKept_of_flt {s u : State} (h : KeptFlt s u) : StoreKept s u := .of_fields h.job h.regn h.strm h.tick h.coll h.site

theorem storeKept_eccClear (s : State) (w : Nat) : StoreKept s (eccClear s w) := .of_fields rfl rfl rfl rfl rfl rfl

theorem storeKept_rawWrite (s : State) (k : Nat) (bs : List Byte) : StoreKept s (rawWrite s k bs) := .of_fields rfl rfl rfl rfl rfl rfl

theorem storeKept_emit (s : State) (o : Out) : StoreKept s (emit s o) := .of_fields rfl rfl rfl rfl rfl rfl

theorem storeKept_hlth (s : State) (x : HlthSt) : StoreKept s { s with hlth := x } := .of_fields rfl rfl rfl rfl rfl rfl

theorem storeKept_flagAbort (s : State) (round : Nat) (holds : Bool) : StoreKept s (flagAbort s round holds) := by
  unfold flagAbort
  split
  · next h => exact ⟨⟨rfl, rfl, rfl, fun hp => by omega⟩, rfl, rfl⟩
  · exact StoreKept.refl s

theorem storeKept_ueConsequence (s : State) (k : Nat) : StoreKept s (ueConsequence s k) := by
  unfold ueConsequence
  split
  · split
    · exact (storeKept_hlth s _).trans (storeKept_flagAbort _ _ _)
    · split
      · exact .of_fields rfl rfl rfl rfl rfl rfl
      · split
        · exact storeKept_flagAbort _ _ _
        · exact StoreKept.refl s
  · exact StoreKept.refl s

theorem storeKept_eccRaise (s : State) (k : Nat) (ue scrub : Bool) : StoreKept s (eccRaise s k ue scrub) := by
  have h : StoreKept s (raise (noteEcc s k ue scrub) (eccFault k ue).1 (eccFault k ue).2.1 0 (eccFault k ue).2.2) :=
    storeKept_of_flt (KeptFlt.trans (KeptFlt.noteEcc s k ue scrub) (KeptFlt.raise _ _ _ _ _))
  unfold eccRaise
  dsimp only
  split
  · exact h.trans (storeKept_ueConsequence _ _)
  · exact h

theorem storeKept_meetErrors : ∀ (l : List (Nat × EccKind)) (s : State), StoreKept s (meetErrors l s)
  | [], s => StoreKept.refl s
  | (w, .ce) :: t, s => (storeKept_eccClear s w).trans ((storeKept_eccRaise _ w false false).trans (storeKept_meetErrors t _))
  | (_, .ue) :: t, s => (storeKept_eccRaise s _ _ _).trans (storeKept_meetErrors t _)

theorem storeKept_foldl {α : Type} {f : State → α → State} (hf : ∀ s x, StoreKept s (f s x)) (l : List α) (s : State) : StoreKept s (l.foldl f s) :=
  foldl_related (r := StoreKept) StoreKept.refl (fun _ _ _ h g => h.trans g) hf l s

theorem storeKept_storeWrite (s : State) (k : Nat) (bs : List Byte) : StoreKept s (storeWrite s k bs).2 := by
  unfold storeWrite
  dsimp only
  refine StoreKept.trans ?_ (storeKept_foldl (fun _ _ => storeKept_rawWrite _ _ _) _ _)
  refine StoreKept.trans ?_ (storeKept_rawWrite _ k bs)
  exact (storeKept_meetErrors _ s).trans (storeKept_foldl (fun _ _ => storeKept_eccClear _ _) _ _)

theorem storeKept_storeRead (s : State) (k n : Nat) : StoreKept s (storeRead s k n).2 := by
  unfold storeRead
  dsimp only
  split <;> exact storeKept_meetErrors _ s

theorem storeKept_hwRead (s : State) (a n : Nat) : StoreKept s (hwRead s a n).2 := by
  unfold hwRead
  split
  · exact storeKept_storeRead _ _ _
  · exact StoreKept.refl s

theorem storeKept_coreWrite (s : State) (a : Nat) (bs : List Byte) : StoreKept s (coreWrite s a bs) := by
  unfold coreWrite
  split
  · exact storeKept_storeWrite _ _ _
  · exact StoreKept.refl s

theorem storeKept_writeParts0 : ∀ (l : List (Nat × Nat)) (bs : List Byte) (s : State), StoreKept s (writeParts0 l bs s)
  | [], _, s => StoreKept.refl s
  | (a, n) :: t, bs, s => (storeKept_coreWrite s a (bs.take n)).trans (storeKept_writeParts0 t (bs.drop n) _)

theorem storeKept_zeroResidual (s : State) (n : Nat) : StoreKept s (zeroResidual s n) := by
  unfold zeroResidual
  split
  · exact storeKept_writeParts0 _ _ _
  · exact StoreKept.refl s

/-! ### The SEAL master of a job (R428) -/

theorem storeKept_sealInstall (s : State) (k : Nat) (key : List Byte) (start : Nat) : StoreKept s (sealInstall s k key start).2 := by
  unfold sealInstall
  dsimp only
  split
  · exact StoreKept.refl s
  · split
    · exact StoreKept.refl s
    · split <;> exact .of_fields rfl rfl rfl rfl rfl rfl

theorem storeKept_installSeals (s : State) (master : List Byte) : StoreKept s (installSeals s master) :=
  storeKept_foldl (fun a k => StoreKept.trans (u := { a with ciph := { a.ciph with seals := mapDel a.ciph.seals k } })
    (.of_fields rfl rfl rfl rfl rfl rfl) (storeKept_sealInstall _ _ _ _)) _ _

theorem storeKept_drawMaster (s : State) (t : SiteTab) : StoreKept s (drawMaster s t) := by
  have h0 : StoreKept s (drawBytes s 32).2 := .of_fields rfl rfl rfl rfl rfl rfl
  have hm (a : State) (m : List Byte) : StoreKept a (sealMasterOp a m) :=
    StoreKept.trans (u := modSec a (fun c => { c with master := some (sliceBytes m 0 32) })) (.of_fields rfl rfl rfl rfl rfl rfl) (storeKept_installSeals _ _)
  unfold drawMaster
  split
  · refine StoreKept.trans ?_ (hm _ _)
    refine StoreKept.trans ?_ (storeKept_foldl (fun _ _ => storeKept_foldl (fun _ _ => storeKept_emit _ _) _ _) _ _)
    exact h0.trans (storeKept_foldl (fun _ _ => storeKept_emit _ _) _ _)
  · exact StoreKept.refl s

/-! ### Groups reloaded between rounds (R210) -/

theorem runKept_of_irq {s u : State} (h : KeptIrq s u) : RunKept s u := ⟨h.regn, h.strm, h.tick, fun _ => h.job⟩

theorem runKept_answerGroup (s : State) (code level member : Nat) : RunKept s (answerGroup s code level member) :=
  RunKept.trans (u := setN s R.GRP_RES (code * 16 + level * 0x100 + member * 0x800)) ⟨rfl, rfl, rfl, fun _ => rfl⟩ (runKept_of_irq (KeptIrq.event _ _ _))

theorem runKept_readNodes (s : State) (nodes : List Nat) : RunKept s (readNodes s nodes) := by
  refine foldl_related (r := RunKept) RunKept.refl (fun _ _ _ h g => h.trans g) (fun a nd => ?_) nodes s
  have h : RunKept a (met a (nodeAddr a nd) 128) := (storeKept_hwRead a _ _).toRunKept
  dsimp only
  split <;> exact h.trans ⟨rfl, rfl, rfl, fun _ => rfl⟩

theorem storeKept_readGroup (s : State) (g : Nat) : StoreKept s (readGroup s g).2 := by
  have h1 : StoreKept s (if inKind s 9 (reg64 s R.GRP_BASE_LO R.GRP_BASE_HI + 64 * g) 64 then hwRead s (reg64 s R.GRP_BASE_LO R.GRP_BASE_HI + 64 * g) 64 else (none, s)).2 := by
    split
    · exact storeKept_hwRead _ _ _
    · exact StoreKept.refl s
  unfold readGroup
  dsimp only
  split
  · next x s1 he => rw [he] at h1; exact h1
  · next b s1 he =>
    rw [he] at h1
    split
    · exact h1
    · have h2 := storeKept_hwRead s1 (leAt b 0x10 8) (16 * (leAt b 8 4 % 2 ^ 17))
      split
      · next s2 he2 => rw [he2] at h2; exact h1.trans h2
      · next l s2 he2 => rw [he2] at h2; exact h1.trans h2

theorem runKept_groupEnableOp (s : State) (g : Nat) (reload : Bool) : RunKept s (groupEnableOp s g reload) := by
  have h1 : RunKept s (if inRun s pgCOLL then readGroup s g else (none, s)).2 := by
    split
    · exact (storeKept_readGroup s g).toRunKept
    · exact RunKept.refl s
  unfold groupEnableOp
  split
  · next s1 he => rw [he] at h1; exact h1.trans (runKept_answerGroup _ _ _ _)
  · next x s1 he =>
    rw [he] at h1
    refine h1.trans ?_
    split
    · exact runKept_answerGroup _ _ _ _
    · split
      · exact runKept_answerGroup _ _ _ _
      · split
        · exact runKept_answerGroup _ _ _ _
        · split
          · exact runKept_answerGroup _ _ _ _
          · have hp : RunKept s1 (putGroup s1 g x) := ⟨rfl, rfl, rfl, fun _ => rfl⟩
            exact hp.trans ((runKept_readNodes _ _).trans (runKept_answerGroup _ _ _ _))

theorem runKept_reloadGroup (epoch : Nat) (inView : Nat → Bool) (swaps : List (Nat × Nat)) (s : State) (e : Nat × Group) :
    RunKept s (reloadGroup epoch inView swaps s e) := by
  unfold reloadGroup
  dsimp only
  split
  · exact RunKept.refl s
  · split
    · exact RunKept.refl s
    · refine RunKept.trans ?_ (runKept_groupEnableOp _ _ _)
      exact ((storeKept_coreWrite s _ _).trans (storeKept_foldl (fun _ _ => storeKept_coreWrite _ _ _) _ _)).toRunKept

/-- The groups reloaded for a view: none where there is none. -/
theorem idleKept_reload (epoch : Nat) (inView : Nat → Bool) (swaps : List (Nat × Nat)) (s : State) :
    IdleKept s (s.coll.groups.foldl (reloadGroup epoch inView swaps) s) := by
  intro _ _
  refine ⟨foldl_related (r := RunKept) RunKept.refl (fun _ _ _ h g => h.trans g) (runKept_reloadGroup epoch inView swaps) _ s, fun he => ?_⟩
  rw [he]
  rfl

/-! ### A view installed between rounds (R326, R327) -/

theorem idleKept_site (s : State) (x : SiteSt) : IdleKept s { s with site := x } := .of_fields rfl rfl rfl rfl rfl

theorem idleKept_hold (s : State) {b : Bool} (h : s.job.holding = false → b = false) : IdleKept s { s with job := { s.job with holding := b } } := by
  intro _ hh
  have e : ({ s with job := { s.job with holding := b } } : State) = s := by
    rw [h hh, ← hh]
  exact e ▸ IdleKept.refl s ‹_› hh

end Sys2Proof.Proofs

/-!
The first view of a job (R326, R327) and the job that JOB_CREATE starts (R406).
-/
namespace Sys2Proof.Proofs
open Sys2Proof.Machine Sys2Proof.Safety

theorem idleKept_modSite (s : State) (f : SiteSt → SiteSt) : IdleKept s (modSite s f) := idleKept_site s _

theorem idleKept_setSite (s : State) (k : Nat) : IdleKept s (setSite s k) := OnlyRegs.idle (onlyRegs_setR s _ _)

theorem idleKept_postNotice (s : State) (code round : Nat) : IdleKept s (postNotice s code round) := idleKept_of_irq (keptIrq_postNotice s code round)

theorem idleKept_event (s : State) (page k : Nat) : IdleKept s (event s page k) := idleKept_of_irq (KeptIrq.event _ page k)

theorem idleKept_setN (s : State) (k v : Nat) : IdleKept s (setN s k v) := OnlyRegs.idle (onlyRegs_setR s _ _)

/-- What is done only while a round is in progress is not done between rounds. -/
theorem idleKept_ifRound {s u : State} {b : Prop} [Decidable b] (h : s.job.phase = 0 → ¬b) : IdleKept s (if b then u else s) := by
  intro hp hh
  rw [if_neg (h hp)]
  exact IdleKept.refl s hp hh

/-- A view that replaces no node and commits no round. -/
theorem idleKept_viewNow {v : ViewMsg} (s : State) (t : SiteTab) (hw : v.swaps = []) (hd : v.decided = none) : IdleKept s (viewNow s t v) := by
  have hs (a : State) : admitSwaps (v.swaps.foldl (fun a w => swapNode a w.1 w.2) a) v.swaps = a := by
    rw [hw]
    simp [admitSwaps]
  unfold viewNow
  dsimp only
  rw [hd, hs]
  refine IdleKept.trans ?_ (idleKept_setSite _ _)
  refine IdleKept.trans ?_ (idleKept_hold _ ?_)
  · refine IdleKept.trans ?_ (idleKept_modSite _ _)
    refine IdleKept.trans ?_ (idleKept_reload _ _ _ _)
    refine IdleKept.trans ?_ (idleKept_ifRound fun hp => by simp [hp])
    refine IdleKept.trans ?_ (idleKept_postNotice _ _ _)
    refine IdleKept.trans ?_ (idleKept_event _ _ _)
    exact (idleKept_setN _ _ _).trans ((idleKept_setN _ _ _).trans ((idleKept_setN _ _ _).trans (idleKept_setN _ _ _)))
  · intro h
    split
    · rfl
    · exact h

theorem idleKept_dip (s : State) : IdleKept s (dip s) := by
  unfold dip
  split
  · exact IdleKept.refl s
  · dsimp only
    generalize ha : postNotice _ _ _ = a
    have h1 : IdleKept s a := by
      rw [← ha]
      refine IdleKept.trans ?_ (idleKept_postNotice _ _ _)
      refine IdleKept.trans ?_ (idleKept_event _ _ _)
      exact (idleKept_of_flt (KeptFlt.raise _ _ _ _ _)).trans ((idleKept_setSite _ _).trans (idleKept_setN _ _ _))
    refine h1.trans ?_
    · intro hp hh
      have hm : (decide (1 ≤ a.job.phase) && decide (a.job.phase ≤ 7)) = false := by simp [hp]
      rw [hm]
      refine IdleKept.trans ?_ (idleKept_site _ _) hp hh
      refine IdleKept.trans ?_ (idleKept_hold _ (by simp))
      rw [if_neg (c := false = true ∧ _) (fun h => Bool.false_ne_true h.1)]
      split
      · exact OnlyRegs.idle (onlyRegs_setR _ _ _)
      · exact IdleKept.refl _

theorem idleKept_viewOp {v : ViewMsg} (s : State) (t : SiteTab) (hw : v.swaps = []) (hd : v.decided = none) : IdleKept s (viewOp s t v) := by
  unfold viewOp
  split
  · exact idleKept_event _ _ _
  · split
    · exact IdleKept.refl s
    · split
      · exact idleKept_dip s
      · dsimp only
        split
        · exact idleKept_modSite _ _
        · exact idleKept_viewNow s t hw hd

theorem idleKept_sendAll (l : List Nat) (s : State) (t : SiteTab) (kind : MsgKind) (fields : List Nat) :
    IdleKept s (l.foldl (fun a i => siteSend a t kind fields i) s) := OnlySent.idle (onlySent_sendAll l s t kind fields)

/-- A view proposed installs at once where the joins suffice; with nothing accepted it commits no round. -/
theorem idleKept_tryInstall (s : State) (t : SiteTab) (hw : s.site.swaps = []) (hp : ∀ p, s.site.prop = some p → ∀ j ∈ p.joins, j.2.2 = none) :
    IdleKept s (tryInstall s t) := by
  unfold tryInstall
  split
  · exact IdleKept.refl s
  · next p he =>
    have hn : (p.joins.filter (fun j => bitOf p.view j.1)).filterMap (·.2.2) = [] :=
      List.filterMap_eq_nil_iff.2 fun j hj => hp p he j (List.mem_of_mem_filter hj)
    dsimp only
    split
    · exact IdleKept.refl s
    · rw [hn]
      refine IdleKept.trans ?_ (idleKept_viewOp _ t hw rfl)
      refine IdleKept.trans ?_ (OnlySent.idle (onlySent_siteTell _ _ _ _))
      exact (idleKept_modSite _ _).trans (idleKept_sendAll _ _ _ _ _)

/-- The sites of the view are asked first. -/
theorem idleKept_tryInstall_sent {s a : State} (h : OnlySent s a) (t : SiteTab) (hw : s.site.swaps = [])
    (hp : ∀ p, s.site.prop = some p → ∀ j ∈ p.joins, j.2.2 = none) : IdleKept s (tryInstall a t) := by
  have h1 : a.site.swaps = s.site.swaps := congrArg (·.site.swaps) h
  have h2 : a.site.prop = s.site.prop := congrArg (·.site.prop) h
  exact (OnlySent.idle h).trans (idleKept_tryInstall a t (h1.trans hw) (h2 ▸ hp))

theorem idleKept_propose (s : State) (t : SiteTab) (view : Nat) (hw : s.site.swaps = []) (ha : s.site.accepted = none) : IdleKept s (propose s t view) := by
  unfold propose
  dsimp only
  refine (idleKept_modSite s _).trans (idleKept_tryInstall_sent (onlySent_sendAll _ _ _ _ _) t hw ?_)
  intro p hp j hj
  cases hp
  rw [List.mem_singleton.1 hj]
  exact ha

/-- A site with nothing accepted and no node to replace proposes its view, or waits. -/
theorem idleKept_proposeIf (s : State) (hw : s.site.swaps = []) (ha : s.site.accepted = none) : IdleKept s (proposeIf s) := by
  unfold proposeIf
  split
  · exact IdleKept.refl s
  · split
    · exact idleKept_modSite _ _
    · split
      · exact IdleKept.refl s
      · split
        · exact idleKept_propose s _ _ hw ha
        · split
          · exact idleKept_modSite _ _
          · exact IdleKept.refl s

/-! ### JOB_CREATE (R17, R406) -/

theorem onlyRegs_foldl {α : Type} {f : State → α → State} (hf : ∀ s x, OnlyRegs s (f s x)) (l : List α) (s : State) : OnlyRegs s (l.foldl f s) :=
  foldl_related (r := OnlyRegs) (fun _ => rfl) (fun _ _ _ h g => h.trans g) hf l s

theorem onlyRegs_showRole (s : State) : OnlyRegs s (showRole s) := by
  unfold showRole
  dsimp only
  refine OnlyRegs.trans ?_ (onlyRegs_foldl (fun a i => ?_) _ _)
  · split
    · exact OnlyRegs.trans (onlyRegs_setR _ _ _) (onlyRegs_setR _ _ _)
    · exact OnlyRegs.trans (onlyRegs_setR _ _ _) (onlyRegs_setR _ _ _)
  · split <;> exact onlyRegs_setR _ _ _

/-- The job that JOB_CREATE holds: its first round one after the last commit it shows. -/
def jobStarted (id ocr siteA protA node first : Nat) : JobSt :=
  { held := true, id := id, ocr := ocr, siteTab := siteA, protTab := protA, node := node, first := first, commit := first - 1, pushed := first - 1, round := first - 1 }

/-- The state of a start as its registers are about to show it. -/
def startBegun (s : State) (j : JobSt) (t : SiteTab) (gs : List PGroup) (sp : List Nat) : State :=
  { s with free := s.free + 1, job := j, site := { s.site with tab := some t, since := s.tick.now }, hlth := { scoreKept s.hlth with groups := gs, spares := sp } }

theorem onlyRegs_setN (s : State) (k v : Nat) : OnlyRegs s (setN s k v) := onlyRegs_setR s _ _

theorem onlyRegs_set64 (s : State) (lo hi v : Nat) : OnlyRegs s (set64 s lo hi v) := (onlyRegs_setN s _ _).trans (onlyRegs_setN _ _ _)

/-- A start shows its job in the registers, and then draws what the site needs and proposes its view. -/
theorem startJob_eq (s : State) (id ocr siteA protA node : Nat) (t : SiteTab) (gs : List PGroup) (sp : List Nat) {first : Nat}
    (hf : 1 + Config.freeValue s.free % (2 ^ 48 - 1) = first) : ∃ a, OnlyRegs (startBegun s (jobStarted id ocr siteA protA node first) t gs sp) a ∧
      startJob s id ocr siteA protA node t gs sp = proposeIf (drawMaster (zeroResidual (showRole a) first) t) := by
  unfold startJob drawFree
  dsimp only
  rw [hf]
  refine ⟨_, ?_, rfl⟩
  refine OnlyRegs.trans ?_ ((onlyRegs_setN _ _ _).trans (onlyRegs_setN _ _ _))
  refine OnlyRegs.trans ?_ ((onlyRegs_setN _ _ _).trans (onlyRegs_set64 _ _ _ _))
  refine OnlyRegs.trans ?_ ((onlyRegs_setN _ _ _).trans (onlyRegs_setN _ _ _))
  refine OnlyRegs.trans ?_ ((onlyRegs_setN _ _ _).trans ((onlyRegs_setN _ _ _).trans (onlyRegs_setN _ _ _)))
  refine OnlyRegs.trans ?_ ((onlyRegs_setN _ _ _).trans (onlyRegs_setN _ _ _))
  exact (onlyRegs_set64 _ _ _ _).trans (onlyRegs_set64 _ _ _ _)

/-- What a job's start leaves at a site with none before. -/
theorem startJob_leaves (s : State) (id ocr siteA protA node : Nat) (t : SiteTab) (gs : List PGroup) (sp : List Nat) (hs : s.site = {}) :
    let u := startJob s id ocr siteA protA node t gs sp
    ∃ first, 1 ≤ first ∧ first < 2 ^ 48 ∧ u.job = jobStarted id ocr siteA protA node first ∧ u.regn = s.regn ∧ u.strm = s.strm ∧ u.tick = s.tick ∧
      (s.coll.groups = [] → u.coll = s.coll) := by
  obtain ⟨first, hf⟩ : ∃ first, 1 + Config.freeValue s.free % (2 ^ 48 - 1) = first := ⟨_, rfl⟩
  obtain ⟨a, ha, hu⟩ := startJob_eq s id ocr siteA protA node t gs sp hf
  refine ⟨first, by omega, by omega, ?_⟩
  rw [hu]
  have hr := ha.trans (onlyRegs_showRole a)
  have hd := (storeKept_zeroResidual (showRole a) first).trans (storeKept_drawMaster _ t)
  have hx : (drawMaster (zeroResidual (showRole a) first) t).site = { s.site with tab := some t, since := s.tick.now } :=
    hd.site.trans (congrArg State.site hr)
  have hk := (hr.idle.trans hd.idle).trans (idleKept_proposeIf _ (by rw [hx, hs]) (by rw [hx, hs]))
  obtain ⟨⟨hregn, hstrm, htick, hjob⟩, hcoll⟩ := hk rfl rfl
  exact ⟨hjob rfl, hregn, hstrm, htick, hcoll⟩

/-- A job whose tables are whole and agree is created (R406). -/
theorem createWork_starts {s : State} {b : List Byte} {o : Ocr} {ps : List Panel} {t : SiteTab} {gs : List PGroup} {sp : List Nat}
    (hh : s.job.held = false) (hal : leAt b 8 8 % 64 = 0) (hin : inHbm s (leAt b 8 8) 128 = true) (ho : jobOcr s (leAt b 8 8) = some o) (hok : ocrOk o = true)
    (hps : readPanels s o = some ps) (ht : readSites s (leAt b 16 8) (leAt b 0 2) = some t) (hpt : readProt s (leAt b 24 8) (leAt b 0 2) = some (gs, sp))
    (hp : panelsOk o 0 ps = true) (hlag : t.lag = o.lag) (hth : t.h = o.h) (hc : crcsAgree s t = true) :
    createWork b s = (cSERVED, [], startJob s (leAt b 0 2) (leAt b 8 8) (leAt b 16 8) (leAt b 24 8) (leAt b 32 2) t gs sp) := by
  simp [createWork, hh, hal, hin, ho, hok, hps, ht, hpt, hp, hlag, hth, hc]

end Sys2Proof.Proofs

/-!
O24, from the work of each gated command.
-/
namespace Sys2Proof.Proofs
open Sys2Proof.Machine Sys2Proof.Safety

/-! ### O24 -/

theorem ofBytesLE_lt : ∀ l : List Byte, ofBytesLE l < 256 ^ l.length
  | [] => by simp [ofBytesLE]
  | b :: t => by
    have h1 := ofBytesLE_lt t
    have h2 := b.isLt
    simp only [ofBytesLE, List.length_cons, Nat.pow_succ]
    omega

/-- A field of n bytes is below 256 to the n. -/
theorem leAt_lt (l : List Byte) (off n : Nat) : leAt l off n < 256 ^ n := by
  have h : (sliceBytes l off n).length = n := by simp [sliceBytes]
  have hl := ofBytesLE_lt (sliceBytes l off n)
  rwa [h] at hl

/-- A gated command with the gate open: the answer is its work's. -/
theorem mbxCommand_answers {s a v : State} {op len code : Nat} {f : List Byte → State → Nat × List Byte × State} (hm : mbxOpen s = true) (hg : gateOpen s = true)
    (hl : len ≤ 2048) (ha : a = mbxGiven s op len) (hf : f (mbxPayload a len) a = (code, [], v)) : mbxCommand s op len true f = mbxDone v code [] := by
  rw [mbxCommand_gateOpen hm hg op hl, ← ha]
  simp only [hf]

/-- What an answer to a command shows, its work having kept MBX_DONE. -/
theorem mbxAnswered_work {s a v : State} {op len code : Nat} (ha : a = mbxGiven s op len) (h : regN v R.MBX_DONE = regN a R.MBX_DONE) (hc : code < 2 ^ 28) :
    MbxAnswered s (mbxDone v code []) code [] :=
  mbxAnswered_from (h.trans (ha ▸ regN_setN_ne s _ (by decide))) (mbxAnswered_done v hc)

/-- The answer of an ended job changes registers, interrupts and messages alone. -/
theorem mbxDone_endJob {s a : State} {op len : Nat} (ha : a = mbxGiven s op len) : let u := mbxDone (endJob a) cSERVED []
    u = { s with regs := u.regs, irq := u.irq, sent := u.sent, job := {}, site := {}, hlth := scoreKept s.hlth } := by
  have h := keptIrq_eq ((keptIrq_of_onlyRegs (endJob_leaves a).1).trans (keptIrq_mbxDone _ cSERVED []))
  rw [ha] at h ⊢
  exact h

/-- An answer keeps the registers outside the interrupts' pages and MAILBOX. -/
theorem regN_mbxDone (s : State) {code k : Nat} (hk : pageOf k ∉ [0x80, 0x89]) : regN (mbxDone s code []) k = regN s k :=
  regN_of_kept (regsKept_mbxDone s code (Nat.zero_le _)) List.not_mem_nil hk

/-- Settles O24: a gated command is refused with the gate closed; with it open its work is one equation for each command (`createWork_starts`, `endWork_ends`,
`timeStepWork_set`, `stageOp_stages`), and its answer changes registers, interrupts and messages alone. -/
theorem gatedCommands : Obligations.GatedCommands := by
  unfold Obligations.GatedCommands
  refine ⟨⟨?closed, ?create, ?ended, ?stepped⟩, ?staged⟩
  case closed =>
    intro c len s hl hm hg hc
    obtain ⟨op, f, he⟩ := effect_gated hl hc
    rw [mbxCommand_gateClosed hm hg] at he
    exact ⟨_, he, mbxRefused_leaves s op len.toNat⟩
  case create =>
    intro len s a o ps t gs sp hl hm hg hn ha b hh hs hal hin ho hok hps ht hpt hp hlag hth hc
    have he := effect_jobCreate hl len
    rw [mbxCommand_answers hm hg hn ha (createWork_starts (by rw [ha]; exact hh) hal hin ho hok hps ht hpt hp hlag hth hc)] at he
    obtain ⟨first, h1, h2, hjob, hregn, hstrm, htick, hcoll⟩ := startJob_leaves a (leAt b 0 2) (leAt b 8 8) (leAt b 16 8) (leAt b 24 8) (leAt b 32 2) t gs sp
      (by rw [ha]; exact hs)
    generalize startJob a _ _ _ _ _ t gs sp = v at *
    have hk := keptIrq_mbxDone v cSERVED []
    obtain ⟨hstat, -, -, -⟩ := mbxAnswered_done v (show cSERVED < 2 ^ 28 by decide)
    rw [ha] at hregn hstrm htick hcoll
    refine ⟨_, he, ?_⟩
    rw [hk.job, hjob, hk.regn, hk.strm, hk.tick, hk.coll]
    exact ⟨rfl, rfl, rfl, by simp only [jobStarted]; omega, h1, h2, rfl, rfl, hstat, hregn, hstrm, hcoll, htick⟩
  case ended =>
    intro len s hl hm hg hn hh hp h0
    have he := effect_jobEnd hl len
    rw [mbxCommand_answers hm hg hn rfl (endWork_ends (s := mbxGiven s 0x11 len.toNat) hh hp h0 _)] at he
    have hu := mbxDone_endJob (s := s) (op := 0x11) (len := len.toNat) rfl
    refine ⟨_, he, congrArg State.job hu, congrArg State.site hu, congrArg State.hlth hu, ?_, (mbxAnswered_done _ (by decide)).1, hu⟩
    exact (regN_mbxDone _ (by decide)).trans (endJob_leaves _).2
  case stepped =>
    intro len s a hl hm hg hn ha b x hc hns hx
    have he := effect_timeStep hl len
    have hu : (leAt b 8 8 * 1000000000 + leAt b 4 4) * nsUnit = x := by rw [nsUnit]
    clear_value x
    refine ⟨fun hr => ?_, fun hr => ?_⟩
    · rw [mbxCommand_answers hm hg hn ha (timeStepWork_set (by rw [ha]; exact hr) hc hns (leAt_lt b 8 8) hu)] at he
      obtain ⟨hcnt, hfol, hnow, hsteps, hdone⟩ := stepTo_adjusted a (leAt b 8 8) (leAt b 4 4) (x := x) (by rw [ha]; exact hx)
      generalize stepTo _ x = v at *
      have hk := keptIrq_mbxDone v cSERVED []
      refine ⟨_, he, ?_⟩
      rw [hk.tick, regN_mbxDone v (by decide), hsteps, hnow, ha]
      exact ⟨hcnt, hfol, rfl, by rw [regN_setN_ne _ _ (by decide)], mbxAnswered_work rfl (ha ▸ hdone) (by decide)⟩
    · rw [mbxCommand_answers hm hg hn ha (timeStepWork_midRound (by rw [ha]; exact hr) _)] at he
      exact ⟨_, he, ha ▸ (keptIrq_mbxDone a cPOLICY []).tick, mbxAnswered_work ha rfl (by decide)⟩
  case staged =>
    intro len s a k g hl hm hg hn hecc ha b img n h1 h2 hw hk hh h3 hv hp hs
    have he := effect_fwStage hl len
    have hi := stageImage_cfg (s := a) (b := img) (by rw [ha]; exact hh) h3 (by rw [ha]; exact hv) hp (by rw [ha]; exact hs)
    have hw' : stageWork b a = (cSERVED, [], event (setN (cfgStaged a g) R.SEC_STAGE 6) pgSEC 3) := by
      rw [stageWork, stageOp_stages (by rw [ha]; exact hecc) h1 h2 hw hk hi]
    rw [mbxCommand_answers hm hg hn ha hw'] at he
    obtain ⟨hsh, hev, hdone⟩ := staged_shows a g
    have hv := (KeptIrq.event (s := setN (cfgStaged a g) R.SEC_STAGE 6) pgSEC 3).trans (keptIrq_mbxDone _ cSERVED [])
    generalize event _ pgSEC 3 = v at *
    refine ⟨_, he, ?_, ?_, ?_, mbxAnswered_work ha hdone (by decide), ?_, ?_⟩
    · rw [hv.sec, ha]; rfl
    · rw [fld, regN_mbxDone v (by decide)]; exact hsh
    · rw [flag, regN_mbxDone v (by decide)]; exact hev
    · rw [hv.mem, ha]; rfl
    · rw [hv.job, ha]; rfl
end Sys2Proof.Proofs

/-!
The operations of a hop: one after the other, what becomes of the tile, and its reads and writes (R60, R65, R160, R163).
-/
namespace Sys2Proof.Proofs
open Sys2Proof.Machine Sys2Proof.Safety

/-! ### Hop operations, one after the other -/

theorem andThen_ok {α β : Type} {m : HopM α} {f : α → HopM β} {s u : State} {x : α} (h : m s = (.ok x, u)) : m.andThen f s = f x u := by
  simp only [HopM.andThen, h]

theorem andThen_error {α β : Type} {m : HopM α} {f : α → HopM β} {s u : State} {c : Nat} (h : m s = (.error c, u)) : m.andThen f s = (.error c, u) := by
  simp only [HopM.andThen, h]

/-- What succeeds has succeeded step by step. -/
theorem ok_of_andThen {α β : Type} {m : HopM α} {f : α → HopM β} {s u : State} {y : β} (h : m.andThen f s = (.ok y, u)) :
    ∃ x v, m s = (.ok x, v) ∧ f x v = (.ok y, u) := by
  unfold HopM.andThen at h
  split at h
  · next x v hm => exact ⟨x, v, hm, h⟩
  · cases h

theorem hopMay_true {f : State → Bool} {s : State} (h : f s = true) : hopMay f s = (.ok (), s) := by
  simp [hopMay, hopGet, hopReq, HopM.andThen, h]

theorem hopMay_false {f : State → Bool} {s : State} (h : f s = false) : hopMay f s = (.error cWAIT, s) := by
  simp [hopMay, hopGet, hopReq, HopM.andThen, h]

/-- Operations that leave the state collect their values. -/
theorem each_ok {α β : Type} {f : α → HopM β} {g : α → β} {s : State} : ∀ {l : List α}, (∀ x ∈ l, f x s = (.ok (g x), s)) →
    HopM.each f l s = (.ok (l.map g), s)
  | [], _ => rfl
  | x :: t, h => by
    rw [HopM.each, andThen_ok (h x List.mem_cons_self), andThen_ok (each_ok fun y hy => h y (List.mem_cons_of_mem _ hy))]
    rfl

/-- The first operation's failure ends them all. -/
theorem each_error {α β : Type} {f : α → HopM β} {s u : State} {x : α} {c : Nat} (t : List α) (h : f x s = (.error c, u)) :
    HopM.each f (x :: t) s = (.error c, u) := andThen_error h

/-! ### What becomes of the tile (R60, R65) -/

/-- A command is a hop's operation at a station, with an operation code. -/
def HopCommand (c : Instr) (w : BitVec 12) (q : BitVec 48) (station : Nat) (op : Nat) (work : Stream → Tile → HopM Tile) : Prop :=
  ∀ s, exec c s = act s (fun a => hopAct a w.toNat q.toNat station (· == op) work)

section
variable {c : Instr} {w : BitVec 12} {q : BitVec 48} {station op : Nat} {work : Stream → Tile → HopM Tile} {s u : State} {st : Stream} {t : Tile}

theorem effect_hop (hc : HopCommand c w q station op work) (hl : live s = true) : Effect c s (runHop s w.toNat q.toNat station (· == op) work) := by
  rw [Effect, hc s, act_live hl, hopAct]

/-- A hop whose work waits withholds its tile. -/
theorem hop_waits (hc : HopCommand c w q station op work) (hl : live s = true) (h : HopAt s w.toNat q.toNat station (· == op) st t)
    (hw : work st t s = (.error cWAIT, u)) : Effect c s (holdTile u w.toNat t) := by
  obtain ⟨h1, h2, -⟩ := h
  have he := effect_hop hc hl
  simpa only [runHop, h1, h2, hw, if_true] using he

/-- A hop whose work fails with a completion code ends its tile. -/
theorem hop_fails (hc : HopCommand c w q station op work) (hl : live s = true) (h : HopAt s w.toNat q.toNat station (· == op) st t) {code : Nat}
    (hw : work st t s = (.error code, u)) (hcode : code < 252) : Effect c s (failTile u w.toNat t code) := by
  obtain ⟨h1, h2, -⟩ := h
  have he := effect_hop hc hl
  have e1 : code ≠ cWAIT := by unfold cWAIT; omega
  have e2 : code ≠ cLATEWAIT := by unfold cLATEWAIT; omega
  have e3 : code ≠ cTESTWAIT := by unfold cTESTWAIT; omega
  have e4 : code ≠ cEXPFAIL := by unfold cEXPFAIL; omega
  simpa only [runHop, h1, h2, hw, if_neg e1, if_neg e2, if_neg e3, if_neg e4] using he

theorem flush_undone {slot : Nat} (h : streamAt s slot = some st) (hn : ∀ x ∈ st.tiles, x.doneTick = none) : flush s slot = s := by
  simp only [flush, h, flushN]
  cases ht : st.tiles with
  | nil => rfl
  | cons y l => simp only [hn y (ht ▸ List.mem_cons_self)]

/-- A tile not at its last hop waits to move on. -/
theorem finishHop_before {slot : Nat} (h : streamAt s slot = some st) (hn : ∀ x ∈ st.tiles, x.doneTick = none) (hh : t.hop + 1 < st.hops) :
    finishHop s slot t = hopDone s slot st t := by
  have h1 : ¬(t.hop + 1 = st.hops ∧ t.txLeft = 0) := by omega
  have h2 : streamAt (hopDone s slot st t) slot = some (setTile st { t with finished := true, withheld := false, doneTick := none }) := mapFind_mapPut_self _ _ _
  simp only [finishHop, h, if_neg h1, Option.isSome_none, Bool.false_and, Bool.false_eq_true, if_false, Option.toList_none, List.foldl_nil]
  refine flush_undone h2 fun x hx => ?_
  simp only [setTile, List.mem_map] at hx
  obtain ⟨y, hy, rfl⟩ := hx
  split
  · rfl
  · exact hn y hy

/-- A hop whose work is done, its tile not at its last hop. -/
theorem hop_done (hc : HopCommand c w q station op work) (hl : live s = true) (h : HopAt s w.toNat q.toNat station (· == op) st t) {t1 : Tile}
    (hw : work st t s = (.ok t1, u)) (hs : u.strm = s.strm) (hh : t1.hop + 1 < st.hops) : Effect c s (hopDone u w.toNat st t1) := by
  obtain ⟨h1, h2, h3⟩ := h
  have he := effect_hop hc hl
  have hu : streamAt u w.toNat = some st := by rw [streamAt, hs]; exact h1
  rw [runHop, h1] at he
  simpa only [h2, hw, finishHop_before hu h3 hh] using he

end

/-! ### A hop's reads and writes of sound storage (R160, R163) -/

/-- The two states agree in what an access is checked against, and in the words in error. -/
structure SameReach (s u : State) : Prop where
  regn : u.regn = s.regn
  store : u.store = s.store
  srcs : u.flt.srcs = s.flt.srcs
  p0 : regN u R.POOL_P0_MIB = regN s R.POOL_P0_MIB

theorem SameReach.refl (s : State) : SameReach s s := ⟨rfl, rfl, rfl, rfl⟩

theorem SameReach.trans {s u v : State} (h : SameReach s u) (g : SameReach u v) : SameReach s v :=
  ⟨g.regn.trans h.regn, g.store.trans h.store, g.srcs.trans h.srcs, g.p0.trans h.p0⟩

theorem SameReach.sound {s u : State} (h : SameReach s u) (hs : Sound s) : Sound u := ⟨by rw [h.store]; exact hs.1, by rw [h.srcs]; exact hs.2⟩

theorem SameReach.directOk {s u : State} (h : SameReach s u) (a n : Nat) : directOk u a n = directOk s a n := by
  have hp : p0Bytes u = p0Bytes s := by simp only [p0Bytes, fld, h.p0]
  unfold Machine.directOk
  rw [h.store, hp]

theorem SameReach.checkAccess {s u : State} (h : SameReach s u) (tbl : List (Nat × Region)) (gate : Bool) (station : Nat) (wr member handle : Bool) (a n : Nat) :
    checkAccess u tbl gate station wr member handle a n = checkAccess s tbl gate station wr member handle a n := by
  simp only [Machine.checkAccess, h.directOk]

theorem SameReach.reach {s u : State} (h : SameReach s u) {c : Access} {wr : Bool} {a n k : Nat} (hr : Reach s c wr a n k) : Reach u c wr a n k := by
  have ht : regionsAt u c.table = regionsAt s c.table := by simp only [regionsAt, regionsNow, h.regn]
  rw [Reach, h.checkAccess, ht]
  exact hr

theorem sameReach_job (s : State) (j : JobSt) : SameReach s { s with job := j } := ⟨rfl, rfl, rfl, rfl⟩

theorem sameReach_notePhase (s : State) (n k : Nat) : SameReach s (notePhase s n k) := by
  unfold notePhase
  split
  · exact sameReach_job s _
  · exact SameReach.refl s

theorem sameReach_rawWrite (s : State) (k : Nat) (bs : List Byte) : SameReach s (rawWrite s k bs) := ⟨rfl, rfl, rfl, rfl⟩

theorem sameReach_ovf (s : State) (n : Nat) : SameReach s (bumpBy s R.ARITH_OVF_CNT n) := ⟨rfl, rfl, rfl, regN_setN_ne _ _ (by decide)⟩

theorem hopKey_reach {s : State} {c : Access} {wr : Bool} {a n k : Nat} (h : Reach s c wr a n k) : hopKey c wr false a n s = (.ok k, s) := by
  unfold Reach at h
  simp only [hopKey, h]

theorem hopTest_sound {s : State} (h : Sound s) (k n : Nat) : hopTest k n s = (.ok (), s) := by
  obtain ⟨-, h2⟩ := h
  simp [hopTest, underTest, h2]

theorem rawWrite_nil (s : State) (k : Nat) : rawWrite s k [] = s := by
  have h : memWrite s.mem k [] = s.mem := by simp only [memWrite, runCells, List.nil_append, List.length_nil, Nat.add_zero, List.takeWhile_append_dropWhile]
  rw [rawWrite, h]

/-- A write that may be made, to sound storage. -/
theorem hopWrite_reach {s : State} {c : Access} {a k : Nat} {bs : List Byte} (hs : Sound s) (hr : Reach s c true a bs.length k) :
    hopWrite c false a bs s = (.ok (), rawWrite s k bs) := by
  unfold hopWrite
  cases bs with
  | nil => rw [rawWrite_nil]; rfl
  | cons b t =>
    have hw : storeWrite s k (b :: t) = (false, rawWrite s k (b :: t)) := storeWrite_clean (eccWords_none hs.1 k _)
    rw [if_neg (by simp), andThen_ok (hopKey_reach hr), andThen_ok (hopTest_sound hs _ _), hw]

/-- A read that succeeds gives as many bytes as it asks for. -/
theorem hopRead_length {s u : State} {c : Access} {a n : Nat} {bs : List Byte} (h : hopRead c a n s = (.ok bs, u)) : bs.length = n := by
  unfold hopRead at h
  split at h
  · next h0 => cases h; exact h0.symm
  · obtain ⟨k, v, -, h1⟩ := ok_of_andThen h
    obtain ⟨-, x, -, h2⟩ := ok_of_andThen h1
    split at h2
    · next b y hr =>
      cases h2
      unfold storeRead at hr
      dsimp only at hr
      split at hr
      · cases hr
      · cases hr
        exact memRead_length _ _ _
    · cases h2

end Sys2Proof.Proofs

/-!
PROJECT hops and the terms of the round's sums (R111, R113, R115).
-/
namespace Sys2Proof.Proofs
open Sys2Proof.Machine Sys2Proof.Safety

/-! ### PROJECT hops (R111, R113, R115) -/

theorem hopCommand_drawSketch (w : BitVec 12) (q : BitVec 48) : HopCommand (.drawSketch w q) w q stPROJECT 1 (drawWork 1) := fun _ => rfl
theorem hopCommand_drawStart (w : BitVec 12) (q : BitVec 48) : HopCommand (.drawStart w q) w q stPROJECT 2 (drawWork 2) := fun _ => rfl
theorem hopCommand_fill (w : BitVec 12) (q : BitVec 48) : HopCommand (.fill w q) w q stPROJECT 3 (drawWork 3) := fun _ => rfl
theorem hopCommand_projLeft (w : BitVec 12) (q : BitVec 48) : HopCommand (.projLeft w q) w q stMATRIX 2 projLeftWork := fun _ => rfl
theorem hopCommand_projRight (w : BitVec 12) (q : BitVec 48) : HopCommand (.projRight w q) w q stMATRIX 3 projRightWork := fun _ => rfl

theorem tileElems_at {o : Ocr} {t : Tile} {e n : Nat} (h : TileAt o t e n) (s : State) : tileElems o t s = (.ok (e, n), s) := by
  obtain ⟨h1, h2, h3, h4⟩ := h
  have e1 : (t.desc.src - o.snap) / 2 = e := by omega
  have e2 : t.desc.len / 2 = n := by omega
  have hc : ¬(refForm t.desc.src ≠ 0 ∨ t.desc.src < o.snap ∨ (t.desc.src - o.snap) % 2 ≠ 0 ∨ t.desc.len % 2 ≠ 0) := by omega
  simp only [tileElems, if_neg hc, e1, e2, if_neg (Nat.not_lt.2 h4)]
  rfl

/-- A tile with the rows that a PROJECT hop drew beside it. -/
def rowsBeside (t : Tile) (k : Nat) (rows : List (Nat × Nat × List Val)) : Tile := { t with draw := some k, rows := rows, outLen := t.desc.len }

theorem drawWork_waits {s : State} {st : Stream} {t : Tile} (k : Nat) (h1 : inRound s t.desc.round = false) (h2 : applyMay s t.desc.round = false) :
    drawWork k st t s = (.error cWAIT, s) := andThen_error (hopMay_false (by simp [h1, h2]))

theorem drawWork_draws {s : State} {st : Stream} {t : Tile} {o : Ocr} {ps : List Panel} {e n : Nat} {l : List (List (Nat × Nat × List Val))} (k : Nat)
    (hr : inRound s t.desc.round = true ∨ applyMay s t.desc.round = true) (hj : hopJob st s = (.ok (o, ps), s)) (ht : TileAt o t e n)
    (hl : HopM.each (drawRun (accessOf st t) o t.desc.round k) (panelRuns ps e n) s = (.ok l, s)) :
    drawWork k st t s = (.ok (rowsBeside t k l.flatten), s) := by
  rw [drawWork, andThen_ok (hopMay_true (by simpa using hr)), andThen_ok hj, andThen_ok (tileElems_at ht s), andThen_ok hl]
  rfl

/-- The rows of a generator, each converted once. -/
def rowsDrawn (o : Ocr) (f : Panel → Nat → List Val) (r : Panel × Nat × Nat) : List (Nat × Nat × List Val) :=
  if r.1.rank = 0 then [] else (neededRows r.1 r.2.1 r.2.2).map (fun j => (r.1.index, j, convertRow (pfmtElem o) (f r.1 j)))

/-- The sketch and the starting factor are drawn from the generator, whatever storage holds. -/
theorem drawRuns_generated {c : Access} {o : Ocr} {round k : Nat} {f : Panel → Nat → List Val} {s : State} (hk : k ≠ 3)
    (hy : ∀ p j, yRow c o p round k [] j s = (.ok (f p j), s)) (rs : List (Panel × Nat × Nat)) :
    HopM.each (drawRun c o round k) rs s = (.ok (rs.map (rowsDrawn o f)), s) := by
  refine each_ok fun r _ => ?_
  unfold drawRun rowsDrawn
  split
  · rfl
  · rw [andThen_ok (show HopM.ret [] s = (.ok [], s) from rfl)]
    exact each_ok fun j _ => by rw [andThen_ok (hy r.1 j)]; rfl

/-! ### Terms at the accumulators (R115) -/

/-- The state with other partial sums. -/
def withAcc (s : State) (m : List (Nat × List Val)) : State := { s with job := { s.job with acc := m } }

/-- The terms of a list that go to one accumulator. -/
def termsAt (l : List (Nat × Nat × Val)) (k : Nat) : List Val := l.filterMap (fun x => if x.1 = k then some x.2.2 else none)

/-- Partial sums with the terms of a list behind what they held. -/
def Gathered (m m' : List (Nat × List Val)) (l : List (Nat × Nat × Val)) : Prop := ∀ k, mapGet [] m' k = mapGet [] m k ++ termsAt l k

/-- Terms are still to come at every accumulator that a list goes to. -/
def StillOpen (total : Nat) (m : List (Nat × List Val)) (l : List (Nat × Nat × Val)) : Prop :=
  ∀ k, termsAt l k ≠ [] → (mapGet [] m k).length + (termsAt l k).length < total

theorem termsAt_append (l r : List (Nat × Nat × Val)) (k : Nat) : termsAt (l ++ r) k = termsAt l k ++ termsAt r k := List.filterMap_append

theorem Gathered.append {m m1 m2 : List (Nat × List Val)} {l r : List (Nat × Nat × Val)} (h : Gathered m m1 l) (g : Gathered m1 m2 r) : Gathered m m2 (l ++ r) := by
  intro k
  rw [g k, h k, termsAt_append, List.append_assoc]

theorem StillOpen.left {total : Nat} {m : List (Nat × List Val)} {l r : List (Nat × Nat × Val)} (h : StillOpen total m (l ++ r)) : StillOpen total m l := by
  intro k hk
  have h1 := h k (by rw [termsAt_append]; simp [hk])
  rw [termsAt_append, List.length_append] at h1
  omega

theorem StillOpen.right {total : Nat} {m m1 : List (Nat × List Val)} {l r : List (Nat × Nat × Val)} (h : StillOpen total m (l ++ r)) (g : Gathered m m1 l) :
    StillOpen total m1 r := by
  intro k hk
  have h1 := h k (by rw [termsAt_append]; simp [hk])
  rw [termsAt_append, List.length_append] at h1
  rw [g k, List.length_append]
  omega

theorem addTerm_open {s : State} {key total : Nat} {v : Val} (h : (mapGet [] s.job.acc key).length + 1 < total) :
    addTerm key total v s = (.ok none, withAcc s (mapPut s.job.acc key (mapGet [] s.job.acc key ++ [v]))) := by
  have h1 : ¬(total ≤ (mapGet [] s.job.acc key ++ [v]).length) := by simp; omega
  simp only [addTerm, if_neg h1]
  rfl

theorem gathered_put (m : List (Nat × List Val)) (key addr : Nat) (v : Val) : Gathered m (mapPut m key (mapGet [] m key ++ [v])) [(key, addr, v)] := by
  intro k
  by_cases hk : k = key
  · subst hk; simp [termsAt]
  · rw [mapGet_mapPut_ne _ _ _ hk]
    simp [termsAt, Ne.symm hk]

/-- Terms added where more are to come: nothing is written. -/
theorem addTerms_open {total : Nat} : ∀ {l : List (Nat × Nat × Val)} {s : State}, StillOpen total s.job.acc l →
    ∃ m, addTerms total l s = (.ok [], withAcc s m) ∧ Gathered s.job.acc m l
  | [], s, _ => ⟨s.job.acc, rfl, fun k => by simp [termsAt]⟩
  | (key, addr, v) :: t, s, h => by
    have h1 : StillOpen total s.job.acc [(key, addr, v)] := StillOpen.left (r := t) h
    have hk := h1 key (by simp [termsAt])
    have hp := gathered_put s.job.acc key addr v
    obtain ⟨m, hm, hg⟩ := addTerms_open (s := withAcc s _) (StillOpen.right (l := [(key, addr, v)]) h hp)
    refine ⟨m, ?_, hp.append hg⟩
    rw [addTerms, andThen_ok (addTerm_open (by simpa [termsAt] using hk)), andThen_ok hm]
    rfl

/-- Operations that each add their terms, over a list. -/
theorem each_gathers {α β : Type} {total : Nat} {f : α → HopM (List β)} {terms : α → List (Nat × Nat × Val)} {s : State} : ∀ {xs : List α} {m : List (Nat × List Val)},
    (∀ x ∈ xs, ∀ m, StillOpen total m (terms x) → ∃ m', f x (withAcc s m) = (.ok [], withAcc s m') ∧ Gathered m m' (terms x)) →
    StillOpen total m (xs.flatMap terms) →
    ∃ m' ls, HopM.each f xs (withAcc s m) = (.ok ls, withAcc s m') ∧ ls.flatten = [] ∧ Gathered m m' (xs.flatMap terms)
  | [], m, _, _ => ⟨m, [], rfl, rfl, fun k => by simp [termsAt]⟩
  | x :: t, m, hf, ho => by
    rw [List.flatMap_cons] at ho ⊢
    obtain ⟨m1, h1, g1⟩ := hf x List.mem_cons_self m ho.left
    obtain ⟨m2, ls, h2, hn, g2⟩ := each_gathers (fun y hy => hf y (List.mem_cons_of_mem _ hy)) (ho.right g1)
    refine ⟨m2, [] :: ls, ?_, by simpa using hn, g1.append g2⟩
    rw [HopM.each, andThen_ok h1, andThen_ok h2]
    rfl

/-! ### The terms of a run (R115) -/

theorem accKey_inj {kind panel e f : Nat} (h : accKey kind panel e = accKey kind panel f) : e = f := by
  unfold accKey at h
  omega

/-- Places of rows of equal length are told apart. -/
theorem rowPlace_inj {r i j c d : Nat} (hc : c < r) (hd : d < r) (h : i * r + c = j * r + d) : i = j ∧ c = d := by
  have h1 : (i * r + c) / r = i := by rw [Nat.mul_comm, Nat.mul_add_div (by omega), Nat.div_eq_of_lt hc]; rfl
  have h2 : (j * r + d) / r = j := by rw [Nat.mul_comm, Nat.mul_add_div (by omega), Nat.div_eq_of_lt hd]; rfl
  have e : i = j := by rw [← h1, ← h2, h]
  subst e
  exact ⟨rfl, by omega⟩

/-- One place of a list, found by its index. -/
theorem filterMap_zipIdx {α β : Type} (d : α) (f : α → β) : ∀ (l : List α) (k c : Nat), c < l.length →
    (l.zipIdx k).filterMap (fun y => if y.2 = k + c then some (f y.1) else none) = [f (nthD d l c)]
  | x :: t, k, 0, _ => by
    have h : (t.zipIdx (k + 1)).filterMap (fun y => if y.2 = k then some (f y.1) else none) = [] := by
      refine List.filterMap_eq_nil_iff.2 fun y hy => if_neg ?_
      have := (List.mem_zipIdx hy).1
      omega
    simp [List.zipIdx_cons, h, nthD]
  | x :: t, k, c + 1, hc => by
    have h := filterMap_zipIdx d f t (k + 1) c (by simpa using hc)
    have e : k + 1 + c = k + (c + 1) := by omega
    rw [e] at h
    simp only [List.zipIdx_cons, List.filterMap_cons, nthD]
    rw [if_neg (by omega)]
    exact h

/-- Of a row's terms, laid at places that tell each other apart, one comes to each place of the row. -/
theorem rowTerm_at {place : Nat → Nat} (hp : ∀ e f, place e = place f → e = f) {row : List Val} {rank : Nat} (hr : row.length = rank) (r : Nat) (d : Val) {i c : Nat}
    (hc : c < rank) : row.zipIdx.filterMap (fun y => if place (r * rank + y.2) = place (i * rank + c) then some (mulVal d y.1) else none) =
      if r = i then [mulVal d (nthD vzero row c)] else [] := by
  have hq : ∀ y ∈ row.zipIdx, (place (r * rank + y.2) = place (i * rank + c)) ↔ (r = i ∧ y.2 = c) := by
    intro y hy
    have hy2 := (List.mem_zipIdx hy).2.1
    exact ⟨fun h => rowPlace_inj (by omega) hc (hp _ _ h), fun ⟨h1, h2⟩ => by rw [h1, h2]⟩
  by_cases h : r = i
  · rw [if_pos h, ← filterMap_zipIdx vzero (mulVal d) row 0 c (by omega)]
    refine List.filterMap_congr fun y hy => ?_
    rw [Nat.zero_add]
    exact if_congr ((hq y hy).trans (and_iff_right h)) rfl rfl
  · rw [if_neg h]
    refine List.filterMap_eq_nil_iff.2 fun y hy => if_neg ?_
    exact fun he => h ((hq y hy).1 he).1

/-- The term that an element's row adds to one accumulator. -/
theorem termsAt_rowTerms {kind : Nat} {p : Panel} {row : List Val} (base r : Nat) (d : Val) (hr : row.length = p.rank) {i c : Nat} (hc : c < p.rank) :
    termsAt (rowTerms kind p base r d row) (accKey kind p.index (i * p.rank + c)) = if r = i then [mulVal d (nthD vzero row c)] else [] := by
  rw [termsAt, rowTerms, List.filterMap_map]
  exact rowTerm_at (place := accKey kind p.index) (fun _ _ => accKey_inj) hr r d hc

/-- A term of a row goes to a place of its row. -/
theorem place_of_termsAt {kind : Nat} {p : Panel} {row : List Val} {base r k : Nat} {d : Val} (hr : row.length = p.rank)
    (h : termsAt (rowTerms kind p base r d row) k ≠ []) : ∃ c, c < p.rank ∧ k = accKey kind p.index (r * p.rank + c) := by
  obtain ⟨v, hv⟩ := List.exists_mem_of_ne_nil _ h
  obtain ⟨x, hx, hxk⟩ := List.mem_filterMap.1 hv
  obtain ⟨y, hy, rfl⟩ := List.mem_map.1 hx
  have hy2 := (List.mem_zipIdx hy).2.1
  dsimp only at hxk
  split at hxk
  · next he => exact ⟨y.2, by omega, he.symm⟩
  · cases hxk

theorem flatMap_if {α β : Type} (g : α → β) (q : α → Bool) : ∀ l : List α, l.flatMap (fun x => if q x = true then [g x] else []) = (l.filter q).map g
  | [] => rfl
  | x :: t => by
    rw [List.flatMap_cons, flatMap_if g q t, List.filter_cons]
    by_cases h : q x = true <;> simp [h]

/-- The terms of a run's elements at one accumulator: those of the elements of its row, in order. -/
theorem termsAt_run {kind base : Nat} {p : Panel} {xs : List (Val × Nat)} {row : Val × Nat → Nat} {y : Val × Nat → List Val} (hy : ∀ x ∈ xs, (y x).length = p.rank)
    (i : Nat) {c : Nat} (hc : c < p.rank) : termsAt (xs.flatMap (fun x => rowTerms kind p base (row x) x.1 (y x))) (accKey kind p.index (i * p.rank + c)) =
      (xs.filter (fun x => row x == i)).map (fun x => mulVal x.1 (nthD vzero (y x) c)) := by
  rw [← flatMap_if, termsAt, List.filterMap_flatMap]
  refine List.flatMap_congr fun x hx => ?_
  exact (termsAt_rowTerms base (row x) x.1 (hy x hx) hc).trans (by simp)

theorem stillOpen_run {kind base total : Nat} {p : Panel} {xs : List (Val × Nat)} {row : Val × Nat → Nat} {y : Val × Nat → List Val} {m : List (Nat × List Val)}
    (hy : ∀ x ∈ xs, (y x).length = p.rank)
    (h : ∀ i c, c < p.rank → (mapGet [] m (accKey kind p.index (i * p.rank + c))).length + (xs.filter (fun x => row x == i)).length < total) :
    StillOpen total m (xs.flatMap (fun x => rowTerms kind p base (row x) x.1 (y x))) := by
  intro k hk
  rw [termsAt, List.filterMap_flatMap] at hk
  obtain ⟨v, hv⟩ := List.exists_mem_of_ne_nil _ hk
  obtain ⟨x, hx, hxv⟩ := List.mem_flatMap.1 hv
  obtain ⟨c, hc, rfl⟩ := place_of_termsAt (hy x hx) (List.ne_nil_of_mem hxv)
  rw [termsAt_run hy _ hc, List.length_map]
  exact h _ c hc

end Sys2Proof.Proofs

/-!
PROJ_LEFT and PROJ_RIGHT on a run whose sums are still to come (R114, R115).
-/
namespace Sys2Proof.Proofs
open Sys2Proof.Machine Sys2Proof.Safety

/-! ### Rows converted (R87, R115) -/

theorem flatten_cutEvery_length {α : Type} {n : Nat} (hn : 0 < n) : ∀ (fuel : Nat) (l : List α), l.length ≤ fuel →
    ((cutEvery n fuel l).map List.length).sum = l.length
  | 0, l, h => by simp [List.length_eq_zero_iff.1 (Nat.le_zero.1 h), cutEvery]
  | fuel + 1, [], _ => rfl
  | fuel + 1, x :: t, h => by
    have ih := flatten_cutEvery_length hn fuel ((x :: t).drop n) (by simp only [List.length_drop, List.length_cons] at h ⊢; omega)
    simp only [cutEvery, List.isEmpty_cons, Bool.false_eq_true, if_false, List.map_cons, List.sum_cons, ih, List.length_take, List.length_drop]
    omega

theorem encodeBlock_length (el : Elem) (shared : Option Int) (l : List Val) : (encodeBlock el shared l).2.length = l.length := by
  unfold encodeBlock
  dsimp only
  split
  · exact List.length_map _
  · split <;> exact List.length_map _

/-- A row keeps its length in the format of its panel. -/
theorem convertRow_length (o : Ocr) (l : List Val) : (convertRow (pfmtElem o) l).length = l.length := by
  unfold convertRow
  split
  · simp only [List.length_flatMap, List.length_map, encodeBlock_length]
    exact flatten_cutEvery_length (by decide) _ _ le_rfl
  · next h =>
    split
    · exact List.length_map _
    · rfl

/-! ### PROJ_LEFT and PROJ_RIGHT (R114, R115) -/

theorem notePhase_strm (s : State) (n k : Nat) : (notePhase s n k).strm = s.strm := by unfold notePhase; split <;> rfl

theorem notePhase_acc (s : State) (n k : Nat) : (notePhase s n k).job.acc = s.job.acc := by unfold notePhase; split <;> rfl

section
variable {s a v : State} {st : Stream} {t : Tile} {o : Ocr} {ps : List Panel} {e n : Nat} {bs : List Byte} {r : Panel × Nat × List Val}

theorem projLeftWork_waits (h : inRound s t.desc.round = false) : projLeftWork st t s = (.error cWAIT, s) := andThen_error (hopMay_false h)

theorem projRightWork_waits (h : projRightMay s t.desc.round = false) : projRightWork st t s = (.error cWAIT, s) := andThen_error (hopMay_false h)

/-- PROJ_LEFT on a tile of one run whose sums are still to come. -/
theorem projLeftWork_run {rows : List (Nat × Nat × List Val)} (hr : inRound s t.desc.round = true) (ha : notePhase s t.desc.round 3 = a)
    (hj : hopJob st a = (.ok (o, ps), a)) (ht : TileAt o t e n) (hi : hopInput (accessOf st t) t a = (.ok bs, a)) (hd : deltaRuns (o, ps) (e, n) bs = [r])
    (hl : leftRows (accessOf st t) (o, ps) t (e, n) a = (.ok rows, a)) (hx : projLeftRun o rows r a = (.ok [], v)) : projLeftWork st t s = (.ok t, v) := by
  have he : HopM.each (projLeftRun o rows) [r] a = (.ok [[]], v) := by rw [HopM.each, andThen_ok hx]; rfl
  have hp : hopDo (fun s => notePhase s t.desc.round 3) s = (.ok (), a) := by rw [← ha]; rfl
  rw [projLeftWork, andThen_ok (hopMay_true hr), andThen_ok hp, andThen_ok hj, andThen_ok (tileElems_at ht a), andThen_ok hi, andThen_ok hl, hd, andThen_ok he]
  rfl

/-- PROJ_RIGHT on a tile of one run whose sums are still to come. -/
theorem projRightWork_run (hr : projRightMay s t.desc.round = true) (ha : notePhase s t.desc.round 3 = a) (hj : hopJob st a = (.ok (o, ps), a))
    (ht : TileAt o t e n) (hi : hopInput (accessOf st t) t a = (.ok bs, a)) (hd : deltaRuns (o, ps) (e, n) bs = [r])
    (hx : projRightRun (accessOf st t) o r a = (.ok [], v)) : projRightWork st t s = (.ok t, v) := by
  have he : HopM.each (projRightRun (accessOf st t) o) [r] a = (.ok [[]], v) := by rw [HopM.each, andThen_ok hx]; rfl
  have hp : hopDo (fun s => notePhase s t.desc.round 3) s = (.ok (), a) := by rw [← ha]; rfl
  rw [projRightWork, andThen_ok (hopMay_true hr), andThen_ok hp, andThen_ok hj, andThen_ok (tileElems_at ht a), andThen_ok hi, hd, andThen_ok he]
  rfl

end

/-- A direct panel takes no part. -/
theorem projLeftRun_direct {p : Panel} (h : p.rank = 0) (o : Ocr) (rows : List (Nat × Nat × List Val)) (lo : Nat) (v : List Val) (s : State) :
    projLeftRun o rows (p, lo, v) s = (.ok [], s) := by simp only [projLeftRun, h, if_true]; rfl

theorem projRightRun_direct {p : Panel} (h : p.rank = 0) (c : Access) (o : Ocr) (lo : Nat) (v : List Val) (s : State) :
    projRightRun c o (p, lo, v) s = (.ok [], s) := by simp only [projRightRun, h, if_true]; rfl

/-- A run that adds each element's products with its row, more terms being to come at every sum it goes to. -/
theorem run_gathers {s : State} {kind base total : Nat} {p : Panel} {xs : List (Val × Nat)} {row : Val × Nat → Nat} {y : Val × Nat → List Val}
    {f : Val × Nat → HopM (List (Nat × List Byte))} (hy : ∀ x ∈ xs, (y x).length = p.rank)
    (hf : ∀ x ∈ xs, ∀ m, f x (withAcc s m) = addTerms total (rowTerms kind p base (row x) x.1 (y x)) (withAcc s m))
    (ho : ∀ i c, c < p.rank → (mapGet [] s.job.acc (accKey kind p.index (i * p.rank + c))).length + (xs.filter (fun x => row x == i)).length < total) :
    ∃ m, ((HopM.each f xs).andThen fun l => HopM.ret l.flatten) s = (.ok [], withAcc s m) ∧
      ∀ i c, c < p.rank → mapGet [] m (accKey kind p.index (i * p.rank + c)) =
        mapGet [] s.job.acc (accKey kind p.index (i * p.rank + c)) ++ (xs.filter (fun x => row x == i)).map (fun x => mulVal x.1 (nthD vzero (y x) c)) := by
  have hs : withAcc s s.job.acc = s := rfl
  obtain ⟨m, ls, h1, h2, h3⟩ := each_gathers (f := f) (s := s) (m := s.job.acc) (fun x hx m hm => by
    obtain ⟨m', hm', hg⟩ := addTerms_open (s := withAcc s m) hm
    exact ⟨m', (hf x hx m).trans hm', hg⟩) (stillOpen_run (base := base) hy ho)
  refine ⟨m, ?_, fun i c hc => by rw [h3, termsAt_run hy i hc]⟩
  rw [hs] at h1
  rw [andThen_ok h1, h2]
  rfl

theorem reach_of_hopKey {s v : State} {c : Access} {wr : Bool} {a n k : Nat} (h : hopKey c wr false a n s = (.ok k, v)) : Reach s c wr a n k ∧ v = s := by
  unfold hopKey at h
  split at h
  · next hk => cases h; exact ⟨hk, rfl⟩
  · cases h

theorem untested_of_hopTest {s v : State} {k n : Nat} {x : Unit} (h : hopTest k n s = (.ok x, v)) : underTest s k n = false ∧ v = s := by
  unfold hopTest at h
  by_cases hu : underTest s k n = true
  · rw [if_pos hu] at h; cases h
  · rw [if_neg hu] at h; cases h; exact ⟨by simpa using hu, rfl⟩

/-- Reads of sound words do not see the partial sums. -/
theorem hopRead_withAcc {s : State} {c : Access} {a n : Nat} {bs : List Byte} (he : s.store.ecc = []) (h : hopRead c a n s = (.ok bs, s)) (m : List (Nat × List Val)) :
    hopRead c a n (withAcc s m) = (.ok bs, withAcc s m) := by
  unfold hopRead at h ⊢
  split at h
  · next h0 => rw [if_pos h0]; cases h; rfl
  · next h0 =>
    obtain ⟨k, v, hk, h1⟩ := ok_of_andThen h
    obtain ⟨hr, rfl⟩ := reach_of_hopKey hk
    obtain ⟨_, x, hx, h2⟩ := ok_of_andThen h1
    obtain ⟨hu, rfl⟩ := untested_of_hopTest hx
    have ht : hopTest k n (withAcc x m) = (.ok (), withAcc x m) := by
      have hu' : underTest (withAcc x m) k n = false := hu
      simp [hopTest, hu']
    have hr' : Reach (withAcc x m) c false a n k := (sameReach_job x _).reach hr
    rw [if_neg h0, andThen_ok (hopKey_reach hr'), andThen_ok ht, storeRead_clean (s := withAcc x m) (eccWords_none (s := withAcc x m) he k n)]
    rw [storeRead_clean (eccWords_none he k n)] at h2
    cases h2
    rfl

/-- A row of LO, of FP32 values. -/
theorem readRow_lo_withAcc {s : State} {c : Access} {o : Ocr} {p : Panel} {row : Nat} {x : List Val × Bool} (he : s.store.ecc = [])
    (h : readRow c o p .lo row s = (.ok x, s)) (m : List (Nat × List Val)) : readRow c o p .lo row (withAcc s m) = (.ok x, withAcc s m) := by
  have hd (s : State) : readRow c o p .lo row s = ((readF32 c (partAddr o p .lo + 4 * row * partCols p .lo) (partCols p .lo)).andThen fun l => HopM.ret (l, false)) s := rfl
  rw [hd] at h ⊢
  obtain ⟨l, v, h1, h2⟩ := ok_of_andThen h
  obtain ⟨b, v', h3, h4⟩ := ok_of_andThen h1
  cases h4
  cases h2
  rw [andThen_ok (x := vals32 b) (u := withAcc s m)]
  · rfl
  · rw [readF32, andThen_ok (hopRead_withAcc he h3 m)]
    rfl

/-- PROJ_LEFT on a run of a projected panel. -/
theorem projLeftRun_gathers {s : State} {o : Ocr} {rows : List (Nat × Nat × List Val)} {p : Panel} {lo : Nat} {v : List Val} (h0 : 0 < p.rank)
    (hy : ∀ x ∈ v.zipIdx, ((drawnRow rows p (rowCol p (lo + x.2)).2).getD []).length = p.rank)
    (ho : ∀ i c, c < p.rank → (mapGet [] s.job.acc (accKey 0 p.index (i * p.rank + c))).length + (v.zipIdx.filter (fun x => (rowCol p (lo + x.2)).1 == i)).length < p.cols) :
    ∃ m, projLeftRun o rows (p, lo, v) s = (.ok [], withAcc s m) ∧ ∀ i c, c < p.rank → mapGet [] m (accKey 0 p.index (i * p.rank + c)) =
      mapGet [] s.job.acc (accKey 0 p.index (i * p.rank + c)) ++
        (v.zipIdx.filter (fun x => (rowCol p (lo + x.2)).1 == i)).map (fun x => mulVal x.1 (nthD vzero ((drawnRow rows p (rowCol p (lo + x.2)).2).getD []) c)) := by
  simp only [projLeftRun, if_neg (Nat.ne_of_gt h0)]
  exact run_gathers (base := partAddr o p .lp) hy (fun _ _ _ => rfl) ho

/-- PROJ_RIGHT on a run of a projected panel. -/
theorem projRightRun_gathers {s : State} {c : Access} {o : Ocr} {p : Panel} {lo : Nat} {v : List Val} {l : Nat → List Val} (he : s.store.ecc = []) (h0 : 0 < p.rank)
    (hr : ∀ x ∈ v.zipIdx, readRow c o p .lo (rowCol p (lo + x.2)).1 s = (.ok (l (rowCol p (lo + x.2)).1, false), s)) (hl : ∀ i, (l i).length = p.rank)
    (ho : ∀ j c, c < p.rank → (mapGet [] s.job.acc (accKey 1 p.index (j * p.rank + c))).length + (v.zipIdx.filter (fun x => (rowCol p (lo + x.2)).2 == j)).length < p.rows) :
    ∃ m, projRightRun c o (p, lo, v) s = (.ok [], withAcc s m) ∧ ∀ j c, c < p.rank → mapGet [] m (accKey 1 p.index (j * p.rank + c)) =
      mapGet [] s.job.acc (accKey 1 p.index (j * p.rank + c)) ++ (v.zipIdx.filter (fun x => (rowCol p (lo + x.2)).2 == j)).map (fun x =>
        mulVal x.1 (nthD vzero (convertRow (pfmtElem o) (l (rowCol p (lo + x.2)).1)) c)) := by
  simp only [projRightRun, if_neg (Nat.ne_of_gt h0)]
  refine run_gathers (base := partAddr o p .qp) (y := fun x => convertRow (pfmtElem o) (l (rowCol p (lo + x.2)).1)) (fun x _ => by rw [convertRow_length, hl]) ?_ ho
  intro x hx m
  rw [andThen_ok (readRow_lo_withAcc he (hr x hx) m)]

end Sys2Proof.Proofs

/-!
FORM_DELTA and RESIDUAL (R112, R118, R120).
-/
namespace Sys2Proof.Proofs
open Sys2Proof.Machine Sys2Proof.Safety

/-! ### FORM_DELTA (R112) -/

theorem hopCommand_formDelta (w : BitVec 12) (q : BitVec 48) : HopCommand (.formDelta w q) w q stVECTOR 1 formDeltaWork := fun _ => rfl
theorem hopCommand_residual (w : BitVec 12) (q : BitVec 48) : HopCommand (.residual w q) w q stMATRIX 4 residualWork := fun _ => rfl
theorem hopCommand_applyStep (w : BitVec 12) (q : BitVec 48) : HopCommand (.applyStep w q) w q stVECTOR 9 applyWork := fun _ => rfl

/-- The two states agree in the streams too: so a phase noted, an overflow counted and a run of bytes written leave them. -/
structure Counted (s u : State) : Prop extends SameReach s u where
  strm : u.strm = s.strm

theorem Counted.refl (s : State) : Counted s s := ⟨.refl s, rfl⟩

theorem Counted.trans {s u v : State} (h : Counted s u) (g : Counted u v) : Counted s v := ⟨h.toSameReach.trans g.toSameReach, g.strm.trans h.strm⟩

theorem counted_ovf (s : State) (n : Nat) : Counted s (bumpBy s R.ARITH_OVF_CNT n) := ⟨sameReach_ovf s n, rfl⟩

theorem counted_notePhase (s : State) (n k : Nat) : Counted s (notePhase s n k) := ⟨sameReach_notePhase s n k, notePhase_strm s n k⟩

theorem counted_rawWrite (s : State) (k : Nat) (bs : List Byte) : Counted s (rawWrite s k bs) := ⟨sameReach_rawWrite s k bs, rfl⟩

theorem countOvf_eq (el : Elem) (l : List Val) (s : State) : countOvf el l s = (.ok (), bumpBy s R.ARITH_OVF_CNT (sumOverflows el l)) := rfl

theorem encodeSums_eq (el : Elem) (l : List Val) (s : State) :
    encodeSums el l s = (.ok (encodeTensor el l), bumpBy s R.ARITH_OVF_CNT (sumOverflows el l)) := rfl

theorem each_counted {α : Type} {f : α → HopM Unit} (hf : ∀ x s, ∃ u, f x s = (.ok (), u) ∧ Counted s u) : ∀ (l : List α) (s : State),
    ∃ u ls, HopM.each f l s = (.ok ls, u) ∧ Counted s u
  | [], s => ⟨s, [], rfl, .refl s⟩
  | x :: t, s => by
    obtain ⟨u, h1, g1⟩ := hf x s
    obtain ⟨v, ls, h2, g2⟩ := each_counted hf t u
    refine ⟨v, () :: ls, ?_, g1.trans g2⟩
    rw [HopM.each, andThen_ok h1, andThen_ok h2]
    rfl

theorem countDelta_counts (o : Ocr) (en : Nat × Nat) (l : List (Panel × Nat × List Val)) (s : State) :
    countDelta o en l s = (.ok (), (countDelta o en l s).2) ∧ Counted s (countDelta o en l s).2 := by
  obtain ⟨u, ls, h, g⟩ := each_counted (f := fun r => countOvf (deltaElem o r.1) (clipRun en r).2.2) (fun r s => ⟨_, countOvf_eq _ _ s, counted_ovf s _⟩) l s
  rw [countDelta, andThen_ok h]
  exact ⟨rfl, g⟩

section
variable {s a b : State} {st : Stream} {t : Tile} {o : Ocr} {ps : List Panel} {e n : Nat}

theorem deltaTerms_read {c : Access} {round cnt : Nat} {th re : List Val} {sb : List Byte} (h1 : readF32 c (o.outer + 4 * e) cnt s = (.ok th, s))
    (h2 : hopRead c (o.snap + 2 * e) (2 * cnt) s = (.ok sb, s)) (h3 : readF32 c (residRead o round + 4 * e) cnt s = (.ok re, s)) :
    deltaTerms c o round e cnt s = (.ok ((th.zip ((decodeTensor (.float bf16) sb).zip re)).map (fun x => [x.1, negVal x.2.1, x.2.2])), s) := by
  rw [deltaTerms, andThen_ok h1, andThen_ok h2, andThen_ok h3]
  rfl

theorem formDeltaWork_waits (h : inRound s t.desc.round = false) : formDeltaWork st t s = (.error cWAIT, s) := andThen_error (hopMay_false h)

/-- FORM_DELTA up to the place of its output: Δ formed, its overflows counted. -/
theorem formDeltaWork_forms {g : Panel × Nat × Nat → List (List Val)} (hr : inRound s t.desc.round = true) (ha : notePhase s t.desc.round 2 = a)
    (hj : hopJob st a = (.ok (o, ps), a)) (ht : TileAt o t e n)
    (hg : ∀ r ∈ deltaSpans o ps (e, n), deltaTerms (accessOf st t) o t.desc.round r.2.1 r.2.2 a = (.ok (g r), a)) {l : List (Panel × Nat × List Val)}
    (hl : l = (deltaSpans o ps (e, n)).map (fun r => (r.1, r.2.1, (g r).map exactSum))) (hb : (countDelta o (e, n) l a).2 = b) :
    formDeltaWork st t s = ((stageDelta (accessOf st t) t (encodeDelta o l)).andThen fun _ => HopM.ret (handOn t (encodeDelta o l))) b := by
  have hp : hopDo (fun s => notePhase s t.desc.round 2) s = (.ok (), a) := by rw [← ha]; rfl
  have he : HopM.each (deltaRun (accessOf st t) o t.desc.round) (deltaSpans o ps (e, n)) a = (.ok l, a) := by
    rw [hl]
    exact each_ok fun r hr => by rw [deltaRun, andThen_ok (hg r hr)]; rfl
  have hc : countDelta o (e, n) l a = (.ok (), b) := hb ▸ (countDelta_counts o (e, n) l a).1
  rw [formDeltaWork, andThen_ok (hopMay_true hr), andThen_ok hp, andThen_ok hj, andThen_ok (tileElems_at ht a), andThen_ok he, andThen_ok hc]
  rfl

theorem stageDelta_none {c : Access} {out : List Byte} (h : t.desc.dst = 0 ∨ 2 ≤ refForm t.desc.dst) (s : State) : stageDelta c t out s = (.ok (), s) := by
  rw [stageDelta, if_pos h]
  rfl

/-- Δ never goes to HBM. -/
theorem stageDelta_refused {c : Access} {out : List Byte} (h0 : t.desc.dst ≠ 0) (h1 : refForm t.desc.dst ≤ 1)
    (h : refForm t.desc.dst = 1 ∨ t.desc.dst % 2 ^ 46 < directBase) (s : State) : stageDelta c t out s = (.error cPOLICY, s) := by
  rw [stageDelta, if_neg (by omega), if_neg (by omega)]
  rfl

/-- Δ staged in scratchpad. -/
theorem stageDelta_writes {c : Access} {out : List Byte} {d : State} (h0 : refForm t.desc.dst = 0) (h1 : directBase ≤ t.desc.dst % 2 ^ 46)
    (h : hopWrite c false (t.desc.dst % 2 ^ 46) out s = (.ok (), d)) :
    stageDelta c t out s = (.ok (), noteStaged c.round (t.desc.dst % 2 ^ 46) out.length d) := by
  have hd : 0 < directBase := by decide
  have hz : t.desc.dst ≠ 0 := by rintro h0; rw [h0] at h1; omega
  rw [stageDelta, if_neg (by omega), if_pos ⟨h0, h1⟩, andThen_ok h]
  rfl

theorem noteStaged_strm (round k m : Nat) (s : State) : (noteStaged round k m s).strm = s.strm := by
  unfold noteStaged
  split <;> rfl

/-! ### RESIDUAL (R118, R120) -/

theorem residualWork_waits (h : residualMay s t.desc.round = false ∨ residMay s t.desc.round = false) : residualWork st t s = (.error cWAIT, s) :=
  andThen_error (hopMay_false (by obtain h | h := h <;> simp [h]))

/-- RESIDUAL up to its elements. -/
theorem residualWork_reads {terms : List (List Val)} (h1 : residualMay s t.desc.round = true) (h2 : residMay s t.desc.round = true)
    (ha : notePhase s t.desc.round 7 = a) (hj : hopJob st a = (.ok (o, ps), a)) (ht : TileAt o t e n)
    (hd : deltaTerms (accessOf st t) o t.desc.round e n a = (.ok terms, a)) : residualWork st t s =
      ((HopM.each (fun (x : List Val × Nat) => residElem (accessOf st t) (o, ps) t (e + x.2) x.1) terms.zipIdx).andThen fun res =>
        (encodeSums (.float fp32) res).andThen fun bs => (hopWrite (accessOf st t) false (residWrite o t.desc.round + 4 * e) bs).andThen fun _ =>
        (residFormed t.desc.round e n bs).andThen fun _ => HopM.ret { t with outLen := bs.length }) a := by
  have hp : hopDo (fun s => notePhase s t.desc.round 7) s = (.ok (), a) := by rw [← ha]; rfl
  rw [residualWork, andThen_ok (hopMay_true (by simp [h1, h2])), andThen_ok hp, andThen_ok hj, andThen_ok (tileElems_at ht a), andThen_ok hd]

/-- A special granule behind an element ends the tile. -/
theorem residElem_special {c : Access} {p : Panel} (hp : panelOf ps e = some p)
    (hs : reducedSpecial c o p t.desc.round (rowCol p e).1 (rowCol p e).2 s = (.ok true, s)) (terms : List Val) :
    residElem c (o, ps) t e terms s = (.error cABORTED, flagSpecial (raise s 0 fARITH_SPECIAL 0 t.desc.round) t.desc.round) := by
  simp only [residElem, hp]
  rw [andThen_ok hs]
  rfl

theorem residElem_forms {c : Access} {p : Panel} {g : List Val} (hp : panelOf ps e = some p)
    (hs : reducedSpecial c o p t.desc.round (rowCol p e).1 (rowCol p e).2 s = (.ok false, s))
    (hg : reconTerms c o p t.rows t.desc.round (rowCol p e).1 (rowCol p e).2 false s = (.ok g, s)) (terms : List Val) :
    residElem c (o, ps) t e terms s = (.ok (exactSum (terms ++ g.map negVal)), s) := by
  simp only [residElem, hp]
  rw [andThen_ok hs, if_neg (by decide), andThen_ok hg]
  rfl

theorem notePhase_held (s : State) (n k : Nat) : (notePhase s n k).job.held = s.job.held := by unfold notePhase; split <;> rfl

theorem regN_notePhase (s : State) (n k j : Nat) : regN (notePhase s n k) j = regN s j := by unfold notePhase; split <;> rfl

theorem isData_of_same {u : State} (hj : u.job.held = s.job.held) (hr : regN u R.HLT_ROLE = regN s R.HLT_ROLE) (h : isData s = false) : isData u = false := by
  rw [isData, flag, hj, hr]
  exact h

/-- The elements of the round's residual counted. -/
def residCounted (round n : Nat) (s : State) : State := if s.job.held ∧ round = s.job.round then { s with job := { s.job with residDone := s.job.residDone + n } } else s

theorem residFormed_counts (round n : Nat) (bs : List Byte) (h : isData s = false) : residFormed round e n bs s = (.ok (), residCounted round n s) := by
  unfold residFormed residCounted
  split
  · have hd : isData { s with job := { s.job with residDone := s.job.residDone + n } } = false := isData_of_same rfl rfl h
    simp only [hd, Bool.false_eq_true, false_and, if_false]
  · rfl

theorem residCounted_strm (round n : Nat) (s : State) : (residCounted round n s).strm = s.strm := by
  unfold residCounted
  split <;> rfl

end

end Sys2Proof.Proofs

/-!
APPLY where nothing protects the outer state (R119).
-/
namespace Sys2Proof.Proofs
open Sys2Proof.Machine Sys2Proof.Safety

/-! ### APPLY (R119) -/

theorem unpack_length (w n : Nat) (bs : List Byte) : (unpack w n bs).length = n := by
  unfold unpack
  split <;> simp

theorem vals32_length {bs : List Byte} {n : Nat} (h : bs.length = 4 * n) : (vals32 bs).length = n := by
  have hs : isScaled (.float fp32) = false := rfl
  have hb : elemBits (.float fp32) / 8 = 4 := rfl
  simp only [vals32, decodeTensor, hs, Bool.false_eq_true, if_false, List.length_map, unpack_length, hb, h]
  omega

theorem readF32_length {s u : State} {c : Access} {a n : Nat} {l : List Val} (h : readF32 c a n s = (.ok l, u)) : l.length = n := by
  obtain ⟨b, v, h1, h2⟩ := ok_of_andThen h
  cases h2
  exact vals32_length (hopRead_length h1)

theorem bytesLE_length : ∀ n v : Nat, (bytesLE n v).length = n
  | 0, _ => rfl
  | n + 1, v => by rw [bytesLE, List.length_cons, bytesLE_length n]

theorem encodeF32_length (l : List Val) : (encodeTensor (.float fp32) l).length = 4 * l.length := by
  have hb : (1 + fp32.ebits + fp32.mbits) / 8 = 4 := rfl
  simp only [encodeTensor, hb, List.length_flatMap, bytesLE_length, List.map_const', List.sum_replicate, smul_eq_mul]
  omega

section
variable {s a b : State} {st : Stream} {t : Tile} {o : Ocr} {ps : List Panel} {e n : Nat}

theorem applyWork_waits (h : applyMay s t.desc.round = false) : applyWork st t s = (.error cWAIT, s) := andThen_error (hopMay_false h)

/-- Where this WG9 is no data member, an apply writes at once. -/
theorem protWrite_unprotected (h : isData s = false) (c : Access) (part round off addr : Nat) (bs : List Byte) :
    protWrite c part round off addr bs s = hopWrite c false addr bs s := by
  simp only [protWrite, h, Bool.false_eq_true, false_and, if_false]

theorem unitDone_unprotected (h : isData s = false) (part round off : Nat) : unitDone s part round off = false := by
  simp only [unitDone, h, Bool.false_and]

theorem hopOutput_before {c : Access} (h : t.hop + 1 < st.hops) (bs : List Byte) (s : State) : hopOutput c st t bs s = (.ok (handOn t bs), s) := by
  rw [hopOutput, if_neg (by omega)]
  rfl

theorem outputMay_before {c : Access} (h : t.hop + 1 < st.hops) (n : Nat) (s : State) : outputMay c st t n s = (.ok (), s) := by
  rw [outputMay, if_neg (by omega)]
  rfl

/-- What APPLY makes of the elements of a tile: θ′ and u′, and the sums that were rounded. -/
def applied (o : Ocr) (contributors : Nat) (g : Nat → List Val) (l : List (Val × Val)) : List ((Val × Val) × List Val) :=
  l.zipIdx.map (fun z => applyElem (decodeF fp32 o.mu) (decodeF fp32 o.eta) z.1.1 z.1.2 (exactSum (g z.2)) contributors false false)

/-- APPLY where nothing protects the outer state. -/
theorem applyWork_applies {th us : List Val} {g : Nat → List Val} {x y : Nat} {all : List ((Val × Val) × List Val)} {d1 d2 : State}
    (hh : t.hop + 1 < st.hops) (hm : applyMay s t.desc.round = true) (hj : hopJob st s = (.ok (o, ps), s)) (ht : TileAt o t e n)
    (h1 : readF32 (accessOf st t) (o.outer + 4 * e) n s = (.ok th, s)) (h2 : readF32 (accessOf st t) (o.mom + 4 * e) n s = (.ok us, s))
    (hg : ∀ k, k < (th.zip us).length → ∃ p, panelOf ps (e + k) = some p ∧
      reconTerms (accessOf st t) o p t.rows t.desc.round (rowCol p (e + k)).1 (rowCol p (e + k)).2 true s = (.ok (g k), s))
    (ha : all = applied o s.job.contributors g (th.zip us)) (hd : isData s = false) (hx : Reach s (accessOf st t) true (o.outer + 4 * e) (4 * n) x)
    (hy : Reach s (accessOf st t) true (o.mom + 4 * e) (4 * n) y)
    (hw1 : hopWrite (accessOf st t) false (o.outer + 4 * e) (encodeTensor (.float fp32) ((all.map (·.1)).map (·.1)))
      (bumpBy s R.ARITH_OVF_CNT (sumOverflows (.float fp32) (all.flatMap (·.2)))) = (.ok (), d1)) (hdat : isData d1 = false)
    (hw2 : hopWrite (accessOf st t) false (o.mom + 4 * e) (encodeTensor (.float fp32) ((all.map (·.1)).map (·.2))) d1 = (.ok (), d2)) :
    applyWork st t s = (.ok (handOn t (encodeTensor (.float bf16) ((all.map (·.1)).map (·.1)))), d2) := by
  have hcnt : hopGet (fun s => s.job.contributors) s = (.ok s.job.contributors, s) := rfl
  have hov : isData (bumpBy s R.ARITH_OVF_CNT (sumOverflows (.float fp32) (all.flatMap (·.2)))) = false :=
    isData_of_same (s := s) rfl (regN_setN_ne _ _ (by decide)) hd
  rw [applyWork, andThen_ok (hopMay_true hm), andThen_ok hj, andThen_ok (tileElems_at ht s), andThen_ok h1, andThen_ok h2, andThen_ok hcnt]
  rw [andThen_ok (x := all) (u := s)]
  · dsimp only
    rw [andThen_ok (hopKey_reach hx), andThen_ok (hopKey_reach hy), andThen_ok (outputMay_before hh _ s), andThen_ok (countOvf_eq _ _ s),
      andThen_ok ((protWrite_unprotected hov _ _ _ _ _ _).trans hw1), andThen_ok ((protWrite_unprotected hdat _ _ _ _ _ _).trans hw2)]
    exact hopOutput_before hh _ d2
  · rw [ha]
    refine each_ok fun z hz => ?_
    obtain ⟨p, hp, hr⟩ := hg z.2 (by have := (List.mem_zipIdx hz).2.1; omega)
    simp only [hp]
    have hu : hopGet (fun s => (unitDone s 0 t.desc.round (4 * (e + z.2)), unitDone s 1 t.desc.round (4 * (e + z.2)))) s = (.ok (false, false), s) := by
      simp only [hopGet, unitDone_unprotected hd]
    rw [andThen_ok hu, Bool.and_self, if_neg (by decide), andThen_ok hr]
    rfl

end

end Sys2Proof.Proofs

/-!
O51, from the work of each operation.
-/
namespace Sys2Proof.Proofs
open Sys2Proof.Machine Sys2Proof.Safety

/-! ### O51 -/

section
variable {w : BitVec 12} {q : BitVec 48} {s a : State} {st : Stream} {t : Tile} {o : Ocr} {ps : List Panel} {e n : Nat}

/-- A PROJECT hop's command and the rows it draws. -/
theorem hopCommand_draws {cmd : Instr} {k : Nat} (h : (k = 1 ∧ cmd = .drawSketch w q) ∨ (k = 2 ∧ cmd = .drawStart w q) ∨ (k = 3 ∧ cmd = .fill w q)) :
    HopCommand cmd w q stPROJECT k (drawWork k) := by
  obtain ⟨rfl, rfl⟩ | ⟨rfl, rfl⟩ | ⟨rfl, rfl⟩ := h
  · exact hopCommand_drawSketch w q
  · exact hopCommand_drawStart w q
  · exact hopCommand_fill w q

theorem leftRows_drawn {c : Access} {j : Ocr × List Panel} {en : Nat × Nat} {rows : List (Nat × Nat × List Val)} (h : leftRows c j t en a = (.ok rows, a))
    (hd : t.draw.isSome = true) : rows = t.rows := by
  rw [leftRows, if_pos hd] at h
  cases h
  rfl

theorem hopDone_withAcc (a : State) (m : List (Nat × List Val)) (slot : Nat) (st : Stream) (t : Tile) :
    hopDone (withAcc a m) slot st t = { hopDone a slot st t with job := { a.job with acc := m } } := rfl

end

/-- Settles O51: each operation's work in one equation up to what it writes; a sum still open takes its terms one by one (`run_gathers`), and a write of a hop
to sound storage that it may reach succeeds (`hopWrite_reach`). -/
theorem projectionAndElements : Obligations.ProjectionAndElements := by
  unfold Obligations.ProjectionAndElements
  refine ⟨?projection, ?elements⟩
  case projection =>
    intro w q s st t hl hh c round here held draws
    refine ⟨?draw, ?leftHeld, ?rightHeld, ?sums⟩
    case draw =>
      intro cmd k hd hat
      have hc := hopCommand_draws hd
      refine ⟨fun h1 h2 => hop_waits hc hl hat (drawWork_waits k h1 h2), ?_⟩
      intro o ps e n hr hj ht beside drawn
      refine ⟨?sketch, ?start, ?carry⟩
      case sketch =>
        rintro rfl
        exact hop_done hc hl hat (drawWork_draws 1 hr hj ht (drawRuns_generated (k := 1) (by decide) (fun _ _ => rfl) _)) rfl hh
      case start =>
        rintro rfl
        exact hop_done hc hl hat (drawWork_draws 2 hr hj ht (drawRuns_generated (k := 2) (by decide) (fun _ _ => rfl) _)) rfl hh
      case carry =>
        rintro l rfl hrun
        exact hop_done hc hl hat (drawWork_draws 3 hr hj ht hrun) rfl hh
    case leftHeld => exact fun hat h => hop_waits (hopCommand_projLeft w q) hl hat (projLeftWork_waits h)
    case rightHeld => exact fun hat h => hop_waits (hopCommand_projRight w q) hl hat (projRightWork_waits h)
    case sums =>
      intro o ps p e n lo bs v a hecc hj ht hi hd d row col
      have hs : a.strm = s.strm := notePhase_strm s round 3
      have hacc : a.job.acc = s.job.acc := notePhase_acc s round 3
      have hae : a.store.ecc = [] := (counted_notePhase s round 3).store ▸ hecc
      refine ⟨?left, ?right⟩
      case left =>
        intro rows hr hat hrows
        refine ⟨leftRows_drawn hrows, ?_, ?_⟩
        · intro h0
          exact hop_done (hopCommand_projLeft w q) hl hat (projLeftWork_run hr rfl hj ht hi hd hrows (projLeftRun_direct h0 _ _ _ _ _)) hs hh
        · intro h0 _ _ _ y mine hy ho
          obtain ⟨m, hm, hg⟩ := projLeftRun_gathers (s := a) (o := o) h0 hy (by rw [hacc]; exact ho)
          refine ⟨_, hop_done (hopCommand_projLeft w q) hl hat (projLeftWork_run hr rfl hj ht hi hd hrows hm) hs hh, hopDone_withAcc a m _ st t, ?_⟩
          exact fun i c _ hc => (hg i c hc).trans (by rw [hacc])
      case right =>
        intro hr hat
        refine ⟨?_, ?_⟩
        · intro h0
          exact hop_done (hopCommand_projRight w q) hl hat (projRightWork_run hr rfl hj ht hi hd (projRightRun_direct h0 _ _ _ _ _)) hs hh
        · intro l h0 _ _ _ hrd hlen mine ho
          obtain ⟨m, hm, hg⟩ := projRightRun_gathers (s := a) hae h0 hrd hlen (by rw [hacc]; exact ho)
          refine ⟨_, hop_done (hopCommand_projRight w q) hl hat (projRightWork_run hr rfl hj ht hi hd hm) hs hh, hopDone_withAcc a m _ st t, ?_⟩
          exact fun j c _ hc => (hg j c hc).trans (by rw [hacc])
  case elements =>
    intro w q s st t o ps e n hl hh ht c round here held
    refine ⟨?deltaHeld, ?delta, ?resid, ?applyHeld, ?apply⟩
    case deltaHeld => exact fun hat h => hop_waits (hopCommand_formDelta w q) hl hat (formDeltaWork_waits h)
    case delta =>
      intro th re sb a spans hat hr hj hread l out b at'
      have hterms (r) (h : r ∈ spans) := let ⟨hth, hsb, hre⟩ := hread r h; deltaTerms_read hth hsb hre
      have hw := formDeltaWork_forms (l := l) (b := b) hr rfl hj ht hterms (by simp only [List.map_map]; rfl) rfl
      have hb : Counted s b := (counted_notePhase s round 2).trans (countDelta_counts o (e, n) l a).2
      refine ⟨fun hd => ?_, fun h0 h1 hd => ?_, fun k h0 hd hs hk => ?_⟩
      · exact hop_done (hopCommand_formDelta w q) hl hat (hw.trans (andThen_ok (stageDelta_none hd b))) hb.strm hh
      · exact hop_fails (hopCommand_formDelta w q) hl hat (hw.trans (andThen_error (stageDelta_refused h0 h1 hd b))) (by decide)
      · have hk' := hopWrite_reach (hb.sound hs) (hb.reach hk)
        refine ⟨_, hk', hop_done (hopCommand_formDelta w q) hl hat (hw.trans (andThen_ok (stageDelta_writes h0 hd hk'))) ?_ hh⟩
        exact (noteStaged_strm _ _ _ _).trans ((counted_rawWrite b k out).strm.trans hb.strm)
    case resid =>
      intro a hat
      refine ⟨fun h => hop_waits (hopCommand_residual w q) hl hat (residualWork_waits h), ?_⟩
      intro terms h1 h2 hj hterms
      have hw := residualWork_reads h1 h2 rfl hj ht hterms
      refine ⟨fun p hne hp hsp => ?_, fun g x hg => ?_⟩
      · obtain ⟨x, l, rfl⟩ := List.exists_cons_of_ne_nil hne
        exact hop_fails (hopCommand_residual w q) hl hat (hw.trans (andThen_error (each_error _ (residElem_special (e := e + 0) hp hsp x)))) (by decide)
      · intro l r hs hd hx
        have ha : Counted s (bumpBy a R.ARITH_OVF_CNT (sumOverflows (.float fp32) l)) := (counted_notePhase s round 7).trans (counted_ovf a _)
        have hx' := hopWrite_reach (ha.sound hs) (ha.reach hx)
        have hb : isData (rawWrite (bumpBy a R.ARITH_OVF_CNT (sumOverflows (.float fp32) l)) x r) = false :=
          isData_of_same (s := s) (notePhase_held s round 7) ((regN_setN_ne a _ (by decide)).trans (regN_notePhase s round 7 _)) hd
        refine ⟨_, hx', ?_⟩
        have he : HopM.each (fun (z : List Val × Nat) => residElem c (o, ps) t (e + z.2) z.1) terms.zipIdx a = (.ok l, a) := by
          refine each_ok fun z hz => ?_
          obtain ⟨p, hp, hsp, hr⟩ := hg z.2 (by have := (List.mem_zipIdx hz).2.1; omega)
          exact residElem_forms hp hsp hr z.1
        refine hop_done (hopCommand_residual w q) hl hat (hw.trans ?_) ((residCounted_strm round n _).trans ((counted_rawWrite _ x r).strm.trans ha.strm)) hh
        rw [andThen_ok he, andThen_ok (encodeSums_eq _ l a), andThen_ok hx', andThen_ok (residFormed_counts round n r hb)]
        rfl
    case applyHeld => exact fun hat h => hop_waits (hopCommand_applyStep w q) hl hat (applyWork_waits h)
    case apply =>
      intro th us g x y hat hm hj h1 h2 hg all l hs hd hx hy
      have hlen : (th.zip us).length = n := by rw [List.length_zip, readF32_length h1, readF32_length h2, Nat.min_self]
      have hall : all.length = n := by rw [← hlen]; simp [all]
      have hb : Counted s (bumpBy s R.ARITH_OVF_CNT (sumOverflows (.float fp32) (all.flatMap (·.2)))) := counted_ovf s _
      have hbytes (f : Val × Val → Val) : (encodeTensor (.float fp32) (l.map f)).length = 4 * n := by rw [encodeF32_length]; simp [l, hall]
      have hx' := hopWrite_reach (bs := encodeTensor (.float fp32) (l.map (·.1))) (hb.sound hs) (hb.reach (by rw [hbytes]; exact hx))
      have hc := hb.trans (counted_rawWrite _ x (encodeTensor (.float fp32) (l.map (·.1))))
      have hy' := hopWrite_reach (bs := encodeTensor (.float fp32) (l.map (·.2))) (hc.sound hs) (hc.reach (by rw [hbytes]; exact hy))
      have hdat : isData (rawWrite (bumpBy s R.ARITH_OVF_CNT (sumOverflows (.float fp32) (all.flatMap (·.2)))) x (encodeTensor (.float fp32) (l.map (·.1)))) = false :=
        isData_of_same (s := s) rfl (regN_setN_ne s _ (by decide)) hd
      refine ⟨_, _, hx', hy', hop_done (hopCommand_applyStep w q) hl hat ?_ ((counted_rawWrite _ y _).strm.trans hc.strm) hh⟩
      exact applyWork_applies hh hm hj ht h1 h2 hg rfl hd hx hy hx' hdat hy'

end Sys2Proof.Proofs

/-!
The tick and the time counter (spec/02_package_dies_tick.md, R40, R42, R353, R354, R431): a new increment, a step within the tick, and a
boundary. The laws of a step's frame and of the cycles that run up to a boundary come before the statement.
-/
namespace Sys2Proof.Proofs
open Sys2Proof.Machine Sys2Proof.Safety

/-! ### A new increment (R353) -/

theorem effect_timeIncrNsWrite {s : State} (hl : live s = true) (w : Win) (v : Word) :
    Effect (.timeIncrNsWrite w v) s (if w = .core then commitIncr s v.toNat else s) := by
  rw [Effect, exec_timeIncrNsWrite, execTimeIncrNsWrite, act_live hl]

theorem incrOk_iff (x : Nat) : incrOk x = true ↔ x * 1000000 ≤ 6135667566 * 1000200 ∧ 6135667566 * 999800 ≤ x * 1000000 := by
  rw [incrOk, Bool.and_eq_true, decide_eq_true_iff, decide_eq_true_iff, nominalIncr]

theorem commitIncr_takes {s : State} {n x : Nat} (hx : n * 2 ^ 32 + regN s R.TIME_INCR_FRAC = x) (h : incrOk x = true) :
    commitIncr s n = setN { s with tick := { s.tick with incr := x } } R.TIME_INCR_NS n := by
  subst hx; exact if_pos h

theorem commitIncr_refuses {s : State} {n : Nat} (h : ¬incrOk (n * 2 ^ 32 + regN s R.TIME_INCR_FRAC) = true) :
    commitIncr s n = event (setN (setN s R.TIME_INCR_FRAC s.tick.incr) R.TIME_INCR_NS (s.tick.incr / 0x100000000)) 0x78 0 := if_neg h

/-- A refused increment shows in its registers and its event alone. -/
theorem increment_refused (s : State) (x y : Nat) : let u := event (setN (setN s R.TIME_INCR_FRAC x) R.TIME_INCR_NS y) 0x78 0
    flag u (hdr 0x78 oEVT) 0 = true ∧ RegsKept s u ([R.TIME_INCR_FRAC, R.TIME_INCR_NS] ++ evtKeys 0x78) [0x80] ∧
      u = { s with regs := u.regs, irq := u.irq, sent := u.sent } := by
  refine ⟨flag_event_self _ _ _ (by decide), ?_, keptIrq_eq ?_⟩
  · refine regsKept_trans (u := setN s R.TIME_INCR_FRAC x) (regsKept_mono (regsKept_setN _ _ _) (by decide) (by decide)) ?_
    refine regsKept_trans (u := setN (setN s R.TIME_INCR_FRAC x) R.TIME_INCR_NS y) (regsKept_mono (regsKept_setN _ _ _) (by decide) (by decide)) ?_
    exact regsKept_mono (regsKept_event _ _ _) (by decide) (by decide)
  · exact (keptIrq_of_onlyRegs ((onlyRegs_setN s _ _).trans (onlyRegs_setN _ _ _))).trans (KeptIrq.event _ 0x78 0)

/-! ### A step that stays within the tick (R42, R354) -/

/-- Only registers, interrupts, outputs sent, the tick, the time and the line's bins may differ. -/
def OnlyTimes (s u : State) : Prop := u = { s with regs := u.regs, irq := u.irq, sent := u.sent, tick := u.tick, time := u.time, line := u.line }

theorem OnlyTimes.trans {s u v : State} (h : OnlyTimes s u) (g : OnlyTimes u v) : OnlyTimes s v := by
  unfold OnlyTimes at h g ⊢; rw [g, h]

theorem onlyTimes_of_irq {s u : State} (h : KeptIrq s u) : OnlyTimes s u := by
  rw [keptIrq_eq h]; rfl

theorem onlyTimes_classifySec (s : State) (md : Nat) : OnlyTimes s (classifySec s md) :=
  OnlyTimes.trans (u := putLine s md _) rfl (onlyTimes_of_irq ((KeptIrq.eventIf _ _ _ _).trans (KeptIrq.eventIf _ _ _ _)))

theorem onlyTimes_pmStep (now : Nat) (s : State) (md : Nat) : OnlyTimes s (pmStep now s md) := by
  have h1 := foldl_related (r := OnlyTimes) (fun _ => rfl) (fun _ _ _ h g => h.trans g)
    (f := fun a x => classifySec (putLine a md { lineMod a md with pm := { (lineMod a md).pm with next := x.sec } }) md)
    (fun a x => OnlyTimes.trans (u := putLine a md { lineMod a md with pm := { (lineMod a md).pm with next := x.sec } }) rfl (onlyTimes_classifySec _ md))
    (lineMod s md).pm.secs s
  exact h1.trans (OnlyTimes.trans (u := putLine _ md _) rfl (onlyTimes_of_irq ((KeptIrq.eventIf _ _ _ _).trans (KeptIrq.eventIf _ _ _ _))))

/-- The counter has stepped to x within the tick, which is then held or not: the step is counted and shows STEPPED. -/
structure SteppedTo (s u : State) (x : Nat) (held : Bool) : Prop where
  tick : u.tick = { s.tick with counter := x, follower := x, held := held }
  count : regN u R.TIME_STEPS = min 0xFFFFFFFF (regN s R.TIME_STEPS + 1)
  stepped : flag u (hdr 0x78 oEVT) 1 = true
  regs : RegsKept s u ([R.TIME_STEPS] ++ evtKeys 0x78 ++ evtKeys 0x01) [0x60, 0x61, 0x80]
  rest : OnlyTimes s u

/-- What follows a step shows the same step where it keeps TIME_STEPS and TIME's events. -/
theorem SteppedTo.trans {s u v : State} {x : Nat} {b c : Bool} (h : SteppedTo s u x b) (ht : v.tick = { u.tick with held := c })
    (hr : RegsKept u v (evtKeys 0x01) [0x60, 0x61, 0x80]) (ho : OnlyTimes u v) : SteppedTo s v x c where
  tick := by rw [ht, h.tick]
  count := (regN_of_kept hr (by decide) (by decide)).trans h.count
  stepped := by rw [flag, regN_of_kept hr (by decide) (by decide)]; exact h.stepped
  regs := regsKept_trans h.regs (regsKept_mono hr (by decide) (by decide))
  rest := h.rest.trans ho

theorem steppedTo_counted (s : State) (x : Nat) : SteppedTo s (event (bump (counterTaken s x) R.TIME_STEPS) 0x78 1) x s.tick.held where
  tick := event_tick _ _ _
  count := (regN_event _ _ _ (by decide) (by decide) (by decide)).trans (regN_bump_self _ _)
  stepped := flag_event_self _ _ _ (by decide)
  regs := by
    have h1 : RegsKept s (counterTaken s x) [] [] := regsKept_of_regs rfl _ _
    have h2 : RegsKept (counterTaken s x) (bump (counterTaken s x) R.TIME_STEPS) [R.TIME_STEPS] [] := regsKept_setN _ _ _
    refine regsKept_trans (regsKept_mono h1 (by decide) (by decide)) (regsKept_trans (regsKept_mono h2 (by decide) (by decide)) ?_)
    exact regsKept_mono (regsKept_event _ _ _) (by decide) (by decide)
  rest := by
    have h : OnlyTimes s (bump (counterTaken s x) R.TIME_STEPS) := rfl
    exact h.trans (onlyTimes_of_irq (KeptIrq.event _ _ _))

/-- A step back holds the tick, with TICK's event. -/
theorem SteppedTo.hold {s u : State} {x : Nat} {b : Bool} (h : SteppedTo s u x b) : SteppedTo s (event (tickHeld u) 0x01 2) x true := by
  have h1 : OnlyTimes u (tickHeld u) := rfl
  have h2 : RegsKept u (tickHeld u) [] [] := regsKept_of_regs rfl _ _
  refine h.trans (event_tick _ _ _) (regsKept_trans (regsKept_mono h2 (by decide) (by decide)) ?_) (h1.trans (onlyTimes_of_irq (KeptIrq.event _ _ _)))
  exact regsKept_mono (regsKept_event _ _ _) (by decide) (by decide)

/-- The bins of a module stepped in turn. -/
theorem SteppedTo.bins {s u : State} {x : Nat} {b : Bool} (h : SteppedTo s u x b) {md : Nat} (hm : md < 2) (now : Nat) : SteppedTo s (pmStep now u md) x b := by
  obtain ⟨ht, hr⟩ := binsStepped_pmStep hm now u
  refine h.trans (ht.trans (by rw [h.tick])) (regsKept_mono hr (by decide) ?_) (onlyTimes_pmStep _ _ _)
  rcases (show md = 0 ∨ md = 1 by omega) with rfl | rfl <;> decide

theorem steppedTo_within {s : State} {x : Nat} (h : x / tickUnit ≤ s.tick.now) :
    SteppedTo s (stepTo s x) x (s.tick.held || decide (x < s.tick.counter)) := by
  have hc := steppedTo_counted s x
  have hs := stepCounter_within h
  rw [stepTo_stays hs]
  refine SteppedTo.bins (SteppedTo.bins ?_ (by decide) _) (by decide) _
  split
  · next hb =>
    obtain ⟨hx, hh⟩ := hb
    simpa [hx] using hc.hold
  · next hb =>
    have : (s.tick.held || decide (x < s.tick.counter)) = s.tick.held := by
      cases hh : s.tick.held <;> simp_all
    rw [this]
    exact hc

/-! ### SET and ADD after cycles of the tick (R354) -/

theorem effect_setTime {s : State} (hl : live s = true) (w : Win) (e : Nat) : Effect (.setTime w e) s (setTimeOp s w e) := by
  rw [Effect, exec_setTime, execSetTime, act_live hl]

theorem effect_timeAdd {s : State} (hl : live s = true) (w : Win) (e : Nat) : Effect (.timeAdd w e) s (timeAddOp s w e) := by
  rw [Effect, exec_timeAdd, execTimeAdd, act_live hl]

theorem mayWrite_adjCmd (s : State) : mayWrite s .core R.TIME_ADJ_CMD = true :=
  (mayWrite_core (by decide)).2 (Option.isSome_iff_exists.1 (by decide +kernel))

/-- SET's target, in counter units. -/
def setTarget (a : State) : Int := ((reg64 a R.TIME_ADJ_SEC_LO R.TIME_ADJ_SEC_HI * 1000000000 + regN a R.TIME_ADJ_NS : Nat) : Int) * 4294967296

/-- ADD's target. -/
def addTarget (a : State) : Int :=
  a.tick.counter + (signedOf 64 (reg64 a R.TIME_ADJ_SEC_LO R.TIME_ADJ_SEC_HI) * 1000000000 + signedOf 32 (regN a R.TIME_ADJ_NS)) * 4294967296

theorem setTimeOp_core (s : State) (e : Nat) : setTimeOp s .core e =
    if 999999999 < regN (elapse s e) R.TIME_ADJ_NS then stepRefused (elapse s e) else stepTo (elapse s e) (setTarget (elapse s e)).toNat := by
  have ht : (setTarget (elapse s e)).toNat = (adjSec (elapse s e) * 1000000000 + adjNs (elapse s e)) * nsUnit :=
    (congrArg Int.toNat (Nat.cast_mul _ 4294967296).symm).trans (Int.toNat_natCast _)
  rw [setTimeOp, mayWrite_adjCmd, if_pos rfl, ht]
  rfl

theorem timeAddOp_core (s : State) (e : Nat) : timeAddOp s .core e =
    if addTarget (elapse s e) < 0 ∨ (timeSpan : Int) ≤ addTarget (elapse s e) then stepRefused (elapse s e) else stepTo (elapse s e) (addTarget (elapse s e)).toNat := by
  rw [timeAddOp, mayWrite_adjCmd, if_pos rfl]
  rfl

theorem stepRefused_shows (s : State) : let u := stepRefused s
    flag u (hdr 0x78 oEVT) 5 = true ∧ RegsKept s u (evtKeys 0x78) [0x80] ∧ u = { s with regs := u.regs, irq := u.irq, sent := u.sent } :=
  ⟨flag_event_self _ _ _ (by decide), regsKept_event _ _ _, keptIrq_eq (KeptIrq.event _ _ _)⟩

/-- SET and ADD alike: refused, or a step to the target. -/
theorem effect_timeAdjusted {c : Instr} {e : Nat} {s : State} (hl : live s = true) (hc : c = .setTime .core e ∨ c = .timeAdd .core e) {a : State}
    (ha : elapse s e = a) {t : Int} {bad : Prop} (ht : (if c = .setTime .core e then setTarget a else addTarget a) = t)
    (hb : (if c = .setTime .core e then 999999999 < regN a R.TIME_ADJ_NS else t < 0 ∨ (timeSpan : Int) ≤ t) = bad) :
    (bad → Effect c s (stepRefused a)) ∧ (¬bad → Effect c s (stepTo a t.toNat)) := by
  subst ht hb ha
  rcases hc with rfl | rfl
  · have h := effect_setTime hl .core e
    rw [setTimeOp_core] at h
    rw [if_pos rfl, if_pos rfl]
    exact ⟨fun hb => by rwa [if_pos hb] at h, fun hb => by rwa [if_neg hb] at h⟩
  · have h := effect_timeAdd hl .core e
    rw [timeAddOp_core] at h
    rw [if_neg nofun, if_neg nofun]
    exact ⟨fun hb => by rwa [if_pos hb] at h, fun hb => by rwa [if_neg hb] at h⟩

/-! ### Up to a boundary (R40) -/

theorem effect_tickBoundary {s : State} (h : ticking s = true) (env : TickEnv) : Effect (.tickBoundary env) s (tickOp s env) := by
  rw [Effect, exec_tickBoundary, execTickBoundary, actIf_true h]

/-- The whole number of increments that reaches a target passes it by less than one. -/
theorem cyclesTo_reaches {now target incr : Nat} (h : now < target) (hi : 0 < incr) :
    target ≤ now + cyclesTo now target incr * incr ∧ now + cyclesTo now target incr * incr < target + incr := by
  have h1 := Nat.div_add_mod (target - now + incr - 1) incr
  have h2 := Nat.mod_lt (target - now + incr - 1) hi
  rw [cyclesTo, if_neg (by omega), Nat.mul_comm]
  omega

theorem cyclesTo_pos {now target incr : Nat} (h : now < target) (hi : 0 < incr) : cyclesTo now target incr ≠ 0 := by
  intro h0
  have := (cyclesTo_reaches h hi).1
  rw [h0] at this
  omega

/-- What the pulse outputs' edges may change. -/
def OnlyPulses (s u : State) : Prop := u = { s with regs := u.regs, irq := u.irq, sent := u.sent, time := u.time }

theorem OnlyPulses.trans {s u v : State} (h : OnlyPulses s u) (g : OnlyPulses u v) : OnlyPulses s v := by
  unfold OnlyPulses at h g ⊢; rw [g, h]

theorem onlyPulses_of_irq {s u : State} (h : KeptIrq s u) : OnlyPulses s u := by
  rw [keptIrq_eq h]; rfl

theorem onlyPulses_firePulse (s : State) (p c : Nat) : OnlyPulses s (firePulse s p c) := by
  unfold firePulse
  dsimp only
  generalize setAt {} s.time.pulses p _ = l
  have h : OnlyPulses s { s with time := { s.time with pulses := l } } := rfl
  generalize ({ s with time := { s.time with pulses := l } } : State) = s1 at h
  split
  · exact h.trans (onlyPulses_of_irq ((keptIrq_of_onlyRegs (onlyRegs_setR s1 _ _)).trans (KeptIrq.event _ _ _)))
  · exact h

theorem onlyPulses_runPulse (p c0 c1 : Nat) : ∀ (fuel : Nat) (s : State), OnlyPulses s (runPulse p c0 c1 fuel s)
  | 0, _ => rfl
  | fuel + 1, s => by
    unfold runPulse
    split
    · dsimp only
      split
      · exact (onlyPulses_firePulse s p _).trans (onlyPulses_runPulse p c0 c1 fuel _)
      · rfl
    · rfl

theorem onlyPulses_runPulses (s : State) (c0 n : Nat) : OnlyPulses s (runPulses s c0 n) :=
  foldl_related (r := OnlyPulses) (fun _ => rfl) (fun _ _ _ h g => h.trans g) (fun _ _ => onlyPulses_runPulse _ _ _ _ _) _ s

/-- What passing cycles may change: what the pulses may, and the tick. -/
def OnlyClocks (s u : State) : Prop := u = { s with regs := u.regs, irq := u.irq, sent := u.sent, time := u.time, tick := u.tick }

/-- Cycles pass on both counters, and nothing else moves but the pulses and the count of a hold. -/
theorem passCycles_counts (s : State) {n : Nat} (h : n ≠ 0) : OnlyClocks s (passCycles s n) ∧ (passCycles s n).tick =
    { s.tick with counter := (s.tick.counter + n * s.tick.incr) % timeSpan, follower := (s.tick.follower + n * s.tick.incr) % timeSpan } := by
  have h0 : OnlyPulses s (if s.tick.held then bumpBy s R.TICK_HELD n else s) := by split <;> rfl
  have h1 := h0.trans (onlyPulses_runPulses _ s.tick.counter n)
  unfold passCycles
  rw [if_neg h]
  dsimp only
  generalize runPulses (if s.tick.held then bumpBy s R.TICK_HELD n else s) s.tick.counter n = u at h1
  rw [h1]
  exact ⟨rfl, rfl⟩

/-! ### A boundary in P2 (R431) -/

theorem takeWiresOff_kept (s : State) (v : Nat) : OnlyRegs s (takeWiresOff s v) :=
  onlyRegs_foldl (fun a b => by split <;> rfl) _ s

/-- A tick begins: its number, and a hold ends. -/
theorem beginTick_begins (s : State) (n : Nat) (env : TickEnv) : (beginTick s n env).tick = { s.tick with now := n % 0x10000000000000000, held := false } ∧
    (beginTick s n env).pwr = s.pwr := by
  unfold beginTick
  dsimp only
  rw [eventIf_tick, eventIf_pwr]
  split <;> exact ⟨rfl, rfl⟩

theorem boundary_sleeping {s : State} (h : s.pwr.state = 2) (n : Nat) (env : TickEnv) :
    (boundary s n env).tick = { s.tick with now := n % 0x10000000000000000, held := false } := by
  obtain ⟨ht, hp⟩ := beginTick_begins s n env
  have hw := takeWiresOff_kept (beginTick s n env) env.wiresOff.toNat
  have hs : (takeWiresOff (beginTick s n env) env.wiresOff.toNat).pwr.state = 2 := by rw [hw, hp]; exact h
  unfold boundary
  dsimp only
  rw [if_pos hs, hw, ht]

/-- The counters after the cycles up to the boundary of the next tick. -/
theorem boundary_reached {s : State} (hi : 0 < s.tick.incr) (hc : s.tick.counter < (s.tick.now + 1) * 34359738368000)
    (hw : (s.tick.now + 1) * 34359738368000 + s.tick.incr ≤ timeSpan) : ∃ n c, OnlyClocks s (passCycles s (cyclesToBoundary s)) ∧
      (passCycles s (cyclesToBoundary s)).tick = { s.tick with counter := c, follower := (s.tick.follower + n * s.tick.incr) % timeSpan } ∧
      c = s.tick.counter + n * s.tick.incr ∧ (s.tick.now + 1) * 34359738368000 ≤ c ∧ c < (s.tick.now + 1) * 34359738368000 + s.tick.incr := by
  have hn : cyclesToBoundary s = cyclesTo s.tick.counter ((s.tick.now + 1) * 34359738368000) s.tick.incr := by
    rw [cyclesToBoundary, show tickUnit = 34359738368000 by decide]
  obtain ⟨h1, h2⟩ := cyclesTo_reaches hc hi
  obtain ⟨ho, ht⟩ := passCycles_counts s (cyclesTo_pos hc hi)
  rw [← hn] at h1 h2 ho ht
  exact ⟨_, _, ho, ht, Nat.mod_eq_of_lt (h2.trans_le hw), by rwa [Nat.mod_eq_of_lt (h2.trans_le hw)], by rwa [Nat.mod_eq_of_lt (h2.trans_le hw)]⟩

/-! ### O12 -/

/-- Settles O12: an increment committed or refused; SET and ADD as one step to a target, refused or taken within the tick; and a boundary
as the whole number of increments that reaches it, then `boundary`. -/
theorem timeCounter : Obligations.TimeCounter := by
  refine ⟨?increment, ?step, ?boundary⟩
  case increment =>
    intro w v s hl x ok
    have he := effect_timeIncrNsWrite hl w v
    refine ⟨fun hw => by rwa [if_neg hw] at he, fun hw hok => ?_, fun hw hok => ?_⟩
    all_goals rw [if_pos hw] at he
    · rw [commitIncr_takes rfl ((incrOk_iff x).2 hok)] at he
      have h : RegsKept s { s with tick := { s.tick with incr := x } } [] [] := regsKept_of_regs rfl _ _
      exact ⟨_, he, rfl, (regN_setN_self _ _ _).trans (Nat.mod_eq_of_lt v.isLt),
        regsKept_trans (regsKept_mono h (by decide) (by decide)) (regsKept_setN _ _ _), rfl⟩
    · rw [commitIncr_refuses (mt (incrOk_iff x).1 hok)] at he
      exact ⟨_, he, increment_refused s _ _⟩
  case step =>
    intro c e s hl hc a t bad
    obtain ⟨hbad, hok⟩ := effect_timeAdjusted hl hc (a := a) rfl (t := t) rfl (bad := bad) rfl
    refine ⟨fun hb => ⟨_, hbad hb, stepRefused_shows a⟩, fun hb hx => ?_⟩
    have h := steppedTo_within hx
    exact ⟨_, hok hb, h.tick, h.count, h.stepped, h.regs, h.rest⟩
  case boundary =>
    intro env s ht hr hi hc hw
    obtain ⟨n, c, ho, ha, hcnt, hlo, hhi⟩ := boundary_reached hi hc hw
    have he := effect_tickBoundary ht env
    rw [tickOp, if_pos hr] at he
    generalize passCycles s (cyclesToBoundary s) = a at ho ha he
    have hnow : a.tick.now = s.tick.now := by rw [ha]
    have hpwr : a.pwr = s.pwr := by rw [ho]
    dsimp only at he
    rw [hnow] at he
    refine ⟨a, n, he, by rw [ha, hcnt], by rw [ha], by rw [ha]; exact hlo, by rw [ha]; exact hhi, ?_⟩
    exact ⟨by rw [ho], by rw [ho], by rw [ho], by rw [ho], by rw [ho], by rw [ho], fun h2 => boundary_sleeping (hpwr ▸ h2) _ env⟩

end Sys2Proof.Proofs

/-!
A line module's timers and bins (R249, R255 to R257, R272): what the record of a module is after each operation.
-/
namespace Sys2Proof.Proofs
open Sys2Proof.Machine Sys2Proof.Safety

/-! ### A module's record -/

theorem lineMod_putLine (s : State) (md : Nat) (m : LineMod) : lineMod (putLine s md m) md = m := nthD_setAt_self _ _ _ _

theorem lineMod_of_line {s u : State} (h : u.line = s.line) (md : Nat) : lineMod u md = lineMod s md := by rw [lineMod, h, lineMod]

theorem lineCtx_of_line {s u : State} (h : u.line = s.line) (md dir : Nat) : lineCtx u md dir = lineCtx s md dir := by rw [lineCtx, lineMod_of_line h, lineCtx]

theorem lineCtx_putCtx (s : State) (md dir : Nat) (c : LineCtx) : lineCtx (putCtx s md dir c) md dir = c := by
  rw [lineCtx, putCtx, lineMod_putLine, nthD_setAt_self]

/-! ### Re-acquisition (R249) -/

theorem effect_reacquireTimeout {s : State} (hl : live s = true) (md : Fin 2) : Effect (.reacquireTimeout md) s (reacquireTimeoutOp s md.val) := by
  rw [Effect, exec_reacquireTimeout, execReacquireTimeout, act_live hl]

theorem reacquireTimeoutOp_waits {s : State} {md : Nat} (h : (lineMod s md).steer = none ∨ ∃ t, (lineMod s md).steer = some t ∧ s.tick.now < t + 6) :
    reacquireTimeoutOp s md = s := by
  unfold reacquireTimeoutOp
  rcases h with h | ⟨t, h, ht⟩
  · rw [h]
  · rw [h]
    exact if_neg (Nat.not_le.2 ht)

theorem reacquireTimeoutOp_ends {s : State} {md t : Nat} (h : (lineMod s md).steer = some t) (ht : t + 6 ≤ s.tick.now) :
    reacquireTimeoutOp s md = if (lineMod s md).lof then putLine s md { lineMod s md with steer := none } else declareLof s md := by
  unfold reacquireTimeoutOp
  rw [h]
  exact if_pos ht

/-- A note of a second changes a module's performance data alone. -/
theorem lineMod_pmNote (s : State) (md : Nat) (f : PmSec → PmSec) : ∃ p, lineMod (pmNote s md f) md = { lineMod s md with pm := p } :=
  ⟨_, lineMod_putLine _ _ _⟩

/-- The registers of a module's framing that LOF counts in and raises its event in. -/
theorem lofCnt_apart {md : Nat} (h : md < 2) : pageOf (lf R.LFRM_LOF_CNT md) ≠ 0x80 ∧ pageOf (lf R.LFRM_LOF_CNT md) ≠ 0x81 ∧
    lf R.LFRM_LOF_CNT md ≠ hdr (pgLFRM md) oEVT ∧ lf R.LFRM_LOF_CNT md ≠ hdr (pgLFRM md) oEVTCNT ∧ srcExists (pgLFRM md) = true := by
  rcases (show md = 0 ∨ md = 1 by omega) with rfl | rfl <;> decide +kernel

/-- LOF is declared: the module hunts, with the record raised and counted. -/
theorem declareLof_shows {s : State} {md : Nat} (hm : md < 2) (he : s.store.ecc = []) : let u := declareLof s md
    (lineMod u md).lof = true ∧ (lineMod u md).delin = 0 ∧ (lineMod u md).steer = none ∧ inFault u (pgLFRM md) = true ∧
      regN u (lf R.LFRM_LOF_CNT md) = min 0xFFFFFFFF (regN s (lf R.LFRM_LOF_CNT md) + 1) := by
  obtain ⟨h80, h81, hev, hcnt, hsrc⟩ := lofCnt_apart hm
  intro u
  let a := putLine s md { lineMod s md with delin := 0, count := 0, badRun := 0, lof := true, steer := none }
  let b := event (bump a (lf R.LFRM_LOF_CNT md)) (pgLFRM md) 1
  let c := pmNote (pmCount b md 5 1) md (fun x => { x with defect := true })
  have hu : u = raise c (pgLFRM md) fLINE_LOF 0 (lineMod s md).expect := rfl
  have hc : c.store.ecc = [] := by rw [show c.store = b.store from rfl, event_store]; exact he
  obtain ⟨p, hp⟩ := lineMod_pmNote b md (fun x => { x with counts := setAt 0 x.counts 5 (nthD 0 x.counts 5 + 1) })
  obtain ⟨q, hq⟩ := lineMod_pmNote (pmCount b md 5 1) md (fun x => { x with defect := true })
  have hb : lineMod b md = { lineMod s md with delin := 0, count := 0, badRun := 0, lof := true, steer := none } :=
    (lineMod_of_line (event_line _ _ _) md).trans (lineMod_putLine _ _ _)
  have hmod : lineMod u md = { lineMod b md with pm := q } := by
    rw [hu, lineMod_of_line (raise_line _ _ _ _ _) md]
    exact hq.trans (by rw [pmCount, hp])
  refine ⟨by rw [hmod, hb], by rw [hmod, hb], by rw [hmod, hb], inFault_raise c hc _ _ _ _ hsrc, ?_⟩
  calc regN u (lf R.LFRM_LOF_CNT md) = regN c (lf R.LFRM_LOF_CNT md) := congrArg BitVec.toNat (getR_raise c hc _ _ _ _ h80 h81)
    _ = regN (bump a (lf R.LFRM_LOF_CNT md)) (lf R.LFRM_LOF_CNT md) := regN_event _ _ _ hev hcnt h80
    _ = min 0xFFFFFFFF (regN s (lf R.LFRM_LOF_CNT md) + 1) := regN_bump_self _ _

/-! ### Seconds and bins (R256, R257) -/

theorem effect_secondClassify {s : State} (hl : live s = true) (md : Fin 2) : Effect (.secondClassify md) s (classifyOp s md.val) := by
  rw [Effect, exec_secondClassify, execSecondClassify, act_live hl]

theorem effect_clearCur {s : State} (hl : live s = true) (w : Win) (md : Fin 2) : Effect (.clearCur w md) s (clearCurWrite s w md.val) := by
  rw [Effect, exec_clearCur, execClearCur, act_live hl]

theorem pmAdd_entries (b : List Nat) (h : b.length = 12) (x y : Nat) (l : List Nat) :
    nthD 0 (pmAdd b (x :: y :: l)) 0 = min 0xFFFFFFFF (nthD 0 b 0 + x) ∧ nthD 0 (pmAdd b (x :: y :: l)) 1 = min 0xFFFFFFFF (nthD 0 b 1 + y) := by
  match b, h with
  | _ :: _ :: _, _ => exact ⟨rfl, rfl⟩

/-- The module's performance data after a second is entered. -/
theorem classifySec_pm (s : State) (md : Nat) : let p := (lineMod s md).pm; let q := (lineMod (classifySec s md) md).pm
    q.next = p.next + 1 ∧ q.secs = p.secs.filter (fun y => decide (p.next < y.sec)) ∧
      (∀ b, p.quarter = some b → p.unavail = false → (p.next + 1) % 900 ≠ 0 → isSes (pmOf p.secs p.next) = false →
        ∃ l d, q.quarter = some { b with suspect := d, counts := pmAdd b.counts (ofBool ((pmOf p.secs p.next).eb != 0) :: 0 :: l) }) := by
  intro p q
  let ten := (List.range 10).map (fun i => isSes (pmOf p.secs (p.next + i)))
  have hq : q = (lineMod (classifySec s md) md).pm := rfl
  unfold classifySec at hq
  dsimp only at hq
  rw [lineMod_of_line ((eventIf_line _ _ _ _).trans (eventIf_line _ _ _ _)), lineMod_putLine] at hq
  rw [hq]
  refine ⟨rfl, rfl, fun b hb hu hn hs => ?_⟩
  have hten : ten.all id = false := by
    rw [List.all_eq_false]
    exact ⟨false, List.mem_map.2 ⟨0, by decide, hs⟩, by decide⟩
  have hun : (if p.unavail then !(ten.all (fun b => !b)) else ten.all id) = false := by rw [hu]; exact hten
  have hend : ((p.next + 1) % 900 == 0) = false := beq_eq_false_iff_ne.2 hn
  dsimp only [p, ten] at hun hend hs hb ⊢
  simp only [hun, hend, hs, hb]
  simp only [Bool.false_eq_true, if_false, Bool.false_or, Bool.not_false, Bool.and_true]
  exact ⟨_, _, rfl⟩

theorem classifyOp_waits {s : State} {md : Nat} (h : secOf s.tick.counter < (lineMod s md).pm.next + 11) : classifyOp s md = s := if_neg (Nat.not_le.2 h)

theorem classifyOp_enters {s : State} {md : Nat} (h : (lineMod s md).pm.next + 11 ≤ secOf s.tick.counter) : classifyOp s md = classifySec s md := if_pos h

/-- A second of an available time, not severely errored, counts in its quarter as errored or not. -/
theorem classifySec_quarter {s : State} {md : Nat} {b : PmBin} (hb : (lineMod s md).pm.quarter = some b) (hu : (lineMod s md).pm.unavail = false)
    (hl : b.counts.length = 12) (hn : ((lineMod s md).pm.next + 1) % 900 ≠ 0) (hs : isSes (pmOf (lineMod s md).pm.secs (lineMod s md).pm.next) = false) :
    ∃ b', (lineMod (classifySec s md) md).pm.quarter = some b' ∧
      nthD 0 b'.counts 0 = min 0xFFFFFFFF (nthD 0 b.counts 0 + ofBool ((pmOf (lineMod s md).pm.secs (lineMod s md).pm.next).eb != 0)) ∧
      nthD 0 b'.counts 1 = min 0xFFFFFFFF (nthD 0 b.counts 1) := by
  obtain ⟨_, _, hq⟩ := classifySec_pm s md
  obtain ⟨l, d, he⟩ := hq b hb hu hn hs
  exact ⟨_, he, pmAdd_entries _ hl _ 0 l⟩

/-- CLEAR_CUR: both current bins are empty and suspect, and nothing else changes. -/
theorem clearCurOp_clears (s : State) (md : Nat) : let u := clearCurOp s md
    (∀ b, (lineMod u md).pm.quarter = some b ∨ (lineMod u md).pm.day = some b → b.counts = List.replicate 12 0 ∧ b.suspect = true) ∧
      (lineMod u md).pm.quarters = (lineMod s md).pm.quarters ∧ (lineMod u md).pm.days = (lineMod s md).pm.days ∧ u = { s with line := u.line } := by
  dsimp only
  rw [clearCurOp, lineMod_putLine]
  refine ⟨fun b hb => ?_, rfl, rfl, rfl⟩
  rcases hb with hb | hb <;> cases hb <;> exact ⟨rfl, rfl⟩

/-! ### Timers of loads (R272) -/

theorem effect_rtoExpire {s : State} (hl : live s = true) (md : Fin 2) (dir : Fin 4) : Effect (.rtoExpire md dir) s (rtoExpireOp s md.val dir.val) := by
  rw [Effect, exec_rtoExpire, execRtoExpire, act_live hl]

theorem rtoExpireOp_frozen {s : State} {md dir : Nat} (h : ctxFrozen s md dir = true) : rtoExpireOp s md dir = s := if_pos h

/-- Each load's timer is judged by itself. -/
theorem rtoExpireOp_judges {s : State} {md dir : Nat} (h : ctxFrozen s md dir = false) : let u := rtoExpireOp s md dir; let c := lineCtx s md dir
    (lineCtx u md dir).loads.length = c.loads.length ∧
      (∀ (i : Nat) (l : LineLoad), c.loads[i]? = some l → (lineCtx u md dir).loads[i]? = some (
        if l.due = 0 ∧ l.expiry ≤ s.tick.now then
          (if c.report.any (fun a => !later48 (nthD 0 l.seqs 0) a) = true then { l with due := 2 } else { l with expiry := s.tick.now + rto s md dir })
        else l)) ∧ u = { s with line := u.line } := by
  intro u c
  have hu : u = putCtx s md dir _ := if_neg (by rw [h]; decide)
  rw [hu, lineCtx_putCtx]
  refine ⟨List.length_map _, fun i l hi => ?_, rfl⟩
  rw [List.getElem?_map, hi]
  rfl

end Sys2Proof.Proofs

/-!
What the line's modules keep (R163, R172, R192): storage and its errors met, buffers released, frames dropped, tiles ended and the mirror
leave every module's record and the tick, and bring no error of storage where none is listed.
-/
namespace Sys2Proof.Proofs
open Sys2Proof.Machine Sys2Proof.Safety

/-- The modules' records and the tick are kept, and no error of storage comes to be listed where none is. -/
structure LineKept (s u : State) : Prop where
  mods : u.line.mods = s.line.mods
  tick : u.tick = s.tick
  ecc : s.store.ecc = [] → u.store.ecc = []

theorem LineKept.refl (s : State) : LineKept s s := ⟨rfl, rfl, id⟩

theorem LineKept.trans {s u v : State} (h : LineKept s u) (g : LineKept u v) : LineKept s v :=
  ⟨g.mods.trans h.mods, g.tick.trans h.tick, g.ecc ∘ h.ecc⟩

theorem lineKept_of_store {s u : State} (hl : u.line = s.line) (ht : u.tick = s.tick) (he : u.store = s.store) : LineKept s u :=
  ⟨congrArg LineSt.mods hl, ht, fun h => by rw [he, h]⟩

theorem lineKept_of_irq {s u : State} (h : KeptIrq s u) : LineKept s u := lineKept_of_store h.line h.tick h.store

theorem lineKept_of_regs {s u : State} (h : OnlyRegs s u) : LineKept s u := lineKept_of_irq (keptIrq_of_onlyRegs h)

theorem lineKept_setN (s : State) (k v : Nat) : LineKept s (setN s k v) := lineKept_of_regs (onlyRegs_setN s k v)

theorem lineKept_event (s : State) (page k : Nat) : LineKept s (event s page k) := lineKept_of_irq (KeptIrq.event s page k)

theorem lineKept_foldl {α : Type} {f : State → α → State} (hf : ∀ s x, LineKept s (f s x)) (l : List α) (s : State) : LineKept s (l.foldl f s) :=
  foldl_related (r := LineKept) LineKept.refl (fun _ _ _ h g => h.trans g) hf l s

theorem LineKept.lineMod {s u : State} (h : LineKept s u) (md : Nat) : lineMod u md = lineMod s md := by rw [Machine.lineMod, h.mods, Machine.lineMod]

theorem LineKept.lineCtx {s u : State} (h : LineKept s u) (md dir : Nat) : lineCtx u md dir = lineCtx s md dir := by
  rw [Machine.lineCtx, h.lineMod, Machine.lineCtx]

/-! ### Fault records and storage errors (R163, R164, R375) -/

theorem store_takeReactions (s : State) (src kind : Nat) : (takeReactions s src kind).store = s.store := by
  unfold takeReactions
  dsimp only
  (repeat' split) <;> rfl

theorem store_orderTest (s : State) (src kind ctx addr : Nat) : (orderTest s src kind ctx addr).store = s.store := by
  unfold orderTest
  dsimp only
  split <;> rfl

theorem store_noteRecord (s : State) (src sev kind ctx addr : Nat) : (noteRecord s src sev kind ctx addr).store = s.store := by
  have tail (a : State) (b c : Bool) (m : Nat) : (let s6 := orderTest (if b then irqMessage a m else a) src kind ctx addr
      if c then takeReactions s6 src kind else s6).store = a.store := by
    have h : (if b then irqMessage a m else a).store = a.store := by
      split
      · exact irqMessage_store _ _
      · rfl
    dsimp only
    split
    · rw [store_takeReactions, store_orderTest, h]
    · rw [store_orderTest, h]
  unfold noteRecord
  refine (tail _ _ _ _).trans ((event_store _ _ _).trans ?_)
  split <;> rfl

theorem ecc_eccClear {s : State} (h : s.store.ecc = []) (w : Nat) : (eccClear s w).store.ecc = [] := by
  simp [eccClear, h, mapDel]

theorem ecc_logRecord {s : State} (h : s.store.ecc = []) (src kind : Nat) (b : List Byte) : (logRecord s src kind b).2.store.ecc = [] := by
  unfold logRecord
  dsimp only
  split
  · exact h
  · split
    · rw [event_store]
      exact h
    · split
      · exact h
      · split
        · exact h
        · exact ecc_eccClear h _
        · exact ecc_eccClear h _

theorem lineKept_raise (s : State) (src kind ctx addr : Nat) : LineKept s (raise s src kind ctx addr) := by
  refine ⟨by rw [raise_line], raise_tick _ _ _ _ _, fun h => ?_⟩
  rw [raise, raiseN_clean s h]
  split
  · rw [store_noteRecord]
    exact ecc_logRecord h _ _ _
  · exact h

theorem lineKept_noteEcc (s : State) (k : Nat) (ue scrub : Bool) : LineKept s (noteEcc s k ue scrub) := by
  unfold noteEcc
  dsimp only
  split
  · exact (lineKept_setN s _ _).trans ((lineKept_setN _ _ _).trans ((lineKept_setN _ _ _).trans ((lineKept_setN _ _ _).trans (lineKept_event _ _ _))))
  · exact LineKept.refl s

theorem lineKept_flagAbort (s : State) (round : Nat) (holds : Bool) : LineKept s (flagAbort s round holds) := by
  unfold flagAbort
  split <;> exact lineKept_of_store rfl rfl rfl

theorem lineKept_ueConsequence (s : State) (k : Nat) : LineKept s (ueConsequence s k) := by
  unfold ueConsequence
  split
  · split
    · exact LineKept.trans (u := { s with hlth := { s.hlth with broken := insNat s.hlth.broken k } }) (lineKept_of_store rfl rfl rfl) (lineKept_flagAbort _ _ _)
    · split
      · exact ⟨rfl, rfl, id⟩
      · split
        · exact lineKept_flagAbort _ _ _
        · exact LineKept.refl s
  · exact LineKept.refl s

theorem lineKept_eccClear (s : State) (w : Nat) : LineKept s (eccClear s w) := ⟨rfl, rfl, fun h => ecc_eccClear h w⟩

theorem lineKept_rawWrite (s : State) (k : Nat) (bs : List Byte) : LineKept s (rawWrite s k bs) := lineKept_of_store rfl rfl rfl

theorem lineKept_eccRaise (s : State) (k : Nat) (ue scrub : Bool) : LineKept s (eccRaise s k ue scrub) := by
  have h : LineKept s (raise (noteEcc s k ue scrub) (eccFault k ue).1 (eccFault k ue).2.1 0 (eccFault k ue).2.2) :=
    (lineKept_noteEcc s k ue scrub).trans (lineKept_raise _ _ _ _ _)
  unfold eccRaise
  dsimp only
  split
  · exact h.trans (lineKept_ueConsequence _ _)
  · exact h

theorem lineKept_meetErrors : ∀ (l : List (Nat × EccKind)) (s : State), LineKept s (meetErrors l s)
  | [], s => LineKept.refl s
  | (w, .ce) :: t, s => (lineKept_eccClear s w).trans ((lineKept_eccRaise _ w false false).trans (lineKept_meetErrors t _))
  | (_, .ue) :: t, s => (lineKept_eccRaise s _ _ _).trans (lineKept_meetErrors t _)

theorem lineKept_storeWrite (s : State) (k : Nat) (bs : List Byte) : LineKept s (storeWrite s k bs).2 := by
  unfold storeWrite
  dsimp only
  refine LineKept.trans ?_ (lineKept_foldl (fun _ _ => lineKept_rawWrite _ _ _) _ _)
  refine LineKept.trans ?_ (lineKept_rawWrite _ k bs)
  exact (lineKept_meetErrors _ s).trans (lineKept_foldl (fun _ _ => lineKept_eccClear _ _) _ _)

theorem lineKept_storeRead (s : State) (k n : Nat) : LineKept s (storeRead s k n).2 := by
  unfold storeRead
  dsimp only
  split <;> exact lineKept_meetErrors _ s

theorem lineKept_hwRead (s : State) (a n : Nat) : LineKept s (hwRead s a n).2 := by
  unfold hwRead
  split
  · exact lineKept_storeRead _ _ _
  · exact LineKept.refl s

theorem lineKept_hwWriteAs (kind : Nat) (s : State) (a : Nat) (bs : List Byte) : LineKept s (hwWriteAs kind s a bs) := by
  unfold hwWriteAs
  split
  · exact lineKept_storeWrite _ _ _
  · exact LineKept.refl s

theorem lineKept_hwWrite (s : State) (a : Nat) (bs : List Byte) : LineKept s (hwWrite s a bs) := lineKept_hwWriteAs 0 s a bs

/-! ### Buffers released (R172, R173) -/

theorem lineKept_meetCount (s : State) (h : Nat) : LineKept s (meetCount s h) := by
  unfold meetCount
  split
  · exact LineKept.refl s
  · exact lineKept_hwRead _ _ _

theorem lineKept_setCount (s : State) (h n : Nat) : LineKept s (setCount s h n) := by
  unfold setCount
  split
  · exact lineKept_of_store rfl rfl rfl
  · have h1 := lineKept_hwWriteAs 5 s (segMeta s (hPool h) (hSeg h) + hIdx h) [BitVec.ofNat 8 n]
    dsimp only
    split
    · exact h1.trans (lineKept_hwWriteAs _ _ _ _)
    · exact h1

theorem lineKept_setFree (s : State) (p sg n : Nat) : LineKept s (setFree s p sg n) := by
  unfold setFree
  dsimp only
  split <;> exact lineKept_of_store rfl rfl rfl

theorem lineKept_linkWrite (s : State) (h next : Nat) : LineKept s (linkWrite s h next) := by
  unfold linkWrite
  split
  · exact (lineKept_eccClear s _).trans (lineKept_of_store rfl rfl rfl)
  · exact lineKept_hwWriteAs _ _ _ _

theorem lineKept_pushFree (s : State) (h : Nat) : LineKept s (pushFree s h) :=
  (lineKept_linkWrite s h _).trans ((lineKept_setN _ _ _).trans (lineKept_setFree _ _ _ _))

theorem lineKept_noteBad (s : State) (h kind : Nat) : LineKept s (noteBad s h kind) := (lineKept_setN s _ _).trans (lineKept_raise _ _ _ _ _)

theorem lineKept_releaseQuiet (s : State) (h : Nat) : LineKept s (releaseQuiet s h) := by
  unfold releaseQuiet releaseBuf
  dsimp only
  split
  · exact lineKept_noteBad _ _ _
  · split
    · exact lineKept_of_store rfl rfl rfl
    · have h0 := lineKept_meetCount s h
      split
      · exact h0
      · exact h0.trans ((lineKept_setN _ _ _).trans ((lineKept_event _ _ _).trans (lineKept_noteBad _ _ _)))
      · next n _ =>
        have h1 := h0.trans (lineKept_setCount _ h n)
        split
        · exact h1.trans (lineKept_pushFree _ _)
        · exact h1

/-! ### Frames dropped (R141, R192) -/

theorem lineKept_countOut (s : State) (l : List (Nat × Nat)) : LineKept s (countOut s l) := by
  refine lineKept_foldl (fun a e => ?_) l s
  exact lineKept_of_store rfl rfl rfl

theorem lineKept_releaseCells (s : State) (f : Frame) : LineKept s (releaseCells s f) := lineKept_foldl lineKept_releaseQuiet _ s

theorem lineKept_settleXfer (s : State) (xfer : Nat) : LineKept s (settleXfer s xfer) :=
  LineKept.trans (u := { s with sw := { s.sw with unacked := s.sw.unacked.filter (fun e => e.1 != xfer) } }) (lineKept_of_store rfl rfl rfl)
    (lineKept_foldl (fun _ _ => lineKept_countOut _ _) _ _)

theorem lineKept_dropFrames (s : State) (mine : Frame → Bool) : LineKept s (dropFrames s mine) := by
  have h0 : LineKept s { s with sw := { s.sw with frames := s.sw.frames.filter (fun f => !mine f) } } := lineKept_of_store rfl rfl rfl
  have h1 := h0.trans (lineKept_foldl (f := fun a f => settleXfer (releaseCells (countOut a f.blocks) f) f.xfer)
    (fun _ _ => (lineKept_countOut _ _).trans ((lineKept_releaseCells _ _).trans (lineKept_settleXfer _ _))) (s.sw.frames.filter mine) _)
  have h2 := h1.trans (lineKept_foldl lineKept_releaseQuiet (sharedRefs (s.sw.frames.filter mine)) _)
  exact h2.trans (lineKept_foldl (f := idlePort) (fun _ _ => lineKept_of_store rfl rfl rfl) _ _)

/-! ### Tiles ended (R53, R64, R192) -/

theorem lineKept_putStream (s : State) (slot : Nat) (st : Stream) : LineKept s (putStream s slot st) := lineKept_of_store rfl rfl rfl

theorem lineKept_postRecord {s u : State} {ring : Nat} {mk : Bool → List Byte} (h : postRecord s ring mk = some u) : LineKept s u := by
  unfold postRecord at h
  split at h
  · cases h
    exact LineKept.refl s
  · dsimp only at h
    split at h
    · cases h
    · cases h
      have h1 (a : Nat) (b : List Byte) := lineKept_hwWrite s a b
      split
      · exact ⟨(h1 _ _).mods, (h1 _ _).tick, (h1 _ _).ecc⟩
      · exact (h1 _ _).trans (lineKept_setN _ _ _)

theorem lineKept_writeBack (s : State) (st : Stream) (t : Tile) (done : Nat) : LineKept s (writeBack s st t done) :=
  (lineKept_hwWrite s _ _).trans ((lineKept_hwWrite _ _ _).trans (lineKept_hwWrite _ _ _))

theorem lineKept_countCode (s : State) (c : Nat) : LineKept s (countCode s c) := by
  unfold countCode
  split
  · exact lineKept_setN _ _ _
  · split
    · exact lineKept_setN _ _ _
    · split
      · exact lineKept_setN _ _ _
      · exact LineKept.refl s

theorem lineKept_notePush (s : State) (st : Stream) (t : Tile) : LineKept s (notePush s st t) := by
  unfold notePush
  split <;> exact lineKept_of_store rfl rfl rfl

theorem lineKept_noteCarrier (s : State) (slot : Nat) (t : Tile) : LineKept s (noteCarrier s slot t) := by
  unfold noteCarrier
  split <;> exact lineKept_of_store rfl rfl rfl

theorem lineKept_completeTile {s u : State} {slot : Nat} {st : Stream} {t : Tile} {done : Nat} (h : completeTile s slot st t done = some u) : LineKept s u := by
  unfold completeTile at h
  split at h
  · cases h
  · next s1 hp =>
    have h1 := ((lineKept_writeBack s st t done).trans (lineKept_postRecord hp)).trans (lineKept_countCode s1 (tileStatus t))
    cases h
    refine LineKept.trans ?_ (lineKept_putStream _ _ _)
    refine LineKept.trans ?_ (lineKept_noteCarrier _ _ _)
    refine LineKept.trans ?_ (lineKept_notePush _ _ _)
    have h2 : LineKept s (if bitOf t.desc.attr 4 && (cringSize (countCode s1 (tileStatus t)) t.desc.ring).isSome
        then notifyRing (countCode s1 (tileStatus t)) t.desc.ring else countCode s1 (tileStatus t)) := by
      split
      · exact h1.trans (lineKept_of_irq (KeptIrq.irqMessage _ _))
      · exact h1
    split
    · exact h2.trans (lineKept_releaseQuiet _ _)
    · exact h2

theorem lineKept_flushN : ∀ (n : Nat) (s : State) (slot : Nat), LineKept s (flushN n s slot)
  | 0, s, _ => LineKept.refl s
  | n + 1, s, slot => by
    unfold flushN
    split
    · split
      · split
        · split
          · next h => exact (lineKept_completeTile h).trans (lineKept_flushN n _ slot)
          · dsimp only
            split
            · exact lineKept_putStream _ _ _
            · exact (lineKept_putStream _ _ _).trans (lineKept_event _ _ _)
        · exact LineKept.refl s
      · exact LineKept.refl s
    · exact LineKept.refl s

theorem lineKept_flush (s : State) (slot : Nat) : LineKept s (flush s slot) := by
  unfold flush
  split
  · exact lineKept_flushN _ _ _
  · exact LineKept.refl s

theorem lineKept_failTile (s : State) (slot : Nat) (t : Tile) (code : Nat) : LineKept s (failTile s slot t code) := by
  unfold failTile
  split
  · exact (lineKept_dropFrames s _).trans ((lineKept_countOut _ _).trans ((lineKept_putStream _ _ _).trans (lineKept_flush _ _)))
  · exact LineKept.refl s

theorem lineKept_copyEnds (s : State) (tile : Option (Nat × Nat)) (code : Option Nat) : LineKept s (copyEnds s tile code) := by
  unfold copyEnds
  split
  · exact LineKept.refl s
  · split
    · exact LineKept.refl s
    · split
      · exact LineKept.refl s
      · dsimp only
        split
        · split
          · exact (lineKept_putStream s _ _).trans (lineKept_failTile _ _ _ _)
          · exact (lineKept_putStream s _ _).trans (lineKept_flush _ _)
        · exact lineKept_putStream s _ _

/-! ### The mirror, and transfers that age out (R195, R206) -/

theorem lineKept_mirWrite (s : State) (rec : List Byte) : LineKept s (mirWrite s rec) := by
  have put (a : State) (n : Nat) : LineKept a (setFld (hwWriteAs 7 a (reg64 a R.MIR_BASE_LO R.MIR_BASE_HI + 128 * fld s R.MIR_TAIL 25 0) rec) R.MIR_TAIL 25 0 n) :=
    (lineKept_hwWriteAs 7 a _ rec).trans (lineKept_setN _ _ _)
  have h0 : LineKept s { s with sw := { s.sw with recSeq := (s.sw.recSeq + 1) % 2 ^ 32 } } := lineKept_of_store rfl rfl rfl
  unfold mirWrite
  dsimp only
  split
  · have h1 := h0.trans (lineKept_event _ pgMIR 0)
    split
    · exact h1.trans ((lineKept_setN _ _ _).trans (put _ _))
    · exact h1.trans ((lineKept_setN _ _ _).trans (lineKept_event _ _ _))
  · exact h0.trans (put _ _)

theorem lineKept_mirror (s : State) (p dir cls len fate : Nat) (stream : Option Nat) (head : List Byte) : LineKept s (mirror s p dir cls len fate stream head) := by
  have h (c : Nat) : LineKept s { s with sw := { s.sw with sample := c } } := lineKept_of_store rfl rfl rfl
  unfold mirror
  split
  · exact LineKept.refl s
  · dsimp only
    split
    · exact (h _).trans (lineKept_mirWrite _ _)
    · split
      · exact (h _).trans (lineKept_mirWrite _ _)
      · split
        · exact (h _).trans (lineKept_mirWrite _ _)
        · exact h _

theorem lineKept_ageXfer (s : State) (f : Frame) : LineKept s (ageXfer s f) := by
  have h := lineKept_foldl
    (f := fun a g => mirror (bump a (keyB R.SW_AGED f.cls)) f.port 1 (frameByte g) (32 + g.payload.length) 2 (frameStream g) (frameHead a g))
    (fun a _ => (lineKept_setN a _ _).trans (lineKept_mirror _ _ _ _ _ _ _ _)) (s.sw.frames.filter (fun g => g.xfer == f.xfer)) s
  exact h.trans ((lineKept_dropFrames _ _).trans ((lineKept_event _ _ _).trans (lineKept_copyEnds _ _ _)))

end Sys2Proof.Proofs

/-!
Loads abandoned, and held loads released (R270, R274).
-/
namespace Sys2Proof.Proofs
open Sys2Proof.Machine Sys2Proof.Safety

/-! ### Abandoning (R274) -/

theorem effect_loadAbandon {s : State} (hl : live s = true) (md : Fin 2) (dir : Fin 4) : Effect (.loadAbandon md dir) s (loadAbandonOp s md.val dir.val) := by
  rw [Effect, exec_loadAbandon, execLoadAbandon, act_live hl]

theorem lineCtx_pmNote (s : State) (md dir : Nat) (f : PmSec → PmSec) : lineCtx (pmNote s md f) md dir = lineCtx s md dir := by
  obtain ⟨p, hp⟩ := lineMod_pmNote s md f
  rw [lineCtx, hp, lineCtx]

/-- A context has lost the loads a predicate names, at the same tick, with no error of storage listed where none was. -/
structure LoadsLeft (md dir : Nat) (s u : State) (p : LineLoad → Bool) : Prop where
  loads : (lineCtx u md dir).loads = (lineCtx s md dir).loads.filter p
  tick : u.tick = s.tick
  ecc : s.store.ecc = [] → u.store.ecc = []

theorem LoadsLeft.kept {md dir : Nat} {s u v : State} {p : LineLoad → Bool} (h : LoadsLeft md dir s u p) (g : LineKept u v) : LoadsLeft md dir s v p :=
  ⟨by rw [g.lineCtx, h.loads], g.tick.trans h.tick, g.ecc ∘ h.ecc⟩

theorem loadsLeft_dropLoad (md dir : Nat) (s : State) (l : LineLoad) : LoadsLeft md dir s (dropLoad s md dir l) (fun x => x.num != l.num) := by
  refine LoadsLeft.kept (u := putCtx s md dir _) ⟨?_, rfl, id⟩ (lineKept_countOut _ _)
  rw [lineCtx_putCtx]

theorem loadsLeft_abandonLoad (md dir : Nat) (s : State) (l : LineLoad) :
    LoadsLeft md dir s (abandonLoad md dir s l) (fun x => x.num != l.num) ∧ (s.store.ecc = [] → inFault (abandonLoad md dir s l) pgLDLV = true) := by
  let s0 := l.xfers.foldl (fun a x => match a.sw.frames.find? (fun f => f.xfer == x) with | some f => ageXfer a f | none => a) (dropLoad s md dir l)
  let s1 := pmCount (bump s0 (keyB R.LDLV_ABAND md)) md 4 1
  have h0 : LoadsLeft md dir s s0 (fun x => x.num != l.num) := (loadsLeft_dropLoad md dir s l).kept (lineKept_foldl (fun a x => by
    split
    · exact lineKept_ageXfer _ _
    · exact LineKept.refl a) l.xfers _)
  have hb : LoadsLeft md dir s (bump s0 (keyB R.LDLV_ABAND md)) (fun x => x.num != l.num) := h0.kept (lineKept_setN _ _ _)
  have h1 : LoadsLeft md dir s s1 (fun x => x.num != l.num) := ⟨by rw [← hb.loads]; exact congrArg LineCtx.loads (lineCtx_pmNote _ _ _ _), hb.tick, hb.ecc⟩
  have h2 := h1.kept (lineKept_event s1 pgLDLV 2)
  have hu : abandonLoad md dir s l = raise (event s1 pgLDLV 2) pgLDLV fLINE_ABANDON (md + 8 * dir) l.num := rfl
  rw [hu]
  exact ⟨h2.kept (lineKept_raise _ _ _ _ _), fun he => inFault_raise _ (h2.ecc he) _ _ _ _ (by decide)⟩

/-- Loads abandoned in turn: none of their numbers is left, and the last one's record stands. -/
theorem loadsLeft_abandonAll (md dir : Nat) : ∀ (l : List LineLoad) (s : State), LoadsLeft md dir s (l.foldl (abandonLoad md dir) s) (fun x => l.all (fun y => x.num != y.num)) ∧
    (s.store.ecc = [] → l ≠ [] → inFault (l.foldl (abandonLoad md dir) s) pgLDLV = true)
  | [], s => ⟨⟨by simp, rfl, id⟩, fun _ h => absurd rfl h⟩
  | y :: t, s => by
    obtain ⟨h1, f1⟩ := loadsLeft_abandonLoad md dir s y
    obtain ⟨h2, f2⟩ := loadsLeft_abandonAll md dir t (abandonLoad md dir s y)
    refine ⟨⟨?_, h2.tick.trans h1.tick, h2.ecc ∘ h1.ecc⟩, fun he _ => ?_⟩
    · rw [List.foldl_cons, h2.loads, h1.loads, List.filter_filter]
      refine List.filter_congr fun x _ => ?_
      rw [List.all_cons, Bool.and_comm]
    · cases t with
      | nil => exact f1 he
      | cons z t => exact f2 (h1.ecc he) (List.cons_ne_nil z t)

/-- LOAD_ABANDON: the loads left are old ones within the limit; a record stands where one was not. -/
theorem loadAbandonOp_abandons {s : State} (md dir : Nat) (he : s.store.ecc = []) {lim : Nat} (hlim : fld s (keyB R.LDLV_ABANDON md) 23 0 = lim) : let u := loadAbandonOp s md dir
    (∀ l ∈ (lineCtx u md dir).loads, l ∈ (lineCtx s md dir).loads ∧ s.tick.now < l.start + lim) ∧
      (∀ l ∈ (lineCtx s md dir).loads, l.start + lim ≤ s.tick.now → inFault u pgLDLV = true) ∧
      ((∀ l ∈ (lineCtx s md dir).loads, s.tick.now < l.start + lim) → u = s) := by
  subst hlim
  let lim := fld s (keyB R.LDLV_ABANDON md) 23 0
  let old := (lineCtx s md dir).loads.filter (fun l => decide (l.start + lim ≤ s.tick.now))
  obtain ⟨h, f⟩ := loadsLeft_abandonAll md dir old s
  have hold {l : LineLoad} (hl : l ∈ (lineCtx s md dir).loads) (ht : l.start + lim ≤ s.tick.now) : l ∈ old := List.mem_filter.2 ⟨hl, decide_eq_true ht⟩
  intro u
  have hu : u = old.foldl (abandonLoad md dir) s := rfl
  refine ⟨fun l hl => ?_, fun l hl ht => ?_, fun hn => ?_⟩
  · rw [hu, h.loads] at hl
    obtain ⟨hin, hall⟩ := List.mem_filter.1 hl
    refine ⟨hin, Nat.lt_of_not_le fun ht => ?_⟩
    simpa using List.all_eq_true.1 hall l (hold hin ht)
  · exact f he (List.ne_nil_of_mem (hold hl ht))
  · have : old = [] := List.filter_eq_nil_iff.2 fun l hl => by simpa using hn l hl
    rw [hu, this]
    rfl

/-! ### Held loads (R270) -/

theorem effect_heldLoadRelease {s : State} (hl : live s = true) (md : Fin 2) (dir : Fin 4) : Effect (.heldLoadRelease md dir) s (heldReleaseOp s md.val dir.val) := by
  rw [Effect, exec_heldLoadRelease, execHeldLoadRelease, act_live hl]

theorem later48_irrefl (n : Nat) : later48 n n = false := by
  have : (n + 281474976710656 - n % 281474976710656) % 281474976710656 = 0 := by omega
  unfold later48
  rw [this]
  rfl

theorem later48_succ (n : Nat) : later48 n ((n + 1) % seq48) = false := by
  have : (n + 281474976710656 - (n + 1) % 281474976710656 % 281474976710656) % 281474976710656 = 281474976710655 := by omega
  unfold later48
  rw [this]
  decide

/-- With nothing held at N and nothing skipped, release stands. -/
theorem advanceCtx_stops {md dir low : Nat} {s : State} (hf : (lineCtx s md dir).held.find? (fun h => h.num == (lineCtx s md dir).n) = none)
    (hn : later48 low (lineCtx s md dir).n = false) : ∀ fuel : Nat, advanceCtx md dir low fuel s = s
  | 0 => rfl
  | fuel + 1 => by
    unfold advanceCtx
    dsimp only
    rw [hf]
    dsimp only
    rw [hn]
    exact if_neg (by decide)

theorem heldReleaseOp_stops {md dir : Nat} {s : State} (hh : ∀ h ∈ (lineCtx s md dir).held, h.num ≠ (lineCtx s md dir).n) :
    heldReleaseOp s md dir = s :=
  advanceCtx_stops (List.find?_eq_none.2 fun h hm => by simpa using hh h hm) (later48_irrefl _) _

/-- A load of padding only: nothing is delivered, and N moves on. -/
theorem releaseLoad_padding {s : State} {md dir first : Nat} {b : List Byte} (hp : (lineCtx s md dir).part = []) (hs : (lineCtx s md dir).skipped = false)
    (hb : b.head? = some 0) (hr : inRun s pgSW = true) : releaseLoad s md dir first b =
      some (putCtx s md dir { lineCtx s md dir with n := ((lineCtx s md dir).n + 1) % seq48, part := [], skipped := false }) := by
  have hsp : splitBulk (b.length + 1) b [] = ([], [], []) := if_pos (.inr hb)
  unfold releaseLoad
  dsimp only
  rw [hs, hp]
  simp only [Bool.false_eq_true, if_false, List.nil_append, hsp]
  refine (if_neg ?_).trans rfl
  rw [hr]
  simp [List.partition, List.partition.loop]

/-- The one load a context holds is forgotten with its buffer. -/
theorem dropHeld_only {s : State} {md dir : Nat} {h : HeldLoad} (hh : (lineCtx s md dir).held = [h]) :
    (lineCtx (dropHeld s md dir h) md dir).held = [] ∧ (lineCtx (dropHeld s md dir h) md dir).n = (lineCtx s md dir).n := by
  have hd : dropHeld s md dir h = releaseQuiet (putCtx s md dir { lineCtx s md dir with held := [], bufs := (lineCtx s md dir).bufs.filter (· != h.handle) }) h.handle := by
    unfold dropHeld
    simp [hh]
  rw [hd, (lineKept_releaseQuiet _ _).lineCtx, lineCtx_putCtx]
  exact ⟨rfl, rfl⟩

/-- The load held next in turn is released, and nothing is held after it. -/
theorem heldReleaseOp_releases {s : State} {md dir : Nat} {h : HeldLoad} {b : List Byte} (hh : (lineCtx s md dir).held = [h]) (hn : h.num = (lineCtx s md dir).n)
    (hp : (lineCtx s md dir).part = []) (hs : (lineCtx s md dir).skipped = false) (hr : readPieces s (heldAddr s h) (loadLen s md) = (some b, s))
    (hb : b.head? = some 0) (hw : inRun s pgSW = true) : let u := heldReleaseOp s md dir
    (lineCtx u md dir).n = ((lineCtx s md dir).n + 1) % 2 ^ 48 ∧ (lineCtx u md dir).held = [] := by
  let s2 := putCtx s md dir { lineCtx s md dir with n := ((lineCtx s md dir).n + 1) % seq48, part := [], skipped := false }
  have hc2 : lineCtx s2 md dir = { lineCtx s md dir with n := ((lineCtx s md dir).n + 1) % seq48, part := [], skipped := false } := lineCtx_putCtx _ _ _ _
  obtain ⟨hheld, hnext⟩ := dropHeld_only (s := s2) (md := md) (dir := dir) (h := h) (by rw [hc2, hh])
  rw [hc2] at hnext
  have hstop : advanceCtx md dir (lineCtx s md dir).n 1 (dropHeld s2 md dir h) = dropHeld s2 md dir h := by
    refine advanceCtx_stops (by rw [hheld]; rfl) ?_ 1
    rw [hnext]
    exact later48_succ _
  have hu : heldReleaseOp s md dir = dropHeld s2 md dir h := by
    have hfind : (lineCtx s md dir).held.find? (fun x => x.num == (lineCtx s md dir).n) = some h := by simp [hh, hn]
    unfold heldReleaseOp
    dsimp only
    rw [hh, List.length_singleton]
    unfold advanceCtx
    dsimp only
    rw [hfind]
    dsimp only
    rw [hr]
    dsimp only
    rw [releaseLoad_padding hp hs hb hw]
    exact hstop
  intro u
  rw [show u = dropHeld s2 md dir h from hu]
  exact ⟨hnext, hheld⟩

end Sys2Proof.Proofs

/-!
Lanes and the links between dies (R37, R45, R279 to R282): what a fault record leaves of the registers, what follows a lane's move, and
what each lane command leaves a lane in.
-/
namespace Sys2Proof.Proofs
open Sys2Proof.Machine Sys2Proof.Safety

/-! ### What a fault record leaves of the registers (R370 to R378) -/

/-- What a source's fault record writes beside the interrupt controller's registers on page 0x80. -/
def recordKeys (src : Nat) : List Nat :=
  [fltSum src, keyB R.FLT_COUNT src, R.FLT_TEST, R.FLT_MERGED, R.FLT_LOG_LOST, R.FLT_LOG_TAIL, hdr 0x81 oEVT, hdr 0x81 oEVTCNT]

theorem regsKept_logRecord (s : State) (src kind : Nat) (b : List Byte) : RegsKept s (logRecord s src kind b).2 (recordKeys src) [0x80] := by
  intro j hl hp
  simp only [recordKeys, List.mem_cons, not_or] at hl hp
  obtain ⟨_, _, _, hmerged, hlost, htail, hevt, hcnt, _⟩ := hl
  have hm : getR { s with flt := { s.flt with met := (src, kind) :: s.flt.met } } j = getR s j := rfl
  unfold logRecord
  dsimp only
  split
  · exact getR_bump_ne _ hmerged
  · split
    · rw [getR_event _ _ _ hevt hcnt hp.1, getR_bump_ne _ hlost, hm]
    · split
      · rw [getR_bump_ne _ hlost, hm]
      · split
        · rw [getR_bump_ne _ hlost, getR_setN_ne _ _ htail, hm]
        · rw [getR_rawWrite, getR_eccClear, getR_setN_ne _ _ htail, hm]
        · rw [getR_rawWrite, getR_eccClear, getR_setN_ne _ _ htail, hm]

theorem regsKept_noteRecord (s : State) (src sev kind ctx addr : Nat) : RegsKept s (noteRecord s src sev kind ctx addr) (recordKeys src) [0x80] := by
  intro j hl hp
  simp only [recordKeys, List.mem_cons, not_or] at hl hp
  obtain ⟨hsum, hcount, htest, _, _, _, hevt, hcnt, _⟩ := hl
  have order (a : State) : getR (orderTest a src kind ctx addr) j = getR a j := by
    unfold orderTest
    dsimp only
    split
    · rw [getR_setN_ne _ _ htest, getR_setFlag_ne _ _ _ hsum, getR_setFltDyn]
    · rfl
  have tail (a : State) (b c : Bool) (m : Nat) : getR (let s6 := orderTest (if b then irqMessage a m else a) src kind ctx addr
      if c then takeReactions s6 src kind else s6) j = getR a j := by
    have h5 : getR (if b then irqMessage a m else a) j = getR a j := by
      split
      · exact getR_irqMessage_page _ _ hp.1
      · rfl
    dsimp only
    split
    · rw [getR_takeReactions, order, h5]
    · rw [order, h5]
  unfold noteRecord
  refine (tail _ _ _ _).trans ?_
  rw [getR_event _ _ _ hevt hcnt hp.1, getR_setFltDyn, getR_setN_ne _ _ hsum, getR_bump_ne _ hcount]
  split <;> rfl

theorem regsKept_raise {s : State} (h : s.store.ecc = []) (src kind ctx addr : Nat) : RegsKept s (raise s src kind ctx addr) (recordKeys src) [0x80] := by
  rw [raise, raiseN_clean s h]
  split
  · exact regsKept_trans (regsKept_logRecord _ _ _ _) (regsKept_noteRecord _ _ _ _ _ _)
  · exact regsKept_refl _ _ _

theorem inFault_of_kept {s u : State} {l : List Nat} {src : Nat} (h : RegsKept s u l [0x80]) (hl : fltSum src ∉ l) : inFault u src = inFault s src := by
  have hp : pageOf (fltSum src) = 0x81 := pageOf_keyB _ _
  rw [inFault, inFault, flag, flag, regN_of_kept h hl (by rw [hp]; decide)]

theorem fltSum_mod (src : Nat) : fltSum src % 0x1000 = 0x68 := keyB_mod _ _ (by decide)

/-- A register whose offset is not FLT_SUM's is no source's FLT_SUM. -/
theorem fltSum_ne {src j : Nat} (h : j % 0x1000 ≠ 0x68) : fltSum src ≠ j := fun e => h (e ▸ fltSum_mod src)

theorem inFault_event (s : State) (page k src : Nat) : inFault (event s page k) src = inFault s src := by
  refine inFault_of_kept (regsKept_event s page k) ?_
  simp only [evtKeys, List.mem_cons, List.not_mem_nil, or_false, not_or]
  exact ⟨fltSum_ne (by rw [hdr_mod _ _ (by decide)]; decide), fltSum_ne (by rw [hdr_mod _ _ (by decide)]; decide)⟩

theorem inFault_raise_ne {s : State} (h : s.store.ecc = []) {src a : Nat} (ha : a ≠ src) (kind ctx addr : Nat) : inFault (raise s src kind ctx addr) a = inFault s a := by
  refine inFault_of_kept (regsKept_raise h src kind ctx addr) ?_
  simp only [recordKeys, List.mem_cons, List.not_mem_nil, or_false, not_or]
  refine ⟨fun e => ha ?_, keyB_ne_of_low (by decide), ?_⟩
  · unfold fltSum keyB bankBase at e
    omega
  · refine ⟨?_, ?_, ?_, ?_, ?_, ?_⟩ <;> exact fltSum_ne (by decide)

/-- A source in the fault state stays in it when another record is raised. -/
theorem inFault_raise_stays {s : State} (h : s.store.ecc = []) {a : Nat} (ha : inFault s a = true) (hs : srcExists a = true) (src kind ctx addr : Nat) :
    inFault (raise s src kind ctx addr) a = true := by
  by_cases e : a = src
  · subst e
    exact inFault_raise _ h _ _ _ _ hs
  · rw [inFault_raise_ne h e, ha]

/-- The registers of storage errors lie below offset 0x58 of their pages. -/
theorem getR_noteEcc (s : State) (k : Nat) (ue scrub : Bool) {j : Nat} (h80 : pageOf j ≠ 0x80) (hj : 0x58 ≤ j % 0x1000) : getR (noteEcc s k ue scrub) j = getR s j := by
  unfold noteEcc
  dsimp only
  split
  · have off (r d : Nat) (hr : r % 0x1000 < 0x58) : j ≠ r + d * 0x1000 := by omega
    have hcnt : (if ue = true then R.HBM_UE_CNT else R.HBM_CE_CNT) % 0x1000 < 0x58 := by split <;> decide
    have hevt : ∀ p o, o < 0x58 → j ≠ hdr p o := fun p o ho e => by
      rw [e, hdr_mod _ _ (by omega)] at hj
      omega
    rw [getR_event _ _ _ (hevt _ _ (by decide)) (hevt _ _ (by decide)) h80, getR_setN_ne _ _ (off _ _ (by decide)), getR_setN_ne _ _ (off _ _ (by decide)),
      getR_setN_ne _ _ (off _ _ (by decide)), getR_bump_ne _ (off _ _ hcnt)]
  · rfl

theorem getR_raiseN_high {j : Nat} (h80 : pageOf j ≠ 0x80) (h81 : pageOf j ≠ 0x81) (hj : 0x58 ≤ j % 0x1000) :
    ∀ (n : Nat) (s : State) (src sev kind ctx addr : Nat), getR (raiseN n s src sev kind ctx addr) j = getR s j
  | 0, _, _, _, _, _, _ => rfl
  | n + 1, s, src, sev, kind, ctx, addr => by
    have h : getR (noteRecord (logRecord s src kind (recordBytes src sev kind ctx s.tick.now addr)).2 src sev kind ctx addr) j = getR s j := by
      rw [getR_noteRecord _ _ _ _ _ _ h80 h81, getR_logRecord _ _ _ _ h80 h81]
    unfold raiseN
    dsimp only
    split
    · rfl
    · split
      · rw [getR_raiseN_high h80 h81 hj n, getR_noteEcc _ _ _ _ h80 hj, h]
      · rw [getR_raiseN_high h80 h81 hj n, getR_noteEcc _ _ _ _ h80 hj, h]
      · exact h

/-! ### What follows a lane's move (R248, R279, R280) -/

/-- What the event, the record, the LANE message and LOS that follow a lane's move keep: registers beyond offset 0x58 of all pages but the
interrupt controller's and the collector's, the lanes' lists, storage without errors, and LDLV's fault. -/
structure LaneKept (s u : State) : Prop where
  regs : ∀ j, pageOf j ≠ 0x80 → pageOf j ≠ 0x81 → 0x58 ≤ j % 0x1000 → getR u j = getR s j
  holds : u.line.holds = s.line.holds
  failed : u.line.failed = s.line.failed
  returns : u.line.returns = s.line.returns
  ecc : s.store.ecc = [] → u.store.ecc = []
  fault : s.store.ecc = [] → inFault s pgLDLV = true → inFault u pgLDLV = true

theorem LaneKept.refl (s : State) : LaneKept s s := ⟨fun _ _ _ _ => rfl, rfl, rfl, rfl, id, fun _ h => h⟩

theorem LaneKept.trans {s u v : State} (h : LaneKept s u) (g : LaneKept u v) : LaneKept s v where
  regs j h80 h81 hj := (g.regs j h80 h81 hj).trans (h.regs j h80 h81 hj)
  holds := g.holds.trans h.holds
  failed := g.failed.trans h.failed
  returns := g.returns.trans h.returns
  ecc := g.ecc ∘ h.ecc
  fault he hf := g.fault (h.ecc he) (h.fault he hf)

theorem laneKept_event (s : State) (page k : Nat) : LaneKept s (event s page k) where
  regs j h80 _ hj := by
    have off (o : Nat) (ho : o < 0x58) : j ≠ hdr page o := fun e => by
      rw [e, hdr_mod _ _ (by omega)] at hj
      omega
    exact getR_event _ _ _ (off _ (by decide)) (off _ (by decide)) h80
  holds := by rw [event_line]
  failed := by rw [event_line]
  returns := by rw [event_line]
  ecc h := by rw [event_store, h]
  fault _ h := by rw [inFault_event, h]

theorem laneKept_raise (s : State) (src kind ctx addr : Nat) : LaneKept s (raise s src kind ctx addr) where
  regs _ h80 h81 hj := getR_raiseN_high h80 h81 hj 4 s _ _ _ _ _
  holds := by rw [raise_line]
  failed := by rw [raise_line]
  returns := by rw [raise_line]
  ecc := (lineKept_raise s src kind ctx addr).ecc
  fault he h := inFault_raise_stays he h (by decide) _ _ _ _

theorem laneKept_putLine (s : State) (md : Nat) (m : LineMod) : LaneKept s (putLine s md m) := ⟨fun _ _ _ _ => rfl, rfl, rfl, rfl, id, fun _ h => h⟩

theorem laneKept_sendLane (s : State) (port : Nat) (rx : Bool) : LaneKept s (sendLane s port rx) := by
  unfold sendLane
  split
  · exact ⟨fun _ _ _ _ => rfl, rfl, rfl, rfl, id, fun _ h => h⟩
  · exact LaneKept.refl s

theorem laneKept_updateLos (s : State) (md : Nat) : LaneKept s (updateLos s md) := by
  unfold updateLos
  dsimp only
  split
  · exact (laneKept_putLine s md _).trans ((laneKept_putLine _ md _).trans ((laneKept_event _ _ _).trans (laneKept_raise _ _ _ _ _)))
  · exact laneKept_putLine s md _

theorem laneKept_changed (s : State) (port : Nat) (rx : Bool) : LaneKept s (let s3 := sendLane s port rx; if port < 2 ∧ rx then updateLos s3 port else s3) := by
  dsimp only
  split
  · exact (laneKept_sendLane s port rx).trans (laneKept_updateLos _ _)
  · exact laneKept_sendLane s port rx

/-! ### A lane's move (R279) -/

theorem moveLane_same {s : State} {port lane : Nat} {rx : Bool} {v : Nat} (h : laneState s port lane rx = v) : moveLane s port lane rx v = s := if_pos h

/-- A lane that neither leaves ACTIVE nor enters it just takes its state. -/
theorem moveLane_quiet {s : State} {port lane : Nat} {rx : Bool} {v : Nat} (h : laneState s port lane rx ≠ v) (h0 : laneState s port lane rx ≠ 0) (hv : v ≠ 0) :
    moveLane s port lane rx v = setLane s port lane rx v := by
  unfold moveLane
  dsimp only
  rw [if_neg h, if_neg h0, if_neg (by simp [h0, hv])]

/-- A lane that moves takes its state, and what follows keeps it; where it leaves ACTIVE, LANE_DEGRADE stands. -/
theorem moveLane_moves {s : State} {port lane : Nat} {rx : Bool} {v : Nat} (h : laneState s port lane rx ≠ v) :
    LaneKept (setLane s port lane rx v) (moveLane s port lane rx v) ∧
      (laneState s port lane rx = 0 → s.store.ecc = [] → inFault (moveLane s port lane rx v) pgLDLV = true) := by
  let s1 := setLane s port lane rx v
  by_cases h0 : laneState s port lane rx = 0
  · let s2 := raise (event s1 pgLDLV 4) pgLDLV fLANE_DEGRADE (laneCtx port lane rx) 0
    have hu : moveLane s port lane rx v = (let s3 := sendLane s2 port rx; if port < 2 ∧ rx then updateLos s3 port else s3) := by
      unfold moveLane
      dsimp only
      rw [if_neg h, if_pos h0, if_pos (.inl h0)]
    have h2 : LaneKept s1 s2 := (laneKept_event _ _ _).trans (laneKept_raise _ _ _ _ _)
    rw [hu]
    refine ⟨h2.trans (laneKept_changed s2 port rx), fun _ he => (laneKept_changed s2 port rx).fault (h2.ecc he) ?_⟩
    exact inFault_raise _ ((laneKept_event s1 pgLDLV 4).ecc he) _ _ _ _ (by decide)
  · refine ⟨?_, fun h0' => absurd h0' h0⟩
    unfold moveLane
    dsimp only
    rw [if_neg h, if_neg h0]
    split
    · exact laneKept_changed s1 port rx
    · exact LaneKept.refl s1

/-! ### Lane states -/

theorem laneState_of_kept {s u : State} (h : LaneKept s u) (port lane : Nat) (rx : Bool) : laneState u port lane rx = laneState s port lane rx := by
  have hp : pageOf (keyB R.LDLV_LANE port) = 0x64 := pageOf_keyB _ _
  have hm : keyB R.LDLV_LANE port % 0x1000 = 0x78 := keyB_mod _ _ (by decide)
  rw [laneState, laneState, fld, fld, regN, regN, h.regs _ (by rw [hp]; decide) (by rw [hp]; decide) (by rw [hm]; decide)]

theorem laneState_setLane_self (s : State) (port : Nat) {lane : Nat} (hl : lane < 4) (rx : Bool) {v : Nat} (hv : v < 4) : laneState (setLane s port lane rx v) port lane rx = v := by
  unfold laneState setLane
  dsimp only
  rw [fld_setFld_self _ _ _ _ _ (by omega) (by split <;> omega), show ∀ x : Nat, x + 1 + 1 - x = 2 by omega]
  exact Nat.mod_eq_of_lt hv

/-- Two lanes of a port have fields of two bits at 4 × lane + 2 × receive, which do not meet. -/
theorem laneState_setLane_ne (s : State) (port : Nat) {lane l : Nat} (hl : lane < 4) {rx r : Bool} (h : (l, r) ≠ (lane, rx)) (v : Nat) :
    laneState (setLane s port lane rx v) port l r = laneState s port l r := by
  unfold laneState setLane
  dsimp only
  refine fld_setFld_apart _ _ _ _ _ _ _ (by omega) (by split <;> omega) (by omega) ?_
  cases rx <;> cases r <;> simp at h ⊢ <;> omega

theorem laneState_moveLane (s : State) (port : Nat) {lane : Nat} (hl : lane < 4) (rx : Bool) {v : Nat} (hv : v < 4) : laneState (moveLane s port lane rx v) port lane rx = v := by
  by_cases h : laneState s port lane rx = v
  · rw [moveLane_same h, h]
  · rw [laneState_of_kept (moveLane_moves h).1, laneState_setLane_self s port hl rx hv]

theorem laneState_moveLane_ne (s : State) (port : Nat) {lane l : Nat} (hl : lane < 4) {rx r : Bool} (h : (l, r) ≠ (lane, rx)) (v : Nat) :
    laneState (moveLane s port lane rx v) port l r = laneState s port l r := by
  by_cases e : laneState s port lane rx = v
  · rw [moveLane_same e]
  · rw [laneState_of_kept (moveLane_moves e).1, laneState_setLane_ne s port hl h v]

/-- A move keeps the lanes' lists and storage without errors. -/
theorem moveLane_lists (s : State) (port lane : Nat) (rx : Bool) (v : Nat) : let u := moveLane s port lane rx v
    u.line.holds = s.line.holds ∧ u.line.failed = s.line.failed ∧ u.line.returns = s.line.returns ∧ (s.store.ecc = [] → u.store.ecc = []) := by
  by_cases e : laneState s port lane rx = v
  · dsimp only
    rw [moveLane_same e]
    exact ⟨rfl, rfl, rfl, id⟩
  · have h := (moveLane_moves e).1
    exact ⟨h.holds, h.failed, h.returns, h.ecc⟩

/-- Registers of LDLV beyond the header and LDLV_LANE stand through a move. -/
theorem regN_moveLane_flaps (s : State) (port lane : Nat) (rx : Bool) (v p : Nat) :
    regN (moveLane s port lane rx v) (keyB R.LDLV_FLAPS p) = regN s (keyB R.LDLV_FLAPS p) := by
  by_cases e : laneState s port lane rx = v
  · rw [moveLane_same e]
  · have hp : pageOf (keyB R.LDLV_FLAPS p) = 0x64 := pageOf_keyB _ _
    have hm : keyB R.LDLV_FLAPS p % 0x1000 = 0xA8 := keyB_mod _ _ (by decide)
    rw [regN, (moveLane_moves e).1.regs _ (by rw [hp]; decide) (by rw [hp]; decide) (by rw [hm]; decide)]
    exact regN_setFld_ne _ _ _ _ (keyB_ne_of_low (by decide))

end Sys2Proof.Proofs

/-!
The lanes' commands, and a link between dies that narrows (R37, R45, R279 to R282).
-/
namespace Sys2Proof.Proofs
open Sys2Proof.Machine Sys2Proof.Safety

/-! ### Locks lost and regained, and holds (R279, R281) -/

theorem effect_laneLockLoss {s : State} (hl : live s = true) (p : Fin 6) (l : Fin 4) (rx : Bool) : Effect (.laneLockLoss p l rx) s (lockLossOp s p.val l.val rx) := by
  rw [Effect, exec_laneLockLoss, execLaneLockLoss, act_live hl]

theorem effect_laneLockRegain {s : State} (hl : live s = true) (p : Fin 6) (l : Fin 4) (rx : Bool) :
    Effect (.laneLockRegain p l rx) s (lockRegainOp s p.val l.val rx) := by
  rw [Effect, exec_laneLockRegain, execLaneLockRegain, act_live hl]

theorem effect_laneHoldExpire {s : State} (hl : live s = true) (p : Fin 6) (l : Fin 4) (rx : Bool) :
    Effect (.laneHoldExpire p l rx) s (holdExpireOp s p.val l.val rx) := by
  rw [Effect, exec_laneHoldExpire, execLaneHoldExpire, act_live hl]

/-- The losses of a lane's lock within the last 1,250,000 ticks. -/
def recentLosses (s : State) (k : Nat) : List Nat := (mapGet [] s.line.losses k).filter (fun t => decide (s.tick.now < t + 1250000))

/-- A loss is counted in LDLV_FLAPS. -/
def lossCounted (s : State) (port : Nat) : State := bump s (keyB R.LDLV_FLAPS port)

/-- A loss is kept with the recent ones. -/
def lossKept (s : State) (port k : Nat) : State :=
  { lossCounted s port with line := { s.line with losses := mapPut s.line.losses k (recentLosses s k ++ [s.tick.now]) } }

/-- A hold begins, and the losses that brought it are forgotten. -/
def holdBegun (s : State) (port k : Nat) : State :=
  { lossKept s port k with line := { (lossKept s port k).line with
      holds := mapPut s.line.holds k (s.tick.now + 7500000), losses := mapDel (lossKept s port k).line.losses k } }

theorem lockLossOp_held {s : State} {port lane : Nat} {rx : Bool} (h : laneState s port lane rx = 3) : lockLossOp s port lane rx = lossCounted s port := if_pos h

theorem lockLossOp_down {s : State} {port lane : Nat} {rx : Bool} (h : laneState s port lane rx ≠ 3) (hn : (recentLosses s (laneKey port lane rx)).length < 4) :
    lockLossOp s port lane rx = moveLane (lossKept s port (laneKey port lane rx)) port lane rx 2 := by
  refine (if_neg h).trans (if_neg ?_)
  rw [List.length_append, List.length_singleton]
  exact fun h4 => absurd h4 (by unfold recentLosses at hn; omega)

theorem lockLossOp_hold {s : State} {port lane : Nat} {rx : Bool} (h : laneState s port lane rx ≠ 3) (hn : 4 ≤ (recentLosses s (laneKey port lane rx)).length) :
    lockLossOp s port lane rx = raise (event (moveLane (holdBegun s port (laneKey port lane rx)) port lane rx 3) pgLDLV 5) pgLDLV fLANE_HOLD (laneCtx port lane rx) 0 := by
  refine (if_neg h).trans (if_pos ?_)
  rw [List.length_append, List.length_singleton]
  exact Nat.lt_of_lt_of_le (by decide) (Nat.add_le_add_right hn 1)

theorem laneState_lossCounted (s : State) (port p lane : Nat) (rx : Bool) : laneState (lossCounted s port) p lane rx = laneState s p lane rx :=
  fld_setN_ne _ _ _ _ (keyB_ne_of_low (by decide))

theorem flaps_lossCounted (s : State) (port : Nat) : regN (lossCounted s port) (keyB R.LDLV_FLAPS port) = min 0xFFFFFFFF (regN s (keyB R.LDLV_FLAPS port) + 1) :=
  regN_bump_self _ _

/-- A loss of lock: counted; the lane is DOWN, or held with the fifth recent loss, and a lane that was ACTIVE raises its record. -/
theorem lockLossOp_loses {s : State} (he : s.store.ecc = []) (port : Nat) {lane : Nat} (hl : lane < 4) (rx : Bool) : let u := lockLossOp s port lane rx
    let st := laneState s port lane rx; let k := laneKey port lane rx
    regN u (keyB R.LDLV_FLAPS port) = min 0xFFFFFFFF (regN s (keyB R.LDLV_FLAPS port) + 1) ∧ (st = 3 → laneState u port lane rx = 3) ∧
      (st ≠ 3 → (recentLosses s k).length < 4 → laneState u port lane rx = 2) ∧
      (st ≠ 3 → 4 ≤ (recentLosses s k).length → laneState u port lane rx = 3 ∧ mapFind u.line.holds k = some (s.tick.now + 7500000)) ∧
      (st = 0 → inFault u pgLDLV = true) := by
  intro u st k
  have hst1 : laneState (lossKept s port k) port lane rx = st := laneState_lossCounted s port port lane rx
  have hst2 : laneState (holdBegun s port k) port lane rx = st := laneState_lossCounted s port port lane rx
  by_cases h3 : st = 3
  · have hu : u = lossCounted s port := lockLossOp_held h3
    rw [hu, laneState_lossCounted]
    exact ⟨flaps_lossCounted s port, fun _ => h3, fun h => absurd h3 h, fun h => absurd h3 h, fun h0 => by omega⟩
  · by_cases hn : (recentLosses s k).length < 4
    · have hu : u = moveLane (lossKept s port k) port lane rx 2 := lockLossOp_down h3 hn
      rw [hu, laneState_moveLane _ port hl rx (by decide), regN_moveLane_flaps]
      refine ⟨flaps_lossCounted s port, fun h => absurd h h3, fun _ _ => rfl, fun _ h => by omega, fun h0 => ?_⟩
      exact (moveLane_moves (by rw [hst1]; omega)).2 (hst1.trans h0) he
    · have hu : u = raise (event (moveLane (holdBegun s port k) port lane rx 3) pgLDLV 5) pgLDLV fLANE_HOLD (laneCtx port lane rx) 0 :=
        lockLossOp_hold h3 (Nat.le_of_not_lt hn)
      have hk : LaneKept (moveLane (holdBegun s port k) port lane rx 3) u := hu ▸ (laneKept_event _ _ _).trans (laneKept_raise _ _ _ _ _)
      obtain ⟨hholds, _, _, hecc⟩ := moveLane_lists (holdBegun s port k) port lane rx 3
      have hlane : laneState u port lane rx = 3 := by rw [laneState_of_kept hk, laneState_moveLane _ port hl rx (by decide)]
      have hflaps : regN u (keyB R.LDLV_FLAPS port) = regN (moveLane (holdBegun s port k) port lane rx 3) (keyB R.LDLV_FLAPS port) := by
        have hp : pageOf (keyB R.LDLV_FLAPS port) = 0x64 := pageOf_keyB _ _
        have hm : keyB R.LDLV_FLAPS port % 0x1000 = 0xA8 := keyB_mod _ _ (by decide)
        rw [regN, hk.regs _ (by rw [hp]; decide) (by rw [hp]; decide) (by rw [hm]; decide), regN]
      refine ⟨by rw [hflaps, regN_moveLane_flaps]; exact flaps_lossCounted s port, fun h => absurd h h3, fun _ h => absurd h hn, fun _ _ => ⟨hlane, ?_⟩, fun h0 => ?_⟩
      · rw [hk.holds, hholds]
        exact mapFind_mapPut_self _ _ _
      · exact hk.fault (hecc he) ((moveLane_moves (by rw [hst2]; omega)).2 (hst2.trans h0) he)

/-- A lane that regains lock is DEGRADED where it was DOWN, and nothing but its register changes. -/
theorem lockRegainOp_regains (s : State) (port : Nat) {lane : Nat} (hl : lane < 4) (rx : Bool) : let u := lockRegainOp s port lane rx
    laneState u port lane rx = (if laneState s port lane rx = 2 then 1 else laneState s port lane rx) ∧ (laneState s port lane rx ≠ 2 → u = s) ∧
      RegsKept s u [keyB R.LDLV_LANE port] [] := by
  dsimp only
  by_cases h : laneState s port lane rx = 2
  · have hu : lockRegainOp s port lane rx = setLane s port lane rx 1 :=
      (if_pos h).trans (moveLane_quiet (by rw [h]; decide) (by rw [h]; decide) (by decide))
    rw [hu, if_pos h]
    exact ⟨laneState_setLane_self s port hl rx (by decide), fun h2 => absurd h h2, regsKept_setN s _ _⟩
  · rw [show lockRegainOp s port lane rx = s from if_neg h, if_neg h]
    exact ⟨rfl, fun _ => rfl, regsKept_refl _ _ _⟩

/-- A hold that has run out leaves the lane DEGRADED. -/
theorem holdExpireOp_ends {s : State} {port lane t : Nat} {rx : Bool} (hl : lane < 4) (h3 : laneState s port lane rx = 3)
    (ht : mapFind s.line.holds (laneKey port lane rx) = some t) (hn : t ≤ s.tick.now) : let u := holdExpireOp s port lane rx
    laneState u port lane rx = 1 ∧ mapFind u.line.holds (laneKey port lane rx) = none := by
  have hu : holdExpireOp s port lane rx = moveLane { s with line := { s.line with holds := mapDel s.line.holds (laneKey port lane rx) } } port lane rx 1 := by
    unfold holdExpireOp
    rw [ht]
    exact if_pos ⟨h3, hn⟩
  dsimp only
  rw [hu, (moveLane_lists _ port lane rx 1).1]
  exact ⟨laneState_moveLane _ port hl rx (by decide), mapFind_mapDel_self _ _⟩

theorem holdExpireOp_stands {s : State} {port lane : Nat} {rx : Bool} (h : laneState s port lane rx ≠ 3 ∨ mapFind s.line.holds (laneKey port lane rx) = none) :
    holdExpireOp s port lane rx = s := by
  unfold holdExpireOp
  split
  · next t ht =>
    refine if_neg fun hc => ?_
    rcases h with h | h
    · exact h hc.1
    · rw [h] at ht
      cases ht
  · rfl

/-! ### LDLV_LANE_CMD (R282) -/

theorem effect_ldlvLaneCmdWrite {s : State} (hl : live s = true) {w : Win} (hw : mayWrite s w R.LDLV_LANE_CMD = true) (v : Word) :
    Effect (.ldlvLaneCmdWrite w v) s (laneCmdOp s (fld s R.LDLV_IDX 2 0) (bitsOf v.toNat 3 0)) := by
  rw [Effect, exec_ldlvLaneCmdWrite, execLdlvLaneCmdWrite, act_live hl, if_pos hw]

theorem mem_insNat {a k : Nat} : ∀ {l : List Nat}, a ∈ insNat l k ↔ a = k ∨ a ∈ l
  | [] => by simp [insNat]
  | b :: t => by
    unfold insNat
    split
    · next h => simp [h]
    · split
      · simp
      · rw [List.mem_cons, mem_insNat, List.mem_cons]
        exact or_left_comm

/-- A lane is DEGRADED and its LANE_PRBS has not failed: it may return. -/
def mayReturn (s : State) (port lane : Nat) (rx : Bool) : Prop := laneState s port lane rx = 1 ∧ s.line.failed.contains (laneKey port lane rx) = false

/-- LDLV_LANE_CMD has met some lanes of a port: the receive lanes named that may return are ACTIVE, the transmit lanes wait for the boundary, and
every other lane stands. -/
structure LanesCommanded (port mask : Nat) (s u : State) (lanes : List Nat) : Prop where
  back : ∀ l ∈ lanes, bitOf mask l = true → mayReturn s port l true → laneState u port l true = 0
  rest : ∀ l < 4, ¬(l ∈ lanes ∧ bitOf mask l = true ∧ mayReturn s port l true) → laneState u port l true = laneState s port l true
  tx : ∀ l < 4, laneState u port l false = laneState s port l false
  failed : u.line.failed = s.line.failed
  waits : ∀ l ∈ lanes, bitOf mask l = true → mayReturn s port l false → laneKey port l false ∈ u.line.returns
  still : ∀ k ∈ s.line.returns, k ∈ u.line.returns

/-- A receive lane named returns. -/
def rxReturned (s : State) (port l : Nat) : State :=
  if laneState s port l true = 1 ∧ !(s.line.failed.contains (laneKey port l true)) then moveLane s port l true 0 else s

/-- A transmit lane named waits for the boundary. -/
def txWaits (s : State) (port l : Nat) : State :=
  if laneState s port l false = 1 ∧ !(s.line.failed.contains (laneKey port l false)) then
    { s with line := { s.line with returns := insNat s.line.returns (laneKey port l false) } } else s

theorem laneCmdOp_eq (s : State) (port mask : Nat) :
    laneCmdOp s port mask = (List.range 4).foldl (fun a l => if bitOf mask l then txWaits (rxReturned a port l) port l else a) s := rfl

theorem returns_iff (s : State) (port l : Nat) (rx : Bool) : (laneState s port l rx = 1 ∧ (!(s.line.failed.contains (laneKey port l rx))) = true) ↔ mayReturn s port l rx := by
  rw [Bool.not_eq_true']
  rfl

theorem rxReturned_returns {s : State} {port l : Nat} (h : mayReturn s port l true) : rxReturned s port l = moveLane s port l true 0 := if_pos ((returns_iff s port l true).2 h)

theorem rxReturned_stands {s : State} {port l : Nat} (h : ¬mayReturn s port l true) : rxReturned s port l = s := if_neg (mt (returns_iff s port l true).1 h)

/-- A receive lane's return leaves every other lane and the lanes' lists. -/
theorem rxReturned_leaves (s : State) (port : Nat) {l : Nat} (hl : l < 4) : let u := rxReturned s port l
    (∀ x r, (x, r) ≠ (l, true) → laneState u port x r = laneState s port x r) ∧ u.line.failed = s.line.failed ∧ u.line.returns = s.line.returns := by
  by_cases h : mayReturn s port l true
  · obtain ⟨_, hf, hr, _⟩ := moveLane_lists s port l true 0
    rw [rxReturned_returns h]
    exact ⟨fun _ _ hx => laneState_moveLane_ne s port hl hx 0, hf, hr⟩
  · rw [rxReturned_stands h]
    exact ⟨fun _ _ _ => rfl, rfl, rfl⟩

/-- A transmit lane that may return waits, and nothing else changes. -/
theorem txWaits_leaves (s : State) (port l : Nat) : let u := txWaits s port l
    (∀ x r, laneState u port x r = laneState s port x r) ∧ u.line.failed = s.line.failed ∧ (∀ k ∈ s.line.returns, k ∈ u.line.returns) ∧
      (mayReturn s port l false → laneKey port l false ∈ u.line.returns) := by
  dsimp only
  unfold txWaits
  split
  · exact ⟨fun _ _ => rfl, rfl, fun _ hk => mem_insNat.2 (.inr hk), fun _ => mem_insNat.2 (.inl rfl)⟩
  · next h => exact ⟨fun _ _ => rfl, rfl, fun _ hk => hk, fun hm => absurd ((returns_iff s port l false).2 hm) h⟩

theorem lanesCommanded_one {port mask l : Nat} (hl : l < 4) (s : State) :
    LanesCommanded port mask s (if bitOf mask l then txWaits (rxReturned s port l) port l else s) [l] := by
  by_cases hb : bitOf mask l = true
  · obtain ⟨hlane, hfail, hret⟩ := rxReturned_leaves s port hl
    obtain ⟨glane, gfail, gstill, gwaits⟩ := txWaits_leaves (rxReturned s port l) port l
    rw [if_pos hb]
    refine ⟨fun x hx _ hm => ?_, fun x _ hn => ?_, fun x _ => ?_, gfail.trans hfail, fun x hx _ hm => ?_, fun k hk => gstill k (hret ▸ hk)⟩
    · obtain rfl := List.mem_singleton.1 hx
      rw [glane, rxReturned_returns hm]
      exact laneState_moveLane s port hl true (by decide)
    · rw [glane]
      by_cases hx : x = l
      · subst hx
        rw [rxReturned_stands fun hm => hn ⟨List.mem_singleton_self _, hb, hm⟩]
      · exact hlane x true (by simp [hx])
    · exact (glane x false).trans (hlane x false (by simp))
    · obtain rfl := List.mem_singleton.1 hx
      refine gwaits ⟨?_, ?_⟩
      · rw [hlane x false (by simp), hm.1]
      · rw [hfail, hm.2]
  · rw [if_neg hb]
    refine ⟨fun x hx h => ?_, fun _ _ _ => rfl, fun _ _ => rfl, rfl, fun x hx h => ?_, fun _ h => h⟩
    all_goals
      obtain rfl := List.mem_singleton.1 hx
      exact absurd h hb

/-- A lane not met may return after as before. -/
theorem LanesCommanded.mayReturn_iff {port mask x : Nat} {t : List Nat} {s u : State} (h : LanesCommanded port mask s u t) (hx : x < 4) (hn : x ∉ t) (r : Bool) :
    mayReturn u port x r ↔ mayReturn s port x r := by
  have hs : laneState u port x r = laneState s port x r := by
    cases r
    · exact h.tx x hx
    · exact h.rest x hx fun hc => hn hc.1
  rw [mayReturn, hs, h.failed, mayReturn]

/-- Lanes met after another: each is met once, and one lane's return leaves the others as they were. -/
theorem LanesCommanded.cons {port mask l : Nat} {t : List Nat} {s u v : State} (hl : l < 4) (hn : l ∉ t) (ht : ∀ x ∈ t, x < 4) (h : LanesCommanded port mask s u [l])
    (g : LanesCommanded port mask u v t) : LanesCommanded port mask s v (l :: t) := by
  have hne {x : Nat} (hx : x ∈ t) : x ∉ [l] := fun hm => hn (List.mem_singleton.1 hm ▸ hx)
  have hsame {x : Nat} (hx : x ∈ t) (r : Bool) := h.mayReturn_iff (ht x hx) (hne hx) r
  refine ⟨fun x hx hb hm => ?_, fun x hx hr => ?_, fun x hx => (g.tx x hx).trans (h.tx x hx), g.failed.trans h.failed, fun x hx hb hm => ?_,
    fun k hk => g.still k (h.still k hk)⟩
  · rcases List.mem_cons.1 hx with rfl | hx
    · rw [g.rest x hl fun hc => hn hc.1, h.back x (List.mem_singleton_self x) hb hm]
    · exact g.back x hx hb ((hsame hx true).2 hm)
  · rw [g.rest x hx fun ⟨hc, hb, hm⟩ => hr ⟨List.mem_cons_of_mem l hc, hb, (hsame hc true).1 hm⟩]
    exact h.rest x hx fun ⟨hc, hb, hm⟩ => hr ⟨List.mem_singleton.1 hc ▸ List.mem_cons_self, hb, hm⟩
  · rcases List.mem_cons.1 hx with rfl | hx
    · exact g.still _ (h.waits x (List.mem_singleton_self x) hb hm)
    · exact g.waits x hx hb ((hsame hx false).2 hm)

theorem lanesCommanded_foldl {port mask : Nat} : ∀ (t : List Nat) (s : State), (∀ l ∈ t, l < 4) → t.Nodup →
    LanesCommanded port mask s (t.foldl (fun a l => if bitOf mask l then txWaits (rxReturned a port l) port l else a) s) t
  | [], _, _, _ => ⟨nofun, fun _ _ _ => rfl, fun _ _ => rfl, rfl, nofun, fun _ h => h⟩
  | l :: t, s, h4, hn => by
    obtain ⟨hl, ht⟩ := List.forall_mem_cons.1 h4
    obtain ⟨hnl, hnt⟩ := List.nodup_cons.1 hn
    exact (lanesCommanded_one hl s).cons hl hnl ht (lanesCommanded_foldl t _ ht hnt)

theorem bitOf_low (v : Nat) {l : Nat} (hl : l < 4) : bitOf (bitsOf v 3 0) l = bitOf v l := by
  have : l = 0 ∨ l = 1 ∨ l = 2 ∨ l = 3 := by omega
  rw [bitOf, bitOf, bitsOf, decide_eq_decide]
  rcases this with rfl | rfl | rfl | rfl <;> omega

/-- LDLV_LANE_CMD returns the receive lanes it names that may return, and no other; the transmit lanes it names that may return wait. -/
theorem laneCmdOp_returns (s : State) (p v : Nat) : let u := laneCmdOp s p (bitsOf v 3 0)
    (∀ l, l < 4 → laneState u p l true =
      if bitOf v l = true ∧ laneState s p l true = 1 ∧ s.line.failed.contains (laneKey p l true) = false then 0 else laneState s p l true) ∧
    (∀ l, l < 4 → laneState u p l false = laneState s p l false) ∧
    (∀ l, l < 4 → bitOf v l = true → laneState s p l false = 1 → s.line.failed.contains (laneKey p l false) = false →
      u.line.returns.contains (laneKey p l false) = true) := by
  have h : LanesCommanded p (bitsOf v 3 0) s (laneCmdOp s p (bitsOf v 3 0)) (List.range 4) :=
    lanesCommanded_foldl (List.range 4) s (fun _ => List.mem_range.1) List.nodup_range
  refine ⟨fun l hl => ?_, h.tx, fun l hl hb h1 hf => ?_⟩
  · split
    · next hc => exact h.back l (List.mem_range.2 hl) ((bitOf_low v hl).trans hc.1) hc.2
    · next hc => exact h.rest l hl fun ⟨_, hb, hm⟩ => hc ⟨(bitOf_low v hl).symm.trans hb, hm⟩
  · exact List.contains_iff_mem.2 (h.waits l (List.mem_range.2 hl) ((bitOf_low v hl).trans hb) ⟨h1, hf⟩)

/-! ### LANE messages, and links between dies (R37, R45, R280) -/

theorem effect_laneMessage {s : State} (hl : live s = true) (md : Fin 2) (n : Fin 5) (t : DWord) :
    Effect (.laneMessage md n t) s (laneMessageOp s md.val n.val t.toNat) := by
  rw [Effect, exec_laneMessage, execLaneMessage, act_live hl]

theorem effect_d2dLinkDegrade {s : State} (hl : live s = true) (d : Fin 8) (l : Fin 3) : Effect (.d2dLinkDegrade d l) s (d2dDegradeOp s d.val l.val) := by
  rw [Effect, exec_d2dLinkDegrade, execD2dLinkDegrade, act_live hl]

/-- D2D_STAT of a field die. -/
def d2dStat (d : Nat) : Nat := R.FLD_D2D_STAT + 0x1000 * d

theorem pageOf_d2dStat {d : Nat} (hd : d < 8) : pageOf (d2dStat d) = 0x10 + d := by
  have hk : d2dStat d = 0x10040 + 0x1000 * d := rfl
  rw [hk, pageOf, bankBase]
  omega

theorem mem_fldPages {d : Nat} (hd : d < 8) : 0x10 + d ∈ fldPages := List.mem_map.2 ⟨d, List.mem_range.2 hd, Nat.add_comm _ _⟩

theorem linkFar_other {d l d' l' : Nat} (hd : d < 8) (h : linkFar d l = some (d', l')) : d' < 8 ∧ d' ≠ d := by
  unfold linkFar at h
  (repeat' split at h) <;> cases h <;> omega

theorem regsKept_setFld_d2d (s : State) {d : Nat} (hd : d < 8) (hi lo v : Nat) : RegsKept s (setFld s (d2dStat d) hi lo v) [] fldPages :=
  fun _ _ hp => getR_setFld_ne s _ _ _ fun e => hp (e ▸ pageOf_d2dStat hd ▸ mem_fldPages hd)

/-- A link's state shows at its own end, and changes the field dies' pages alone. -/
theorem putLink_shows (s : State) {d l st : Nat} (hd : d < 8) (hl : l < 3) (hst : st < 4) : let u := putLink s d l st
    fld u (d2dStat d) (8 * l + 1) (8 * l) = st ∧ RegsKept s u [] fldPages ∧ u.store.ecc = s.store.ecc := by
  let s0 : State := if st = 3 then { s with store := { s.store with narrow := insNat s.store.narrow (linkKey d l) } } else s
  let s1 := setFld s0 (d2dStat d) (8 * l + 1) (8 * l) st
  have hr0 : RegsKept s s0 [] fldPages := regsKept_of_regs (by dsimp only [s0]; split <;> rfl) _ _
  have he0 : s0.store.ecc = s.store.ecc := by dsimp only [s0]; split <;> rfl
  have hr1 : RegsKept s s1 [] fldPages := regsKept_trans hr0 (regsKept_setFld_d2d s0 hd _ _ _)
  have hf1 : fld s1 (d2dStat d) (8 * l + 1) (8 * l) = st := by
    rw [fld_setFld_self _ _ _ _ _ (by omega) (by omega), show 8 * l + 1 + 1 - 8 * l = 2 by omega]
    exact Nat.mod_eq_of_lt hst
  intro u
  have hu : u = match linkFar d l with | some (d', l') => setFld s1 (d2dStat d') (8 * l' + 1) (8 * l') st | none => s1 := rfl
  rw [hu]
  split
  · next d' l' hfar =>
    obtain ⟨hd', hne⟩ := linkFar_other hd hfar
    refine ⟨?_, regsKept_trans hr1 (regsKept_setFld_d2d s1 hd' _ _ _), he0⟩
    rw [fld_setFld_ne _ _ _ _ _ _ (by unfold d2dStat; omega), hf1]
  · exact ⟨hf1, hr1, he0⟩

theorem srcExists_fld : ∀ d : Fin 8, srcExists (0x10 + d.val) = true := by decide

/-- A link narrowed shows HALF at its end and raises its fault. -/
theorem d2dDegradeOp_shows {s : State} (he : s.store.ecc = []) (d : Fin 8) (l : Fin 3) : let u := d2dDegradeOp s d.val l.val
    fld u (R.FLD_D2D_STAT + 0x1000 * d.val) (8 * l.val + 1) (8 * l.val) = 3 ∧ inFault u (0x10 + d.val) = true ∧ RegsKept s u [] ([0x80, 0x81] ++ fldPages) := by
  obtain ⟨hf, hr, hecc⟩ := putLink_shows s d.isLt l.isLt (st := 3) (by decide)
  have he1 : (putLink s d.val l.val 3).store.ecc = [] := hecc.trans he
  have hpage (k : Nat) (hp : pageOf k ∉ [0x80, 0x81]) : getR (d2dDegradeOp s d.val l.val) k = getR (putLink s d.val l.val 3) k := by
    simp only [List.mem_cons, List.not_mem_nil, or_false, not_or] at hp
    exact getR_raise _ he1 _ _ _ _ hp.1 hp.2
  refine ⟨?_, inFault_raise _ he1 _ _ _ _ (srcExists_fld d), fun k _ hp => ?_⟩
  · have hk : pageOf (d2dStat d.val) ∉ [0x80, 0x81] := by
      have hlt := d.isLt
      rw [pageOf_d2dStat hlt]
      simp only [List.mem_cons, List.not_mem_nil, or_false]
      omega
    refine Eq.trans ?_ hf
    rw [← d2dStat, fld, fld, regN, regN, hpage _ hk]
  · rw [List.mem_append, not_or] at hp
    rw [hpage k hp.1, hr k nofun hp.2]

/-! ### O33 -/

/-- Settles O33: re-acquisition, seconds and bins, timers and loads of a module, then its lanes and the die-to-die links, each clause by
the lemma about its operation. -/
theorem lineTimersAndLanes : Obligations.LineTimersAndLanes := by
  refine ⟨?line, ?lanes, ?command, ?message, ?link⟩
  case line =>
    intro md dir s hl m c
    have hre := effect_reacquireTimeout hl md
    have hsec := effect_secondClassify hl md
    have hrto := effect_rtoExpire hl md dir
    have hheld := effect_heldLoadRelease hl md dir
    refine ⟨fun h => ?_, fun t ht hle => ⟨fun hlof => ?_, fun hlof he => ?_⟩, fun h => ?_, fun h => ?_, fun w hw => ?_, fun h => ?_, fun h => ?_, fun he => ?_, fun h _ => ?_, ?_⟩
    · rwa [reacquireTimeoutOp_waits h] at hre
    · rw [reacquireTimeoutOp_ends ht hle, if_pos hlof] at hre
      exact ⟨_, hre, rfl⟩
    · rw [reacquireTimeoutOp_ends ht hle, if_neg (by rw [hlof]; decide)] at hre
      exact ⟨_, hre, declareLof_shows md.isLt he⟩
    · rwa [classifyOp_waits h] at hsec
    · rw [classifyOp_enters h] at hsec
      obtain ⟨hnext, hsecs, _⟩ := classifySec_pm s md.val
      refine ⟨_, hsec, hnext, fun x hx => ?_, fun b hb hu hlen hn hs => classifySec_quarter hb hu hlen hn hs⟩
      rw [hsecs] at hx
      exact of_decide_eq_true (List.mem_filter.1 hx).2
    · have hclr := effect_clearCur hl w md
      rw [clearCurWrite, if_pos hw] at hclr
      exact ⟨_, hclr, clearCurOp_clears s md.val⟩
    · rwa [rtoExpireOp_frozen h] at hrto
    · exact ⟨_, hrto, rtoExpireOp_judges h⟩
    · exact ⟨_, effect_loadAbandon hl md dir, loadAbandonOp_abandons md.val dir.val he rfl⟩
    · rwa [heldReleaseOp_stops h] at hheld
    · intro h b hh hn hp hs hr hb hw _
      exact ⟨_, hheld, heldReleaseOp_releases hh hn hp hs hr hb hw⟩
  case lanes =>
    intro p l rx s hl he st k lost
    refine ⟨⟨_, effect_laneLockLoss hl p l rx, lockLossOp_loses he p.val l.isLt rx⟩, ⟨_, effect_laneLockRegain hl p l rx, lockRegainOp_regains s p.val l.isLt rx⟩,
      _, effect_laneHoldExpire hl p l rx, fun t h3 ht hn => holdExpireOp_ends l.isLt h3 ht hn, holdExpireOp_stands⟩
  case command =>
    intro w v s hl hw p
    exact ⟨_, effect_ldlvLaneCmdWrite hl hw v, laneCmdOp_returns s p v.toNat⟩
  case message =>
    intro md n t s hl
    exact ⟨_, effect_laneMessage hl md n t, rfl⟩
  case link =>
    intro d l s hl he
    exact ⟨_, effect_d2dLinkDegrade hl d l, d2dDegradeOp_shows he d l⟩

end Sys2Proof.Proofs

/-!
Hops by the test of their operation code (R60, R65): what becomes of the tile for each outcome of the hop's work.
-/
namespace Sys2Proof.Proofs
open Sys2Proof.Machine Sys2Proof.Safety

/-! ### What becomes of the tile, whatever the test of the operation code (R60, R65) -/

/-- A command is a hop's work at a station, on the tiles whose operation code the test takes. -/
def RunsHop (c : Instr) (w : BitVec 12) (q : BitVec 48) (station : Nat) (op : Nat → Bool) (work : Stream → Tile → HopM Tile) : Prop :=
  ∀ s, exec c s = act s (fun a => runHop a w.toNat q.toNat station op work)

section
variable {c : Instr} {w : BitVec 12} {q : BitVec 48} {station : Nat} {op : Nat → Bool} {work : Stream → Tile → HopM Tile} {s u : State} {st : Stream} {t t1 : Tile}

theorem RunsHop.effect (hc : RunsHop c w q station op work) (hl : live s = true) : Effect c s (runHop s w.toNat q.toNat station op work) := by
  rw [Effect, hc s, act_live hl]

/-- A hop whose work succeeds finishes. -/
theorem RunsHop.finishes (hc : RunsHop c w q station op work) (hl : live s = true) (h : HopAt s w.toNat q.toNat station op st t)
    (hw : work st t s = (.ok t1, u)) : Effect c s (finishHop u w.toNat t1) := by
  obtain ⟨h1, h2, -⟩ := h
  simpa only [runHop, h1, h2, hw] using hc.effect hl

/-- A hop whose work is done, its tile not at its last hop. -/
theorem RunsHop.done (hc : RunsHop c w q station op work) (hl : live s = true) (h : HopAt s w.toNat q.toNat station op st t)
    (hw : work st t s = (.ok t1, u)) (hs : u.strm = s.strm) (hh : t1.hop + 1 < st.hops) : Effect c s (hopDone u w.toNat st t1) := by
  have hu : streamAt u w.toNat = some st := by rw [streamAt, hs]; exact h.1
  rw [← finishHop_before hu h.2.2 hh]
  exact hc.finishes hl h hw

/-- A hop whose work waits withholds its tile. -/
theorem RunsHop.waits (hc : RunsHop c w q station op work) (hl : live s = true) (h : HopAt s w.toNat q.toNat station op st t)
    (hw : work st t s = (.error cWAIT, u)) : Effect c s (holdTile u w.toNat t) := by
  obtain ⟨h1, h2, -⟩ := h
  simpa only [runHop, h1, h2, hw, if_true] using hc.effect hl

/-- A hop whose work waits on WG9's own part leaves its tile as it is. -/
theorem RunsHop.lateWaits (hc : RunsHop c w q station op work) (hl : live s = true) (h : HopAt s w.toNat q.toNat station op st t)
    (hw : work st t s = (.error cLATEWAIT, u)) : Effect c s u := by
  obtain ⟨h1, h2, -⟩ := h
  have e1 : cLATEWAIT ≠ cWAIT := by decide
  simpa only [runHop, h1, h2, hw, if_neg e1, if_true] using hc.effect hl

/-- A hop whose blocks fail to decode ends its tile CORRUPT, its record naming EXPAND at the place (R150). -/
theorem RunsHop.expandFails (hc : RunsHop c w q station op work) (hl : live s = true) (h : HopAt s w.toNat q.toNat station op st t)
    (hw : work st t s = (.error cEXPFAIL, u)) :
    Effect c s (failTile u w.toNat { t with endHop := some (5 + 16 * hopPlace (hopAt st t.hop)) } cCORRUPT) := by
  obtain ⟨h1, h2, -⟩ := h
  have e1 : cEXPFAIL ≠ cWAIT := by decide
  have e2 : cEXPFAIL ≠ cLATEWAIT := by decide
  have e3 : cEXPFAIL ≠ cTESTWAIT := by decide
  simpa only [runHop, h1, h2, hw, if_neg e1, if_neg e2, if_neg e3, if_true] using hc.effect hl

/-- A hop whose work fails with a completion code ends its tile. -/
theorem RunsHop.fails (hc : RunsHop c w q station op work) (hl : live s = true) (h : HopAt s w.toNat q.toNat station op st t) {code : Nat}
    (hw : work st t s = (.error code, u)) (hcode : code < 252) : Effect c s (failTile u w.toNat t code) := by
  obtain ⟨h1, h2, -⟩ := h
  have e1 : code ≠ cWAIT := by unfold cWAIT; omega
  have e2 : code ≠ cLATEWAIT := by unfold cLATEWAIT; omega
  have e3 : code ≠ cTESTWAIT := by unfold cTESTWAIT; omega
  have e4 : code ≠ cEXPFAIL := by unfold cEXPFAIL; omega
  simpa only [runHop, h1, h2, hw, if_neg e1, if_neg e2, if_neg e3, if_neg e4] using hc.effect hl

end

/-! ### What a hop hands on before the last -/

section
variable {s : State} {c : Access} {st : Stream} {t : Tile}

theorem rawOutput_before (hh : t.hop + 1 < st.hops) (hd : dstStorage st t = false) (bs : List Byte) : rawOutput c st t bs s = (.ok (handOn t bs), s) := by
  rw [rawOutput, if_neg (fun h => by rw [hd] at h; exact Bool.false_ne_true h.2), hopOutput_before hh]

end

end Sys2Proof.Proofs

/-!
The hops that code and decode (R56, R129, R130, R141, R143, R145, R147, R151).
-/
namespace Sys2Proof.Proofs
open Sys2Proof.Machine Sys2Proof.Safety

/-! ### Coding (R129, R130, R143, R145, R151) -/

theorem runsHop_pass (w : BitVec 12) (q : BitVec 48) : RunsHop (.pass w q) w q stCODEC (· == 0) (codecWork (fun _ _ => none)) := fun _ => rfl

theorem runsHop_encodeCur (w : BitVec 12) (q : BitVec 48) :
    RunsHop (.encodeCur w q) w q stCODEC (· == 1) (codecWork (fun b k => some (fld b (ctxCfg k) 19 17))) := fun _ => rfl

theorem runsHop_encodeSlot (w : BitVec 12) (q : BitVec 48) : RunsHop (.encodeSlot w q) w q stCODEC (fun op => decide (8 ≤ op))
    (fun st t => codecWork (fun _ _ => some (nthD 0 st.op t.hop - 8)) st t) := fun _ => rfl

theorem runsHop_decode (w : BitVec 12) (q : BitVec 48) : RunsHop (.decode w q) w q stEXPAND (· == 0) decodeWork := fun _ => rfl

/-- The tile asks for coding but is sealed. -/
def codeLocked (s : State) (st : Stream) (t : Tile) : Bool := bitOf t.desc.attr 1 && isSealed s st t

/-- The block codes, the tile asks for it, and so does the region of its source. -/
def WantsCode (s : State) (t : Tile) : Prop := inRun s pgCODEC = true ∧ bitOf t.desc.attr 1 = true ∧ ∃ r, refRegion s t.table t.desc.src = some r ∧ r.compress = true

/-- The context, the slot and its state that a CODEC hop codes with; else whether a context was wanted that no node is bound to. -/
def codeChoice (pick : State → Nat → Option Nat) (s : State) (st : Stream) (t : Tile) : Option (Nat × Nat × Nat) × Bool :=
  let comp := match refRegion s t.table t.desc.src with | some r => r.compress | none => false
  if !inRun s pgCODEC || !bitOf t.desc.attr 1 || !comp then (none, false) else
    match codeContext s st t with
    | (some ctx, _) => (match pick s ctx with | some k => some (ctx, k, (cslot s (cslotKey ctx 0 k)).state) | none => none, false)
    | (none, u) => (none, u && (pick s 0).isSome)

/-- What a CODEC hop does by its choice. -/
def codeBy (st : Stream) (t : Tile) (bs : List Byte) : Option (Nat × Nat × Nat) × Bool → HopM Tile
  | (some (ctx, slot, state), _) =>
    if state = 2 then codeWith (accessOf st t) st t ctx slot bs
    else if state = 1 then hopFail cWAIT
    else (hopDo (fun s => bump s R.CODEC_PLAIN_NOTBL)).andThen fun _ => rawOutput (accessOf st t) st t bs
  | (none, true) => (hopDo (fun s => bump s R.CODEC_PLAIN_NOCTX)).andThen fun _ => rawOutput (accessOf st t) st t bs
  | (none, false) => rawOutput (accessOf st t) st t bs

section
variable {s : State} {st : Stream} {t : Tile} {bs : List Byte} {pick : State → Nat → Option Nat}

theorem codecWork_locked (h : codeLocked s st t = true) : codecWork pick st t s = (.error cSEALED, bump s R.CODEC_SEALED) := by
  unfold codeLocked at h
  rw [codecWork, andThen_ok (show hopGet (fun s => bitOf t.desc.attr 1 && isSealed s st t) s = (.ok true, s) by simp only [hopGet, h]), if_pos rfl]
  rfl

theorem codecWork_open (h : codeLocked s st t = false) (hi : hopInput (accessOf st t) t s = (.ok bs, s)) :
    codecWork pick st t s = codeBy st t bs (codeChoice pick s st t) s := by
  unfold codeLocked at h
  rw [codecWork, andThen_ok (show hopGet (fun s => bitOf t.desc.attr 1 && isSealed s st t) s = (.ok false, s) by simp only [hopGet, h]),
    if_neg Bool.false_ne_true, andThen_ok hi]
  rfl

theorem compress_iff : (match refRegion s t.table t.desc.src with | some r => r.compress | none => false) = true ↔
    ∃ r, refRegion s t.table t.desc.src = some r ∧ r.compress = true := by
  cases refRegion s t.table t.desc.src <;> simp

theorem codeChoice_unwanted (h : ¬WantsCode s t) : codeChoice pick s st t = (none, false) := by
  rw [codeChoice, if_pos]
  by_contra hc
  simp only [Bool.or_eq_true, Bool.not_eq_true', not_or, Bool.not_eq_false] at hc
  obtain ⟨⟨h1, h2⟩, h3⟩ := hc
  exact h ⟨h1, h2, compress_iff.1 h3⟩

theorem codeChoice_wanted (h : WantsCode s t) : codeChoice pick s st t = match codeContext s st t with
    | (some ctx, _) => (match pick s ctx with | some k => some (ctx, k, (cslot s (cslotKey ctx 0 k)).state) | none => none, false)
    | (none, u) => (none, u && (pick s 0).isSome) := by
  obtain ⟨h1, h2, h3⟩ := h
  rw [codeChoice, if_neg]
  simp only [h1, h2, compress_iff.2 h3, Bool.not_true, Bool.or_self, Bool.false_eq_true, not_false_iff]

/-- Under PASS no slot is picked. -/
theorem codeChoice_pass : codeChoice (fun _ _ => none) s st t = (none, false) := by
  by_cases h : WantsCode s t
  · rw [codeChoice_wanted h]
    cases codeContext s st t with
    | mk k b => cases k <;> simp
  · exact codeChoice_unwanted h

variable (hh : t.hop + 1 < st.hops) (hd : dstStorage st t = false)
include hh hd

theorem codeBy_plain : codeBy st t bs (none, false) s = (.ok (handOn t bs), s) := rawOutput_before hh hd bs

theorem codeBy_unbound : codeBy st t bs (none, true) s = (.ok (handOn t bs), bump s R.CODEC_PLAIN_NOCTX) :=
  rawOutput_before (s := bump s R.CODEC_PLAIN_NOCTX) hh hd bs

theorem codeBy_noTable {k slot : Nat} {b : Bool} : codeBy st t bs (some (k, slot, 0), b) s = (.ok (handOn t bs), bump s R.CODEC_PLAIN_NOTBL) :=
  rawOutput_before (s := bump s R.CODEC_PLAIN_NOTBL) hh hd bs

omit hh hd in
theorem codeBy_loading {k slot : Nat} {b : Bool} : codeBy st t bs (some (k, slot, 1), b) s = (.error cWAIT, s) := rfl

omit hh hd in
theorem codeBy_ready {k slot : Nat} {b : Bool} : codeBy st t bs (some (k, slot, 2), b) s = codeWith (accessOf st t) st t k slot bs s := rfl

/-- A coded form that is not shorter is not taken. -/
theorem codeWith_plain {c : Access} {k slot : Nat} (h : bs.length ≤ (tileImages (cslot s (cslotKey k 0 slot)) slot bs).flatten.length) :
    codeWith c st t k slot bs s = (.ok (handOn t bs), s) := by
  rw [codeWith, andThen_ok (show hopGet (fun s => cslot s (cslotKey k 0 slot)) s = (.ok (cslot s (cslotKey k 0 slot)), s) from rfl)]
  simp only [if_neg (Nat.not_lt.2 h)]
  exact rawOutput_before hh hd bs

omit hh in
/-- A shorter coded form is taken, and its blocks are counted. -/
theorem codeWith_codes {c : Access} {k slot : Nat} {imgs coded : List (List Byte)} (hi : tileImages (cslot s (cslotKey k 0 slot)) slot bs = imgs)
    (hc : imgs.filter (fun i => !imgRaw i) = coded) (h : imgs.flatten.length < bs.length) :
    codeWith c st t k slot bs s = (.ok { handOn t imgs.flatten with coded := true, ctx := k, blocks := [(cslotKey k 0 slot, coded.length)] },
      countIn (bumpBy (bumpBy (bumpBy s R.CODEC_BLK_CODED coded.length) R.CODEC_BLK_RAW (imgs.length - coded.length)) R.CODEC_GRAN_OUT ((coded.map imgGranules).sum))
        [(cslotKey k 0 slot, coded.length)]) := by
  rw [codeWith, andThen_ok (show hopGet (fun s => cslot s (cslotKey k 0 slot)) s = (.ok (cslot s (cslotKey k 0 slot)), s) from rfl)]
  simp only [hi, hc, if_pos h, hd, Bool.false_eq_true, if_false]
  rfl

end

/-! ### Decoding (R147, R149, R150) -/

theorem strm_countOut (s : State) (l : List (Nat × Nat)) : (countOut s l).strm = s.strm := by
  refine foldl_related (r := fun s u => u.strm = s.strm) (fun _ => rfl) (fun _ _ _ h g => g.trans h) (fun _ _ => ?_) l s
  rfl

theorem strm_markTest (s : State) (src inst : Nat) : (markTest s src inst).strm = s.strm := by
  unfold markTest
  split <;> rfl

theorem strm_noteBlockFail (s : State) (place ctx addr : Nat) (f : Nat × Nat × Nat × Nat) : (noteBlockFail s place ctx addr f).strm = s.strm := by
  unfold noteBlockFail
  dsimp only
  rw [apply_ite State.strm, strm_markTest, ite_self, raise_strm, event_strm, setN_strm, bump_strm]

theorem strm_decodeBlock (s : State) (ctx : Nat) (x : List Byte × Option (List Byte)) : (decodeBlock s ctx x).2.strm = s.strm := by
  unfold decodeBlock
  dsimp only
  (repeat' split) <;> rfl

theorem strm_decodeAll (place ctx addr : Nat) : ∀ (l : List (List Byte × Option (List Byte))) (s : State), (decodeAll place ctx addr l s).2.strm = s.strm
  | [], _ => rfl
  | x :: t, s => by
    have hb := strm_decodeBlock s ctx x
    rw [decodeAll]
    split
    · next b s1 he =>
      rw [he] at hb
      exact (strm_decodeAll place ctx addr t s1).trans hb
    · next f s1 he =>
      rw [he] at hb
      exact (strm_decodeAll place ctx addr t _).trans ((strm_noteBlockFail s1 place ctx addr f).trans hb)

section
variable {s u : State} {st : Stream} {t : Tile} {bs : List Byte}

theorem decodeWork_plain (hh : t.hop + 1 < st.hops) (hd : dstStorage st t = false) (hi : hopInput (accessOf st t) t s = (.ok bs, s)) (hc : t.coded = false) :
    decodeWork st t s = (.ok { handOn t bs with blocks := [] }, s) := by
  have ho := rawOutput_before (s := s) (c := accessOf st t) (t := { t with coded := false, blocks := [] }) hh hd bs
  rw [decodeWork, andThen_ok hi]
  simp only [hc, Bool.false_eq_true, if_false]
  rw [andThen_ok (show HopM.ret bs s = (.ok bs, s) from rfl), countDecoded, andThen_ok ho, ← hc]
  rfl

theorem decodeWork_coded (hi : hopInput (accessOf st t) t s = (.ok bs, s)) (hc : t.coded = true) : decodeWork st t s =
    ((decodeTile (accessOf st t) st (hopPlace (hopAt st t.hop)) t bs).andThen fun raw =>
      countDecoded t.blocks (rawOutput (accessOf st t) st { t with coded := false, blocks := [] } raw)) s := by
  rw [decodeWork, andThen_ok hi]
  simp only [hc, if_true]
  rfl

theorem decodeTile_fetches {c : Access} {place : Nat} (h : fetchTables place t.ctx (cutImages (blockLens t.desc.len) bs) s = (.ok true, u)) :
    decodeTile c st place t bs s = (.error cLATEWAIT, u) := by
  rw [decodeTile, andThen_ok h]
  rfl

theorem decodeTile_decodes {c : Access} {place : Nat} {res : List (Option (List Byte))} (hf : fetchTables place t.ctx (cutImages (blockLens t.desc.len) bs) s = (.ok false, s))
    (hr : decodeAll place t.ctx (t.desc.dst % 2 ^ 46) ((cutHeads (blockLens t.desc.len) bs).zip (cutImages (blockLens t.desc.len) bs)) s = (res, u))
    (ha : res.all Option.isSome = true) : decodeTile c st place t bs s = (.ok (res.flatMap (fun r => r.getD [])), u) := by
  rw [decodeTile, andThen_ok hf]
  simp only [Bool.false_eq_true, if_false, hr, ha, if_true]

theorem decodeTile_fails {c : Access} {place : Nat} {res : List (Option (List Byte))} (hd : dstStorage st t = false)
    (hf : fetchTables place t.ctx (cutImages (blockLens t.desc.len) bs) s = (.ok false, s))
    (hr : decodeAll place t.ctx (t.desc.dst % 2 ^ 46) ((cutHeads (blockLens t.desc.len) bs).zip (cutImages (blockLens t.desc.len) bs)) s = (res, u))
    (ha : res.all Option.isSome = false) : decodeTile c st place t bs s = (.error cEXPFAIL, flagAbort u t.desc.round false) := by
  rw [decodeTile, andThen_ok hf]
  simp only [Bool.false_eq_true, if_false, hr, ha, hd]
  rfl

end

/-! ### O50 -/

/-- What an encoding hop does, by whether its tile is locked, whether coding is wanted, the context and the slot's state. -/
theorem encodeHop {c : Instr} {w : BitVec 12} {q : BitVec 48} {op : Nat → Bool} {work : Stream → Tile → HopM Tile} {s : State} {st : Stream} {t : Tile} {bs : List Byte}
    {pick : Nat → Nat} (hl : live s = true) (hh : t.hop + 1 < st.hops) (hd : dstStorage st t = false) (hi : hopInput (accessOf st t) t s = (.ok bs, s))
    (hc : RunsHop c w q stCODEC op work) (hat : HopAt s w.toNat q.toNat stCODEC op st t) {pk : State → Nat → Option Nat} (hw : work st t = codecWork pk st t)
    (hp : ∀ k, pk s k = some (pick k)) :
    (codeLocked s st t = true → Effect c s (failTile (bump s R.CODEC_SEALED) w.toNat t cSEALED)) ∧
    (codeLocked s st t = false → ¬WantsCode s t → Effect c s (hopDone s w.toNat st (handOn t bs))) ∧
    (codeLocked s st t = false → WantsCode s t → codeContext s st t = (none, false) → Effect c s (hopDone s w.toNat st (handOn t bs))) ∧
    (codeLocked s st t = false → WantsCode s t → codeContext s st t = (none, true) → Effect c s (hopDone (bump s R.CODEC_PLAIN_NOCTX) w.toNat st (handOn t bs))) ∧
    (∀ k b, codeLocked s st t = false → WantsCode s t → codeContext s st t = (some k, b) →
      let key := cslotKey k 0 (pick k)
      let imgs := tileImages (cslot s key) (pick k) bs
      let coded := imgs.filter (fun i => !imgRaw i)
      ((cslot s key).state = 0 → Effect c s (hopDone (bump s R.CODEC_PLAIN_NOTBL) w.toNat st (handOn t bs))) ∧
      ((cslot s key).state = 1 → Effect c s (holdTile s w.toNat t)) ∧
      ((cslot s key).state = 2 → bs.length ≤ imgs.flatten.length → Effect c s (hopDone s w.toNat st (handOn t bs))) ∧
      ((cslot s key).state = 2 → imgs.flatten.length < bs.length →
        let a := countIn (bumpBy (bumpBy (bumpBy s R.CODEC_BLK_CODED coded.length) R.CODEC_BLK_RAW (imgs.length - coded.length)) R.CODEC_GRAN_OUT ((coded.map imgGranules).sum)) [(key, coded.length)]
        Effect c s (hopDone a w.toNat st { handOn t imgs.flatten with coded := true, ctx := k, blocks := [(key, coded.length)] }))) := by
  have chosen {r} (hlock : codeLocked s st t = false) (hr : codeChoice pk s st t = r) : work st t s = codeBy st t bs r s := by rw [hw, codecWork_open hlock hi, hr]
  refine ⟨fun hlock => ?_, fun hlock hn => ?_, fun hlock hy hx => ?_, fun hlock hy hx => ?_, fun k b hlock hy hx => ?_⟩
  · exact hc.fails hl hat (by rw [hw, codecWork_locked hlock]) (by decide)
  · exact hc.done hl hat ((chosen hlock (codeChoice_unwanted hn)).trans (codeBy_plain hh hd)) rfl hh
  · have hr : codeChoice pk s st t = (none, false) := by rw [codeChoice_wanted hy, hx]; rfl
    exact hc.done hl hat ((chosen hlock hr).trans (codeBy_plain hh hd)) rfl hh
  · have hr : codeChoice pk s st t = (none, true) := by rw [codeChoice_wanted hy, hx]; simp [hp]
    exact hc.done hl hat ((chosen hlock hr).trans (codeBy_unbound hh hd)) rfl hh
  · intro key imgs coded
    have hr : codeChoice pk s st t = (some (k, pick k, (cslot s key).state), false) := by rw [codeChoice_wanted hy, hx]; simp only [hp]; rfl
    have hs := chosen hlock hr
    refine ⟨fun h0 => ?_, fun h1 => ?_, fun h2 hle => ?_, fun h2 hlt => ?_⟩
    · rw [h0] at hs
      exact hc.done hl hat (hs.trans (codeBy_noTable hh hd)) rfl hh
    · rw [h1] at hs
      exact hc.waits hl hat (hs.trans codeBy_loading)
    · rw [h2] at hs
      exact hc.done hl hat (hs.trans (codeBy_ready.trans (codeWith_plain hh hd hle))) rfl hh
    · rw [h2] at hs
      exact hc.done hl hat (hs.trans (codeBy_ready.trans (codeWith_codes hd rfl rfl hlt))) rfl hh

/-- Settles O50: PASS and the encoding hops by their lock, their choice of a context and the state of its slot; DECODE by the tables it fetches and the
outcome of its blocks. -/
theorem codecHops : Obligations.CodecHops := by
  intro w q s st t bs hl hh hd hi lock here plain
  refine ⟨fun hat hlock => ?_, fun hat hlock => ?_, fun c pick hc => ?_, fun hat hc => ?_, fun u hat hc hf => ?_, fun res a hat hc hf hr => ⟨fun ha => ?_, fun ha => ?_⟩⟩
  · exact (runsHop_pass w q).fails hl hat (codecWork_locked hlock) (by decide)
  · exact (runsHop_pass w q).done hl hat (by rw [codecWork_open hlock hi, codeChoice_pass, codeBy_plain hh hd]) rfl hh
  · obtain ⟨rfl, hat, rfl⟩ | ⟨rfl, hat, rfl⟩ := hc
    · exact encodeHop hl hh hd hi (runsHop_encodeCur w q) hat rfl (fun _ => rfl)
    · exact encodeHop hl hh hd hi (runsHop_encodeSlot w q) hat rfl (fun _ => rfl)
  · exact (runsHop_decode w q).done hl hat (decodeWork_plain hh hd hi hc) rfl hh
  · exact (runsHop_decode w q).lateWaits hl hat (by rw [decodeWork_coded hi hc, andThen_error (decodeTile_fetches hf)])
  · have ho := rawOutput_before (s := a) (c := accessOf st t) (t := { t with coded := false, blocks := [] }) hh hd (res.flatMap (fun r => r.getD []))
    have hs : a.strm = s.strm := by rw [← strm_decodeAll _ _ _ _ s, hr]
    refine (runsHop_decode w q).done hl hat ?_ ((strm_countOut a t.blocks).trans hs) hh
    rw [decodeWork_coded hi hc, andThen_ok (decodeTile_decodes hf hr ha), countDecoded, andThen_ok ho]
    rfl
  · exact (runsHop_decode w q).expandFails hl hat (by rw [decodeWork_coded hi hc, andThen_error (decodeTile_fails hd hf hr ha)])

end Sys2Proof.Proofs

/-!
Station maps and completion rings (R64, R70, R71, R396). First, states whose storage holds no error, and answers that change registers and ring interrupts only.
-/
namespace Sys2Proof.Proofs
open Sys2Proof.Machine Sys2Proof.Safety

/-! ### Reads of the hardware's structures where storage holds no error -/

theorem hwRead_state {s : State} (h : s.store.ecc = []) (a n : Nat) : (hwRead s a n).2 = s := by
  unfold hwRead
  split
  · rw [storeRead_clean (eccWords_none h _ _)]
  · rfl

/-- The read's value, with the state as it was. -/
theorem hwRead_eq {s : State} (h : s.store.ecc = []) (a n : Nat) : hwRead s a n = ((hwRead s a n).1, s) := Prod.ext rfl (hwRead_state h a n)

theorem met_clean {s : State} (h : s.store.ecc = []) (a n : Nat) : met s a n = s := hwRead_state h a n

/-! ### Registers kept -/

theorem fld_of_kept {s u : State} {l pages : List Nat} (h : RegsKept s u l pages) {k : Nat} (hl : k ∉ l) (hp : pageOf k ∉ pages) (hi lo : Nat) :
    fld u k hi lo = fld s k hi lo := by
  rw [fld, regN_of_kept h hl hp, fld]

/-! ### ARM and CANCEL (R71) -/

section
variable {s : State} (hl : live s = true) (w : Win)
include hl

theorem effect_arm : Effect (.arm w) s (armWrite s w true false) := by rw [Effect, exec_arm, execArm, act_live hl]

theorem effect_cancel : Effect (.cancel w) s (armWrite s w false true) := by rw [Effect, exec_cancel, execCancel, act_live hl]

theorem effect_clusterRebind (d : Fin 8) (c : Fin 40) : Effect (.clusterRebind d c) s (rebindCluster s d.val c.val) := by
  rw [Effect, exec_clusterRebind, execClusterRebind, act_live hl]

theorem effect_cringCfgWrite (v : Word) : Effect (.cringCfgWrite w v) s (cringCfgWrite s w v.toNat) := by
  rw [Effect, exec_cringCfgWrite, execCringCfgWrite, act_live hl]

theorem effect_cringHeadWrite (v : Word) : Effect (.cringHeadWrite w v) s (cringHeadWrite s w (bitsOf v.toNat 15 0)) := by
  rw [Effect, exec_cringHeadWrite, execCringHeadWrite, act_live hl]

end

theorem armWrite_shut {s : State} {w : Win} (h : mayWrite s w R.STN_ARM_CMD = false) (arm cancel : Bool) : armWrite s w arm cancel = s := by
  rw [armWrite, if_neg (by rw [h]; exact Bool.false_ne_true)]

theorem armWrite_arm {s : State} {w : Win} (h : mayWrite s w R.STN_ARM_CMD = true) : armWrite s w true false = armCmd s := by
  simp only [armWrite, if_pos h, if_true, Bool.false_eq_true, if_false]

theorem armWrite_cancel {s : State} {w : Win} (h : mayWrite s w R.STN_ARM_CMD = true) : armWrite s w false true = cancelCmd s := by
  simp only [armWrite, if_pos h, if_true, Bool.false_eq_true, if_false]

/-- Where storage holds no error, reading the map leaves the state. -/
theorem mapMet_clean {s : State} (h : s.store.ecc = []) : mapMet s = s := by
  unfold mapMet
  split
  · rfl
  · rw [hwRead_eq h]
    cases (hwRead s (mapAddr s) 0x40).1 with
    | none => rfl
    | some b => simp only [met_clean h, ite_self]

/-- STN_ARM_RES.STATE: a map is armed. -/
def armHeld (s : State) : Nat := if s.stn.armed.isSome then 2 else 0

theorem armHeld_le (s : State) : armHeld s ≤ 2 := by unfold armHeld; split <;> omega

/-- The result of a refused ARM, beside what STATE holds: POLICY, or CAPACITY with the budget that falls short and by how much. -/
def shortCode (i x : Nat) : Nat := cCAPACITY * 16 + i % 16 * 0x100 + i / 16 % 16 * 0x1000 + i / 256 % 2 * 0x10000 + min 0x7FFF x * 0x20000

/-- What a refused ARM leaves: its result, the event, and nothing else. -/
def ArmRefused (s u : State) (v : Nat) : Prop :=
  regN u R.STN_ARM_RES = armHeld s + v ∧ flag u (hdr pgSTN oEVT) 1 = true ∧ RegsKept s u (R.STN_ARM_RES :: evtKeys pgSTN) [0x80] ∧
    u = { s with regs := u.regs, irq := u.irq, sent := u.sent }

theorem armRefused_event (s : State) {v : Nat} (h : armHeld s + v < 2 ^ 32) : ArmRefused s (event (setN s R.STN_ARM_RES (armHeld s + v)) pgSTN 1) v := by
  have hk := regsKept_event (setN s R.STN_ARM_RES (armHeld s + v)) pgSTN 1
  refine ⟨?_, flag_event_self _ _ _ (by decide), ?_, keptIrq_eq ((keptIrq_of_onlyRegs (onlyRegs_setN s _ _)).trans (KeptIrq.event _ _ _))⟩
  · rw [regN_of_kept hk (by decide) (by decide), regN_setN_self, Nat.mod_eq_of_lt h]
  · exact regsKept_trans (regsKept_mono (regsKept_setN s _ _) (by decide) (by decide)) (regsKept_mono hk (fun k h => .inl (List.mem_cons_of_mem _ h)) (by decide))

theorem answerArm_policy (s : State) : ArmRefused s (answerArm s cPOLICY 0 0) (cPOLICY * 16) :=
  armRefused_event s (by have := armHeld_le s; unfold cPOLICY; omega)

theorem shortCode_lt (i x : Nat) : shortCode i x < 2 ^ 32 - 2 := by unfold shortCode cCAPACITY; omega

theorem answerArm_short (s : State) {i : Nat} (hi : i < 512) (x : Nat) : ArmRefused s (answerArm s cCAPACITY i x) (shortCode i x) := by
  have hv : armHeld s + shortCode i x = armHeld s + cCAPACITY * 16 + i % 16 * 0x100 + i / 16 % 16 * 0x1000 + i / 256 * 0x10000 + min 0x7FFF x * 0x20000 := by
    unfold shortCode; omega
  have he : i % 16 + i / 16 % 16 * 16 + i / 256 * 256 = i := by omega
  have h := armRefused_event s (v := shortCode i x) (by have := armHeld_le s; have := shortCode_lt i x; omega)
  rw [hv] at h
  simp only [answerArm, if_true, he]
  exact h

theorem armCmd_idle {s : State} (hr : inRun s pgSTN = false) : armCmd s = answerArm s cPOLICY 0 0 := by
  rw [armCmd, if_pos (by rw [hr]; rfl)]

/-- ARM where the map itself is refused. -/
theorem armCmd_refused {s : State} (he : s.store.ecc = []) (h : inRun s pgSTN = false ∨ readMap s = none) : armCmd s = answerArm s cPOLICY 0 0 := by
  rcases h with hr | hm
  · exact armCmd_idle hr
  · cases hr : inRun s pgSTN with
    | false => exact armCmd_idle hr
    | true => rw [armCmd, if_neg (by rw [hr]; exact Bool.false_ne_true), hm, mapMet_clean he]

/-- The state with a map armed for the tick of STN_ARM_TICK. -/
def withArmed (s : State) (m : StnMap) : State := { s with stn := { s.stn with armed := some (m, reg64 s R.STN_ARM_TICK_LO R.STN_ARM_TICK_HI) } }

section
variable {s : State} {m : StnMap} (he : s.store.ecc = []) (hr : inRun s pgSTN = true) (hm : readMap s = some m)
include he hr hm

theorem armCmd_overCeiling {i x : Nat} (h : firstShort (mapBudget m) (ceiling s m.bind) (m.budgets.map (·.1)) = some (i, x)) :
    armCmd s = answerArm s cCAPACITY i x := by
  simp only [armCmd, hr, Bool.not_true, Bool.false_eq_true, if_false, hm, mapMet_clean he, h]

theorem armCmd_underDeclared {i x : Nat} (h0 : firstShort (mapBudget m) (ceiling s m.bind) (m.budgets.map (·.1)) = none)
    (h : firstShort (Machine.committed s) (mapBudget m) (m.budgets.map (·.1) ++ usedInsts s) = some (i, x)) : armCmd s = answerArm s cCAPACITY i x := by
  simp only [armCmd, hr, Bool.not_true, Bool.false_eq_true, if_false, hm, mapMet_clean he, h0, h]

theorem armCmd_arms (h0 : firstShort (mapBudget m) (ceiling s m.bind) (m.budgets.map (·.1)) = none)
    (h : firstShort (Machine.committed s) (mapBudget m) (m.budgets.map (·.1) ++ usedInsts s) = none) : armCmd s = setN (withArmed s m) R.STN_ARM_RES 2 := by
  have e : eventIf (setN (withArmed s m) R.STN_ARM_RES 2) (cSERVED != cSERVED) pgSTN 1 = setN (withArmed s m) R.STN_ARM_RES 2 := rfl
  rw [← e]
  simp only [armCmd, hr, Bool.not_true, Bool.false_eq_true, if_false, hm, mapMet_clean he, h0, h]
  rfl

end

theorem cancelCmd_none {s : State} (h : s.stn.armed = none) : cancelCmd s = s := by simp only [cancelCmd, h, Option.isNone_none, if_true]

/-- CANCEL of an armed map: STATE reads 0, the last code stays. -/
theorem cancelCmd_disarms {s : State} (h : s.stn.armed.isSome = true) : let u := cancelCmd s
    u.stn = { s.stn with armed := none } ∧ fld u R.STN_ARM_RES 1 0 = 0 ∧ fld u R.STN_ARM_RES 31 2 = fld s R.STN_ARM_RES 31 2 ∧
      RegsKept s u [R.STN_ARM_RES] [] ∧ u = { s with regs := u.regs, stn := u.stn } := by
  have hn : s.stn.armed.isNone = false := by cases ha : s.stn.armed <;> simp_all
  intro u
  have hu : u = setFld { s with stn := { s.stn with armed := none } } R.STN_ARM_RES 1 0 0 := by
    simp only [u, cancelCmd, hn, Bool.false_eq_true, if_false]
  rw [hu]
  exact ⟨rfl, fld_setFld_self _ _ _ _ _ (by decide) (by decide), fld_setFld_apart _ _ _ _ _ _ _ (by decide) (by decide) (by decide) (.inr (by decide)),
    regsKept_setR _ _ _, rfl⟩

/-! ### Clusters (R71) -/

/-- The registers of the bindings are written, and nothing else. -/
theorem showBind_writes (s : State) : OnlyRegs s (showBind s) ∧ ∀ k, pageOf k ≠ pgSTN → getR (showBind s) k = getR s k := by
  suffices h : ∀ l : List Nat, (∀ d ∈ l, d < 8) → ∀ a : State, let u := l.foldl (fun a d =>
      let chg := ((List.range 40).filter (fun c => clusterIn a d c && bitOf (nthD 0 a.stn.bound d) c != bitOf (nthD 0 a.stn.inForce.bind d) c)).length
      setN a (R.STN_BIND_F0 + 4 * d) (boundCount a a.stn.bound d 0 + boundCount a a.stn.bound d 1 * 0x100 + chg * 0x10000)) a
      OnlyRegs a u ∧ ∀ k, pageOf k ≠ pgSTN → getR u k = getR a k from h (List.range 8) (fun d hd => List.mem_range.1 hd) s
  intro l
  induction l with
  | nil => exact fun _ a => ⟨rfl, fun _ _ => rfl⟩
  | cons d t ih =>
    intro hlt a
    obtain ⟨h1, h2⟩ := ih (fun x hx => hlt x (List.mem_cons_of_mem _ hx)) (setN a (R.STN_BIND_F0 + 4 * d) (boundCount a a.stn.bound d 0 + boundCount a a.stn.bound d 1 * 0x100 +
      ((List.range 40).filter (fun c => clusterIn a d c && bitOf (nthD 0 a.stn.bound d) c != bitOf (nthD 0 a.stn.inForce.bind d) c)).length * 0x10000))
    have hd : pageOf (R.STN_BIND_F0 + 4 * d) = pgSTN := by
      have := hlt d List.mem_cons_self
      unfold pageOf bankBase R.STN_BIND_F0 pgSTN; omega
    exact ⟨(onlyRegs_setN a _ _).trans h1, fun k hk => (h2 k hk).trans (getR_setN_ne a _ (fun e => hk (e ▸ hd)))⟩

theorem bitOf_putBits_ne (v x : Nat) {b c : Nat} (h : b ≠ c) : bitOf (putBits v c c x) b = bitOf v b := by
  rw [bitOf_eq, bitOf_eq]
  rcases Nat.lt_or_gt_of_ne h with h | h
  · rw [bitsOf_putBits_below _ _ _ _ _ _ (Nat.le_refl _) (Nat.le_refl _) h]
  · rw [bitsOf_putBits_above _ _ _ _ _ _ (Nat.le_refl _) h]

theorem bitOf_putBits_self (v c : Nat) (b : Bool) : bitOf (putBits v c c (ofBool b)) c = b := by
  rw [bitOf_eq, bitsOf_putBits_self _ _ _ _ (Nat.le_refl _)]
  simp [show c + 1 - c = 1 by omega]

/-- A binding with one cluster's role changed. -/
def rebound (l : List Nat) (d c : Nat) (b : Bool) : List Nat := setAt 0 l d (putBits (nthD 0 l d) c c (ofBool b))

theorem rebound_self (l : List Nat) (d c : Nat) (b : Bool) : bitOf (nthD 0 (rebound l d c b) d) c = b := by
  rw [rebound, nthD_setAt_self, bitOf_putBits_self]

theorem rebound_ne (l : List Nat) {d c i k : Nat} (b : Bool) (h : i ≠ d ∨ k ≠ c) : bitOf (nthD 0 (rebound l d c b) i) k = bitOf (nthD 0 l i) k := by
  unfold rebound
  by_cases hi : i = d
  · subst hi
    rw [nthD_setAt_self, bitOf_putBits_ne _ _ (h.resolve_left (by simp))]
  · rw [nthD_setAt_ne _ _ _ _ _ hi]

theorem rebindCluster_stays {s : State} {d c : Nat} (h : ¬(bitOf (nthD 0 s.stn.bound d) c ≠ bitOf (nthD 0 s.stn.inForce.bind d) c ∧ clusterIn s d c = true ∧
    clusterBusy s d c = false)) : rebindCluster s d c = s := by
  rw [rebindCluster, if_pos]
  by_contra hc
  simp only [not_or, Bool.not_eq_false, Bool.not_eq_true] at hc
  exact h hc

/-- A cluster that takes its role: its bit alone changes, and the registers that show the bindings. -/
theorem rebindCluster_binds {s : State} {d c : Nat} (h : bitOf (nthD 0 s.stn.bound d) c ≠ bitOf (nthD 0 s.stn.inForce.bind d) c ∧ clusterIn s d c = true ∧
    clusterBusy s d c = false) : let u := rebindCluster s d c
    bitOf (nthD 0 u.stn.bound d) c = bitOf (nthD 0 s.stn.inForce.bind d) c ∧
      (∀ i k, (i ≠ d ∨ k ≠ c) → bitOf (nthD 0 u.stn.bound i) k = bitOf (nthD 0 s.stn.bound i) k) ∧
      (∀ k, pageOf k ≠ pgSTN → getR u k = getR s k) ∧ u = { s with regs := u.regs, stn := { s.stn with bound := u.stn.bound } } := by
  obtain ⟨h1, h2, h3⟩ := h
  have hc : ¬(bitOf (nthD 0 s.stn.bound d) c = bitOf (nthD 0 s.stn.inForce.bind d) c ∨ clusterIn s d c = false ∨ clusterBusy s d c = true) := by
    simp [h1, h2, h3]
  have hu : rebindCluster s d c = showBind { s with stn := { s.stn with bound := rebound s.stn.bound d c (bitOf (nthD 0 s.stn.inForce.bind d) c) } } := by
    simp only [rebindCluster, if_neg hc, rebound]
  obtain ⟨ho, hk⟩ := showBind_writes { s with stn := { s.stn with bound := rebound s.stn.bound d c (bitOf (nthD 0 s.stn.inForce.bind d) c) } }
  rw [← hu] at ho hk
  have hb : (rebindCluster s d c).stn.bound = rebound s.stn.bound d c (bitOf (nthD 0 s.stn.inForce.bind d) c) := by rw [ho]
  intro u
  refine ⟨by rw [hb, rebound_self], fun i k h => by rw [hb, rebound_ne _ _ h], hk, ?_⟩
  rw [hb]
  exact ho

/-! ### Completion rings (R64, R396) -/

/-- A write of a ring's register refused: CFG_REFUSED, and nothing else. -/
theorem cfgRefused_event (s : State) : flag (event s pgSTRM 3) (hdr pgSTRM oEVT) 3 = true ∧ RegsKept s (event s pgSTRM 3) (evtKeys pgSTRM) [0x80] ∧
    event s pgSTRM 3 = { s with regs := (event s pgSTRM 3).regs, irq := (event s pgSTRM 3).irq, sent := (event s pgSTRM 3).sent } :=
  ⟨flag_event_self _ _ _ (by decide), regsKept_event _ _ _, keptIrq_eq (KeptIrq.event _ _ _)⟩

theorem cringCfgWrite_shut {s : State} {w : Win} (h : mayWrite s w R.CRING_CFG = false) (v : Nat) : cringCfgWrite s w v = s := by
  rw [cringCfgWrite, if_neg (by rw [h]; exact Bool.false_ne_true)]

theorem cringCfgWrite_open {s : State} {w : Win} (h : mayWrite s w R.CRING_CFG = true) (v : Nat) : cringCfgWrite s w v = cringCfg s (fld s R.STRM_IDX 23 16) v := by
  rw [cringCfgWrite, if_pos h]

theorem cringCfg_busy {s : State} {ring : Nat} (h : ringBusy s ring = true) (v : Nat) : cringCfg s ring v = event s pgSTRM 3 := by
  rw [cringCfg, if_pos h]

/-- CRING_CFG of a ring after a write that is taken. -/
def cringCfgd (s : State) (ring : Nat) (v : Word) : State :=
  setR s (keyB R.CRING_CFG ring) (writeMasked R.CRING_CFG (getR s (keyB R.CRING_CFG ring)) v)

/-- The PHASE of a ring starts anew. -/
def phaseReset (s : State) (ring : Nat) : State := { s with strm := { s.strm with phase := mapPut s.strm.phase ring true } }

theorem getR_phaseReset (s : State) (ring k : Nat) : getR (phaseReset s ring) k = getR s k := rfl

/-- A ring made valid: its head, its tail and its PHASE are reset. -/
def cringReset (s : State) (ring : Nat) : State := phaseReset (setN (setN s (keyB R.CRING_HEAD ring) 0) (keyB R.CRING_TAIL ring) 0) ring

theorem cringCfg_takes {s : State} {ring : Nat} (h : ringBusy s ring = false) (v : Word) : cringCfg s ring v.toNat =
    if flag s (keyB R.CRING_CFG ring) 31 = false ∧ bitOf v.toNat 31 = true then cringReset (cringCfgd s ring v) ring else cringCfgd s ring v := by
  rw [cringCfg, if_neg (by rw [h]; exact Bool.false_ne_true)]
  simp only [BitVec.ofNat_toNat, BitVec.setWidth_eq, Bool.and_eq_true, Bool.not_eq_true']
  rfl

theorem cringKeys_ne (ring : Nat) : keyB R.CRING_CFG ring ≠ keyB R.CRING_HEAD ring ∧ keyB R.CRING_CFG ring ≠ keyB R.CRING_TAIL ring ∧
    keyB R.CRING_HEAD ring ≠ keyB R.CRING_TAIL ring :=
  ⟨keyB_ne_of_low (by decide), keyB_ne_of_low (by decide), keyB_ne_of_low (by decide)⟩

theorem getR_cringReset (s : State) (ring k : Nat) :
    getR (cringReset s ring) k = getR (setN (setN s (keyB R.CRING_HEAD ring) 0) (keyB R.CRING_TAIL ring) 0) k := by rw [cringReset, getR_phaseReset]

/-- Registers and the phases of the rings are written, and nothing else. -/
def RegsPhase (s u : State) : Prop := u = { s with regs := u.regs, strm := { s.strm with phase := u.strm.phase } }

theorem RegsPhase.afterRegs {s a : State} (h : OnlyRegs s a) (ring : Nat) : RegsPhase s (phaseReset a ring) := by
  unfold RegsPhase
  rw [h]
  rfl

theorem mapGet_cringReset (s : State) (ring : Nat) : mapGet true (cringReset s ring).strm.phase ring = true := mapGet_mapPut_self _ _ _ _

theorem cringCfgd_writes (s : State) (ring : Nat) (v : Word) : OnlyRegs s (cringCfgd s ring v) := onlyRegs_setR _ _ _

theorem cringReset_resets (s : State) (ring : Nat) (v : Word) : let u := cringReset (cringCfgd s ring v) ring
    getR u (keyB R.CRING_CFG ring) = writeMasked R.CRING_CFG (getR s (keyB R.CRING_CFG ring)) v ∧ regN u (keyB R.CRING_HEAD ring) = 0 ∧
      regN u (keyB R.CRING_TAIL ring) = 0 ∧ mapGet true u.strm.phase ring = true ∧
      RegsKept s u [keyB R.CRING_CFG ring, keyB R.CRING_HEAD ring, keyB R.CRING_TAIL ring] [] ∧ u = { s with regs := u.regs, strm := { s.strm with phase := u.strm.phase } } := by
  intro u
  obtain ⟨e1, e2, e3⟩ := cringKeys_ne ring
  refine ⟨?_, ?_, ?_, mapGet_cringReset _ _, ?_, ?_⟩
  · rw [getR_cringReset, getR_setN_ne _ _ e2, getR_setN_ne _ _ e1, cringCfgd, getR_setR_self]
  · rw [regN, getR_cringReset, ← regN, regN_setN_ne _ _ e3, regN_setN_self, Nat.zero_mod]
  · rw [regN, getR_cringReset, ← regN, regN_setN_self, Nat.zero_mod]
  · intro k hk _
    simp only [List.mem_cons, List.not_mem_nil, or_false, not_or] at hk
    obtain ⟨k1, k2, k3⟩ := hk
    rw [getR_cringReset, getR_setN_ne _ _ k3, getR_setN_ne _ _ k2, cringCfgd, getR_setR_ne _ _ k1]
  · exact RegsPhase.afterRegs ((cringCfgd_writes s ring v).trans ((onlyRegs_setN _ _ _).trans (onlyRegs_setN _ _ _))) ring

/-- Who may write CRING_HEAD: through BAR0 where the ring is a member's. -/
def headOpen (s : State) (w : Win) : Prop :=
  if w = .bar0 then flag s (keyB R.CRING_CFG (fld s R.STRM_IDX 23 16)) 30 = true else mayWrite s w R.CRING_HEAD = true

theorem headOpen_iff (s : State) (w : Win) :
    (if w = .bar0 then flag s (keyB R.CRING_CFG (fld s R.STRM_IDX 23 16)) 30 else mayWrite s w R.CRING_HEAD) = true ↔ headOpen s w := by
  unfold headOpen
  split <;> rfl

theorem cringHeadWrite_shut {s : State} {w : Win} (h : ¬headOpen s w) (v : Nat) : cringHeadWrite s w v = s := if_neg (mt (headOpen_iff s w).1 h)

theorem cringHeadWrite_open {s : State} {w : Win} (h : headOpen s w) (v : Nat) : cringHeadWrite s w v = cringHead s (fld s R.STRM_IDX 23 16) v :=
  if_pos ((headOpen_iff s w).2 h)

/-- A head lies between the ring's head and its tail. -/
def HeadFits (s : State) (ring n x : Nat) : Prop := x < n ∧ (x + n - fld s (keyB R.CRING_HEAD ring) 15 0) % n ≤
  (fld s (keyB R.CRING_TAIL ring) 15 0 + n - fld s (keyB R.CRING_HEAD ring) 15 0) % n

theorem cringHead_invalid {s : State} {ring x : Nat} (hs : cringSize s ring = none) (hx : x ≠ fld s (keyB R.CRING_TAIL ring) 15 0) :
    cringHead s ring x = event s pgSTRM 3 := by
  simp only [cringHead, hs, if_neg hx]

theorem cringHead_beyond {s : State} {ring x n : Nat} (hs : cringSize s ring = some n) (hx : ¬HeadFits s ring n x) : cringHead s ring x = event s pgSTRM 3 := by
  unfold HeadFits at hx
  simp only [cringHead, hs, if_neg hx]

theorem mem_of_mapFind {α : Type} {l : List (Nat × α)} {k : Nat} {x : α} (h : mapFind l k = some x) : (k, x) ∈ l := by
  induction l with
  | nil => cases h
  | cons p t ih =>
    obtain ⟨a, y⟩ := p
    rw [mapFind] at h
    split at h
    · next e => cases h; subst e; exact List.mem_cons_self
    · exact List.mem_cons_of_mem _ (ih h)

/-- No tile awaits its completion: nothing is written. -/
theorem flushAll_undone {s : State} (h : ∀ e ∈ s.strm.slots, ∀ t ∈ e.2.tiles, t.doneTick = none) : flushAll s = s := by
  have hf (slot : Nat) : flush s slot = s := by
    cases hs : streamAt s slot with
    | none => simp only [flush, hs]
    | some st => exact flush_undone hs (h _ (mem_of_mapFind hs))
  unfold flushAll
  generalize s.strm.slots = l
  induction l with
  | nil => rfl
  | cons e t ih => rw [List.foldl_cons, hf, ih]

theorem cringHead_moves {s : State} {ring x n : Nat} (hs : cringSize s ring = some n) (hx : HeadFits s ring n x)
    (hd : ∀ e ∈ s.strm.slots, ∀ t ∈ e.2.tiles, t.doneTick = none) : cringHead s ring x = setFld s (keyB R.CRING_HEAD ring) 15 0 x := by
  unfold HeadFits at hx
  have hf : flushAll (setFld s (keyB R.CRING_HEAD ring) 15 0 x) = setFld s (keyB R.CRING_HEAD ring) 15 0 x := flushAll_undone hd
  simp only [cringHead, hs, if_pos hx, hf]

/-! ### O56 -/

/-- Settles O56: ARM by its checks in order, CANCEL, a cluster's change of role, then the writes of a completion ring's registers. -/
theorem mapsAndRings : Obligations.MapsAndRings := by
  refine ⟨⟨?arm, ?rebind⟩, ?rings⟩
  case arm =>
    intro w s hl
    have ha := effect_arm hl w
    have hc := effect_cancel hl w
    refine ⟨fun h => ?_, fun h => ?_⟩
    · rw [armWrite_shut h] at ha hc
      exact ⟨ha, hc⟩
    · rw [armWrite_arm h] at ha
      rw [armWrite_cancel h] at hc
      refine ⟨fun he hp => ?_, fun m he hr hm => ⟨fun i x hi hs => ?_, fun i x hi h0 hs => ?_, fun h0 h1 => ?_⟩, fun hn => ?_, fun hs => ?_⟩
      · rw [armCmd_refused he hp] at ha
        exact ⟨_, ha, answerArm_policy s⟩
      · rw [armCmd_overCeiling he hr hm hs] at ha
        exact ⟨_, ha, answerArm_short s hi x⟩
      · rw [armCmd_underDeclared he hr hm h0 hs] at ha
        exact ⟨_, ha, answerArm_short s hi x⟩
      · rw [armCmd_arms he hr hm h0 h1] at ha
        exact ⟨_, ha, rfl, regN_setN_self _ _ _, regsKept_setR _ _ _, rfl⟩
      · rwa [cancelCmd_none hn] at hc
      · exact ⟨_, hc, cancelCmd_disarms hs⟩
  case rebind =>
    intro d c s hl now want may
    have hr := effect_clusterRebind hl d c
    refine ⟨fun h => ?_, fun h => ?_⟩
    · rwa [rebindCluster_stays h] at hr
    · obtain ⟨h1, h2, h3, h4⟩ := rebindCluster_binds h
      exact ⟨_, hr, h1, fun i k hik _ => h2 i k hik, h3, h4⟩
  case rings =>
    intro w v s hl ring cfg head tail refused
    have hc := effect_cringCfgWrite hl w v
    have hh := effect_cringHeadWrite hl w v
    refine ⟨fun h => ?_, fun h hb => ?_, fun h hb => ?_, fun h => ?_, fun h hs hx => ?_, fun n h hs hx => ?_, fun n h hs hx hle hd => ?_⟩
    · rwa [cringCfgWrite_shut h] at hc
    · rw [cringCfgWrite_open h, cringCfg_busy hb] at hc
      exact ⟨_, hc, cfgRefused_event s⟩
    · rw [cringCfgWrite_open h, cringCfg_takes hb] at hc
      by_cases hv : flag s cfg 31 = false ∧ bitOf v.toNat 31 = true
      · rw [if_pos hv] at hc
        obtain ⟨h1, h2⟩ := cringReset_resets s ring v
        refine ⟨_, hc, h1, fun _ _ => h2, fun hn => ?_⟩
        rcases hn with hn | hn
        · rw [hv.1] at hn; cases hn
        · rw [hv.2] at hn; cases hn
      · rw [if_neg hv] at hc
        exact ⟨_, hc, getR_setR_self _ _ _, fun h1 h2 => absurd ⟨h1, h2⟩ hv, fun _ => ⟨regsKept_setR _ _ _, rfl⟩⟩
    · rwa [cringHeadWrite_shut h] at hh
    · rw [cringHeadWrite_open h, cringHead_invalid hs hx] at hh
      exact ⟨_, hh, cfgRefused_event s⟩
    · rw [cringHeadWrite_open h, cringHead_beyond hs hx] at hh
      exact ⟨_, hh, cfgRefused_event s⟩
    · rw [cringHeadWrite_open h, cringHead_moves hs ⟨hx, hle⟩ hd] at hh
      refine ⟨_, hh, ?_, regsKept_setR _ _ _, rfl⟩
      rw [fld_setFld_self _ _ _ _ _ (by decide) (by decide)]
      exact Nat.mod_eq_of_lt (Nat.mod_lt _ (by decide))

end Sys2Proof.Proofs

/-!
What reads and writes of storage, and the allocator of buffers, leave unchanged: the streams, the switch's state and the tick (R53, R163, R172 to R177).
-/
namespace Sys2Proof.Proofs
open Sys2Proof.Machine Sys2Proof.Safety

/-! ### Reads and writes of storage -/

/-- The streams, the switch's state and the tick are kept: what an allocation or a release of buffers keeps. -/
structure FlowKept (s u : State) : Prop where
  strm : u.strm = s.strm
  sw : u.sw = s.sw
  tick : u.tick = s.tick

theorem FlowKept.refl (s : State) : FlowKept s s := ⟨rfl, rfl, rfl⟩

theorem FlowKept.trans {s u v : State} (h : FlowKept s u) (g : FlowKept u v) : FlowKept s v := ⟨g.strm.trans h.strm, g.sw.trans h.sw, g.tick.trans h.tick⟩

/-- A read or a write of storage keeps POOL's state also. -/
structure MemKept (s u : State) : Prop extends FlowKept s u where
  pool : u.pool = s.pool

theorem MemKept.of_fields {s u : State} (hs : u.strm = s.strm) (hw : u.sw = s.sw) (ht : u.tick = s.tick) (hp : u.pool = s.pool) : MemKept s u := ⟨⟨hs, hw, ht⟩, hp⟩

theorem MemKept.refl (s : State) : MemKept s s := .of_fields rfl rfl rfl rfl

theorem MemKept.trans {s u v : State} (h : MemKept s u) (g : MemKept u v) : MemKept s v := ⟨h.toFlowKept.trans g.toFlowKept, g.pool.trans h.pool⟩

theorem memKept_of_flt {s u : State} (h : KeptFlt s u) : MemKept s u := .of_fields h.strm h.sw h.tick h.pool

theorem memKept_of_regs {s u : State} (h : OnlyRegs s u) : MemKept s u := memKept_of_flt (.ofIrq (keptIrq_of_onlyRegs h))

theorem memKept_setN (s : State) (k v : Nat) : MemKept s (setN s k v) := memKept_of_regs (onlyRegs_setN s k v)

theorem memKept_event (s : State) (page k : Nat) : MemKept s (event s page k) := memKept_of_flt (.ofIrq (KeptIrq.event s page k))

theorem memKept_foldl {α : Type} {f : State → α → State} (hf : ∀ s x, MemKept s (f s x)) (l : List α) (s : State) : MemKept s (l.foldl f s) :=
  foldl_related (r := MemKept) MemKept.refl (fun _ _ _ h g => h.trans g) hf l s

theorem memKept_flagAbort (s : State) (round : Nat) (holds : Bool) : MemKept s (flagAbort s round holds) := by
  unfold flagAbort
  split <;> exact .of_fields rfl rfl rfl rfl

theorem memKept_ueConsequence (s : State) (k : Nat) : MemKept s (ueConsequence s k) := by
  unfold ueConsequence
  split
  · split
    · exact MemKept.trans (u := { s with hlth := { s.hlth with broken := insNat s.hlth.broken k } }) (.of_fields rfl rfl rfl rfl) (memKept_flagAbort _ _ _)
    · split
      · exact .of_fields rfl rfl rfl rfl
      · split
        · exact memKept_flagAbort _ _ _
        · exact MemKept.refl s
  · exact MemKept.refl s

theorem memKept_eccClear (s : State) (w : Nat) : MemKept s (eccClear s w) := .of_fields rfl rfl rfl rfl

theorem memKept_eccRaise (s : State) (k : Nat) (ue scrub : Bool) : MemKept s (eccRaise s k ue scrub) := by
  have h := memKept_of_flt (KeptFlt.trans (KeptFlt.noteEcc s k ue scrub) (KeptFlt.raise _ (eccFault k ue).1 (eccFault k ue).2.1 0 (eccFault k ue).2.2))
  unfold eccRaise
  dsimp only
  split
  · exact h.trans (memKept_ueConsequence _ _)
  · exact h

theorem memKept_meetErrors : ∀ (l : List (Nat × EccKind)) (s : State), MemKept s (meetErrors l s)
  | [], s => MemKept.refl s
  | (w, .ce) :: t, s => (memKept_eccClear s w).trans ((memKept_eccRaise _ w false false).trans (memKept_meetErrors t _))
  | (_, .ue) :: t, s => (memKept_eccRaise s _ _ _).trans (memKept_meetErrors t _)

theorem memKept_storeWrite (s : State) (k : Nat) (bs : List Byte) : MemKept s (storeWrite s k bs).2 := by
  have raw (a : State) (x : Nat) (b : List Byte) : MemKept a (rawWrite a x b) := .of_fields rfl rfl rfl rfl
  exact (memKept_meetErrors _ s).trans ((memKept_foldl (fun _ _ => memKept_eccClear _ _) _ _).trans ((raw _ k bs).trans (memKept_foldl (fun _ _ => raw _ _ _) _ _)))

theorem memKept_hwRead (s : State) (a n : Nat) : MemKept s (hwRead s a n).2 := by
  unfold hwRead storeRead
  dsimp only
  split
  · split <;> exact memKept_meetErrors _ s
  · exact MemKept.refl s

theorem memKept_hwWriteAs (kind : Nat) (s : State) (a : Nat) (bs : List Byte) : MemKept s (hwWriteAs kind s a bs) := by
  unfold hwWriteAs
  split
  · exact memKept_storeWrite _ _ _
  · exact MemKept.refl s

/-! ### Buffers taken and released (R172 to R177) -/

theorem flowKept_setN (s : State) (k v : Nat) : FlowKept s (setN s k v) := (memKept_setN s k v).toFlowKept

theorem flowKept_event (s : State) (page k : Nat) : FlowKept s (event s page k) := (memKept_event s page k).toFlowKept

theorem flowKept_raise (s : State) (src kind ctx addr : Nat) : FlowKept s (raise s src kind ctx addr) := (memKept_of_flt (KeptFlt.raise s src kind ctx addr)).toFlowKept

theorem flowKept_hwRead (s : State) (a n : Nat) : FlowKept s (hwRead s a n).2 := (memKept_hwRead s a n).toFlowKept

theorem flowKept_hwWriteAs (kind : Nat) (s : State) (a : Nat) (bs : List Byte) : FlowKept s (hwWriteAs kind s a bs) := (memKept_hwWriteAs kind s a bs).toFlowKept

theorem flowKept_foldl {α : Type} {f : State → α → State} (hf : ∀ s x, FlowKept s (f s x)) (l : List α) (s : State) : FlowKept s (l.foldl f s) :=
  foldl_related (r := FlowKept) FlowKept.refl (fun _ _ _ h g => h.trans g) hf l s

theorem flowKept_meetCount (s : State) (h : Nat) : FlowKept s (meetCount s h) := by
  unfold meetCount
  split
  · exact FlowKept.refl s
  · exact flowKept_hwRead _ _ _

theorem flowKept_setCount (s : State) (h n : Nat) : FlowKept s (setCount s h n) := by
  unfold setCount
  dsimp only
  split
  · exact ⟨rfl, rfl, rfl⟩
  · split
    · exact (flowKept_hwWriteAs _ _ _ _).trans (flowKept_hwWriteAs _ _ _ _)
    · exact flowKept_hwWriteAs _ _ _ _

theorem flowKept_setFree (s : State) (p sg n : Nat) : FlowKept s (setFree s p sg n) := by
  unfold setFree
  dsimp only
  split <;> exact ⟨rfl, rfl, rfl⟩

theorem flowKept_linkWrite (s : State) (h next : Nat) : FlowKept s (linkWrite s h next) := by
  unfold linkWrite
  split
  · exact ⟨rfl, rfl, rfl⟩
  · exact flowKept_hwWriteAs _ _ _ _

theorem flowKept_pushFree (s : State) (h : Nat) : FlowKept s (pushFree s h) :=
  (flowKept_linkWrite s h _).trans ((flowKept_setN _ _ _).trans (flowKept_setFree _ _ _ _))

theorem flowKept_noteBad (s : State) (h kind : Nat) : FlowKept s (noteBad s h kind) := (flowKept_setN s _ _).trans (flowKept_raise _ _ _ _ _)

theorem flowKept_releaseQuiet (s : State) (h : Nat) : FlowKept s (releaseQuiet s h) := by
  unfold releaseQuiet releaseBuf
  dsimp only
  split
  · exact flowKept_noteBad _ _ _
  · split
    · exact ⟨rfl, rfl, rfl⟩
    · have h0 := flowKept_meetCount s h
      split
      · exact h0
      · exact h0.trans ((flowKept_setN _ _ _).trans ((flowKept_event _ _ _).trans (flowKept_noteBad _ _ _)))
      · next n _ =>
        have h1 := h0.trans (flowKept_setCount _ h n)
        split
        · exact h1.trans (flowKept_pushFree _ _)
        · exact h1

theorem flowKept_addrefBuf (s : State) (h n : Nat) : FlowKept s (addrefBuf s h n).2 := by
  unfold addrefBuf
  dsimp only
  split
  · exact flowKept_noteBad _ _ _
  · have h0 := flowKept_meetCount s h
    split
    · exact h0
    · exact h0.trans (flowKept_noteBad _ _ _)
    · split
      · exact h0.trans (flowKept_noteBad _ _ _)
      · exact h0.trans (flowKept_setCount _ _ _)

theorem flowKept_storeRead (s : State) (k n : Nat) : FlowKept s (storeRead s k n).2 := by
  unfold storeRead
  dsimp only
  split <;> exact (memKept_meetErrors _ s).toFlowKept

theorem flowKept_linkRead (s : State) (h : Nat) : FlowKept s (linkRead s h).2 := by
  unfold linkRead
  by_cases hh : hPool h = 0
  · simp only [if_pos hh]
    split <;> exact flowKept_storeRead _ _ _
  · simp only [if_neg hh]
    split <;> exact flowKept_hwRead _ _ _

theorem flowKept_pool (s : State) (x : PoolSt) : FlowKept s { s with pool := x } := ⟨rfl, rfl, rfl⟩

theorem flowKept_freeze (s : State) (p sg h : Nat) : FlowKept s (freeze s p sg h) :=
  (flowKept_setN s _ _).trans ((flowKept_event _ _ _).trans (flowKept_raise _ _ _ _ _))

theorem flowKept_takeHead (s : State) (p sg n : Nat) : FlowKept s (takeHead s p sg n).2 := by
  have h0 := flowKept_linkRead s (segHead s p sg)
  unfold takeHead
  dsimp only
  split
  · exact FlowKept.refl s
  · split
    · next he =>
      rw [he] at h0
      exact h0.trans ((flowKept_setN _ _ _).trans ((flowKept_pool _ _).trans ((flowKept_setFree _ _ _ _).trans (flowKept_setCount _ _ _))))
    · next he =>
      rw [he] at h0
      exact h0.trans (flowKept_freeze _ _ _ _)

theorem flowKept_allocFrom (want sg n : Nat) : ∀ (l : List Nat) (s : State), FlowKept s (allocFrom want sg n l s).2
  | [], s => (flowKept_setN s _ _).trans (flowKept_event _ _ _)
  | k :: t, s => by
    have h0 := flowKept_takeHead s k sg n
    unfold allocFrom
    split
    · exact flowKept_allocFrom want sg n t s
    · split
      · next he =>
        rw [he] at h0
        dsimp only
        split
        · exact h0.trans ((flowKept_setN _ _ _).trans (flowKept_event _ _ _))
        · exact h0
      · next he =>
        rw [he] at h0
        exact h0.trans (flowKept_allocFrom want sg n t _)

theorem flowKept_allocBuf (s : State) (p sg n : Nat) : FlowKept s (allocBuf s p sg n).2 := flowKept_allocFrom _ _ _ _ s

theorem flowKept_allocInternal (s : State) (p sg : Nat) : FlowKept s (allocInternal s p sg).2 := by
  have h0 := flowKept_allocBuf s p sg 1
  unfold allocInternal
  split
  · exact FlowKept.refl s
  · split
    · split <;> (next he => rw [he] at h0; exact h0)
    · exact FlowKept.refl s

theorem flowKept_takeQueues : ∀ (n : Nat) (s : State) (got : List Nat), FlowKept s (takeQueues n s got).2
  | 0, s, _ => FlowKept.refl s
  | n + 1, s, got => by
    have h0 := flowKept_allocInternal s 1 (homeSeg s 0)
    unfold takeQueues
    split
    · next he =>
      rw [he] at h0
      exact h0.trans (flowKept_takeQueues n _ _)
    · next he =>
      rw [he] at h0
      exact h0.trans (flowKept_foldl flowKept_releaseQuiet _ _)

theorem flowKept_takeCells : ∀ (n : Nat) (s : State) (hoist : Nat) (got : List Nat), FlowKept s (takeCells n s hoist got).2
  | 0, s, _, _ => FlowKept.refl s
  | n + 1, s, hoist, got => by
    have h0 := flowKept_allocBuf s 0 hoist 1
    unfold takeCells
    split
    · next he =>
      rw [he] at h0
      exact h0.trans (flowKept_takeCells n _ _ _)
    · next he =>
      rw [he] at h0
      exact h0.trans (flowKept_foldl flowKept_releaseQuiet _ _)

end Sys2Proof.Proofs

/-!
Doorbells and fetches of streams (R58, R59, R75).
-/
namespace Sys2Proof.Proofs
open Sys2Proof.Machine Sys2Proof.Safety

/-! ### Streams at their slots -/

theorem streamAt_putStream_self (s : State) (slot : Nat) (st : Stream) : streamAt (putStream s slot st) slot = some st := mapFind_mapPut_self _ _ _

theorem streamAt_putStream_ne (s : State) {slot j : Nat} (st : Stream) (h : j ≠ slot) : streamAt (putStream s slot st) j = streamAt s j :=
  mapFind_mapPut_ne _ _ h

theorem streamAt_of_strm {s u : State} (h : u.strm = s.strm) (slot : Nat) : streamAt u slot = streamAt s slot := by rw [streamAt, h, streamAt]

/-! ### Doorbells (R58, R75) -/

theorem effect_strmDb {s : State} (hl : live s = true) (w : Win) (v : Word) :
    Effect (.strmDb w v) s (streamDoorbell s w (bitsOf v.toNat 11 0) (bitsOf v.toNat 27 12)) := by rw [Effect, exec_strmDb, execStrmDb, act_live hl]

/-- A doorbell reaches STREAM: BAR2's while the gate is open and the page is not locked. -/
def dbReaches (s : State) (w : Win) : Prop := w = .bar2 → gateOpen s = true ∧ pageLocked s pgSTRM = false

theorem streamDoorbell_ignored {s : State} {w : Win} (h : ¬dbReaches s w ∨ inRun s pgSTRM = false) (slot tail : Nat) : streamDoorbell s w slot tail = s := by
  unfold streamDoorbell
  dsimp only
  rw [if_pos]
  rcases h with h | h
  · cases w with
    | bar2 => simp only [dbReaches, forall_const, not_and, Bool.not_eq_false] at h
              cases hg : gateOpen s with
              | false => rfl
              | true => rw [h hg]; rfl
    | bar0 => exact absurd Win.noConfusion h
    | core => exact absurd Win.noConfusion h
  · rw [h, Bool.not_false, Bool.or_true]

/-- Where it reaches the block in RUN, what the slot holds decides. -/
theorem streamDoorbell_reaches {s : State} {w : Win} (h : dbReaches s w) (hr : inRun s pgSTRM = true) (slot tail : Nat) : streamDoorbell s w slot tail =
    match streamAt s slot with
    | none => strayDb s slot
    | some st =>
      if st.state ≠ 1 ∨ (w = .bar0 ∧ st.member = false) then strayDb s slot
      else if 2 ^ st.sqLog2 ≤ tail ∨ ringFree (2 ^ st.sqLog2) st.head st.tail < (tail + 2 ^ st.sqLog2 - st.tail) % 2 ^ st.sqLog2 then
        overrunDb (event s pgSTRM 1) pgSTRM R.STRM_DB_STRAY st.sqBase (slot % 256)
      else putStream s slot { st with tail := tail } := by
  unfold streamDoorbell
  dsimp only
  refine if_neg ?_
  cases w with
  | bar2 =>
    obtain ⟨hg, hp⟩ := h rfl
    simp [hg, hp, hr]
  | bar0 => simp [hr]
  | core => simp [hr]

theorem streamDoorbell_stray {s : State} {w : Win} (h : dbReaches s w) (hr : inRun s pgSTRM = true) {slot : Nat}
    (hs : ∀ st, streamAt s slot = some st → st.state ≠ 1 ∨ (w = .bar0 ∧ st.member = false)) (tail : Nat) : streamDoorbell s w slot tail = strayDb s slot := by
  rw [streamDoorbell_reaches h hr]
  cases e : streamAt s slot with
  | none => rfl
  | some st => exact if_pos (hs st e)

theorem streamDoorbell_open {s : State} {w : Win} {st : Stream} (h : dbReaches s w) (hr : inRun s pgSTRM = true) {slot : Nat} (hs : streamAt s slot = some st)
    (h1 : st.state = 1) (hm : w = .bar0 → st.member = true) (tail : Nat) : streamDoorbell s w slot tail =
      if 2 ^ st.sqLog2 ≤ tail ∨ ringFree (2 ^ st.sqLog2) st.head st.tail < (tail + 2 ^ st.sqLog2 - st.tail) % 2 ^ st.sqLog2 then
        overrunDb (event s pgSTRM 1) pgSTRM R.STRM_DB_STRAY st.sqBase (slot % 256)
      else putStream s slot { st with tail := tail } := by
  rw [streamDoorbell_reaches h hr, hs]
  refine if_neg ?_
  rintro (hn | ⟨hw, hf⟩)
  · exact hn h1
  · rw [hm hw] at hf
    cases hf

/-- A doorbell that finds no stream, or overruns its ring: counted, with its event and its fault; the streams stay. -/
def DbCounted (s u : State) : Prop :=
  regN u R.STRM_DB_STRAY = min 0xFFFFFFFF (regN s R.STRM_DB_STRAY + 1) ∧ flag u (hdr pgSTRM oEVT) 1 = true ∧ inFault u pgSTRM = true ∧ u.strm = s.strm

theorem regN_raise {s : State} (he : s.store.ecc = []) (src kind ctx addr : Nat) {j : Nat} (h1 : pageOf j ≠ 0x80) (h2 : pageOf j ≠ 0x81) :
    regN (raise s src kind ctx addr) j = regN s j := by rw [regN, getR_raise s he _ _ _ _ h1 h2, regN]

/-- What is counted before its fault is raised. -/
theorem dbCounted_raise {s a : State} (he : a.store.ecc = []) (hn : regN a R.STRM_DB_STRAY = min 0xFFFFFFFF (regN s R.STRM_DB_STRAY + 1))
    (hf : flag a (hdr pgSTRM oEVT) 1 = true) (hs : a.strm = s.strm) (kind ctx addr : Nat) : DbCounted s (raise a pgSTRM kind ctx addr) := by
  refine ⟨?_, ?_, inFault_raise _ he _ _ _ _ (by decide), by rw [raise_strm, hs]⟩
  · rw [regN_raise he _ _ _ _ (by decide) (by decide), hn]
  · rw [flag, regN_raise he _ _ _ _ (by decide) (by decide), ← flag, hf]

theorem strayDb_counted {s : State} (he : s.store.ecc = []) (slot : Nat) : DbCounted s (strayDb s slot) := by
  refine dbCounted_raise ?_ ?_ (flag_event_self _ _ _ (by decide)) ?_ _ _ _
  · rw [event_store, bump_store, he]
  · rw [regN_event _ _ _ (by decide) (by decide) (by decide), regN_bump_self]
  · rw [event_strm, bump_strm]

theorem overrunDb_counted {s : State} (he : s.store.ecc = []) (ring ctx : Nat) : DbCounted s (overrunDb (event s pgSTRM 1) pgSTRM R.STRM_DB_STRAY ring ctx) := by
  refine dbCounted_raise ?_ ?_ ?_ ?_ _ _ _
  · rw [bump_store, event_store, he]
  · rw [regN_bump_self, regN_event _ _ _ (by decide) (by decide) (by decide)]
  · rw [flag, bump, bumpBy, regN_setN_ne _ _ (by decide), ← flag, flag_event_self _ _ _ (by decide)]
  · rw [bump_strm, event_strm]

/-! ### Fetches (R59) -/

theorem effect_descFetch {s : State} (hl : live s = true) (x : BitVec 12) : Effect (.descFetch x) s (fetchDesc s x.toNat) := by
  rw [Effect, exec_descFetch, execDescFetch, act_live hl]

/-- The stream past the descriptor at FETCH. -/
def fetched (st : Stream) : Stream := { st with fetch := (st.fetch + 1) % 2 ^ st.sqLog2, expect := (st.expect + 1) % 2 ^ 48 }

/-- The descriptor read at FETCH, with its tick of submission. -/
def descRead (s : State) (st : Stream) (b : List Byte) : Desc := { parseDesc st.fetch b with tickSub := s.tick.now }

theorem fetchDesc_none {s : State} {slot : Nat} (h : streamAt s slot = none) : fetchDesc s slot = s := by simp only [fetchDesc, h]

theorem fetchDesc_waits {s : State} {slot : Nat} {st : Stream} (h : streamAt s slot = some st) (hw : blkState s pgSTRM ≠ bRUN ∨ st.fetch = st.tail) :
    fetchDesc s slot = s := by simp only [fetchDesc, h, if_pos hw]

theorem memKept_gemmMet (s : State) (st : Stream) : MemKept s (gemmMet s st) := by
  unfold gemmMet
  split
  · exact memKept_hwRead _ _ _
  · exact MemKept.refl s

/-- A paced tile owes its grant. -/
def owing (u : State) (sw : SwSt) (slot seq : Nat) : State := { u with sw := { sw with owed := sw.owed ++ [(slot, seq)] } }

section
variable {s : State} {slot : Nat} {st : Stream} {b : List Byte} (hs : streamAt s slot = some st) (hr : blkState s pgSTRM = bRUN) (hf : st.fetch ≠ st.tail)
  (hb : hwRead s (st.sqBase + 64 * st.fetch) 64 = (some b, s))
include hs hr hf hb

theorem fetchDesc_invalid (hd : descOk st b = false) : fetchDesc s slot =
    raise (event (addFailed s slot (fetched st) { descRead s st b with seq := st.expect } cPOLICY) pgSTRM 4) pgSTRM fDESC_INVALID (hopStation (hopAt st 0))
      (st.sqBase + 64 * st.fetch) := by
  simp only [fetchDesc, hs, hr, ne_eq, not_true_eq_false, hf, or_self, if_false, hb, hd, Bool.not_false, if_true]
  rfl

theorem fetchDesc_refused (hd : descOk st b = true) (hc : cringSize s (descRead s st b).ring = none ∨ gemmShort s st (descRead s st b) = true) : fetchDesc s slot =
    addFailed (gemmMet s st) slot (fetched st) (descRead s st b) cPOLICY := by
  have hc' : ((cringSize s (descRead s st b).ring).isNone || gemmShort s st (descRead s st b)) = true := by
    rcases hc with hc | hc <;> simp [hc]
  unfold descRead at hc' ⊢
  simp only [fetchDesc, hs, hr, ne_eq, not_true_eq_false, hf, or_self, if_false, hb, hd, Bool.not_true, Bool.false_eq_true, hc', if_true]
  rfl

theorem fetchDesc_good (hd : descOk st b = true) (hc : (cringSize s (descRead s st b).ring).isSome = true) (hg : gemmShort s st (descRead s st b) = false) :
    let u := putStream (gemmMet s st) slot { fetched st with tiles := st.tiles ++ [{ desc := descRead s st b, present := s.tick.now + 1 }] }
    fetchDesc s slot = if isPort (hopStation (hopAt st 0)) = true ∧ (mapGet {} s.sw.subs st.sub).paceIn = true then owing u s.sw slot (descRead s st b).seq else u := by
  intro u
  have hsw : s.sw = u.sw := (memKept_gemmMet s st).sw.symm
  have hc' : ((cringSize s (descRead s st b).ring).isNone || gemmShort s st (descRead s st b)) = false := by
    cases e : cringSize s (descRead s st b).ring with
    | none => rw [e] at hc; cases hc
    | some n => rw [hg]; rfl
  rw [show owing u s.sw slot (descRead s st b).seq = owing u u.sw slot (descRead s st b).seq by rw [hsw]]
  unfold descRead at hc'
  simp only [fetchDesc, hs, hr, ne_eq, not_true_eq_false, hf, or_self, if_false, hb, hd, Bool.not_true, Bool.false_eq_true, hc', Bool.and_eq_true]
  rfl

end

theorem gemmMet_clean {s : State} (he : s.store.ecc = []) (st : Stream) : gemmMet s st = s := by
  unfold gemmMet
  split
  · exact met_clean he _ _
  · rfl

/-! ### Tiles that complete leave the pointers of their ring (R53) -/

/-- The stream at a slot keeps its FETCH, its sequence and its TAIL. -/
def PointersKept (slot : Nat) (s u : State) : Prop :=
  ∀ st, streamAt s slot = some st → ∃ e, streamAt u slot = some e ∧ e.fetch = st.fetch ∧ e.expect = st.expect ∧ e.tail = st.tail

theorem PointersKept.refl (slot : Nat) (s : State) : PointersKept slot s s := fun st h => ⟨st, h, rfl, rfl, rfl⟩

theorem PointersKept.trans {slot : Nat} {s u v : State} (h : PointersKept slot s u) (g : PointersKept slot u v) : PointersKept slot s v := by
  intro st hs
  obtain ⟨e, he, h1, h2, h3⟩ := h st hs
  obtain ⟨f, hf, g1, g2, g3⟩ := g e he
  exact ⟨f, hf, g1.trans h1, g2.trans h2, g3.trans h3⟩

theorem pointersKept_completeTile {s u : State} {slot done : Nat} {st : Stream} {t : Tile} (hs : streamAt s slot = some st)
    (h : completeTile s slot st t done = some u) : PointersKept slot s u := by
  intro x hx
  cases hs.symm.trans hx
  unfold completeTile at h
  split at h
  · cases h
  · cases h
    exact ⟨_, streamAt_putStream_self _ _ _, rfl, rfl, rfl⟩

theorem pointersKept_flushN : ∀ (n : Nat) (s : State) (slot : Nat), PointersKept slot s (flushN n s slot)
  | 0, s, slot => PointersKept.refl slot s
  | n + 1, s, slot => by
    unfold flushN
    split
    · next st hs =>
      split
      · next t rest _ =>
        split
        · split
          · next hc => exact (pointersKept_completeTile hs hc).trans (pointersKept_flushN n _ slot)
          · have hp : PointersKept slot s (putStream s slot { st with tiles := ringHeld t.desc.ring (t :: rest) }) := by
              intro x hx
              cases hs.symm.trans hx
              exact ⟨_, streamAt_putStream_self _ _ _, rfl, rfl, rfl⟩
            dsimp only
            split
            · exact hp
            · intro x hx
              rw [streamAt_of_strm (event_strm _ _ _)]
              exact hp x hx
        · exact PointersKept.refl slot s
      · exact PointersKept.refl slot s
    · exact PointersKept.refl slot s

theorem pointersKept_flush (s : State) (slot : Nat) : PointersKept slot s (flush s slot) := by
  unfold flush
  split
  · exact pointersKept_flushN _ _ _
  · exact PointersKept.refl slot s

/-- A tile that fails at its fetch leaves the stream's pointers as they are put. -/
theorem streamAt_addFailed (s : State) (slot : Nat) (st : Stream) (d : Desc) (code : Nat) :
    ∃ e, streamAt (addFailed s slot st d code) slot = some e ∧ e.fetch = st.fetch ∧ e.expect = st.expect ∧ e.tail = st.tail :=
  by
  obtain ⟨e, he, h1, h2, h3⟩ := pointersKept_flush _ slot _ (streamAt_putStream_self s slot { st with
    tiles := st.tiles ++ [{ desc := d, present := s.tick.now + 1, fail := some code, doneTick := some s.tick.now }],
    lasts := if bitOf d.attr 2 then insNat st.lasts d.seq else st.lasts })
  exact ⟨e, he, h1, h2, h3⟩

theorem ecc_addFailed {s : State} (he : s.store.ecc = []) (slot : Nat) (st : Stream) (d : Desc) (code : Nat) : (addFailed s slot st d code).store.ecc = [] :=
  (lineKept_flush _ slot).ecc he

theorem fetchDesc_invalid_shows {s : State} {slot : Nat} {st : Stream} {b : List Byte} (hs : streamAt s slot = some st) (hr : blkState s pgSTRM = bRUN)
    (hf : st.fetch ≠ st.tail) (hb : hwRead s (st.sqBase + 64 * st.fetch) 64 = (some b, s)) (hd : descOk st b = false) (he : s.store.ecc = []) :
    let u := fetchDesc s slot
    inFault u pgSTRM = true ∧ flag u (hdr pgSTRM oEVT) 4 = true ∧
      ∃ e, streamAt u slot = some e ∧ e.fetch = (fetched st).fetch ∧ e.expect = (fetched st).expect ∧ e.tail = st.tail := by
  intro u
  have hu : u = _ := fetchDesc_invalid hs hr hf hb hd
  rw [hu]
  have h1 := ecc_addFailed he slot (fetched st) { descRead s st b with seq := st.expect } cPOLICY
  have h2 := streamAt_addFailed s slot (fetched st) { descRead s st b with seq := st.expect } cPOLICY
  generalize addFailed s slot (fetched st) { descRead s st b with seq := st.expect } cPOLICY = a at h1 h2 ⊢
  have h3 : (event a pgSTRM 4).store.ecc = [] := by rw [event_store, h1]
  refine ⟨inFault_raise _ h3 _ _ _ _ (by decide), ?_, ?_⟩
  · rw [flag, regN_raise h3 _ _ _ _ (by decide) (by decide), ← flag, flag_event_self _ _ _ (by decide)]
  · rw [streamAt_of_strm ((raise_strm _ _ _ _ _).trans (event_strm _ _ _))]
    exact h2

/-! ### A descriptor that names a ring that is not valid (R53, R59) -/

theorem onlyMem_hwWrite {s : State} (he : s.store.ecc = []) (a : Nat) (bs : List Byte) : OnlyMem s (hwWrite s a bs) := by
  unfold hwWrite hwWriteAs
  split
  · rw [storeWrite_clean (eccWords_none he _ _)]
    rfl
  · rfl

theorem onlyMem_writeBack {s : State} (he : s.store.ecc = []) (st : Stream) (t : Tile) (done : Nat) : OnlyMem s (writeBack s st t done) := by
  have h1 := onlyMem_hwWrite he (st.sqBase + 64 * t.desc.qidx + 0x03) (bytesLE 1 t.hop)
  have h2 := h1.trans (onlyMem_hwWrite (h1.ecc.trans he) (st.sqBase + 64 * t.desc.qidx + 0x2A) (bytesLE 1 (tileStatus t)))
  exact h2.trans (onlyMem_hwWrite (h2.ecc.trans he) _ _)

theorem OnlyMem.getR {s u : State} (h : OnlyMem s u) (k : Nat) : getR u k = getR s k := by rw [h]; rfl

theorem cringSize_congr {s u : State} (h : ∀ k, getR u k = getR s k) (ring : Nat) : cringSize u ring = cringSize s ring := by
  have hr : regN u (keyB R.CRING_CFG ring) = regN s (keyB R.CRING_CFG ring) := by rw [regN, h, regN]
  have hf (b : Nat) : flag u (keyB R.CRING_CFG ring) b = flag s (keyB R.CRING_CFG ring) b := by rw [flag, hr, flag]
  have hn : fld u (keyB R.CRING_CFG ring) 4 0 = fld s (keyB R.CRING_CFG ring) 4 0 := by rw [fld, hr, fld]
  unfold cringSize
  dsimp only
  rw [hf, hn]

/-- The stream after its oldest tile, a failed one, has completed. -/
def pastFailed (st : Stream) (t : Tile) : Stream :=
  { st with tiles := st.tiles.tail, head := (t.desc.qidx + 1) % 2 ^ st.sqLog2, failed := insNat st.failed t.desc.round }

/-- A refused tile whose ring is not valid completes with no record: its refusal is counted. -/
theorem completeTile_unrecorded {s : State} {slot done : Nat} {st : Stream} {t : Tile} (he : s.store.ecc = []) (hc : cringSize s t.desc.ring = none)
    (hp : s.coll.purposes = []) (hi : bitOf t.desc.attr 4 = false) (hf : t.fail = some cPOLICY) (hl : t.landing = none) :
    completeTile s slot st t done = some (putStream (bump (writeBack s st t done) R.STRM_REFUSED) slot (pastFailed st t)) := by
  have hw := onlyMem_writeBack he st t done
  have hs : tileStatus t = cPOLICY := by simp only [tileStatus, hf]
  have hpush : notePush (bump (writeBack s st t done) R.STRM_REFUSED) st t = bump (writeBack s st t done) R.STRM_REFUSED := by
    rw [notePush, if_neg]
    rintro ⟨_, _, _, hn, _⟩
    rw [hf] at hn
    cases hn
  have hcar : noteCarrier (bump (writeBack s st t done) R.STRM_REFUSED) slot t = bump (writeBack s st t done) R.STRM_REFUSED := by
    rw [noteCarrier, if_neg]
    rw [show (bump (writeBack s st t done) R.STRM_REFUSED).coll.purposes = [] by rw [bump_coll, hw, hp]]
    exact Bool.false_ne_true
  have hcode : countCode (writeBack s st t done) cPOLICY = bump (writeBack s st t done) R.STRM_REFUSED := rfl
  simp only [completeTile, postRecord, cringSize_congr hw.getR, hc, hs, hcode, hi, Bool.false_and, Bool.false_eq_true, if_false, hl, hpush, hcar, hf, Option.isSome_some, if_true]
  rfl

/-- A stream whose one tile has ended and completes has none left. -/
theorem flush_completes {s a : State} {slot done : Nat} {st e : Stream} {t : Tile} (hs : streamAt s slot = some st) (ht : st.tiles = [t]) (hd : t.doneTick = some done)
    (hc : completeTile s slot st t done = some a) (ha : streamAt a slot = some e) (he : e.tiles = []) : flush s slot = a := by
  simp only [flush, hs, ht, List.length_cons, List.length_nil, flushN, hd, hc, ha, he]

/-- A tile refused at its fetch. -/
def refusedTile (s : State) (d : Desc) : Tile := { desc := d, present := s.tick.now + 1, fail := some cPOLICY, doneTick := some s.tick.now }

/-- A stream with no tile that takes a refused one. -/
def withRefused (s : State) (st : Stream) (d : Desc) : Stream :=
  { st with tiles := [refusedTile s d], lasts := if bitOf d.attr 2 then insNat st.lasts d.seq else st.lasts }

theorem addFailed_unrecorded {s : State} {slot : Nat} {st : Stream} {d : Desc} (he : s.store.ecc = []) (ht : st.tiles = []) (hc : cringSize s d.ring = none)
    (hp : s.coll.purposes = []) (hi : bitOf d.attr 4 = false) : let u := addFailed s slot st d cPOLICY
    streamAt u slot = some (pastFailed (withRefused s st d) (refusedTile s d)) ∧ regN u R.STRM_REFUSED = min 0xFFFFFFFF (regN s R.STRM_REFUSED + 1) := by
  intro u
  have hs : streamAt (putStream s slot (withRefused s st d)) slot = some (withRefused s st d) := streamAt_putStream_self _ _ _
  have hct := completeTile_unrecorded (s := putStream s slot (withRefused s st d)) (slot := slot) (done := s.tick.now) (st := withRefused s st d)
    (t := refusedTile s d) he hc hp hi rfl rfl
  have hw := onlyMem_writeBack (s := putStream s slot (withRefused s st d)) he (withRefused s st d) (refusedTile s d) s.tick.now
  have hadd : u = flush (putStream s slot (withRefused s st d)) slot := by
    simp only [u, addFailed, ht, List.nil_append]
    rfl
  have hu := hadd.trans (flush_completes hs rfl rfl hct (streamAt_putStream_self _ _ _) rfl)
  generalize writeBack (putStream s slot (withRefused s st d)) (withRefused s st d) (refusedTile s d) s.tick.now = a at hu hw
  have hreg : regN a R.STRM_REFUSED = regN s R.STRM_REFUSED := by rw [regN, hw.getR]; rfl
  rw [hu]
  refine ⟨streamAt_putStream_self _ _ _, ?_⟩
  rw [show ∀ x, regN (putStream (bump a R.STRM_REFUSED) slot x) R.STRM_REFUSED = regN (bump a R.STRM_REFUSED) R.STRM_REFUSED from fun _ => rfl, regN_bump_self, hreg]

end Sys2Proof.Proofs

/-!
Opens and closes of streams, and their obligation (R73, R74, R237).
-/
namespace Sys2Proof.Proofs
open Sys2Proof.Machine Sys2Proof.Safety

/-! ### Answers of STRM_CMD (R73) -/

theorem effect_openStream {s : State} (hl : live s = true) (w : Win) : Effect (.openStream w) s (strmCmdWrite s w 1 0) := by
  rw [Effect, exec_openStream, execOpenStream, act_live hl]

theorem effect_closeStream {s : State} (hl : live s = true) (w : Win) (x : BitVec 12) : Effect (.closeStream w x) s (strmCmdWrite s w 2 x.toNat) := by
  rw [Effect, exec_closeStream, execCloseStream, act_live hl]

theorem effect_streamCloseDone {s : State} (hl : live s = true) (x : BitVec 12) : Effect (.streamCloseDone x) s (closeDone s x.toNat) := by
  rw [Effect, exec_streamCloseDone, execStreamCloseDone, act_live hl]

theorem strmCmdWrite_ignored {s : State} {w : Win} (h : mayWrite s w R.STRM_CMD = false ∨ flag s R.STRM_RES 0 = true) (op slot : Nat) :
    strmCmdWrite s w op slot = s := by
  unfold strmCmdWrite
  rcases h with h | h
  · rw [if_neg (by rw [h]; exact Bool.false_ne_true)]
  · rw [strmCmd, if_pos (Or.inl h), ite_self]

section
variable {s : State} {w : Win} (hw : mayWrite s w R.STRM_CMD = true) (hf : flag s R.STRM_RES 0 = false)
include hw hf

theorem strmCmdWrite_open (slot : Nat) : strmCmdWrite s w 1 slot = openCmd s := by
  rw [strmCmdWrite, if_pos hw, strmCmd, if_neg (by simp [hf]), if_pos rfl]

theorem strmCmdWrite_close (slot : Nat) : strmCmdWrite s w 2 slot = closeCmd s slot := by
  rw [strmCmdWrite, if_pos hw, strmCmd, if_neg (by simp [hf]), if_neg (by decide), if_pos rfl]

end

/-- A result posted, with its event: its registers, and the interrupt's. -/
def StrmAnswered (s u : State) (v : Nat) : Prop :=
  regN u R.STRM_RES = v ∧ flag u (hdr pgSTRM oEVT) 0 = true ∧ RegsKept s u (R.STRM_RES :: R.STRM_REFUSED :: evtKeys pgSTRM) [0x80] ∧
    u = { s with regs := u.regs, irq := u.irq, sent := u.sent }

theorem StrmAnswered.fields {s u : State} {v : Nat} (h : StrmAnswered s u v) : u.strm = s.strm ∧ u.pool = s.pool := by
  obtain ⟨_, _, _, h⟩ := h
  exact ⟨by rw [h], by rw [h]⟩

/-- A code that neither delays nor ends late: a refusal counts in STRM_REFUSED. -/
def refusalCounted (s : State) (code : Nat) : State := if code = cCAPACITY ∨ code = cPOLICY ∨ code = cSEALED then bump s R.STRM_REFUSED else s

theorem countCode_refusal (s : State) {code : Nat} (hd : code ≠ cDELAYED) (hl : code ≠ cLATE) : countCode s code = refusalCounted s code := by
  rw [countCode, if_neg hd, if_neg hl, refusalCounted]

theorem onlyRegs_refusalCounted (s : State) (code : Nat) : OnlyRegs s (refusalCounted s code) := by
  unfold refusalCounted
  split
  · exact onlyRegs_setN _ _ _
  · rfl

theorem regsKept_refusalCounted (s : State) (code : Nat) : RegsKept s (refusalCounted s code) [R.STRM_REFUSED] [] := by
  unfold refusalCounted
  split
  · exact regsKept_setN _ _ _
  · exact regsKept_refl _ _ _

/-- A result and its count, then the event. -/
theorem strmAnswered_event (s : State) {v : Nat} (hv : v < 2 ^ 32) (code : Nat) :
    StrmAnswered s (event (refusalCounted (setN s R.STRM_RES v) code) pgSTRM 0) v := by
  have h1 := regsKept_setN s R.STRM_RES v
  have h2 := regsKept_refusalCounted (setN s R.STRM_RES v) code
  have h3 := regsKept_event (refusalCounted (setN s R.STRM_RES v) code) pgSTRM 0
  refine ⟨?_, flag_event_self _ _ _ (by decide), ?_, ?_⟩
  · rw [regN_of_kept h3 (by decide) (by decide), regN_of_kept h2 (by decide) (by decide), regN_setN_self, Nat.mod_eq_of_lt hv]
  · refine regsKept_trans (regsKept_mono h1 ?_ ?_) (regsKept_trans (regsKept_mono h2 ?_ ?_) (regsKept_mono h3 (fun k hk => .inl ?_) (by decide)))
    · decide
    · decide
    · decide
    · decide
    · exact List.mem_cons_of_mem _ (List.mem_cons_of_mem _ hk)
  · exact keptIrq_eq ((keptIrq_of_onlyRegs ((onlyRegs_setN s _ _).trans (onlyRegs_refusalCounted _ _))).trans (KeptIrq.event _ _ _))

theorem answerStrm_plain (s : State) {code : Nat} (hd : code ≠ cDELAYED) (hl : code ≠ cLATE) (hc : code ≠ cCAPACITY) (i x : Nat) :
    answerStrm s code i x = event (refusalCounted (setN s R.STRM_RES (code * 16)) code) pgSTRM 0 := by
  simp only [answerStrm, if_neg hc, Nat.add_zero, countCode_refusal _ hd hl]

theorem answerStrm_policy (s : State) : StrmAnswered s (answerStrm s cPOLICY 0 0) (cPOLICY * 16) := by
  rw [answerStrm_plain s (by decide) (by decide) (by decide)]
  exact strmAnswered_event s (by decide) _

theorem answerStrm_sealed (s : State) : StrmAnswered s (answerStrm s cSEALED 0 0) (cSEALED * 16) := by
  rw [answerStrm_plain s (by decide) (by decide) (by decide)]
  exact strmAnswered_event s (by decide) _

theorem answerStrm_busy (s : State) : StrmAnswered s (answerStrm s cBUSY 0 0) (cBUSY * 16) := by
  rw [answerStrm_plain s (by decide) (by decide) (by decide)]
  exact strmAnswered_event s (by decide) _

theorem answerStrm_served (s : State) : StrmAnswered s (answerStrm s cSERVED 0 0) (cSERVED * 16) := by
  rw [answerStrm_plain s (by decide) (by decide) (by decide)]
  exact strmAnswered_event s (by decide) _

/-- The number that a record's hop names is below 512: a station, a place, a direction. -/
theorem recInst_lt (o : OpenRec) (k : Nat) : recInst o k < 512 := by
  have hs : hopStation (nthD 0 o.route k) < 16 := Nat.mod_lt _ (by decide)
  have hp : hopPlace (nthD 0 o.route k) < 16 := Nat.mod_lt _ (by decide)
  have hd : dirAt (hopStation (nthD 0 o.route k)) k ≤ 1 := by unfold dirAt; split <;> omega
  unfold recInst instKey
  dsimp only
  omega

/-- The result of an open that exceeds a budget: whose, and by how much. -/
def strmShort (i x : Nat) : Nat := cCAPACITY * 16 + i % 16 * 0x100 + i / 16 % 16 * 0x1000 + i / 256 * 0x10000 + min 0x7FFF x * 0x20000

theorem answerStrm_capacity (s : State) {i : Nat} (hi : i < 512) (x : Nat) : StrmAnswered s (answerStrm s cCAPACITY i x) (strmShort i x) := by
  have hv : cCAPACITY * 16 + (i % 16 * 0x100 + i / 16 % 16 * 0x1000 + i / 256 * 0x10000 + min 0x7FFF x * 0x20000) = strmShort i x := by unfold strmShort; omega
  have h := strmAnswered_event s (v := strmShort i x) (by unfold strmShort cCAPACITY; omega) cCAPACITY
  rw [← countCode_refusal _ (by decide) (by decide), ← hv] at h
  rw [← hv]
  simp only [answerStrm, if_true]
  exact h

/-! ### Opens (R73) -/

/-- The address of STRM_OPEN_ADDR. -/
def openAddr (s : State) : Nat := regN s R.STRM_OPEN_ADDR_LO + regN s R.STRM_OPEN_ADDR_HI * 0x100000000

theorem opening_none {s : State} (ho : s.strm.opening = none) : { s with strm := { s.strm with opening := none } } = s := by
  rw [← ho]

theorem openCmd_eq (s : State) : openCmd s = openAt s (openAddr s) := by rw [openCmd, openAddr]

section
variable {s : State} {a : Nat} (ho : s.strm.opening = none) (he : s.store.ecc = [])
include ho he

theorem openAt_unread (h : a % 64 ≠ 0 ∨ (hwRead s a 128).1 = none) : openAt s a = answerStrm s cPOLICY 0 0 := by
  unfold openAt
  rw [opening_none ho]
  by_cases ha : a % 64 = 0
  · have hn := h.resolve_left (fun hx => hx ha)
    simp only [if_pos ha]
    rw [hwRead_eq he, hn]
  · simp only [if_neg ha]

end

theorem freeSlot_lt {s : State} {i : Nat} (h : freeSlot s = some i) : i < 4096 := by
  unfold freeSlot at h
  exact List.mem_range.1 (List.mem_of_find?_eq_some h)

theorem mayTake {s : State} {o : OpenRec} (h : o.hops ≤ 1 ∨ poolWaits s 1 = false) : (decide (1 < o.hops) && poolWaits s 1) = false := by
  rcases h with h | h
  · rw [decide_eq_false (by omega), Bool.false_and]
  · rw [h, Bool.and_false]

/-- The stream opened, with its subscriber's record read. -/
def opened (s : State) (slot : Nat) (o : OpenRec) (qs : List Nat) : State :=
  match readSub (putStream s slot (newStream o qs)) o.sub with
  | some u => cacheNodes { putStream s slot (newStream o qs) with sw := { s.sw with subs := mapPut s.sw.subs o.sub u } } slot
  | none => putStream s slot (newStream o qs)

/-- The record of an open is read, and storage holds no error. -/
structure OpenReads (s : State) (a : Nat) (b : List Byte) : Prop where
  opening : s.strm.opening = none
  ecc : s.store.ecc = []
  addr : a % 64 = 0
  record : (hwRead s a 128).1 = some b

theorem OpenReads.read {s : State} {a : Nat} {b : List Byte} (h : OpenReads s a b) : hwRead s a 128 = (some b, s) := by rw [hwRead_eq h.ecc, h.record]

/-- What the checks of R73 read: the record, and the subscriber's. -/
theorem OpenReads.sub {s : State} {a : Nat} {b : List Byte} (h : OpenReads s a b) (i : Nat) : subMet s i = s := met_clean h.ecc _ _

section
variable {s : State} {a : Nat} {b : List Byte} (hb : OpenReads s a b)
include hb

theorem openAt_policy (hok : openOk s (parseOpen b) = false) : openAt s a = answerStrm s cPOLICY 0 0 := by
  simp only [openAt, opening_none hb.opening, if_pos hb.addr, hb.read, hb.sub, hok, Bool.not_false, if_true]

variable (hok : openOk s (parseOpen b) = true)
include hok

theorem openAt_sealed (hse : openSealed s (parseOpen b) = true) : openAt s a = answerStrm s cSEALED 0 0 := by
  simp only [openAt, opening_none hb.opening, if_pos hb.addr, hb.read, hb.sub, hok, hse, Bool.not_true, Bool.false_eq_true, if_false, if_true]

variable (hse : openSealed s (parseOpen b) = false)
include hse

theorem openAt_full (hi : freeSlot s = none) : openAt s a = answerStrm s cBUSY 0 0 := by
  simp only [openAt, opening_none hb.opening, if_pos hb.addr, hb.read, hb.sub, hok, hse, hi, Bool.not_true, Bool.false_eq_true, if_false]

variable {i : Nat} (hi : freeSlot s = some i)
include hi

theorem openAt_waits (h1 : 1 < (parseOpen b).hops) (hp : poolWaits s 1 = true) :
    openAt s a = setN { s with strm := { s.strm with opening := some a } } R.STRM_RES 1 := by
  simp only [openAt, opening_none hb.opening, if_pos hb.addr, hb.read, hb.sub, hok, hse, hi, h1, hp, Bool.not_true, Bool.false_eq_true, if_false, decide_true, Bool.and_self,
    if_true]

variable (hw : (parseOpen b).hops ≤ 1 ∨ poolWaits s 1 = false)
include hw

theorem openAt_unqueued {s1 : State} (hq : takeQueues ((parseOpen b).hops - 1) s [] = (none, s1)) : openAt s a = answerStrm s1 cBUSY 0 0 := by
  simp only [openAt, opening_none hb.opening, if_pos hb.addr, hb.read, hb.sub, hok, hse, hi, mayTake hw, hq, Bool.not_true, Bool.false_eq_true, if_false]

variable {l : List Nat} {s1 : State} (hq : takeQueues ((parseOpen b).hops - 1) s [] = (some l, s1))
include hq

theorem openAt_overBudget {k x : Nat} (h : firstHop (shortAt s (parseOpen b)) (List.range (parseOpen b).hops) = some (k, x)) :
    openAt s a = answerStrm s cCAPACITY (recInst (parseOpen b) k) x := by
  simp only [openAt, opening_none hb.opening, if_pos hb.addr, hb.read, hb.sub, hok, hse, hi, mayTake hw, hq, h, Option.some_or, Bool.not_true, Bool.false_eq_true, if_false]

variable (h0 : firstHop (shortAt s (parseOpen b)) (List.range (parseOpen b).hops) = none)
include h0

theorem openAt_overPort {k x : Nat} (h : firstHop (portShort s (parseOpen b)) (List.range (parseOpen b).hops) = some (k, x)) :
    openAt s a = answerStrm s cCAPACITY (recInst (parseOpen b) k) x := by
  simp only [openAt, opening_none hb.opening, if_pos hb.addr, hb.read, hb.sub, hok, hse, hi, mayTake hw, hq, h0, h, Option.none_or, Bool.not_true, Bool.false_eq_true, if_false]

theorem openAt_opens (h : firstHop (portShort s (parseOpen b)) (List.range (parseOpen b).hops) = none) :
    openAt s a = answerStrm (setN (opened s1 i (parseOpen b) l) R.STRM_RES_SLOT i) cSERVED 0 0 := by
  simp only [openAt, opening_none hb.opening, if_pos hb.addr, hb.read, hb.sub, hok, hse, hi, mayTake hw, hq, h0, h, Option.none_or, Bool.not_true, Bool.false_eq_true, if_false,
    opened]
  cases readSub (putStream s1 i (newStream (parseOpen b) l)) (parseOpen b).sub <;> rfl

end

theorem readNodes_keeps (s : State) (l : List Nat) : (readNodes s l).strm = s.strm ∧ (readNodes s l).pool = s.pool := by
  refine foldl_related (r := fun s u => u.strm = s.strm ∧ u.pool = s.pool) (fun _ => ⟨rfl, rfl⟩) (fun _ _ _ h g => ⟨g.1.trans h.1, g.2.trans h.2⟩) (fun a nd => ?_) l s
  have h := memKept_hwRead a (nodeAddr a nd) 128
  dsimp only
  split <;> exact ⟨h.strm, h.pool⟩

theorem cacheNodes_shows {s : State} {i : Nat} {st : Stream} (h : streamAt s i = some st) : (∃ nodes, streamAt (cacheNodes s i) i = some { st with nodes := nodes }) ∧
    (∀ j, j ≠ i → streamAt (cacheNodes s i) j = streamAt s j) ∧ (cacheNodes s i).pool = s.pool := by
  have hc : cacheNodes s i = readNodes (putStream s i { st with nodes := nodesOf s st }) (nodesOf s st) := by simp only [cacheNodes, h]
  obtain ⟨hs, hp⟩ := readNodes_keeps (putStream s i { st with nodes := nodesOf s st }) (nodesOf s st)
  rw [hc]
  refine ⟨⟨nodesOf s st, ?_⟩, fun j hj => ?_, hp⟩
  · rw [streamAt_of_strm hs, streamAt_putStream_self]
  · rw [streamAt_of_strm hs, streamAt_putStream_ne _ _ hj]

/-- The slot holds the new stream, the other slots what they held; POOL stays. -/
theorem opened_shows (s : State) (i : Nat) (o : OpenRec) (l : List Nat) : (∃ nodes, streamAt (opened s i o l) i = some { newStream o l with nodes := nodes }) ∧
    (∀ j, j ≠ i → streamAt (opened s i o l) j = streamAt s j) ∧ (opened s i o l).pool = s.pool := by
  have hj (j : Nat) (h : j ≠ i) := streamAt_putStream_ne s (newStream o l) h
  unfold opened
  split
  · next u _ =>
    obtain ⟨h1, h2, h3⟩ := cacheNodes_shows (s := { putStream s i (newStream o l) with sw := { s.sw with subs := mapPut s.sw.subs o.sub u } })
      (streamAt_putStream_self s i (newStream o l))
    exact ⟨h1, fun j h => (h2 j h).trans (hj j h), h3⟩
  · exact ⟨⟨_, streamAt_putStream_self s i _⟩, hj, rfl⟩

/-! ### Closes (R74, R237) -/

/-- A stream that is CLOSING, its result pending. -/
def closing (s : State) (slot : Nat) (st : Stream) : State :=
  { putStream s slot { st with state := 2 } with strm := { (putStream s slot { st with state := 2 }).strm with closing := some slot } }

theorem closeCmd_closes {s : State} {slot : Nat} {st : Stream} (hs : streamAt s slot = some st) (h1 : st.state = 1) :
    closeCmd s slot = setN (closing s slot st) R.STRM_RES 1 := by simp only [closeCmd, hs, if_pos h1, closing]

theorem closeCmd_refused {s : State} {slot : Nat} (h : ∀ st, streamAt s slot = some st → st.state ≠ 1) :
    closeCmd s slot = event (bump (setN s R.STRM_RES (cPOLICY * 16)) R.STRM_REFUSED) pgSTRM 0 := by
  have hc : countCode (setN s R.STRM_RES (cPOLICY * 16)) cPOLICY = bump (setN s R.STRM_RES (cPOLICY * 16)) R.STRM_REFUSED := by
    rw [countCode_refusal _ (by decide) (by decide), refusalCounted, if_pos (by decide)]
  cases hs : streamAt s slot with
  | none => simp only [closeCmd, hs, hc]
  | some st => simp only [closeCmd, hs, if_neg (h st hs), hc]

theorem closeCmd_refused_shows {s : State} {slot : Nat} (h : ∀ st, streamAt s slot = some st → st.state ≠ 1) : let u := closeCmd s slot
    regN u R.STRM_RES = cPOLICY * 16 ∧ regN u R.STRM_REFUSED = min 0xFFFFFFFF (regN s R.STRM_REFUSED + 1) ∧ flag u (hdr pgSTRM oEVT) 0 = true ∧
      u = { s with regs := u.regs, irq := u.irq, sent := u.sent } := by
  intro u
  have hu : u = event (bump (setN s R.STRM_RES (cPOLICY * 16)) R.STRM_REFUSED) pgSTRM 0 := closeCmd_refused h
  have h3 := regsKept_event (bump (setN s R.STRM_RES (cPOLICY * 16)) R.STRM_REFUSED) pgSTRM 0
  rw [hu]
  refine ⟨?_, ?_, flag_event_self _ _ _ (by decide), ?_⟩
  · rw [regN_of_kept h3 (by decide) (by decide), bump, bumpBy, regN_setN_ne _ _ (by decide), regN_setN_self]
    decide
  · rw [regN_of_kept h3 (by decide) (by decide), regN_bump_self, regN_setN_ne _ _ (by decide)]
  · exact keptIrq_eq ((keptIrq_of_onlyRegs ((onlyRegs_setN s _ _).trans (onlyRegs_setN _ _ _))).trans (KeptIrq.event _ _ _))

theorem closeDone_waits {s : State} {slot : Nat} (h : ∀ st, streamAt s slot = some st → closeReady st = false ∨ carrierBusy s slot = true) : closeDone s slot = s := by
  cases hs : streamAt s slot with
  | none => simp only [closeDone, hs]
  | some st =>
    have hc : (closeReady st && !carrierBusy s slot) = false := by
      rcases h st hs with h | h <;> rw [h]
      · rfl
      · rw [Bool.not_true, Bool.and_false]
    simp only [closeDone, hs, hc, Bool.false_eq_true, if_false]

/-- The slot freed, with its queue buffers and the nodes no stream names. -/
def slotFreed (s : State) (slot : Nat) (st : Stream) : State := pruneNodes (st.queues.foldl releaseQuiet (dropStream s slot))

theorem strm_slotFreed (s : State) (slot : Nat) (st : Stream) : (slotFreed s slot st).strm = { s.strm with slots := mapDel s.strm.slots slot } :=
  (flowKept_foldl flowKept_releaseQuiet st.queues (dropStream s slot)).strm

/-- What an ended close leaves: the slot freed; its result, where one pends for it. -/
theorem closeDone_frees {s : State} {slot : Nat} {st : Stream} (hs : streamAt s slot = some st) (hr : closeReady st = true) (hb : carrierBusy s slot = false) :
    closeDone s slot = if s.strm.closing = some slot then
      event (setN { slotFreed s slot st with strm := { (slotFreed s slot st).strm with closing := none } } R.STRM_RES (cSERVED * 16)) pgSTRM 0
    else slotFreed s slot st := by
  have hc : (slotFreed s slot st).strm.closing = s.strm.closing := by rw [strm_slotFreed]
  rw [← hc]
  simp only [closeDone, hs, hr, hb, Bool.not_false, Bool.and_self, if_true]
  rfl

theorem closeDone_shows {s : State} {slot : Nat} {st : Stream} (hs : streamAt s slot = some st) (hr : closeReady st = true) (hb : carrierBusy s slot = false) :
    let u := closeDone s slot
    streamAt u slot = none ∧ (∀ j, j ≠ slot → streamAt u j = streamAt s j) ∧
      (s.strm.closing ≠ some slot → st.queues = [] → u = pruneNodes (dropStream s slot)) ∧
      (s.strm.closing = some slot → u.strm.closing = none ∧ regN u R.STRM_RES = cSERVED * 16 ∧ flag u (hdr pgSTRM oEVT) 0 = true) := by
  intro u
  have hu : u = _ := closeDone_frees hs hr hb
  have hfreed := strm_slotFreed s slot st
  have hslots : u.strm.slots = mapDel s.strm.slots slot := by
    rw [hu]
    split
    · rw [event_strm, setN_strm, hfreed]
    · rw [hfreed]
  refine ⟨by rw [streamAt, hslots, mapFind_mapDel_self], fun j hj => by rw [streamAt, hslots, mapFind_mapDel_ne _ hj, streamAt], fun hc hq => ?_, fun hc => ?_⟩
  · rw [hu, if_neg hc, slotFreed, hq]
    rfl
  · rw [hu, if_pos hc]
    refine ⟨by rw [event_strm, setN_strm], ?_, flag_event_self _ _ _ (by decide)⟩
    rw [regN_event _ _ _ (by decide) (by decide) (by decide), regN_setN_self]
    decide

/-! ### O55 -/

/-- Settles O55: a doorbell and a fetch by the slot's stream, an open by its checks in order, then the two moments of a close. -/
theorem streams : Obligations.Streams := by
  refine ⟨⟨?doorbell, ?fetch⟩, ?ignored, ?opens, ?closes, ?done⟩
  case doorbell =>
    intro w v s hl slot tail reaches counted
    have h := effect_strmDb hl w v
    refine ⟨fun hn => ?_, fun hr hrun he hs => ?_, fun st hr hrun hs h1 hm => ?_⟩
    · rwa [streamDoorbell_ignored hn] at h
    · rw [streamDoorbell_stray hr hrun hs] at h
      exact ⟨_, h, strayDb_counted he slot⟩
    · rw [streamDoorbell_open hr hrun hs h1 hm] at h
      intro size past
      refine ⟨fun hp => ?_, fun hp he => ?_⟩
      · rwa [if_neg hp] at h
      · rw [if_pos hp] at h
        exact ⟨_, h, overrunDb_counted he _ _⟩
  case fetch =>
    intro x s hl
    have h := effect_descFetch hl x
    refine ⟨fun hn => ?_, fun st hs => ⟨fun hw => ?_, fun b hr hf hb => ?_⟩⟩
    · rwa [fetchDesc_none hn] at h
    · rwa [fetchDesc_waits hs hw] at h
    intro d next paced
    refine ⟨fun hd hc hg => ?_, fun hd he => ?_, fun hd hg => ?_, fun hd hc he ht hp hi => ?_⟩
    · rw [fetchDesc_good hs hr hf hb hd hc hg] at h
      exact h
    · exact ⟨_, h, fetchDesc_invalid_shows hs hr hf hb hd he⟩
    · rwa [fetchDesc_refused hs hr hf hb hd (.inr hg)] at h
    · rw [fetchDesc_refused hs hr hf hb hd (.inl hc), gemmMet_clean he] at h
      exact ⟨_, h, addFailed_unrecorded he ht hc hp hi⟩
  case ignored =>
    intro w x s hl hn
    have h1 := effect_openStream hl w
    have h2 := effect_closeStream hl w x
    rw [strmCmdWrite_ignored hn] at h1 h2
    exact ⟨h1, h2⟩
  case opens =>
    intro w s hl hw hf ho he a answered short
    have h := effect_openStream hl w
    rw [strmCmdWrite_open hw hf] at h
    refine ⟨fun hn => ?_, fun b ha hb => ?_⟩
    · rw [openCmd_eq, openAt_unread (a := openAddr s) ho he hn] at h
      exact ⟨_, h, answerStrm_policy s⟩
    · intro o
      rw [openCmd_eq] at h
      have hrd : OpenReads s (openAddr s) b := ⟨ho, he, ha, hb⟩
      refine ⟨fun hok => ?_, fun hok hse => ?_, fun hok hse hi => ?_, fun i hok hse hi h1 hp => ?_, fun i s1 hok hse hi hwt hq => ?_,
        fun i l s1 hok hse hi hwt hq => ⟨fun k x hk => ?_, fun k x h0 hk => ?_, fun h0 h1 => ?_⟩⟩
      · rw [openAt_policy hrd hok] at h
        exact ⟨_, h, answerStrm_policy s⟩
      · rw [openAt_sealed hrd hok hse] at h
        exact ⟨_, h, answerStrm_sealed s⟩
      · rw [openAt_full hrd hok hse hi] at h
        exact ⟨_, h, answerStrm_busy s⟩
      · rw [openAt_waits hrd hok hse hi h1 hp] at h
        exact ⟨_, h, regN_setN_self _ _ _, regsKept_setR _ _ _, rfl⟩
      · rw [openAt_unqueued hrd hok hse hi hwt hq] at h
        obtain ⟨h3, _⟩ := (answerStrm_busy s1).fields
        obtain ⟨h1, h2, _, _⟩ := answerStrm_busy s1
        have hs1 : s1.strm = s.strm := by rw [← (flowKept_takeQueues (o.hops - 1) s []).strm, hq]
        exact ⟨_, h, h1, h2, h3.trans hs1⟩
      · rw [openAt_overBudget hrd hok hse hi hwt hq hk] at h
        exact ⟨_, h, answerStrm_capacity s (recInst_lt o k) x⟩
      · rw [openAt_overPort hrd hok hse hi hwt hq h0 hk] at h
        exact ⟨_, h, answerStrm_capacity s (recInst_lt o k) x⟩
      · rw [openAt_opens hrd hok hse hi hwt hq h0 h1] at h
        obtain ⟨hst, hpool⟩ := (answerStrm_served (setN (opened s1 i o l) R.STRM_RES_SLOT i)).fields
        rw [setN_strm] at hst
        obtain ⟨g1, g2, g3, _⟩ := answerStrm_served (setN (opened s1 i o l) R.STRM_RES_SLOT i)
        obtain ⟨⟨nodes, n1⟩, n2, n3⟩ := opened_shows s1 i o l
        have hs1 : s1.strm = s.strm := by rw [← (flowKept_takeQueues (o.hops - 1) s []).strm, hq]
        have hi' := freeSlot_lt hi
        refine ⟨_, h, ⟨nodes, ?_⟩, fun j hj => ?_, ?_, g1, g2, ?_⟩
        · rw [streamAt_of_strm hst, n1]
        · rw [streamAt_of_strm hst, n2 j hj, streamAt_of_strm hs1]
        · rw [regN_of_kept g3 (by decide) (by decide), regN_setN_self, Nat.mod_eq_of_lt (by omega)]
        · rw [hpool, setN_pool, n3]
  case closes =>
    intro w x s hl hw hf
    have h := effect_closeStream hl w x
    rw [strmCmdWrite_close hw hf] at h
    refine ⟨fun st hs h1 => ?_, fun hn => ⟨_, h, closeCmd_refused_shows hn⟩⟩
    rw [closeCmd_closes hs h1] at h
    exact ⟨_, h, streamAt_putStream_self _ _ _, rfl, regN_setN_self _ _ _, regsKept_setR _ _ _, rfl⟩
  case done =>
    intro x s hl
    have h := effect_streamCloseDone hl x
    refine ⟨fun hn => ?_, fun st hs hr hb => ⟨_, h, closeDone_shows hs hr hb⟩⟩
    rwa [closeDone_waits hn] at h

end Sys2Proof.Proofs

/-!
A tile's copies: what queueing and dropping them leave, and the frames they become (R177, R189, R191, R192, R195).
-/
namespace Sys2Proof.Proofs
open Sys2Proof.Machine Sys2Proof.Safety

/-! ### The streams are left by frames queued, dropped and shown -/

theorem strm_foldl {α : Type} {f : State → α → State} (hf : ∀ s x, (f s x).strm = s.strm) (l : List α) (s : State) : (l.foldl f s).strm = s.strm :=
  foldl_related (r := fun s u => u.strm = s.strm) (fun _ => rfl) (fun _ _ _ h g => g.trans h) hf l s

theorem strm_releaseQuiet (s : State) (h : Nat) : (releaseQuiet s h).strm = s.strm := (flowKept_releaseQuiet s h).strm

theorem strm_settleXfer (s : State) (xfer : Nat) : (settleXfer s xfer).strm = s.strm := by
  unfold settleXfer
  rw [strm_foldl (fun a _ => strm_countOut a _)]

theorem strm_dropFrames (s : State) (mine : Frame → Bool) : (dropFrames s mine).strm = s.strm := by
  unfold dropFrames
  dsimp only
  rw [strm_foldl (f := idlePort) (fun _ _ => rfl), strm_foldl strm_releaseQuiet, strm_foldl]
  intro a f
  rw [strm_settleXfer, releaseCells, strm_foldl strm_releaseQuiet, strm_countOut]

theorem strm_mirWrite (s : State) (rec : List Byte) : (mirWrite s rec).strm = s.strm := by
  unfold mirWrite
  dsimp only
  have put (a : State) (b : List Byte) (n x : Nat) : (setFld (hwWriteAs 7 a x b) R.MIR_TAIL 25 0 n).strm = a.strm := (memKept_hwWriteAs 7 a x b).strm
  split
  · split
    · rw [put, setFld_strm, event_strm]
    · rw [event_strm, bump_strm, event_strm]
  · rw [put]

theorem strm_mirror (s : State) (p dir cls len fate : Nat) (stream : Option Nat) (head : List Byte) : (mirror s p dir cls len fate stream head).strm = s.strm := by
  unfold mirror capture
  dsimp only
  split
  · rfl
  · split
    · exact strm_mirWrite _ _
    · split
      · exact strm_mirWrite _ _
      · split
        · exact strm_mirWrite _ _
        · rfl

theorem strm_dropShown (s : State) (f : Frame) : (dropShown s f).strm = s.strm := strm_mirror _ _ _ _ _ _ _ _

theorem strm_tailDrop (s : State) (f : Frame) : (tailDrop s f).strm = s.strm := by rw [tailDrop, strm_dropShown, bump_strm]

theorem strm_dropCopies (s : State) (slot : Nat) (st : Stream) (t : Tile) (bs : List Byte) (mcast : Bool) (l : List Target) :
    (dropCopies s slot st t bs mcast l).strm = s.strm := strm_foldl strm_tailDrop _ _

theorem strm_unqueue (s : State) (xfer : Nat) : (unqueue s xfer).strm = s.strm := strm_dropFrames _ _

theorem strm_redDrops (s : State) (colour q : Nat) : (redDrops s colour q).2.strm = s.strm := by
  unfold redDrops
  dsimp only
  split
  · rfl
  · split <;> rfl

theorem strm_redMeets (s : State) (f : Frame) : (redMeets s f).2.strm = s.strm := by
  unfold redMeets
  split
  · dsimp only
    split
    · rw [strm_dropShown, countRed, bump_strm, strm_redDrops]
    · exact strm_redDrops _ _ _
  · rfl

theorem strm_takeCells (n : Nat) (s : State) (hoist : Nat) (got : List Nat) : (takeCells n s hoist got).2.strm = s.strm := (flowKept_takeCells n s hoist got).strm

theorem strm_queueCopy : ∀ (l : List Frame) (s : State), (queueCopy l s).2.strm = s.strm
  | [], _ => rfl
  | f :: t, s => by
    have hr := strm_redMeets s f
    have hc := strm_takeCells (cellsOf f.payload.length) (redMeets s f).2 (portHoist f.port) []
    unfold queueCopy
    dsimp only
    split
    · rw [strm_unqueue, hr]
    · split
      · next he =>
        rw [he] at hc
        exact (strm_queueCopy t _).trans (hc.trans hr)
      · next he =>
        rw [he] at hc
        rw [strm_unqueue]
        split
        · rw [strm_tailDrop]
          exact hc.trans hr
        · exact hc.trans hr

theorem strm_copiesNormal (slot : Nat) (st : Stream) (t : Tile) (bs : List Byte) (mcast : Bool) :
    ∀ (l : List Target) (s : State), (copiesNormal slot st t bs mcast l s).2.strm = s.strm
  | [], _ => rfl
  | x :: rest, s => by
    have hq := strm_queueCopy (copyFrames (nextXfer s).2 slot st t bs mcast (nextXfer s).1 x none) (nextXfer s).2
    unfold copiesNormal
    dsimp only
    rw [strm_copiesNormal slot st t bs mcast rest]
    split
    · rw [bump_strm]
      exact hq
    · exact hq

theorem strm_queueShared (h : Nat) : ∀ (l : List Frame) (s : State), (queueShared h l s).2.strm = s.strm
  | [], _ => rfl
  | f :: t, s => by
    have hr := strm_redMeets s f
    unfold queueShared
    dsimp only
    split
    · rw [bump_strm]
      split
      · exact (strm_dropFrames _ _).trans hr
      · rw [strm_releaseQuiet]
        exact (strm_dropFrames _ _).trans hr
    · exact (strm_queueShared h t _).trans hr

theorem strm_copiesService (slot : Nat) (st : Stream) (t : Tile) (bs : List Byte) (h : Nat) :
    ∀ (l : List Target) (s : State), (copiesService slot st t bs h l s).2.strm = s.strm
  | [], _ => rfl
  | _ :: rest, _ => (strm_copiesService slot st t bs h rest _).trans (strm_queueShared h _ _)

theorem strm_sharedBuffer (s : State) (t : Tile) (bs : List Byte) (n : Nat) : (sharedBuffer s t bs n).2.strm = s.strm := by
  unfold sharedBuffer
  dsimp only
  split
  · exact (flowKept_addrefBuf _ _ _).strm
  · have ha := (flowKept_allocInternal s 2 (homeSeg s 0)).strm
    split
    · next h s1 he =>
      rw [he] at ha
      have hw := (memKept_hwWriteAs 5 s1 (bufAddr s1 h) bs).strm
      split
      · exact (flowKept_addrefBuf _ _ _).strm.trans (hw.trans ha)
      · exact hw.trans ha
    · next he =>
      rw [he] at ha
      exact ha

/-! ### How a copy ends (R191, R192) -/

/-- A copy is queued, or its code is one of these. -/
def EndsIn (codes : List Nat) (x : Option Nat) : Prop := ∀ c, x = some c → c ∈ codes

theorem endsIn_none (codes : List Nat) : EndsIn codes none := fun _ h => nomatch h

theorem endsIn_some {codes : List Nat} {c : Nat} (h : c ∈ codes) : EndsIn codes (some c) := fun _ e => Option.some.inj e ▸ h

theorem queueCopy_ends : ∀ (l : List Frame) (s : State), EndsIn [cBUSY, cWAIT] (queueCopy l s).1
  | [], _ => endsIn_none _
  | f :: t, s => by
    unfold queueCopy
    dsimp only
    split
    · exact endsIn_some (by decide)
    · split
      · exact queueCopy_ends t _
      · refine endsIn_some ?_
        split <;> decide

theorem copiesNormal_ends (slot : Nat) (st : Stream) (t : Tile) (bs : List Byte) (mcast : Bool) :
    ∀ (l : List Target) (s : State), ∀ x ∈ (copiesNormal slot st t bs mcast l s).1, EndsIn [cBUSY, cWAIT] x
  | [], _ => fun _ h => absurd h List.not_mem_nil
  | y :: rest, s => by
    unfold copiesNormal
    dsimp only
    intro x hx
    rcases List.mem_cons.1 hx with rfl | hx
    · exact queueCopy_ends _ _
    · exact copiesNormal_ends slot st t bs mcast rest _ x hx

theorem queueShared_ends (h : Nat) : ∀ (l : List Frame) (s : State), EndsIn [cBUSY] (queueShared h l s).1
  | [], _ => endsIn_none _
  | f :: t, s => by
    unfold queueShared
    dsimp only
    split
    · exact endsIn_some (by decide)
    · exact queueShared_ends h t _

theorem copiesService_ends (slot : Nat) (st : Stream) (t : Tile) (bs : List Byte) (h : Nat) :
    ∀ (l : List Target) (s : State), ∀ x ∈ (copiesService slot st t bs h l s).1, EndsIn [cBUSY] x
  | [], _ => fun _ h => absurd h List.not_mem_nil
  | y :: rest, s => by
    unfold copiesService
    dsimp only
    intro x hx
    rcases List.mem_cons.1 hx with rfl | hx
    · exact queueShared_ends h _ _
    · exact copiesService_ends slot st t bs h rest _ x hx

theorem worse_ends {codes : List Nat} {x y : Option Nat} (hx : EndsIn codes x) (hy : EndsIn codes y) : EndsIn codes (worse x y) := by
  unfold worse
  split
  · split
    · exact hy
    · exact hx
  · exact hx
  · exact hy

theorem worst_ends {codes : List Nat} : ∀ (l : List (Option Nat)) (x : Option Nat), (∀ y ∈ l, EndsIn codes y) → EndsIn codes x → EndsIn codes (l.foldl worse x)
  | [], _, _, hx => hx
  | _ :: l, _, h, hx => worst_ends l _ (fun z hz => h z (List.mem_cons_of_mem _ hz)) (worse_ends hx (h _ List.mem_cons_self))

/-- Where no copy waits, the worst end is BUSY at most. -/
theorem worst_busy {l : List (Option Nat)} (h : ∀ y ∈ l, EndsIn [cBUSY] y) : (l.foldl worse none).getD cBUSY = cBUSY := by
  have hw := worst_ends l none h (endsIn_none _)
  cases e : l.foldl worse none with
  | none => rfl
  | some c => exact List.mem_singleton.1 (hw c e)

theorem endsIn_busy {l : List (Option Nat)} (h : ∀ y ∈ l, EndsIn [cBUSY, cWAIT] y) (hw : some cWAIT ∉ l) : ∀ y ∈ l, EndsIn [cBUSY] y := by
  intro y hy c hc
  have := h y hy c hc
  subst hc
  simp only [List.mem_cons, List.not_mem_nil, or_false] at this ⊢
  exact this.resolve_right (fun e => hw (e ▸ hy))

/-! ### The frames of a copy (R191) -/

theorem takeCells_length : ∀ (n : Nat) (s a : State) (hoist : Nat) (got l : List Nat), takeCells n s hoist got = (some l, a) → l.length = n + got.length
  | 0, s, a, _, got, l, h => by
    cases h
    exact (Nat.zero_add _).symm
  | n + 1, s, a, hoist, got, l, h => by
    unfold takeCells at h
    split at h
    · have := takeCells_length n _ a hoist _ l h
      rw [List.length_cons] at this
      omega
    · cases h

/-- A frame with the cells its bytes need. -/
def Celled (f g : Frame) : Prop := ∃ cells, g = { f with cells := cells } ∧ cells.length = cellsOf f.payload.length

/-- Outside class 7 a copy whose frames all have their cells stands behind the frames queued before. -/
theorem queueCopy_queues : ∀ (l : List Frame) (s a : State), (∀ f ∈ l, f.cls ≠ 7) → queueCopy l s = (none, a) →
    ∃ new, a.sw.frames = s.sw.frames ++ new ∧ a.sw.xfer = s.sw.xfer ∧ List.Forall₂ Celled l new
  | [], s, a, _, h => by
    cases h
    exact ⟨[], (List.append_nil _).symm, rfl, .nil⟩
  | f :: t, s, a, hl, h => by
    have hr : redMeets s f = (false, s) := by rw [redMeets, if_neg (hl f List.mem_cons_self)]
    unfold queueCopy at h
    rw [hr] at h
    simp only [Bool.false_eq_true, if_false] at h
    split at h
    · next cells s2 he =>
      have hs2 := (flowKept_takeCells (cellsOf f.payload.length) s (portHoist f.port) []).sw
      rw [he] at hs2
      obtain ⟨new, hf, hx, hn⟩ := queueCopy_queues t _ a (fun g hg => hl g (List.mem_cons_of_mem _ hg)) h
      refine ⟨{ f with cells := cells } :: new, ?_, ?_, .cons ⟨cells, rfl, ?_⟩ hn⟩
      · rw [hf, queueFrames, hs2, List.append_assoc, List.singleton_append]
      · rw [hx, queueFrames, hs2]
      · exact takeCells_length _ _ _ _ _ _ he
    · cases h

theorem payloads_of_celled {l new : List Frame} (h : List.Forall₂ Celled l new) : new.map (·.payload) = l.map (·.payload) := by
  induction h with
  | nil => rfl
  | cons h _ ih =>
    obtain ⟨cells, rfl, _⟩ := h
    rw [List.map_cons, List.map_cons, ih]

theorem mem_of_celled {l new : List Frame} (h : List.Forall₂ Celled l new) {g : Frame} (hg : g ∈ new) : ∃ f ∈ l, Celled f g := by
  induction h with
  | nil => exact absurd hg List.not_mem_nil
  | cons h _ ih =>
    rcases List.mem_cons.1 hg with rfl | hg
    · exact ⟨_, List.mem_cons_self, h⟩
    · obtain ⟨f, hf, hc⟩ := ih hg
      exact ⟨f, List.mem_cons_of_mem _ hf, hc⟩

theorem map_snd_cutFrames (h : XHdr) : ∀ (l : List (List Byte)) (k : Nat), (cutFrames h k l).map (·.2) = l
  | [], _ => rfl
  | b :: t, k => by rw [cutFrames, List.map_cons, map_snd_cutFrames h t]

theorem cls_cutFrames (h : XHdr) : ∀ (l : List (List Byte)) (k : Nat), ∀ x ∈ cutFrames h k l, x.1.cls = h.cls
  | [], _ => fun _ h => absurd h List.not_mem_nil
  | b :: t, k => fun x hx => by
    rcases List.mem_cons.1 hx with rfl | hx
    · rfl
    · exact cls_cutFrames h t _ x hx

theorem payloads_copyFrames (s : State) (slot : Nat) (st : Stream) (t : Tile) (bs : List Byte) (mcast : Bool) (n : Nat) (x : Target) (h : Option Nat) :
    (copyFrames s slot st t bs mcast n x h).map (·.payload) = pieces 8192 bs := by
  rw [copyFrames, List.map_map]
  exact map_snd_cutFrames _ _ _

/-- What a copy's frames carry. -/
theorem mem_copyFrames {s : State} {slot : Nat} {st : Stream} {t : Tile} {bs : List Byte} {mcast : Bool} {n : Nat} {x : Target} {h : Option Nat} {f : Frame}
    (hf : f ∈ copyFrames s slot st t bs mcast n x h) : f.port = x.port ∧ f.cls = st.cls ∧ f.flow = st.sub ∧ f.xfer = n ∧ f.tile = some (slot, t.desc.seq) ∧
      f.enter = s.tick.now := by
  obtain ⟨y, hy, rfl⟩ := List.mem_map.1 hf
  exact ⟨rfl, cls_cutFrames _ _ _ y hy, rfl, rfl, rfl, rfl⟩

/-- A copy outside class 7 that is queued: its frames stand behind the others, one transfer. -/
theorem copiesNormal_one {s a : State} {slot : Nat} {st : Stream} {t : Tile} {bs : List Byte} {x : Target} (h7 : st.cls ≠ 7)
    (h : copiesNormal slot st t bs false [x] s = ([none], a)) : ∃ new, a.sw.frames = s.sw.frames ++ new ∧ new.map (·.payload) = pieces 8192 bs ∧
      a.sw.xfer = s.sw.xfer + 1 ∧ ∀ f ∈ new, f.port = x.port ∧ f.cls = st.cls ∧ f.flow = st.sub ∧ f.xfer = s.sw.xfer ∧ f.tile = some (slot, t.desc.seq) ∧
        f.enter = s.tick.now ∧ f.cells.length = cellsOf f.payload.length := by
  have hq : queueCopy (copyFrames (nextXfer s).2 slot st t bs false (nextXfer s).1 x none) (nextXfer s).2 = (none, a) := by
    simp only [copiesNormal, Bool.false_and, Bool.false_eq_true, if_false, Prod.mk.injEq, List.cons.injEq, and_true] at h
    exact Prod.ext h.1 h.2
  obtain ⟨new, hf, hx, hn⟩ := queueCopy_queues _ _ _ (fun f hf => by rw [(mem_copyFrames hf).2.1]; exact h7) hq
  refine ⟨new, hf, (payloads_of_celled hn).trans (payloads_copyFrames _ _ _ _ _ _ _ _ _), hx, fun g hg => ?_⟩
  obtain ⟨f, hm, cells, rfl, hc⟩ := mem_of_celled hn hg
  obtain ⟨h1, h2, h3, h4, h5, h6⟩ := mem_copyFrames hm
  exact ⟨h1, h2, h3, h4, h5, h6, hc⟩

end Sys2Proof.Proofs

/-!
The out hops (R61, R177, R184, R189, R191, R192).
-/
namespace Sys2Proof.Proofs
open Sys2Proof.Machine Sys2Proof.Safety

/-! ### Tiles whose copies have yet to leave (R61) -/

/-- A hop that finishes while its tile is not at its last, or has copies queued, leaves the tile waiting. -/
theorem finishHop_unended {s : State} {slot : Nat} {st : Stream} {t : Tile} (h : streamAt s slot = some st) (hn : ∀ x ∈ st.tiles, x.doneTick = none) (ht : t.txLeft ≠ 0) :
    finishHop s slot t = hopDone s slot st t := by
  have h1 : ¬(t.hop + 1 = st.hops ∧ t.txLeft = 0) := fun e => ht e.2
  have h2 : streamAt (hopDone s slot st t) slot = some (setTile st { t with finished := true, withheld := false, doneTick := none }) := streamAt_putStream_self _ _ _
  simp only [finishHop, h, if_neg h1, Option.isSome_none, Bool.false_and, Bool.false_eq_true, if_false, Option.toList_none, List.foldl_nil]
  refine flush_undone h2 fun x hx => ?_
  obtain ⟨y, hy, rfl⟩ := List.mem_map.1 hx
  split
  · rfl
  · exact hn y hy

theorem RunsHop.sends {c : Instr} {w : BitVec 12} {q : BitVec 48} {station : Nat} {op : Nat → Bool} {work : Stream → Tile → HopM Tile} {s u : State} {st : Stream}
    {t t1 : Tile} (hc : RunsHop c w q station op work) (hl : live s = true) (h : HopAt s w.toNat q.toNat station op st t) (hw : work st t s = (.ok t1, u))
    (hs : u.strm = s.strm) (ht : t1.txLeft ≠ 0) : Effect c s (hopDone u w.toNat st t1) := by
  rw [← finishHop_unended ((streamAt_of_strm hs _).trans h.1) h.2.2 ht]
  exact hc.finishes hl h hw

/-! ### The out hops' work -/

/-- An out hop: it lands the arrived tile at hop 0, and sends the tile later. -/
def outOrLand (slot : Nat) (st : Stream) (t : Tile) : HopM Tile := if t.hop = 0 then landWork st t else outWork slot st t

theorem runsHop_fabricOut (w : BitVec 12) (q : BitVec 48) : RunsHop (.fabricOut w q) w q stFABRIC (fun _ => true) (outOrLand w.toNat) := fun _ => rfl

theorem runsHop_lineOut (w : BitVec 12) (q : BitVec 48) : RunsHop (.lineOut w q) w q stLINE (fun _ => true) (outOrLand w.toNat) := fun _ => rfl

theorem runsHop_hostOut (w : BitVec 12) (q : BitVec 48) : RunsHop (.hostOut w q) w q stHOST (fun _ => true) (outOrLand w.toNat) := fun _ => rfl

theorem outOrLand_land {t : Tile} (h : t.hop = 0) (slot : Nat) (st : Stream) : outOrLand slot st t = landWork st t := if_pos h

theorem outOrLand_out {t : Tile} (h : t.hop ≠ 0) (slot : Nat) (st : Stream) : outOrLand slot st t = outWork slot st t := if_neg h

/-- An arrived tile that is not coded is handed on as it came. -/
theorem landWork_plain {s : State} {st : Stream} {t : Tile} {bs : List Byte} (hc : t.coded = false) (hd : t.data = some bs) (hh : t.hop + 1 < st.hops) :
    landWork st t s = (.ok (handOn t bs), s) := by
  have ht : { t with coded := t.coded && !(t.coded && !((laterHops st t).any (fun h => hopStation h == stEXPAND))), blocks := t.blocks } = t := by
    rw [hc, Bool.false_and, ← hc]
  have hb : (t.coded && !((laterHops st t).any (fun h => hopStation h == stEXPAND))) = false := by rw [hc, Bool.false_and]
  have hg : t.data.getD [] = bs := by rw [hd]; rfl
  unfold landWork
  rw [hb] at ht ⊢
  simp only [Bool.false_eq_true, if_false, hg]
  rw [ht, andThen_ok (show (HopM.ret bs) s = (.ok bs, s) from rfl), countDecoded, andThen_ok (hopOutput_before hh bs s)]
  rfl

section
variable {s : State} {slot : Nat} {st : Stream} {t : Tile} {mcast : Bool} {l : List Target}

theorem outWork_stopped (h : ¬(inRun s pgSW = true ∧ inRun s pgSCHED = true)) : outWork slot st t s = (.error cWAIT, s) := by
  have hr : (inRun s pgSW && inRun s pgSCHED) = false := by rw [← Bool.not_eq_true, Bool.and_eq_true]; exact h
  rw [outWork, andThen_ok (show hopGet _ s = (.ok (false, endpointOf s st t.desc.dst), s) by rw [hopGet, hr])]
  rfl

variable (hr : inRun s pgSW = true ∧ inRun s pgSCHED = true)
include hr

theorem runs_get : hopGet (fun s => (inRun s pgSW && inRun s pgSCHED, endpointOf s st t.desc.dst)) s = (.ok (true, endpointOf s st t.desc.dst), s) := by
  rw [hopGet, hr.1, hr.2]
  rfl

theorem outWork_nowhere (he : endpointOf s st t.desc.dst = none) : outWork slot st t s = (.error cPOLICY, s) := by
  rw [outWork, andThen_ok (runs_get hr), he]
  rfl

variable (he : endpointOf s st t.desc.dst = some (mcast, l))
include he

theorem outWork_forbidden
    (hm : ¬((∀ x ∈ l, portOk (hopStation (hopAt st t.hop)) (hopPlace (hopAt st t.hop)) mcast x.port = true) ∧ nodesOk s (hopStation (hopAt st t.hop)) l = true)) :
    outWork slot st t s = (.error cPOLICY, s) := by
  have hb : (l.all (fun x => portOk (hopStation (hopAt st t.hop)) (hopPlace (hopAt st t.hop)) mcast x.port) && nodesOk s (hopStation (hopAt st t.hop)) l) = false := by
    rw [← Bool.not_eq_true, Bool.and_eq_true, List.all_eq_true]; exact hm
  rw [outWork, andThen_ok (runs_get hr), he]
  dsimp only
  rw [andThen_ok (show hopGet _ s = (.ok false, s) by rw [hopGet, ← hb]; rfl)]
  rfl

/-- The bytes of a tile whose targets are served: they go to its copies. -/
def sendBytes (slot : Nat) (st : Stream) (t : Tile) (bs : List Byte) (mcast : Bool) (l : List Target) : HopM Tile :=
  if mcast then
    (hopGet (fun s => flag s R.SW_STATE 1)).andThen fun service =>
    (if service then shareCopies slot st t bs l else gateCopies slot st t bs true l).andThen fun outs => copiesStand t bs outs
  else (gateCopies slot st t bs false l).andThen fun outs => copiesStand { t with blocks := [] } bs outs

variable {bs : List Byte}
  (hm : (∀ x ∈ l, portOk (hopStation (hopAt st t.hop)) (hopPlace (hopAt st t.hop)) mcast x.port = true) ∧ nodesOk s (hopStation (hopAt st t.hop)) l = true)
  (hi : hopInput (accessOf st t) t s = (.ok bs, s))
include hm hi

theorem outWork_sends : outWork slot st t s = sendBytes slot st t bs mcast l s := by
  have hb : (l.all (fun x => portOk (hopStation (hopAt st t.hop)) (hopPlace (hopAt st t.hop)) mcast x.port) && nodesOk s (hopStation (hopAt st t.hop)) l) = true := by
    rw [Bool.and_eq_true, List.all_eq_true]; exact hm
  rw [outWork, andThen_ok (runs_get hr), he]
  dsimp only
  rw [andThen_ok (show hopGet _ s = (.ok true, s) by rw [hopGet, ← hb]; rfl)]
  simp only [Bool.not_true, Bool.false_eq_true, if_false]
  rw [andThen_ok hi]
  rfl

end

/-! ### Copies through the gate, and copies that share a buffer (R177, R189, R192) -/

section
variable {s a : State} {slot : Nat} {st : Stream} {t : Tile} {bs : List Byte} {mcast : Bool} {l : List Target}

theorem gateCopies_closed {code : Nat} (h : cellGate s st.cls bs l = some code) :
    gateCopies slot st t bs mcast l s = (.error code, if code = cBUSY then dropCopies s slot st t bs mcast l else s) := by simp only [gateCopies, h]

/-- A target whose hoist die is shut to class 7. -/
def shutTo (s : State) (st : Stream) (bs : List Byte) (l : List Target) (x : Target) : Bool := decide (st.cls = 7) && c7Shut s bs l (portHoist x.port)

/-- The targets whose copies are dropped alone, and those whose copies are queued. -/
def shutTargets (s : State) (st : Stream) (bs : List Byte) (l : List Target) : List Target := l.filter (shutTo s st bs l)
def keptTargets (s : State) (st : Stream) (bs : List Byte) (l : List Target) : List Target := l.filter (fun x => !shutTo s st bs l x)

theorem targets_unshut (h : st.cls ≠ 7) : shutTargets s st bs l = [] ∧ keptTargets s st bs l = l := by
  have hf (x : Target) : shutTo s st bs l x = false := by rw [shutTo, decide_eq_false h, Bool.false_and]
  exact ⟨List.filter_eq_nil_iff.2 fun x _ => by rw [hf]; exact Bool.false_ne_true, List.filter_eq_self.2 fun x _ => by rw [hf]; rfl⟩

variable {outs : List (Option Nat)} (hg : cellGate s st.cls bs l = none)
  (hq : copiesNormal slot st t bs mcast (keptTargets s st bs l) (dropCopies s slot st t bs mcast (shutTargets s st bs l)) = (outs, a))
include hg hq

theorem gateCopies_waits (hw : some cWAIT ∈ outs) : gateCopies slot st t bs mcast l s = (.error cWAIT, dropTileFrames a slot t.desc.seq) := by
  have hc : outs.contains (some cWAIT) = true := List.contains_iff_mem.2 hw
  unfold keptTargets shutTargets shutTo at hq
  simp only [gateCopies, hg, hq, hc, if_true]

theorem gateCopies_queues (hw : some cWAIT ∉ outs) :
    gateCopies slot st t bs mcast l s = (.ok ((shutTargets s st bs l).map (fun _ => some cBUSY) ++ outs), a) := by
  have hc : outs.contains (some cWAIT) = false := by rw [← Bool.not_eq_true, List.contains_iff_mem]; exact hw
  unfold keptTargets shutTargets shutTo at hq
  simp only [gateCopies, hg, hq, hc, Bool.false_eq_true, if_false]
  rfl

omit hg in
theorem strm_gated : a.strm = s.strm := by
  have h := strm_copiesNormal slot st t bs mcast (keptTargets s st bs l) (dropCopies s slot st t bs mcast (shutTargets s st bs l))
  rw [hq] at h
  exact h.trans (strm_dropCopies _ _ _ _ _ _ _)

end

/-- Copies of which some stand: the tile waits for them. -/
theorem copiesStand_some {outs : List (Option Nat)} (t : Tile) (bs : List Byte) (h : (outs.filter Option.isNone).length ≠ 0) (s : State) :
    copiesStand t bs outs s = (.ok { t with txLeft := (outs.filter Option.isNone).length, txWorst := outs.foldl worse none, outLen := bs.length }, s) := by
  simp only [copiesStand, if_neg h]
  rfl

theorem copiesStand_none {outs : List (Option Nat)} (t : Tile) (bs : List Byte) (h : (outs.filter Option.isNone).length = 0) (s : State) :
    copiesStand t bs outs s = (.error ((outs.foldl worse none).getD cBUSY), s) := by
  simp only [copiesStand, if_pos h]
  rfl

theorem left_lost (n : List Target) (outs : List (Option Nat)) : ((n.map (fun _ => some cBUSY) ++ outs).filter Option.isNone).length = (outs.filter Option.isNone).length := by
  rw [List.filter_append, List.filter_eq_nil_iff.2, List.nil_append]
  intro x hx
  obtain ⟨_, _, rfl⟩ := List.mem_map.1 hx
  exact Bool.false_ne_true

section
variable {s a : State} {slot : Nat} {st : Stream} {t : Tile} {bs : List Byte} {l : List Target}

theorem sendBytes_one (slot : Nat) (st : Stream) (t : Tile) (bs : List Byte) (l : List Target) :
    sendBytes slot st t bs false l = (gateCopies slot st t bs false l).andThen fun outs => copiesStand { t with blocks := [] } bs outs := rfl

theorem sendBytes_normal (h : flag s R.SW_STATE 1 = false) :
    sendBytes slot st t bs true l s = ((gateCopies slot st t bs true l).andThen fun outs => copiesStand t bs outs) s := by
  rw [sendBytes, if_pos rfl, andThen_ok (show hopGet _ s = (.ok false, s) by rw [hopGet, h])]
  rfl

theorem sendBytes_service (h : flag s R.SW_STATE 1 = true) :
    sendBytes slot st t bs true l s = ((shareCopies slot st t bs l).andThen fun outs => copiesStand t bs outs) s := by
  rw [sendBytes, if_pos rfl, andThen_ok (show hopGet _ s = (.ok true, s) by rw [hopGet, h])]
  rfl

/-- Where the gate lets none in, or a copy waits, the hop stops there. -/
theorem sendBytes_stops {mcast : Bool} {code : Nat} (hs : mcast = true → flag s R.SW_STATE 1 = false)
    (h : gateCopies slot st t bs mcast l s = (.error code, a)) : sendBytes slot st t bs mcast l s = (.error code, a) := by
  cases mcast with
  | false => rw [sendBytes_one, andThen_error h]
  | true => rw [sendBytes_normal (hs rfl), andThen_error h]

theorem shareCopies_none (h : sharedBuffer s t bs l.length = (none, a)) : shareCopies slot st t bs l s = (.error cWAIT, a) := by simp only [shareCopies, h]

theorem shareCopies_some {b : State} {x : Nat} {outs : List (Option Nat)} (h : sharedBuffer s t bs l.length = (some x, a))
    (hc : copiesService slot st t bs x l a = (outs, b)) : shareCopies slot st t bs l s = (.ok outs, b) := by simp only [shareCopies, h, hc]

theorem strm_shared {b : State} {x : Nat} {outs : List (Option Nat)} (h : sharedBuffer s t bs l.length = (some x, a))
    (hc : copiesService slot st t bs x l a = (outs, b)) : b.strm = s.strm := by
  have h1 := strm_sharedBuffer s t bs l.length
  have h2 := strm_copiesService slot st t bs x l a
  rw [h] at h1
  rw [hc] at h2
  exact h2.trans h1

end

/-! ### O53 -/

theorem station_of_hopAt {s : State} {slot seq station : Nat} {op : Nat → Bool} {st : Stream} {t : Tile} (h : HopAt s slot seq station op st t) :
    hopStation (hopAt st t.hop) = station := by
  obtain ⟨_, h, _⟩ := h
  unfold actingTile at h
  split at h
  · split at h
    · next hc =>
      cases h
      simp only [Bool.and_eq_true, beq_iff_eq] at hc
      exact hc.1.1.1.1.1.1
    · cases h
  · cases h

theorem runsHop_out {c : Instr} {w : BitVec 12} {q : BitVec 48} {station : Nat}
    (h : (c = .fabricOut w q ∧ station = stFABRIC) ∨ (c = .lineOut w q ∧ station = stLINE) ∨ (c = .hostOut w q ∧ station = stHOST)) :
    RunsHop c w q station (fun _ => true) (outOrLand w.toNat) := by
  obtain ⟨rfl, rfl⟩ | ⟨rfl, rfl⟩ | ⟨rfl, rfl⟩ := h
  · exact runsHop_fabricOut w q
  · exact runsHop_lineOut w q
  · exact runsHop_hostOut w q

section
variable {c : Instr} {w : BitVec 12} {q : BitVec 48} {station : Nat} {s a : State} {st : Stream} {t : Tile} {bs : List Byte} {outs : List (Option Nat)}
  (hc : RunsHop c w q station (fun _ => true) (outOrLand w.toNat)) (hl : live s = true) (hat : HopAt s w.toNat q.toNat station (fun _ => true) st t)
  (hs : a.strm = s.strm) (hw : outOrLand w.toNat st t s = copiesStand t bs outs a)
include hc hl hat hs hw

/-- The tile waits for the copies that stand; with none it ends by the worst. -/
theorem effect_copies (he : ∀ y ∈ outs, EndsIn [cBUSY] y) :
    ((outs.filter Option.isNone).length ≠ 0 →
      Effect c s (hopDone a w.toNat st { t with txLeft := (outs.filter Option.isNone).length, txWorst := outs.foldl worse none, outLen := bs.length })) ∧
    ((outs.filter Option.isNone).length = 0 → Effect c s (failTile a w.toNat t ((outs.foldl worse none).getD cBUSY))) := by
  refine ⟨fun h => ?_, fun h => ?_⟩
  · exact hc.sends hl hat (hw.trans (copiesStand_some t bs h a)) hs h
  · exact hc.fails hl hat (hw.trans (copiesStand_none t bs h a)) (by rw [worst_busy he]; decide)

end

/-- Settles O53: an out hop by its checks in order, then the tile's copies, through the gate or from one shared buffer. -/
theorem outHops : Obligations.OutHops := by
  intro c w q station s st t hl hat hcmd runs place may tight shut kept
  have hc := runsHop_out hcmd
  have hst := station_of_hopAt hat
  have hwork {x : Except Nat Tile} {u : State} (h0 : t.hop ≠ 0) (h : outWork w.toNat st t s = (x, u)) : outOrLand w.toNat st t s = (x, u) := by
    rw [outOrLand_out h0, h]
  have hsend {mcast : Bool} {l : List Target} {bs : List Byte} (h0 : t.hop ≠ 0) (hr : runs) (he : endpointOf s st t.desc.dst = some (mcast, l)) (hm : may mcast l)
      (hi : hopInput (accessOf st t) t s = (.ok bs, s)) : outOrLand w.toNat st t s = sendBytes w.toNat st t bs mcast l s := by
    rw [outOrLand_out h0, outWork_sends hr he (by rw [hst]; exact hm) hi]
  refine ⟨fun bs h0 hh hcd hd => ?land, fun h0 hr => ?stopped, fun h0 hr he => ?nowhere, fun mcast l h0 hr he hm => ?forbidden,
    fun mcast l bs k h0 hr he hm hi hs hg => ?closed, fun mcast l bs outs a h0 hr he hm hi hs hg hq hw => ?waits, fun x bs a h0 hr he hm hi hg h7 hq => ?unicast,
    fun l bs outs a h0 hr he hm hi hs hg hq hw => ?multicast, fun l bs a h0 hr he hm hi hs => ⟨fun hb => ?unshared, fun x outs b hb hq => ?shared⟩⟩
  case land =>
    have hh' : t.hop + 1 < st.hops := by omega
    exact hc.done hl hat (by rw [outOrLand_land h0, landWork_plain hcd hd hh']) rfl hh'
  case stopped => exact hc.waits hl hat (hwork h0 (outWork_stopped hr))
  case nowhere => exact hc.fails hl hat (hwork h0 (outWork_nowhere hr he)) (by decide)
  case forbidden => exact hc.fails hl hat (hwork h0 (outWork_forbidden hr he (by rw [hst]; exact hm))) (by decide)
  case closed =>
    have h := (hsend h0 hr he hm hi).trans (sendBytes_stops hs (gateCopies_closed hg))
    refine ⟨fun hk => ?_, fun hk => ?_⟩
    · subst hk
      exact hc.waits hl hat h
    · subst hk
      exact hc.fails hl hat h (by decide)
  case waits => exact hc.waits hl hat ((hsend h0 hr he hm hi).trans (sendBytes_stops hs (gateCopies_waits hg hq hw)))
  case unicast =>
    obtain ⟨hshut, hkept⟩ := targets_unshut (s := s) (bs := bs) (l := [x]) h7
    have hq' : copiesNormal w.toNat st t bs false (keptTargets s st bs [x]) (dropCopies s w.toNat st t bs false (shutTargets s st bs [x])) = ([none], a) := by
      rw [hshut, hkept]
      exact hq
    have hgate := gateCopies_queues hg hq' (by decide)
    rw [hshut] at hgate
    have hstand : outOrLand w.toNat st t s = (.ok { t with blocks := [], txLeft := 1, txWorst := none, outLen := bs.length }, a) :=
      (hsend h0 hr he hm hi).trans (by rw [sendBytes_one, andThen_ok hgate]; rfl)
    refine ⟨_, hc.sends hl hat hstand (strm_gated hq') Nat.one_ne_zero, rfl, ?_⟩
    obtain ⟨new, hnew⟩ := copiesNormal_one h7 hq
    exact ⟨new, hnew⟩
  case multicast =>
    intro left worst
    have hgate := gateCopies_queues hg hq hw
    have hstand := (hsend h0 hr he hm hi).trans (by rw [sendBytes_normal hs, andThen_ok hgate])
    have hends : ∀ y ∈ (shut bs l).map (fun _ => some cBUSY) ++ outs, EndsIn [cBUSY] y := by
      intro y hy
      rcases List.mem_append.1 hy with hy | hy
      · obtain ⟨_, _, rfl⟩ := List.mem_map.1 hy
        exact endsIn_some (by decide)
      · have he := copiesNormal_ends w.toNat st t bs true (kept bs l) (dropCopies s w.toNat st t bs true (shut bs l))
        rw [hq] at he
        exact endsIn_busy he hw y hy
    have h := effect_copies hc hl hat (strm_gated hq) hstand hends
    rw [left_lost] at h
    exact h
  case unshared =>
    exact hc.waits hl hat ((hsend h0 hr he hm hi).trans (by rw [sendBytes_service hs, andThen_error (shareCopies_none hb)]))
  case shared =>
    have hstand := (hsend h0 hr he hm hi).trans (by rw [sendBytes_service hs, andThen_ok (shareCopies_some hb hq)])
    have he := copiesService_ends w.toNat st t bs x l a
    rw [hq] at he
    exact effect_copies hc hl hat (strm_shared hb hq) hstand he

end Sys2Proof.Proofs

/-!
Completion where storage is not in order: its cells lie at keys that do not rise, a state that no run reaches (R53, R65).
-/
namespace Sys2Proof.Proofs
open Sys2Proof.Machine Sys2Proof.Safety

/-! ### Calm states -/

/-- What a list of defaults holds at any place. -/
theorem nthD_default {α : Type} {d : α} : ∀ {l : List α} (i : Nat), (∀ x ∈ l, x = d) → nthD d l i = d
  | [], _, _ => rfl
  | _ :: _, 0, h => h _ List.mem_cons_self
  | _ :: _, i + 1, h => nthD_default i fun x hx => h x (List.mem_cons_of_mem _ hx)

/-- The state of a package at rest, whatever its registers, storage, streams and tables hold: nothing waits to follow a command. -/
structure AtRest (s : State) : Prop where
  job : s.job = {}
  coll : s.coll = {}
  hlth : s.hlth = {}
  line : s.line = {}
  ocu : s.ocu = {}
  site : s.site = {}
  pwr : s.pwr = {}
  flt : s.flt = {}

theorem AtRest.calm {s : State} (h : AtRest s) (hw : inRun s pgSW = false) : calm s = true := by
  have hf : freezeDue s = false := by
    have hc (md dir : Nat) : (lineCtx s md dir).loads = [] := by
      have hm : lineMod s md = {} := by
        rw [lineMod, h.line]
        exact nthD_default md (by simp)
      rw [lineCtx, hm, nthD_default dir (by decide)]
    simp only [freezeDue, hc, List.isEmpty_nil, Bool.not_true, Bool.false_and]
    decide
  have ha : askDue s = false := by
    simp only [askDue, h.line]
    exact Bool.and_false _
  have hp (md : Nat) : pennantDue s md = false := by
    have hm : (ocuMod s md).pennBad = false := by
      rw [ocuMod, h.ocu, nthD_default md (by simp)]
    rw [pennantDue, hm, Bool.and_false]
  simp only [Machine.calm, lineCalm, hf, ha, hp, hw, h.job, h.coll, h.hlth, h.line, h.site, h.pwr, h.flt]
  rfl

/-- Where nothing follows, a command's effect is its next state but for the outputs. -/
theorem mem_of_effect {c : Instr} {s u v : State} (h : Effect c s u) (hc : calm u = true) (hv : exec c s = .next v) : v.mem = u.mem := by
  rw [Effect, hv, finish_calm hc] at h
  injection h with h
  rw [h]

/-! ### O48 -/

/-- A tile at its one hop, a CODEC hop that passes it on. -/
def passTile : Tile := { desc := { fmt := 2, src := 0x18000, dst := 2 ^ 47, len := 4 }, admitted := some 0, data := some [1, 2, 3, 4] }

/-- Its stream, whose ring lies at 0x8000. -/
def passStream : Stream :=
  { id := 1, cls := 3, member := false, hops := 1, route := [stCODEC], rate := [1], op := [0], sub := 0, sqBase := 0x8000, sqLog2 := 6, operand := [], credit := [0],
    tiles := [passTile] }

/-- One region of HBM that every station may write; completion ring 0 at 0x9000; and two cells of storage out of their order. -/
def disordered : State :=
  let s : State := { strm := { slots := [(0, passStream)] },
                     regn := { tables := [[(0, { valid := true, len := 0x10000, mode := 1, kind := 9, read := 0xFFFF, write := 0xFFFF })]] },
                     mem := [(0x8003, 1), (0, 1)] }
  setN (setFlag (setFld s (keyB R.CRING_CFG 0) 4 0 6) (keyB R.CRING_CFG 0) 31 true) (keyB R.CRING_BASE_LO 0) 0x9000

theorem hopAt_disordered : HopAt disordered 0 0 stCODEC (· == 0) passStream passTile := ⟨by decide +kernel, by decide +kernel, by decide⟩

/-- The bytes of the descriptor and of the record lie where the addresses say. -/
theorem placed_disordered : PlacedAt disordered (passStream.sqBase + 64 * passTile.desc.qidx + 0x03) 1 (0x8000 + 0x03) ∧
    PlacedAt disordered (passStream.sqBase + 64 * passTile.desc.qidx + 0x2A) 1 (0x8000 + 0x2A) ∧
    PlacedAt disordered (passStream.sqBase + 64 * passTile.desc.qidx + 0x34) 12 (0x8000 + 0x34) ∧
    PlacedAt disordered (cringBase disordered passTile.desc.ring + 32 * fld disordered (keyB R.CRING_TAIL passTile.desc.ring) 15 0) 32 0x9000 :=
  ⟨⟨by decide +kernel, by decide +kernel⟩, ⟨by decide +kernel, by decide +kernel⟩, ⟨by decide +kernel, by decide +kernel⟩, ⟨by decide +kernel, by decide +kernel⟩⟩

theorem input_disordered : hopInput (accessOf passStream passTile) passTile disordered = (.ok [1, 2, 3, 4], disordered) := by
  rw [hopInput]
  rfl

/-- The package's next state: the write of the descriptor's hop field has lost the cell that lay behind it. -/
theorem next_disordered : ∃ v, exec (.pass 0 0) disordered = .next v ∧ memByte v.mem 0 = 0 := by
  refine ⟨finish disordered.pending (runHop disordered 0 0 stCODEC (· == 0) (codecWork (fun _ _ => none))), rfl, by decide +kernel⟩

/-- Refutes O48: its hypotheses allow storage whose cells are not in rising order, and there the write of one byte loses a cell that lies elsewhere. In
`disordered` byte 0, outside the descriptor and the record, holds 1, and 0 once the tile has completed. What fails is the clause that bytes elsewhere read
as before, for want of the hypothesis that storage is in order (`Memory.wf`). -/
theorem not_hopsAndCompletion : ¬ Obligations.HopsAndCompletion := by
  rintro ⟨_, h⟩
  obtain ⟨hd3, hd2A, hd34, hk⟩ := placed_disordered
  obtain ⟨_, hdone⟩ := h 0 0 disordered passStream passTile [1, 2, 3, 4] 64 (by decide +kernel) hopAt_disordered (by decide) (by decide) rfl rfl input_disordered
    (by decide +kernel) (by decide +kernel)
  obtain ⟨u, heff, -, -, -, -, -, hmem, -, hregs, hu⟩ := hdone 0x8000 0x9000 (by decide +kernel) rfl rfl rfl rfl (by decide) rfl rfl hd3 hd2A hd34 hk (by decide)
  have hrest : AtRest u := by
    rw [hu]
    exact ⟨rfl, rfl, rfl, rfl, rfl, rfl, rfl, rfl⟩
  have hsw : inRun u pgSW = false := by
    rw [inRun, blkState, fld_of_kept hregs (by decide) (by decide)]
    decide +kernel
  obtain ⟨v, hv, hv0⟩ := next_disordered
  have hu0 : memByte u.mem 0 = 0 := by rw [← mem_of_effect heff (hrest.calm hsw) hv, hv0]
  have hs0 : memByte u.mem 0 = 1 := (hmem 0 (by decide) (by decide)).trans (by decide +kernel)
  rw [hu0] at hs0
  exact absurd hs0 (by decide)

end Sys2Proof.Proofs

/-!
Exact sums and exponent records: that their order does not matter, and what a container keeps (R89, R91, R96, R100).
-/
namespace Sys2Proof.Proofs
open Sys2Proof.Machine

/-! ### Sums in any order (R89, R91, R96) -/

/-- A fold whose steps commute gives the same for any order of its list. -/
theorem foldl_perm {α β : Type} {f : β → α → β} (hf : ∀ b x y, f (f b x) y = f (f b y) x) {l m : List α} (h : l.Perm m) (b : β) : l.foldl f b = m.foldl f b :=
  haveI : RightCommutative f := ⟨hf⟩
  h.foldl_eq b

theorem specialOf_perm {l m : List Val} (h : l.Perm m) : specialOf l = specialOf m := by
  refine foldl_perm (fun b x y => ?_) h 0
  exact Nat.or_right_comm b _ _

theorem maxExp_perm {l m : List Val} (h : l.Perm m) : maxExp l = maxExp m := by
  refine foldl_perm (fun b x y => ?_) h none
  cases x with
  | fin _ mx ex =>
    cases y with
    | fin _ my ey =>
      by_cases hx : mx = 0
      · simp only [hx, if_true]
      · by_cases hy : my = 0
        · simp only [hy, if_true]
        · cases b with
          | none => simp only [hx, hy, if_false, max_comm]
          | some b => simp only [hx, hy, if_false, max_right_comm]
    | inf _ => rfl
    | nan => rfl
  | inf _ => rfl
  | nan => rfl

theorem gridSum_perm {l m : List Val} (h : l.Perm m) (grid : Int) : l.foldl (fun a v => a + gridInt grid v) 0 = m.foldl (fun a v => a + gridInt grid v) 0 := by
  refine foldl_perm (fun b x y => ?_) h 0
  exact Int.add_right_comm b _ _

theorem exactSum_perm {l m : List Val} (h : l.Perm m) : exactSum l = exactSum m := by
  simp only [exactSum, specialOf_perm h, maxExp_perm h, gridSum_perm h]

/-! ### Two's complement (R88, R100) -/

theorem two_pow_halves {w : Nat} (hw : 1 ≤ w) : 2 ^ w = 2 * 2 ^ (w - 1) := by
  rw [Nat.mul_comm, Nat.two_pow_pred_mul_two hw]

/-- Reading w bits as a signed number is the residue nearest 0. -/
theorem signedOf_eq_bmod {w : Nat} (hw : 1 ≤ w) (v : Nat) : signedOf w v = (v : Int).bmod (2 ^ w) := by
  simp only [signedOf, Int.bmod_def, two_pow_halves hw, ← Int.natCast_mod]
  have hp : (2 : Int) ^ w = ((2 * 2 ^ (w - 1) : Nat) : Int) := by rw [← two_pow_halves hw]; simp
  rw [hp]
  generalize 2 ^ (w - 1) = k
  generalize v % (2 * k) = u
  split <;> split <;> omega

theorem signedOf_unsignedOf {w : Nat} (hw : 1 ≤ w) {i : Int} (h1 : -(2 ^ (w - 1) : Nat) ≤ i) (h2 : i < (2 ^ (w - 1) : Nat)) : signedOf w (unsignedOf w i) = i := by
  have hpos : (0 : Int) < ((2 ^ w : Nat) : Int) := by positivity
  rw [signedOf_eq_bmod hw, unsignedOf, Int.toNat_of_nonneg (Int.emod_nonneg _ (by omega)), Int.emod_bmod]
  refine Int.bmod_eq_of_le ?_ ?_ <;> rw [two_pow_halves hw] <;> omega

theorem signedOf_range {w : Nat} (hw : 1 ≤ w) (v : Nat) : -(2 ^ (w - 1) : Nat) ≤ signedOf w v ∧ signedOf w v < (2 ^ (w - 1) : Nat) := by
  have hpos : 0 < 2 ^ w := by positivity
  have h1 := Int.le_bmod (x := (v : Int)) hpos
  have h2 := Int.bmod_lt (x := (v : Int)) hpos
  rw [← signedOf_eq_bmod hw, two_pow_halves hw] at h1 h2
  omega

theorem unsignedOf_lt (w : Nat) (i : Int) : unsignedOf w i < 2 ^ w := by
  have hpos : (0 : Int) < ((2 ^ w : Nat) : Int) := by positivity
  have h1 := Int.emod_lt_of_pos i hpos
  have h2 := Int.emod_nonneg i (b := ((2 ^ w : Nat) : Int)) (by omega)
  unfold unsignedOf
  omega

theorem signedOf_mod (w v : Nat) : signedOf w (v % 2 ^ w) = signedOf w v := by
  simp only [signedOf, Nat.mod_mod]

/-! ### Exponent records (R89) -/

theorem record_special {u k : Nat} (hu : u < 2 ^ 14) (hk : k < 4) : (u + k * 0x4000) / 0x4000 % 4 = k := by omega

theorem record_emax {u k : Nat} (hu : u < 2 ^ 14) : signedOf 14 (u + k * 0x4000) = signedOf 14 u := by
  rw [← signedOf_mod 14 (u + k * 0x4000)]
  congr 1
  omega

theorem combineRecords_emax (a b : Nat) : signedOf 14 (combineRecords a b) = max (signedOf 14 a) (signedOf 14 b) := by
  have ha := signedOf_range (w := 14) (by decide) a
  have hb := signedOf_range (w := 14) (by decide) b
  rw [combineRecords, record_emax (unsignedOf_lt 14 _), signedOf_unsignedOf (by decide)] <;> omega

theorem combineRecords_special (a b : Nat) : combineRecords a b / 0x4000 % 4 = (a / 0x4000 % 4) ||| (b / 0x4000 % 4) :=
  record_special (unsignedOf_lt 14 _) (Nat.or_lt_two_pow (n := 2) (Nat.mod_lt _ (by decide)) (Nat.mod_lt _ (by decide)))

theorem combineRecords_comm (a b : Nat) : combineRecords a b = combineRecords b a := by
  simp only [combineRecords, max_comm (signedOf 14 a), Nat.or_comm (a / 0x4000 % 4)]

theorem combineRecords_assoc (a b c : Nat) : combineRecords (combineRecords a b) c = combineRecords a (combineRecords b c) := by
  have ab := combineRecords_emax a b
  have bc := combineRecords_emax b c
  have abs := combineRecords_special a b
  have bcs := combineRecords_special b c
  rw [combineRecords, ab, abs, max_assoc, Nat.or_assoc, ← bc, ← bcs]
  rfl

/-! ### O47 -/

/-- Settles O47: every fold of a sum has steps that commute (`foldl_perm`); a record is the larger exponent and the union of the specials; and a container
reads back what fits in it (`signedOf_unsignedOf`), the wider one too. -/
theorem sumsInAnyOrder : Obligations.SumsInAnyOrder := by
  refine ⟨fun l m h => exactSum_perm h, fun a b c => ⟨combineRecords_comm a b, combineRecords_assoc a b c⟩, fun w x i hw hx h1 h2 => ?_⟩
  have hs := signedOf_unsignedOf hw h1 h2
  have hp : 2 ^ (w - 1) ≤ 2 ^ (x - 1) := Nat.pow_le_pow_right (by decide) (by omega)
  exact ⟨hs, by rw [hs]; exact signedOf_unsignedOf (hw.trans hx) (by omega) (by omega)⟩

end Sys2Proof.Proofs

/-!
The member operations of MATRIX and VECTOR (R86, R94, R95, R110, R124, R125).
-/
namespace Sys2Proof.Proofs
open Sys2Proof.Machine Sys2Proof.Safety

/-! ### The commands of the member operations -/

theorem hopCommand_convert (w : BitVec 12) (q : BitVec 48) : HopCommand (.convert w q) w q stVECTOR 0x20 convertWork := fun _ => rfl
theorem hopCommand_addOp (w : BitVec 12) (q : BitVec 48) : HopCommand (.addOp w q) w q stVECTOR 0x21 addWork := fun _ => rfl
theorem hopCommand_mulOp (w : BitVec 12) (q : BitVec 48) : HopCommand (.mulOp w q) w q stVECTOR 0x22 mulWork := fun _ => rfl
theorem hopCommand_axpby (w : BitVec 12) (q : BitVec 48) : HopCommand (.axpby w q) w q stVECTOR 0x23 axpbyWork := fun _ => rfl
theorem hopCommand_maxmin (w : BitVec 12) (q : BitVec 48) : HopCommand (.maxmin w q) w q stVECTOR 0x24 maxminWork := fun _ => rfl
theorem hopCommand_gemm (w : BitVec 12) (q : BitVec 48) : HopCommand (.gemm w q) w q stMATRIX 1 gemmWork := fun _ => rfl

theorem hopReq_true {b : Bool} (h : b = true) (c : Nat) (s : State) : hopReq b c s = (.ok (), s) := by rw [hopReq, if_pos h]

/-! ### Their work (R110, R125) -/

section
variable {st : Stream} {t : Tile} {s : State} {x y : List Val}

/-- The tile with the result that an arithmetic hop forms of it. -/
def formedTile (t : Tile) (bs : List Byte) : Tile := { handOn t bs with formed := true }

theorem hopOutput_formed (h : t.hop + 1 < st.hops) (c : Access) (bs : List Byte) (s : State) :
    hopOutput c st { t with formed := true } bs s = (.ok (formedTile t bs), s) := hopOutput_before (t := { t with formed := true }) h bs s

theorem arithOutput_before (h : t.hop + 1 < st.hops) (c : Access) (g : List (Int × Nat)) (bs : List Byte) (s : State) :
    arithOutput c st t g bs s = (.ok (formedTile t bs), s) := by
  rw [arithOutput, andThen_ok (hopOutput_formed h c bs s), if_neg (fun hc => by omega)]
  rfl

/-- The operands of an elementwise operation, place by place. -/
theorem elementwise_ok {ks : List Nat} {f : Nat → List Val} (hx : hopVals (accessOf st t) t s = (.ok x, s))
    (hf : ∀ k ∈ ks, operandVals (accessOf st t) st t k s = (.ok (f k), s)) :
    elementwise (accessOf st t) st t ks s = (.ok ((List.range x.length).map (fun i => nthD vzero x i :: ks.map (fun k => nthD vzero (f k) i))), s) := by
  rw [elementwise, andThen_ok hx, andThen_ok (each_ok hf)]
  simp only [List.map_cons, List.map_map]
  rfl

theorem convertWork_ok (h : t.hop + 1 < st.hops) (hx : hopVals (accessOf st t) t s = (.ok x, s)) :
    convertWork st t s = (.ok (formedTile t (encodeTensor ((elemOf (Config.convertTarget (choiceKey t) % 15)).getD .raw) x)), s) := by
  rw [convertWork, andThen_ok hx, arithOutput_before h]

theorem addWork_ok {f : Nat → List Val} (h : t.hop + 1 < st.hops) (hx : hopVals (accessOf st t) t s = (.ok x, s))
    (hf : ∀ k, k < 3 → nthD 0 st.operand k ≠ 0 → operandVals (accessOf st t) st t k s = (.ok (f k), s)) {l : List Val}
    (hsum : (List.range x.length).map (fun i => exactSum (nthD vzero x i :: ((List.range 3).filter (fun k => nthD 0 st.operand k != 0)).map (fun k => nthD vzero (f k) i))) = l) :
    addWork st t s = (.ok (formedTile t (encodeTensor (tileElem t) l)), bumpBy s R.ARITH_OVF_CNT (sumOverflows (tileElem t) l)) := by
  have hf' : ∀ k ∈ (List.range 3).filter (fun k => nthD 0 st.operand k != 0), operandVals (accessOf st t) st t k s = (.ok (f k), s) := by
    intro k hk
    obtain ⟨hr, hn⟩ := List.mem_filter.mp hk
    exact hf k (List.mem_range.mp hr) (by simpa using hn)
  rw [addWork, andThen_ok (elementwise_ok hx hf'), List.map_map, ← hsum, andThen_ok (encodeSums_eq _ _ s), arithOutput_before h]
  rfl

theorem mulWork_ok (h : t.hop + 1 < st.hops) (hx : hopVals (accessOf st t) t s = (.ok x, s)) (hy : operandVals (accessOf st t) st t 0 s = (.ok y, s)) :
    mulWork st t s = (.ok (formedTile t (encodeTensor (tileElem t) ((List.range x.length).map (fun i => mulVal (nthD vzero x i) (nthD vzero y i))))), s) := by
  have hf : ∀ k ∈ [0], operandVals (accessOf st t) st t k s = (.ok y, s) := by simpa using hy
  rw [mulWork, andThen_ok (elementwise_ok (f := fun _ => y) hx hf), arithOutput_before h, List.map_map]
  rfl

theorem axpbyWork_ok {pr : List Byte} (h : t.hop + 1 < st.hops) (hx : hopVals (accessOf st t) t s = (.ok x, s))
    (hy : operandVals (accessOf st t) st t 0 s = (.ok y, s)) (hp : hopRead (accessOf st t) (nthD 0 st.operand 2) 8 s = (.ok pr, s)) {l : List Val}
    (hsum : (List.range x.length).map (fun i =>
      exactSum [mulVal (decodeF fp32 (leAt pr 0 4)) (nthD vzero x i), mulVal (decodeF fp32 (leAt pr 4 4)) (nthD vzero y i)]) = l) :
    axpbyWork st t s = (.ok (formedTile t (encodeTensor (tileElem t) l)), bumpBy s R.ARITH_OVF_CNT (sumOverflows (tileElem t) l)) := by
  have hf : ∀ k ∈ [0], operandVals (accessOf st t) st t k s = (.ok y, s) := by simpa using hy
  rw [axpbyWork, andThen_ok hp, andThen_ok (elementwise_ok (f := fun _ => y) hx hf), List.map_map, ← hsum, andThen_ok (encodeSums_eq _ _ s), arithOutput_before h]
  rfl

theorem maxminWork_ok {x y : List Cell} (h : t.hop + 1 < st.hops) (hx : hopCells (accessOf st t) t s = (.ok x, s))
    (hy : operandCells (accessOf st t) st t 0 s = (.ok y, s)) :
    maxminWork st t s = (.ok (formedTile t (rawTensor (tileElem t) ((cellWinners (tileElem t) (Config.maxminMax (choiceKey t)) x y).map (fun z => z.2.1)))), s) := by
  rw [maxminWork, andThen_ok hx, andThen_ok hy, arithOutput_before h]

end

/-! ### GEMM (R125) -/

/-- A parameter record that GEMM takes: formats of the operands and of the result, depth and width within R125's limits, and whole blocks along the depth. -/
structure GemmRecord (pb : List Byte) (ea eb ed : Elem) : Prop where
  left : elemOf (leAt pb 8 1) = some ea
  right : elemOf (leAt pb 9 1) = some eb
  out : elemOf (leAt pb 10 1) = some ed
  leftCode : 1 ≤ leAt pb 8 1 ∧ leAt pb 8 1 ≤ 12
  rightCode : 1 ≤ leAt pb 9 1 ∧ leAt pb 9 1 ≤ 12
  outCode : 1 ≤ leAt pb 10 1 ∧ leAt pb 10 1 ≤ 3
  depth : 1 ≤ leAt pb 0 4 ∧ leAt pb 0 4 ≤ 2 ^ 24
  width : 1 ≤ leAt pb 4 4 ∧ leAt pb 4 4 ≤ 2 ^ 16
  blocks : isScaled ea = true ∨ isScaled eb = true → leAt pb 0 4 % 32 = 0

theorem GemmRecord.taken {pb : List Byte} {ea eb ed : Elem} (h : GemmRecord pb ea eb ed) :
    (decide (1 ≤ leAt pb 8 1) && decide (leAt pb 8 1 ≤ 12) && decide (1 ≤ leAt pb 9 1) && decide (leAt pb 9 1 ≤ 12)
      && decide (1 ≤ leAt pb 10 1) && decide (leAt pb 10 1 ≤ 3) && decide (1 ≤ leAt pb 0 4) && decide (leAt pb 0 4 ≤ 2 ^ 24) && decide (1 ≤ leAt pb 4 4)
      && decide (leAt pb 4 4 ≤ 2 ^ 16) && (!(isScaled ea || isScaled eb) || leAt pb 0 4 % 32 == 0)) = true := by
  have hb : (!(isScaled ea || isScaled eb) || leAt pb 0 4 % 32 == 0) = true := by
    cases hs : isScaled ea || isScaled eb with
    | false => rfl
    | true => simp [h.blocks (Bool.or_eq_true _ _ ▸ hs)]
  simp only [hb, h.leftCode, h.rightCode, h.outCode, h.depth, h.width, decide_true, Bool.and_self]

/-- The rows of A, of depth k, times the n columns of B. -/
def gemmProduct (k n : Nat) (a b : List Val) : List Val :=
  (pieces k a).flatMap (fun row => (List.range n).map (fun col => exactSum (row.zipIdx.map (fun y => mulVal y.1 (nthD vzero b (y.2 * n + col))))))

theorem gemmWork_ok {st : Stream} {t : Tile} {s : State} {bs pb bb : List Byte} {ea eb ed : Elem} (h : t.hop + 1 < st.hops) (hp : hopRead (accessOf st t) (nthD 0 st.operand 2) 16 s = (.ok pb, s))
    (hr : GemmRecord pb ea eb ed) (hi : hopInput (accessOf st t) t s = (.ok bs, s)) (hrows : (decodeTensor ea bs).length % leAt pb 0 4 = 0)
    (hwhole : tensorBytes ea (decodeTensor ea bs).length = bs.length)
    (hb : hopRead (accessOf st t) (nthD 0 st.operand 0) (tensorBytes eb (leAt pb 0 4 * leAt pb 4 4)) s = (.ok bb, s)) {d : List Val}
    (hd : gemmProduct (leAt pb 0 4) (leAt pb 4 4) (decodeTensor ea bs) (decodeTensor eb bb) = d) :
    gemmWork st t s = (.ok (formedTile t (encodeTensor ed d)), bumpBy s R.ARITH_OVF_CNT (sumOverflows ed d)) := by
  rw [gemmWork, andThen_ok hp]
  simp only [hr.left, hr.right, hr.out, Option.getD_some]
  rw [andThen_ok (hopReq_true hr.taken _ s), andThen_ok hi, andThen_ok (hopReq_true (by simp [hrows, hwhole]) _ s), andThen_ok hb, ← hd]
  exact (andThen_ok (encodeSums_eq ed _ s)).trans (hopOutput_formed h _ _ _)

/-! ### O49 -/

/-- Settles O49: the work of each operation in one equation, up to the bytes that it hands on and the overflows that it counts. -/
theorem memberOperations : Obligations.MemberOperations := by
  intro w q s st t hl hh el here input operand param result each
  refine ⟨fun x hat hx => ?_, fun x f hat hx hf => ?_, fun x y hat hx hy => ?_, fun x y pr hat hx hy hp => ?_, fun x y hat hx hy => ?_, ?_⟩
  · exact hop_done (hopCommand_convert w q) hl hat (convertWork_ok hh hx) rfl hh
  · exact hop_done (hopCommand_addOp w q) hl hat (addWork_ok hh hx hf rfl) rfl hh
  · exact hop_done (hopCommand_mulOp w q) hl hat (mulWork_ok hh hx hy) rfl hh
  · exact hop_done (hopCommand_axpby w q) hl hat (axpbyWork_ok hh hx hy hp rfl) rfl hh
  · exact hop_done (hopCommand_maxmin w q) hl hat (maxminWork_ok hh hx hy) rfl hh
  · intro bs pb bb ea eb ed hat hi hp hea heb hed a1 a2 b1 b2 d1 d2 k n a hk1 hk2 hn1 hn2 hs hrows hwhole hb d
    have hr : GemmRecord pb ea eb ed := ⟨hea, heb, hed, ⟨a1, a2⟩, ⟨b1, b2⟩, ⟨d1, d2⟩, ⟨hk1, hk2⟩, ⟨hn1, hn2⟩, hs⟩
    exact hop_done (hopCommand_gemm w q) hl hat (gemmWork_ok hh hp hr hi hrows hwhole hb rfl) rfl hh

end Sys2Proof.Proofs

/-!
The NaN rule (R80, R81): what a code of a plain float decodes to, and that the number encodes as the code it came from.
-/
namespace Sys2Proof.Proofs
open Sys2Proof.Machine Sys2Proof.Safety

/-! ### The fields of a code (R80) -/

/-- A code is its sign, its exponent field and its mantissa. -/
theorem code_fields {E M code : Nat} (h : code < 2 * (E * M)) :
    ofBool (decide (code / (E * M) % 2 = 1)) * (E * M) + (code / M % E * M + code % M) = code := by
  have hq : code / (E * M) < 2 := Nat.div_lt_of_lt_mul (by rwa [Nat.mul_comm] at h)
  have hs : ofBool (decide (code / (E * M) % 2 = 1)) = code / (E * M) := by
    generalize code / (E * M) = q at hq
    rw [Nat.mod_eq_of_lt hq, ofBool]
    by_cases h1 : q = 1
    · simp [h1]
    · simp only [h1, decide_false, Bool.false_eq_true, if_false]
      omega
  have h1 : code / M / E = code / (E * M) := by rw [Nat.div_div_eq_div_mul, Nat.mul_comm]
  calc _ = (E * (code / M / E) + code / M % E) * M + code % M := by rw [hs, h1, Nat.add_mul, Nat.add_assoc]; ring
    _ = code := by rw [Nat.div_add_mod, Nat.mul_comm, Nat.div_add_mod]

/-! ### Rounding what is exact (R85) -/

theorem rneScale_zero (m : Nat) : rneScale m 0 = m := by simp [rneScale]

theorem magCode_subnormal {f : FloatFmt} {m : Nat} (hm : m < 2 ^ f.mbits) : magCode f m (1 - (f.bias : Int) - f.mbits) = m := by
  by_cases h0 : m = 0
  · simp [magCode, h0]
  · have hlog : Nat.log2 m < f.mbits := (Nat.log2_lt h0).mpr hm
    have hx : max (expOf m (1 - (f.bias : Int) - f.mbits)) (1 - (f.bias : Int)) = 1 - f.bias := max_eq_right (by unfold expOf; omega)
    simp only [magCode, if_neg h0, hx, sub_self, Int.toNat_zero, Nat.zero_mul, Nat.zero_add]
    exact rneScale_zero m

theorem magCode_normal {f : FloatFmt} {m e : Nat} (hm : m < 2 ^ f.mbits) (he : 1 ≤ e) :
    magCode f (2 ^ f.mbits + m) ((e : Int) - f.bias - f.mbits) = e * 2 ^ f.mbits + m := by
  have h0 : 2 ^ f.mbits + m ≠ 0 := by have := Nat.two_pow_pos f.mbits; omega
  have hlog : Nat.log2 (2 ^ f.mbits + m) = f.mbits := (Nat.log2_eq_iff h0).mpr ⟨by omega, by rw [Nat.pow_succ]; omega⟩
  have hx : max (expOf (2 ^ f.mbits + m) ((e : Int) - f.bias - f.mbits)) (1 - (f.bias : Int)) = e - f.bias := by
    rw [expOf, hlog]
    exact max_eq_left (by omega) |>.trans (by ring)
  have hd : ((e : Int) - f.bias - (1 - f.bias)).toNat = e - 1 := by omega
  simp only [magCode, if_neg h0, hx, sub_self, hd, rneScale_zero]
  obtain ⟨k, rfl⟩ := Nat.exists_eq_add_of_le he
  rw [Nat.add_sub_cancel_left, Nat.add_mul]
  omega

/-! ### Decoding, by the exponent field (R80) -/

/-- The exponent field of a code. -/
def expField (f : FloatFmt) (code : Nat) : Nat := code / 2 ^ f.mbits % 2 ^ f.ebits

/-- The sign of a code. -/
def signField (f : FloatFmt) (code : Nat) : Bool := bitOf code (f.ebits + f.mbits)

theorem decodeF_eq (f : FloatFmt) (code : Nat) (he : 1 ≤ f.ebits) : decodeF f code =
    if f.ieee = true ∧ expField f code = 2 ^ f.ebits - 1 then (if code % 2 ^ f.mbits = 0 then .inf (signField f code) else .nan)
    else if f.ebits = 4 ∧ f.mbits = 3 ∧ code % 128 = 0x7F then .nan
    else if expField f code = 0 then .fin (signField f code) (code % 2 ^ f.mbits) (1 - (f.bias : Int) - f.mbits)
    else .fin (signField f code) (2 ^ f.mbits + code % 2 ^ f.mbits) ((expField f code : Int) - f.bias - f.mbits) := by
  have hw : f.ebits + f.mbits - 1 + 1 - f.mbits = f.ebits := by omega
  simp only [decodeF, bitsOf, hw, expField, signField, Bool.and_eq_true, beq_iff_eq]
  congr

/-- The exponent field of a code that stands for an infinity or a NaN. -/
abbrev Beyond (f : FloatFmt) (code : Nat) : Prop := f.ieee = true ∧ expField f code = 2 ^ f.ebits - 1

/-- A NaN code (R81): E4M3 has one for each sign, the formats of the IEEE kind have every non-zero mantissa under the highest exponent field. -/
def NanCode (f : FloatFmt) (code : Nat) : Prop := if f = e4m3 then code % 128 = 0x7F else expField f code = 2 ^ f.ebits - 1 ∧ code % 2 ^ f.mbits ≠ 0

/-- The five plain formats: their largest finite code lies next below the codes of infinity or NaN. -/
structure PlainFmt (f : FloatFmt) : Prop where
  ebits : 1 ≤ f.ebits
  ieee : f.ieee = true → (f.top + 1 = (2 ^ f.ebits - 1) * 2 ^ f.mbits ∧ ¬(f.ebits = 4 ∧ f.mbits = 3))
  other : f.ieee = false → f = e4m3

theorem plainFmt_of_mem {f : FloatFmt} (h : f ∈ [fp32, bf16, fp16, e4m3, e5m2]) : PlainFmt f := by
  simp only [List.mem_cons, List.not_mem_nil, or_false] at h
  obtain rfl | rfl | rfl | rfl | rfl := h <;> exact ⟨by decide, by decide, by decide⟩

theorem PlainFmt.nan_iff_of_ieee {f : FloatFmt} (hf : PlainFmt f) (hi : f.ieee = true) (code : Nat) : NanCode f code ↔ Beyond f code ∧ code % 2 ^ f.mbits ≠ 0 := by
  have hne : f ≠ e4m3 := by rintro rfl; exact absurd hi (by decide)
  simp only [NanCode, if_neg hne, Beyond, hi, true_and]

theorem decodeF_nan {f : FloatFmt} (hf : PlainFmt f) {code : Nat} (h : NanCode f code) : decodeF f code = .nan := by
  rw [decodeF_eq f code hf.ebits]
  cases hi : f.ieee with
  | true =>
    obtain ⟨⟨-, he⟩, hm⟩ := (hf.nan_iff_of_ieee hi code).mp h
    rw [if_pos ⟨rfl, he⟩, if_neg hm]
  | false =>
    obtain rfl := hf.other hi
    rw [if_neg (fun h => Bool.false_ne_true h.1), if_pos ⟨rfl, rfl, h⟩]

/-- A code that is no NaN is an infinity, a subnormal number or zero, or a normal number. -/
theorem decodeF_number {f : FloatFmt} (hf : PlainFmt f) {code : Nat} (h : ¬NanCode f code) :
    (Beyond f code ∧ code % 2 ^ f.mbits = 0 ∧ decodeF f code = .inf (signField f code)) ∨
    (¬Beyond f code ∧ expField f code = 0 ∧ decodeF f code = .fin (signField f code) (code % 2 ^ f.mbits) (1 - (f.bias : Int) - f.mbits)) ∨
    (¬Beyond f code ∧ expField f code ≠ 0 ∧ decodeF f code = .fin (signField f code) (2 ^ f.mbits + code % 2 ^ f.mbits) ((expField f code : Int) - f.bias - f.mbits)) := by
  rw [decodeF_eq f code hf.ebits]
  by_cases hb : Beyond f code
  · have hm : code % 2 ^ f.mbits = 0 := by_contra fun hm => h ((hf.nan_iff_of_ieee hb.1 code).mpr ⟨hb, hm⟩)
    exact .inl ⟨hb, hm, by rw [if_pos hb, if_pos hm]⟩
  · have he : ¬(f.ebits = 4 ∧ f.mbits = 3 ∧ code % 128 = 0x7F) := by
      rintro ⟨h1, h2, h3⟩
      cases hi : f.ieee with
      | true => exact (hf.ieee hi).2 ⟨h1, h2⟩
      | false =>
        obtain rfl := hf.other hi
        exact h h3
    by_cases h0 : expField f code = 0
    · exact .inr (.inl ⟨hb, h0, by rw [if_neg hb, if_neg he, if_pos h0]⟩)
    · exact .inr (.inr ⟨hb, h0, by rw [if_neg hb, if_neg he, if_neg h0]⟩)

/-- A code that is no NaN and no infinity is no greater than the largest finite code. -/
theorem finite_le_top {f : FloatFmt} (hf : PlainFmt f) {code : Nat} (hb : ¬Beyond f code) (h : ¬NanCode f code) :
    expField f code * 2 ^ f.mbits + code % 2 ^ f.mbits ≤ f.top := by
  cases hi : f.ieee with
  | true =>
    have ht := (hf.ieee hi).1
    have he : expField f code < 2 ^ f.ebits := Nat.mod_lt _ (Nat.two_pow_pos _)
    have hne : expField f code ≠ 2 ^ f.ebits - 1 := fun hx => hb ⟨hi, hx⟩
    have hm : code % 2 ^ f.mbits < 2 ^ f.mbits := Nat.mod_lt _ (Nat.two_pow_pos _)
    have hle : (expField f code + 1) * 2 ^ f.mbits ≤ (2 ^ f.ebits - 1) * 2 ^ f.mbits := Nat.mul_le_mul_right _ (by omega)
    rw [Nat.add_mul] at hle
    omega
  | false =>
    obtain rfl := hf.other hi
    have hn : ¬code % 128 = 0x7F := h
    show code / 8 % 16 * 8 + code % 8 ≤ 0x7E
    omega

/-! ### Encoding gives the code back (R81, R85) -/

theorem encodeF_fin_exact {f : FloatFmt} {neg : Bool} {mag c : Nat} {e : Int} (hc : magCode f mag e = c) (ht : c ≤ f.top) (mx : Bool) :
    encodeF f mx (.fin neg mag e) = ofBool neg * 2 ^ (f.ebits + f.mbits) + c := by
  simp only [encodeF, hc, if_neg (Nat.not_lt.mpr ht)]

theorem encodeF_decodeF {f : FloatFmt} (hf : PlainFmt f) {code : Nat} (hc : code < 2 ^ (1 + f.ebits + f.mbits)) (h : ¬NanCode f code) :
    encodeF f false (decodeF f code) = code := by
  have hm : code % 2 ^ f.mbits < 2 ^ f.mbits := Nat.mod_lt _ (Nat.two_pow_pos _)
  have hfields : ofBool (signField f code) * 2 ^ (f.ebits + f.mbits) + (expField f code * 2 ^ f.mbits + code % 2 ^ f.mbits) = code := by
    rw [signField, bitOf, Nat.pow_add]
    exact code_fields (by rw [← Nat.pow_add, ← Nat.pow_succ']; convert hc using 2; omega)
  obtain ⟨hb, hz, hd⟩ | ⟨hb, h0, hd⟩ | ⟨hb, h0, hd⟩ := decodeF_number hf h
  · obtain ⟨hi, hx⟩ := hb
    rw [hz, hx] at hfields
    rw [hd]
    simp only [encodeF, overflowCode, hi, Bool.not_false, Bool.and_self, if_true]
    exact hfields
  · have ht := finite_le_top hf hb h
    rw [h0, Nat.zero_mul, Nat.zero_add] at ht hfields
    rw [hd, encodeF_fin_exact (magCode_subnormal hm) ht]
    exact hfields
  · rw [hd, encodeF_fin_exact (magCode_normal hm (by omega)) (finite_le_top hf hb h)]
    exact hfields

/-- Nothing is flushed: a code other than the zeros decodes to no zero. -/
theorem isZero_decodeF {f : FloatFmt} (hf : PlainFmt f) {code : Nat} (h : ¬NanCode f code) (hne : code % 2 ^ (f.ebits + f.mbits) ≠ 0) : isZero (decodeF f code) = false := by
  obtain ⟨-, -, hd⟩ | ⟨-, h0, hd⟩ | ⟨-, -, hd⟩ := decodeF_number hf h
  · rw [hd]; rfl
  · have hm : code % 2 ^ f.mbits ≠ 0 := by
      intro hz
      rw [expField] at h0
      rw [Nat.add_comm, Nat.pow_add, Nat.mod_mul, h0, hz] at hne
      exact hne rfl
    rw [hd]
    obtain ⟨m, hs⟩ := Nat.exists_eq_succ_of_ne_zero hm
    rw [hs]
    rfl
  · have hp : 2 ^ f.mbits + code % 2 ^ f.mbits ≠ 0 := by have := Nat.two_pow_pos f.mbits; omega
    obtain ⟨m, hs⟩ := Nat.exists_eq_succ_of_ne_zero hp
    rw [hd, hs]
    rfl

/-! ### O46 -/

/-- Settles O46: by the fields of a code for the formats, and by the work of MUL (`mulWork_ok`), which writes streams only. -/
theorem nanRule : Obligations.NanRule := by
  refine ⟨fun _ => ⟨rfl, rfl, rfl, rfl, rfl⟩, ?codes, ?mul⟩
  case codes =>
    intro f hmem code hc nan
    have hf := plainFmt_of_mem hmem
    refine ⟨decodeF_nan hf, fun h => ⟨?_, encodeF_decodeF hf hc h⟩, isZero_decodeF hf⟩
    obtain ⟨-, -, hd⟩ | ⟨-, -, hd⟩ | ⟨-, -, hd⟩ := decodeF_number hf h <;> rw [hd] <;> exact Val.noConfusion
  case mul =>
    intro w q s st t x y hl hh hat hx hy
    exact ⟨_, hop_done (hopCommand_mulOp w q) hl hat (mulWork_ok hh hx hy) rfl hh, rfl, rfl, rfl⟩

end Sys2Proof.Proofs

/-!
Views proposed, joined, installed and taken (R101, R320, R322, R324 to R327, R330, R331).
-/
namespace Sys2Proof.Proofs
open Sys2Proof.Machine Sys2Proof.Safety

theorem effect_propose {s : State} (hl : live s = true) {t : SiteTab} {h : SiteHdr} (ha : SiteActs s t h) (e v : Word) :
    Effect (.propose h e v) s (proposeOp (seenBy s h) t e.toNat v.toNat) := by
  rw [Effect, exec_propose, execPropose, act_live hl, siteRx_acts ha]

theorem effect_promiseCopy {s : State} (hl : live s = true) (q : Promise) : Effect (.promiseCopy q) s (promiseCopyOp s (promiseOf q)) := by
  rw [Effect, exec_promiseCopy, execPromiseCopy, act_live hl]

theorem effect_promiseCopyAck {s : State} (hl : live s = true) (q : Promise) :  Effect (.promiseCopyAck q) s (promiseAckOp s (promiseOf q)) := by
  rw [Effect, exec_promiseCopyAck, execPromiseCopyAck, act_live hl]

theorem effect_join {s : State} (hl : live s = true) {t : SiteTab} {h : SiteHdr} (ha : SiteActs s t h) (e : Word) (k : BitVec 48) :
    Effect (.join h e k none) s (joinOp (seenBy s h) t h.site.toNat e.toNat k.toNat none) := by
  rw [Effect, exec_join, execJoin, act_live hl, siteRx_acts ha]
  rfl

/-- A VIEW that decides no round and replaces no node. -/
def plainView (e v k : Nat) : ViewMsg := { epoch := e, view := v, committed := k, decided := none, swaps := [] }

/-- The state past a VIEW noted, and told to the WG9 of the site (R324). -/
def viewTold (s : State) (h : SiteHdr) (t : SiteTab) (v : ViewMsg) : State := siteTell (seenBy s h) t .view (viewFields v)

theorem effect_view {s : State} (hl : live s = true) {t : SiteTab} {h : SiteHdr} (ha : SiteActs s t h) (e v : Word) (k : BitVec 48) :
    Effect (.view h e v k none []) s (viewOp (viewTold s h t (plainView e.toNat v.toNat k.toNat)) t (plainView e.toNat v.toNat k.toNat)) := by
  have hg : isGuidon (seenBy s h) = true := ha.2.1
  rw [Effect, exec_view, execView, act_live hl, viewRx, siteRx_acts ha, siteTold, if_pos hg]
  rfl

theorem effect_viewTimeout {s : State} (hl : live s = true) : Effect .viewTimeout s (viewTimeoutOp s) := by
  rw [Effect, exec_viewTimeout, execViewTimeout, act_live hl]

/-- A message to every WG9 of the site (R324). -/
theorem siteTell_eq (s : State) (t : SiteTab) (kind : MsgKind) (fields : List Nat) :
    siteTell s t kind fields = { s with
      site := { s.site with sent := s.site.sent + 1 },
      sent := s.sent ++ ((siteNodes s).filter (· ≠ ownNode s)).map (fun n => Out.message kind 7 n 1 ([ownSite t, s.site.sent, ownSite t] ++ fields) []) } := by
  unfold siteTell localMsg
  dsimp only
  rw [foldl_emit]
  rfl

theorem onlySent_regs {s u : State} (h : OnlySent s u) : u.regs = s.regs := by rw [h]

/-- A view noted and told is one message more. -/
theorem viewTold_eq (s : State) (h : SiteHdr) (t : SiteTab) (v : ViewMsg) : ∃ o, viewTold s h t v = toldOf s h (s.site.sent + 1) o :=
  ⟨_, siteTell_eq (seenBy s h) t .view (viewFields v)⟩

/-! ### Epochs joined (R320, R322, R326) -/

/-- The highest count seen, past a PROPOSE of an epoch. -/
def counted (s : State) (e : Nat) : State := modSite s (fun x => { x with count := max x.count (e / 256) })

theorem proposeOp_passed {s : State} {e v : Nat} (h : e ≤ s.site.joined ∨ badView s v = true) (t : SiteTab) : proposeOp s t e v = counted s e :=
  if_pos (c := e ≤ s.site.joined ∨ badView s v = true) h

/-- What is neither passed over nor waits is joined. -/
theorem proposeOp_new {s : State} {e v : Nat} (hj : s.site.joined < e) (hb : badView s v = false) (t : SiteTab) : proposeOp s t e v =
    if adding s v = true ∧ exchanging s = true then
      modSite (counted s e) (fun x => { x with asking := if x.asking.any (fun p => decide (e ≤ p.1)) then x.asking else some (e, v) })
    else joinEpoch (counted s e) t e :=
  if_neg (c := e ≤ s.site.joined ∨ badView s v = true) (by simp [hb, hj])

theorem proposeOp_waits {s : State} {e v : Nat} (hj : s.site.joined < e) (hb : badView s v = false) (hw : adding s v = true ∧ exchanging s = true)
    (ha : ∀ p, s.site.asking = some p → p.1 < e) (t : SiteTab) : proposeOp s t e v = modSite (counted s e) (fun x => { x with asking := some (e, v) }) := by
  have hn : (counted s e).site.asking.any (fun p => decide (e ≤ p.1)) = false := by
    show s.site.asking.any (fun p => decide (e ≤ p.1)) = false
    cases hq : s.site.asking with
    | none => rfl
    | some p => simpa using ha p hq
  rw [proposeOp_new hj hb, if_pos hw]
  unfold modSite
  simp only [hn, Bool.false_eq_true, if_false]

theorem proposeOp_joins {s : State} {t : SiteTab} {e v : Nat} (hj : s.site.joined < e) (hb : badView s v = false) (hw : ¬(adding s v = true ∧ exchanging s = true))
    (h1 : ownNode s ≠ (siteEnt t t.self).alt) (h2 : s.hlth.lost.contains (siteEnt t t.self).alt = false) : proposeOp s t e v = { s with
      site := { s.site with count := max s.site.count (e / 256), joined := e, offerAt := none, asking := none, promises := s.site.promises ++ [(false, e, 0, 0)] },
      sent := s.sent ++ [.message .promiseCopy 7 (siteEnt t t.self).alt 1 [0, e, 0, 0] []] } := by
  rw [proposeOp_new hj hb, if_neg hw, joinEpoch, makePromise_copied (s := modSite (counted s e) _) h1 h2]
  rfl

/-! ### Promises kept (R322, R329, R330) -/

theorem promiseCopyOp_kept {s : State} {t : SiteTab} (ht : siteTab s = some t) (p : Bool × Nat × Nat × Nat) : promiseCopyOp s p = { s with
    site := { s.site with kept := p :: s.site.kept },
    sent := s.sent ++ [.message .promiseAck 7 (siteEnt t t.self).guidon 1 [ofBool p.1, p.2.1, p.2.2.1, p.2.2.2] []] } := by
  simp only [promiseCopyOp, ht]
  rfl

/-- The promises still to be acknowledged, without one. -/
def acknowledged (s : State) (p : Bool × Nat × Nat × Nat) : State := modSite s (fun x => { x with promises := x.promises.erase p })

theorem promiseAckOp_unknown {s : State} {t : SiteTab} (ht : siteTab s = some t) {p : Bool × Nat × Nat × Nat} (h : s.site.promises.contains p = false) :
    promiseAckOp s p = s := by
  simp only [promiseAckOp, ht, h, Bool.false_eq_true, if_false]

theorem promiseAckOp_known {s : State} {t : SiteTab} (ht : siteTab s = some t) {p : Bool × Nat × Nat × Nat} (h : s.site.promises.contains p = true) {b : Bool}
    {e n d : Nat} (hp : p = (b, e, n, d)) :
    promiseAckOp s p = if e < s.site.joined then acknowledged s p else if b then doAccept (acknowledged s p) t n e d else sendJoin (acknowledged s p) t e := by
  subst hp
  simp only [promiseAckOp, ht, h, if_true]
  rfl

theorem sendJoin_sends {s : State} {t : SiteTab} {e i : Nat} (hi : siteIdx t (e % 256) = some i) (ha : s.site.accepted = none) :
    sendJoin s t e = siteSend s t .join [e, siteCommit s, 0] i := by
  simp only [sendJoin, hi, ha]
  rfl

/-- The own ACCEPT, held from this moment. -/
def ownAccept (s : State) (t : SiteTab) (n e d : Nat) : State :=
  modSite s (fun x => { x with acceptAt := some s.tick.now, accepts := x.accepts ++ [(t.self, n, e, d)] })

/-- A message to the site comes before. -/
theorem onlySent_ownAccept {s u : State} (h : OnlySent s u) (t : SiteTab) (n e d : Nat) : OnlySent (ownAccept s t n e d) (ownAccept u t n e d) := by
  rw [h]
  rfl

/-- The guidon holds a round as accepted, and its own ACCEPT from this moment. -/
def accepted (s : State) (t : SiteTab) (n e d : Nat) : State := ownAccept (holdAccepted s n e d) t n e d

theorem accepted_regs (s : State) (t : SiteTab) (n e d : Nat) :
    (accepted s t n e d).regs = (setFlag (set64 s R.SITE_ACCEPT_LO R.SITE_ACCEPT_HI n) R.SITE_ACCEPT_HI 16 true).regs := by
  simp only [accepted, ownAccept, holdAccepted, modSite]

/-- The registers that show the round accepted. -/
theorem regsKept_accepted (s : State) (t : SiteTab) (n e d : Nat) : RegsKept s (accepted s t n e d) [R.SITE_ACCEPT_LO, R.SITE_ACCEPT_HI] [] := by
  have h1 : RegsKept s (set64 s R.SITE_ACCEPT_LO R.SITE_ACCEPT_HI n) [R.SITE_ACCEPT_LO, R.SITE_ACCEPT_HI] [] :=
    regsKept_trans (regsKept_mono (regsKept_setN s _ _) (by decide) (by decide)) (regsKept_mono (regsKept_setN _ _ _) (by decide) (by decide))
  have h2 : RegsKept s (setFlag (set64 s R.SITE_ACCEPT_LO R.SITE_ACCEPT_HI n) R.SITE_ACCEPT_HI 16 true) [R.SITE_ACCEPT_LO, R.SITE_ACCEPT_HI] [] :=
    regsKept_trans h1 (regsKept_mono (regsKept_setFlag _ _ _ _) (by decide) (by decide))
  exact regsKept_trans h2 (regsKept_of_regs (accepted_regs s t n e d) _ _)

/-- Registers written and the agreement's state changed leave the tick, and of the agreement's state what it was made from. -/
theorem modSite_setFlag_set64 (s : State) (lo hi n k b : Nat) (v : Bool) (f : SiteSt → SiteSt) :
    (modSite (setFlag (set64 s lo hi n) k b v) f).tick = s.tick ∧ (modSite (setFlag (set64 s lo hi n) k b v) f).site = f s.site := ⟨rfl, rfl⟩

theorem ownAccept_leaves (s : State) (t : SiteTab) (n e d : Nat) : (ownAccept s t n e d).tick = s.tick ∧
    (ownAccept s t n e d).site = { s.site with acceptAt := some s.tick.now, accepts := s.site.accepts ++ [(t.self, n, e, d)] } := ⟨rfl, rfl⟩

theorem accepted_tick (s : State) (t : SiteTab) (n e d : Nat) : (accepted s t n e d).tick = s.tick := by
  rw [accepted, (ownAccept_leaves _ t n e d).1, holdAccepted, (modSite_setFlag_set64 s _ _ n _ _ _ _).1]

theorem accepted_site (s : State) (t : SiteTab) (n e d : Nat) : (accepted s t n e d).site =
    { s.site with accepted := some (n, e, d), acceptAt := some s.tick.now, accepts := s.site.accepts ++ [(t.self, n, e, d)] } := by
  rw [accepted, (ownAccept_leaves _ t n e d).2, holdAccepted, (modSite_setFlag_set64 s _ _ n _ _ _ _).1, (modSite_setFlag_set64 s _ _ n _ _ _ _).2]

theorem accepted_flag (s : State) (t : SiteTab) (n e d : Nat) : flag (accepted s t n e d) R.SITE_ACCEPT_HI 16 = true := by
  rw [flag, regN_of_kept (regsKept_of_regs (accepted_regs s t n e d) [] []) (by decide) (by decide)]
  exact flag_setFlag_self _ _ _ _ (by decide)

/-- The ACCEPTs are not judged complete while a site of the view has sent none, and AGREE_TMO has not passed. -/
theorem judgeAccepts_waits {s : State} {t : SiteTab} {j : Nat} (hx : s.site.acceptAt = some s.tick.now) (ha : 0 < t.agree) (hb : bitOf (viewMask s) j = true)
    (hj : ∀ a ∈ s.site.accepts, a.1 ≠ j) : judgeAccepts s t = s := by
  unfold judgeAccepts
  split
  · next n e d x hn hx' =>
    obtain rfl : s.tick.now = x := Option.some.inj (hx.symm.trans hx')
    split
    · rfl
    · rw [if_neg (foldl_mask_ne hb fun a hm => hj a (List.mem_of_mem_filter hm)), if_neg (fun h => by omega)]
  · rfl

theorem judgeAccepts_waits_sent {s u : State} (hu : OnlySent s u) {t : SiteTab} {j : Nat} (hx : s.site.acceptAt = some s.tick.now) (ha : 0 < t.agree)
    (hb : bitOf (viewMask s) j = true) (hj : ∀ a ∈ s.site.accepts, a.1 ≠ j) : judgeAccepts u t = u := by
  rw [hu]
  exact judgeAccepts_waits hx ha hb hj

theorem doAccept_outside {s : State} {t : SiteTab} (h : outside s t = true) (n e d : Nat) : doAccept s t n e d = s := if_pos h

/-- A site within a quorum sends ACCEPT to its own WG9 and to the view, and waits for a site that has sent none. -/
theorem doAccept_accepts {s : State} {t : SiteTab} (h : outside s t = false) {j : Nat} (hs : j ≠ t.self) (ha : 0 < t.agree) (hb : bitOf (viewMask s) j = true)
    (hj : ∀ a ∈ s.site.accepts, a.1 ≠ j) (n e d : Nat) : OnlySent (accepted s t n e d) (doAccept s t n e d) := by
  have hv : viewMask (accepted s t n e d) = viewMask s := regN_of_kept (regsKept_accepted s t n e d) (by decide) (by decide)
  have hj' : ∀ a ∈ (accepted s t n e d).site.accepts, a.1 ≠ j := by
    intro a hm
    rw [accepted_site] at hm
    obtain hm | hm := List.mem_append.1 hm
    · exact hj a hm
    · rw [List.mem_singleton.1 hm]
      exact Ne.symm hs
  have hx : (accepted s t n e d).site.acceptAt = some (accepted s t n e d).tick.now := by rw [accepted_site, accepted_tick]
  have hsent := (onlySent_ownAccept (onlySent_siteTell (holdAccepted s n e d) t .accept [n, e, d]) t n e d).trans
    (onlySent_sendAll (otherSites t (viewMask (ownAccept (siteTell (holdAccepted s n e d) t .accept [n, e, d]) t n e d))) _ t .accept [n, e, d])
  rw [doAccept, if_neg (by simp [h])]
  have hw := judgeAccepts_waits_sent (s := accepted s t n e d) hsent hx ha (by rw [hv]; exact hb) hj'
  exact hw.symm ▸ hsent

/-! ### Views installed (R325 to R327) -/

theorem joinOp_dropped {s : State} {q : Proposal} (hq : s.site.prop = some q) {site e : Nat}
    (h : e ≠ q.epoch ∨ mapFind s.site.revs site ≠ some (regN s R.ARITH_REV)) (t : SiteTab) (k : Nat) : joinOp s t site e k none = s := by
  unfold joinOp
  split
  · next p i hp _ =>
    obtain rfl : q = p := Option.some.inj (hq.symm.trans hp)
    exact if_pos h
  · rfl

/-- The proposal with the JOIN of a site. -/
def joinedBy (q : Proposal) (i k : Nat) : Proposal := { q with joins := (i, k, none) :: q.joins.filter (fun j => j.1 != i) }

theorem joinOp_counted {s : State} {q : Proposal} (hq : s.site.prop = some q) {t : SiteTab} {site i : Nat} (hi : siteIdx t site = some i)
    (hr : mapFind s.site.revs site = some (regN s R.ARITH_REV)) (k : Nat) :
    joinOp s t site q.epoch k none = tryInstall (modSite s (fun x => { x with prop := some (joinedBy q i k) })) t := by
  have hc : ¬(q.epoch ≠ q.epoch ∨ mapFind s.site.revs site ≠ some (regN s R.ARITH_REV)) := by simp [hr]
  simp only [joinOp, hq, hi]
  exact if_neg hc

/-- The sites that joined a proposal, and are of its view. -/
def joinMask (q : Proposal) : Nat := q.joins.foldl (fun m j => m ||| 2 ^ j.1) 0 &&& q.view

theorem tryInstall_waits {s : State} {q : Proposal} (hq : s.site.prop = some q) {t : SiteTab} (h : isQuorum t (joinMask q) = false) : tryInstall s t = s := by
  have hc : q.epoch < s.site.joined ∨ !isQuorum t (joinMask q) := .inr (by simp [h])
  simp only [tryInstall, hq]
  exact if_pos hc

/-- The proposal installed: its view sent to the other sites and told to the own (R326). -/
def installTold (s : State) (t : SiteTab) (v : ViewMsg) : State :=
  siteTell ((otherSites t v.view).foldl (fun a i => siteSend a t .view (viewFields v) i) (modSite s (fun x => { x with prop := none }))) t .view (viewFields v)

/-- With a quorum of JOINs that accepted nothing the view is told and taken. -/
theorem tryInstall_takes {s : State} {q : Proposal} (hq : s.site.prop = some q) {t : SiteTab} (h : isQuorum t (joinMask q) = true) (hj : s.site.joined ≤ q.epoch)
    (hw : s.site.swaps = []) (hn : ∀ j ∈ q.joins, j.2.2 = none) :
    ∃ a k, OnlySent (modSite s (fun x => { x with prop := none })) a ∧ tryInstall s t = viewOp a t (plainView q.epoch q.view k) := by
  have hacc : (q.joins.filter (fun j => bitOf q.view j.1)).filterMap (·.2.2) = [] :=
    List.filterMap_eq_nil_iff.2 fun j hm => hn j (List.mem_of_mem_filter hm)
  have hc : ¬(q.epoch < s.site.joined ∨ !isQuorum t (joinMask q)) := by simp [h, hj]
  obtain ⟨k, hk⟩ : ∃ k, ((q.joins.filter (fun j => bitOf q.view j.1)).map (·.2.1)).foldl max 0 = k := ⟨_, rfl⟩
  refine ⟨installTold s t (plainView q.epoch q.view k), k, (onlySent_sendAll _ _ _ _ _).trans (onlySent_siteTell _ _ _ _), ?_⟩
  simp only [tryInstall, hq, hacc, hw, hk]
  exact if_neg hc

/-! ### A view taken between rounds (R324, R327) -/

theorem viewOp_past {s : State} {v : ViewMsg} (h : v.epoch ≤ siteEpoch s) (t : SiteTab) : viewOp s t v = event s pgSITE 4 := if_pos h

/-- An old VIEW is refused, past its note (R400). -/
theorem event_told (s : State) (h : SiteHdr) (x : Nat) (o : List Out) : let u := event (toldOf s h x o) pgSITE 4
    flag u (hdr pgSITE oEVT) 4 = true ∧ RegsKept s u (evtKeys pgSITE) [0x80] ∧
      u = { s with regs := u.regs, irq := u.irq, sent := u.sent, site := { seenNow s h with sent := x } } := by
  have hr : RegsKept s (toldOf s h x o) (evtKeys pgSITE) [0x80] := regsKept_of_regs rfl _ _
  exact ⟨flag_event_self _ _ _ (by decide), regsKept_trans hr (regsKept_event _ _ _), keptIrq_eq (KeptIrq.event (toldOf s h x o) pgSITE 4)⟩

theorem viewOp_invalid {s : State} {t : SiteTab} {v : ViewMsg} (h : siteEpoch s < v.epoch) (hv : isQuorum t v.view = false ∨ badView s v.view = true) :
    viewOp s t v = s := by
  rw [viewOp, if_neg (Nat.not_le.2 h), if_pos (by simpa using hv)]

theorem viewOp_leaves {s : State} {t : SiteTab} {v : ViewMsg} (h : siteEpoch s < v.epoch) (hq : isQuorum t v.view = true) (hb : badView s v.view = false)
    (hs : bitOf v.view t.self = false) : viewOp s t v = dip s := by
  rw [viewOp, if_neg (Nat.not_le.2 h), if_neg (by simp [hq, hb]), if_pos (by simp [hs])]

theorem viewOp_between {s : State} {t : SiteTab} {v : ViewMsg} (h : siteEpoch s < v.epoch) (hq : isQuorum t v.view = true) (hb : badView s v.view = false)
    (hs : bitOf v.view t.self = true) (hp : s.job.phase = 0) : viewOp s t v = viewNow s t v := by
  have he : exchanging s = false := by simp [exchanging, hp]
  rw [viewOp, if_neg (Nat.not_le.2 h), if_neg (by simp [hq, hb]), if_neg (by simp [hs])]
  exact if_neg (fun hx => by simp [he] at hx)

/-- A view in the registers: its epoch, members and weight. -/
def viewKeyed (s : State) (t : SiteTab) (v : ViewMsg) : State :=
  setN (setN (setN s R.SITE_EPOCH v.epoch) R.SITE_VIEW v.view) R.SITE_WEIGHT (weightOf t v.view + totalWeight t * 0x10000)

/-- A view shown: its registers, its count, and its event and notice. -/
def viewShown (s : State) (t : SiteTab) (v : ViewMsg) : State :=
  postNotice (event (bump (viewKeyed s t v) R.SITE_VIEWS) pgSITE 0) 4 (siteCommit s + 1)

/-- What Mirder keeps of the sites past a view. -/
def siteViewed (x : SiteSt) (v : ViewMsg) : SiteSt :=
  { x with joined := max x.joined v.epoch, count := max x.count (v.epoch / 256), later := none, wait := none, swaps := [],
           prop := if x.prop.any (fun p => decide (v.epoch < p.epoch)) then x.prop else none,
           asked := x.asked.filter (fun i => !bitOf v.view i), offerAt := none }

theorem keptIrq_viewShown (s : State) (t : SiteTab) (v : ViewMsg) : KeptIrq s (viewShown s t v) := by
  refine KeptIrq.trans ?_ (keptIrq_postNotice _ _ _)
  refine KeptIrq.trans (keptIrq_of_onlyRegs ?_) (KeptIrq.event _ _ _)
  exact (onlyRegs_setN _ _ _).trans ((onlyRegs_setN _ _ _).trans ((onlyRegs_setN _ _ _).trans (onlyRegs_setN _ _ _)))

theorem admitSwaps_nil (s : State) : admitSwaps s [] = s := by simp [admitSwaps]

/-- A round is in progress at this WG9, and not aborted. -/
def inProgress (s : State) : Bool := decide (1 ≤ s.job.phase) && decide (s.job.phase ≤ 7) && s.job.aborted.isNone

/-- A view is noted, and the site is a member. -/
def viewEntered (s a : State) (v : ViewMsg) : State :=
  setSite { modSite a (siteViewed · v) with job := { a.job with holding := if siteState s = sHEALING ∨ siteState s = sDIPPED ∨ !v.swaps.isEmpty then false else a.job.holding } }
    sMEMBER

theorem setSite_leaves (s : State) (k : Nat) : (setSite s k).site = s.site ∧ (setSite s k).job = s.job := ⟨rfl, rfl⟩

theorem viewEntered_leaves (s a : State) (v : ViewMsg) : (viewEntered s a v).site = siteViewed a.site v ∧ (viewEntered s a v).job.commit = a.job.commit := by
  rw [viewEntered, (setSite_leaves _ _).1, (setSite_leaves _ _).2]
  exact ⟨rfl, rfl⟩

/-- A plain view is shown, a round in progress may be aborted, groups are reloaded, and the view is entered. -/
theorem viewNow_steps (s : State) (t : SiteTab) (e v k : Nat) : ∃ (b c : Bool) (f : Nat → Bool), viewNow s t (plainView e v k) =
    let s2 := viewShown s t (plainView e v k)
    let s4 := admitSwaps (if inProgress s2 && b && c then abortRound s2 (siteCommit s + 1) false else s2) []
    viewEntered s (s4.coll.groups.foldl (reloadGroup e f []) s4) (plainView e v k) := ⟨_, _, _, rfl⟩

/-- Between rounds and without groups a plain view shows itself, and is entered. -/
theorem viewNow_between {s : State} (hp : s.job.phase = 0) (hg : s.coll.groups = []) (t : SiteTab) (e v k : Nat) :
    viewNow s t (plainView e v k) = viewEntered s (viewShown s t (plainView e v k)) (plainView e v k) := by
  have hk := keptIrq_viewShown s t (plainView e v k)
  have hrun : inProgress (viewShown s t (plainView e v k)) = false := by simp [inProgress, hk.job, hp]
  obtain ⟨b, c, f, h⟩ := viewNow_steps s t e v k
  rw [h]
  simp only [hrun, Bool.false_and, Bool.false_eq_true, if_false, admitSwaps_nil, hk.coll, hg, List.foldl_nil]

/-- A valid view that names this site, between rounds and without groups. -/
theorem viewOp_enters {s : State} {t : SiteTab} {e v k : Nat} (he : siteEpoch s < e) (hq : isQuorum t v = true) (hb : badView s v = false)
    (hs : bitOf v t.self = true) (hp : s.job.phase = 0) (hg : s.coll.groups = []) :
    viewOp s t (plainView e v k) = viewEntered s (viewShown s t (plainView e v k)) (plainView e v k) := by
  rw [viewOp_between (v := plainView e v k) he hq hb hs hp, viewNow_between hp hg]

/-- Between rounds and without groups a proposal with a quorum of JOINs is entered by its proposer (R326). -/
theorem tryInstall_enters {s : State} {t : SiteTab} {q : Proposal} (hq : s.site.prop = some q) (hm : isQuorum t (joinMask q) = true) (hj : s.site.joined ≤ q.epoch)
    (hw : s.site.swaps = []) (hn : ∀ j ∈ q.joins, j.2.2 = none) (he : siteEpoch s < q.epoch) (hv : isQuorum t q.view = true) (hb : badView s q.view = false)
    (hs : bitOf q.view t.self = true) (hp : s.job.phase = 0) (hg : s.coll.groups = []) :
    ∃ a k, OnlySent (modSite s (fun x => { x with prop := none })) a ∧
      tryInstall s t = viewEntered a (viewShown a t (plainView q.epoch q.view k)) (plainView q.epoch q.view k) := by
  obtain ⟨a, k, ha, ht⟩ := tryInstall_takes hq hm hj hw hn
  refine ⟨a, k, ha, ht.trans (viewOp_enters ?_ hv ?_ hs ?_ ?_)⟩ <;> rw [ha] <;> assumption

theorem regsKept_viewNotice (s : State) (t : SiteTab) (v : ViewMsg) :
    RegsKept (bump (viewKeyed s t v) R.SITE_VIEWS) (viewShown s t v) (evtKeys pgSITE) [0x80, 0x89] :=
  regsKept_trans (regsKept_mono (regsKept_event _ _ _) (by decide) (by decide)) (regsKept_mono (regsKept_postNotice _ _ _) (by decide) (by decide))

theorem regsKept_viewEntered (s a : State) (v : ViewMsg) : RegsKept a (viewEntered s a v) [R.SITE_STATE] [] := by
  refine regsKept_trans (u := { modSite a (siteViewed · v) with job := { a.job with holding := _ } }) (regsKept_of_regs rfl _ _) (regsKept_setN _ _ _)

/-- A view taken: its epoch and members shown, the site a member, the weight and the count (R324, R327). -/
theorem viewEntered_shows (s : State) (t : SiteTab) (v : ViewMsg) (he : v.epoch < 2 ^ 32) (hv : v.view < 2 ^ 32) :
    let u := viewEntered s (viewShown s t v) v
    siteEpoch u = v.epoch ∧ viewMask u = v.view ∧ siteState u = sMEMBER ∧ fld u R.SITE_WEIGHT 15 0 = weightOf t v.view % 65536 ∧
      regN u R.SITE_VIEWS = min 0xFFFFFFFF (regN s R.SITE_VIEWS + 1) ∧ flag u (hdr pgSITE oEVT) 0 = true := by
  have hr : RegsKept (bump (viewKeyed s t v) R.SITE_VIEWS) (viewEntered s (viewShown s t v) v) (R.SITE_STATE :: evtKeys pgSITE) [0x80, 0x89] :=
    regsKept_trans (regsKept_mono (regsKept_viewNotice s t v) (by decide) (by decide)) (regsKept_mono (regsKept_viewEntered s _ v) (by decide) (by decide))
  have hk {j : Nat} (h1 : j ∉ R.SITE_STATE :: evtKeys pgSITE) (h2 : pageOf j ∉ [0x80, 0x89]) (h3 : j ≠ R.SITE_VIEWS) :
      regN (viewEntered s (viewShown s t v) v) j = regN (viewKeyed s t v) j := by
    rw [regN_of_kept hr h1 h2, bump, bumpBy, regN_setN_ne _ _ h3]
  refine ⟨?_, ?_, ?_, ?_, ?_, ?_⟩
  · rw [siteEpoch, hk (by decide) (by decide) (by decide), viewKeyed, regN_setN_ne _ _ (by decide), regN_setN_ne _ _ (by decide), regN_setN_self, Nat.mod_eq_of_lt he]
  · rw [viewMask, hk (by decide) (by decide) (by decide), viewKeyed, regN_setN_ne _ _ (by decide), regN_setN_self, Nat.mod_eq_of_lt hv]
  · exact fld_setFld_self _ R.SITE_STATE 2 0 sMEMBER (by decide) (by decide)
  · rw [fld, hk (by decide) (by decide) (by decide), viewKeyed, regN_setN_self, bitsOf]
    omega
  · rw [regN_of_kept hr (by decide) (by decide), regN_bump_self, viewKeyed, regN_setN_ne _ _ (by decide), regN_setN_ne _ _ (by decide), regN_setN_ne _ _ (by decide)]
  · rw [flag, regN_of_kept (regsKept_viewEntered s _ v) (by decide) (by decide), viewShown, regN_of_kept (regsKept_postNotice _ _ _) (by decide) (by decide)]
    exact flag_event_self _ _ _ (by decide)

theorem viewEntered_keeps (s : State) (t : SiteTab) (v : ViewMsg) :
    (viewEntered s (viewShown s t v) v).site = siteViewed s.site v ∧ (viewEntered s (viewShown s t v) v).job.commit = s.job.commit := by
  have hk := keptIrq_viewShown s t v
  obtain ⟨h1, h2⟩ := viewEntered_leaves s (viewShown s t v) v
  exact ⟨by rw [h1, hk.site], by rw [h2, hk.job]⟩

/-! ### A dip between rounds (R331) -/

/-- A dip shown: QUORUM_LOST, the state, its count and its event. -/
def dipShown (s : State) : State := event (bump (setSite (raise s pgSITE fQUORUM_LOST 0 (siteCommit s)) sDIPPED) R.SITE_DIPS) pgSITE 1

/-- What follows a dip's notice: the round in progress, the rounds of lag, and the agreement. -/
def dipEnded (a : State) (n : Nat) : State :=
  let mine := decide (1 ≤ a.job.phase) && decide (a.job.phase ≤ 7)
  let b := if mine ∧ !(a.site.accepted.any (fun x => x.1 == n)) ∧ a.job.aborted.isNone then abortSteps a n else a
  let c := if (mine ∨ a.job.accepted) ∧ fld b R.SITE_LAG 1 0 = 0 then setFlag b R.SITE_LAG 2 true else b
  modSite { c with job := { c.job with holding := c.job.holding || mine } } (fun x => { x with
    prop := none, wait := none, offerAt := none, asking := none, promises := x.promises.filter (fun p => !p.1) })

theorem dip_steps {s : State} (h : siteState s ≠ sDIPPED) : dip s = dipEnded (postNotice (dipShown s) 5 (siteCommit (dipShown s))) (siteCommit s + 1) := by
  rw [dip, if_neg h]
  rfl

/-- Between rounds no round is aborted: of the registers SITE_LAG alone changes. -/
theorem regsKept_dipEnded {a : State} (hp : a.job.phase = 0) (n : Nat) : RegsKept a (dipEnded a n) [R.SITE_LAG] [] := by
  have hm : (decide (1 ≤ a.job.phase) && decide (a.job.phase ≤ 7)) = false := by simp [hp]
  unfold dipEnded
  simp only [hm, Bool.false_eq_true, false_and, if_false, false_or]
  split
  · exact regsKept_trans (regsKept_setFlag a R.SITE_LAG 2 true) (regsKept_of_regs rfl _ _)
  · exact regsKept_of_regs rfl _ _

theorem regsKept_dip {s : State} (hs : siteState s ≠ sDIPPED) (hp : s.job.phase = 0) : RegsKept (dipShown s) (dip s) [R.SITE_LAG] [0x80, 0x89] := by
  have hj : (postNotice (dipShown s) 5 (siteCommit (dipShown s))).job = s.job :=
    (keptIrq_postNotice _ _ _).job.trans ((KeptIrq.event _ pgSITE 1).job.trans (KeptFlt.raise s _ _ _ _).job)
  rw [dip_steps hs]
  exact regsKept_trans (regsKept_mono (regsKept_postNotice _ _ _) (by decide) (by decide)) (regsKept_mono (regsKept_dipEnded (by rw [hj, hp]) _) (by decide) (by decide))

/-- Between rounds the site shows its dip and its fault, and keeps its epoch. -/
theorem dip_shows {s : State} (hs : siteState s ≠ sDIPPED) (hp : s.job.phase = 0) (he : s.store.ecc = []) :
    siteState (dip s) = sDIPPED ∧ siteEpoch (dip s) = siteEpoch s ∧ inFault (dip s) pgSITE = true := by
  have hevent := regsKept_event (bump (setSite (raise s pgSITE fQUORUM_LOST 0 (siteCommit s)) sDIPPED) R.SITE_DIPS) pgSITE 1
  have hr : RegsKept (bump (setSite (raise s pgSITE fQUORUM_LOST 0 (siteCommit s)) sDIPPED) R.SITE_DIPS) (dip s) (R.SITE_LAG :: evtKeys pgSITE) [0x80, 0x89] :=
    regsKept_trans (regsKept_mono hevent (by decide) (by decide)) (regsKept_mono (regsKept_dip hs hp) (by decide) (by decide))
  refine ⟨?_, ?_, ?_⟩
  · rw [siteState, fld, regN_of_kept hr (by decide) (by decide), bump, bumpBy, regN_setN_ne _ _ (by decide)]
    exact fld_setFld_self _ R.SITE_STATE 2 0 sDIPPED (by decide) (by decide)
  · rw [siteEpoch, regN_of_kept hr (by decide) (by decide), bump, bumpBy, regN_setN_ne _ _ (by decide), setSite, regN_setFld_ne _ _ _ _ (by decide), regN,
      getR_raise _ he _ _ _ _ (by decide) (by decide)]
    rfl
  · rw [inFault, flag, regN_of_kept hr (by decide) (by decide), bump, bumpBy, regN_setN_ne _ _ (by decide), setSite, regN_setFld_ne _ _ _ _ (by decide)]
    exact inFault_raise _ he _ _ _ _ (by decide)

/-! ### Proposals overdue (R325) -/

theorem viewTimeoutOp_untabled {s : State} (h : siteTab s = none) : viewTimeoutOp s = s := by simp only [viewTimeoutOp, h]

/-- The guidon wants another view, and its proposal, or the proposer that it waits for, is overdue. -/
def Overdue (s : State) (t : SiteTab) : Prop :=
  viewWanted s t = true ∧ s.site.later = none ∧
    ((∃ q, s.site.prop = some q ∧ q.tick + t.view ≤ s.tick.now) ∨ (s.site.prop = none ∧ ∃ x, s.site.wait = some x ∧ x + t.view ≤ s.tick.now))

theorem viewTimeoutOp_tabled {s : State} {t : SiteTab} (h : siteTab s = some t) [Decidable (Overdue s t)] :
    viewTimeoutOp s = if Overdue s t then propose s t (wantedView s t) else s := by
  have hd : (viewWanted s t = true ∧ s.site.later.isNone = true ∧ (s.site.prop.any (fun p => decide (p.tick + t.view ≤ s.tick.now)) = true ∨
      (s.site.prop.isNone = true ∧ s.site.wait.any (fun x => decide (x + t.view ≤ s.tick.now)) = true))) ↔ Overdue s t := by
    simp only [Overdue, Option.isNone_iff_eq_none, Option.any_eq_true, decide_eq_true_eq]
  simp only [viewTimeoutOp, h, hd]

/-- The proposal that the guidon makes next, which it has joined itself (R325). -/
def nextProposal (s : State) (t : SiteTab) (view : Nat) : Proposal :=
  { epoch := (s.site.count + 1) * 256 + ownSite t, view := view, joins := [(t.self, siteCommit s, s.site.accepted)], tick := s.tick.now }

/-- A proposal made, its epoch joined. -/
def proposed (s : State) (t : SiteTab) (view : Nat) : State :=
  modSite s (fun x => { x with count := x.count + 1, joined := (s.site.count + 1) * 256 + ownSite t, prop := some (nextProposal s t view), wait := none })

/-- A site that is no quorum by itself waits for the JOINs of others. -/
theorem propose_waits {s : State} {t : SiteTab} {view : Nat} (h : isQuorum t (2 ^ t.self &&& view) = false) : OnlySent (proposed s t view) (propose s t view) := by
  have hs := onlySent_sendAll (otherSites t view) (proposed s t view) t .propose [(s.site.count + 1) * 256 + ownSite t, view]
  have hm : isQuorum t (joinMask (nextProposal s t view)) = false := by
    simpa [joinMask, nextProposal] using h
  have hw := tryInstall_waits (q := nextProposal s t view) (t := t) (congrArg (·.site.prop) hs) hm
  exact (show propose s t view = _ from hw).symm ▸ hs

/-! ### O42 -/

/-- Settles O42: a message up to the step that it brings, and that step by its lemma: a promise, an ACCEPT, a view entered, a dip, a proposal. -/
theorem viewChanges : Obligations.ViewChanges := by
  refine ⟨?propose, ?promise, ?join, ?view, ?timeout⟩
  case propose =>
    intro h e v t s hl ha x waits
    have hf := effect_propose hl ha e v
    refine ⟨fun hc => ?_, fun hj hb hw hk => ?_, fun hj hb hw h1 h2 => ?_⟩
    · rw [proposeOp_passed (s := seenBy s h) hc] at hf
      exact ⟨_, hf, rfl⟩
    · rw [proposeOp_waits (s := seenBy s h) hj hb hw hk] at hf
      exact ⟨_, hf, rfl⟩
    · rw [proposeOp_joins (s := seenBy s h) hj hb hw h1 h2] at hf
      exact ⟨_, hf, rfl⟩
  case promise =>
    intro q t s hl ht
    have hf := effect_promiseCopyAck hl q
    refine ⟨⟨_, effect_promiseCopy hl q, promiseCopyOp_kept ht _⟩, fun hn => ?_, fun hc hj => ?_, fun i hc hj hq hi hn => ?_, fun hc hj hq ho => ?_, fun hc hj hq ho hx ha => ?_⟩
    · rwa [promiseAckOp_unknown ht hn] at hf
    all_goals rw [promiseAckOp_known ht hc rfl] at hf
    · rw [if_pos (by exact hj)] at hf
      exact ⟨_, hf, rfl⟩
    all_goals rw [if_neg (by exact Nat.not_lt.2 hj)] at hf
    · rw [if_neg (by simp [hq]), sendJoin_sends (s := acknowledged s (promiseOf q)) hi hn] at hf
      exact ⟨_, hf, by rw [siteSend_eq]; rfl, siteSend_sends _ _ _ _ _, by rw [siteSend_eq]; rfl⟩
    all_goals rw [if_pos (by exact hq)] at hf
    · rw [doAccept_outside (s := acknowledged s (promiseOf q)) ho] at hf
      exact ⟨_, hf, rfl⟩
    · obtain ⟨j, hs, hb, hj'⟩ := hx
      have hd := doAccept_accepts (s := acknowledged s (promiseOf q)) ho hs ha hb hj' q.round.toNat q.epoch.toNat q.digest.toNat
      have hr : RegsKept (accepted (acknowledged s (promiseOf q)) t q.round.toNat q.epoch.toNat q.digest.toNat) _ [] [] := regsKept_of_regs (onlySent_regs hd) [] []
      have hx := accepted_site (acknowledged s (promiseOf q)) t q.round.toNat q.epoch.toNat q.digest.toNat
      refine ⟨_, hf, ?_, ?_, ?_, ?_⟩
      · exact (congrArg (·.site.accepted) hd).trans (congrArg SiteSt.accepted hx)
      · exact (congrArg (·.site.acceptAt) hd).trans (congrArg SiteSt.acceptAt hx)
      · rw [flag, regN_of_kept hr (by decide) (by decide)]
        exact accepted_flag _ _ _ _ _
      · rw [siteCommit_of_kept hr (by decide) (by decide) (by decide), siteCommit_of_kept (regsKept_accepted _ _ _ _ _) (by decide) (by decide) (by decide)]
        rfl
  case join =>
    intro h e k t q i s hl ha hq hi
    have hf := effect_join hl ha e k
    have hrev : mapFind (seenBy s h).site.revs h.site.toNat = some h.arithRev.toNat := mapFind_mapPut_self _ _ _
    refine ⟨fun hc => ?_, ?_⟩
    · rw [joinOp_dropped (s := seenBy s h) hq (hc.imp id fun hr => by rw [hrev]; exact fun hx => hr (Option.some.inj hx))] at hf
      exact ⟨_, hf, rfl⟩
    · intro he hr js mask
      rw [he, joinOp_counted (s := seenBy s h) hq hi (by rw [hrev, hr]; rfl)] at hf
      refine ⟨fun hm => ?_, fun hm hj hep hself hlt hqv hb hp hg hw hn => ?_⟩
      · rw [tryInstall_waits (q := joinedBy q i k.toNat) rfl hm] at hf
        exact ⟨_, hf, rfl⟩
      · obtain ⟨a, c, hs, ht⟩ := tryInstall_enters (s := modSite (seenBy s h) (fun x => { x with prop := some (joinedBy q i k.toNat) })) (q := joinedBy q i k.toNat)
          rfl hm hj hw hn hep hqv hb hself hp hg
        have hview : plainView (joinedBy q i k.toNat).epoch (joinedBy q i k.toNat).view c = plainView q.epoch q.view c := rfl
        rw [ht, hview] at hf
        obtain ⟨h1, h2, h3, -, h5, -⟩ := viewEntered_shows a t (plainView q.epoch q.view c) (by rw [plainView, ← he]; exact e.isLt) hlt
        obtain ⟨hsite, -⟩ := viewEntered_keeps a t (plainView q.epoch q.view c)
        refine ⟨_, hf, h1, h2, h3, ?_, h5.trans (by rw [hs]; rfl)⟩
        rw [hsite, hs]
        rfl
  case view =>
    intro h e v k t s hl ha hp
    have hf := effect_view hl ha e v k
    obtain ⟨o, ho⟩ := viewTold_eq s h t (plainView e.toNat v.toNat k.toNat)
    rw [ho] at hf
    refine ⟨fun he => ?_, fun he hc => ?_, fun he hq hb hself hecc hd => ?_, fun he hq hb hself hg => ?_⟩
    · rw [viewOp_past (s := toldOf s h (s.site.sent + 1) o) (v := plainView e.toNat v.toNat k.toNat) he] at hf
      exact ⟨_, hf, event_told s h _ o⟩
    · rw [viewOp_invalid (s := toldOf s h (s.site.sent + 1) o) (v := plainView e.toNat v.toNat k.toNat) he hc, ← ho] at hf
      exact ⟨_, hf, rfl⟩
    · rw [viewOp_leaves (s := toldOf s h (s.site.sent + 1) o) (v := plainView e.toNat v.toNat k.toNat) he hq hb hself] at hf
      exact ⟨_, hf, dip_shows (s := toldOf s h (s.site.sent + 1) o) hd hp hecc⟩
    · rw [viewOp_enters (s := toldOf s h (s.site.sent + 1) o) he hq hb hself hp hg] at hf
      obtain ⟨h1, h2, h3, h4, -, h6⟩ := viewEntered_shows (toldOf s h (s.site.sent + 1) o) t (plainView e.toNat v.toNat k.toNat) e.isLt v.isLt
      obtain ⟨hsite, hjob⟩ := viewEntered_keeps (toldOf s h (s.site.sent + 1) o) t (plainView e.toNat v.toNat k.toNat)
      exact ⟨_, hf, h1, h2, h3, h4, by rw [hsite]; rfl, h6, hjob⟩
  case timeout =>
    intro s hl
    have hf := effect_viewTimeout hl
    refine ⟨fun hn => ?_, ?_⟩
    · rwa [viewTimeoutOp_untabled hn] at hf
    · intro t ht due e
      classical
      rw [viewTimeoutOp_tabled ht] at hf
      refine ⟨fun hd => ?_, fun hd hq => ?_⟩
      · rwa [if_neg (by exact hd)] at hf
      · rw [if_pos (by exact hd)] at hf
        have hw := propose_waits (s := s) hq
        exact ⟨_, hf, by rw [hw]; rfl, by rw [hw]; rfl, by rw [hw]; rfl, by rw [hw]; rfl, by rw [hw]; rfl⟩

end Sys2Proof.Proofs

/-!
What storage, buffers and faults leave alone (R163, R171, R172, R375): the count of a round's aborts, the records of the line's modules,
and the frames that wait at the ports.
-/
namespace Sys2Proof.Proofs
open Sys2Proof.Machine Sys2Proof.Safety

/-- The count of aborts, the line modules' records and the frames at the door stay as they were. -/
structure Still (s u : State) : Prop where
  aborts : u.job.aborts = s.job.aborts
  mods : u.line.mods = s.line.mods
  door : u.sw.door = s.sw.door

theorem Still.refl (s : State) : Still s s := ⟨rfl, rfl, rfl⟩

theorem Still.trans {s u v : State} (h : Still s u) (g : Still u v) : Still s v :=
  ⟨g.aborts.trans h.aborts, g.mods.trans h.mods, g.door.trans h.door⟩

theorem still_of_flt {s u : State} (h : KeptFlt s u) : Still s u := ⟨by rw [h.job], by rw [h.line], by rw [h.sw]⟩

theorem still_of_irq {s u : State} (h : KeptIrq s u) : Still s u := still_of_flt (KeptFlt.ofIrq h)

theorem still_setN (s : State) (k v : Nat) : Still s (setN s k v) := ⟨rfl, rfl, rfl⟩

theorem still_event (s : State) (page k : Nat) : Still s (event s page k) := still_of_irq (KeptIrq.event s page k)

theorem still_irqMessage (s : State) (src : Nat) : Still s (irqMessage s src) := still_of_irq (KeptIrq.irqMessage s src)

theorem still_raise (s : State) (src kind ctx addr : Nat) : Still s (raise s src kind ctx addr) := still_of_flt (KeptFlt.raise s src kind ctx addr)

theorem still_foldl {α : Type} {f : State → α → State} (hf : ∀ s x, Still s (f s x)) (l : List α) (s : State) : Still s (l.foldl f s) :=
  foldl_related (r := Still) Still.refl (fun _ _ _ h g => h.trans g) hf l s

/-! ### Storage (R163, R164) -/

theorem still_flagAbort (s : State) (round : Nat) (holds : Bool) : Still s (flagAbort s round holds) := by
  unfold flagAbort
  split <;> exact ⟨rfl, rfl, rfl⟩

theorem still_ueConsequence (s : State) (k : Nat) : Still s (ueConsequence s k) := by
  unfold ueConsequence
  split
  · split
    · exact Still.trans (u := { s with hlth := { s.hlth with broken := insNat s.hlth.broken k } }) ⟨rfl, rfl, rfl⟩ (still_flagAbort _ _ _)
    · split
      · exact ⟨rfl, rfl, rfl⟩
      · split
        · exact still_flagAbort _ _ _
        · exact Still.refl s
  · exact Still.refl s

theorem still_eccRaise (s : State) (k : Nat) (ue scrub : Bool) : Still s (eccRaise s k ue scrub) := by
  have h : Still s (raise (noteEcc s k ue scrub) (eccFault k ue).1 (eccFault k ue).2.1 0 (eccFault k ue).2.2) :=
    (still_of_flt (KeptFlt.noteEcc s k ue scrub)).trans (still_raise _ _ _ _ _)
  unfold eccRaise
  dsimp only
  split
  · exact h.trans (still_ueConsequence _ _)
  · exact h

theorem still_eccClear (s : State) (w : Nat) : Still s (eccClear s w) := ⟨rfl, rfl, rfl⟩

theorem still_rawWrite (s : State) (k : Nat) (bs : List Byte) : Still s (rawWrite s k bs) := ⟨rfl, rfl, rfl⟩

theorem still_meetErrors : ∀ (l : List (Nat × EccKind)) (s : State), Still s (meetErrors l s)
  | [], s => Still.refl s
  | (w, .ce) :: t, s => (still_eccClear s w).trans ((still_eccRaise _ w false false).trans (still_meetErrors t _))
  | (_, .ue) :: t, s => (still_eccRaise s _ _ _).trans (still_meetErrors t _)

theorem still_storeWrite (s : State) (k : Nat) (bs : List Byte) : Still s (storeWrite s k bs).2 := by
  unfold storeWrite
  dsimp only
  refine Still.trans ?_ (still_foldl (fun _ _ => still_rawWrite _ _ _) _ _)
  refine Still.trans ?_ (still_rawWrite _ k bs)
  exact (still_meetErrors _ s).trans (still_foldl (fun _ _ => still_eccClear _ _) _ _)

theorem still_storeRead (s : State) (k n : Nat) : Still s (storeRead s k n).2 := by
  unfold storeRead
  dsimp only
  split <;> exact still_meetErrors _ s

theorem still_hwRead (s : State) (a n : Nat) : Still s (hwRead s a n).2 := by
  unfold hwRead
  split
  · exact still_storeRead _ _ _
  · exact Still.refl s

theorem still_hwWriteAs (kind : Nat) (s : State) (a : Nat) (bs : List Byte) : Still s (hwWriteAs kind s a bs) := by
  unfold hwWriteAs
  split
  · exact still_storeWrite _ _ _
  · exact Still.refl s

theorem still_hwWrite (s : State) (a : Nat) (bs : List Byte) : Still s (hwWrite s a bs) := still_hwWriteAs 0 s a bs

/-! ### Buffers (R171 to R173) -/

theorem still_setCount (s : State) (h n : Nat) : Still s (setCount s h n) := by
  unfold setCount
  split
  · exact ⟨rfl, rfl, rfl⟩
  · have h1 := still_hwWriteAs 5 s (segMeta s (hPool h) (hSeg h) + hIdx h) [BitVec.ofNat 8 n]
    dsimp only
    split
    · exact h1.trans (still_hwWriteAs _ _ _ _)
    · exact h1

theorem still_setFree (s : State) (p sg n : Nat) : Still s (setFree s p sg n) := by
  unfold setFree
  dsimp only
  split <;> exact ⟨rfl, rfl, rfl⟩

theorem still_pushFree (s : State) (h : Nat) : Still s (pushFree s h) := by
  have hw : Still s (linkWrite s h (segHead s (hPool h) (hSeg h))) := by
    unfold linkWrite
    split
    · exact ⟨rfl, rfl, rfl⟩
    · exact still_hwWriteAs _ _ _ _
  exact (hw.trans (still_setN _ _ _)).trans (still_setFree _ _ _ _)

theorem still_noteBad (s : State) (h kind : Nat) : Still s (noteBad s h kind) := (still_setN s _ _).trans (still_raise _ _ _ _ _)

theorem still_releaseQuiet (s : State) (h : Nat) : Still s (releaseQuiet s h) := by
  have hm : Still s (meetCount s h) := by
    unfold meetCount
    split
    · exact Still.refl s
    · exact still_hwRead _ _ _
  unfold releaseQuiet releaseBuf
  dsimp only
  split
  · exact still_noteBad _ _ _
  · split
    · exact ⟨rfl, rfl, rfl⟩
    · split
      · exact hm
      · exact hm.trans ((still_setN _ _ _).trans ((still_event _ _ _).trans (still_noteBad _ _ _)))
      · next n _ =>
        have h1 := hm.trans (still_setCount _ h n)
        split
        · exact h1.trans (still_pushFree _ _)
        · exact h1

theorem still_releases (l : List Nat) (s : State) : Still s (l.foldl releaseQuiet s) := still_foldl still_releaseQuiet l s

theorem still_linkRead (s : State) (h : Nat) : Still s (linkRead s h).2 := by
  have hr : Still s (if hPool h = 0 then storeRead s (bufAddr s h) 8 else hwRead s (bufAddr s h) 8).2 := by
    split
    · exact still_storeRead _ _ _
    · exact still_hwRead _ _ _
  unfold linkRead
  generalize (if hPool h = 0 then storeRead s (bufAddr s h) 8 else hwRead s (bufAddr s h) 8) = r at hr
  dsimp only
  split
  · exact hr
  · split <;> exact hr

theorem still_freeze (s : State) (p sg h : Nat) : Still s (freeze s p sg h) := by
  unfold freeze
  exact (still_setN s _ _).trans ((still_event _ _ _).trans (still_raise _ _ _ _ _))

theorem still_takeHead (s : State) (p sg n : Nat) : Still s (takeHead s p sg n).2 := by
  have hl := still_linkRead s (segHead s p sg)
  unfold takeHead
  dsimp only
  split
  · exact Still.refl s
  · split
    · next next s1 he =>
      rw [he] at hl
      have h3 : Still s { setN s1 (segReg R.POOL_SEG_HEAD p sg) next with pool := { s1.pool with p0next := mapDel s1.pool.p0next (segHead s p sg) } } :=
        hl.trans ⟨rfl, rfl, rfl⟩
      exact (h3.trans (still_setFree _ _ _ _)).trans (still_setCount _ _ _)
    · next s1 he =>
      rw [he] at hl
      exact hl.trans (still_freeze s1 p sg _)

theorem still_allocFrom (want sg n : Nat) : ∀ (l : List Nat) (s : State), Still s (allocFrom want sg n l s).2
  | [], s => (still_setN s _ _).trans (still_event _ _ _)
  | k :: t, s => by
    have hh := still_takeHead s k sg n
    unfold allocFrom
    split
    · exact still_allocFrom want sg n t s
    · split
      · next h s1 he =>
        rw [he] at hh
        dsimp only
        split
        · exact hh.trans ((still_setN _ _ _).trans (still_event _ _ _))
        · exact hh
      · next s1 he =>
        rw [he] at hh
        exact hh.trans (still_allocFrom want sg n t s1)

theorem still_allocInternal (s : State) (p sg : Nat) : Still s (allocInternal s p sg).2 := by
  have ha := still_allocFrom p sg 1 (if p = 0 then [0] else (List.range 5).filter (fun k => p ≤ k)) s
  unfold allocInternal allocBuf
  split
  · exact Still.refl s
  · split
    · split <;> (next he => rw [he] at ha; exact ha)
    · exact Still.refl s

end Sys2Proof.Proofs

/-!
What the collective engine's own moves leave alone (R217 to R234): the count of a round's aborts, the records of the line's modules, and the frames
that wait at the ports.
-/
namespace Sys2Proof.Proofs
open Sys2Proof.Machine Sys2Proof.Safety

/-! ### Hops (R160) -/

/-- A hop's computation leaves what `Still` names. -/
def StillM {α : Type} (m : HopM α) : Prop := ∀ s, Still s (m s).2

section
variable {α β : Type}

theorem stillM_ret (a : α) : StillM (HopM.ret a) := Still.refl

theorem StillM.andThen {m : HopM α} {f : α → HopM β} (hm : StillM m) (hf : ∀ a, StillM (f a)) : StillM (m.andThen f) := by
  intro s
  have h := hm s
  unfold HopM.andThen
  split
  · next a s1 he =>
    rw [he] at h
    exact h.trans (hf a s1)
  · next he =>
    rw [he] at h
    exact h

theorem stillM_each {f : α → HopM β} (hf : ∀ a, StillM (f a)) : ∀ l, StillM (HopM.each f l)
  | [] => stillM_ret _
  | x :: t => (hf x).andThen fun _ => (stillM_each hf t).andThen fun _ => stillM_ret _

theorem stillM_hopGet (f : State → α) : StillM (hopGet f) := Still.refl

end

theorem stillM_hopTest (k n : Nat) : StillM (hopTest k n) := Still.refl

theorem still_refuseAccess (s : State) (d : Deny) (station place : Nat) (wr : Bool) (a : Nat) : Still s (refuseAccess s d station place wr a) := by
  unfold refuseAccess
  exact (still_setN s _ _).trans ((still_setN _ _ _).trans ((still_setN _ _ _).trans ((still_event _ _ _).trans (still_raise _ _ _ _ _))))

theorem stillM_hopKey (c : Access) (wr handle : Bool) (a n : Nat) : StillM (hopKey c wr handle a n) := by
  intro s
  unfold hopKey
  split
  · exact Still.refl s
  · exact (still_refuseAccess _ _ _ _ _ _).trans (still_flagAbort _ _ _)

theorem stillM_hopRead (c : Access) (a n : Nat) : StillM (hopRead c a n) := by
  unfold hopRead
  split
  · exact stillM_ret _
  · refine (stillM_hopKey _ _ _ _ _).andThen fun k => (stillM_hopTest k n).andThen fun _ s => ?_
    have h := still_storeRead s k n
    split
    · next he =>
      rw [he] at h
      exact h
    · next he =>
      rw [he] at h
      exact Still.trans h (still_flagAbort _ _ _)

theorem stillM_hopWrite (c : Access) (handle : Bool) (a : Nat) (bs : List Byte) : StillM (hopWrite c handle a bs) := by
  unfold hopWrite
  split
  · exact stillM_ret _
  · refine (stillM_hopKey _ _ _ _ _).andThen fun k => (stillM_hopTest k _).andThen fun _ s => ?_
    have h := still_storeWrite s k bs
    split
    · next he =>
      rw [he] at h
      exact h
    · next he =>
      rw [he] at h
      exact Still.trans h (still_flagAbort _ _ _)

theorem stillM_hopReadSegs (c : Access) (l : List (Nat × Nat)) : StillM (hopReadSegs c l) :=
  (stillM_hopGet _).andThen fun _ => (stillM_each (fun _ => stillM_hopRead _ _ _) _).andThen fun _ => stillM_ret _

theorem stillM_hopWriteSegs (c : Access) (l : List (Nat × Nat)) (off : Nat) (bs : List Byte) : StillM (hopWriteSegs c l off bs) :=
  (stillM_hopGet _).andThen fun _ =>
    (stillM_each (fun _ => (stillM_hopKey _ _ _ _ _).andThen fun _ => stillM_hopTest _ _) _).andThen fun _ =>
      (stillM_each (fun _ => stillM_hopWrite _ _ _ _) _).andThen fun _ => stillM_ret _

/-! ### Structures over ranges -/

theorem still_readParts : ∀ (l : List (Nat × Nat)) (s : State), Still s (readParts l s).2
  | [], s => Still.refl s
  | (a, n) :: t, s => by
    have h := still_hwRead s a n
    unfold readParts
    split
    · next s1 he =>
      rw [he] at h
      have h2 := still_readParts t s1
      split <;> (next he => rw [he] at h2; exact h.trans h2)
    · next he =>
      rw [he] at h
      exact h

theorem still_of_readSegs {l : List (Nat × Nat)} {s u : State} {b : Option (List Byte)} (h : readSegs l s = (b, u)) : Still s u := by
  have hr := still_readParts (cutSegs s l) s
  rw [readSegs] at h
  rwa [h] at hr

theorem still_hwReadRange (s : State) (a n : Nat) : Still s (hwReadRange s a n).2 := still_readParts _ s

theorem still_hwWriteRange (s : State) (a : Nat) (bs : List Byte) : Still s (hwWriteRange s a bs) := by
  have h (l : List (Nat × Nat)) : ∀ x : State × List Byte, Still x.1 (l.foldl (fun x p => (hwWrite x.1 p.1 (x.2.take p.2), x.2.drop p.2)) x).1 := by
    induction l with
    | nil => exact fun x => Still.refl x.1
    | cons p t ih => exact fun x => (still_hwWrite x.1 p.1 (x.2.take p.2)).trans (ih (hwWrite x.1 p.1 (x.2.take p.2), x.2.drop p.2))
  exact h _ (s, bs)

/-! ### Failures and messages -/

theorem still_noteFail (s : State) (group level reason chunk round : Nat) : Still s (noteFail s group level reason chunk round) := ⟨rfl, rfl, rfl⟩

theorem still_bump (s : State) (k : Nat) : Still s (bump s k) := ⟨rfl, rfl, rfl⟩

theorem still_windowFail (s : State) (epoch : Bool) (group level chunk round : Nat) (holds : Bool) : Still s (windowFail s epoch group level chunk round holds) := by
  unfold windowFail
  exact (still_noteFail s _ _ _ _ _).trans ((still_bump _ _).trans ((still_event _ _ _).trans ((still_raise _ _ _ _ _).trans (still_flagAbort _ _ _))))

theorem still_markTest (s : State) (src inst : Nat) : Still s (markTest s src inst) := by
  unfold markTest
  split <;> exact ⟨rfl, rfl, rfl⟩

theorem still_chunkFail (s : State) (group level reason chunk round : Nat) : Still s (chunkFail s group level reason chunk round) := by
  have h (x : Nat) (y : Nat) := (still_noteFail s group level reason chunk round).trans ((still_bump _ R.COLL_CHK_FAIL).trans ((still_event _ pgCOLL 1).trans (still_raise _ pgCOLL fCHUNK_CORRUPT x y)))
  unfold chunkFail
  dsimp only
  refine Still.trans ?_ (still_flagAbort _ _ _)
  split
  · exact (h _ _).trans (still_markTest _ _ _)
  · exact h _ _

theorem still_emit (s : State) (o : Out) : Still s (emit s o) := ⟨rfl, rfl, rfl⟩

theorem still_collMessage (s : State) (kind : MsgKind) (g : Group) (i : Nat) (fields : List Nat) (data : List Byte) : Still s (collMessage s kind g i fields data) := still_emit s _

theorem still_sendArea (s : State) (r : CReq) (i : Nat) (b : List Byte) : Still s (sendArea s r i b) := still_emit s _

/-! ### Requests end (R217, R229) -/

theorem still_coll (s : State) (c : CollSt) : Still s { s with coll := c } := ⟨rfl, rfl, rfl⟩

theorem still_putReq (s : State) (r : CReq) : Still s (putReq s r) := still_coll s _

theorem still_postRecord {s u : State} {ring : Nat} {mk : Bool → List Byte} (h : postRecord s ring mk = some u) : Still s u := by
  unfold postRecord at h
  split at h
  · cases h
    exact Still.refl s
  · dsimp only at h
    split at h
    · cases h
    · cases h
      have h1 (a : Nat) (b : List Byte) := still_hwWrite s a b
      split
      · exact (h1 _ _).trans ⟨rfl, rfl, rfl⟩
      · exact (h1 _ _).trans (still_setN _ _ _)

theorem still_moveHead : ∀ (n : Nat) (s : State), Still s (moveHead n s)
  | 0, s => Still.refl s
  | n + 1, s => by
    unfold moveHead
    dsimp only
    split
    · exact ((still_coll s _).trans (still_setN _ R.COLL_RQ_PTR _)).trans (still_moveHead n _)
    · exact Still.refl s

theorem still_groupDrained (s : State) (g : Nat) : Still s (groupDrained s g) := by
  have h : Still s (pruneNodes { s with coll := { s.coll with groups := mapDel s.coll.groups g } }) := ⟨rfl, rfl, rfl⟩
  unfold groupDrained
  split
  · split
    · dsimp only
      split
      · exact h.trans ((still_setN _ _ _).trans (still_event _ _ _))
      · exact h
    · exact Still.refl s
  · exact Still.refl s

theorem still_dropChunks (s : State) (r : CReq) : Still s (dropChunks s r) := still_foldl (fun _ _ => still_releases _ _) _ s

theorem still_endRequest {s u : State} {r : CReq} (h : endRequest s r = some u) : Still s u := by
  unfold endRequest at h
  split at h
  · cases h
  · next s1 h1 =>
    cases h
    have h2 : Still s (if r.notify && (cringSize s1 r.ring).isSome then notifyRing s1 r.ring else s1) := by
      split
      · exact (still_postRecord h1).trans (still_irqMessage _ _)
      · exact still_postRecord h1
    exact ((h2.trans (still_dropChunks _ _)).trans ((still_coll _ _).trans ((still_bump _ _).trans (still_event _ _ _)))).trans
      ((still_moveHead _ _).trans (still_groupDrained _ _))

theorem still_endAll : ∀ (l : List CReq) (s : State), Still s (endAll l s)
  | [], s => Still.refl s
  | r :: t, s => by
    unfold endAll
    split
    · split
      · next h => exact (still_endRequest h).trans (still_endAll t _)
      · exact still_endAll t s
    · exact still_endAll t s

theorem still_finishReq (s : State) (r : CReq) (code : Option Nat) : Still s (finishReq s r code) := by
  unfold finishReq
  dsimp only
  refine Still.trans ?_ (still_endAll _ _)
  split
  · exact (still_putReq s _).trans (still_coll _ _)
  · exact still_putReq s _

theorem still_loseReq (s : State) (r : CReq) (code : Nat) : Still s (loseReq s r code) := by
  unfold loseReq
  split
  · exact Still.refl s
  · exact still_finishReq _ _ _

/-! ### Result chunks and their checks (R226, R227) -/

theorem still_holdResult (s : State) (x : CResult) : Still s (holdResult s x) := by
  unfold holdResult
  split <;> exact ⟨rfl, rfl, rfl⟩

theorem still_ownChunk (s : State) (r : CReq) (id : Nat) (held : Bool) (l : List Nat) (bs : List Byte) : Still s (ownChunk s r id held l bs) :=
  (still_holdResult s _).trans (still_foldl (fun _ _ => still_collMessage _ _ _ _ _ _) _ _)

theorem still_failActive (s : State) (num code : Nat) : Still s (failActive s num code) := by
  unfold failActive
  split
  · split
    · exact still_finishReq _ _ _
    · exact Still.refl s
  · exact Still.refl s

theorem still_compareCheck (s : State) (x : CResult) (crc : Nat) : Still s (compareCheck s x crc) := by
  unfold compareCheck
  split
  · dsimp only
    split
    · exact (still_coll s _).trans (still_collMessage _ _ _ _ _ _)
    · exact still_coll s _
  · exact (still_coll s _).trans ((still_chunkFail _ _ _ _ _ _).trans (still_failActive _ _ _))

theorem still_landedChunk (s : State) (r : CReq) (id owner : Nat) (bs : List Byte) : Still s (landedChunk s r id owner bs) := by
  unfold landedChunk
  dsimp only
  split
  · exact (still_holdResult s _).trans ((still_coll _ _).trans (still_compareCheck _ _ _))
  · exact still_holdResult s _

theorem still_takeEnded : ∀ (l : List (Nat × Nat × Nat × Nat × Nat)) (s : State), Still s (takeEnded l s)
  | [], s => Still.refl s
  | (slot, seq, code, delay, late) :: t, s => by
    unfold takeEnded
    split
    · exact still_takeEnded t s
    · next p _ =>
      have h1 : Still s { s with coll := { s.coll with purposes := s.coll.purposes.filter (fun q => q != p) } } := still_coll s _
      dsimp only
      split
      · exact h1.trans (still_takeEnded t _)
      · next r _ =>
        have h2 := h1.trans (still_putReq _ { r with delay := max r.delay delay, late := max r.late late })
        split
        · split
          · split
            · next he => exact (h2.trans (still_of_readSegs he)).trans ((still_landedChunk _ _ _ _ _).trans (still_takeEnded t _))
            · next he => exact (h2.trans (still_of_readSegs he)).trans ((still_flagAbort _ _ _).trans ((still_loseReq _ _ _).trans (still_takeEnded t _)))
          · exact h2.trans (still_takeEnded t _)
        · split
          · exact h2.trans (still_takeEnded t _)
          · refine h2.trans (Still.trans ?_ ((still_loseReq _ _ _).trans (still_takeEnded t _)))
            split
            · exact still_chunkFail _ _ _ _ _ _
            · exact Still.refl _

end Sys2Proof.Proofs

/-!
What the steps of a request leave alone (R84, R217 to R229): its input, its accumulators, its chunks, its start and its end.
-/
namespace Sys2Proof.Proofs
open Sys2Proof.Machine Sys2Proof.Safety

/-! ### A member's own input (R84, R224) -/

theorem stillM_inputCells (acc : Access) (r : CReq) (part e0 n : Nat) : StillM (inputCells acc r part e0 n) := by
  unfold inputCells
  refine (stillM_hopReadSegs _ _).andThen fun b => ?_
  split
  · exact stillM_ret _
  · exact stillM_hopGet _

theorem stillM_ownParts (acc : Access) (r : CReq) (c : Nat) : ∀ (l : List Nat) (x : CChunk), StillM (ownParts acc r c l x)
  | [], _ => stillM_ret _
  | _ :: t, _ => (stillM_inputCells _ _ _ _ _).andThen fun _ => stillM_ownParts acc r c t _

theorem still_takeAccs : ∀ (n : Nat) (s : State) (hoist : Nat) (got : List Nat), Still s (takeAccs n s hoist got).2
  | 0, s, _, _ => Still.refl s
  | n + 1, s, hoist, got => by
    have h := still_allocInternal s 4 (homeSeg s hoist)
    unfold takeAccs
    split
    · next he =>
      rw [he] at h
      exact Still.trans h (still_takeAccs n _ hoist _)
    · next s1 _ he =>
      rw [he] at h
      exact Still.trans h (still_releases _ _)

theorem stillM_prepChunk (acc : Access) (r : CReq) (level c : Nat) : StillM (prepChunk acc r level c) := by
  intro s
  have h := still_takeAccs ((accBytes r c + 0x3FFFFF) / 0x400000) s (c % 2) []
  unfold prepChunk
  split
  · exact Still.refl s
  · split
    · next he =>
      rw [he] at h
      exact h
    · next hs s1 he =>
      rw [he] at h
      split
      · exact Still.trans h ((still_releases _ _).trans (still_windowFail _ _ _ _ _ _ _))
      · have h2 := stillM_ownParts acc r c (List.range (ownCount r.grp)) { idx := c, ints := [], vals := [], count := 0, handles := hs } s1
        split
        · next he => rw [he] at h2; exact Still.trans h (Still.trans h2 (still_putReq _ _))
        · next he => rw [he] at h2; exact Still.trans h (Still.trans h2 (still_releases _ _))

theorem still_stopReq (s : State) (r : CReq) (code : Nat) : Still s (stopReq s r code).2 := by
  unfold stopReq
  split
  · exact Still.refl s
  · exact still_loseReq _ _ _

/-! ### FINISH (R93, R225) -/

theorem still_finishChunk (s : State) (r : CReq) (c : Nat) : Still s (finishChunk s r c).2 := by
  have hp := stillM_prepChunk (engineAccess s r.round c) r 0 c s
  unfold finishChunk
  dsimp only
  split
  · next he =>
    rw [he] at hp
    exact Still.trans hp (still_stopReq _ _ _)
  · next r1 s1 he =>
    rw [he] at hp
    split
    · exact hp
    · next x _ =>
      have hw := stillM_hopWriteSegs (engineAccess s r.round c) (resultSegs r1 c) 0 (finishBytes r1 x).1 s1
      split
      · next he => rw [he] at hw; exact Still.trans hp (Still.trans hw (still_stopReq _ _ _))
      · next s2 he =>
        rw [he] at hw
        refine Still.trans hp (Still.trans hw (Still.trans ?_ (still_ownChunk _ _ _ _ _ _)))
        refine Still.trans ?_ (still_releases _ _)
        refine Still.trans ?_ (still_putReq _ _)
        refine Still.trans ?_ (still_setN _ R.ARITH_OVF_CNT _)
        split
        · exact (still_setN s2 _ _).trans (still_raise _ _ _ _ _)
        · exact still_setN s2 _ _

theorem still_putGrid (s : State) (g : Grid) : Still s (putGrid s g) := still_coll s _

theorem still_holdGrid (s : State) (r : CReq) : Still s (holdGrid s r) := by
  unfold holdGrid
  dsimp only
  (repeat' split) <;> first | exact Still.refl s | exact still_putGrid s _

theorem still_noteMade (s : State) (a n : Nat) : Still s (noteMade s a n) := by
  unfold noteMade
  split <;> exact ⟨rfl, rfl, rfl⟩

theorem still_noteResult (s : State) (r : CReq) : Still s (noteResult s r) := by
  unfold noteResult
  dsimp only
  split
  · exact still_foldl (fun _ _ => still_noteMade _ _ _) _ s
  · split <;> exact ⟨rfl, rfl, rfl⟩

/-! ### The exchange (R221, R222) -/

theorem still_of_takeRec {s u : State} {group node : Nat} {b : List Byte} (h : takeRec s group node = some (b, u)) : Still s u := by
  unfold takeRec at h
  split at h
  · cases h
    exact still_coll s _
  · cases h

theorem still_gatherRecs : ∀ (l : List Xf) (s : State) (r : CReq), Still s (gatherRecs l s r).2
  | [], s, _ => Still.refl s
  | x :: t, s, r => by
    unfold gatherRecs
    dsimp only
    split
    · exact still_gatherRecs t s r
    · split
      · exact Still.refl s
      · next b s1 he =>
        refine (still_of_takeRec he).trans ?_
        split
        · exact (still_windowFail _ _ _ _ _ _ _).trans (still_finishReq _ _ _)
        · split
          · exact (still_windowFail _ _ _ _ _ _ _).trans (still_finishReq _ _ _)
          · exact still_gatherRecs t _ _

theorem still_runSteps (steps : List (List Xf)) : ∀ (n : Nat) (s : State) (r : CReq), Still s (runSteps steps n s r).2
  | 0, s, _ => Still.refl s
  | n + 1, s, r => by
    unfold runSteps
    split
    · exact Still.refl s
    · next xs _ =>
      have h1 : Still s (if r.next = 0 then (xs.filter (fun x => !x.send.isEmpty)).foldl (fun a x => sendArea a r x.peer (areaSend r x.send)) s else s) := by
        split
        · exact still_foldl (fun _ _ => still_sendArea _ _ _ _) _ s
        · exact Still.refl s
      have h2 := still_gatherRecs xs (if r.next = 0 then (xs.filter (fun x => !x.send.isEmpty)).foldl (fun a x => sendArea a r x.peer (areaSend r x.send)) s else s) { r with next := 1 }
      dsimp only
      split
      · next r1 s2 he =>
        rw [he] at h2
        exact Still.trans h1 (Still.trans h2 (still_runSteps steps n _ _))
      · exact h1.trans h2

theorem still_gatherCounts : ∀ (l : List Nat) (s : State) (r : CReq), Still s (gatherCounts l s r).2
  | [], s, _ => Still.refl s
  | i :: t, s, r => by
    unfold gatherCounts
    dsimp only
    split
    · exact still_gatherCounts t s r
    · split
      · exact Still.refl s
      · next he => exact (still_of_takeRec he).trans (still_gatherCounts t _ _)

theorem still_runExchange (s : State) (r : CReq) : Still s (runExchange s r).2 := by
  unfold runExchange
  split
  · exact Still.refl s
  · split
    · dsimp only
      refine Still.trans ?_ (still_gatherCounts _ _ _)
      split
      · exact still_foldl (fun _ _ => still_sendArea _ _ _ _) _ s
      · exact Still.refl s
    · exact still_runSteps _ _ _ _

theorem still_endExchange (s : State) (r : CReq) : Still s (endExchange s r) := by
  unfold endExchange
  dsimp only
  refine Still.trans ?_ (still_finishReq _ _ _)
  refine (still_hwWriteRange s r.dst r.area).trans ?_
  split <;> exact ⟨rfl, rfl, rfl⟩

/-! ### A request starts (R19, R221) -/

theorem still_notePhase (s : State) (round k : Nat) : Still s (notePhase s round k) := by
  unfold notePhase
  split <;> exact ⟨rfl, rfl, rfl⟩

theorem still_ownArea (s : State) (r : CReq) : Still s (ownArea s r).2 := by
  have h := still_hwReadRange s r.records 32
  unfold ownArea
  split
  · next he =>
    rw [he] at h
    exact h
  · next hd s1 he =>
    rw [he] at h
    have h2 := still_hwReadRange s1 r.records (32 + 2 * leAt hd 8 8)
    split <;> (next he => rw [he] at h2; exact Still.trans h h2)

theorem still_of_hwReadRange {s u : State} {a n : Nat} {b : Option (List Byte)} (h : hwReadRange s a n = (b, u)) : Still s u := by
  have hr := still_hwReadRange s a n
  rwa [h] at hr

theorem still_of_ownArea {s u : State} {r : CReq} {b : Option (List Byte)} (h : ownArea s r = (b, u)) : Still s u := by
  have hr := still_ownArea s r
  rwa [h] at hr

/-- What a request that starts has before it reads its area or its counts. -/
theorem still_startClear (s : State) (r : CReq) (b : Prop) [Decidable b] : Still s (if b then
      { s with coll := { s.coll with checks := s.coll.checks.filter (fun c => !(c.2.1 == r.group && c.2.2.1 == 0)) } } else s) := by
  split
  · exact still_coll s _
  · exact Still.refl s

theorem still_startReq (s : State) (r : CReq) : Still s (startReq s r) := by
  have h0 : Still s (if r.round = 0 then s else notePhase s r.round (if r.oper = 1 then 4 else 6)) := by
    split
    · exact Still.refl s
    · exact still_notePhase _ _ _
  unfold startReq
  generalize (if r.round = 0 then s else notePhase s r.round (if r.oper = 1 then 4 else 6)) = s0 at h0
  refine h0.trans ?_
  have h1 := still_startClear s0 r (r.round = 0 ∧ (isSum r.oper ∨ isCmp r.oper) ∧ s0.coll.active.all (fun x => x.group != r.group || x.num == r.num))
  dsimp only
  generalize (if r.round = 0 ∧ (isSum r.oper ∨ isCmp r.oper) ∧ s0.coll.active.all (fun x => x.group != r.group || x.num == r.num) then
      { s0 with coll := { s0.coll with checks := s0.coll.checks.filter (fun c => !(c.2.1 == r.group && c.2.2.1 == 0)) } } else s0) = s1 at h1 ⊢
  refine h1.trans ?_
  split
  · split
    · next he => exact (still_of_ownArea he).trans ((still_flagAbort _ _ _).trans (still_loseReq _ _ _))
    · next he =>
      refine (still_of_ownArea he).trans ?_
      split
      · exact (still_windowFail _ _ _ _ _ _ _).trans (still_finishReq _ _ _)
      · exact still_putReq _ _
  · split
    · split
      · next he => exact (still_of_hwReadRange he).trans ((still_flagAbort _ _ _).trans (still_loseReq _ _ _))
      · next he =>
        refine (still_of_hwReadRange he).trans ?_
        generalize (if reqInt r then 0 else reqS r) = sig
        split
        · exact (still_windowFail _ _ _ _ _ _ _).trans (still_finishReq _ _ _)
        · split
          · exact (still_windowFail _ _ _ _ _ _ _).trans (still_finishReq _ _ _)
          · exact still_putReq _ _
    · split
      · split
        · next he => exact (still_of_hwReadRange he).trans ((still_flagAbort _ _ _).trans (still_loseReq _ _ _))
        · next he => exact (still_of_hwReadRange he).trans (still_putReq _ _)
      · exact still_putReq _ _

/-! ### Own blocks and carrier tiles (R215, R219, R224) -/

theorem still_copyOwn (r : CReq) (x : Nat × Bool × List Nat) (s : State) : Still s (copyOwn r x s).2 := by
  have h : StillM ((hopReadSegs (engineAccess s r.round (chunkNum x.1)) (sourceSegs r x.1)).andThen fun b =>
      (if x.2.1 then hopWriteSegs (engineAccess s r.round (chunkNum x.1)) (resultSegs r x.1) 0 (sourceBytes r x.1 b) else .ret ()).andThen fun _ => .ret (sourceBytes r x.1 b)) := by
    refine (stillM_hopReadSegs _ _).andThen fun b => StillM.andThen ?_ fun _ => stillM_ret _
    split
    · exact stillM_hopWriteSegs _ _ _ _
    · exact stillM_ret _
  have h := h s
  unfold copyOwn
  dsimp only
  split
  · next he =>
    rw [he] at h
    exact Still.trans h (still_ownChunk _ _ _ _ _ _)
  · next he =>
    rw [he] at h
    exact Still.trans h (still_stopReq _ _ _)

theorem still_placeOwn : ∀ (l : List (Nat × Bool × List Nat)) (s : State) (r : CReq), Still s (placeOwn l s r).2
  | [], s, _ => Still.refl s
  | x :: t, s, r => by
    have h := still_copyOwn r x s
    unfold placeOwn
    split
    · next he =>
      rw [he] at h
      exact Still.trans h ((still_putReq _ _).trans (still_placeOwn t _ _))
    · exact h

theorem still_of_postTile {s u : State} {r : CReq} {j : TileJob} (h : postTile s r j = some u) : Still s u := by
  unfold postTile at h
  split at h
  · cases h
  · dsimp only at h
    split at h
    · cases h
    · split at h
      · cases h
      · cases h
        exact Still.trans (still_hwWrite s _ _) ⟨rfl, rfl, rfl⟩

theorem still_postTiles : ∀ (l : List TileJob) (s : State) (r : CReq), Still s (postTiles l s r).1
  | [], s, _ => Still.refl s
  | j :: t, s, r => by
    unfold postTiles
    dsimp only
    split
    · exact Still.refl s
    · split
      · exact Still.refl s
      · next he => exact (still_of_postTile he).trans (still_postTiles t _ _)

/-! ### The engine moves on -/

theorem still_advanceReq : ∀ (n : Nat) (s : State) (num : Nat), Still s (advanceReq n s num)
  | 0, s, _ => Still.refl s
  | n + 1, s, num => by
    unfold advanceReq
    split
    · exact Still.refl s
    · next r _ =>
      split
      · split
        · exact (still_startReq _ _).trans (still_advanceReq n _ _)
        · exact Still.refl s
      · split
        · have h := still_runExchange s r
          split
          · next he => rw [he] at h; exact h
          · next he => rw [he] at h; exact Still.trans h (still_putReq _ _)
          · next he =>
            rw [he] at h
            refine Still.trans h ?_
            split
            · exact still_endExchange _ _
            · dsimp only
              split
              · exact still_finishReq _ _ _
              · exact (still_putReq _ _).trans (still_advanceReq n _ _)
        · split
          · have h := still_placeOwn ((ownJobs r).drop r.placed) s r
            split
            · next he => rw [he] at h; exact h
            · next he => rw [he] at h; exact Still.trans h (still_putReq _ _)
            · next r1 s1 he =>
              rw [he] at h
              refine Still.trans h ?_
              dsimp only
              split
              · next c _ =>
                have hf := still_finishChunk s1 r1 c
                split
                · next he => rw [he] at hf; exact Still.trans hf ((still_putReq _ _).trans (still_advanceReq n _ _))
                · next he => rw [he] at hf; exact Still.trans hf (still_putReq _ _)
                · next he => rw [he] at hf; exact hf
              · split
                · exact (still_noteResult _ _).trans ((still_holdGrid _ _).trans (still_finishReq _ _ _))
                · split
                  · split
                    · exact Still.refl _
                    · refine Still.trans ?_ ((still_putReq _ _).trans (still_advanceReq n _ _))
                      exact still_dropChunks _ _
                  · have ht := still_postTiles ((stepTiles r1 (nthD [] ((planOf r1).1 ++ (planOf r1).2.2) r1.step)).drop r1.next) s1 r1
                    split
                    · exact ht.trans (still_putReq _ _)
                    · exact ht.trans ((still_putReq _ _).trans (still_advanceReq n _ _))
          · exact Still.refl s

theorem still_collAdvance (s : State) : Still s (collAdvance s) := by
  unfold collAdvance
  split
  · exact still_coll s _
  · dsimp only
    exact ((still_coll s _).trans (still_takeEnded _ _)).trans ((still_foldl (fun a n => still_advanceReq 4096 a n) _ _).trans (still_endAll _ _))

end Sys2Proof.Proofs

/-!
What frames taken in at the ports leave alone, and which of them wait there afterwards (R188, R189, R206).
-/
namespace Sys2Proof.Proofs
open Sys2Proof.Machine Sys2Proof.Safety

/-! ### Frames taken in at the ports (R188, R189, R206) -/

theorem still_takeCells : ∀ (n : Nat) (s : State) (hoist : Nat) (got : List Nat), Still s (takeCells n s hoist got).2
  | 0, s, _, _ => Still.refl s
  | n + 1, s, hoist, got => by
    have h : Still s (allocBuf s 0 hoist 1).2 := still_allocFrom _ _ _ _ s
    unfold takeCells
    split
    · next he =>
      rw [he] at h
      exact Still.trans h (still_takeCells n _ hoist _)
    · next he =>
      rw [he] at h
      exact Still.trans h (still_releases _ _)

theorem still_mirWrite (s : State) (rec : List Byte) : Still s (mirWrite s rec) := by
  have hput (a : State) (k v : Nat) (addr : Nat) : Still a (setN (hwWriteAs 7 a addr rec) k v) := (still_hwWriteAs _ _ _ _).trans (still_setN _ _ _)
  have h0 : Still s { s with sw := { s.sw with recSeq := (s.sw.recSeq + 1) % 2 ^ 32 } } := ⟨rfl, rfl, rfl⟩
  unfold mirWrite
  dsimp only
  split
  · split
    · exact h0.trans ((still_event _ _ _).trans ((still_setN _ R.MIR_HEAD _).trans (hput _ R.MIR_TAIL _ _)))
    · exact h0.trans ((still_event _ _ _).trans ((still_bump _ _).trans (still_event _ _ _)))
  · exact h0.trans (hput _ R.MIR_TAIL _ _)

theorem still_mirror (s : State) (p dir cls len fate : Nat) (stream : Option Nat) (head : List Byte) : Still s (mirror s p dir cls len fate stream head) := by
  unfold mirror
  dsimp only
  split
  · exact Still.refl s
  · have h1 (n : Nat) : Still s { s with sw := { s.sw with sample := n } } := ⟨rfl, rfl, rfl⟩
    split
    · exact (h1 _).trans (still_mirWrite _ _)
    · split
      · exact (h1 _).trans (still_mirWrite _ _)
      · split
        · exact (h1 _).trans (still_mirWrite _ _)
        · exact h1 _

theorem still_dropPartial (s : State) (x : Partial) : Still s (dropPartial s x) := ⟨rfl, rfl, rfl⟩

theorem still_dropCells (s : State) (l : List Nat) : Still s (dropCells s l) := still_releases l s

theorem still_addLanded (s : State) (l : Landed) : Still s (addLanded s l) := ⟨rfl, rfl, rfl⟩

theorem still_xferBad (s : State) (x : Partial) : Still s (xferBad s x) := by
  have h1 := (still_dropCells s x.cells).trans (still_bump _ R.SW_XFER_BAD)
  have h2 : Still s (mirrorXfer (bump (dropCells s x.cells) R.SW_XFER_BAD) x.port x.byte x.len x.head) := by
    unfold mirrorXfer
    split
    · exact h1.trans (still_mirWrite _ _)
    · exact h1
  unfold xferBad
  dsimp only
  split
  · exact h2.trans (still_addLanded _ _)
  · exact h2

theorem still_noteGrant (s : State) (port node stream : Nat) : Still s (noteGrant s port node stream) := by
  unfold noteGrant
  split
  · exact ⟨rfl, rfl, rfl⟩
  · split
    · exact still_bump _ _
    · exact Still.refl s

theorem still_fillBuffer (s : State) (h : Nat) (coded : Bool) (rawLen : Nat) (bs : List Byte) : Still s (fillBuffer s h coded rawLen bs) := by
  unfold fillBuffer
  split
  · refine still_foldl (fun a p => ?_) _ s
    split
    · exact still_hwWriteAs _ _ _ _
    · exact Still.refl a
  · exact still_hwWriteAs _ _ _ _

theorem still_countIn (s : State) (l : List (Nat × Nat)) : Still s (countIn s l) := by
  unfold countIn
  refine still_foldl (fun a e => ?_) l s
  exact ⟨rfl, rfl, rfl⟩

theorem still_tryLand (s : State) (x : Partial) : Still s (tryLand s x) := by
  have h := still_allocInternal s 2 (homeSeg s (portHoist x.port))
  unfold tryLand
  split
  · next b s1 he =>
    rw [he] at h
    dsimp only
    refine Still.trans h ((still_fillBuffer s1 b x.coded x.rawLen x.bytes).trans ?_)
    refine Still.trans ?_ ((still_dropPartial _ x).trans ((still_dropCells _ _).trans ((still_addLanded _ _).trans (still_noteGrant _ _ _ _))))
    split
    · exact still_countIn _ _
    · exact Still.refl _
  · next he =>
    rw [he] at h
    exact h
  · next he =>
    rw [he] at h
    split
    · exact Still.trans h ((still_dropPartial _ x).trans ((still_dropCells _ _).trans (still_bump _ _)))
    · exact h

theorem still_finishPartial (s : State) (x : Partial) : Still s (finishPartial s x) := by
  unfold finishPartial
  generalize (if x.typ = 1 then 8192 else 65536) = most
  split
  · exact (still_dropPartial s x).trans (still_xferBad _ _)
  · split
    · refine Still.trans ?_ (still_tryLand _ _)
      exact ⟨rfl, rfl, rfl⟩
    · exact (still_dropPartial s x).trans ((still_dropCells _ _).trans (still_emit _ _))

/-- What becomes of a frame once its transfer is found, as it stands there. -/
def joinRest (h : XHdr) (payload : List Byte) (cells : List Nat) (head : List Byte) (again : Bool) (s1 : State) (cur : Partial) : State :=
  let seen (x : Partial) : Partial := { x with head := sliceBytes head 0 64, len := 32 + payload.length, byte := classByte h }
  if cur.next ≠ h.frag then
    dropCells { s1 with sw := { s1.sw with partials := s1.sw.partials ++ [{ seen cur with next := if again then cur.next else 8 }] } } cells
  else
    let x := { seen cur with next := h.frag + 1, bytes := cur.bytes ++ payload, cells := cur.cells ++ cells }
    let s2 := { s1 with sw := { s1.sw with partials := s1.sw.partials ++ [x] } }
    if h.last then finishPartial s2 x else s2

theorem still_joinRest (h : XHdr) (payload : List Byte) (cells : List Nat) (head : List Byte) (again : Bool) (s1 : State) (cur : Partial) :
    Still s1 (joinRest h payload cells head again s1 cur) := by
  have h2 (l : List Partial) : Still s1 { s1 with sw := { s1.sw with partials := l } } := ⟨rfl, rfl, rfl⟩
  unfold joinRest
  dsimp only
  split
  · exact (h2 _).trans (still_dropCells _ _)
  · split
    · exact (h2 _).trans (still_finishPartial _ _)
    · exact h2 _

theorem still_joinFrame (s : State) (p : Nat) (h : XHdr) (payload : List Byte) (cells : List Nat) (head : List Byte) : Still s (joinFrame s p h payload cells head) := by
  have hrest (s1 : State) (cur : Partial) (h1 : Still s s1) (again : Bool) := h1.trans (still_joinRest h payload cells head again s1 cur)
  unfold joinFrame
  split
  · exact (still_dropCells s cells).trans ⟨rfl, rfl, rfl⟩
  · dsimp only
    split
    · next x _ =>
      by_cases hx : x.seq = h.seq
      · rw [if_pos hx]
        exact hrest (dropPartial s x) x (still_dropPartial s x) _
      · rw [if_neg hx]
        exact hrest (xferBad (dropPartial s x) x) _ ((still_dropPartial s x).trans (still_xferBad _ _)) _
    · exact hrest s _ (Still.refl s) _

theorem still_redDrops (s : State) (colour q : Nat) : Still s (redDrops s colour q).2 := by
  unfold redDrops
  dsimp only
  split
  · exact Still.refl s
  · split
    · exact Still.refl s
    · exact ⟨rfl, rfl, rfl⟩

/-! ### Frames that wait at the ports -/

/-- Every frame at the door has its header. -/
def HeadersAtDoor (s : State) : Prop := ∀ d ∈ s.sw.door, d.hdr ≠ []

theorem HeadersAtDoor.still {s u : State} (h : HeadersAtDoor s) (hs : Still s u) : HeadersAtDoor u := by
  rw [HeadersAtDoor, hs.door]
  exact h

theorem headersAtDoor_atDoor {s : State} (hs : HeadersAtDoor s) (p colour : Nat) (h : XHdr) (payload head : List Byte) : HeadersAtDoor (atDoor s p colour h payload head) := by
  intro d hd
  rcases List.mem_append.1 hd with hd | hd
  · exact hs d hd
  · rw [List.mem_singleton.1 hd]
    simp [xhdrBytes, bytesBE, bytesLE]

theorem headersAtDoor_takeFrame {s : State} (hs : HeadersAtDoor s) (p colour : Nat) (h : XHdr) (payload head : List Byte) :
    HeadersAtDoor (takeFrame s p colour false h payload head) := by
  have hdrop {a : State} (ha : HeadersAtDoor a) (n : Nat) (o : Option Nat) : HeadersAtDoor (mirror a p 0 (classByte h) n 1 o head) := ha.still (still_mirror _ _ _ _ _ _ _ _)
  have hshort {a : State} (ha : HeadersAtDoor a) (n : Nat) (o : Option Nat) :
      HeadersAtDoor (if h.cls = 7 then mirror (bump a R.SW_TAIL_DROP) p 0 (classByte h) n 1 o head else atDoor a p colour h payload head) := by
    split
    · exact hdrop (ha.still (still_bump _ _)) _ _
    · exact headersAtDoor_atDoor ha _ _ _ _ _
  have hred : HeadersAtDoor (if h.cls = 7 then redDrops s colour (ingressC7 s p) else (false, s)).2 := by
    split
    · exact hs.still (still_redDrops _ _ _)
    · exact hs
  unfold takeFrame
  dsimp only
  rw [if_neg (by decide)]
  generalize (if h.typ = 0 then some h.stream else none) = strm
  generalize (if h.cls = 7 then redDrops s colour (ingressC7 s p) else (false, s)) = r at hred ⊢
  obtain ⟨red, s1⟩ := r
  by_cases hd : doorShut s p h.cls = true
  · rw [if_pos hd]
    exact headersAtDoor_atDoor hs _ _ _ _ _
  · rw [if_neg hd]
    by_cases hx : h.cls = 7 ∧ underXoff s (portHoist p) = true
    · rw [if_pos hx]
      exact hshort hs _ _
    · rw [if_neg hx]
      by_cases hr : red = true
      · rw [if_pos hr]
        exact hdrop (hred.still (still_bump _ _)) _ _
      · rw [if_neg hr]
        by_cases hf : freeCells s1 (portHoist p) < cellsOf payload.length + if h.cls ≤ 3 then 0 else cellRsv s1
        · rw [if_pos hf]
          exact hshort hred _ _
        · rw [if_neg hf]
          have ht := still_takeCells (cellsOf payload.length) s1 (portHoist p) []
          split
          · next he => rw [he] at ht; exact (hred.still ht).still ((still_mirror _ _ _ _ _ _ _ _).trans (still_joinFrame _ _ _ _ _ _))
          · next he => rw [he] at ht; exact hshort (hred.still ht) _ _

/-- The frames at the door try again: nothing happens, or those that wait then have their headers. -/
theorem doorSettle_cases (s : State) : doorSettle s = s ∨ HeadersAtDoor (doorSettle s) := by
  unfold doorSettle
  split
  · right
    have h (l : List DoorFrame) : ∀ a, HeadersAtDoor a → HeadersAtDoor (l.foldl (fun a d => takeFrame a d.port d.colour false (parseXhdr d.hdr) d.payload d.head) a) := by
      induction l with
      | nil => exact fun _ h => h
      | cons d t ih => exact fun _ h => ih _ (headersAtDoor_takeFrame h _ _ _ _ _)
    exact h _ _ (fun _ hd => absurd hd (List.not_mem_nil))
  · exact .inl rfl

end Sys2Proof.Proofs

/-!
What ends a command, from its last step back (R23, R27, R333, R348, R376, R433): a step that takes effect leaves a mark on the state.
-/
namespace Sys2Proof.Proofs
open Sys2Proof.Machine Sys2Proof.Safety

/-! ### Resets (R376, R377, R411) -/

theorem keptFlt_wireLatch (s : State) (b seen : Nat) : KeptFlt s (wireLatch s b seen) :=
  ((KeptFlt.ofIrq (keptIrq_of_onlyRegs (onlyRegs_setN s _ _))).trans (KeptFlt.ofIrq (KeptIrq.event _ _ _))).trans (KeptFlt.raise _ _ _ _ _)

theorem keptFlt_relatch (s : State) : KeptFlt s (relatch s) := by
  refine foldl_related (r := KeptFlt) (KeptFlt.refl) (fun _ _ _ => KeptFlt.trans) (fun a b => ?_) _ s
  split
  · exact keptFlt_wireLatch a b 0
  · exact KeptFlt.refl a

theorem site_setStep (s : State) (k : Nat) : (setStep s k).site = s.site := (keptIrq_of_onlyRegs (onlyRegs_setR s _ _)).site

theorem site_haltAt (s : State) (k : Nat) : (haltAt s k).site = s.site := by
  rw [haltAt, modPwr]
  exact site_setStep s k

theorem site_fullReset {s : State} (h : s.pwr.halted = false) (cause : Nat) (core : Option Nat) : (fullReset s cause core).site = {} := by
  have hk : (relatch (afterReset s cause core)).site = {} := by
    rw [(keptFlt_relatch _).site, afterReset]
  have hn : ¬(s.pwr.halted && cause != 1) = true := by rw [h, Bool.false_and]; exact Bool.false_ne_true
  rw [fullReset, if_neg hn]
  generalize relatch (afterReset s cause core) = a at hk ⊢
  dsimp only
  split
  · exact (site_haltAt a 1).trans hk
  · split
    · exact (site_haltAt a 2).trans hk
    · exact (site_setStep a 3).trans hk

/-- A CHIP_RESET leaves no swaps; without one nothing but the order changes. -/
theorem takeChipReset_cases (s : State) : (takeChipReset s).site = {} ∨ takeChipReset s = { s with flt := (takeChipReset s).flt } := by
  unfold takeChipReset
  split
  · exact .inr rfl
  · split
    · exact .inr rfl
    · next h => exact .inl (site_fullReset (by rw [setN_pwr]; exact Bool.eq_false_iff.2 h) _ _)

theorem takeBlockResets_cases : ∀ (n : Nat) (s : State), takeBlockResets n s = s ∨ ∃ a p, takeBlockResets n s = blockResetReaction a p
  | 0, s => .inl rfl
  | n + 1, s => by
    unfold takeBlockResets
    split
    · exact .inl rfl
    · next p rest _ =>
      rcases takeBlockResets_cases n (blockResetReaction { s with flt := { s.flt with blockResets := rest } } p) with h | h
      · exact .inr ⟨_, p, h⟩
      · exact .inr h

/-! ### Records without a log (R375) -/

/-- No region of the table in force is a fault log. -/
def NoLog (s : State) : Prop := ∀ x ∈ regionsNow s, x.2.kind ≠ 6

theorem NoLog.of_regn {s u : State} (h : NoLog s) (hr : u.regn = s.regn) : NoLog u := by
  rw [NoLog, regionsNow, hr]
  exact h

theorem regionOf_mem {l : List (Nat × Region)} {a : Nat} {x : Nat × Region} (h : regionOf l a = some x) : x ∈ l := by
  induction l with
  | nil => exact nomatch h
  | cons y t ih =>
    unfold regionOf at h
    split at h
    · exact Option.some.inj h ▸ List.mem_cons_self
    · exact List.mem_cons_of_mem _ (ih h)

theorem logRing_of_noLog {s : State} (h : NoLog s) : logRing s = none := by
  unfold logRing
  dsimp only
  split
  · next i r hr => exact if_neg (h _ (regionOf_mem hr))
  · rfl

theorem logRecord_of_noLog {s : State} (h : NoLog s) (src kind : Nat) (b : List Byte) :
    (∀ w, (logRecord s src kind b).1 ≠ .ue w) ∧ (∀ w, (logRecord s src kind b).1 ≠ .ce w) ∧ (logRecord s src kind b).2.mem = s.mem := by
  have hr (f : FltSt) : logRing { s with flt := f } = none := logRing_of_noLog (h.of_regn rfl)
  unfold logRecord
  dsimp only
  rw [hr, ite_self]
  split
  · exact ⟨fun _ => nofun, fun _ => nofun, rfl⟩
  · split
    · exact ⟨fun _ => nofun, fun _ => nofun, event_mem _ _ _⟩
    · exact ⟨fun _ => nofun, fun _ => nofun, rfl⟩

/-- Without a log a record is noted, and nothing else. -/
theorem raise_of_noLog {s : State} (h : NoLog s) (src kind ctx addr : Nat) : raise s src kind ctx addr = s ∨
    ∃ b, raise s src kind ctx addr = noteRecord (logRecord s src kind b).2 src (kindSev kind) kind ctx addr := by
  unfold raise raiseN
  split
  · exact .inl rfl
  · obtain ⟨hue, hce, -⟩ := logRecord_of_noLog h src kind (recordBytes src (kindSev kind) kind ctx s.tick.now addr)
    refine .inr ⟨recordBytes src (kindSev kind) kind ctx s.tick.now addr, ?_⟩
    dsimp only
    split
    · next w he => exact absurd he (hue w)
    · next w he => exact absurd he (hce w)
    · rfl

theorem mem_raise_of_noLog {s : State} (h : NoLog s) (src kind ctx addr : Nat) : (raise s src kind ctx addr).mem = s.mem := by
  rcases raise_of_noLog h src kind ctx addr with e | ⟨b, e⟩
  · rw [e]
  · rw [e, noteRecord_mem, (logRecord_of_noLog h src kind b).2.2]

theorem getR_raise_of_noLog {s : State} (h : NoLog s) (src kind ctx addr : Nat) {j : Nat} (h1 : pageOf j ≠ 0x80) (h2 : pageOf j ≠ 0x81) :
    getR (raise s src kind ctx addr) j = getR s j := by
  rcases raise_of_noLog h src kind ctx addr with e | ⟨b, e⟩
  · rw [e]
  · rw [e, getR_noteRecord _ _ _ _ _ _ h1 h2, getR_logRecord _ _ _ _ h1 h2]

/-! ### BLOCK_RESET (R297, R376) -/

/-- The pages that an erasure event writes: the line cipher's, and those of the interrupt controller and of the faults. -/
def erasurePages : List Nat := [0x68, 0x80, 0x81]

theorem regsKept_cipherEvent (s : State) (k : Nat) : RegsKept s (event s pgLCIPH k) [] erasurePages :=
  regsKept_mono (regsKept_event_page s (page := pgLCIPH) k (by decide)) (by decide) (by decide)

theorem regsKept_cipherSet (s : State) {k : Nat} (v : Nat) (hk : pageOf k = 0x68) : RegsKept s (setN s k v) [] erasurePages :=
  regsKept_mono (regsKept_set hk) (by decide) (by decide)

theorem lciphDone_leaves (s : State) (code : Nat) : RegsKept s (lciphDone s code) [] erasurePages ∧ (lciphDone s code).regn = s.regn := by
  rw [lciphDone, result]
  exact ⟨regsKept_trans (regsKept_cipherSet s _ (by decide)) (regsKept_cipherEvent _ 6), event_regn _ _ _⟩

theorem dropKeys_leaves (s : State) (p : Nat → Bool) : RegsKept s (dropKeys s p) [] erasurePages ∧ (dropKeys s p).regn = s.regn := by
  have hsame {u : State} (h : u.regs = s.regs) (hr : u.regn = s.regn) : RegsKept s u [] erasurePages ∧ u.regn = s.regn := ⟨regsKept_of_regs h _ _, hr⟩
  have hdone {u : State} (h : u.regs = s.regs) (hr : u.regn = s.regn) : RegsKept s (lciphDone u cPOLICY) [] erasurePages ∧ (lciphDone u cPOLICY).regn = s.regn :=
    ⟨regsKept_trans (regsKept_of_regs h _ _) (lciphDone_leaves u cPOLICY).1, (lciphDone_leaves u cPOLICY).2.trans hr⟩
  unfold dropKeys
  dsimp only
  split
  · split
    · exact hdone rfl rfl
    · exact hsame rfl rfl
  · exact hsame rfl rfl

theorem putLine_leaves (s : State) (md : Nat) (m : LineMod) : (putLine s md m).regs = s.regs ∧ (putLine s md m).regn = s.regn := ⟨rfl, rfl⟩

theorem pmDefect_leaves (s : State) (md : Nat) : (pmDefect s md).regs = s.regs ∧ (pmDefect s md).regn = s.regn := putLine_leaves s md _

theorem noteKeyless_leaves (s : State) : (noteKeyless s).regs = s.regs ∧ (noteKeyless s).regn = s.regn := by
  have hstep (a : State) (md : Nat) : (if inRun a (pgLFRM md) && keylessDefect a md then pmDefect a md else a).regs = a.regs ∧
      (if inRun a (pgLFRM md) && keylessDefect a md then pmDefect a md else a).regn = a.regn := by
    split
    · exact pmDefect_leaves a md
    · exact ⟨rfl, rfl⟩
  have hfold (l : List Nat) : ∀ a : State, (l.foldl (fun a md => if inRun a (pgLFRM md) && keylessDefect a md then pmDefect a md else a) a).regs = a.regs ∧
      (l.foldl (fun a md => if inRun a (pgLFRM md) && keylessDefect a md then pmDefect a md else a) a).regn = a.regn := by
    induction l with
    | nil => exact fun _ => ⟨rfl, rfl⟩
    | cons md t ih => exact fun a => ⟨(ih _).1.trans (hstep a md).1, (ih _).2.trans (hstep a md).2⟩
  exact hfold _ s

/-- The registers of an erasure event, before its fault. -/
def erasureNoted (s : State) (cause : Nat) : State := setN (bump (event (noteKeyless s) pgLCIPH 4) R.LCIPH_ERASURES) R.LCIPH_ERASE_CAUSE cause

theorem erasureNoted_leaves (s : State) (cause : Nat) : RegsKept s (erasureNoted s cause) [] erasurePages ∧ (erasureNoted s cause).regn = s.regn := by
  obtain ⟨hregs, hregn⟩ := noteKeyless_leaves s
  refine ⟨?_, (event_regn (noteKeyless s) pgLCIPH 4).trans hregn⟩
  exact regsKept_trans (regsKept_of_regs hregs _ _) <| regsKept_trans (regsKept_cipherEvent _ 4) <|
    regsKept_trans (regsKept_cipherSet _ _ (by decide)) (regsKept_cipherSet _ _ (by decide))

theorem regsKept_noteErasure {s : State} (h : NoLog s) (cause : Nat) : RegsKept s (noteErasure s cause) [] erasurePages := by
  obtain ⟨hkept, hregn⟩ := erasureNoted_leaves s cause
  intro j hj hp
  rw [← hkept j hj hp, noteErasure]
  exact getR_raise_of_noLog (h.of_regn hregn) _ _ _ _ (fun e => hp (by rw [e]; decide)) (fun e => hp (by rw [e]; decide))

theorem regn_noteErasure (s : State) (cause : Nat) : (noteErasure s cause).regn = s.regn :=
  (KeptFlt.raise (erasureNoted s cause) pgLCIPH fKEY_ERASED (cause % 256) 0).regn.trans (erasureNoted_leaves s cause).2

/-- An erasure leaves the state of every block but the line cipher's. -/
theorem blkState_eraseModule {s : State} {md : Nat} (h : NoLog (eraseModule s md)) {page : Nat} (hp : pageOf (hdr page oSTAT) ∉ erasurePages) :
    blkState (eraseModule s md) page = blkState s page := by
  obtain ⟨hkept, hregn⟩ := dropKeys_leaves s (fun k => k / 16 == md)
  have hlog : NoLog (dropKeys s (fun k => k / 16 == md)) := h.of_regn (regn_noteErasure _ (2 ^ (4 + md))).symm
  rw [blkState, blkState, fld, fld]
  exact congrArg (bitsOf · 2 0) (regN_of_kept (regsKept_trans hkept (regsKept_noteErasure hlog _)) (List.not_mem_nil) hp)

/-- A page that took a BLOCK_RESET is in FAULT. -/
theorem blkState_blockResetReaction (s : State) (page : Nat) (h : NoLog (blockResetReaction s page)) : blkState (blockResetReaction s page) page = bFAULT := by
  have hset (a : State) : blkState (setBlk a page bFAULT) page = bFAULT := fld_setFld_self _ _ _ _ _ (by decide) (by decide)
  unfold blockResetReaction at h ⊢
  dsimp only at h ⊢
  split at h
  · next hr =>
    rw [if_pos hr, blkState_eraseModule h ?_, hset]
    obtain rfl | rfl : page = 0x60 ∨ page = 0x61 := by simpa using (Bool.and_eq_true_iff.1 hr).2
    · decide
    · decide
  · next hr => rw [if_neg hr, hset]

theorem takeBlockResets_quiet {n : Nat} {s : State} (h : NoLog (takeBlockResets n s)) (hb : ∀ p, blkState (takeBlockResets n s) p ≠ bFAULT) :
    takeBlockResets n s = s := by
  rcases takeBlockResets_cases n s with e | ⟨a, p, e⟩
  · exact e
  · rw [e] at h hb
    exact absurd (blkState_blockResetReaction a p h) (hb p)

end Sys2Proof.Proofs

/-!
Marks (R23, R27, R333, R348, R433): the steps that follow a command, taken from the last one back. A step that acts leaves a mark on the
state; a state without marks was left by steps that wrote no storage.
-/
namespace Sys2Proof.Proofs
open Sys2Proof.Machine Sys2Proof.Safety

/-- A state that shows no mark of work done at a command's end: no job, no round, no mirrored chunk, no record of the line, no move of power, yet swaps of a
proposal and a frame without header at the door, and no fault log. -/
structure Unmarked (s : State) : Prop where
  held : s.job.held = false
  phase : s.job.phase = 0
  aborts : s.job.aborts = 0
  swaps : s.site.swaps ≠ []
  chunks : s.hlth.mirChunks = []
  door : ¬HeadersAtDoor s
  mods : s.line.mods = []
  parked : s.pwr.parked = false
  move : s.pwr.move = none
  log : NoLog s

/-- Storage, the engine, and all that marks show stay as they were. -/
structure Quiet (s u : State) : Prop where
  mem : u.mem = s.mem
  coll : u.coll = s.coll
  regn : u.regn = s.regn
  job : u.job = s.job
  line : u.line = s.line
  pwr : u.pwr = s.pwr
  swaps : u.site.swaps = s.site.swaps
  chunks : u.hlth.mirChunks = s.hlth.mirChunks
  door : u.sw.door = s.sw.door

theorem Quiet.refl (s : State) : Quiet s s := ⟨rfl, rfl, rfl, rfl, rfl, rfl, rfl, rfl, rfl⟩

theorem Quiet.trans {s u v : State} (h : Quiet s u) (g : Quiet u v) : Quiet s v :=
  ⟨g.mem.trans h.mem, g.coll.trans h.coll, g.regn.trans h.regn, g.job.trans h.job, g.line.trans h.line, g.pwr.trans h.pwr, g.swaps.trans h.swaps,
    g.chunks.trans h.chunks, g.door.trans h.door⟩

theorem quiet_of_irq {s u : State} (h : KeptIrq s u) : Quiet s u :=
  ⟨h.mem, h.coll, h.regn, h.job, h.line, h.pwr, by rw [h.site], by rw [h.hlth], by rw [h.sw]⟩

theorem Quiet.foldl {α : Type} {f : State → α → State} (hf : ∀ s x, Quiet s (f s x)) (l : List α) (s : State) : Quiet s (l.foldl f s) :=
  foldl_related (r := Quiet) Quiet.refl (fun _ _ _ h g => h.trans g) hf l s

theorem Unmarked.back {s u : State} (h : Unmarked u) (q : Quiet s u) : Unmarked s :=
  ⟨q.job ▸ h.held, q.job ▸ h.phase, q.job ▸ h.aborts, q.swaps ▸ h.swaps, q.chunks ▸ h.chunks, fun hd => h.door (by rw [HeadersAtDoor, q.door]; exact hd),
    q.line ▸ h.mods, q.pwr ▸ h.parked, q.pwr ▸ h.move, h.log.of_regn q.regn.symm⟩

/-! ### Resets, the states of power, the job's end (R31, R376, R377, R433) -/

theorem takeChipReset_quiet {s : State} (h : Unmarked (takeChipReset s)) : Quiet s (takeChipReset s) := by
  rcases takeChipReset_cases s with e | e
  · exact absurd (by rw [e]) h.swaps
  · rw [e]
    exact ⟨rfl, rfl, rfl, rfl, rfl, rfl, rfl, rfl, rfl⟩

theorem parkSettle_quiet {s : State} (h : Unmarked (parkSettle s)) : Quiet s (parkSettle s) := by
  have hp := h.parked
  unfold parkSettle at hp ⊢
  split at hp
  · exact nomatch hp
  · next hn =>
    rw [if_neg hn]
    exact Quiet.refl s

theorem pwr_drainOp (s : State) (page : Nat) (hp : page ≠ 0x60 ∧ page ≠ 0x61) : (drainOp s page).pwr = s.pwr := by
  have hb (a : State) : (drainBegins a page).pwr = a.pwr := by
    unfold drainBegins
    split
    · rfl
    · rw [if_neg (by simp [hp.1, hp.2])]
  unfold drainOp
  split
  · rfl
  · dsimp only
    split
    · exact hb _
    · split <;> rfl

theorem move_moveBegins {s : State} (h : s.pwr.state = 0) (tgt : Nat) : (moveBegins s tgt).pwr.move = some tgt := by
  unfold moveBegins
  dsimp only
  rw [if_pos h, pwr_drainOp _ _ (by decide), pwr_drainOp _ _ (by decide)]
  rfl

theorem expelSettle_quiet {s : State} (h : Unmarked (expelSettle s)) : Quiet s (expelSettle s) := by
  have hm := h.move
  unfold expelSettle at hm ⊢
  split
  · next ha =>
    rw [if_pos ha] at hm
    dsimp only at hm ⊢
    split
    · next hs =>
      rw [if_pos hs] at hm
      exact absurd ((move_moveBegins (s := { s with hlth := { s.hlth with toP1 := false } }) hs 1).symm.trans hm) (Option.some_ne_none 1)
    · exact ⟨rfl, rfl, rfl, rfl, rfl, rfl, rfl, rfl, rfl⟩
  · exact Quiet.refl s

theorem site_endJob (s : State) : (endJob s).site = {} := by
  rw [endJob, (keptIrq_of_onlyRegs (onlyRegs_foldl_reset _ _)).site]

theorem jobEndSettle_quiet {s : State} (h : Unmarked (jobEndSettle s)) : Quiet s (jobEndSettle s) := by
  have hs := h.swaps
  unfold jobEndSettle at hs ⊢
  split at hs
  · exact absurd (by rw [site_endJob]) hs
  · next hn =>
    rw [if_neg hn]
    exact Quiet.refl s

theorem job_outerGate (s : State) (b : Bool) : (outerGate s b).job = s.job := (keptIrq_of_onlyRegs (onlyRegs_setR s _ _)).job

theorem job_notices (s : State) (b : Bool) (kind : MsgKind) (cls round code : Nat) (fields : List Nat) :
    (postNotice (jobNotice (outerGate s b) kind cls round fields) code round).job = s.job :=
  (keptIrq_postNotice _ _ _).job.trans (job_outerGate s b)

/-- The end of a push leaves the job, which a state without marks has not. -/
theorem pushSettle_quiet {s : State} (h : Unmarked (pushSettle s)) : Quiet s (pushSettle s) := by
  have hh := h.held
  have hjob (n : Nat) (fields : List Nat) := job_notices s false .pushDone 1 n 3 fields
  unfold pushSettle at hh ⊢
  dsimp only at hh ⊢
  split at hh
  · next ha =>
    rw [if_pos ha]
    split at hh
    · split at hh
      · next hp =>
        rw [if_pos hp]
        exact Quiet.refl s
      · exact absurd (((congrArg JobSt.held (hjob _ _)).symm.trans hh).symm.trans ha.1) Bool.false_ne_true
    · exact Quiet.refl s
  · next hn =>
    rw [if_neg hn]
    exact Quiet.refl s

/-! ### Commits and fetches (R22, R333) -/

theorem phase_commitRound (s : State) (n delay : Nat) : (commitRound s n delay).job.phase = 8 := by
  have hp (a : State) : (protStart a n).job = a.job := by
    unfold protStart
    split <;> rfl
  rw [commitRound, hp]

theorem commitSettle_quiet {s : State} (h : Unmarked (commitSettle s)) : Quiet s (commitSettle s) := by
  have hp := h.phase
  unfold commitSettle at hp ⊢
  split
  · next n t hd =>
    simp only [hd] at hp
    split
    · exact Quiet.refl s
    · next hn =>
      rw [if_neg hn, phase_commitRound] at hp
      exact absurd hp (by decide)
  · exact Quiet.refl s

theorem phase_takeRound (s : State) (c : Nat) : (takeRound s c).job.phase = 8 := rfl

theorem fetchSettle_quiet {s : State} (h : Unmarked (fetchSettle s)) : Quiet s (fetchSettle s) := by
  have hp := h.phase
  unfold fetchSettle at hp ⊢
  split
  · next f hf =>
    simp only [hf] at hp
    split
    · next hw =>
      rw [if_pos hw, phase_takeRound] at hp
      exact absurd hp (by decide)
    · exact Quiet.refl s
  · exact Quiet.refl s

/-! ### Views and agreement (R326, R328, R329) -/

/-- The job is as it was, or a round has committed. -/
def JobOrEight (s u : State) : Prop := u.job = s.job ∨ u.job.phase = 8

theorem JobOrEight.refl (s : State) : JobOrEight s s := .inl rfl

theorem JobOrEight.trans {s u v : State} (h : JobOrEight s u) (g : JobOrEight u v) : JobOrEight s v := by
  rcases g with g | g
  · rw [JobOrEight, g]
    exact h
  · exact .inr g

theorem jobOrEight_sent {s u : State} (h : OnlySent s u) : JobOrEight s u := .inl (by rw [h])

theorem jobOrEight_modSite (s : State) (f : SiteSt → SiteSt) : JobOrEight s (modSite s f) := .inl rfl

theorem jobOrEight_commitTry (s : State) (n delay : Nat) : JobOrEight s (commitTry s n delay) := by
  unfold commitTry
  split
  · exact JobOrEight.refl s
  · split
    · exact jobOrEight_modSite s _
    · exact .inr (phase_commitRound s n delay)

theorem jobOrEight_guidonCommit (s : State) (t : SiteTab) (n delay : Nat) : JobOrEight s (guidonCommit s t n delay) :=
  (jobOrEight_sent (onlySent_siteTell s t .commit [n, siteEpoch s])).trans (jobOrEight_commitTry _ n delay)

theorem jobOrEight_judgeAccepts (s : State) (t : SiteTab) : JobOrEight s (judgeAccepts s t) := by
  unfold judgeAccepts
  split
  · dsimp only
    split
    · exact JobOrEight.refl s
    · split
      · exact jobOrEight_guidonCommit _ _ _ _
      · split
        · exact jobOrEight_guidonCommit _ _ _ _
        · exact JobOrEight.refl s
  · exact JobOrEight.refl s

theorem job_modSite (s : State) (f : SiteSt → SiteSt) : (modSite s f).job = s.job := rfl

theorem job_holdAccepted (s : State) (n e d : Nat) : (holdAccepted s n e d).job = s.job := by
  exact (job_modSite _ _).trans (keptIrq_of_onlyRegs ((onlyRegs_set64 s _ _ _).trans (onlyRegs_setR _ _ _))).job

theorem jobOrEight_doAccept (s : State) (t : SiteTab) (n e d : Nat) : JobOrEight s (doAccept s t n e d) := by
  have hold : JobOrEight s (holdAccepted s n e d) := .inl (job_holdAccepted s n e d)
  have told := jobOrEight_sent (onlySent_siteTell (holdAccepted s n e d) t .accept [n, e, d])
  unfold doAccept
  split
  · exact JobOrEight.refl s
  · exact (hold.trans (told.trans ((jobOrEight_modSite _ _).trans (jobOrEight_sent (onlySent_sendAll _ _ _ _ _))))).trans (jobOrEight_judgeAccepts _ _)

theorem onlySent_sendJoin (s : State) (t : SiteTab) (e : Nat) : OnlySent s (sendJoin s t e) := by
  unfold sendJoin
  split
  · exact onlySent_siteSend _ _ _ _ _
  · rfl

theorem jobOrEight_makePromise (s : State) (t : SiteTab) (p : Bool × Nat × Nat × Nat) : JobOrEight s (makePromise s t p) := by
  unfold makePromise
  dsimp only
  split
  · split
    · exact jobOrEight_doAccept _ _ _ _ _
    · exact jobOrEight_sent (onlySent_sendJoin s t p.2.1)
  · exact (jobOrEight_modSite s _).trans (jobOrEight_sent (onlySent_emit _ _))

theorem jobOrEight_offersDiffer (s : State) (t : SiteTab) (n e d : Nat) : JobOrEight s (offersDiffer s t n e d) :=
  JobOrEight.trans (u := modSite (bump s R.SITE_DIGEST_BAD) (fun x => { x with offerAt := none })) (.inl rfl) (jobOrEight_sent (onlySent_sendAll _ _ _ _ _))

theorem jobOrEight_judgeOffers (s : State) (t : SiteTab) : JobOrEight s (judgeOffers s t) := by
  unfold judgeOffers
  dsimp only
  split
  · exact JobOrEight.refl s
  · split
    · split
      · exact JobOrEight.refl s
      · split
        · exact jobOrEight_offersDiffer _ _ _ _ _
        · split
          · exact (jobOrEight_modSite s _).trans (jobOrEight_makePromise _ _ _)
          · exact JobOrEight.refl s
    · exact JobOrEight.refl s

theorem jobOrEight_readyOp (s : State) (n e shard d : Nat) : JobOrEight s (readyOp s n e shard d) := by
  unfold readyOp
  split
  · split
    · exact JobOrEight.refl s
    · dsimp only
      split
      · exact jobOrEight_modSite s _
      · refine JobOrEight.trans ?_ (jobOrEight_judgeOffers _ _)
        refine JobOrEight.trans ?_ (jobOrEight_sent (onlySent_sendAll _ _ _ _ _))
        exact .inl rfl
  · exact JobOrEight.refl s

theorem Unmarked.no_jobOrEight {s u : State} (h : Unmarked u) (hj : JobOrEight s u) : s.job.held = false ∧ s.job.phase = 0 := by
  rcases hj with e | e
  · rw [← e]
    exact ⟨h.held, h.phase⟩
  · exact absurd (e.symm.trans h.phase) (by decide)

/-- A READY is sent with a job, which stays, or its round commits. -/
theorem readySettle_quiet {s : State} (h : Unmarked (readySettle s)) : Quiet s (readySettle s) := by
  have hk : JobOrEight { s with job := { s.job with readySent := true } } (readySettle s) ∨ readySettle s = s := by
    unfold readySettle
    dsimp only
    split
    · exact .inr rfl
    · split
      · split
        · exact .inr rfl
        · split
          · exact .inl (jobOrEight_readyOp _ _ _ _ _)
          · exact .inl (jobOrEight_sent (onlySent_emit _ _))
      · exact .inr rfl
  rcases hk with hk | hk
  · have hn := (h.no_jobOrEight hk).1
    have hs : readySettle s = s := by
      unfold readySettle
      exact if_pos (by rw [show s.job.held = false from hn]; rfl)
    rw [hs]
    exact Quiet.refl s
  · rw [hk]
    exact Quiet.refl s

theorem job_makePromise_join (s : State) (t : SiteTab) (q : Nat × Nat × Nat) : (makePromise s t (false, q)).job = s.job := by
  unfold makePromise
  dsimp only
  split
  · rw [if_neg Bool.false_ne_true, onlySent_sendJoin s t q.1]
  · rfl

theorem job_proposeOp (s : State) (t : SiteTab) (e view : Nat) : (proposeOp s t e view).job = s.job := by
  unfold proposeOp joinEpoch
  dsimp only
  split
  · rfl
  · split
    · rfl
    · exact (job_makePromise_join _ t (e, 0, 0)).trans rfl

/-- Swaps that a try to commit leaves, unless it commits. -/
theorem swaps_commitTry (s : State) (n delay : Nat) : (commitTry s n delay).site.swaps = s.site.swaps ∨ (commitTry s n delay).job.phase = 8 := by
  unfold commitTry
  split
  · exact .inl rfl
  · split
    · exact .inl rfl
    · exact .inr (phase_commitRound s n delay)

theorem swaps_guidonCommit (s : State) (t : SiteTab) (n delay : Nat) :
    (guidonCommit s t n delay).site.swaps = s.site.swaps ∨ (guidonCommit s t n delay).job.phase = 8 := by
  have hs : (siteTell s t .commit [n, siteEpoch s]).site.swaps = s.site.swaps := by rw [onlySent_siteTell s t .commit [n, siteEpoch s]]
  rw [← hs]
  exact swaps_commitTry _ n delay

/-- A view that takes effect leaves no swaps, or commits a round. -/
theorem viewNow_marks (s : State) (t : SiteTab) (v : ViewMsg) : (viewNow s t v).site.swaps = [] ∨ (viewNow s t v).job.phase = 8 := by
  unfold viewNow
  dsimp only
  generalize h7 : setSite _ sMEMBER = s7
  have hs : s7.site.swaps = [] := by
    rw [← h7, (setSite_leaves _ _).1]
    rfl
  rw [← hs]
  split
  · split
    · exact .inl rfl
    · generalize (if isGuidon s7 = true then _ else _ : Bool) = own
      split
      · split
        · exact swaps_guidonCommit _ _ _ _
        · exact swaps_commitTry _ _ _
      · exact .inl (by rw [(setSite_leaves _ _).1])
  · exact .inl rfl

theorem held_of_siteTab {s : State} {t : SiteTab} (h : siteTab s = some t) : s.job.held = true := by
  by_contra hn
  rw [siteTab, if_neg hn] at h
  exact nomatch h

/-- A view that waited finds a job, which stays, or it takes effect. -/
theorem viewSettle_quiet {s : State} (h : Unmarked (viewSettle s)) : Quiet s (viewSettle s) := by
  have hk : viewSettle s = s ∨ (s.job.held = true ∧ ((viewSettle s).job = s.job ∨ (viewSettle s).site.swaps = [] ∨ (viewSettle s).job.phase = 8)) := by
    unfold viewSettle
    split
    · exact .inl rfl
    · next t ht =>
      dsimp only
      split
      · exact .inl rfl
      · refine .inr ⟨held_of_siteTab ht, ?_⟩
        have hlater (a : State) (ha : a.job = s.job) : let u := match a.site.later with
            | some v => if v.epoch ≤ siteEpoch a then modSite a (fun x => { x with later := none }) else viewNow a t v
            | none => a
            u.job = s.job ∨ u.site.swaps = [] ∨ u.job.phase = 8 := by
          dsimp only
          split
          · split
            · exact .inl ha
            · exact .inr (viewNow_marks _ _ _)
          · exact .inl ha
        refine hlater _ ?_
        split
        · exact (job_proposeOp _ _ _ _).trans rfl
        · rfl
  rcases hk with e | ⟨hh, e | e | e⟩
  · rw [e]
    exact Quiet.refl s
  · exact absurd (h.held.symm.trans ((congrArg JobSt.held e).trans hh)) Bool.false_ne_true
  · exact absurd e h.swaps
  · exact absurd (e.symm.trans h.phase) (by decide)

/-! ### Copies to the partner, cells and frames (R189, R344) -/

theorem foldl_ne_nil {α β : Type} {f : State → α → State} {g : State → List β} (hf : ∀ s x, g (f s x) ≠ []) {l : List α} (hl : l ≠ []) (s : State) : g (l.foldl f s) ≠ [] := by
  obtain ⟨t, x, rfl⟩ := List.eq_nil_or_concat l |>.resolve_left hl
  rw [List.concat_eq_append, List.foldl_append]
  exact hf _ x

/-- The partner's copies are noted: none was sent, or the book of them is not empty. -/
theorem mirrorChunks_cases (s : State) (n : Nat) : mirrorChunks s n = s ∨ (mirrorChunks s n).hlth.mirChunks ≠ [] := by
  unfold mirrorChunks
  dsimp only
  by_cases hl : s.coll.results.filter (fun x => x.round == n && x.acked && x.held && !s.hlth.mirChunks.contains (x.num, x.chunk)) = []
  · rw [hl]
    exact .inl rfl
  · exact .inr (foldl_ne_nil (g := fun s => s.hlth.mirChunks) (fun _ _ => by simp) hl s)

theorem mirrorSettle_quiet {s : State} (h : Unmarked (mirrorSettle s)) : Quiet s (mirrorSettle s) := by
  have hc := h.chunks
  unfold mirrorSettle at hc ⊢
  split
  · next ha =>
    rw [if_pos ha] at hc
    rcases mirrorChunks_cases s s.job.round with e | e
    · rw [e]
      exact Quiet.refl s
    · exact absurd hc e
  · exact Quiet.refl s

theorem quiet_pauseOne (p : Nat) (s : State) (k : Nat) : Quiet s (pauseOne p s k) := by
  unfold pauseOne
  dsimp only
  split
  · exact Quiet.refl s
  · exact ⟨rfl, rfl, rfl, rfl, rfl, rfl, rfl, rfl, rfl⟩

theorem quiet_switch {s u : State} (h : Quiet s u) {w : SwSt} (hd : w.door = u.sw.door) : Quiet s { u with sw := w } :=
  ⟨h.mem, h.coll, h.regn, h.job, h.line, h.pwr, h.swaps, h.chunks, hd.trans h.door⟩

theorem quiet_cellSettle (s : State) : Quiet s (cellSettle s) := by
  unfold cellSettle
  split
  · dsimp only
    refine Quiet.trans ?_ (Quiet.foldl (fun a p => Quiet.foldl (fun b k => quiet_pauseOne p b k) _ a) _ _)
    exact quiet_switch ((quiet_of_irq (KeptIrq.eventIf s _ _ _)).trans (quiet_of_irq (KeptIrq.eventIf _ _ _ _))) rfl
  · exact Quiet.refl s

theorem doorSettle_quiet {s : State} (h : Unmarked (doorSettle s)) : Quiet s (doorSettle s) := by
  rcases doorSettle_cases s with e | e
  · rw [e]
    exact Quiet.refl s
  · exact absurd e h.door

end Sys2Proof.Proofs

/-!
The line, the optics and the rebuild of words at a command's end (R164, R231, R270, R273, R274, R312): what they write, where no fault log stands.
-/
namespace Sys2Proof.Proofs
open Sys2Proof.Machine Sys2Proof.Safety

/-! ### The records of the line's modules -/

/-- A step leaves the state as it was, or a record of a module. -/
def Records (s u : State) : Prop := u.line.mods = [] → u = s

theorem Records.refl (s : State) : Records s s := fun _ => rfl

theorem Records.trans {s u v : State} (h : Records s u) (g : Records u v) : Records s v := fun hv => by
  obtain rfl := g hv
  exact h hv

theorem records_foldl {α : Type} {f : State → α → State} (hf : ∀ s x, Records s (f s x)) (l : List α) (s : State) : Records s (l.foldl f s) :=
  foldl_related (r := Records) Records.refl (fun _ _ _ h g => h.trans g) hf l s

theorem records_of_some {s u : State} (h : u.line.mods ≠ []) : Records s u := fun hu => absurd hu h

theorem setAt_ne_nil {α : Type} (d : α) (l : List α) (i : Nat) (v : α) : setAt d l i v ≠ [] := by
  unfold setAt
  split <;> exact List.cons_ne_nil _ _

theorem mods_putLine (s : State) (md : Nat) (m : LineMod) : (putLine s md m).line.mods ≠ [] := setAt_ne_nil _ _ _ _

theorem mods_putCtx (s : State) (md dir : Nat) (c : LineCtx) : (putCtx s md dir c).line.mods ≠ [] := mods_putLine s md _

theorem mods_pmNote (s : State) (md : Nat) (f : PmSec → PmSec) : (pmNote s md f).line.mods ≠ [] := mods_putLine s md _

theorem records_freezeCtx (md : Nat) (s : State) (dir : Nat) : Records s (freezeCtx md s dir) := by
  unfold freezeCtx
  dsimp only
  split
  · exact Records.refl s
  · split
    · exact records_of_some (mods_putCtx _ _ _ _)
    · exact records_of_some (mods_putCtx _ _ _ _)

theorem records_abandonLoad (md dir : Nat) (s : State) (l : LineLoad) : Records s (abandonLoad md dir s l) := by
  refine records_of_some ?_
  rw [abandonLoad, raise_line, event_line]
  exact mods_pmNote _ _ _

theorem still_writePieces (s : State) (a : Nat) (bs : List Byte) : Still s (writePieces s a bs) := still_foldl (fun _ _ => still_hwWriteAs 4 _ _ _) _ s

/-- A load that is held, or that waits to be, leaves the records of the modules there. -/
theorem mods_holdLoad {s : State} (h : s.line.mods ≠ []) (md dir num first : Nat) (bytes : List Byte) : (holdLoad s md dir num first bytes).2.line.mods ≠ [] := by
  have halloc := still_allocInternal s 3 (homeSeg s md)
  have hput (a : State) (dir : Nat) (c : LineCtx) (k : Nat) : (writePieces (putCtx a md dir c) k bytes).line.mods ≠ [] := by
    rw [(still_writePieces _ _ _).mods]
    exact mods_putCtx _ _ _ _
  unfold holdLoad
  dsimp only
  split
  · exact hput _ _ _ _
  · split
    · exact h
    · split
      · exact hput _ _ _ _
      · next he =>
        rw [he] at halloc
        exact halloc.mods ▸ h
      · next he =>
        rw [he] at halloc
        dsimp only
        split
        · exact halloc.mods ▸ h
        · exact mods_putCtx _ _ _ _

theorem records_askAgain (md : Nat) (s : State) (dir : Nat) : Records s (askAgain md s dir) := by
  have hkeep (l : List (Nat × Nat × List Byte)) (f : State → Nat × Nat × List Byte → Bool) : ∀ a : State, a.line.mods ≠ [] →
      (l.foldl (fun a x => if f a x then (holdLoad a md dir x.1 x.2.1 x.2.2).2 else a) a).line.mods ≠ [] := by
    induction l with
    | nil => exact fun _ h => h
    | cons x t ih =>
      intro a h
      refine ih _ ?_
      dsimp only
      split
      · exact mods_holdLoad h _ _ _ _ _
      · exact h
  unfold askAgain
  dsimp only
  by_cases hl : (lineCtx s md dir).asking = []
  · rw [hl]
    exact Records.refl s
  · refine records_of_some ?_
    rw [if_neg (by simpa using hl)]
    exact hkeep _ _ _ (mods_putCtx _ _ _ _)

/-- A step at every delivery context in turn. -/
def eachCtx (f : Nat → State → Nat → State) (a : State) : State := (List.range 2).foldl (fun b md => (List.range 4).foldl (f md) b) a

theorem records_eachCtx {f : Nat → State → Nat → State} (hf : ∀ md a dir, Records a (f md a dir)) (a : State) : Records a (eachCtx f a) :=
  records_foldl (fun b md => records_foldl (hf md) _ b) _ a

/-- The line's list of entries found broken is empty again. -/
def unbroken (s : State) : State := { s with line := { s.line with broken := [] } }

theorem mods_unbroken (s : State) : (unbroken s).line.mods = s.line.mods := rfl

/-- The line's work at a command's end: freezes and loads abandoned, then loads asked for again. -/
theorem lineSettle_steps (s : State) : lineSettle s = s ∨ ∃ a, Records s a ∧ (lineSettle s = unbroken a ∨ lineSettle s = eachCtx askAgain (unbroken a)) := by
  have hfrozen : Records s (eachCtx (fun md a dir => (brokenLoads a md dir s.line.broken).foldl (abandonLoad md dir) a) (eachCtx freezeCtx s)) :=
    (records_eachCtx records_freezeCtx s).trans (records_eachCtx (fun md a _ => records_foldl (records_abandonLoad md _) _ a) _)
  unfold lineSettle
  split
  · exact .inl rfl
  · refine .inr ⟨_, hfrozen, ?_⟩
    unfold eachCtx
    generalize List.range 2 = modules, List.range 4 = dirs
    dsimp only
    split
    · exact .inr rfl
    · exact .inl rfl

/-- The line's work leaves a record of a module, or at most drops its list of broken entries. -/
theorem lineSettle_cases {s : State} (h : (lineSettle s).line.mods = []) : lineSettle s = s ∨ lineSettle s = unbroken s := by
  rcases lineSettle_steps s with e | ⟨a, ha, e | e⟩
  · exact .inl e
  · rw [e] at h ⊢
    exact .inr (congrArg unbroken (ha ((mods_unbroken a).symm.trans h)))
  · rw [e] at h ⊢
    have hask := records_eachCtx records_askAgain _ h
    rw [hask] at h ⊢
    exact .inr (congrArg unbroken (ha ((mods_unbroken a).symm.trans h)))

/-! ### Aborts (R231) -/

theorem still_notice (s : State) (code round : Nat) : Still s (postNotice s code round) := still_of_irq (keptIrq_postNotice s code round)

theorem aborts_abortRound (s : State) (n : Nat) (holds : Bool) : (abortRound s n holds).job.aborts ≠ 0 := by
  have hif {c : Prop} [Decidable c] {a u : State} (h : Still a u) : Still a (if c then u else a) := by
    split
    · exact h
    · exact Still.refl a
  unfold abortRound
  dsimp only
  generalize abortSteps s n = a
  generalize decide (fld a R.COLL_REPLAY_MAX 3 0 ≤ a.job.aborts + 1) = limit
  generalize h4 : ({ a with job := { a.job with aborts := a.job.aborts + 1, holding := a.job.holding || holds || limit } } : State) = s4
  have hc : s4.job.aborts ≠ 0 := by
    rw [← h4]
    exact Nat.succ_ne_zero _
  have h5 : Still s4 (if fld s R.SITE_STATE 2 0 = 2 then s4 else postNotice (jobNotice s4 .roundAborted 1 n [cABORTED]) 2 n) := by
    split
    · exact Still.refl s4
    · exact (still_emit s4 _).trans (still_notice _ _ _)
  generalize (if fld s R.SITE_STATE 2 0 = 2 then s4 else postNotice (jobNotice s4 .roundAborted 1 n [cABORTED]) 2 n) = s5 at h5 ⊢
  have h6 : Still s5 (if limit then raise s5 pgCOLL fREPLAY_LIMIT 0 n else s5) := hif (still_raise s5 pgCOLL fREPLAY_LIMIT 0 n)
  generalize (if limit then raise s5 pgCOLL fREPLAY_LIMIT 0 n else s5) = s6 at h6 ⊢
  have h7 : Still s6 (if holds || limit then postNotice s6 9 n else s6) := hif (still_notice s6 9 n)
  generalize (if holds || limit then postNotice s6 9 n else s6) = s7 at h7 ⊢
  have h8 : Still s7 (if s.job.phase = 8 then stopApply s7 else s7) := hif ⟨rfl, rfl, rfl⟩
  rw [(h5.trans (h6.trans (h7.trans h8))).aborts]
  exact hc

/-- An abort counts. -/
theorem abortSettle_cases {s : State} (h : (abortSettle s).job.aborts = 0) : abortSettle s = s := by
  unfold abortSettle at h ⊢
  split
  · next n holds hd =>
    simp only [hd] at h
    exact absurd h (aborts_abortRound s n holds)
  · rfl

/-! ### The rebuild of words, and pennants (R164, R312) -/

/-- Registers, the collector, interrupts and health counts aside, storage and all but what a fault record touches stay as they were. -/
def Unwritten (s u : State) : Prop := u.regn = s.regn ∧ u.coll = s.coll ∧ u.line = s.line ∧ (NoLog s → u.mem = s.mem)

theorem Unwritten.refl (s : State) : Unwritten s s := ⟨rfl, rfl, rfl, fun _ => rfl⟩

theorem Unwritten.trans {s u v : State} (h : Unwritten s u) (g : Unwritten u v) : Unwritten s v := by
  obtain ⟨hr, hc, hl, hm⟩ := h
  obtain ⟨gr, gc, gl, gm⟩ := g
  exact ⟨gr.trans hr, gc.trans hc, gl.trans hl, fun hn => (gm (hn.of_regn hr)).trans (hm hn)⟩

theorem unwritten_foldl {α : Type} {f : State → α → State} (hf : ∀ s x, Unwritten s (f s x)) (l : List α) (s : State) : Unwritten s (l.foldl f s) :=
  foldl_related (r := Unwritten) Unwritten.refl (fun _ _ _ h g => h.trans g) hf l s

theorem unwritten_irq {s u : State} (h : KeptIrq s u) : Unwritten s u := ⟨h.regn, h.coll, h.line, fun _ => h.mem⟩

theorem unwritten_regs {s u : State} (h : OnlyRegs s u) : Unwritten s u := unwritten_irq (keptIrq_of_onlyRegs h)

theorem unwritten_raise (s : State) (src kind ctx addr : Nat) : Unwritten s (raise s src kind ctx addr) :=
  ⟨raise_regn _ _ _ _ _, raise_coll _ _ _ _ _, raise_line _ _ _ _ _, fun h => mem_raise_of_noLog h _ _ _ _⟩

theorem unwritten_eccClear (s : State) (w : Nat) : Unwritten s (eccClear s w) := ⟨rfl, rfl, rfl, fun _ => rfl⟩

theorem unwritten_brokenSettle (s : State) : Unwritten s (brokenSettle s) := by
  have hdrop : Unwritten s { s with hlth := { s.hlth with broken := [] } } := ⟨rfl, rfl, rfl, fun _ => rfl⟩
  unfold brokenSettle
  dsimp only
  split
  · exact Unwritten.refl s
  · split
    · exact hdrop
    · have hclear := hdrop.trans ((unwritten_foldl unwritten_eccClear s.hlth.broken _).trans (unwritten_irq (KeptIrq.event _ pgHLT 4)))
      split
      · exact hclear.trans (unwritten_raise _ _ _ _ _)
      · exact hclear

theorem unwritten_putOcu (s : State) (md : Nat) (m : OcuMod) : Unwritten s (putOcu s md m) := ⟨rfl, rfl, rfl, fun _ => rfl⟩

theorem unwritten_setOcState (s : State) (md st : Nat) : Unwritten s (setOcState s md st) := unwritten_regs (onlyRegs_setR s _ _)

theorem unwritten_goDark (s : State) (md : Nat) : Unwritten s (goDark s md) := by
  unfold goDark
  dsimp only
  refine Unwritten.trans ?_ (unwritten_irq (KeptIrq.eventIf _ _ _ _))
  exact (unwritten_putOcu s md _).trans ((unwritten_setOcState _ md ocDARK).trans (unwritten_regs (onlyRegs_setR _ _ _)))

theorem unwritten_chargeDir (md check : Nat) (s : State) (dir : Nat) : Unwritten s (chargeDir md check s dir) := by
  unfold chargeDir
  dsimp only
  split
  · exact (unwritten_putOcu s md _).trans ((unwritten_regs (onlyRegs_setR _ _ _)).trans ((unwritten_irq (KeptIrq.event _ pgOCU 3)).trans (unwritten_raise _ _ _ _ _)))
  · exact unwritten_putOcu s md _

theorem unwritten_attemptFails (s : State) (md check : Nat) (all : Bool) : Unwritten s (attemptFails s md check all) := by
  have hfold (l : List Nat) : Unwritten s (l.foldl (chargeDir md check) (bump (goDark s md) (keyB R.OCU_ACQ_FAIL md))) :=
    (unwritten_goDark s md).trans ((unwritten_regs (onlyRegs_setR _ _ _)).trans (unwritten_foldl (unwritten_chargeDir md check) l _))
  have hend {a : State} (h : Unwritten s a) :
      Unwritten s (if fld a (ocKey md) 19 16 = 15 then setOcState a md ocFAILED else putOcu a md { ocuMod a md with again := true }) := by
    split
    · exact h.trans (unwritten_setOcState _ _ _)
    · exact h.trans (unwritten_putOcu _ _ _)
  exact hend (hfold _)

theorem unwritten_mismatch (s : State) (md : Nat) : Unwritten s (mismatch s md 2) := by
  unfold mismatch
  dsimp only
  rw [if_pos rfl]
  exact ((unwritten_regs (onlyRegs_setR _ _ _)).trans (unwritten_irq (KeptIrq.event _ pgOCU 2))).trans (unwritten_attemptFails _ _ _ _)

theorem unwritten_ocuSettle (s : State) : Unwritten s (ocuSettle s) := by
  refine unwritten_foldl (fun a md => ?_) _ s
  split
  · exact unwritten_mismatch a md
  · exact Unwritten.refl a

/-! ### The whole of a command's end -/

/-- With nothing active the engine only forgets the tiles that ended. -/
theorem collAdvance_idle {s : State} (h : s.coll.active = []) : (collAdvance s).mem = s.mem ∧ (collAdvance s).regn = s.regn := by
  unfold collAdvance
  rw [if_pos (by rw [h]; rfl)]
  exact ⟨rfl, rfl⟩

/-- The first half of what follows a command, where nothing is active: without marks, no storage was written. -/
theorem mem_engineSettle {s : State} (ha : s.coll.active = [])
    (h : Unmarked (collAdvance (abortSettle (brokenSettle (lineSettle (ocuSettle s)))))) :
    (collAdvance (abortSettle (brokenSettle (lineSettle (ocuSettle s))))).mem = s.mem := by
  have hstill := still_collAdvance (abortSettle (brokenSettle (lineSettle (ocuSettle s))))
  have habort : abortSettle (brokenSettle (lineSettle (ocuSettle s))) = brokenSettle (lineSettle (ocuSettle s)) :=
    abortSettle_cases (hstill.aborts ▸ h.aborts)
  rw [habort] at hstill h ⊢
  obtain ⟨hocuR, hocuC, -, hocuM⟩ := unwritten_ocuSettle s
  obtain ⟨hbrkR, hbrkC, hbrkL, hbrkM⟩ := unwritten_brokenSettle (lineSettle (ocuSettle s))
  have hmods : (lineSettle (ocuSettle s)).line.mods = [] := by
    rw [← hbrkL, ← hstill.mods]
    exact h.mods
  have hline : Unwritten (ocuSettle s) { lineSettle (ocuSettle s) with line := (ocuSettle s).line } := by
    rcases lineSettle_cases hmods with e | e <;> rw [e] <;> exact ⟨rfl, rfl, rfl, fun _ => rfl⟩
  obtain ⟨hlinR, hlinC, -, hlinM⟩ := hline
  have hidle : (brokenSettle (lineSettle (ocuSettle s))).coll.active = [] := by
    rw [hbrkC, show (lineSettle (ocuSettle s)).coll = (ocuSettle s).coll from hlinC, hocuC, ha]
  obtain ⟨hcolM, hcolR⟩ := collAdvance_idle hidle
  have hlogL : NoLog (lineSettle (ocuSettle s)) := h.log.of_regn (hbrkR.symm.trans hcolR.symm)
  have hlogO : NoLog (ocuSettle s) := hlogL.of_regn hlinR.symm
  calc (collAdvance (brokenSettle (lineSettle (ocuSettle s)))).mem
      = (lineSettle (ocuSettle s)).mem := hcolM.trans (hbrkM hlogL)
    _ = (ocuSettle s).mem := hlinM hlogO
    _ = s.mem := hocuM (hlogO.of_regn hocuR.symm)

/-- The second half: reactions apart, a state without marks was left by steps that wrote no storage. -/
theorem quiet_roundSettle {e : State} (h : Unmarked (parkSettle (expelSettle (jobEndSettle (pushSettle (viewSettle (fetchSettle (commitSettle (readySettle (mirrorSettle
    (cellSettle (doorSettle e)))))))))))) :
    Quiet e (parkSettle (expelSettle (jobEndSettle (pushSettle (viewSettle (fetchSettle (commitSettle (readySettle (mirrorSettle (cellSettle (doorSettle e))))))))))) := by
  have park := parkSettle_quiet h
  have h := h.back park
  have expel := expelSettle_quiet h
  have h := h.back expel
  have jobEnd := jobEndSettle_quiet h
  have h := h.back jobEnd
  have push := pushSettle_quiet h
  have h := h.back push
  have view := viewSettle_quiet h
  have h := h.back view
  have fetch := fetchSettle_quiet h
  have h := h.back fetch
  have commit := commitSettle_quiet h
  have h := h.back commit
  have ready := readySettle_quiet h
  have h := h.back ready
  have copies := mirrorSettle_quiet h
  have h := h.back copies
  have cells := quiet_cellSettle (doorSettle e)
  have door := doorSettle_quiet (h.back cells)
  exact door.trans (cells.trans (copies.trans (ready.trans (commit.trans (fetch.trans (view.trans (push.trans (jobEnd.trans (expel.trans park)))))))))

theorem blkState_takeChipReset {s : State} (h : Unmarked (takeChipReset s)) (p : Nat) : blkState (takeChipReset s) p = blkState s p := by
  rcases takeChipReset_cases s with e | e
  · exact absurd (by rw [e]) h.swaps
  · rw [e]
    rfl

/-- Where nothing is active and no block is in FAULT, what follows a command leaves a mark or writes no storage. -/
theorem mem_settle {s : State} (ha : s.coll.active = []) (h : Unmarked (settle s)) (hb : ∀ p, blkState (settle s) p ≠ bFAULT) : (settle s).mem = s.mem := by
  unfold settle at h hb ⊢
  by_cases hc : calm s = true
  · rw [if_pos hc]
  · rw [if_neg hc] at h hb ⊢
    unfold settleWork at h hb ⊢
    dsimp only at h hb ⊢
    have chip := takeChipReset_quiet h
    have hb := fun p => blkState_takeChipReset h p ▸ hb p
    have h := h.back chip
    have blocks := takeBlockResets_quiet h.log hb
    rw [chip.mem, blocks]
    rw [blocks] at h
    have round := quiet_roundSettle h
    exact round.mem.trans (mem_engineSettle ha (h.back round))

/-- So it is of the whole end of a command. -/
theorem mem_finish {q : List Instr} {s : State} (ha : s.coll.active = []) (h : Unmarked (finish q s)) (hb : ∀ p, blkState (finish q s) p ≠ bFAULT) :
    (finish q s).mem = s.mem :=
  mem_settle ha ⟨h.held, h.phase, h.aborts, h.swaps, h.chunks, h.door, h.mods, h.parked, h.move, h.log⟩ hb

end Sys2Proof.Proofs

/-!
An EXCHANGE where storage is not in order: its cells lie at keys that do not rise, a state that no run reaches (R53, R219, R221).
-/
namespace Sys2Proof.Proofs
open Sys2Proof.Machine Sys2Proof.Safety

/-! ### Blocks at reset (R13, R401) -/

theorem regRow_stat {page : Nat} {r : RegRow} (h : regRow (hdr page oSTAT) = some r) : r.reset ≤ 2 := by
  have hoff : hdr page oSTAT % bankBase % 0x1000 = oSTAT := by
    rw [hdr, bankBase, oSTAT]
    omega
  have hbool (b : Bool) : ofBool b * 2 ≤ 2 := by cases b <;> decide
  unfold regRow at h
  dsimp only at h
  rw [hoff] at h
  split at h
  · rw [if_pos (by decide)] at h
    rw [← Option.some.inj h]
    exact hbool _
  · exact nomatch h

/-- No block is in FAULT at reset. -/
theorem resetOf_stat (page : Nat) : resetOf (hdr page oSTAT) ≤ 2 := by
  have hne {k : Nat} (hk : k % 0x1000 ≠ oSTAT) : hdr page oSTAT % bankBase ≠ k := by
    intro e
    apply hk
    rw [← e, hdr, bankBase, oSTAT]
    omega
  unfold resetOf
  dsimp only
  rw [if_neg (hne (by decide)), if_neg (hne (by decide)), if_neg (hne (by decide)), if_neg (hne (by decide)), if_neg (hne (by decide)), if_neg (hne (by decide)),
    if_neg (hne (by decide)), if_neg (hne (by decide))]
  split
  · next r hr => exact regRow_stat hr
  · exact Nat.zero_le 2

/-- No block is in FAULT where no state listed says so. -/
theorem blkState_ne_fault {s : State} (h : s.regs.all (fun e => e.1 % 0x1000 != oSTAT || e.2.toNat % 8 != bFAULT) = true) (p : Nat) : blkState s p ≠ bFAULT := by
  have hoff : hdr p oSTAT % 0x1000 = oSTAT := by
    rw [hdr, oSTAT]
    omega
  have hreg : regN s (hdr p oSTAT) % 8 ≠ bFAULT := by
    rw [regN, getR]
    split
    · next v hv =>
      have hx := List.all_eq_true.1 h _ (mem_of_mapFind hv)
      simpa [hoff] using hx
    · have hle := resetOf_stat p
      rw [BitVec.toNat_ofNat, bFAULT]
      omega
  rw [blkState, fld, bitsOf]
  simpa using hreg

/-! ### The counterexample -/

/-- The record of an EXCHANGE of group 0 without a round: its own records lie at 0x1C000, and the area is to be written at 0x1A000. -/
def exchangeRecord : List Byte :=
  [1, 1] ++ List.replicate 22 0 ++ bytesLE 8 0x1A000 ++ List.replicate 8 0 ++ bytesLE 8 0x1C000 ++ List.replicate 80 0

/-- A group in which this WG9 alone is present. -/
def aloneGroup : Group := { state := 1, members := [{ node := 1, site := 1, present := true, hall := 0, rack := 0, tray := 0, ep := 0 }] }

/-- Two regions of HBM that every station may read and write; the request at the ring's first slot; behind it two cells of storage out of their order. The
swaps, the frame at the door and the line without modules tell a state without marks. -/
def unsorted : State :=
  let s : State := {
    regn := { tables := [[(0, { valid := true, len := 0x10000, mode := 1, kind := 4, read := 0xFFFF, write := 0xFFFF }),
      (1, { valid := true, lbase := 0x10000, len := 0x100000, phys := 0x10000, mode := 1, read := 0xFFFF, write := 0xFFFF })]] }
    mem := memWrite [] 0x1000 exchangeRecord ++ [(0x1A003, 1), (0, 1)]
    coll := { groups := [(0, aloneGroup)] }
    site := { swaps := [(0, 0)] }
    sw := { door := [⟨0, 0, [], [], []⟩] }
    line := { mods := [] } }
  setFld (setN (setBlk s pgCOLL bRUN) R.COLL_RQ_BASE_LO 0x1000) R.COLL_RQ_PTR 27 16 1

/-- The area of the member alone. -/
def ownBytes : List Byte := [0, 0, 0, 0, 1] ++ List.replicate 27 0

/-- The package's next state. -/
def exchanged : State := finish unsorted.pending (fetchOper 1 4096 unsorted)

theorem exec_unsorted : exec .exchange unsorted = .next exchanged := by
  rw [exec_exchange, execExchange, act, actIf, if_pos (by decide +kernel)]
  rfl

/-- Nothing marks the next state, and the write of the area has lost the cell that lay behind it. -/
theorem exchanged_marks : exchanged.job.held = false ∧ exchanged.job.phase = 0 ∧ exchanged.job.aborts = 0 ∧ exchanged.site.swaps = [(0, 0)] ∧
    exchanged.hlth.mirChunks = [] ∧ exchanged.sw.door = [⟨0, 0, [], [], []⟩] ∧ exchanged.line.mods = [] ∧ exchanged.pwr.parked = false ∧ exchanged.pwr.move = none ∧
    (regionsNow exchanged).all (fun x => x.2.kind != 6) = true ∧ memByte exchanged.mem 0 = 0 ∧
    exchanged.regs.all (fun e => e.1 % 0x1000 != oSTAT || e.2.toNat % 8 != bFAULT) = true := by
  decide +kernel

theorem unmarked_exchanged : Unmarked exchanged := by
  obtain ⟨held, phase, aborts, swaps, chunks, door, mods, parked, move, log, -, -⟩ := exchanged_marks
  refine ⟨held, phase, aborts, by rw [swaps]; exact List.cons_ne_nil _ _, chunks, fun h => ?_, mods, parked, move, fun x hx => ?_⟩
  · rw [HeadersAtDoor, door] at h
    exact h _ List.mem_cons_self rfl
  · simpa using List.all_eq_true.1 log x hx

/-- Every effect of the EXCHANGE after which nothing is active has lost byte 0. -/
theorem lost_of_effect {u : State} (h : Effect .exchange unsorted u) (ha : u.coll.active = []) : memByte u.mem 0 = 0 := by
  have he : finish unsorted.pending u = exchanged := (Host.Outcome.next.inj (exec_unsorted.symm.trans h)).symm
  obtain ⟨-, -, -, -, -, -, -, -, -, -, hbyte, hblocks⟩ := exchanged_marks
  have hmem : (finish unsorted.pending u).mem = u.mem := mem_finish ha (he ▸ unmarked_exchanged) (he ▸ blkState_ne_fault hblocks)
  rw [← hmem, he, hbyte]

/-- Refutes O59: its hypotheses on an EXCHANGE allow storage whose cells are not in rising order, and there the write of the area loses a cell that lies
elsewhere. In `unsorted` byte 0, outside the area's 32 bytes at 0x1A000, holds 1, and 0 once the request has completed: every effect with the request gone
has this. What fails is the clause that bytes elsewhere read as before, for want of the hypothesis that storage is in order (`Memory.wf`). -/
theorem not_collectiveRequests : ¬ Obligations.CollectiveRequests := by
  rintro ⟨-, -, h⟩
  obtain ⟨hexchange, -⟩ := h .exchange 1 unsorted exchangeRecord ownBytes 0 0x1A000 (by decide +kernel) (by decide +kernel) (by decide +kernel) rfl rfl rfl rfl rfl rfl
    (by decide +kernel) (by decide +kernel) (by decide +kernel) ⟨rfl, rfl⟩ (by decide +kernel) (by decide +kernel) (by decide +kernel) (by decide +kernel)
    (by decide +kernel) (by decide +kernel) (by decide +kernel) (by decide +kernel) (by decide +kernel) (by decide +kernel)
  obtain ⟨u, heff, hdone, -, hkept⟩ := hexchange rfl rfl (by decide +kernel) ⟨by decide +kernel, by decide +kernel⟩
  have hlost : memByte u.mem 0 = 0 := lost_of_effect heff hdone.1
  have hheld : memByte u.mem 0 = 1 := (hkept 0 (.inl (by decide))).trans (by decide +kernel)
  rw [hlost] at hheld
  exact absurd hheld (by decide)

end Sys2Proof.Proofs
